-- ==== Sys2Proof/Word.lean ====
section
/-! DEFINITION. The word types of the BX9 and their plainest arithmetic (spec 00 R4, R5; 07 R139, R140). -/

namespace Sys2Proof

/-- A 32-bit word: a register, a parcel, the data half of a stored word. -/
abbrev Word := BitVec 32

/-- A byte. -/
abbrev Byte := BitVec 8

/-- A 64-bit value, held in an even-odd register pair (R185). -/
abbrev DWord := BitVec 64

/-- A stored 40-bit word (R139): its 32 data bits, and the difference (exclusive or) between the check it carries
and the GCK of its data. `syn = 0` is a good word, `syn = 0xFF` a poisoned one, any other value a corrupt one (R140). -/
structure CWord where
  data : Word
  syn : Byte
  deriving DecidableEq, Repr, Inhabited

/-- A table from numbers to values: sorted by key, no key twice, absent keys hold the table's default. -/
abbrev Tab (α : Type) := List (Nat × α)

/-- The 64-bit value whose low word is `lo` and high word `hi` (R185). -/
def pairUp (lo hi : Word) : DWord := hi ++ lo

/-- Bits 31:0 of a 64-bit value. -/
def lowWord (x : DWord) : Word := x.extractLsb' 0 32

/-- Bits 63:32 of a 64-bit value. -/
def highWord (x : DWord) : Word := x.extractLsb' 32 32

end Sys2Proof
end

