-- ==== Sys2Proof/Syntax.lean ====
section
/-! DEFINITION. The syntax of the BX9: operand forms, the shapes of forms F and L, the half-instructions of
form P, and the events of the device. One constructor of `Instr` for each row of spec/opcode_table.json. -/

namespace Sys2Proof

/-- Index of a vector register (R175). -/
abbrev VReg := BitVec 8

/-- Index of a scalar register, 0 to 63 (R160). -/
abbrev SReg := BitVec 6

/-- Integer types, in the order of their MOD codes (R206). -/
inductive IntTy where
  | i32 | n32 | i64 | n64 | i16x2 | n16x2 | i8x4 | n8x4
  deriving DecidableEq, Repr

/-- Floating-point types of MOD (R236). -/
inductive FTy where
  | f32 | bf16x2 | f16x2
  deriving DecidableEq, Repr

/-- Rounding modes, in the order of their codes (R190). -/
inductive Rnd where
  | rne | rz | ru | rd
  deriving DecidableEq, Repr

/-- Element formats, in the order of their codes (R167). -/
inductive Fmt where
  | f32 | bf16 | f16 | e4m3 | e5m2 | e2m1 | e8m0 | i32 | n32 | i16 | n16 | i8 | n8 | i64 | n64
  deriving DecidableEq, Repr

/-- Conditions of CMP, FCMP and WAITW (R166). -/
inductive Cond where
  | eq | ne | lt | le | gt | ge
  deriving DecidableEq, Repr

/-- Scopes, in the order of their codes (R168). -/
inductive Scope where
  | core | quad | die | pkg | pod | sys
  deriving DecidableEq, Repr

/-- Coherence policies, in the order of their codes (R168). -/
inductive Policy where
  | own | wt | si | wi
  deriving DecidableEq, Repr

/-- Width of a lane's access: 4, 8 or 16 bytes (R168). -/
inductive Width where
  | w4 | w8 | w16
  deriving DecidableEq, Repr

/-- Ordering suffix of ATOM, RED and FENCE (R168). -/
inductive Order where
  | none | acq | rel | ar
  deriving DecidableEq, Repr

/-- A guard `?vN.b` or `?!vN.b` (R38). -/
structure GuardBit where
  reg : VReg
  bit : BitVec 5
  neg : Bool
  deriving DecidableEq, Repr

/-- The GUARD field; `none` is the all-zero field, unguarded (R159). -/
abbrev Guard := Option GuardBit

/-- A data source: a vector, scalar or neighbour register, or the literal (R159, R164). -/
inductive Src where
  | v (k : VReg) | s (j : SReg) | left (k : VReg) | right (k : VReg) | lit (w : Word)
  deriving DecidableEq, Repr

/-- A destination register (R159). -/
inductive Dst where
  | v (k : VReg) | s (j : SReg)
  deriving DecidableEq, Repr

/-- A value taken from a scalar register or from the literal. -/
inductive SVal where
  | s (j : SReg) | lit (w : Word)
  deriving DecidableEq, Repr

/-- A code offset: OFS18 of form F or the literal of form L (R165). -/
inductive Off where
  | short (o : BitVec 18) | long (o : Word)
  deriving DecidableEq, Repr

structure IntBin where
  ty : IntTy
  guard : Guard
  dst : Dst
  a : Src
  b : Src
  deriving DecidableEq, Repr

structure IntUn where
  ty : IntTy
  guard : Guard
  dst : Dst
  a : Src
  deriving DecidableEq, Repr

structure IntTri where
  ty : IntTy
  guard : Guard
  dst : VReg
  a : Src
  b : Src
  c : VReg
  deriving DecidableEq, Repr

structure CmpOp where
  cond : Cond
  ty : IntTy
  guard : Guard
  dst : Dst
  bit : BitVec 5
  a : Src
  b : Src
  deriving DecidableEq, Repr

structure FCmpOp where
  cond : Cond
  ty : FTy
  guard : Guard
  dst : Dst
  bit : BitVec 5
  a : Src
  b : Src
  deriving DecidableEq, Repr

/-- Width of SEL: words, or pairs with a sign- or zero-extended literal (R216). -/
inductive SelTy where
  | word | i64 | n64
  deriving DecidableEq, Repr

structure SelOp where
  ty : SelTy
  reg : VReg
  bit : BitVec 5
  inv : Bool
  dst : VReg
  a : Src
  b : Src
  deriving DecidableEq, Repr

/-- The operation of BITOP; `.and` and `.or` name the source bit (R217). -/
inductive BitKind where
  | set | clr | flip | and (s : Src) (c : BitVec 5) | or (s : Src) (c : BitVec 5)
  deriving DecidableEq, Repr

structure BitOp where
  kind : BitKind
  guard : Guard
  dst : Dst
  bit : BitVec 5
  deriving DecidableEq, Repr

inductive ShflMode where
  | idx | xor | up | down
  deriving DecidableEq, Repr

structure ShflOp where
  mode : ShflMode
  pair : Bool
  guard : Guard
  dst : VReg
  a : Src
  b : Src
  deriving DecidableEq, Repr

inductive VoteKind where
  | any | all | ballot
  deriving DecidableEq, Repr

structure VoteOp where
  kind : VoteKind
  bit : BitVec 5
  guard : Guard
  dst : SReg
  a : Src
  deriving DecidableEq, Repr

/-- Operations of WRED and WSCAN (R166). -/
inductive RedKind where
  | add | min | max | and | or | xor
  deriving DecidableEq, Repr

/-- Types of WRED and WSCAN: four integer types and FP32 (R220). -/
inductive RedTy where
  | i32 | n32 | i64 | n64 | f32
  deriving DecidableEq, Repr

structure WredOp where
  op : RedKind
  ty : RedTy
  guard : Guard
  dst : SReg
  a : Src
  deriving DecidableEq, Repr

structure WscanOp where
  op : RedKind
  ty : RedTy
  excl : Bool
  guard : Guard
  dst : VReg
  a : Src
  deriving DecidableEq, Repr

structure MatchOp where
  pair : Bool
  guard : Guard
  dst : VReg
  a : Src
  deriving DecidableEq, Repr

/-- Rounding of CVT: a directed mode, or stochastic with its random word (R245). -/
inductive CvtMode where
  | rnd (r : Rnd) | sr (rand : Src)
  deriving DecidableEq, Repr

structure CvtOp where
  dfmt : Fmt
  sfmt : Fmt
  mode : CvtMode
  guard : Guard
  dst : VReg
  a : Src
  deriving DecidableEq, Repr

structure PackOp where
  fmt : Fmt
  pos : BitVec 2
  rnd : Rnd
  guard : Guard
  dst : VReg
  a : Src
  b : Src
  deriving DecidableEq, Repr

structure UnpkOp where
  fmt : Fmt
  pos : BitVec 2
  guard : Guard
  dst : VReg
  a : Src
  deriving DecidableEq, Repr

structure MovsrOp where
  idx : BitVec 5
  dst : Dst
  deriving DecidableEq, Repr

structure SetsrOp where
  idx : BitVec 5
  val : SVal
  deriving DecidableEq, Repr

/-- Two-source floating-point shape with a rounding field. -/
structure FBinR where
  ty : FTy
  rnd : Rnd
  guard : Guard
  dst : VReg
  a : Src
  b : Src
  deriving DecidableEq, Repr

structure FBin where
  ty : FTy
  guard : Guard
  dst : VReg
  a : Src
  b : Src
  deriving DecidableEq, Repr

structure FTri where
  ty : FTy
  guard : Guard
  dst : VReg
  a : Src
  b : Src
  c : VReg
  deriving DecidableEq, Repr

structure FUn where
  ty : FTy
  guard : Guard
  dst : VReg
  a : Src
  deriving DecidableEq, Repr

structure FrndOp where
  ty : FTy
  rnd : Rnd
  guard : Guard
  dst : VReg
  a : Src
  deriving DecidableEq, Repr

structure BraOp where
  guard : Guard
  target : Off
  deriving DecidableEq, Repr

structure BrcOp where
  guard : Guard
  target : Word
  join : BitVec 18
  deriving DecidableEq, Repr

structure LinkOp where
  reg : SReg
  target : Off
  deriving DecidableEq, Repr

/-- A 64-bit address base: a vector or scalar pair (R168). -/
inductive Base where
  | v (k : VReg) | s (j : SReg)
  deriving DecidableEq, Repr

/-- Index scale: 1, 4, 8 or 16 (R168). -/
inductive Scale where
  | x1 | x4 | x8 | x16
  deriving DecidableEq, Repr

/-- A global address `[base + idx*s + off]`; `off` is `some` in form L (R168). Without an index the
scale is ×1, since a field that is not used is zero (R162). -/
structure GAddr where
  base : Base
  idx : Option Dst
  scale : Scale
  off : Option Word
  deriving DecidableEq, Repr

/-- LD, ST, STNT, PREF, LDCK and STCK share these fields (R168); `ord` is `.acq` or `.rel`. -/
structure MemOp where
  pol : Policy
  scope : Scope
  ord : Bool
  width : Width
  guard : Guard
  addr : GAddr
  data : Dst
  deriving DecidableEq, Repr

/-- LDS and STS; in form F the added register is present, in form L it may be (R257). -/
structure StoreOp where
  width : Width
  guard : Guard
  base : SReg
  added : Option Dst
  off : Option Word
  data : Dst
  deriving DecidableEq, Repr

/-- Operations of ATOM, RED and ATOMS, in the order of their codes (R169). -/
inductive AtomKind where
  | addI32 | addI64 | addF32 | minI32 | minN32 | minF32 | maxI32 | maxN32 | maxF32
  | and | or | xor | xchg | xchg64 | cas | cas64 | incw
  deriving DecidableEq, Repr

structure AtomOp where
  kind : AtomKind
  scope : Scope
  ord : Order
  guard : Guard
  base : Base
  off : Option Word
  b : Src
  dst : VReg
  deriving DecidableEq, Repr

structure RedOp where
  kind : AtomKind
  scope : Scope
  ord : Order
  guard : Guard
  base : Base
  off : Option Word
  b : Src
  deriving DecidableEq, Repr

/-- The rest of an ATOMS address: nothing (form F), an offset, or a register and an offset (R258). -/
inductive AtomsAddr where
  | plain | off (o : Word) | added (k : VReg) (o : BitVec 24)
  deriving DecidableEq, Repr

structure AtomsOp where
  kind : AtomKind
  guard : Guard
  base : SReg
  addr : AtomsAddr
  b : Src
  dst : VReg
  deriving DecidableEq, Repr

structure FenceOp where
  ord : Order
  scope : Scope
  deriving DecidableEq, Repr

structure LineOp where
  guard : Guard
  base : Base
  off : Option Word
  deriving DecidableEq, Repr

inductive BarKind where
  | sync | arrive | wait | drop
  deriving DecidableEq, Repr

inductive BarLevel where
  | team | gang | grid | pod
  deriving DecidableEq, Repr

structure BarOp where
  kind : BarKind
  level : BarLevel
  n : BitVec 6
  deriving DecidableEq, Repr

structure WaitOp where
  ld : BitVec 6
  st : BitVec 6
  cp : BitVec 6
  mx : BitVec 6
  nm : BitVec 6
  sf : BitVec 6
  deriving DecidableEq, Repr

/-- The compared value of WAITW: a scalar (form F), or the literal with a word offset (form L) (R265). -/
inductive WaitVal where
  | s (j : SReg) | lit (w : Word) (off : BitVec 10)
  deriving DecidableEq, Repr

structure WaitwOp where
  acq : Bool
  signed : Bool
  cond : Cond
  base : SReg
  val : WaitVal
  deriving DecidableEq, Repr

structure ChamberOp where
  ring : BitVec 5
  chamber : BitVec 3
  deriving DecidableEq, Repr

structure RarvOp where
  at_ : ChamberOp
  long : Bool
  deriving DecidableEq, Repr

structure RwtOp where
  at_ : ChamberOp
  full : Bool
  phase : SVal
  deriving DecidableEq, Repr

structure WakeOp where
  base : SReg
  off : Option Word
  deriving DecidableEq, Repr

/-- Operand types of MMA and MMAO, in the order of their codes (R277). -/
inductive MmaTy where
  | bf16 | f16 | e4m3 | e5m2 | i8 | f32x3 | f32x6
  deriving DecidableEq, Repr

structure MmaOp where
  ty : MmaTy
  acc : BitVec 4
  guard : Guard
  a : SReg
  b : SReg
  deriving DecidableEq, Repr

structure MmaoOp where
  ty : MmaTy
  acc : BitVec 4
  guard : Guard
  a : SReg
  b : SReg
  list : SReg
  deriving DecidableEq, Repr

structure AccOp where
  acc : BitVec 4
  guard : Guard
  deriving DecidableEq, Repr

structure AccMemOp where
  acc : BitVec 4
  guard : Guard
  addr : SReg
  deriving DecidableEq, Repr

/-- Drain formats of TDRN, in the order of their codes (R277). -/
inductive DrainFmt where
  | f32 | bf16 | f16 | e4m3 | mxe4m3 | mxe2m1
  deriving DecidableEq, Repr

structure TdrnOp where
  fmt : DrainFmt
  acc : BitVec 4
  guard : Guard
  dst : SReg
  scales : Option SReg
  deriving DecidableEq, Repr

/-- ACSC, ACMX and ACEX: a tile and a vector register (R277). -/
structure AccVecOp where
  acc : BitVec 4
  guard : Guard
  reg : Src
  deriving DecidableEq, Repr

/-- Notification of a copy or collective: none, a word, or a ring chamber (R290). -/
inductive Notify where
  | none | word (base : SReg) (off : Option Word) | ring (r : BitVec 5) (c : BitVec 3)
  deriving DecidableEq, Repr

structure CopyOp where
  layout : SReg
  g : Base
  store : SReg
  notify : Notify
  guard : Guard
  deriving DecidableEq, Repr

structure CollOp where
  desc : SReg
  notify : Notify
  deriving DecidableEq, Repr

structure SregOp where
  h : BitVec 4
  d : SReg
  deriving DecidableEq, Repr

structure SldOp where
  h : BitVec 4
  p : SReg
  dst : VReg
  deriving DecidableEq, Repr

structure SstOp where
  h : BitVec 4
  p : SReg
  src : VReg
  deriving DecidableEq, Repr

/-- Modes of SHRD; `.smp` and `.thr` name sU (R134). -/
inductive ShrdMode where
  | max | smp (u : SReg) | thr (u : SReg)
  deriving DecidableEq, Repr

structure ShrdOp where
  h : BitVec 4
  mode : ShrdMode
  addr : Bool
  dst : SReg
  p : SReg
  deriving DecidableEq, Repr

structure SldaOp where
  h : BitVec 4
  o : SReg
  p : SReg
  g : VReg
  deriving DecidableEq, Repr

structure SstaOp where
  h : BitVec 4
  dst : VReg
  p : SReg
  o : SReg
  deriving DecidableEq, Repr

structure ScmtOp where
  h : BitVec 4
  rev : Bool
  deriving DecidableEq, Repr

structure SnrmOp where
  smax : Bool
  p : SReg
  deriving DecidableEq, Repr

structure CkgenOp where
  guard : Guard
  dst : VReg
  a : Src
  deriving DecidableEq, Repr

structure CktstOp where
  guard : Guard
  dst : VReg
  a : Src
  b : Src
  deriving DecidableEq, Repr

structure LnchOp where
  idx : SReg
  record : SReg
  q : SVal
  deriving DecidableEq, Repr

/-- What TLBI invalidates (R304). -/
inductive TlbiKind where
  | page (a : SReg) | ctx (c : SReg) | all
  deriving DecidableEq, Repr

/-- Fields of the first half of a pair and the raw word of the second half (R171). -/
structure HalfOp where
  d : BitVec 8
  a : BitVec 8
  b : BitVec 8
  second : Word
  deriving DecidableEq, Repr

/-- What a fabric request asks of this device (R357). -/
inductive FabKind where
  | read (n : Nat) | write (ws : List CWord) | atomic (red : Bool) (k : AtomKind) (b : List CWord) (d : List CWord)
  deriving DecidableEq, Repr

/-- A request that arrives over the Thilos fabric: source device, the port it arrives at, fabric address bits 40:0, request
(R357). -/
structure FabReq where
  src : Nat
  port : Nat
  addr : BitVec 41
  kind : FabKind
  deriving DecidableEq, Repr

/-- What another participant of a collective instance supplies: rank, OP code, COUNT, ROOT and the words of
its input that the block at hand needs (R294, R295). -/
structure CollPeer where
  rank : Nat
  op : Nat
  count : Nat
  root : Nat
  words : List CWord
  deriving DecidableEq, Repr

/-- The parcels of a word that is no instruction: the first, and those that follow it (08 R158). -/
structure IllegalWord where
  p0 : Word
  rest : List Word
  deriving DecidableEq, Repr

/-- A request that reaches its home, and whether reading its entry finds an uncorrectable error (04 R84). -/
structure HomeTurn where
  req : Nat
  dirErr : Bool
  deriving DecidableEq, Repr

/-- A commit, and the physical address of a slot whose next word it writes (06 R121). -/
structure CommitTurn where
  commit : Nat
  pa : Nat
  deriving DecidableEq, Repr

/-- A copy, and the words that it moves: all that are left of its rows where none is named (13 R291). -/
structure CopyTurn where
  copy : Nat
  words : List Nat
  deriving DecidableEq, Repr

/-- A plough or a part, and how many words of its step it writes, at least one (05 R113). -/
structure PloughTurn where
  id : Nat
  words : Nat
  deriving DecidableEq, Repr

/-- The instructions and the events of the device. -/
inductive Instr where
  -- integer group (R205 to R214)
  | add (o : IntBin) | sub (o : IntBin) | adds (o : IntBin) | subs (o : IntBin)
  | mul (o : IntBin) | mulh (o : IntBin) | mad (o : IntTri) | madw (o : IntTri)
  | div (o : IntBin) | rem (o : IntBin) | min (o : IntBin) | max (o : IntBin)
  | abs (o : IntUn) | neg (o : IntUn) | and (o : IntBin) | or (o : IntBin)
  | xor (o : IntBin) | andn (o : IntBin) | not (o : IntUn) | shl (o : IntBin)
  | shr (o : IntBin) | sar (o : IntBin) | rotl (o : IntBin) | funs (o : IntTri)
  | popc (o : IntUn) | clz (o : IntUn) | ctz (o : IntUn) | brev (o : IntUn)
  | bfx (o : IntTri) | bfi (o : IntTri) | lea (o : IntTri) | mov (o : IntUn)
  -- compare, select, lanes, conversion, special registers
  | cmp (o : CmpOp) | fcmp (o : FCmpOp) | sel (o : SelOp) | bitop (o : BitOp)
  | shfl (o : ShflOp) | vote (o : VoteOp) | wred (o : WredOp) | wscan (o : WscanOp)
  | matchLanes (o : MatchOp) | cvt (o : CvtOp) | pack (o : PackOp) | unpk (o : UnpkOp)
  | frnd (o : FrndOp) | movsr (o : MovsrOp) | setsr (o : SetsrOp)
  -- floating-point group
  | fadd (o : FBinR) | fsub (o : FBinR) | fmul (o : FBinR) | ffma (o : FTri)
  | fmin (o : FBin) | fmax (o : FBin) | fabs (o : FUn) | fneg (o : FUn)
  | fcps (o : FBin) | fclass (o : FUn) | fdiv (o : FBinR) | fscl (o : FBinR)
  | fxtr (o : FUn) | fdot2 (o : FTri) | fsat (o : FUn)
  -- functions
  | exp2 (o : FUn) | log2 (o : FUn) | rcp (o : FUn) | rsq (o : FUn) | sqrt (o : FUn)
  | sinp (o : FUn) | cosp (o : FUn) | tanh (o : FUn) | sigm (o : FUn) | erf (o : FUn)
  | exp (o : FUn) | loge (o : FUn) | gelu (o : FUn) | silu (o : FUn)
  -- control
  | bra (o : BraOp) | brc (o : BrcOp) | join | call (o : LinkOp) | ret (j : SReg) | jmpi (j : SReg)
  | loop (o : LinkOp) | exit (g : Guard) | yield | nop | sleep (c : SVal)
  -- memory
  | ld (o : MemOp) | st (o : MemOp) | stnt (o : MemOp) | lds (o : StoreOp) | sts (o : StoreOp)
  | ldck (o : MemOp) | stck (o : MemOp) | pref (o : MemOp) | atom (o : AtomOp) | red (o : RedOp)
  | atoms (o : AtomsOp) | fence (o : FenceOp) | drnt | redf (sc : Scope) | invl (o : LineOp)
  | wbl (o : LineOp) | rsync
  -- synchronisation
  | bar (o : BarOp) | wait (o : WaitOp) | waitw (o : WaitwOp) | rarv (o : RarvOp) | rwt (o : RwtOp)
  | tflag (t : SVal) | wake (o : WakeOp)
  -- near bank
  | nbsa (accd : Bool) (d : SReg) | nbcp (d : SReg) | nbzr (d : SReg) | nbopt (d : SReg) | nbfn
  -- matrix
  | mma (o : MmaOp) | mmao (o : MmaoOp) | acz (o : AccOp) | acld (o : AccMemOp) | acst (o : AccMemOp)
  | tdrn (o : TdrnOp) | acsc (o : AccVecOp) | acmx (o : AccVecOp) | acex (o : AccVecOp)
  -- copy and collectives
  | cpt (o : CopyOp) | cpg (o : CopyOp) | cps (o : CopyOp) | cpq (d : SReg)
  | card (o : CollOp) | cagt (o : CollOp) | cata (o : CollOp) | cbct (o : CollOp)
  -- soft memory
  | sreg (o : SregOp) | sld (o : SldOp) | sst (o : SstOp) | shrd (o : ShrdOp) | slda (o : SldaOp)
  | ssta (o : SstaOp) | scmt (o : ScmtOp) | snrm (o : SnrmOp)
  -- integrity and system
  | sigchk (v : Word) | sigrd (d : SReg) | ckgen (o : CkgenOp) | cktst (o : CktstOp)
  | trap (v : SVal) | rett (skip : Bool) | lnch (o : LnchOp) | prgs (v : SVal) | bkpt (v : SVal)
  | tlbi (k : TlbiKind) | halt
  -- pairs, named by their first half
  | halfMov (o : HalfOp) | halfMovi (o : HalfOp) | halfAdd (o : HalfOp) | halfAddi (o : HalfOp)
  | halfSub (o : HalfOp) | halfAnd (o : HalfOp) | halfOr (o : HalfOp) | halfXor (o : HalfOp)
  | halfShli (o : HalfOp) | halfShri (o : HalfOp) | halfSari (o : HalfOp) | halfMin (o : HalfOp)
  | halfMax (o : HalfOp) | halfMul (o : HalfOp) | halfFadd (o : HalfOp) | halfFsub (o : HalfOp)
  | halfFmul (o : HalfOp) | halfFmac (o : HalfOp) | halfFmin (o : HalfOp) | halfFmax (o : HalfOp)
  | halfHadd (o : HalfOp) | halfHmul (o : HalfOp) | halfHmac (o : HalfOp) | halfCvtf (o : HalfOp)
  | halfCvti (o : HalfOp) | halfNot (o : HalfOp) | halfAbs (o : HalfOp) | halfFabs (o : HalfOp)
  | halfFneg (o : HalfOp) | halfNop (o : HalfOp)
  -- a word that is no instruction
  | illegalInstructionWord (x : IllegalWord)
  -- events of a warp's memory path
  | loadValueLands (op : Nat) (remote : List CWord) | storeAcknowledged (op : Nat)
  | acquireCompletes (acq : Nat) | releaseWaitEnds (op : Nat) | gangRelaunch (gang : Nat)
  -- events of homes, the Towpath and the L1
  | homeRSi (req : Nat) (dirErr : Bool) | homeRWi (req : Nat) (dirErr : Bool)
  | homeOwn (req : Nat) (dirErr : Bool) | homeWrh (req : Nat) (dirErr : Bool)
  | homeSur (r : HomeTurn) | recallWriteback (wb : Nat) (dirErr : Bool) | noticeInjection (ch : Nat)
  | towpathInv | towpathRcw | towpathRca | fillArrives (msg : Nat) | grantArrives (msg : Nat)
  | homeAtomic (r : HomeTurn)
  -- waiting slots
  | waitwReevaluation (warp : Nat) (slot : Bool) | waitwPoll (warp : Nat) (slot : Bool)
  | watchEntryTaken (warp : Nat) (slot : Bool) | sleepExpiry (warp : Nat) (slot : Bool)
  | yieldTimeout (warp : Nat) (slot : Bool)
  -- soft memory, copies, collectives
  | softEntryStaged (op : Nat) | commitArrival (op : Nat) | scmtCompletes (c : CommitTurn)
  | copyRow (c : CopyTurn) | copyCompletes (copy : Nat)
  | collectiveBlock (inst : Nat) (peers : List CollPeer) | collectiveCompletes (inst : Nat)
  -- ploughs
  | ploughPartAccepted (part : Nat) | ploughRowStep (p : PloughTurn) | ploughPartCompletes (part : Nat)
  | crossChannelGranule (p : PloughTurn)
  -- matrix units
  | matrixOperationStart (core : Nat) (side : Bool) | matrixOperationFinishes (core : Nat) (side : Bool)
  | mxCounterFall (op : Nat) | arrayStaggeredStart (core : Nat)
  -- the Sower
  | launchRecordTaken (part : Nat) (image : List (Nat × Word)) | teamPlacement (part : Nat) | l1Resize (core : Nat) (units : Nat)
  | registerCompaction (core : Nat) | planeSwap (core : Nat) | deadlinePreemption (part : Nat)
  | teamSave (team : Nat) | teamRestore (team : Nat) | gridBarrierRotation (grid : Nat)
  | podBarrierMessage (part group rank : Nat) (n : BitVec 6) (arrivals drops : Nat)
  | podPhaseCompletion (part group : Nat) (n : BitVec 6) | gridCompletes (grid : Nat)
  -- translation, faults and the driver
  | pageWalk (walk : Nat) | faultRecordWrite (part : Nat) | fqhead (part : Nat) (v : Word)
  | resumeRetry (part : Nat) (v : Word) | resumeError (part : Nat) (v : Word)
  | resumeDiscard (part : Nat) (v : Word) | prdead (part : Nat) (d : Word)
  | invctlPage (part : Nat) (v : Word) | invctlContext (part : Nat) (v : Word)
  | invctlAll (part : Nat) (v : Word) | invalidationCompletes (inv : Nat)
  | registerWrite (mgmt : Bool) (off : BitVec 24) (v : Word)
  | hostWrite (pa : Nat) (ws : List Word) | hostRead (pa : Nat) (n : Nat)
  | fabricRequest (r : FabReq) | thilosLinkDown (port : Nat) (peer : Nat)
  -- the fleet's registers and the device's power
  | retire (mgmt : Bool) (v : Word) | eridx (mgmt : Bool) (v : Word) | attestationGo (mgmt : Bool) (v : Word)
  | attestationDone | firmwareStage (mgmt : Bool) (v : Word) | firmwareStagingDone
  | szlrel (mgmt : Bool) (v : Word) | powerCheck (watts : Nat) (temp : Nat) | trip (thermal : Bool) (v : Nat)
  | reset (cause : Nat) | quadPowerUp (quad : Nat)
  | retirementCompletes | standbyPowerLoss | podRegistration (part group : Nat) (rank count : Nat)
  deriving DecidableEq, Repr

/-- A move of the machine: some cycles pass, then a scheduler of a core issues, or an event happens. -/
inductive Move where
  | issue (dt : Nat) (core : Nat) (sched : Nat)
  | event (dt : Nat) (e : Instr)
  deriving DecidableEq, Repr, Inhabited

end Sys2Proof
end

