-- ==== Sys2Proof/WellFormed.lean ====
section
/-! DEFINITION. Which instructions the encoding tables admit (spec 08 R160 to R170, R206, R236, R246, R248 and the
entries): types, register spaces, even registers, guards, reserved combinations. Limits that depend on the running
warp (`.regs`, `.acc`, `.soft`, trap mode) are checked when the instruction issues. -/

namespace Sys2Proof

/-- The code of an integer type in MOD (R206). -/
def IntTy.code : IntTy → BitVec 3
  | .i32 => 0 | .n32 => 1 | .i64 => 2 | .n64 => 3 | .i16x2 => 4 | .n16x2 => 5 | .i8x4 => 6 | .n8x4 => 7

def IntTy.is64 : IntTy → Bool
  | .i64 | .n64 => true
  | _ => false

def IntTy.isSigned : IntTy → Bool
  | .i32 | .i64 | .i16x2 | .i8x4 => true
  | _ => false

/-- One of MOD 0 to 3: a type that is not packed. -/
def IntTy.unpacked : IntTy → Bool
  | .i32 | .n32 | .i64 | .n64 => true
  | _ => false

def IntTy.is32 : IntTy → Bool
  | .i32 | .n32 => true
  | _ => false

def Src.isLit : Src → Bool
  | .lit _ => true
  | _ => false

/-- A scalar register or the literal: the sources of a scalar-class instruction (R205). -/
def Src.isScalar : Src → Bool
  | .s _ | .lit _ => true
  | _ => false

/-- A vector register, of this lane or a neighbour. -/
def Src.isVector : Src → Bool
  | .v _ | .left _ | .right _ => true
  | _ => false

/-- An even register, or no register at all (R160). -/
def Src.isEven : Src → Bool
  | .v k | .left k | .right k => !k.getLsbD 0
  | .s j => !j.getLsbD 0
  | .lit _ => true

def Dst.isEven : Dst → Bool
  | .v k => !k.getLsbD 0
  | .s j => !j.getLsbD 0

def Dst.isScalar : Dst → Bool
  | .s _ => true
  | .v _ => false

def Base.isEven : Base → Bool
  | .v k => !k.getLsbD 0
  | .s j => !j.getLsbD 0

/-- The all-zero GUARD field means unguarded, so `?v0.0` is no guard (R38, R159). -/
def guardOk (g : Guard) : Bool := g != some ⟨0, 0, false⟩

/-- Where an integer opcode has 64-bit positions (R206). -/
structure Wide where
  d : Bool
  a : Bool
  b : Bool
  c : Bool
  deriving DecidableEq, Repr

/-- A scalar DST takes only scalar or literal sources and no guard; a vector DST takes any (R160, R161, R205). -/
def scalarFormOk (dst : Dst) (guard : Guard) (srcs : List Src) (allowed : Bool) : Bool :=
  if dst.isScalar then allowed && guard == none && srcs.all Src.isScalar else guardOk guard

def IntBin.wf (o : IntBin) (types : IntTy → Bool) (wideB : Bool) : Bool :=
  types o.ty && !o.a.isLit && scalarFormOk o.dst o.guard [o.a, o.b] true &&
  (!o.ty.is64 || (o.dst.isEven && o.a.isEven && (!wideB || o.b.isEven)))

def IntUn.wf (o : IntUn) (types : IntTy → Bool) (wideD : Bool) : Bool :=
  types o.ty && scalarFormOk o.dst o.guard [o.a] true &&
  (!o.ty.is64 || ((!wideD || o.dst.isEven) && o.a.isEven))

/-- DESIGN CHOICE (log 121): LEA's operands, which R206 calls base and index, are data sources for R160, so neighbours are
allowed in them as in the other opcodes of this form. -/
def IntTri.wf (o : IntTri) (types : IntTy → Bool) (wide : Wide) : Bool :=
  types o.ty && !o.a.isLit && guardOk o.guard &&
  (!wide.d || !o.dst.getLsbD 0) && (!wide.a || o.a.isEven) && (!wide.b || o.b.isEven) &&
  (!wide.c || !o.c.getLsbD 0)

/-- All types, and the subsets the opcodes take (R206). -/
def anyTy (_ : IntTy) : Bool := true

/-- CMP (R215). -/
def CmpOp.wf (o : CmpOp) : Bool :=
  o.ty.unpacked && !o.a.isLit && scalarFormOk o.dst o.guard [o.a, o.b] true &&
  (!o.ty.is64 || (o.a.isEven && o.b.isEven))

/-- FCMP (R243): an odd bit with a packed type is reserved. -/
def FCmpOp.wf (o : FCmpOp) : Bool :=
  !o.a.isLit && scalarFormOk o.dst o.guard [o.a, o.b] true && (o.ty == .f32 || !o.bit.getLsbD 0)

/-- SEL (R216). -/
def SelOp.wf (o : SelOp) : Bool :=
  !o.a.isLit && (o.ty == .word || (!o.dst.getLsbD 0 && o.a.isEven && o.b.isEven))

/-- The source register of BITOP.and and .or: no neighbour, no literal (R160, R217). -/
def bitSrcOk : Src → Bool
  | .v _ | .s _ => true
  | _ => false

/-- BITOP (R217). -/
def BitOp.wf (o : BitOp) : Bool :=
  match o.kind with
  | .and s _ | .or s _ => bitSrcOk s && scalarFormOk o.dst o.guard [s] true
  | _ => scalarFormOk o.dst o.guard [] true

def ShflOp.wf (o : ShflOp) : Bool :=
  guardOk o.guard && !o.a.isLit && (!o.pair || (!o.dst.getLsbD 0 && o.a.isEven))

def VoteOp.wf (o : VoteOp) : Bool := guardOk o.guard && o.a.isVector

/-- The types of WRED and WSCAN: `.f32` takes add, min and max only (R220). -/
def redTyOk (op : RedKind) (ty : RedTy) : Bool :=
  match ty, op with
  | .f32, .and | .f32, .or | .f32, .xor => false
  | _, _ => true

def RedTy.is64 : RedTy → Bool
  | .i64 | .n64 => true
  | _ => false

def WredOp.wf (o : WredOp) : Bool :=
  guardOk o.guard && o.a.isVector && redTyOk o.op o.ty && (!o.ty.is64 || (!o.dst.getLsbD 0 && o.a.isEven))

def WscanOp.wf (o : WscanOp) : Bool :=
  guardOk o.guard && o.a.isVector && redTyOk o.op o.ty && (!o.ty.is64 || (!o.dst.getLsbD 0 && o.a.isEven))

def MatchOp.wf (o : MatchOp) : Bool := guardOk o.guard && o.a.isVector && (!o.pair || o.a.isEven)

def Fmt.isInt : Fmt → Bool
  | .i32 | .n32 | .i16 | .n16 | .i8 | .n8 | .i64 | .n64 => true
  | _ => false

def Fmt.is64 : Fmt → Bool
  | .i64 | .n64 => true
  | _ => false

/-- The pairs CVT accepts (R246). -/
def cvtPair (src dst : Fmt) : Bool :=
  src != dst &&
  match src with
  | .f32 => dst == .bf16 || dst == .f16 || dst == .e4m3 || dst == .e5m2 || dst == .e2m1 || dst == .e8m0 || dst.isInt
  | .bf16 | .f16 =>
    dst == .f32 || dst == .bf16 || dst == .f16 || dst == .e4m3 || dst == .e5m2 || dst == .e2m1 || dst.isInt
  | .e4m3 | .e5m2 | .e2m1 =>
    dst == .f32 || dst == .bf16 || dst == .f16 || dst == .e4m3 || dst == .e5m2 || dst == .e2m1
  | .e8m0 => dst == .f32
  | _ => dst == .f32 || dst == .bf16 || dst == .f16 || dst.isInt

/-- Stochastic rounding is marked for these pairs only (R246). -/
def cvtSr (src dst : Fmt) : Bool :=
  src == .f32 && (dst == .bf16 || dst == .f16 || dst == .e4m3 || dst == .e5m2 || dst == .e2m1)

def CvtOp.wf (o : CvtOp) : Bool :=
  guardOk o.guard && cvtPair o.sfmt o.dfmt && !o.a.isLit &&
  (!o.sfmt.is64 || o.a.isEven) && (!o.dfmt.is64 || !o.dst.getLsbD 0) &&
  match o.mode with
  | .rnd _ => true
  | .sr _ => cvtSr o.sfmt o.dfmt

/-- Largest position of PACK and UNPK for a format; none where the format is reserved (R248). -/
def packMax : Fmt → Option Nat
  | .bf16 | .f16 | .i16 | .n16 => some 0
  | .e4m3 | .e5m2 | .e8m0 | .i8 | .n8 => some 1
  | .e2m1 => some 3
  | _ => none

def packOk (f : Fmt) (pos : BitVec 2) : Bool :=
  match packMax f with
  | some m => pos.toNat ≤ m
  | none => false

def PackOp.wf (o : PackOp) : Bool := guardOk o.guard && packOk o.fmt o.pos && !o.a.isLit && !o.b.isLit

def UnpkOp.wf (o : UnpkOp) : Bool := guardOk o.guard && packOk o.fmt o.pos && !o.a.isLit && !o.dst.getLsbD 0

/-- LANE has no scalar form (R176). -/
def MovsrOp.wf (o : MovsrOp) : Bool := !(o.idx == 0 && o.dst.isScalar)

/-- Registers that SETSR may write, CAUSE and TVAL in trap mode (R223). -/
def SetsrOp.wf (o : SetsrOp) : Bool :=
  o.idx == 18 || o.idx == 19 || o.idx == 20 || o.idx == 24 || o.idx == 29 || o.idx == 30 || o.idx == 31

def FBinR.wf (o : FBinR) : Bool := guardOk o.guard && !o.a.isLit
def FBin.wf (o : FBin) : Bool := guardOk o.guard && !o.a.isLit
def FTri.wf (o : FTri) (dot : Bool) : Bool := guardOk o.guard && !o.a.isLit && !(dot && o.ty == .f32)
def FUn.wf (o : FUn) : Bool := guardOk o.guard && !o.a.isLit
def FrndOp.wf (o : FrndOp) : Bool := guardOk o.guard && !o.a.isLit

/-- A join offset below 3 is reserved (R226). -/
def BrcOp.wf (o : BrcOp) : Bool := guardOk o.guard && 3 ≤ o.join.toNat

/-- An index is a vector or scalar register; the base is an even pair (R160, R168). -/
def GAddr.wf (a : GAddr) : Bool := a.base.isEven && (a.idx.isSome || a.scale == .x1)

/-- Data registers of an access of a width (R253). -/
def dataOk (w : Width) (d : Dst) : Bool :=
  match w, d with
  | .w4, _ => true
  | .w8, d => d.isEven
  | .w16, .v k => k.toNat % 4 == 0
  | .w16, .s j => j.toNat % 4 == 0

def MemOp.wf (o : MemOp) : Bool := guardOk o.guard && o.addr.wf && dataOk o.width o.data
def MemOp.wfLoad (o : MemOp) : Bool := o.wf && !o.data.isScalar
def MemOp.wfStnt (o : MemOp) : Bool := o.wf && o.pol == .wt && !o.ord
def MemOp.wfLdck (o : MemOp) : Bool := guardOk o.guard && o.addr.wf && o.width == .w4 && !o.data.isScalar && o.data.isEven
def MemOp.wfStck (o : MemOp) : Bool := guardOk o.guard && o.addr.wf && o.width == .w4 && o.pol == .wt && o.data.isEven
def MemOp.wfPref (o : MemOp) : Bool := guardOk o.guard && o.addr.wf && !o.ord && o.data == .v 0

/-- LDS and STS: the added register is there in form F; in form L an XB of zero means none, so `v0` is not added
(R257). -/
def StoreOp.wf (o : StoreOp) (load : Bool) : Bool :=
  guardOk o.guard && dataOk o.width o.data && !(load && o.data.isScalar) &&
  match o.off with
  | none => o.added != none
  | some _ => o.added != some (.v 0)

def AtomKind.is64 : AtomKind → Bool
  | .addI64 | .xchg64 | .cas64 => true
  | _ => false

def AtomKind.isCas : AtomKind → Bool
  | .cas | .cas64 => true
  | _ => false

/-- Operations RED does not take (R169). -/
def AtomKind.redOk : AtomKind → Bool
  | .xchg | .xchg64 | .cas | .cas64 | .incw => false
  | _ => true

def AtomOp.wf (o : AtomOp) : Bool :=
  guardOk o.guard && o.base.isEven && !o.b.isLit && (!o.kind.is64 || (o.b.isEven && !o.dst.getLsbD 0))

def RedOp.wf (o : RedOp) : Bool :=
  guardOk o.guard && o.base.isEven && !o.b.isLit && o.kind.redOk && o.ord != .acq && (!o.kind.is64 || o.b.isEven)

def AtomsOp.wf (o : AtomsOp) : Bool := guardOk o.guard && !o.b.isLit && !o.kind.is64

def LineOp.wf (o : LineOp) : Bool := guardOk o.guard && o.base.isEven

/-- MMAO has no `.i8`; its list is an even pair (R277). -/
def MmaoOp.wf (o : MmaoOp) : Bool := guardOk o.guard && o.ty != .i8 && !o.list.getLsbD 0

def DrainFmt.isMx : DrainFmt → Bool
  | .mxe4m3 | .mxe2m1 => true
  | _ => false

def TdrnOp.wf (o : TdrnOp) : Bool := guardOk o.guard && (o.scales.isSome == o.fmt.isMx)

def AccVecOp.wfSrc (o : AccVecOp) : Bool := guardOk o.guard && o.reg.isVector
def AccVecOp.wfDst (o : AccVecOp) : Bool :=
  guardOk o.guard && match o.reg with
    | .v _ => true
    | _ => false

/-- CPT takes no guard; CPG and CPS name their rows in a vector pair (R290). -/
def CopyOp.wf (o : CopyOp) (lanes : Bool) : Bool :=
  o.g.isEven && guardOk o.guard && if lanes then (match o.g with | .v _ => true | .s _ => false) else o.guard == none

def ShrdOp.wf (o : ShrdOp) : Bool := !o.p.getLsbD 0 && (!o.addr || !o.dst.getLsbD 0)

/-- Fields a half-instruction uses (R172). -/
structure HalfUse where
  d : Bool
  a : Bool
  b : Bool
  /-- D is also read -/
  readsD : Bool
  /-- B is an immediate -/
  imm : Bool
  /-- B is a shift count -/
  shift : Bool
  deriving DecidableEq, Repr

/-- Uses of each half opcode; none where it is reserved (R172). -/
def halfUse (hop : Nat) : Option HalfUse :=
  match hop with
  | 0x00 | 0x17 | 0x18 | 0x19 | 0x1A | 0x1B | 0x1C => some ⟨true, true, false, false, false, false⟩
  | 0x01 => some ⟨true, false, false, false, true, false⟩
  | 0x03 => some ⟨true, true, false, false, true, false⟩
  | 0x08 | 0x09 | 0x0A => some ⟨true, true, false, false, true, true⟩
  | 0x11 | 0x16 => some ⟨true, true, true, true, false, false⟩
  | 0x1D => some ⟨false, false, false, false, false, false⟩
  | 0x02 | 0x04 | 0x05 | 0x06 | 0x07 | 0x0B | 0x0C | 0x0D | 0x0E | 0x0F | 0x10 | 0x12 | 0x13 | 0x14 | 0x15 =>
    some ⟨true, true, true, false, false, false⟩
  | _ => none

/-- A half of a pair: its opcode and fields (R171). -/
structure Half where
  hop : BitVec 6
  d : BitVec 8
  a : BitVec 8
  b : BitVec 8
  deriving DecidableEq, Repr

def Half.ofWord (w : Word) : Half :=
  { hop := w.extractLsb' 24 6, d := w.extractLsb' 16 8, a := w.extractLsb' 8 8, b := w.extractLsb' 0 8 }

/-- Registers a half reads (R172). -/
def Half.reads (h : Half) : List VReg :=
  match halfUse h.hop.toNat with
  | some u => (if u.a then [h.a] else []) ++ (if u.b then [h.b] else []) ++ (if u.readsD then [h.d] else [])
  | none => []

/-- The register a half writes. -/
def Half.writes (h : Half) : List VReg :=
  match halfUse h.hop.toNat with
  | some u => if u.d then [h.d] else []
  | none => []

/-- A half whose opcode is not reserved and whose unused fields are zero (R172, R173). -/
def Half.fieldsOk (h : Half) : Bool :=
  match halfUse h.hop.toNat with
  | some u =>
    (u.d || h.d == 0) && (u.a || h.a == 0) && (u.b || u.imm || h.b == 0) && (!u.shift || h.b.toNat < 32)
  | none => false

/-- No bank group is read by both halves, and no register written by both (R173). -/
def halvesApart (x y : Half) : Bool :=
  x.reads.all (fun k => y.reads.all (fun l => k.toNat % 8 != l.toNat % 8)) &&
  x.writes.all (fun k => y.writes.all (fun l => k != l))

/-- The pair of a first half and a second word is not malformed, but for the `.regs` limit (R173). -/
def pairOk (x : Half) (second : Word) : Bool :=
  second.extractLsb' 30 2 == 1#2 && x.fieldsOk && (Half.ofWord second).fieldsOk &&
  halvesApart x (Half.ofWord second)

def HalfOp.half (o : HalfOp) (hop : BitVec 6) : Half := ⟨hop, o.d, o.a, o.b⟩

def HalfOp.wf (o : HalfOp) (hop : BitVec 6) : Bool := pairOk (o.half hop) o.second

/-- An instruction that the encoding tables admit. Events have no encoding and are always well formed. -/
def Instr.wf : Instr → Bool
  | .add o | .sub o | .adds o | .subs o | .mul o | .min o | .max o | .and o | .or o | .xor o | .andn o =>
    o.wf anyTy true
  | .mulh o | .div o | .rem o => o.wf IntTy.unpacked true
  | .shl o | .shr o | .sar o | .rotl o => o.wf anyTy false
  | .abs o => o.wf IntTy.isSigned true
  | .neg o | .not o | .brev o | .mov o => o.wf anyTy true
  | .popc o | .clz o | .ctz o => o.wf anyTy false
  | .mad o => o.wf anyTy ⟨o.ty.is64, o.ty.is64, o.ty.is64, o.ty.is64⟩
  | .madw o => o.wf IntTy.is32 ⟨true, false, false, true⟩
  | .funs o => o.wf IntTy.is32 ⟨false, false, false, false⟩
  | .bfx o => o.wf IntTy.unpacked ⟨o.ty.is64, o.ty.is64, false, false⟩
  | .bfi o => o.wf IntTy.unpacked ⟨o.ty.is64, o.ty.is64, false, o.ty.is64⟩
  | .lea o => o.wf IntTy.unpacked ⟨o.ty.is64, o.ty.is64, false, false⟩
  | .cmp o => o.wf
  | .fcmp o => o.wf
  | .sel o => o.wf
  | .bitop o => o.wf
  | .shfl o => o.wf
  | .vote o => o.wf
  | .wred o => o.wf
  | .wscan o => o.wf
  | .matchLanes o => o.wf
  | .cvt o => o.wf
  | .pack o => o.wf
  | .unpk o => o.wf
  | .frnd o => o.wf
  | .movsr o => o.wf
  | .setsr o => o.wf
  | .fadd o | .fsub o | .fmul o | .fdiv o | .fscl o => o.wf
  | .ffma o => o.wf false
  | .fdot2 o => o.wf true
  | .fmin o | .fmax o | .fcps o => o.wf
  | .fabs o | .fneg o | .fclass o | .fxtr o | .fsat o => o.wf
  | .exp2 o | .log2 o | .rcp o | .rsq o | .sqrt o | .sinp o | .cosp o | .tanh o | .sigm o | .erf o | .exp o
  | .loge o | .gelu o | .silu o => o.wf
  | .bra o => guardOk o.guard
  | .brc o => o.wf
  | .exit g => guardOk g
  | .ld o => o.wfLoad
  | .st o => o.wf
  | .stnt o => o.wfStnt
  | .lds o => o.wf true
  | .sts o => o.wf false
  | .ldck o => o.wfLdck
  | .stck o => o.wfStck
  | .pref o => o.wfPref
  | .atom o => o.wf
  | .red o => o.wf
  | .atoms o => o.wf
  | .invl o | .wbl o => o.wf
  | .mma o => guardOk o.guard
  | .mmao o => o.wf
  | .acz o => guardOk o.guard
  | .acld o | .acst o => guardOk o.guard
  | .tdrn o => o.wf
  | .acsc o | .acex o => o.wfSrc
  | .acmx o => o.wfDst
  | .cpt o => o.wf false
  | .cpg o | .cps o => o.wf true
  | .cpq d => !d.getLsbD 0
  | .sld o => !o.p.getLsbD 0
  | .sst o => !o.p.getLsbD 0
  | .shrd o => o.wf
  | .slda o => !o.p.getLsbD 0
  | .ssta o => !o.p.getLsbD 0
  | .snrm o => !o.p.getLsbD 0
  | .sigrd d => !d.getLsbD 0
  | .ckgen o => guardOk o.guard && !o.a.isLit
  | .cktst o => guardOk o.guard && !o.a.isLit && !o.b.isLit
  | .tlbi (.page a) => !a.getLsbD 0
  | .halfMov o => o.wf 0x00 | .halfMovi o => o.wf 0x01 | .halfAdd o => o.wf 0x02 | .halfAddi o => o.wf 0x03
  | .halfSub o => o.wf 0x04 | .halfAnd o => o.wf 0x05 | .halfOr o => o.wf 0x06 | .halfXor o => o.wf 0x07
  | .halfShli o => o.wf 0x08 | .halfShri o => o.wf 0x09 | .halfSari o => o.wf 0x0A | .halfMin o => o.wf 0x0B
  | .halfMax o => o.wf 0x0C | .halfMul o => o.wf 0x0D | .halfFadd o => o.wf 0x0E | .halfFsub o => o.wf 0x0F
  | .halfFmul o => o.wf 0x10 | .halfFmac o => o.wf 0x11 | .halfFmin o => o.wf 0x12 | .halfFmax o => o.wf 0x13
  | .halfHadd o => o.wf 0x14 | .halfHmul o => o.wf 0x15 | .halfHmac o => o.wf 0x16 | .halfCvtf o => o.wf 0x17
  | .halfCvti o => o.wf 0x18 | .halfNot o => o.wf 0x19 | .halfAbs o => o.wf 0x1A | .halfFabs o => o.wf 0x1B
  | .halfFneg o => o.wf 0x1C | .halfNop o => o.wf 0x1D
  | .join | .call _ | .ret _ | .jmpi _ | .loop _ | .yield | .nop | .sleep _ | .fence _ | .drnt | .redf _ | .rsync
  | .bar _ | .wait _ | .waitw _ | .rarv _ | .rwt _ | .tflag _ | .wake _ | .nbsa _ _ | .nbcp _ | .nbzr _ | .nbopt _
  | .nbfn | .card _ | .cagt _ | .cata _ | .cbct _ | .sreg _ | .scmt _ | .sigchk _ | .trap _ | .rett _ | .lnch _
  | .prgs _ | .bkpt _ | .halt | .tlbi (.ctx _) | .tlbi .all
  | .loadValueLands _ _ | .storeAcknowledged _ | .acquireCompletes _ | .releaseWaitEnds _ | .gangRelaunch _
  | .homeRSi _ _ | .homeRWi _ _ | .homeOwn _ _ | .homeWrh _ _ | .homeSur _ | .recallWriteback _ _
  | .noticeInjection _ | .towpathInv | .towpathRcw | .towpathRca | .fillArrives _ | .grantArrives _
  | .homeAtomic _ | .waitwReevaluation _ _ | .waitwPoll _ _ | .watchEntryTaken _ _ | .sleepExpiry _ _
  | .yieldTimeout _ _ | .softEntryStaged _ | .commitArrival _ | .scmtCompletes _ | .copyRow _ | .copyCompletes _
  | .collectiveBlock _ _ | .collectiveCompletes _ | .ploughPartAccepted _ | .ploughRowStep _
  | .ploughPartCompletes _ | .crossChannelGranule _ | .matrixOperationStart _ _ | .matrixOperationFinishes _ _
  | .mxCounterFall _ | .arrayStaggeredStart _ | .launchRecordTaken _ _ | .teamPlacement _ | .l1Resize _ _
  | .registerCompaction _ | .planeSwap _ | .deadlinePreemption _ | .teamSave _ | .teamRestore _
  | .gridBarrierRotation _ | .podBarrierMessage _ _ _ _ _ _ | .podPhaseCompletion _ _ _ | .gridCompletes _
  | .pageWalk _ | .faultRecordWrite _ | .fqhead _ _ | .resumeRetry _ _ | .resumeError _ _ | .resumeDiscard _ _
  | .prdead _ _ | .invctlPage _ _ | .invctlContext _ _ | .invctlAll _ _ | .invalidationCompletes _
  | .registerWrite _ _ _ | .hostWrite _ _ | .hostRead _ _ | .fabricRequest _ | .thilosLinkDown _ _ | .retire _ _
  | .eridx _ _ | .attestationGo _ _ | .attestationDone | .firmwareStage _ _ | .firmwareStagingDone | .szlrel _ _
  | .powerCheck _ _ | .trip _ _ | .reset _ | .quadPowerUp _ | .illegalInstructionWord _ | .retirementCompletes
  | .standbyPowerLoss | .podRegistration _ _ _ _ => true

end Sys2Proof
end

