-- ==== Sys2Proof/Decode.lean ====
section
/-! DEFINITION. The encoding of forms F, L and P (spec 08 R157 to R174, 12, 13), the decoder and the encoder.
`toRaw` places the fields of an instruction as the tables say, every unused bit zero. The decoder reads the fields
of a word into the instruction they name, and accepts the word exactly when it is that instruction's encoding and
the instruction is well formed: so a set unused bit or a reserved value is refused (R162). -/

namespace Sys2Proof

/-- Why a word is no instruction. -/
inductive DecodeError where
  /-- fewer parcels than the form has -/
  | truncated
  /-- bits 31:30 are 0b11 (R158) -/
  | notAnInstruction
  /-- a reserved OP cell (R174) -/
  | reservedOp
  /-- a reserved value, or a non-zero unused field (R162) -/
  | reservedValue
  /-- form P with a reserved half opcode in its first half (R173) -/
  | malformedPair
  deriving DecidableEq, Repr

/-- The fields of a form-F or form-L word (R159); `dst` is DST space and index; `lit` is zero in form F. -/
structure Raw where
  long : Bool
  op : BitVec 8
  mod : BitVec 3
  dst : BitVec 9
  srca : BitVec 10
  srcb : BitVec 10
  x8 : BitVec 8
  guard : BitVec 14
  lit : Word
  deriving DecidableEq, Repr

/-- The first parcel. -/
def Raw.p0 (r : Raw) : Word := (if r.long then 2#2 else 0#2) ++ r.op ++ r.mod ++ r.dst ++ r.srca

/-- The second parcel. -/
def Raw.p1 (r : Raw) : Word := r.srcb ++ r.x8 ++ r.guard

/-- The parcels in the order of their addresses. -/
def Raw.parcels (r : Raw) : List Word := if r.long then [r.p0, r.p1, r.lit] else [r.p0, r.p1]

/-- The fields of two parcels, and of the literal in form L. -/
def Raw.ofParcels (p0 p1 : Word) (lit : Option Word) : Raw :=
  { long := lit.isSome, op := p0.extractLsb' 22 8, mod := p0.extractLsb' 19 3, dst := p0.extractLsb' 10 9,
    srca := p0.extractLsb' 0 10, srcb := p1.extractLsb' 22 10, x8 := p1.extractLsb' 14 8,
    guard := p1.extractLsb' 0 14, lit := lit.getD 0 }

/-- Bits 63:46, the eighteen bits of OFS18, of the join offset and of three WAIT limits (R165, R170). -/
def Raw.hi18 (r : Raw) : BitVec 18 := r.srcb ++ r.x8

/-- A form-F word of an opcode with every other field zero. -/
def Raw.of (op : BitVec 8) : Raw := ⟨false, op, 0, 0, 0, 0, 0, 0, 0⟩

/-! ### Fields -/

/-- SRCA, SRCB and XB: space and index (R159). The literal has no register field. -/
def Src.enc : Src → BitVec 10
  | .v k => 0#2 ++ k
  | .s j => 1#2 ++ (0#2 ++ j)
  | .left k => 2#2 ++ k
  | .right k => 3#2 ++ k
  | .lit _ => 0

def Src.dec (x : BitVec 10) : Src :=
  let k := x.extractLsb' 0 8
  match (x.extractLsb' 8 2).toNat with
  | 0 => .v k
  | 1 => .s (x.extractLsb' 0 6)
  | 2 => .left k
  | _ => .right k

def Dst.enc : Dst → BitVec 9
  | .v k => 0#1 ++ k
  | .s j => 1#1 ++ (0#2 ++ j)

def Dst.dec (x : BitVec 9) : Dst := if x.getLsbD 8 then .s (x.extractLsb' 0 6) else .v (x.extractLsb' 0 8)

/-- A vector or scalar register in a ten-bit field. -/
def Dst.enc10 : Dst → BitVec 10
  | .v k => 0#2 ++ k
  | .s j => 1#2 ++ (0#2 ++ j)

def Dst.dec10 (x : BitVec 10) : Dst := if x.getLsbD 8 then .s (x.extractLsb' 0 6) else .v (x.extractLsb' 0 8)

def Base.enc : Base → BitVec 10
  | .v k => 0#2 ++ k
  | .s j => 1#2 ++ (0#2 ++ j)

def Base.dec (x : BitVec 10) : Base := if x.getLsbD 8 then .s (x.extractLsb' 0 6) else .v (x.extractLsb' 0 8)

/-- A scalar register in SRCA, SRCB or XB: space 0b01. -/
def encS (j : SReg) : BitVec 10 := 1#2 ++ (0#2 ++ j)
def decS (x : BitVec 10) : SReg := x.extractLsb' 0 6
/-- A scalar register in DST. -/
def encSD (j : SReg) : BitVec 9 := 1#1 ++ (0#2 ++ j)
def decSD (x : BitVec 9) : SReg := x.extractLsb' 0 6
/-- A vector register in DST, and in SRCA or SRCB. -/
def encVD (k : VReg) : BitVec 9 := 0#1 ++ k
def decVD (x : BitVec 9) : VReg := x.extractLsb' 0 8
def encV (k : VReg) : BitVec 10 := 0#2 ++ k
def decV (x : BitVec 10) : VReg := x.extractLsb' 0 8

def encGuard : Guard → BitVec 14
  | none => 0
  | some g => g.reg ++ g.bit ++ BitVec.ofBool g.neg

def decGuard (x : BitVec 14) : Guard :=
  if x == 0 then none else some ⟨x.extractLsb' 6 8, x.extractLsb' 1 5, x.getLsbD 0⟩

def IntTy.ofCode (c : BitVec 3) : IntTy :=
  match c.toNat with
  | 0 => .i32 | 1 => .n32 | 2 => .i64 | 3 => .n64 | 4 => .i16x2 | 5 => .n16x2 | 6 => .i8x4 | _ => .n8x4

def FTy.code : FTy → BitVec 3
  | .f32 => 0 | .bf16x2 => 1 | .f16x2 => 2
def FTy.ofCode (c : BitVec 3) : FTy :=
  match c.toNat with
  | 0 => .f32 | 1 => .bf16x2 | _ => .f16x2

def Rnd.code : Rnd → BitVec 2
  | .rne => 0 | .rz => 1 | .ru => 2 | .rd => 3
def Rnd.ofCode (c : BitVec 2) : Rnd :=
  match c.toNat with
  | 0 => .rne | 1 => .rz | 2 => .ru | _ => .rd

def Fmt.code : Fmt → BitVec 4
  | .f32 => 0 | .bf16 => 1 | .f16 => 2 | .e4m3 => 3 | .e5m2 => 4 | .e2m1 => 5 | .e8m0 => 6 | .i32 => 7 | .n32 => 8
  | .i16 => 9 | .n16 => 10 | .i8 => 11 | .n8 => 12 | .i64 => 13 | .n64 => 14
def Fmt.ofCode (c : BitVec 4) : Fmt :=
  match c.toNat with
  | 0 => .f32 | 1 => .bf16 | 2 => .f16 | 3 => .e4m3 | 4 => .e5m2 | 5 => .e2m1 | 6 => .e8m0 | 7 => .i32 | 8 => .n32
  | 9 => .i16 | 10 => .n16 | 11 => .i8 | 12 => .n8 | 13 => .i64 | _ => .n64

def Cond.code : Cond → BitVec 3
  | .eq => 0 | .ne => 1 | .lt => 2 | .le => 3 | .gt => 4 | .ge => 5
def Cond.ofCode (c : BitVec 3) : Cond :=
  match c.toNat with
  | 0 => .eq | 1 => .ne | 2 => .lt | 3 => .le | 4 => .gt | _ => .ge

def Scope.code : Scope → BitVec 3
  | .core => 0 | .quad => 1 | .die => 2 | .pkg => 3 | .pod => 4 | .sys => 5
def Scope.ofCode (c : BitVec 3) : Scope :=
  match c.toNat with
  | 0 => .core | 1 => .quad | 2 => .die | 3 => .pkg | 4 => .pod | _ => .sys

def Policy.code : Policy → BitVec 2
  | .own => 0 | .wt => 1 | .si => 2 | .wi => 3
def Policy.ofCode (c : BitVec 2) : Policy :=
  match c.toNat with
  | 0 => .own | 1 => .wt | 2 => .si | _ => .wi

def Width.code : Width → BitVec 2
  | .w4 => 0 | .w8 => 1 | .w16 => 2
def Width.ofCode (c : BitVec 2) : Width :=
  match c.toNat with
  | 0 => .w4 | 1 => .w8 | _ => .w16

def Order.code : Order → BitVec 2
  | .none => 0 | .acq => 1 | .rel => 2 | .ar => 3
def Order.ofCode (c : BitVec 2) : Order :=
  match c.toNat with
  | 0 => .none | 1 => .acq | 2 => .rel | _ => .ar

def Scale.code : Scale → BitVec 2
  | .x1 => 0 | .x4 => 1 | .x8 => 2 | .x16 => 3
def Scale.ofCode (c : BitVec 2) : Scale :=
  match c.toNat with
  | 0 => .x1 | 1 => .x4 | 2 => .x8 | _ => .x16

def AtomKind.code : AtomKind → BitVec 5
  | .addI32 => 0 | .addI64 => 1 | .addF32 => 2 | .minI32 => 3 | .minN32 => 4 | .minF32 => 5 | .maxI32 => 6
  | .maxN32 => 7 | .maxF32 => 8 | .and => 9 | .or => 10 | .xor => 11 | .xchg => 12 | .xchg64 => 13 | .cas => 14
  | .cas64 => 15 | .incw => 16
def AtomKind.ofCode (c : BitVec 5) : AtomKind :=
  match c.toNat with
  | 0 => .addI32 | 1 => .addI64 | 2 => .addF32 | 3 => .minI32 | 4 => .minN32 | 5 => .minF32 | 6 => .maxI32
  | 7 => .maxN32 | 8 => .maxF32 | 9 => .and | 10 => .or | 11 => .xor | 12 => .xchg | 13 => .xchg64 | 14 => .cas
  | 15 => .cas64 | _ => .incw

def MmaTy.code : MmaTy → BitVec 3
  | .bf16 => 0 | .f16 => 1 | .e4m3 => 2 | .e5m2 => 3 | .i8 => 4 | .f32x3 => 5 | .f32x6 => 6
def MmaTy.ofCode (c : BitVec 3) : MmaTy :=
  match c.toNat with
  | 0 => .bf16 | 1 => .f16 | 2 => .e4m3 | 3 => .e5m2 | 4 => .i8 | 5 => .f32x3 | _ => .f32x6

def DrainFmt.code : DrainFmt → BitVec 3
  | .f32 => 0 | .bf16 => 1 | .f16 => 2 | .e4m3 => 3 | .mxe4m3 => 4 | .mxe2m1 => 5
def DrainFmt.ofCode (c : BitVec 3) : DrainFmt :=
  match c.toNat with
  | 0 => .f32 | 1 => .bf16 | 2 => .f16 | 3 => .e4m3 | 4 => .mxe4m3 | _ => .mxe2m1

/-- Operation of WRED and WSCAN in X8[2:0], and the type: MOD, with X8[3] for FP32 (R166). -/
def RedKind.code : RedKind → BitVec 3
  | .add => 0 | .min => 1 | .max => 2 | .and => 3 | .or => 4 | .xor => 5
def RedKind.ofCode (c : BitVec 3) : RedKind :=
  match c.toNat with
  | 0 => .add | 1 => .min | 2 => .max | 3 => .and | 4 => .or | _ => .xor
def RedTy.code : RedTy → BitVec 3
  | .i32 => 0 | .n32 => 1 | .i64 => 2 | .n64 => 3 | .f32 => 0
def RedTy.isF32 : RedTy → Bool
  | .f32 => true
  | _ => false
def RedTy.ofCode (c : BitVec 3) (f : Bool) : RedTy :=
  if f then .f32 else match c.toNat with
    | 0 => .i32 | 1 => .n32 | 2 => .i64 | _ => .n64

def BarKind.code : BarKind → BitVec 2
  | .sync => 0 | .arrive => 1 | .wait => 2 | .drop => 3
def BarKind.ofCode (c : BitVec 2) : BarKind :=
  match c.toNat with
  | 0 => .sync | 1 => .arrive | 2 => .wait | _ => .drop
def BarLevel.code : BarLevel → BitVec 2
  | .team => 0 | .gang => 1 | .grid => 2 | .pod => 3
def BarLevel.ofCode (c : BitVec 2) : BarLevel :=
  match c.toNat with
  | 0 => .team | 1 => .gang | 2 => .grid | _ => .pod

/-! ### Shapes: from an instruction's operands to its fields -/

/-- Put source B into SRCB, or the literal into form L. -/
def Raw.withB (r : Raw) : Src → Raw
  | .lit w => { r with long := true, lit := w }
  | b => { r with srcb := b.enc }

/-- Put the only source into SRCA, or the literal into form L (R205). -/
def Raw.withA (r : Raw) : Src → Raw
  | .lit w => { r with long := true, lit := w }
  | a => { r with srca := a.enc }

/-- Source B of a word: the literal in form L. -/
def Raw.b (r : Raw) : Src := if r.long then .lit r.lit else Src.dec r.srcb
/-- The only source of a unary word. -/
def Raw.a1 (r : Raw) : Src := if r.long then .lit r.lit else Src.dec r.srca

def Raw.withSVal (r : Raw) : SVal → Raw
  | .s j => { r with srca := encS j }
  | .lit w => { r with long := true, lit := w }
def Raw.sval (r : Raw) : SVal := if r.long then .lit r.lit else .s (decS r.srca)

def Raw.withOff (r : Raw) : Option Word → Raw
  | none => r
  | some w => { r with long := true, lit := w }
def Raw.off (r : Raw) : Option Word := if r.long then some r.lit else none

def Raw.withHi18 (r : Raw) (x : BitVec 18) : Raw := { r with srcb := x.extractLsb' 8 10, x8 := x.extractLsb' 0 8 }

def Raw.withTarget (r : Raw) : Off → Raw
  | .short o => r.withHi18 o
  | .long w => { r with long := true, lit := w }
def Raw.target (r : Raw) : Off := if r.long then .long r.lit else .short r.hi18

def IntBin.raw (o : IntBin) (op : BitVec 8) : Raw :=
  ({ Raw.of op with mod := o.ty.code, dst := o.dst.enc, srca := o.a.enc, guard := encGuard o.guard } : Raw).withB o.b
def Raw.intBin (r : Raw) : IntBin := ⟨.ofCode r.mod, decGuard r.guard, Dst.dec r.dst, Src.dec r.srca, r.b⟩

def IntUn.raw (o : IntUn) (op : BitVec 8) : Raw :=
  ({ Raw.of op with mod := o.ty.code, dst := o.dst.enc, guard := encGuard o.guard } : Raw).withA o.a
def Raw.intUn (r : Raw) : IntUn := ⟨.ofCode r.mod, decGuard r.guard, Dst.dec r.dst, r.a1⟩

def IntTri.raw (o : IntTri) (op : BitVec 8) : Raw :=
  ({ Raw.of op with mod := o.ty.code, dst := encVD o.dst, srca := o.a.enc, x8 := o.c, guard := encGuard o.guard }
    : Raw).withB o.b
def Raw.intTri (r : Raw) : IntTri :=
  ⟨.ofCode r.mod, decGuard r.guard, decVD r.dst, Src.dec r.srca, r.b, r.x8⟩

def CmpOp.raw (o : CmpOp) (op : BitVec 8) : Raw :=
  ({ Raw.of op with mod := o.ty.code, dst := o.dst.enc, srca := o.a.enc, x8 := o.cond.code ++ o.bit,
                    guard := encGuard o.guard } : Raw).withB o.b
def Raw.cmp (r : Raw) : CmpOp :=
  ⟨.ofCode (r.x8.extractLsb' 5 3), .ofCode r.mod, decGuard r.guard, Dst.dec r.dst, r.x8.extractLsb' 0 5,
    Src.dec r.srca, r.b⟩

def FCmpOp.raw (o : FCmpOp) (op : BitVec 8) : Raw :=
  ({ Raw.of op with mod := o.ty.code, dst := o.dst.enc, srca := o.a.enc, x8 := o.cond.code ++ o.bit,
                    guard := encGuard o.guard } : Raw).withB o.b
def Raw.fcmp (r : Raw) : FCmpOp :=
  ⟨.ofCode (r.x8.extractLsb' 5 3), .ofCode r.mod, decGuard r.guard, Dst.dec r.dst, r.x8.extractLsb' 0 5,
    Src.dec r.srca, r.b⟩

def SelTy.code : SelTy → BitVec 3
  | .word => 0 | .i64 => 2 | .n64 => 3
def SelTy.ofCode (c : BitVec 3) : SelTy :=
  match c.toNat with
  | 2 => .i64 | 3 => .n64 | _ => .word

def SelOp.raw (o : SelOp) (op : BitVec 8) : Raw :=
  ({ Raw.of op with mod := o.ty.code, dst := encVD o.dst, srca := o.a.enc,
                    guard := o.reg ++ o.bit ++ BitVec.ofBool o.inv } : Raw).withB o.b
def Raw.sel (r : Raw) : SelOp :=
  ⟨.ofCode r.mod, r.guard.extractLsb' 6 8, r.guard.extractLsb' 1 5, r.guard.getLsbD 0, decVD r.dst, Src.dec r.srca,
    r.b⟩

def BitKind.code : BitKind → BitVec 3
  | .set => 0 | .clr => 1 | .flip => 2 | .and _ _ => 3 | .or _ _ => 4
def BitOp.raw (o : BitOp) (op : BitVec 8) : Raw :=
  let r : Raw := { Raw.of op with dst := o.dst.enc, x8 := o.kind.code ++ o.bit, guard := encGuard o.guard }
  match o.kind with
  | .and s c | .or s c => { r with srca := s.enc, srcb := 0#5 ++ c }
  | _ => r
def Raw.bitop (r : Raw) : BitOp :=
  let s := Src.dec r.srca
  let c := r.srcb.extractLsb' 0 5
  let k : BitKind := match (r.x8.extractLsb' 5 3).toNat with
    | 0 => .set | 1 => .clr | 2 => .flip | 3 => .and s c | _ => .or s c
  ⟨k, decGuard r.guard, Dst.dec r.dst, r.x8.extractLsb' 0 5⟩

def ShflMode.code : ShflMode → BitVec 2
  | .idx => 0 | .xor => 1 | .up => 2 | .down => 3
def ShflMode.ofCode (c : BitVec 2) : ShflMode :=
  match c.toNat with
  | 0 => .idx | 1 => .xor | 2 => .up | _ => .down

/-- MOD of an instruction on words (0) or pairs (2). -/
def pairCode (p : Bool) : BitVec 3 := if p then 2 else 0

def ShflOp.raw (o : ShflOp) (op : BitVec 8) : Raw :=
  ({ Raw.of op with mod := pairCode o.pair, dst := encVD o.dst, srca := o.a.enc, x8 := 0#6 ++ o.mode.code,
                    guard := encGuard o.guard } : Raw).withB o.b
def Raw.shfl (r : Raw) : ShflOp :=
  ⟨.ofCode (r.x8.extractLsb' 0 2), r.mod == 2, decGuard r.guard, decVD r.dst, Src.dec r.srca, r.b⟩

def VoteKind.code : VoteKind → BitVec 2
  | .any => 0 | .all => 1 | .ballot => 2
def VoteKind.ofCode (c : BitVec 2) : VoteKind :=
  match c.toNat with
  | 0 => .any | 1 => .all | _ => .ballot
def VoteOp.raw (o : VoteOp) (op : BitVec 8) : Raw :=
  { Raw.of op with dst := encSD o.dst, srca := o.a.enc, x8 := 0#1 ++ o.bit ++ o.kind.code, guard := encGuard o.guard }
def Raw.vote (r : Raw) : VoteOp :=
  ⟨.ofCode (r.x8.extractLsb' 0 2), r.x8.extractLsb' 2 5, decGuard r.guard, decSD r.dst, Src.dec r.srca⟩

def WredOp.raw (o : WredOp) (op : BitVec 8) : Raw :=
  { Raw.of op with mod := o.ty.code, dst := encSD o.dst, srca := o.a.enc,
                   x8 := 0#4 ++ BitVec.ofBool o.ty.isF32 ++ o.op.code, guard := encGuard o.guard }
def Raw.wred (r : Raw) : WredOp :=
  ⟨.ofCode (r.x8.extractLsb' 0 3), .ofCode r.mod (r.x8.getLsbD 3), decGuard r.guard, decSD r.dst, Src.dec r.srca⟩

def WscanOp.raw (o : WscanOp) (op : BitVec 8) : Raw :=
  { Raw.of op with mod := o.ty.code, dst := encVD o.dst, srca := o.a.enc,
                   x8 := 0#3 ++ BitVec.ofBool o.excl ++ BitVec.ofBool o.ty.isF32 ++ o.op.code,
                   guard := encGuard o.guard }
def Raw.wscan (r : Raw) : WscanOp :=
  ⟨.ofCode (r.x8.extractLsb' 0 3), .ofCode r.mod (r.x8.getLsbD 3), r.x8.getLsbD 4, decGuard r.guard, decVD r.dst,
    Src.dec r.srca⟩

def MatchOp.raw (o : MatchOp) (op : BitVec 8) : Raw :=
  { Raw.of op with mod := pairCode o.pair, dst := encVD o.dst, srca := o.a.enc, guard := encGuard o.guard }
def Raw.matchOp (r : Raw) : MatchOp := ⟨r.mod == 2, decGuard r.guard, decVD r.dst, Src.dec r.srca⟩

def CvtOp.raw (o : CvtOp) (op : BitVec 8) : Raw :=
  let r : Raw := { Raw.of op with dst := encVD o.dst, srca := o.a.enc, x8 := o.sfmt.code ++ o.dfmt.code,
                                  guard := encGuard o.guard }
  match o.mode with
  | .rnd m => { r with mod := 0#1 ++ m.code }
  | .sr b => ({ r with mod := 4 } : Raw).withB b
def Raw.cvt (r : Raw) : CvtOp :=
  let m : CvtMode := if r.mod.getLsbD 2 then .sr r.b else .rnd (.ofCode (r.mod.extractLsb' 0 2))
  ⟨.ofCode (r.x8.extractLsb' 0 4), .ofCode (r.x8.extractLsb' 4 4), m, decGuard r.guard, decVD r.dst, Src.dec r.srca⟩

def PackOp.raw (o : PackOp) (op : BitVec 8) : Raw :=
  { Raw.of op with mod := 0#1 ++ o.rnd.code, dst := encVD o.dst, srca := o.a.enc, srcb := o.b.enc,
                   x8 := 0#2 ++ o.pos ++ o.fmt.code, guard := encGuard o.guard }
def Raw.pack (r : Raw) : PackOp :=
  ⟨.ofCode (r.x8.extractLsb' 0 4), r.x8.extractLsb' 4 2, .ofCode (r.mod.extractLsb' 0 2), decGuard r.guard,
    decVD r.dst, Src.dec r.srca, Src.dec r.srcb⟩

def UnpkOp.raw (o : UnpkOp) (op : BitVec 8) : Raw :=
  { Raw.of op with dst := encVD o.dst, srca := o.a.enc, x8 := 0#2 ++ o.pos ++ o.fmt.code, guard := encGuard o.guard }
def Raw.unpk (r : Raw) : UnpkOp :=
  ⟨.ofCode (r.x8.extractLsb' 0 4), r.x8.extractLsb' 4 2, decGuard r.guard, decVD r.dst, Src.dec r.srca⟩

def FrndOp.raw (o : FrndOp) (op : BitVec 8) : Raw :=
  { Raw.of op with mod := o.ty.code, dst := encVD o.dst, srca := o.a.enc, x8 := 0#6 ++ o.rnd.code,
                   guard := encGuard o.guard }
def Raw.frnd (r : Raw) : FrndOp :=
  ⟨.ofCode r.mod, .ofCode (r.x8.extractLsb' 0 2), decGuard r.guard, decVD r.dst, Src.dec r.srca⟩

def MovsrOp.raw (o : MovsrOp) (op : BitVec 8) : Raw := { Raw.of op with dst := o.dst.enc, srca := 0#5 ++ o.idx }
def Raw.movsr (r : Raw) : MovsrOp := ⟨r.srca.extractLsb' 0 5, Dst.dec r.dst⟩

def SetsrOp.raw (o : SetsrOp) (op : BitVec 8) : Raw :=
  ({ Raw.of op with dst := 0#4 ++ o.idx } : Raw).withSVal o.val
def Raw.setsr (r : Raw) : SetsrOp := ⟨r.dst.extractLsb' 0 5, r.sval⟩

def FBinR.raw (o : FBinR) (op : BitVec 8) : Raw :=
  ({ Raw.of op with mod := o.ty.code, dst := encVD o.dst, srca := o.a.enc, x8 := 0#6 ++ o.rnd.code,
                    guard := encGuard o.guard } : Raw).withB o.b
def Raw.fbinR (r : Raw) : FBinR :=
  ⟨.ofCode r.mod, .ofCode (r.x8.extractLsb' 0 2), decGuard r.guard, decVD r.dst, Src.dec r.srca, r.b⟩

def FBin.raw (o : FBin) (op : BitVec 8) : Raw :=
  ({ Raw.of op with mod := o.ty.code, dst := encVD o.dst, srca := o.a.enc, guard := encGuard o.guard } : Raw).withB o.b
def Raw.fbin (r : Raw) : FBin := ⟨.ofCode r.mod, decGuard r.guard, decVD r.dst, Src.dec r.srca, r.b⟩

def FTri.raw (o : FTri) (op : BitVec 8) : Raw :=
  ({ Raw.of op with mod := o.ty.code, dst := encVD o.dst, srca := o.a.enc, x8 := o.c, guard := encGuard o.guard }
    : Raw).withB o.b
def Raw.ftri (r : Raw) : FTri := ⟨.ofCode r.mod, decGuard r.guard, decVD r.dst, Src.dec r.srca, r.b, r.x8⟩

def FUn.raw (o : FUn) (op : BitVec 8) : Raw :=
  { Raw.of op with mod := o.ty.code, dst := encVD o.dst, srca := o.a.enc, guard := encGuard o.guard }
def Raw.fun_ (r : Raw) : FUn := ⟨.ofCode r.mod, decGuard r.guard, decVD r.dst, Src.dec r.srca⟩

def BraOp.raw (o : BraOp) (op : BitVec 8) : Raw :=
  ({ Raw.of op with guard := encGuard o.guard } : Raw).withTarget o.target
def Raw.bra (r : Raw) : BraOp := ⟨decGuard r.guard, r.target⟩

def BrcOp.raw (o : BrcOp) (op : BitVec 8) : Raw :=
  ({ Raw.of op with long := true, lit := o.target, guard := encGuard o.guard } : Raw).withHi18 o.join
def Raw.brc (r : Raw) : BrcOp := ⟨decGuard r.guard, r.lit, r.hi18⟩

/-- CALL links in DST, LOOP counts in SRCA (R165). -/
def LinkOp.rawCall (o : LinkOp) : Raw := ({ Raw.of 0x73 with dst := encSD o.reg } : Raw).withTarget o.target
def LinkOp.rawLoop (o : LinkOp) : Raw := ({ Raw.of 0x76 with srca := encS o.reg } : Raw).withTarget o.target

/-- The address fields of the global group: X8[7:5] and SRCB or XB (R168). -/
def Raw.withAddr (r : Raw) (a : GAddr) (low : BitVec 5) : Raw :=
  ({ r with srca := a.base.enc, srcb := (match a.idx with | some x => x.enc10 | none => 0),
            x8 := BitVec.ofBool a.idx.isSome ++ a.scale.code ++ low } : Raw).withOff a.off
def Raw.addr (r : Raw) : GAddr :=
  ⟨Base.dec r.srca, if r.x8.getLsbD 7 then some (Dst.dec10 r.srcb) else none, .ofCode (r.x8.extractLsb' 5 2), r.off⟩

def MemOp.raw (o : MemOp) (op : BitVec 8) : Raw :=
  ({ Raw.of op with mod := BitVec.ofBool o.ord ++ o.width.code, dst := o.data.enc, guard := encGuard o.guard }
    : Raw).withAddr o.addr (o.scope.code ++ o.pol.code)
def Raw.mem (r : Raw) : MemOp :=
  ⟨.ofCode (r.x8.extractLsb' 0 2), .ofCode (r.x8.extractLsb' 2 3), r.mod.getLsbD 2, .ofCode (r.mod.extractLsb' 0 2),
    decGuard r.guard, r.addr, Dst.dec r.dst⟩

def StoreOp.raw (o : StoreOp) (op : BitVec 8) : Raw :=
  ({ Raw.of op with mod := 0#1 ++ o.width.code, dst := o.data.enc, srca := encS o.base,
                    srcb := (match o.added with | some x => x.enc10 | none => 0), guard := encGuard o.guard }
    : Raw).withOff o.off
def Raw.storeOp (r : Raw) : StoreOp :=
  ⟨.ofCode (r.mod.extractLsb' 0 2), decGuard r.guard, decS r.srca,
    if r.long && r.srcb == 0 then none else some (Dst.dec10 r.srcb), r.off, Dst.dec r.dst⟩

def AtomOp.raw (o : AtomOp) (op : BitVec 8) : Raw :=
  ({ Raw.of op with mod := 0#1 ++ o.ord.code, dst := encVD o.dst, srca := o.base.enc, srcb := o.b.enc,
                    x8 := o.scope.code ++ o.kind.code, guard := encGuard o.guard } : Raw).withOff o.off
def Raw.atom (r : Raw) : AtomOp :=
  ⟨.ofCode (r.x8.extractLsb' 0 5), .ofCode (r.x8.extractLsb' 5 3), .ofCode (r.mod.extractLsb' 0 2), decGuard r.guard,
    Base.dec r.srca, r.off, Src.dec r.srcb, decVD r.dst⟩

def RedOp.raw (o : RedOp) (op : BitVec 8) : Raw :=
  ({ Raw.of op with mod := 0#1 ++ o.ord.code, srca := o.base.enc, srcb := o.b.enc,
                    x8 := o.scope.code ++ o.kind.code, guard := encGuard o.guard } : Raw).withOff o.off
def Raw.red (r : Raw) : RedOp :=
  ⟨.ofCode (r.x8.extractLsb' 0 5), .ofCode (r.x8.extractLsb' 5 3), .ofCode (r.mod.extractLsb' 0 2), decGuard r.guard,
    Base.dec r.srca, r.off, Src.dec r.srcb⟩

def AtomsOp.raw (o : AtomsOp) (op : BitVec 8) : Raw :=
  let r : Raw := { Raw.of op with dst := encVD o.dst, srca := encS o.base, srcb := o.b.enc, x8 := 0#3 ++ o.kind.code,
                                  guard := encGuard o.guard }
  match o.addr with
  | .plain => r
  | .off w => { r with long := true, lit := w }
  | .added k w => { r with long := true, mod := 1, lit := k ++ w }
def Raw.atoms (r : Raw) : AtomsOp :=
  let a : AtomsAddr :=
    if r.long then
      if r.mod.getLsbD 0 then .added (r.lit.extractLsb' 24 8) (r.lit.extractLsb' 0 24) else .off r.lit
    else .plain
  ⟨.ofCode (r.x8.extractLsb' 0 5), decGuard r.guard, decS r.srca, a, Src.dec r.srcb, decVD r.dst⟩

def FenceOp.raw (o : FenceOp) (op : BitVec 8) : Raw :=
  { Raw.of op with mod := 0#1 ++ o.ord.code, x8 := 0#3 ++ o.scope.code ++ 0#2 }
def Raw.fence (r : Raw) : FenceOp := ⟨.ofCode (r.mod.extractLsb' 0 2), .ofCode (r.x8.extractLsb' 2 3)⟩

def LineOp.raw (o : LineOp) (op : BitVec 8) : Raw :=
  ({ Raw.of op with srca := o.base.enc, guard := encGuard o.guard } : Raw).withOff o.off
def Raw.lineOp (r : Raw) : LineOp := ⟨decGuard r.guard, Base.dec r.srca, r.off⟩

def BarOp.raw (o : BarOp) (op : BitVec 8) : Raw :=
  { Raw.of op with mod := 0#1 ++ o.kind.code, x8 := o.level.code ++ o.n }
def Raw.bar (r : Raw) : BarOp :=
  ⟨.ofCode (r.mod.extractLsb' 0 2), .ofCode (r.x8.extractLsb' 6 2), r.x8.extractLsb' 0 6⟩

/-- WAIT: ld, st and cp in bits 63:46; mx, nm and sf in bits 17:0 (R170). -/
def WaitOp.raw (o : WaitOp) (op : BitVec 8) : Raw :=
  let lo : BitVec 18 := o.mx ++ o.nm ++ o.sf
  ({ Raw.of op with dst := 0#1 ++ lo.extractLsb' 10 8, srca := lo.extractLsb' 0 10 } : Raw).withHi18 (o.ld ++ o.st ++ o.cp)
def Raw.wait (r : Raw) : WaitOp :=
  let lo : BitVec 18 := r.dst.extractLsb' 0 8 ++ r.srca
  ⟨r.hi18.extractLsb' 12 6, r.hi18.extractLsb' 6 6, r.hi18.extractLsb' 0 6, lo.extractLsb' 12 6, lo.extractLsb' 6 6,
    lo.extractLsb' 0 6⟩

def WaitwOp.raw (o : WaitwOp) (op : BitVec 8) : Raw :=
  let r : Raw := { Raw.of op with mod := BitVec.ofBool o.acq ++ 0#2, srca := encS o.base,
                                  x8 := 0#4 ++ BitVec.ofBool o.signed ++ o.cond.code }
  match o.val with
  | .s j => { r with srcb := encS j }
  | .lit w off => { r with long := true, srcb := off, lit := w }
def Raw.waitw (r : Raw) : WaitwOp :=
  ⟨r.mod.getLsbD 2, r.x8.getLsbD 3, .ofCode (r.x8.extractLsb' 0 3), decS r.srca,
    if r.long then .lit r.lit r.srcb else .s (decS r.srcb)⟩

def ChamberOp.enc (o : ChamberOp) : BitVec 8 := o.chamber ++ o.ring
def ChamberOp.dec (x : BitVec 8) : ChamberOp := ⟨x.extractLsb' 0 5, x.extractLsb' 5 3⟩

def RarvOp.raw (o : RarvOp) (op : BitVec 8) : Raw := { Raw.of op with long := o.long, x8 := o.at_.enc }
def Raw.rarv (r : Raw) : RarvOp := ⟨ChamberOp.dec r.x8, r.long⟩

def RwtOp.raw (o : RwtOp) (op : BitVec 8) : Raw :=
  ({ Raw.of op with mod := 0#2 ++ BitVec.ofBool o.full, x8 := o.at_.enc } : Raw).withSVal o.phase
def Raw.rwt (r : Raw) : RwtOp := ⟨ChamberOp.dec r.x8, r.mod.getLsbD 0, r.sval⟩

def WakeOp.raw (o : WakeOp) (op : BitVec 8) : Raw := ({ Raw.of op with srca := encS o.base } : Raw).withOff o.off
def Raw.wake (r : Raw) : WakeOp := ⟨decS r.srca, r.off⟩

/-- An instruction whose only operand is a scalar in SRCA (R269). -/
def rawS (op : BitVec 8) (j : SReg) : Raw := { Raw.of op with srca := encS j }
/-- An instruction whose only operand is a scalar in DST. -/
def rawSD (op : BitVec 8) (j : SReg) : Raw := { Raw.of op with dst := encSD j }

def MmaOp.raw (o : MmaOp) (op : BitVec 8) : Raw :=
  { Raw.of op with mod := o.ty.code, srca := encS o.a, srcb := encS o.b, x8 := 0#4 ++ o.acc, guard := encGuard o.guard }
def Raw.mma (r : Raw) : MmaOp :=
  ⟨.ofCode r.mod, r.x8.extractLsb' 0 4, decGuard r.guard, decS r.srca, decS r.srcb⟩

def MmaoOp.raw (o : MmaoOp) (op : BitVec 8) : Raw :=
  { Raw.of op with mod := o.ty.code, dst := encSD o.list, srca := encS o.a, srcb := encS o.b, x8 := 0#4 ++ o.acc,
                   guard := encGuard o.guard }
def Raw.mmao (r : Raw) : MmaoOp :=
  ⟨.ofCode r.mod, r.x8.extractLsb' 0 4, decGuard r.guard, decS r.srca, decS r.srcb, decSD r.dst⟩

def AccOp.raw (o : AccOp) (op : BitVec 8) : Raw := { Raw.of op with x8 := 0#4 ++ o.acc, guard := encGuard o.guard }
def Raw.accOp (r : Raw) : AccOp := ⟨r.x8.extractLsb' 0 4, decGuard r.guard⟩

def AccMemOp.raw (o : AccMemOp) (op : BitVec 8) : Raw :=
  { Raw.of op with srca := encS o.addr, x8 := 0#4 ++ o.acc, guard := encGuard o.guard }
def Raw.accMem (r : Raw) : AccMemOp := ⟨r.x8.extractLsb' 0 4, decGuard r.guard, decS r.srca⟩

def TdrnOp.raw (o : TdrnOp) (op : BitVec 8) : Raw :=
  { Raw.of op with mod := o.fmt.code, srca := encS o.dst,
                   srcb := (match o.scales with | some j => encS j | none => 0), x8 := 0#4 ++ o.acc,
                   guard := encGuard o.guard }
def Raw.tdrn (r : Raw) : TdrnOp :=
  let f := DrainFmt.ofCode r.mod
  ⟨f, r.x8.extractLsb' 0 4, decGuard r.guard, decS r.srca, if f.isMx then some (decS r.srcb) else none⟩

def AccVecOp.rawSrc (o : AccVecOp) (op : BitVec 8) : Raw :=
  { Raw.of op with srca := o.reg.enc, x8 := 0#4 ++ o.acc, guard := encGuard o.guard }
def Raw.accSrc (r : Raw) : AccVecOp := ⟨r.x8.extractLsb' 0 4, decGuard r.guard, Src.dec r.srca⟩
def AccVecOp.rawDst (o : AccVecOp) (op : BitVec 8) : Raw :=
  { Raw.of op with dst := (match o.reg with | .v k => encVD k | _ => 0), x8 := 0#4 ++ o.acc, guard := encGuard o.guard }
def Raw.accDst (r : Raw) : AccVecOp := ⟨r.x8.extractLsb' 0 4, decGuard r.guard, .v (decVD r.dst)⟩

/-- The notify fields of copies and collectives: MOD[1:0], X8 and the literal (R290, R294). -/
def Raw.withNotify (r : Raw) : Notify → Raw
  | .none => r
  | .word j off => ({ r with mod := 1, x8 := 0#2 ++ j } : Raw).withOff off
  | .ring k c => { r with mod := 2, x8 := c ++ k }
def Raw.notify (r : Raw) : Notify :=
  match r.mod.toNat with
  | 1 => .word (r.x8.extractLsb' 0 6) r.off
  | 2 => .ring (r.x8.extractLsb' 0 5) (r.x8.extractLsb' 5 3)
  | _ => .none

def CopyOp.raw (o : CopyOp) (op : BitVec 8) : Raw :=
  ({ Raw.of op with dst := encSD o.store, srca := encS o.layout, srcb := o.g.enc, guard := encGuard o.guard }
    : Raw).withNotify o.notify
def Raw.copy (r : Raw) : CopyOp := ⟨decS r.srca, Base.dec r.srcb, decSD r.dst, r.notify, decGuard r.guard⟩

def CollOp.raw (o : CollOp) (op : BitVec 8) : Raw := ({ Raw.of op with srca := encS o.desc } : Raw).withNotify o.notify
def Raw.coll (r : Raw) : CollOp := ⟨decS r.srca, r.notify⟩

def SregOp.raw (o : SregOp) (op : BitVec 8) : Raw := { Raw.of op with srca := encS o.d, x8 := 0#4 ++ o.h }
def Raw.sreg (r : Raw) : SregOp := ⟨r.x8.extractLsb' 0 4, decS r.srca⟩

def SldOp.raw (o : SldOp) (op : BitVec 8) : Raw :=
  { Raw.of op with dst := encVD o.dst, srca := encS o.p, x8 := 0#4 ++ o.h }
def Raw.sld (r : Raw) : SldOp := ⟨r.x8.extractLsb' 0 4, decS r.srca, decVD r.dst⟩

def SstOp.raw (o : SstOp) (op : BitVec 8) : Raw :=
  { Raw.of op with srca := encS o.p, srcb := encV o.src, x8 := 0#4 ++ o.h }
def Raw.sst (r : Raw) : SstOp := ⟨r.x8.extractLsb' 0 4, decS r.srca, decV r.srcb⟩

def ShrdOp.raw (o : ShrdOp) (op : BitVec 8) : Raw :=
  let r : Raw := { Raw.of op with dst := encSD o.dst, srca := encS o.p }
  match o.mode with
  | .max => { r with x8 := BitVec.ofBool o.addr ++ 0#2 ++ 0#1 ++ o.h }
  | .smp u => { r with x8 := BitVec.ofBool o.addr ++ 1#2 ++ 0#1 ++ o.h, srcb := encS u }
  | .thr u => { r with x8 := BitVec.ofBool o.addr ++ 2#2 ++ 0#1 ++ o.h, srcb := encS u }
def Raw.shrd (r : Raw) : ShrdOp :=
  let u := decS r.srcb
  let m : ShrdMode := match (r.x8.extractLsb' 5 2).toNat with
    | 0 => .max | 1 => .smp u | _ => .thr u
  ⟨r.x8.extractLsb' 0 4, m, r.x8.getLsbD 7, decSD r.dst, decS r.srca⟩

def SldaOp.raw (o : SldaOp) (op : BitVec 8) : Raw :=
  { Raw.of op with dst := encSD o.o, srca := encS o.p, srcb := encV o.g, x8 := 0#4 ++ o.h }
def Raw.slda (r : Raw) : SldaOp := ⟨r.x8.extractLsb' 0 4, decSD r.dst, decS r.srca, decV r.srcb⟩

def SstaOp.raw (o : SstaOp) (op : BitVec 8) : Raw :=
  { Raw.of op with dst := encVD o.dst, srca := encS o.p, srcb := encS o.o, x8 := 0#4 ++ o.h }
def Raw.ssta (r : Raw) : SstaOp := ⟨r.x8.extractLsb' 0 4, decVD r.dst, decS r.srca, decS r.srcb⟩

def ScmtOp.raw (o : ScmtOp) (op : BitVec 8) : Raw := { Raw.of op with x8 := 0#3 ++ BitVec.ofBool o.rev ++ o.h }
def Raw.scmt (r : Raw) : ScmtOp := ⟨r.x8.extractLsb' 0 4, r.x8.getLsbD 4⟩

def SnrmOp.raw (o : SnrmOp) (op : BitVec 8) : Raw :=
  { Raw.of op with srca := encS o.p, x8 := 0#3 ++ BitVec.ofBool o.smax ++ 0#4 }
def Raw.snrm (r : Raw) : SnrmOp := ⟨r.x8.getLsbD 4, decS r.srca⟩

def CkgenOp.raw (o : CkgenOp) (op : BitVec 8) : Raw :=
  { Raw.of op with dst := encVD o.dst, srca := o.a.enc, guard := encGuard o.guard }
def Raw.ckgen (r : Raw) : CkgenOp := ⟨decGuard r.guard, decVD r.dst, Src.dec r.srca⟩

def CktstOp.raw (o : CktstOp) (op : BitVec 8) : Raw :=
  { Raw.of op with dst := encVD o.dst, srca := o.a.enc, srcb := o.b.enc, guard := encGuard o.guard }
def Raw.cktst (r : Raw) : CktstOp := ⟨decGuard r.guard, decVD r.dst, Src.dec r.srca, Src.dec r.srcb⟩

def LnchOp.raw (o : LnchOp) (op : BitVec 8) : Raw :=
  let r : Raw := { Raw.of op with dst := encSD o.idx, srca := encS o.record }
  match o.q with
  | .s j => { r with srcb := encS j }
  | .lit w => { r with long := true, lit := w }
def Raw.lnch (r : Raw) : LnchOp := ⟨decSD r.dst, decS r.srca, if r.long then .lit r.lit else .s (decS r.srcb)⟩

def TlbiKind.raw (k : TlbiKind) (op : BitVec 8) : Raw :=
  match k with
  | .page a => { Raw.of op with srca := encS a }
  | .ctx c => { Raw.of op with mod := 1, srca := encS c }
  | .all => { Raw.of op with mod := 2 }
def Raw.tlbi (r : Raw) : TlbiKind :=
  match r.mod.toNat with
  | 0 => .page (decS r.srca) | 1 => .ctx (decS r.srca) | _ => .all

/-! ### The opcode map (R174) -/

/-- The fields of a form-F or form-L instruction; none for a pair or an event. -/
def Instr.toRaw : Instr → Option Raw
  | .add o => some (o.raw 0x00)
  | .sub o => some (o.raw 0x01)
  | .adds o => some (o.raw 0x02)
  | .subs o => some (o.raw 0x03)
  | .mul o => some (o.raw 0x04)
  | .mulh o => some (o.raw 0x05)
  | .mad o => some (o.raw 0x06)
  | .madw o => some (o.raw 0x07)
  | .div o => some (o.raw 0x08)
  | .rem o => some (o.raw 0x09)
  | .min o => some (o.raw 0x0A)
  | .max o => some (o.raw 0x0B)
  | .abs o => some (o.raw 0x0C)
  | .neg o => some (o.raw 0x0D)
  | .and o => some (o.raw 0x0E)
  | .or o => some (o.raw 0x0F)
  | .xor o => some (o.raw 0x10)
  | .andn o => some (o.raw 0x11)
  | .not o => some (o.raw 0x12)
  | .shl o => some (o.raw 0x13)
  | .shr o => some (o.raw 0x14)
  | .sar o => some (o.raw 0x15)
  | .rotl o => some (o.raw 0x16)
  | .funs o => some (o.raw 0x17)
  | .popc o => some (o.raw 0x18)
  | .clz o => some (o.raw 0x19)
  | .ctz o => some (o.raw 0x1A)
  | .brev o => some (o.raw 0x1B)
  | .bfx o => some (o.raw 0x1C)
  | .bfi o => some (o.raw 0x1D)
  | .lea o => some (o.raw 0x1E)
  | .mov o => some (o.raw 0x1F)
  | .cmp o => some (o.raw 0x20)
  | .fcmp o => some (o.raw 0x21)
  | .sel o => some (o.raw 0x22)
  | .bitop o => some (o.raw 0x23)
  | .shfl o => some (o.raw 0x24)
  | .vote o => some (o.raw 0x25)
  | .wred o => some (o.raw 0x26)
  | .wscan o => some (o.raw 0x27)
  | .matchLanes o => some (o.raw 0x28)
  | .cvt o => some (o.raw 0x2A)
  | .pack o => some (o.raw 0x2B)
  | .unpk o => some (o.raw 0x2C)
  | .frnd o => some (o.raw 0x2D)
  | .movsr o => some (o.raw 0x2E)
  | .setsr o => some (o.raw 0x2F)
  | .fadd o => some (o.raw 0x40)
  | .fsub o => some (o.raw 0x41)
  | .fmul o => some (o.raw 0x42)
  | .ffma o => some (o.raw 0x43)
  | .fmin o => some (o.raw 0x44)
  | .fmax o => some (o.raw 0x45)
  | .fabs o => some (o.raw 0x46)
  | .fneg o => some (o.raw 0x47)
  | .fcps o => some (o.raw 0x48)
  | .fclass o => some (o.raw 0x49)
  | .fdiv o => some (o.raw 0x4A)
  | .fscl o => some (o.raw 0x4B)
  | .fxtr o => some (o.raw 0x4C)
  | .fdot2 o => some (o.raw 0x4D)
  | .fsat o => some (o.raw 0x4E)
  | .exp2 o => some (o.raw 0x60)
  | .log2 o => some (o.raw 0x61)
  | .rcp o => some (o.raw 0x62)
  | .rsq o => some (o.raw 0x63)
  | .sqrt o => some (o.raw 0x64)
  | .sinp o => some (o.raw 0x65)
  | .cosp o => some (o.raw 0x66)
  | .tanh o => some (o.raw 0x67)
  | .sigm o => some (o.raw 0x68)
  | .erf o => some (o.raw 0x69)
  | .exp o => some (o.raw 0x6A)
  | .loge o => some (o.raw 0x6B)
  | .gelu o => some (o.raw 0x6C)
  | .silu o => some (o.raw 0x6D)
  | .bra o => some (o.raw 0x70)
  | .brc o => some (o.raw 0x71)
  | .join => some (Raw.of 0x72)
  | .call o => some o.rawCall
  | .ret j => some (rawS 0x74 j)
  | .jmpi j => some (rawS 0x75 j)
  | .loop o => some o.rawLoop
  | .exit g => some { Raw.of 0x77 with guard := encGuard g }
  | .yield => some (Raw.of 0x78)
  | .nop => some (Raw.of 0x79)
  | .sleep v => some ((Raw.of 0x7A).withSVal v)
  | .ld o => some (o.raw 0x80)
  | .st o => some (o.raw 0x81)
  | .stnt o => some (o.raw 0x82)
  | .lds o => some (o.raw 0x83)
  | .sts o => some (o.raw 0x84)
  | .ldck o => some (o.raw 0x85)
  | .stck o => some (o.raw 0x86)
  | .pref o => some (o.raw 0x87)
  | .atom o => some (o.raw 0x88)
  | .red o => some (o.raw 0x89)
  | .atoms o => some (o.raw 0x8A)
  | .fence o => some (o.raw 0x8B)
  | .drnt => some (Raw.of 0x8C)
  | .redf sc => some { Raw.of 0x8D with x8 := 0#3 ++ sc.code ++ 0#2 }
  | .invl o => some (o.raw 0x8E)
  | .wbl o => some (o.raw 0x8F)
  | .rsync => some (Raw.of 0x90)
  | .bar o => some (o.raw 0xA0)
  | .wait o => some (o.raw 0xA1)
  | .waitw o => some (o.raw 0xA2)
  | .rarv o => some (o.raw 0xA3)
  | .rwt o => some (o.raw 0xA4)
  | .tflag v => some ((Raw.of 0xA5).withSVal v)
  | .wake o => some (o.raw 0xA6)
  | .nbsa a j => some { rawS 0xB0 j with mod := 0#2 ++ BitVec.ofBool a }
  | .nbcp j => some (rawS 0xB1 j)
  | .nbzr j => some (rawS 0xB2 j)
  | .nbopt j => some (rawS 0xB3 j)
  | .nbfn => some (Raw.of 0xB4)
  | .mma o => some (o.raw 0xC0)
  | .mmao o => some (o.raw 0xC1)
  | .acz o => some (o.raw 0xC2)
  | .acld o => some (o.raw 0xC3)
  | .acst o => some (o.raw 0xC4)
  | .tdrn o => some (o.raw 0xC5)
  | .acsc o => some (o.rawSrc 0xC6)
  | .acmx o => some (o.rawDst 0xC7)
  | .acex o => some (o.rawSrc 0xC8)
  | .cpt o => some (o.raw 0xD0)
  | .cpg o => some (o.raw 0xD1)
  | .cps o => some (o.raw 0xD2)
  | .cpq j => some (rawSD 0xD3 j)
  | .card o => some (o.raw 0xD4)
  | .cagt o => some (o.raw 0xD5)
  | .cata o => some (o.raw 0xD6)
  | .cbct o => some (o.raw 0xD7)
  | .sreg o => some (o.raw 0xE0)
  | .sld o => some (o.raw 0xE1)
  | .sst o => some (o.raw 0xE2)
  | .shrd o => some (o.raw 0xE3)
  | .slda o => some (o.raw 0xE4)
  | .ssta o => some (o.raw 0xE5)
  | .scmt o => some (o.raw 0xE6)
  | .snrm o => some (o.raw 0xE7)
  | .sigchk v => some { Raw.of 0xE8 with long := true, lit := v }
  | .sigrd j => some (rawSD 0xE9 j)
  | .ckgen o => some (o.raw 0xEA)
  | .cktst o => some (o.raw 0xEB)
  | .trap v => some ((Raw.of 0xF0).withSVal v)
  | .rett b => some { Raw.of 0xF1 with mod := 0#2 ++ BitVec.ofBool b }
  | .lnch o => some (o.raw 0xF2)
  | .prgs v => some ((Raw.of 0xF3).withSVal v)
  | .bkpt v => some ((Raw.of 0xF4).withSVal v)
  | .tlbi o => some (o.raw 0xF5)
  | .halt => some (Raw.of 0xF6)
  | .halfMov _ | .halfMovi _ | .halfAdd _ | .halfAddi _ | .halfSub _ | .halfAnd _ | .halfOr _ | .halfXor _
  | .halfShli _ | .halfShri _ | .halfSari _ | .halfMin _ | .halfMax _ | .halfMul _ | .halfFadd _ | .halfFsub _
  | .halfFmul _ | .halfFmac _ | .halfFmin _ | .halfFmax _ | .halfHadd _ | .halfHmul _ | .halfHmac _ | .halfCvtf _
  | .halfCvti _ | .halfNot _ | .halfAbs _ | .halfFabs _ | .halfFneg _ | .halfNop _
  | .loadValueLands _ _ | .storeAcknowledged _ | .acquireCompletes _ | .releaseWaitEnds _ | .gangRelaunch _
  | .homeRSi _ _ | .homeRWi _ _ | .homeOwn _ _ | .homeWrh _ _ | .homeSur _ | .recallWriteback _ _
  | .noticeInjection _ | .towpathInv | .towpathRcw | .towpathRca | .fillArrives _ | .grantArrives _
  | .homeAtomic _ | .waitwReevaluation _ _ | .waitwPoll _ _ | .watchEntryTaken _ _ | .sleepExpiry _ _
  | .yieldTimeout _ _ | .softEntryStaged _ | .commitArrival _ | .scmtCompletes _ | .copyRow _ | .copyCompletes _
  | .collectiveBlock _ _ | .collectiveCompletes _ | .ploughPartAccepted _ | .ploughRowStep _
  | .ploughPartCompletes _ | .crossChannelGranule _ | .matrixOperationStart _ _ | .matrixOperationFinishes _ _
  | .mxCounterFall _ | .arrayStaggeredStart _ | .launchRecordTaken _ _ | .teamPlacement _ | .l1Resize _ _
  | .registerCompaction _ | .planeSwap _ | .deadlinePreemption _ | .teamSave _ | .teamRestore _
  | .gridBarrierRotation _ | .podBarrierMessage _ _ _ _ _ _ | .podPhaseCompletion _ _ _ | .gridCompletes _
  | .pageWalk _ | .faultRecordWrite _ | .fqhead _ _ | .resumeRetry _ _ | .resumeError _ _ | .resumeDiscard _ _
  | .prdead _ _ | .invctlPage _ _ | .invctlContext _ _ | .invctlAll _ _ | .invalidationCompletes _
  | .registerWrite _ _ _ | .hostWrite _ _ | .hostRead _ _ | .fabricRequest _ | .thilosLinkDown _ _ | .retire _ _
  | .eridx _ _ | .attestationGo _ _ | .attestationDone | .firmwareStage _ _ | .firmwareStagingDone | .szlrel _ _
  | .powerCheck _ _ | .trip _ _ | .reset _ | .quadPowerUp _ | .illegalInstructionWord _ | .retirementCompletes
  | .standbyPowerLoss | .podRegistration _ _ _ _ => none

/-- The instruction that the fields of a word name; none where the OP cell is reserved. -/
def Raw.read (r : Raw) : Option Instr :=
  match r.op.toNat with
  | 0x00 => some (.add r.intBin)
  | 0x01 => some (.sub r.intBin)
  | 0x02 => some (.adds r.intBin)
  | 0x03 => some (.subs r.intBin)
  | 0x04 => some (.mul r.intBin)
  | 0x05 => some (.mulh r.intBin)
  | 0x06 => some (.mad r.intTri)
  | 0x07 => some (.madw r.intTri)
  | 0x08 => some (.div r.intBin)
  | 0x09 => some (.rem r.intBin)
  | 0x0A => some (.min r.intBin)
  | 0x0B => some (.max r.intBin)
  | 0x0C => some (.abs r.intUn)
  | 0x0D => some (.neg r.intUn)
  | 0x0E => some (.and r.intBin)
  | 0x0F => some (.or r.intBin)
  | 0x10 => some (.xor r.intBin)
  | 0x11 => some (.andn r.intBin)
  | 0x12 => some (.not r.intUn)
  | 0x13 => some (.shl r.intBin)
  | 0x14 => some (.shr r.intBin)
  | 0x15 => some (.sar r.intBin)
  | 0x16 => some (.rotl r.intBin)
  | 0x17 => some (.funs r.intTri)
  | 0x18 => some (.popc r.intUn)
  | 0x19 => some (.clz r.intUn)
  | 0x1A => some (.ctz r.intUn)
  | 0x1B => some (.brev r.intUn)
  | 0x1C => some (.bfx r.intTri)
  | 0x1D => some (.bfi r.intTri)
  | 0x1E => some (.lea r.intTri)
  | 0x1F => some (.mov r.intUn)
  | 0x20 => some (.cmp r.cmp)
  | 0x21 => some (.fcmp r.fcmp)
  | 0x22 => some (.sel r.sel)
  | 0x23 => some (.bitop r.bitop)
  | 0x24 => some (.shfl r.shfl)
  | 0x25 => some (.vote r.vote)
  | 0x26 => some (.wred r.wred)
  | 0x27 => some (.wscan r.wscan)
  | 0x28 => some (.matchLanes r.matchOp)
  | 0x2A => some (.cvt r.cvt)
  | 0x2B => some (.pack r.pack)
  | 0x2C => some (.unpk r.unpk)
  | 0x2D => some (.frnd r.frnd)
  | 0x2E => some (.movsr r.movsr)
  | 0x2F => some (.setsr r.setsr)
  | 0x40 => some (.fadd r.fbinR)
  | 0x41 => some (.fsub r.fbinR)
  | 0x42 => some (.fmul r.fbinR)
  | 0x43 => some (.ffma r.ftri)
  | 0x44 => some (.fmin r.fbin)
  | 0x45 => some (.fmax r.fbin)
  | 0x46 => some (.fabs r.fun_)
  | 0x47 => some (.fneg r.fun_)
  | 0x48 => some (.fcps r.fbin)
  | 0x49 => some (.fclass r.fun_)
  | 0x4A => some (.fdiv r.fbinR)
  | 0x4B => some (.fscl r.fbinR)
  | 0x4C => some (.fxtr r.fun_)
  | 0x4D => some (.fdot2 r.ftri)
  | 0x4E => some (.fsat r.fun_)
  | 0x60 => some (.exp2 r.fun_)
  | 0x61 => some (.log2 r.fun_)
  | 0x62 => some (.rcp r.fun_)
  | 0x63 => some (.rsq r.fun_)
  | 0x64 => some (.sqrt r.fun_)
  | 0x65 => some (.sinp r.fun_)
  | 0x66 => some (.cosp r.fun_)
  | 0x67 => some (.tanh r.fun_)
  | 0x68 => some (.sigm r.fun_)
  | 0x69 => some (.erf r.fun_)
  | 0x6A => some (.exp r.fun_)
  | 0x6B => some (.loge r.fun_)
  | 0x6C => some (.gelu r.fun_)
  | 0x6D => some (.silu r.fun_)
  | 0x70 => some (.bra r.bra)
  | 0x71 => some (.brc r.brc)
  | 0x72 => some .join
  | 0x73 => some (.call ⟨decSD r.dst, r.target⟩)
  | 0x74 => some (.ret (decS r.srca))
  | 0x75 => some (.jmpi (decS r.srca))
  | 0x76 => some (.loop ⟨decS r.srca, r.target⟩)
  | 0x77 => some (.exit (decGuard r.guard))
  | 0x78 => some .yield
  | 0x79 => some .nop
  | 0x7A => some (.sleep r.sval)
  | 0x80 => some (.ld r.mem)
  | 0x81 => some (.st r.mem)
  | 0x82 => some (.stnt r.mem)
  | 0x83 => some (.lds r.storeOp)
  | 0x84 => some (.sts r.storeOp)
  | 0x85 => some (.ldck r.mem)
  | 0x86 => some (.stck r.mem)
  | 0x87 => some (.pref r.mem)
  | 0x88 => some (.atom r.atom)
  | 0x89 => some (.red r.red)
  | 0x8A => some (.atoms r.atoms)
  | 0x8B => some (.fence r.fence)
  | 0x8C => some .drnt
  | 0x8D => some (.redf (.ofCode (r.x8.extractLsb' 2 3)))
  | 0x8E => some (.invl r.lineOp)
  | 0x8F => some (.wbl r.lineOp)
  | 0x90 => some .rsync
  | 0xA0 => some (.bar r.bar)
  | 0xA1 => some (.wait r.wait)
  | 0xA2 => some (.waitw r.waitw)
  | 0xA3 => some (.rarv r.rarv)
  | 0xA4 => some (.rwt r.rwt)
  | 0xA5 => some (.tflag r.sval)
  | 0xA6 => some (.wake r.wake)
  | 0xB0 => some (.nbsa (r.mod.getLsbD 0) (decS r.srca))
  | 0xB1 => some (.nbcp (decS r.srca))
  | 0xB2 => some (.nbzr (decS r.srca))
  | 0xB3 => some (.nbopt (decS r.srca))
  | 0xB4 => some .nbfn
  | 0xC0 => some (.mma r.mma)
  | 0xC1 => some (.mmao r.mmao)
  | 0xC2 => some (.acz r.accOp)
  | 0xC3 => some (.acld r.accMem)
  | 0xC4 => some (.acst r.accMem)
  | 0xC5 => some (.tdrn r.tdrn)
  | 0xC6 => some (.acsc r.accSrc)
  | 0xC7 => some (.acmx r.accDst)
  | 0xC8 => some (.acex r.accSrc)
  | 0xD0 => some (.cpt r.copy)
  | 0xD1 => some (.cpg r.copy)
  | 0xD2 => some (.cps r.copy)
  | 0xD3 => some (.cpq (decSD r.dst))
  | 0xD4 => some (.card r.coll)
  | 0xD5 => some (.cagt r.coll)
  | 0xD6 => some (.cata r.coll)
  | 0xD7 => some (.cbct r.coll)
  | 0xE0 => some (.sreg r.sreg)
  | 0xE1 => some (.sld r.sld)
  | 0xE2 => some (.sst r.sst)
  | 0xE3 => some (.shrd r.shrd)
  | 0xE4 => some (.slda r.slda)
  | 0xE5 => some (.ssta r.ssta)
  | 0xE6 => some (.scmt r.scmt)
  | 0xE7 => some (.snrm r.snrm)
  | 0xE8 => some (.sigchk r.lit)
  | 0xE9 => some (.sigrd (decSD r.dst))
  | 0xEA => some (.ckgen r.ckgen)
  | 0xEB => some (.cktst r.cktst)
  | 0xF0 => some (.trap r.sval)
  | 0xF1 => some (.rett (r.mod.getLsbD 0))
  | 0xF2 => some (.lnch r.lnch)
  | 0xF3 => some (.prgs r.sval)
  | 0xF4 => some (.bkpt r.sval)
  | 0xF5 => some (.tlbi r.tlbi)
  | 0xF6 => some .halt
  | _ => none

/-- The half opcode of a pair's first half, and its fields (R172); none for other instructions. -/
def Instr.toHalf : Instr → Option (BitVec 6 × HalfOp)
  | .halfMov o => some (0x00, o)
  | .halfMovi o => some (0x01, o)
  | .halfAdd o => some (0x02, o)
  | .halfAddi o => some (0x03, o)
  | .halfSub o => some (0x04, o)
  | .halfAnd o => some (0x05, o)
  | .halfOr o => some (0x06, o)
  | .halfXor o => some (0x07, o)
  | .halfShli o => some (0x08, o)
  | .halfShri o => some (0x09, o)
  | .halfSari o => some (0x0A, o)
  | .halfMin o => some (0x0B, o)
  | .halfMax o => some (0x0C, o)
  | .halfMul o => some (0x0D, o)
  | .halfFadd o => some (0x0E, o)
  | .halfFsub o => some (0x0F, o)
  | .halfFmul o => some (0x10, o)
  | .halfFmac o => some (0x11, o)
  | .halfFmin o => some (0x12, o)
  | .halfFmax o => some (0x13, o)
  | .halfHadd o => some (0x14, o)
  | .halfHmul o => some (0x15, o)
  | .halfHmac o => some (0x16, o)
  | .halfCvtf o => some (0x17, o)
  | .halfCvti o => some (0x18, o)
  | .halfNot o => some (0x19, o)
  | .halfAbs o => some (0x1A, o)
  | .halfFabs o => some (0x1B, o)
  | .halfFneg o => some (0x1C, o)
  | .halfNop o => some (0x1D, o)
  | _ => none

/-- The pair whose first half has a half opcode; none where it is reserved. -/
def pairOf (hop : BitVec 6) (o : HalfOp) : Option Instr :=
  match hop.toNat with
  | 0x00 => some (.halfMov o)
  | 0x01 => some (.halfMovi o)
  | 0x02 => some (.halfAdd o)
  | 0x03 => some (.halfAddi o)
  | 0x04 => some (.halfSub o)
  | 0x05 => some (.halfAnd o)
  | 0x06 => some (.halfOr o)
  | 0x07 => some (.halfXor o)
  | 0x08 => some (.halfShli o)
  | 0x09 => some (.halfShri o)
  | 0x0A => some (.halfSari o)
  | 0x0B => some (.halfMin o)
  | 0x0C => some (.halfMax o)
  | 0x0D => some (.halfMul o)
  | 0x0E => some (.halfFadd o)
  | 0x0F => some (.halfFsub o)
  | 0x10 => some (.halfFmul o)
  | 0x11 => some (.halfFmac o)
  | 0x12 => some (.halfFmin o)
  | 0x13 => some (.halfFmax o)
  | 0x14 => some (.halfHadd o)
  | 0x15 => some (.halfHmul o)
  | 0x16 => some (.halfHmac o)
  | 0x17 => some (.halfCvtf o)
  | 0x18 => some (.halfCvti o)
  | 0x19 => some (.halfNot o)
  | 0x1A => some (.halfAbs o)
  | 0x1B => some (.halfFabs o)
  | 0x1C => some (.halfFneg o)
  | 0x1D => some (.halfNop o)
  | _ => none

/-! ### The decoder -/

/-- A form-F or form-L word: accepted exactly when it is the encoding of a well-formed instruction. -/
def decodeRaw (r : Raw) : Except DecodeError Instr :=
  match r.read with
  | none => .error .reservedOp
  | some i => if i.wf && i.toRaw == some r then .ok i else .error .reservedValue

/-- What the fields of a word name, whether or not it is an instruction; none for a reserved OP and outside forms F and L.
-/
def namedBy (p0 : Word) (rest : List Word) : Option Instr :=
  match (p0.extractLsb' 30 2).toNat, rest with
  | 0, p1 :: _ => (Raw.ofParcels p0 p1 none).read
  | 2, p1 :: lit :: _ => (Raw.ofParcels p0 p1 (some lit)).read
  | _, _ => none

/-- A form-P word. A pair that R173 calls malformed is read as well; its meaning takes cause 0x02. -/
def decodePair (p0 p1 : Word) : Except DecodeError Instr :=
  let h := Half.ofWord p0
  match pairOf h.hop ⟨h.d, h.a, h.b, p1⟩ with
  | none => .error .malformedPair
  | some i => .ok i

/-- Parcels of an instruction whose first parcel is `p0` (R158). -/
def formParcels (p0 : Word) : Nat := if p0.extractLsb' 30 2 == 2#2 then 3 else 2

/-- The instruction at the head of a list of parcels (R157, R158). -/
def decodeParcels (ps : List Word) : Except DecodeError Instr :=
  match ps with
  | [] => .error .truncated
  | p0 :: rest =>
    match (p0.extractLsb' 30 2).toNat, rest with
    | 0, p1 :: _ => decodeRaw (Raw.ofParcels p0 p1 none)
    | 1, p1 :: _ => decodePair p0 p1
    | 2, p1 :: lit :: _ => decodeRaw (Raw.ofParcels p0 p1 (some lit))
    | 3, _ => .error .notAnInstruction
    | _, _ => .error .truncated

/-- A little-endian word of four bytes (R4). -/
def wordOfBytes (b0 b1 b2 b3 : Byte) : Word := b3 ++ b2 ++ b1 ++ b0

/-- The parcels of a byte stream; left-over bytes are dropped. -/
def parcelsOfBytes : List Byte → List Word
  | b0 :: b1 :: b2 :: b3 :: rest => wordOfBytes b0 b1 b2 b3 :: parcelsOfBytes rest
  | _ => []

/-- The decoder, total on any bytes. -/
def decode (bytes : List Byte) : Except DecodeError Instr := decodeParcels (parcelsOfBytes bytes)

/-! ### The encoder -/

/-- The parcels of an instruction, in the order of their addresses; an event has none. -/
def encode (i : Instr) : List Word :=
  match i.toRaw with
  | some r => r.parcels
  | none =>
    match i.toHalf with
    | some (hop, o) => [1#2 ++ hop ++ o.d ++ o.a ++ o.b, o.second]
    | none => []

/-- The bytes of a word as the instruction stream holds them (R4, R157). -/
def bytesOfWord (w : Word) : List Byte :=
  [w.extractLsb' 0 8, w.extractLsb' 8 8, w.extractLsb' 16 8, w.extractLsb' 24 8]

/-- Size of an instruction in parcels; events have none. -/
def Instr.size (i : Instr) : Nat :=
  match i with
  | .illegalInstructionWord x => formParcels x.p0
  | i => (encode i).length

/-- The first three parcels of an instruction whose bits are `w`, numbered as spec/opcode_table.json numbers them;
every bit at or above `nbits` is 0. -/
def tableParcels (nbits w : Nat) : List Word :=
  let x := w % 2 ^ nbits
  [BitVec.ofNat 32 x, BitVec.ofNat 32 (x / 2 ^ 32), BitVec.ofNat 32 (x / 2 ^ 64)]

/-- The instruction the decoder reads from an instruction whose bits are `w`. -/
def decodeTableWord (nbits w : Nat) : Option Instr :=
  match decode ((tableParcels nbits w).flatMap bytesOfWord) with
  | .ok i => some i
  | .error _ => none

end Sys2Proof
end

