-- ==== Sys2Proof/Config.lean ====
section
/-! DEFINITION. What an implementation fixes and what the spec leaves open: constants without a body, so that no
proof can see a value of them. Each is named in the assumption log. -/

namespace Sys2Proof.Config

/-- The interleaving of the device's agents, where the agenda names none (log 1). -/
opaque schedule : Nat → Move

/-- Which of the two neighbours of f(x) an FP32 function returns: true for the one of greater value (R203, R252)
(log 2). Arguments: the function's OP and the argument's bits. -/
opaque fnuUp : Nat → Word → Bool

/-- The context a launch record of a partition runs in when both are enabled (log 3). -/
opaque launchContext : Nat → Bool

/-- The device's number in the pod (R176, R344, R360), 0 outside one (log 22). -/
opaque device : BitVec 10
/-- The Thilos port at which this device's requests to itself arrive (R353, log 55). -/
opaque ownPort : BitVec 4

/-- Verdict of the KRT on a firmware image of a type: its security version and digest if its signature verifies
(R368) (log 4). -/
opaque imageVerdict : Nat → List CWord → Option (Nat × BitVec 512)

/-- The firmware in force of a type before any was staged: security version and digest (R368, R369) (log 4). -/
opaque factoryImage : Nat → Option (Nat × BitVec 512)
/-- The MGC firmware in force before any was staged, which a reset starts (R365) (log 4). -/
opaque mgcImage : Nat × BitVec 512
/-- The fused minimum that the operator has commanded for a type by some time (R368) (log 85). -/
opaque operatorMinimum : Nat → Nat → Nat

/-- SHA-512 of the identity public key (R369) (log 4). -/
opaque identityDigest : BitVec 512

/-- The signature of a report by the identity key, 132 bytes as 33 words (R369) (log 4). -/
opaque reportSignature : List Word → Fin 33 → Word

/-- Which way of a full set the L2 slice of a channel gives up (R60 names no replacement) (log 5). Argument: the step. -/
opaque l2Victim : Nat → Nat

/-- A word of a team's image in the save area: step and word number; R336 names no layout (log 69). -/
opaque imageWord : Nat → Nat → Word

/-- Which of the values that an operand word has had since a matrix operation's issue the array reads (R280) (log 111).
Arguments: the step and the word's store key. -/
opaque mxReads : Nat → Nat → Nat

/-- Reading a line's directory entry for an engine's access finds an uncorrectable error (R84) (log 5). Arguments: the line
and the step. -/
opaque dirError : Nat → Nat → Bool

/-- A value the spec does not state, for the step that meets it (TVAL of cause 0x03, R177) (log 6). -/
opaque freeWord : Nat → Word

/-- An address the spec does not state, for the step that meets it (ADDR of the record of a queue number or a group
number out of range, R302, R294, R347) (log 6). -/
opaque freeAddr : Nat → DWord

/-- A word read over the Thilos fabric by an engine or a fetch: physical address and step (R357) (log 7). -/
opaque remoteWord : Nat → Nat → CWord

end Sys2Proof.Config
end

