-- ==== Sys2Proof/Machine/State.lean ====
section
/-! DEFINITION. The state of the BX9 as plain data: everything the spec gives the device, and the device after
reset. Tables (`Tab`) are sorted by key; a key that is absent holds the default its docstring names. -/

namespace Sys2Proof.Machine

open Sys2Proof

/-- Why the machine stops. -/
inductive Fault where
  /-- `exec` was asked for a warp instruction while no live slot is issuing. Raised by the issue wrapper of
  Machine/Ops.lean. Safe: `step` never asks for it. -/
  | noIssuer
  deriving DecidableEq, Repr

/-- Why the model declines. -/
inductive Refusal where
  /-- An instruction without a meaning, rejected by name in Machine/Dispatch.lean. Safe. -/
  | notModelled (mnemonic : String)
  deriving DecidableEq, Repr

/-- A memory of 40-bit words (R139): data bytes by byte address, and by word number the check difference of every
word that is not good. An unlisted byte reads 0 and an unlisted word is good. -/
structure Mem where
  data : List Host.Cell
  syn : List Host.Cell
  deriving DecidableEq, Repr

/-- The six outstanding-operation counters of a warp (R26). -/
inductive Ctr where
  | ld | st | cp | mx | nm | sf
  deriving DecidableEq, Repr

/-- Values of the six counters, each 0 to 63 (R26). -/
structure Counters where
  ld : Nat
  st : Nat
  cp : Nat
  mx : Nat
  nm : Nat
  sf : Nat
  deriving DecidableEq, Repr

/-- A waiting WAITW: the store word (as a key of `State.store`), the comparison, and its watch entry (R265). -/
structure WordWait where
  key : Nat
  addr : Word
  cond : Cond
  signed : Bool
  acq : Bool
  value : Word
  entry : Bool
  polled : Nat
  /-- parcel offset of the WAITW -/
  pc : Word
  deriving DecidableEq, Repr

/-- What a live slot waits for after an instruction has issued (R33). -/
inductive Block where
  | none
  /-- SLEEP until a cycle (R233). -/
  | sleep (until_ : Nat)
  /-- YIELD: until a cycle, or until the named ready slots have issued (R231). -/
  | yield (until_ : Nat) (others : List (Nat × Bool))
  /-- WAIT with its limits (R264). -/
  | wait (lim : WaitOp)
  | waitw (w : WordWait)
  /-- BAR: until the phase bit of the barrier differs from `phase` (R263). -/
  | bar (level : BarLevel) (n : BitVec 6) (phase : Bool)
  /-- RWT: until the chamber has this state and phase (R267). -/
  | ring (ring : BitVec 5) (chamber : BitVec 3) (full phase : Bool)
  /-- LNCH: until its record is in the queue (R302). -/
  | lnch (op : Nat)
  /-- TLBI: until the invalidation is done (R304). -/
  | tlbi (inv : Nat)
  deriving DecidableEq, Repr

/-- A live program-counter slot (R9), its signature and shadow mask (R152, R154), and what holds it back. -/
structure Slot where
  pc : Word
  mask : Word
  join : Option Word
  sig : Word
  shadow : Word
  block : Block
  /-- first cycle in which it may issue again (R179, R223, R283, R290) -/
  readyAt : Nat
  /-- cycle since which it is ready; none while it is not (R334) -/
  readySince : Option Nat
  /-- its next instruction was found unable to issue, and nothing has happened since -/
  heldBack : Bool
  deriving DecidableEq, Repr

/-- A soft region descriptor as SREG read it (R115); `region` is the physical address of slot 0, which names the
region at its commit home. -/
structure SoftDesc where
  region : Nat
  base : DWord
  w : Nat
  n : Nat
  parts : Nat
  wbase : DWord
  gbase : DWord
  deriving DecidableEq, Repr

/-- A soft handle of a warp (R114). -/
structure Handle where
  desc : Option SoftDesc
  sq : Word
  ew : Word
  lq : Word
  deriving DecidableEq, Repr

/-- A warp's record of one barrier: arrived mask, phase bit of its last arrival, dropped mask (R262). -/
structure WarpBar where
  level : BarLevel
  n : BitVec 6
  arrived : Word
  phase : Option Bool
  dropped : Word
  deriving DecidableEq, Repr

/-- A deferred report (R281); `handle` is set for reports of a soft region (R136). -/
structure Report where
  ctr : Ctr
  cause : Byte
  tval : Word
  handle : Option (BitVec 4)
  deriving DecidableEq, Repr

/-- Hidden trap state (R350). -/
structure TrapState where
  slot0 : Option Slot
  slot1 : Option Slot
  depth : Nat
  s60 : Word
  s61 : Word
  s62 : Word
  s63 : Word
  trapped : Bool
  /-- size in parcels of the trapped instruction, for RETT.skip -/
  size : Nat
  /-- the trap's CAUSE and TVAL, kept for a retry of a double trap (R348) -/
  cause : Word
  tval : Word
  deriving DecidableEq, Repr

/-- An acquire that has not completed (R80, R97): the slot count it waits for, and the operation whose value it
waits for. Notices decided before its reference, those with identities below `bound`, must have been processed too,
so that writes merged before it are visible (R102; DEDUCED, log 35). -/
structure Acquire where
  id : Nat
  refSlot : Word
  bound : Nat
  op : Option Nat
  /-- scope `.quad` or wider; whether SI words are dropped depends on the domain (R80) -/
  scope : Scope
  /-- FENCE.acq: waits for earlier loads and atomics of the warp, by issue number (R99) -/
  loadsBefore : Option Nat
  deriving DecidableEq, Repr

/-- DRNT, REDF and NBFN hold back the warp's later instructions (R103 to R105): kind and issue number. -/
inductive HoldKind where
  | drnt | redf | nbfn
  deriving DecidableEq, Repr

/-- Why a warp does not issue at all. -/
inductive WarpStop where
  | running
  /-- suspended by a fault whose record is held or outstanding, with its identity (R349) -/
  | suspended (rec_ : Nat)
  /-- stopped by HALT or a double trap (R305, R350) -/
  | halted (rec_ : Nat)
  deriving DecidableEq, Repr

/-- A resident or saved warp. Its registers are in its register block (R49) and its window (R27). -/
structure Warp where
  uid : Nat
  team : Nat
  /-- WARP -/
  index : Nat
  /-- CORE, 0 to 383 -/
  core : Nat
  /-- warp slot of the core, 0 to 63 (R328, R334) -/
  ws : Nat
  /-- the `.regs` value (R160) -/
  regs : Nat
  /-- store address of the register block (R49) -/
  regBase : Nat
  /-- store address of the divergence stack, and its depth D (R50, R11) -/
  stackBase : Nat
  dstk : Nat
  /-- ROLE: 0 cp, 1 mx, 2 vx, 3 gn (R22) -/
  role : BitVec 2
  slot0 : Option Slot
  slot1 : Option Slot
  /-- entries on the divergence stack (R11) -/
  depth : Nat
  ctrs : Counters
  flags : Word
  lanectl : Word
  trapen : Word
  cnt : Word
  passes : Word
  cause : Word
  tval : Word
  /-- bits latched for CLKHI (R222) -/
  clkhi : Word
  /-- the warp's latest accepted copy: its identity, ROWPROG and its total rows (R291, R292) -/
  latestCopy : Nat
  rowprog : Word
  copyRows : Word
  /-- results of the last issued instructions, newest first: word number in the register block and value (R27) -/
  window : List (List (Nat × Word))
  /-- issue number of the next instruction (R91) -/
  seq : Nat
  trap : Option TrapState
  reports : List Report
  handles : List Handle
  bars : List WarpBar
  acquires : List Acquire
  holds : List (HoldKind × Nat)
  /-- an earlier plough operation completed with error status; the address of its first poisoned result (R156) -/
  ploughError : Option DWord
  stop : WarpStop
  /-- cycle of placement, for R334 and R338 -/
  placed : Nat
  deriving DecidableEq, Repr

/-- A barrier entry (R262): phase, registered count, arrival count, and threads that leave the registered count
when the phase completes. -/
structure Bar where
  n : BitVec 6
  phase : Bool
  registered : Nat
  arrived : Nat
  leaving : Nat
  deriving DecidableEq, Repr

/-- A chamber of a ring (R24). -/
structure Chamber where
  full : Bool
  phase : Bool
  count : Nat
  deriving DecidableEq, Repr

/-- A ring of one core of a team (R23): fill and drain counts and chambers. -/
structure Ring where
  fill : Nat
  drain : Nat
  chambers : List Chamber
  deriving DecidableEq, Repr

/-- Where a team is. -/
inductive TeamPlace where
  | resident
  /-- saved in the shadow plane or in the save area (R336) -/
  | saved (inMemory : Bool)
  deriving DecidableEq, Repr

/-- The register blocks, team block and accumulator tiles of a saved team, by core (R336). Their layout in the
shadow plane or the save area is not given by the spec; the words are kept here. -/
structure Image where
  core : Nat
  words : Tab CWord
  upsets : Tab Bool
  acc : Tab Word
  deriving DecidableEq, Repr

/-- What the estimator decided for a team (R335). -/
inductive Decision where
  | none | drain | save
  deriving DecidableEq, Repr

/-- A placed team. -/
structure Team where
  uid : Nat
  grid : Nat
  lin : Nat
  gang : Nat
  /-- CORE numbers in the team's order (R17) -/
  cores : List Nat
  /-- plane of the banked store it lives in, core by core in the team's order (R321) -/
  planes : List Bool
  /-- SPBASE on each core (R50) -/
  spBases : List Nat
  /-- bytes of the team block -/
  blockSize : Nat
  place : TeamPlace
  /-- halted for a save or a rotation (R322) -/
  halting : Bool
  /-- stopped for a compaction of its register blocks (R63) -/
  compacting : Bool
  /-- the other plane of its cores is kept for its image (R336, R343) -/
  reserve : Bool
  decision : Decision
  /-- deadline of the decision standing (R342) -/
  deadline : Nat
  /-- first accumulator tile of the team on each core (R328) -/
  accBase : List Nat
  /-- rings, per core of the team (R23) -/
  rings : List (List Ring)
  bars : List Bar
  /-- progress in 256ths (R303) -/
  progress : Nat
  /-- cycle of placement or of the last restore (R338) -/
  since : Nat
  images : List Image
  /-- rotated out and back only when the phase completes (R339) -/
  rotated : Bool
  deriving DecidableEq, Repr

/-- A gang (R19, R330). `quads` are global quad numbers in ascending order. -/
structure Gang where
  uid : Nat
  grid : Nat
  quads : List Nat
  open_ : Bool
  relaunches : Nat
  bars : List Bar
  deriving DecidableEq, Repr

/-- The fields of a launch record (R325). -/
structure LaunchRec where
  entry : DWord
  ntx : Nat
  nty : Nat
  ntz : Nat
  w : Nat
  c : Nat
  roles : BitVec 128
  regs : Nat
  acc : Nat
  nring : Nat
  nbar : Nat
  nsoft : Nat
  scratch : Nat
  dstk : Nat
  ringtab : DWord
  relaunch : Bool
  gridbar : Bool
  fusel1 : Bool
  spread : Bool
  prio : Nat
  dclass : Nat
  podgrp : Nat
  cint : Bool
  param : DWord
  prod : Word
  dep : Bool
  map : Nat
  rb : Nat
  tiles : Nat
  compva : DWord
  saveva : DWord
  deriving DecidableEq, Repr

/-- A relaunch of a contained or discarded gang's teams that waits for placement (R151, R335). -/
structure Relaunch where
  gang : Nat
  teams : List Nat
  relaunches : Nat
  /-- cycle since which its teams wait, and whether one of them has been placed (R327, R337) -/
  since : Nat
  begun : Bool
  deriving DecidableEq, Repr

/-- A launch that has been taken and whose grid has not completed. -/
structure Grid where
  uid : Nat
  /-- LAUNCH word (R324) -/
  launch : Word
  part : Nat
  queue : Nat
  ctx : Bool
  r : LaunchRec
  /-- words of the ring table (R325) -/
  ringWords : List Word
  /-- `.data scratch` images of the kernel: byte offset in the scratchpad and word (R42) -/
  scratchInit : Tab Word
  /-- linear number of the next team never considered, and teams before it that waited on tile flags (R331) -/
  nextTeam : Nat
  skipped : List Nat
  relaunches : List Relaunch
  /-- teams that have ended -/
  ended : Nat
  /-- no further team is placed, with the status the completion record will carry (R151, R348) -/
  failed : Option Nat
  /-- reason code of a rejected record (R326) -/
  reason : Nat
  relaunchCount : Nat
  /-- ready flags of its tiles (R268) -/
  tiles : List Nat
  bars : List Bar
  /-- cycle since which its next team waits, and whether that wait has raised a request (R337) -/
  waitingSince : Nat
  requested : Bool
  deriving DecidableEq, Repr

/-- State of a word of an L1 line (R67); absent words are in state I. -/
inductive WState where
  | si | wi | ow
  deriving DecidableEq, Repr

structure L1Word where
  st : WState
  val : CWord
  deriving DecidableEq, Repr

/-- A line of an L1: physical line number (PA / 128) and its valid words (R51). -/
structure L1Line where
  line : Nat
  words : Tab L1Word
  deriving DecidableEq, Repr

/-- An L1 domain, keyed by the CORE number of its core (core 0 of a fused quad) (R66): lines, most recently used
first. -/
structure L1 where
  lines : List L1Line
  deriving DecidableEq, Repr

/-- A quad: powered (R365) and fused (R59). -/
structure Quad where
  powered : Bool
  fused : Bool
  deriving DecidableEq, Repr

/-- What a directory entry waits for (R74). -/
inductive Busy where
  | idle | rsi | rwi | own | wrh | victim | recallAll
  deriving DecidableEq, Repr

/-- Owner of a line: fused flag and domain, ODOM as die, quad and core (R74). -/
structure Owner where
  fused : Bool
  dom : Nat
  deriving DecidableEq, Repr

/-- A tracked line of a home's directory (R74). A line without an entry is untracked. -/
structure DirEntry where
  line : Nat
  shr : BitVec 96
  owm : Word
  owner : Option Owner
  busy : Busy
  /-- the request whose service waits for the recall -/
  waiting : Nat
  /-- domains whose write-back is still to come in a recall-all that has been delivered (R84) -/
  pending : Nat
  deriving DecidableEq, Repr

inductive NoticeKind where
  | inv | rcw | rca
  deriving DecidableEq, Repr

/-- A Towpath notice (R76). `id` ties it to the fill, grant or reply that depends on it. -/
structure Notice where
  id : Nat
  kind : NoticeKind
  line : Nat
  wmask : Word
  owner : Owner
  deriving DecidableEq, Repr

/-- A notice on the Towpath: its slot number and the cycle of its injection (R77). -/
structure Flying where
  notice : Notice
  slot : Word
  cycle : Nat
  deriving DecidableEq, Repr

/-- Who asks a home. -/
inductive ReqSrc where
  /-- an L1 domain -/
  | dom (d : Nat) (fused : Bool)
  | host
  | fabric (device : Nat)
  /-- the operation, copy, collective, commit, team or part whose engine asks; 0 for a unit of the device itself -/
  | engine (id : Nat)
  /-- a slot of a warp that fetches, or reads memory for its instruction -/
  | warp (uid : Nat) (slot : Bool)
  /-- a table walk -/
  | walk (id : Nat)
  deriving DecidableEq, Repr

inductive ReqKind where
  | rsi | rwi | own | wrh
  /-- a surrender -/
  | sur
  | atomic (k : AtomKind)
  | reduce (k : AtomKind)
  deriving DecidableEq, Repr

/-- A request on its way to, or waiting at, the home of `line` (R75, R81). -/
structure Req where
  id : Nat
  src : ReqSrc
  kind : ReqKind
  line : Nat
  mask : Word
  /-- data words carried, by word of the line -/
  words : Tab CWord
  /-- expected words of a `cas`, by word of the line -/
  expect : Tab CWord
  /-- operation served, lane for an atomic -/
  op : Nat
  lane : Nat
  /-- miss waiting for the fill or grant -/
  miss : Nat
  /-- place in the home's order of arrival (R75); 0 while it has not arrived -/
  arrived : Nat
  /-- accepted through the plough's admission (R270) -/
  admitted : Bool
  /-- the page is fallow by its translation (R352) -/
  fal : Bool
  deriving DecidableEq, Repr

/-- A pending miss of an L1 domain (R85, R371). -/
structure Miss where
  id : Nat
  dom : Nat
  line : Nat
  kind : ReqKind
  firstSlot : Word
  notices : Nat
  deriving DecidableEq, Repr

/-- A fill or a grant on its way to an L1 domain; `ownNotice` is the notice injected on its behalf, `ownSlot` its
slot number once injected (R85). -/
structure Reply where
  id : Nat
  dom : Nat
  line : Nat
  grant : Bool
  wi : Bool
  words : Tab CWord
  /-- words of the line that the domain itself owned when the home sent it -/
  own : Tab CWord
  /-- words that have become I in the domain since: by an acquire, a write at home or a surrender -/
  gone : Word
  miss : Nat
  ownNotice : Option Nat
  ownSlot : Option Word
  /-- cycle in which it was sent -/
  sent : Nat
  deriving DecidableEq, Repr

/-- The reply to a write at home, sent once its notice has a slot number (R78). -/
structure WrhReply where
  req : Nat
  op : Nat
  notice : Option Nat
  /-- cycle in which it was sent -/
  sent : Nat
  deriving DecidableEq, Repr

/-- An owner's write-back on its way to the home, with the slot number and the mask of the notice it answers (R79). -/
structure Writeback where
  id : Nat
  slot : Word
  dom : Nat
  line : Nat
  mask : Word
  words : Tab CWord
  all : Bool
  deriving DecidableEq, Repr

/-- Target of one word of an access, after translation (R353) or store-address resolution (R52). -/
inductive Tgt where
  | hbm (pa : Nat)
  | host (a : Nat)
  | fabric (pa : Nat)
  /-- a word of a banked store, by key -/
  | store (key : Nat)
  /-- a register word of a warp, by word number in its block -/
  | reg (warp k : Nat)
  deriving DecidableEq, Repr

/-- One word of one lane's access. -/
structure OpWord where
  lane : Nat
  j : Nat
  addr : DWord
  tgt : Tgt
  pol : Policy
  fal : Bool
  data : CWord
  expect : CWord
  /-- the value a load or atomic received -/
  got : Option CWord
  /-- a store's word has reached its point of R26, an atomic's word is performed -/
  done : Bool
  /-- floating-point flags raised by an atomic at its home or bank -/
  flags : Word
  /-- the miss this word waits for -/
  miss : Option Nat
  deriving DecidableEq, Repr

/-- Which soft operation (R297). -/
inductive SoftKind where
  | sld | sst | shrd (m : ShrdMode) (addr : Bool) | slda | ssta | snrm (smax : Bool) | scmt (rev : Bool)
  deriving DecidableEq, Repr

/-- The warp that issued an engine's work, as records name it (R347). -/
structure Issuer where
  part : Nat
  ctx : Bool
  launch : Word
  teamlin : Word
  core : Nat
  index : Nat
  deriving DecidableEq, Repr

/-- A soft operation in flight: its list as read at issue (index, weight) and its operands. -/
structure SoftOp where
  kind : SoftKind
  issuer : Issuer
  handle : BitVec 4
  desc : SoftDesc
  mask : Word
  list : List (Nat × Word)
  dense : Bool
  /-- physical address of each entry's slot with its fallow attribute, and home channel of each staged entry -/
  places : List (Nat × Bool)
  homes : List Nat
  /-- store address of the list read, and of the list written -/
  inAddr : Nat
  outAddr : Nat
  vals : List Word
  u : Word
  /-- SQ or LQ of the rank key, epoch tag -/
  count : Word
  epoch : Word
  /-- entries staged so far -/
  staged : Nat
  /-- gradients returned by an adjoint commit: by position, and their sums for gv with the flags raised -/
  gw : Tab CWord
  gv : List Word
  gvFlags : Word
  /-- first bad gradient word met by an active lane: lane, word, address -/
  gvBad : Option (Nat × CWord × DWord)
  deriving DecidableEq, Repr

/-- What an operation of the memory path or of an engine is. -/
inductive OpKind where
  | ld | lds | ldck
  | st | stck | stnt | sts
  | atom (k : AtomKind) | red (k : AtomKind) | atoms (k : AtomKind)
  | fence (rel acq : Bool) (scope : Scope)
  | bar (kind : BarKind) (level : BarLevel) (n : BitVec 6) (lanes : Word)
  | ring (r : BitVec 5) (c : BitVec 3)
  | copy (id : Nat)
  | tflag (t : Word)
  | lnch (record : List Word) (queue : Nat) (dst : SReg)
  | tlbi (inv : Nat)
  | soft (o : SoftOp)
  | plough (err : Option DWord)
  deriving DecidableEq, Repr

/-- An operation that has issued and is not finished (R26, R372). -/
structure Op where
  id : Nat
  warp : Nat
  slot : Bool
  pc : Word
  seq : Nat
  kind : OpKind
  ctr : Option Ctr
  /-- destination register of a load, and its width in words -/
  dst : Nat
  width : Nat
  words : List OpWord
  /-- a release that still makes its wait (R372) -/
  held : Bool
  /-- an STNT that the L1 domain, or a RED that the home, has accepted (R103, R104) -/
  accepted : Bool
  deriving DecidableEq, Repr

/-- A staged soft entry at the home of its slot (R122, R130, R131). -/
structure Staged where
  region : Nat
  home : Nat
  kind : SoftKind
  teamlin : Word
  warpIndex : Nat
  count : Word
  pos : Nat
  slot : Nat
  weight : Word
  clamped : Bool
  vals : List CWord
  epoch : Word
  op : Nat
  warp : Nat
  deriving DecidableEq, Repr

/-- An SCMT arrival at the commit home (R124). -/
structure Arrival where
  op : Nat
  warp : Nat
  epoch : Word
  rev : Bool
  desc : SoftDesc
  handle : BitVec 4
  deriving DecidableEq, Repr

/-- A region kept by its commit home, named by the physical address of its slot 0 (R124). -/
structure Region where
  base : Nat
  part : Nat
  ctx : Bool
  epoch : Word
  /-- EPOCH was bad when the region was taken up (R141) -/
  bad : Bool
  arrivals : List Arrival
  /-- commits that staging overflowed, by epoch (R136) -/
  overflows : List Word
  deriving DecidableEq, Repr

/-- A commit that has been applied or has failed, and whose participants' sf counters have not fallen (R124). -/
structure Commit where
  id : Nat
  arrivals : List Arrival
  /-- failure kind of R136 -/
  failed : Option Nat
  /-- flags gathered per warp (R129) -/
  flags : List (Nat × Word)
  /-- SSTA operations whose results it returns (R132) -/
  results : List Nat
  /-- notices of its writes (R78) -/
  notices : List Nat
  /-- the region, and its words and gradient words not yet written: physical address, fallow, value; the words of one slot,
  `stride` bytes, are written in order (R121) -/
  region : Nat
  stride : Nat
  todo : List (Nat × Bool × CWord)
  /-- lines of those words (R110) -/
  lines : List Nat
  deriving DecidableEq, Repr

/-- An operation of the matrix group (R277, R279). -/
inductive MxKind where
  | mma (ty : MmaTy) (a b : Nat) (outliers : List (Nat × Nat × Word))
  | acz
  | acld (a : Nat)
  | acst (a : Nat)
  | tdrn (f : DrainFmt) (d s : Nat)
  | acsc (v : Nat)
  | acmx (v : Nat)
  | acex (v : Nat)
  deriving DecidableEq, Repr

structure MxOp where
  id : Nat
  warp : Nat
  pc : Word
  /-- issue number over both units of the core -/
  order : Nat
  /-- tile of the core, 0 to 31 -/
  tile : Nat
  /-- participating lanes, and the lowest active lane of the issuing slot -/
  mask : Word
  lane : Nat
  kind : MxKind
  /-- plane of the core's store that its addresses name (R46) -/
  plane : Bool
  /-- operand words that the array reads: first store key and number of words of each tile (R280) -/
  spans : List (Nat × Nat)
  /-- values that operand words had before they were written since its issue: store keys, oldest first (R280) -/
  olds : List (Nat × CWord)
  /-- register operand read at the start (R279) -/
  reg : List Word
  started : Option Nat
  /-- end of its last occupied cycle, once finished -/
  ended : Option Nat
  deriving DecidableEq, Repr

/-- A copy's notification (R290): none, a store key, or a ring chamber of a core. -/
inductive CopyNotify where
  | none
  | word (key : Nat)
  | ring (r : BitVec 5) (c : BitVec 3)
  deriving DecidableEq, Repr

inductive CopyKind where
  | cpt | cpg | cps
  deriving DecidableEq, Repr

/-- A layout record (R287). -/
structure Layout where
  toGlobal : Bool
  sfmt : Nat
  dfmt : Nat
  scope : Nat
  ndim : Nat
  xpose : Bool
  pad : Word
  aux1 : DWord
  aux2 : DWord
  counts : List Nat
  valids : List Nat
  strides : List DWord
  deriving DecidableEq, Repr

inductive CopyState where
  | running
  /-- stopped by a translation fault with a record (R292) -/
  | suspended (rec_ : Nat)
  /-- stopped by a plane swap or a save (R322) -/
  | stopped
  /-- frozen by a translation outside the partition's ranges (R359) -/
  | frozen (rec_ : Nat)
  deriving DecidableEq, Repr

/-- A copy accepted by a quad's TCE (R291). -/
structure Copy where
  id : Nat
  warp : Nat
  seq : Nat
  quad : Nat
  kind : CopyKind
  layout : Layout
  /-- global base, or per-lane rows of CPG and CPS -/
  base : DWord
  rows : List (Nat × DWord)
  /-- store side: core and address -/
  core : Nat
  store : Nat
  notify : CopyNotify
  done : Nat
  total : Nat
  /-- rows now being moved, 0 while none is begun, and the words of them that have been moved (R292) -/
  seg : Nat
  moved : List Nat
  state : CopyState
  /-- the release wait of R108 is not over -/
  held : Bool
  /-- notices of its payload writes (R78) -/
  notices : List Nat
  deriving DecidableEq, Repr

/-- A participant's instance of a collective on this device (R294). -/
structure Coll where
  id : Nat
  warp : Nat
  seq : Nat
  kind : Nat
  group : Nat
  tag : Word
  root : Nat
  count : Nat
  rank : Nat
  np : Nat
  src : DWord
  dst : DWord
  notify : CopyNotify
  /-- next block -/
  block : Nat
  mismatch : Bool
  /-- a participant has been lost: the instance fails (R370) -/
  failed : Bool
  state : CopyState
  issuer : Issuer
  /-- notices of its writes (R78) -/
  notices : List Nat
  deriving DecidableEq, Repr

/-- What a plough or a home does for one part of a near-bank operation (R269): physical granule numbers. A block of
NBOPT names its granules of w, m, v and g and its place among the blocks of the instruction. -/
inductive PartKind where
  | nbsa (accd : Bool) (dst : Nat) (rows : List (Nat × Word))
  | nbzr (dsts : List Nat)
  | nbcp (pairs : List (Nat × Nat))
  /-- granules between two channels, moved by the home pair (R273) -/
  | cross (pairs : List (Nat × Nat))
  | nbopt (blocks : List (Nat × Nat × Nat × Nat × Nat)) (consts : List Word)
  deriving DecidableEq, Repr

structure Part where
  id : Nat
  op : Nat
  warp : Nat
  channel : Nat
  kind : PartKind
  accepted : Bool
  /-- micro-PC, words that its step has already written, and accumulators (R270) -/
  upc : Nat
  wpos : Nat
  /-- the granule in which `wpos` counts -/
  target : Nat
  acc : List CWord
  /-- poisoned results so far: address of the first (R156) -/
  err : Option DWord
  /-- last write done; the notices it waits for (R269) -/
  finished : Bool
  notices : List Nat
  frozen : Option Nat
  /-- virtual address of the first destination granule, for R156 -/
  va : DWord
  /-- granules whose page is fallow by its translation (R352), and those that a range entry translated (R347) -/
  fals : List Nat
  rngs : List Nat
  issuer : Issuer
  deriving DecidableEq, Repr

/-- A home (R60): directory entries most recently used first; notices decided and not injected, in order;
poison record, oldest entry last; lines held by the L2 slice, most recently used first. -/
structure Home where
  dir : List DirEntry
  decided : List Notice
  poison : List Nat
  poisonAdded : Nat
  l2 : List Nat
  deriving DecidableEq, Repr

/-- Attributes of a page (R352). -/
structure Attr where
  pa : Bool
  fal : Bool
  ms : Bool
  ro : Bool
  deriving DecidableEq, Repr

/-- A translation held for a core or an engine: page base and size, physical base and attributes (R351). -/
structure TlbEntry where
  who : Nat
  part : Nat
  ctx : Bool
  va : Nat
  size : Nat
  pa : Nat
  attr : Attr
  deriving DecidableEq, Repr

/-- Result of a translation (R351, R352, R359). -/
inductive Xlat where
  | ok (pa : Nat) (attr : Attr) (rng : Bool)
  /-- no translation is at hand: a walk is needed -/
  | miss
  /-- cause 0x05 at a table level -/
  | fault (level : Nat)
  /-- a bad table word or a set must-be-zero bit (record of SRC 4) -/
  | bad (level : Nat)
  /-- cause 0x06 -/
  | prot (rng : Bool)
  /-- outside the partition's ranges: the master freezes -/
  | freeze (pa : Nat) (attr : Attr) (rng : Bool)
  deriving DecidableEq, Repr

/-- A walk begun for an access, and its result when it ended in a fault (R351). -/
structure Walk where
  id : Nat
  who : Nat
  part : Nat
  ctx : Bool
  va : Nat
  result : Option Xlat
  deriving DecidableEq, Repr

/-- A range entry of a context (R351): 64-bit BASE, LIMIT, PBASE and the two control words. -/
structure RangeEntry where
  base : DWord
  limit : DWord
  pbase : DWord
  ctl : Word
  deriving DecidableEq, Repr

/-- A context's registers (R344). -/
structure Ctx where
  en : Bool
  priv : Bool
  fimp : Bool
  ptroot : DWord
  tvec : DWord
  /-- range entries by number; an absent one is all zeros -/
  ranges : Tab RangeEntry
  deriving DecidableEq, Repr

/-- A launch queue's registers (R323). -/
structure Queue where
  base : DWord
  en : Bool
  ser : Bool
  logn : BitVec 5
  head : Nat
  tail : Word
  lap : Nat
  deriving DecidableEq, Repr

/-- What a fault record came from, for the answer (R348). -/
inductive RecSrc where
  | warp (uid : Nat) (slot : Bool)
  | copy (id : Nat)
  | coll (id : Nat)
  /-- a request from the fabric, held at the port -/
  | fabric (device : Nat)
  | part (id : Nat)
  | core (c : Nat)
  | szl
  /-- posted for information only -/
  | info
  deriving DecidableEq, Repr

/-- A record for a partition's fault queue (R345, R347, R150): its words without the token. -/
structure FaultRec where
  id : Nat
  type : Nat
  src : RecSrc
  words : List Word
  deriving DecidableEq, Repr

/-- A record that has been written and waits for RESUME (R348). -/
structure Outstanding where
  token : Nat
  rec_ : FaultRec
  /-- the answer accepted, by its ACT, while it cannot act yet -/
  act : Option Nat
  deriving DecidableEq, Repr

/-- A partition: its quads and ranges (R361) and its register window (R344). -/
structure Partition where
  quads : BitVec 96
  en : Bool
  pranges : Tab (Word × Word × Bool)
  hranges : Tab (Word × Word × Bool × Bool)
  fqbase : DWord
  fqen : Bool
  fqie : Bool
  fqlogn : BitVec 5
  fqhead : Word
  fqtail : Nat
  slice : Word
  prlaunch : Word
  prteam : Word
  invbusy : Bool
  invctx : Bool
  invkind : BitVec 2
  invva : DWord
  cgbase : DWord
  fimpbase : DWord
  pgbase : DWord
  ctx0 : Ctx
  ctx1 : Ctx
  queues : Tab Queue
  /-- queue served last, for round-robin (R324) -/
  lastQueue : Nat
  /-- records held at their sources, oldest first; records outstanding; next token (R345, R347) -/
  recs : List FaultRec
  outstanding : List Outstanding
  nextToken : Nat
  /-- status of the last 1,024 completed launches, newest first (R331) -/
  completed : List (Word × Nat)
  deriving DecidableEq, Repr

/-- What an invalidation names (R354). -/
inductive InvKind where
  | page (va : Nat) (ctx : Bool) | ctx (c : Bool) | all
  deriving DecidableEq, Repr

/-- An invalidation in progress (R354, R355): what it drops, the walks it waits for, and whether INVCTL started it. -/
structure Inval where
  id : Nat
  part : Nat
  kind : InvKind
  walks : List Nat
  byHost : Bool
  deriving DecidableEq, Repr

/-- An event of a recorder (R364); the recording die is the recorder's. -/
structure Event where
  code : Byte
  unit : Nat
  cycle : Nat
  detail : Word
  deriving DecidableEq, Repr

/-- An event recorder of a die (R364): events recorded, the last 4,096 of them newest first, FRZ and ERLOST. -/
structure Recorder where
  head : Nat
  entries : List Event
  frz : Bool
  lost : Nat
  deriving DecidableEq, Repr

/-- The MGC's registers and the state of the KRT (R360, R361, R362, R366, R368, R369). -/
structure Mgc where
  hsel : Word
  falidx : Word
  direrr : Nat
  contcnt : Nat
  relcnt : Nat
  frzcnt : Nat
  seccnt : Nat
  pstep : Nat
  ersel : BitVec 3
  eridx : Word
  erdata : List Word
  plim : Word
  /-- clock step, milliseconds in a row below the limits, cycle of the last check (R366) -/
  clockStep : Nat
  calm : Nat
  lastCheck : Nat
  trip : Bool
  attbusy : Bool
  attdone : Bool
  attfail : Bool
  attva : DWord
  fwva : DWord
  fwlen : Word
  fwbusy : Bool
  fwdone : Bool
  fwfail : Bool
  fwtype : BitVec 4
  psel : BitVec 4
  /-- Fallow list in order of entry, and its largest length since reset (R148) -/
  fallow : List Nat
  fallowMax : Nat
  /-- retired table, the page being retired, RETIRE writes not yet taken, FULL and BAD (R362) -/
  retired : List Nat
  retiring : Option Nat
  retireQueue : List Word
  retFull : Bool
  retBad : Bool
  /-- images held for the next reset and in force: by type, security version and digest -/
  staged : Tab (Nat × BitVec 512)
  inForce : Tab (Nat × BitVec 512)
  /-- fused minimum security version by type (R368) -/
  fusedMin : Tab Nat
  deriving DecidableEq, Repr

/-- How the SZL's inbound stream is frozen (R361): with a record of a partition, or to the recorder only. -/
inductive SzlState where
  | open_ | frozen (rec_ : Nat) | frozenNoRange
  deriving DecidableEq, Repr

/-- A reply to a request from the fabric (R357): data words of a read or atomic, or an acknowledgement, and the notices
whose slot numbers it waits for (R78). -/
structure FabReply where
  device : Nat
  words : List CWord
  notices : List Nat
  deriving DecidableEq, Repr

/-- A request from the fabric that faulted and waits for the driver (R357). -/
structure FabHeld where
  rec_ : Nat
  /-- who asks -/
  who : ReqSrc
  req : FabReq
  /-- a request of this device to itself whose record was answered with error -/
  err : Bool
  deriving DecidableEq, Repr

/-- One member's part in a pod barrier: its arrivals and drops in the present phase, and the threads that dropped
before it (R340). -/
structure PodBar where
  n : BitVec 6
  rank : Nat
  arrived : Nat
  leaving : Nat
  dropped : Nat
  deriving DecidableEq, Repr

/-- The device's part in a pod group's present instance (R340). -/
structure Pod where
  part : Nat
  group : Nat
  grid : Nat
  rank : Nat
  np : Nat
  /-- threads of this device's member, and its part in each barrier as its Sower counts it -/
  threads : Nat
  mine : List PodBar
  /-- barriers as this device's Sower sees them: phase bits of completions received -/
  phases : Tab Bool
  /-- arrivals and drops not yet sent: barrier, arrivals, drops -/
  out : List (BitVec 6 × Nat × Nat)
  /-- this member's registration has been sent; its grid has completed -/
  sent : Bool
  gone : Bool
  /-- at the rank-0 CLE: thread counts by rank, the members' parts in the barriers, completions not yet delivered here -/
  ranks : Tab Nat
  bars : List PodBar
  completions : List (BitVec 6)
  deriving DecidableEq, Repr

/-- A core: active plane (R321), its warps halted for a plane swap (R322), cycle of its last plane swap, freeze record (R359), L1 size in 32 KiB units (R51),
cycle in which its array last ran (R333), and issue order of its matrix operations. -/
structure CoreSt where
  active : Bool
  swapping : Bool
  swapped : Nat
  frozen : Option Nat
  l1Units : Nat
  arrayRan : Option Nat
  mxOrder : Nat
  deriving DecidableEq, Repr

/-- A matrix operation in its core's units (R279). -/
structure MxEntry where
  core : Nat
  op : MxOp
  deriving DecidableEq, Repr

/-- The whole device. -/
structure State where
  /-- package cycle count (R176, R366) -/
  cycle : Nat
  /-- steps taken: the argument of the free schedule -/
  tick : Nat
  /-- moves chosen beforehand; where there is none the free schedule chooses -/
  agenda : List Move
  /-- the slot that is issuing: warp and slot number -/
  cur : Option (Nat × Bool)
  /-- next unused identity of teams, warps, requests and other records -/
  nextId : Nat
  cores : Tab CoreSt
  quads : Tab Quad
  warps : List Warp
  teams : List Team
  gangs : List Gang
  grids : List Grid
  /-- banked stores: word key core * 2^19 + plane * 2^18 + address / 4 (R46) -/
  store : Mem
  /-- register and scratchpad words of the store with a SEC-DED error: true for a double-bit error (R54) -/
  upsets : Tab Bool
  /-- accumulator words: (core * 32 + tile) * 2048 + 64 m + n (R21, R276) -/
  acc : Tab Word
  accUpsets : Tab Bool
  /-- HBM data by physical address (R61) -/
  hbm : Mem
  /-- host memory by host address (R353); a bad word carries the link's poison mark (R141) -/
  host : Mem
  l1s : Tab L1
  homes : Tab Home
  /-- global slot count (R77) -/
  slotCount : Word
  flying : List Flying
  reqs : List Req
  misses : List Miss
  replies : List Reply
  wrhReplies : List WrhReply
  writebacks : List Writeback
  ops : List Op
  staged : List Staged
  regions : List Region
  commits : List Commit
  mx : List MxEntry
  copies : List Copy
  colls : List Coll
  parts : List Part
  tlb : List TlbEntry
  walks : List Walk
  invals : List Inval
  partitions : Tab Partition
  pods : List Pod
  recorders : Tab Recorder
  mgc : Mgc
  szl : SzlState
  /-- fabric source devices whose requests are frozen, with the record (R359) -/
  fabFrozen : List (Nat × Nat)
  fabHeld : List FabHeld
  fabReplies : List FabReply
  /-- lost devices (R370) -/
  lost : List Nat
  /-- data of the host's latest read, and interrupts sent per partition (R356) -/
  hostReply : List CWord
  interrupts : Tab Nat
  deriving DecidableEq, Repr

/-- A context after reset (R344). -/
def Ctx.reset : Ctx :=
  { en := false, priv := false, fimp := false, ptroot := 0, tvec := 0, ranges := [] }

/-- The MGC after power-on reset (R360, R361). -/
def Mgc.reset : Mgc :=
  { hsel := 0, falidx := 0, direrr := 0, contcnt := 0, relcnt := 0, frzcnt := 0, seccnt := 0, pstep := 0,
    ersel := 0, eridx := 0, erdata := [0, 0, 0, 0], plim := 0x960, clockStep := 0, calm := 0, lastCheck := 0,
    trip := false, attbusy := false, attdone := false, attfail := false, attva := 0, fwva := 0, fwlen := 0,
    fwbusy := false, fwdone := false, fwfail := false, fwtype := 0, psel := 0, fallow := [], fallowMax := 0,
    retired := [], retiring := none, retireQueue := [], retFull := false, retBad := false, staged := [],
    inForce := [], fusedMin := [] }

/-- The device right after power-on reset: registers at their reset values, no quad powered, no team resident,
memories with nothing listed. -/
def State.reset : State :=
  { cycle := 0, tick := 0, agenda := [], cur := none, nextId := 1, cores := [], quads := [], warps := [],
    teams := [], gangs := [], grids := [], store := ⟨[], []⟩, upsets := [], acc := [], accUpsets := [],
    hbm := ⟨[], []⟩, host := ⟨[], []⟩, l1s := [], homes := [], slotCount := 0, flying := [], reqs := [],
    misses := [], replies := [], wrhReplies := [], writebacks := [], ops := [], staged := [], regions := [],
    commits := [], mx := [], copies := [], colls := [], parts := [], tlb := [], walks := [], invals := [],
    partitions := [], pods := [], recorders := [], mgc := Mgc.reset, szl := .open_, fabFrozen := [],
    fabHeld := [], fabReplies := [], lost := [], hostReply := [], interrupts := [] }

end Sys2Proof.Machine
end

