-- ==== Sys2Proof/Machine/Table.lean ====
section
/-! DEFINITION. Operations on tables: association lists sorted by key, no key twice. -/

namespace Sys2Proof.Machine

/-- The value at a key, if the table lists one. -/
def tget? {α : Type} : Tab α → Nat → Option α
  | [], _ => none
  | (k, v) :: rest, key => if k = key then some v else if key < k then none else tget? rest key

/-- The value at a key, or a default. -/
def tget {α : Type} (t : Tab α) (key : Nat) (dflt : α) : α := (tget? t key).getD dflt

/-- The table with a value at a key. -/
def tset {α : Type} : Tab α → Nat → α → Tab α
  | [], key, v => [(key, v)]
  | (k, w) :: rest, key, v =>
    if key < k then (key, v) :: (k, w) :: rest
    else if k = key then (key, v) :: rest
    else (k, w) :: tset rest key v

/-- The table without a key. -/
def terase {α : Type} : Tab α → Nat → Tab α
  | [], _ => []
  | (k, w) :: rest, key =>
    if key < k then (k, w) :: rest else if k = key then rest else (k, w) :: terase rest key

/-- The table with a value at a key, where the default is not listed. -/
def tput {α : Type} [DecidableEq α] (t : Tab α) (key : Nat) (v dflt : α) : Tab α :=
  if v = dflt then terase t key else tset t key v

/-- Every key of the table is above a bound, and they rise. -/
def tsortedFrom {α : Type} : Nat → Tab α → Bool
  | _, [] => true
  | lo, (k, _) :: rest => decide (lo ≤ k) && tsortedFrom (k + 1) rest

/-- Keys strictly rising. -/
def tsorted {α : Type} (t : Tab α) : Bool := tsortedFrom 0 t

end Sys2Proof.Machine
end

