-- ==== Sys2Proof/Machine/Memory.lean ====
section
/-! DEFINITION. The check code (07 R139, R140) and memories of 40-bit words: reading, writing, and the canonical
form they keep. -/

namespace Sys2Proof.Machine

open Sys2Proof

/-- One step of the CRC-8: shift in a bit (R139). -/
def gckBit (g : Byte) (b : Bool) : Byte :=
  let s := g <<< 1
  if g.getLsbD 7 != b then s ^^^ 0x2F else s

/-- The CRC of the bits below `n`, from bit n-1 down. -/
def gckFrom (d : Word) : Nat → Byte → Byte
  | 0, g => g
  | n + 1, g => gckFrom d n (gckBit g (d.getLsbD n))

/-- The GCK of a data word (R139). -/
def gck (d : Word) : Byte := gckFrom d 32 0xFF

/-- A word with its correct check. -/
def good (d : Word) : CWord := ⟨d, 0⟩

/-- The poisoned form of a word (R140). -/
def poison (w : CWord) : CWord := ⟨w.data, 0xFF⟩

end Sys2Proof.Machine

namespace Sys2Proof

open Sys2Proof.Machine

/-- The check bits a word carries. -/
def CWord.check (w : CWord) : Byte := gck w.data ^^^ w.syn

/-- The word with data `d` and check bits `c`. -/
def CWord.ofCheck (d : Word) (c : Byte) : CWord := ⟨d, gck d ^^^ c⟩

/-- A word an endpoint may use (R140). -/
def CWord.isGood (w : CWord) : Bool := w.syn == 0

def CWord.isPoisoned (w : CWord) : Bool := w.syn == 0xFF

/-- Neither good nor poisoned (R140). -/
def CWord.isCorrupt (w : CWord) : Bool := w.syn != 0 && w.syn != 0xFF

end Sys2Proof

namespace Sys2Proof.Machine

open Sys2Proof

/-- Four bytes, the least significant first. -/
def packWord (b0 b1 b2 b3 : Byte) : Word := b3 ++ b2 ++ b1 ++ b0

/-- What an unlisted byte of a memory reads as. -/
def unlistedByte : Byte := 0

/-- The empty memory: every byte unlisted, every word good. -/
def Mem.empty : Mem := ⟨[], []⟩

/-- The byte at an address. -/
def Mem.byte (m : Mem) (a : Nat) : Byte := tget m.data a unlistedByte

/-- The check difference of a word. -/
def Mem.synOf (m : Mem) (i : Nat) : Byte := tget m.syn i 0

/-- Word number `i`, little-endian (R4). -/
def Mem.word (m : Mem) (i : Nat) : CWord :=
  ⟨packWord (m.byte (4 * i)) (m.byte (4 * i + 1)) (m.byte (4 * i + 2)) (m.byte (4 * i + 3)), m.synOf i⟩

/-- Write one byte; an unlisted value is not kept. -/
def Mem.setByte (m : Mem) (a : Nat) (b : Byte) : Mem := { m with data := tput m.data a b unlistedByte }

/-- Write word number `i` with its check. -/
def Mem.setWord (m : Mem) (i : Nat) (w : CWord) : Mem :=
  let m1 := m.setByte (4 * i) (w.data.extractLsb' 0 8)
  let m2 := m1.setByte (4 * i + 1) (w.data.extractLsb' 8 8)
  let m3 := m2.setByte (4 * i + 2) (w.data.extractLsb' 16 8)
  let m4 := m3.setByte (4 * i + 3) (w.data.extractLsb' 24 8)
  { m4 with syn := tput m4.syn i w.syn 0 }

/-- Write consecutive words from word number `i`. -/
def Mem.setWords (m : Mem) (i : Nat) : List CWord → Mem
  | [] => m
  | w :: ws => (m.setWord i w).setWords (i + 1) ws

/-- `n` consecutive words from word number `i`. -/
def Mem.words (m : Mem) (i n : Nat) : List CWord := (List.range n).map (fun j => m.word (i + j))

/-- The canonical form: keys strictly rising, no entry equal to what an unlisted one reads as. -/
def Mem.wf (m : Mem) : Bool :=
  tsorted m.data && m.data.all (fun c => c.2 != unlistedByte) && tsorted m.syn && m.syn.all (fun c => c.2 != 0)

end Sys2Proof.Machine
end

