-- ==== Sys2Proof/Machine/Access.lean ====
section
/-! DEFINITION. Finding and replacing the parts of the state; numbering of cores, quads, channels and lines; the
event recorders (21 R364) and the records for the fault queue (20 R345, R347). -/

namespace Sys2Proof.Machine

open Sys2Proof

/-! ### Numbers -/

/-- Quad of a core, 0 to 95 (R66, R176). -/
def quadOf (core : Nat) : Nat := core / 4
/-- Compute die of a core. -/
def dieOf (core : Nat) : Nat := core / 96
/-- Channel of a line: granule number modulo 384 (R61). -/
def channelOf (line : Nat) : Nat := line / 16 % 384
/-- Compute die to whose stacks a channel belongs (R61). -/
def channelDie (c : Nat) : Nat := c / 32 / 3
/-- End of HBM (R61). -/
def hbmEnd : Nat := 0x9600000000
/-- First physical address of host memory (R353). -/
def hostBase : Nat := 0x4000000000000
/-- 64 KiB page number of a line (R148). -/
def pageOfLine (line : Nat) : Nat := line / 512
/-- 32-byte sector number of word `j` of a line (R146). -/
def sectorOf (line j : Nat) : Nat := 4 * line + j / 8
/-- Channel-local byte address of a physical address (R364). -/
def localAddr (pa : Nat) : Nat := pa / 2048 / 384 * 2048 + pa % 2048

/-- Bits `lo` to `lo + n - 1` of a word. -/
def bits (w : Word) (lo n : Nat) : Nat := w.toNat / 2 ^ lo % 2 ^ n

/-- The indices of the set bits of a lane or word mask, ascending. -/
def onesFrom (m : Word) : Nat → Nat → List Nat
  | 0, _ => []
  | n + 1, i => if m.getLsbD i then i :: onesFrom m n (i + 1) else onesFrom m n (i + 1)
def ones (m : Word) : List Nat := onesFrom m 32 0

/-- The mask with one bit set. -/
def bitAt (i : Nat) : Word := BitVec.ofNat 32 (2 ^ i)

/-- The mask of the indices in a list. -/
def maskOf (l : List Nat) : Word := l.foldl (fun m i => m ||| bitAt i) 0

/-- Number of set bits. -/
def popcount (m : Word) : Nat := (ones m).length

/-- A time of so many cycles at the nominal clock, in cycles at the clock in force (R366). -/
def nominal (s : State) (n : Nat) : Nat := n * (16 - s.mgc.clockStep) / 16

/-- Cycles of some microseconds at the clock in force (R366). -/
def micros (s : State) (n : Nat) : Nat := nominal s (1600 * n)

/-! ### Lists of records with an identity -/

def findWarp? (s : State) (uid : Nat) : Option Warp := s.warps.find? (fun w => w.uid == uid)
def findTeam? (s : State) (uid : Nat) : Option Team := s.teams.find? (fun t => t.uid == uid)
def findGang? (s : State) (uid : Nat) : Option Gang := s.gangs.find? (fun g => g.uid == uid)
def findGrid? (s : State) (uid : Nat) : Option Grid := s.grids.find? (fun g => g.uid == uid)
def findOp? (s : State) (id : Nat) : Option Op := s.ops.find? (fun o => o.id == id)
def findReq? (s : State) (id : Nat) : Option Req := s.reqs.find? (fun r => r.id == id)
def findMiss? (s : State) (id : Nat) : Option Miss := s.misses.find? (fun m => m.id == id)
def findCopy? (s : State) (id : Nat) : Option Copy := s.copies.find? (fun c => c.id == id)
def findColl? (s : State) (id : Nat) : Option Coll := s.colls.find? (fun c => c.id == id)
def findPart? (s : State) (id : Nat) : Option Part := s.parts.find? (fun p => p.id == id)
def findRegion? (s : State) (base : Nat) : Option Region := s.regions.find? (fun r => r.base == base)

def setWarp (s : State) (w : Warp) : State :=
  { s with warps := s.warps.map (fun x => if x.uid == w.uid then w else x) }
def setTeam (s : State) (t : Team) : State :=
  { s with teams := s.teams.map (fun x => if x.uid == t.uid then t else x) }
def setGang (s : State) (g : Gang) : State :=
  { s with gangs := s.gangs.map (fun x => if x.uid == g.uid then g else x) }
def setGrid (s : State) (g : Grid) : State :=
  { s with grids := s.grids.map (fun x => if x.uid == g.uid then g else x) }
def setOp (s : State) (o : Op) : State :=
  { s with ops := s.ops.map (fun x => if x.id == o.id then o else x) }
def setCopy (s : State) (c : Copy) : State :=
  { s with copies := s.copies.map (fun x => if x.id == c.id then c else x) }
def setColl (s : State) (c : Coll) : State :=
  { s with colls := s.colls.map (fun x => if x.id == c.id then c else x) }
def setPart (s : State) (p : Part) : State :=
  { s with parts := s.parts.map (fun x => if x.id == p.id then p else x) }
def setMiss (s : State) (m : Miss) : State :=
  { s with misses := s.misses.map (fun x => if x.id == m.id then m else x) }

def dropOp (s : State) (id : Nat) : State := { s with ops := s.ops.filter (fun o => o.id != id) }
def dropReq (s : State) (id : Nat) : State := { s with reqs := s.reqs.filter (fun r => r.id != id) }
def dropMiss (s : State) (id : Nat) : State := { s with misses := s.misses.filter (fun m => m.id != id) }
def dropCopy (s : State) (id : Nat) : State := { s with copies := s.copies.filter (fun c => c.id != id) }
def dropColl (s : State) (id : Nat) : State := { s with colls := s.colls.filter (fun c => c.id != id) }
def dropPart (s : State) (id : Nat) : State := { s with parts := s.parts.filter (fun p => p.id != id) }

/-- A fresh identity. -/
def fresh (s : State) : Nat × State := (s.nextId, { s with nextId := s.nextId + 1 })

/-! ### Tables with their defaults -/

/-- A core that is not listed: plane 0 active, the whole store its L1 (R51). -/
def CoreSt.dflt : CoreSt :=
  { active := false, swapping := false, swapped := 0, frozen := none, l1Units := 32, arrayRan := none, mxOrder := 0 }
def Quad.dflt : Quad := { powered := false, fused := false }
def L1.dflt : L1 := { lines := [] }
def Home.dflt : Home := { dir := [], decided := [], poison := [], poisonAdded := 0, l2 := [] }
def Recorder.dflt : Recorder := { head := 0, entries := [], frz := false, lost := 0 }
def RangeEntry.dflt : RangeEntry := { base := 0, limit := 0, pbase := 0, ctl := 0 }
def Queue.dflt : Queue := { base := 0, en := false, ser := false, logn := 0, head := 0, tail := 0, lap := 0 }
def Partition.dflt : Partition :=
  { quads := 0, en := false, pranges := [], hranges := [], fqbase := 0, fqen := false, fqie := false, fqlogn := 0,
    fqhead := 0, fqtail := 0, slice := 0, prlaunch := 0, prteam := 0, invbusy := false, invctx := false, invkind := 0,
    invva := 0, cgbase := 0, fimpbase := 0, pgbase := 0, ctx0 := Ctx.reset, ctx1 := Ctx.reset, queues := [],
    lastQueue := 63, recs := [], outstanding := [], nextToken := 0, completed := [] }

def getCore (s : State) (c : Nat) : CoreSt := tget s.cores c CoreSt.dflt
def getQuad (s : State) (q : Nat) : Quad := tget s.quads q Quad.dflt
def getL1 (s : State) (d : Nat) : L1 := tget s.l1s d L1.dflt
def getHome (s : State) (c : Nat) : Home := tget s.homes c Home.dflt
def getRecorder (s : State) (d : Nat) : Recorder := tget s.recorders d Recorder.dflt
def getPartition (s : State) (p : Nat) : Partition := tget s.partitions p Partition.dflt
def getQueue (p : Partition) (q : Nat) : Queue := tget p.queues q Queue.dflt

def setCore (s : State) (c : Nat) (x : CoreSt) : State := { s with cores := tput s.cores c x CoreSt.dflt }
def setQuad (s : State) (q : Nat) (x : Quad) : State := { s with quads := tput s.quads q x Quad.dflt }
def setL1 (s : State) (d : Nat) (x : L1) : State := { s with l1s := tput s.l1s d x L1.dflt }
def setHome (s : State) (c : Nat) (x : Home) : State := { s with homes := tput s.homes c x Home.dflt }
def setRecorder (s : State) (d : Nat) (x : Recorder) : State := { s with recorders := tput s.recorders d x Recorder.dflt }
def setPartition (s : State) (p : Nat) (x : Partition) : State :=
  { s with partitions := tput s.partitions p x Partition.dflt }
def setQueue (p : Partition) (q : Nat) (x : Queue) : Partition := { p with queues := tput p.queues q x Queue.dflt }

/-- Context registers of a partition: false is context 0 (R344). -/
def getCtx (p : Partition) (c : Bool) : Ctx := if c then p.ctx1 else p.ctx0
def setCtx (p : Partition) (c : Bool) (x : Ctx) : Partition := if c then { p with ctx1 := x } else { p with ctx0 := x }

/-- The L1 domain of a core (R66): its own, or that of core 0 of a fused quad. -/
def domainOf (s : State) (core : Nat) : Nat := if (getQuad s (quadOf core)).fused then quadOf core * 4 else core
/-- The domain of a core is a fused quad. -/
def fusedOf (s : State) (core : Nat) : Bool := (getQuad s (quadOf core)).fused

/-- Every L1 domain of the package, by the number of its core (R66). -/
def isDomain (s : State) (core : Nat) : Bool := !fusedOf s core || core % 4 == 0

/-! ### Saturating counters of the MGC and the event recorders -/

/-- One more, saturating at 0xFFFF_FFFF (R360). -/
def sat32 (n : Nat) : Nat := if n < 0xFFFFFFFF then n + 1 else n

/-- Record an event on a die: 0 to 3 compute, 4 and 5 I/O (R364). -/
def recordEvent (s : State) (die : Nat) (code : Byte) (unit : Nat) (detail : Word) : State :=
  let r := getRecorder s die
  if r.frz then setRecorder s die { r with lost := sat32 r.lost }
  else setRecorder s die { r with head := (r.head + 1) % 2 ^ 32,
                                  entries := (⟨code, unit, s.cycle, detail⟩ :: r.entries).take 4096 }

/-- An event of a home: UNIT is the channel, recorded by the die its stack is attached to. -/
def recordHome (s : State) (channel : Nat) (code : Byte) (detail : Nat) : State :=
  recordEvent s (channelDie channel) code channel (BitVec.ofNat 32 detail)

/-- An event of the MGC, the KRT, the SZL or the power supply, on I/O die 0. -/
def recordIo (s : State) (code : Byte) (unit : Nat) (detail : Word) : State := recordEvent s 4 code unit detail

/-! ### Records for the fault queue (R345, R347) -/

/-- Hold a record at its source until the queue takes it. -/
def postRec (s : State) (part type : Nat) (src : RecSrc) (words : List Word) : Nat × State :=
  let (id, s) := fresh s
  let p := getPartition s part
  (id, setPartition s part { p with recs := p.recs ++ [⟨id, type, src, words⟩] })

/-- Word 0 of a record of types 1 to 5 (R347). -/
def recWord0 (src acc : Nat) (rng ctx : Bool) (cause level : Nat) : Word :=
  BitVec.ofNat 32 (src * 2 ^ 28 + acc * 2 ^ 26 + rng.toNat * 2 ^ 25 + ctx.toNat * 2 ^ 24 + cause * 2 ^ 16 + level * 2 ^ 8)

/-- The seven words of a record of types 1 to 5; word 7 gets its type and token when it is written. -/
def recWords (w0 launch : Word) (addr : DWord) (team : Word) (core warp : Nat) (where_ : Word) : List Word :=
  [w0, launch, lowWord addr, highWord addr, team, BitVec.ofNat 32 (core * 2 ^ 16 + warp), where_]

/-! ### A warp's surroundings -/

def gridOf (s : State) (w : Warp) : Option Grid := (findTeam? s w.team).bind (fun t => findGrid? s t.grid)

/-- LAUNCH word, partition, context and TEAMLIN of a warp's team. -/
def launchOf (s : State) (w : Warp) : Word := (gridOf s w).elim 0 (·.launch)
def partOf (s : State) (w : Warp) : Nat := (gridOf s w).elim 0 (·.part)
def ctxOf (s : State) (w : Warp) : Bool := (gridOf s w).elim false (·.ctx)
def teamlinOf (s : State) (w : Warp) : Word := (findTeam? s w.team).elim 0 (fun t => BitVec.ofNat 32 t.lin)

/-- A core's place among its team's cores (R17). -/
def coreIndex (t : Team) (core : Nat) : Nat := t.cores.findIdx (· == core)

/-- Plane of a team on one of its cores. -/
def Team.planeOn (t : Team) (core : Nat) : Bool := t.planes.getD (coreIndex t core) false

/-- SPBASE of a team on one of its cores (R50). -/
def Team.baseOn (t : Team) (core : Nat) : Nat := t.spBases.getD (coreIndex t core) 0

/-- The address lies in the team's block on a core. -/
def Team.blockHolds (t : Team) (core addr : Nat) : Bool :=
  decide (t.baseOn core ≤ addr) && decide (addr < t.baseOn core + t.blockSize)

/-- Plane of a warp's team on its core. -/
def planeOf (s : State) (w : Warp) : Bool := (findTeam? s w.team).elim false (·.planeOn w.core)

/-- Plane that a warp's store addresses name on a core: its own on its core, the active one elsewhere (R46). -/
def planeAt (s : State) (w : Warp) (core : Nat) : Bool := if core == w.core then planeOf s w else (getCore s core).active

/-- A quad belongs to an enabled partition; in no other does anything run (R361). -/
def quadRuns (s : State) (q : Nat) : Bool := s.partitions.any (fun p => p.2.en && p.2.quads.getLsbD q)

/-- The registers of the context a warp runs in. -/
def ctxRegs (s : State) (w : Warp) : Ctx := getCtx (getPartition s (partOf s w)) (ctxOf s w)

/-- A word at a fabric address as an engine or a fetch gets it: a lost device's is poisoned (R357, R370). -/
def remoteNow (s : State) (pa : Nat) : CWord :=
  let w := Config.remoteWord pa s.tick
  if s.lost.contains (pa / 2 ^ 41 % 1024) then poison w else w

/-- A warp as the issuer of an engine's work. -/
def issuerOf (s : State) (w : Warp) : Issuer :=
  { part := partOf s w, ctx := ctxOf s w, launch := launchOf s w, teamlin := teamlinOf s w, core := w.core, index := w.index }

/-- The words of a record about an engine's work (R347). -/
def issuerRecord (i : Issuer) (src acc : Nat) (rng : Bool) (cause level : Nat) (addr : DWord) (where_ : Word) : List Word :=
  recWords (recWord0 src acc rng i.ctx cause level) i.launch addr i.teamlin i.core i.index where_

/-- Notices decided since an earlier state: those with a later identity. -/
def newNotices (before after : State) : List Nat :=
  ((after.homes.map (fun h => (h.2.decided.map (·.id)).filter (fun i => decide (before.nextId ≤ i)))).flatten)

/-- Notices that have their slot numbers (R78). -/
def injected (s : State) (ids : List Nat) : Bool :=
  !s.homes.any (fun h => h.2.decided.any (fun n => ids.contains n.id))

/-- Notices that have been delivered to every domain (R78). -/
def delivered (s : State) (ids : List Nat) : Bool :=
  injected s ids && !s.flying.any (fun f => ids.contains f.notice.id)

end Sys2Proof.Machine
end

