-- ==== Sys2Proof/Machine/L1.lean ====
section
/-! DEFINITION. The L1 domains (03 R51, R59; 04 R66 to R68, R78 to R80, R82): looking words up, changing their
state, installing and evicting lines, and the requests a domain sends to homes. -/

namespace Sys2Proof.Machine

open Sys2Proof

/-- Add a request to those on their way; a source's requests keep their order (R75). -/
def sendReq (s : State) (r : Req) : Nat × State :=
  let (id, s) := fresh s
  (id, { s with reqs := s.reqs ++ [{ r with id := id }] })

/-- A request with nothing in it yet. -/
def Req.plain (src : ReqSrc) (kind : ReqKind) (line : Nat) (mask : Word) : Req :=
  { id := 0, src := src, kind := kind, line := line, mask := mask, words := [], expect := [], op := 0, lane := 0,
    miss := 0, arrived := 0, admitted := false, fal := false }

/-- The request comes from a domain. -/
def ReqSrc.isDom (r : ReqSrc) (dom : Nat) : Bool :=
  match r with
  | .dom d _ => d == dom
  | _ => false

/-- Number of sets of a core's L1 (R51). -/
def l1Sets (s : State) (core : Nat) : Nat := (getCore s core).l1Units * 32

/-- The core whose L1 holds a line of a domain: its slice in a fused quad (R59). -/
def sliceOf (s : State) (dom line : Nat) : Nat := if (getQuad s (quadOf dom)).fused then dom + line % 4 else dom

/-- Two lines of a domain compete for one set. -/
def sameSet (s : State) (dom l1 l2 : Nat) : Bool :=
  sliceOf s dom l1 == sliceOf s dom l2 && l1 % l1Sets s (sliceOf s dom l1) == l2 % l1Sets s (sliceOf s dom l2)

def l1Line? (s : State) (dom line : Nat) : Option L1Line := (getL1 s dom).lines.find? (fun l => l.line == line)

/-- A valid word of a line in a domain. -/
def l1Word? (s : State) (dom line j : Nat) : Option L1Word := (l1Line? s dom line).bind (fun l => tget? l.words j)

/-- Words of a line that the domain owns. -/
def ownedWords (s : State) (dom line : Nat) : Tab CWord :=
  match l1Line? s dom line with
  | none => []
  | some l => l.words.filterMap (fun p => if p.2.st == .ow then some (p.1, p.2.val) else none)

/-- Change the words of every line of a domain; lines left without words go. -/
def l1Map (s : State) (dom : Nat) (f : L1Line → Tab L1Word) : State :=
  setL1 s dom ⟨((getL1 s dom).lines.map (fun l => { l with words := f l })).filter (fun l => !l.words.isEmpty)⟩

/-- Change the fills and grants on their way to a domain. -/
def onReplies (s : State) (dom : Nat) (f : Reply → Reply) : State :=
  { s with replies := s.replies.map (fun r => if r.dom == dom then f r else r) }

/-- Words of a fill or grant that have become I while it was on its way. -/
def Reply.without (r : Reply) (mask : Word) : Reply := { r with gone := r.gone ||| mask }

/-- The line of a fill or grant lies in HBM, so that its words are those its home sent. -/
def Reply.inHbm (r : Reply) : Bool := decide (128 * r.line < hbmEnd)

/-- Every SI word of the domain becomes I (R80), those of fills on their way too: a home sent them before the acquire, and
R102 makes every later write visible to the reads after it (log 101). -/
def dropSi (s : State) (dom : Nat) : State :=
  onReplies (l1Map s dom (fun l => l.words.filter (fun p => p.2.st != .si))) dom (fun r =>
    if !r.grant && !r.wi && r.inHbm then r.without 0xFFFFFFFF else r)

/-- Every SI and WI word of a line becomes I (R79, R261). -/
def dropShared (s : State) (dom line : Nat) : State :=
  l1Map s dom (fun l => if l.line == line then l.words.filter (fun p => p.2.st == .ow) else l.words)

/-- Line and word of an HBM target. -/
def OpWord.hbm? (x : OpWord) : Option (Nat × Nat) :=
  match x.tgt with
  | .hbm pa => some (pa / 128, pa / 4 % 32)
  | _ => none

/-- Words of a load that wait on a miss. -/
def OpWord.waitsOn (x : OpWord) (miss : Nat) : Bool := x.miss == some miss && x.got.isNone

def OpKind.isLoad : OpKind → Bool
  | .ld | .ldck => true
  | _ => false

/-- Words of a line for which loads wait on a miss. -/
def waitedWords (s : State) (miss line : Nat) : Word :=
  maskOf ((s.ops.filter (fun o => o.kind.isLoad)).map (fun o => o.words.filterMap (fun x =>
    if x.waitsOn miss then x.hbm?.bind (fun p => if p.1 == line then some p.2 else none) else none))).flatten

/-- Requests of a domain for a line that its home has not served yet. -/
def onUnserved (s : State) (dom line : Nat) (f : Req → Req) : State :=
  { s with reqs := s.reqs.map (fun q => if q.src.isDom dom && q.line == line && q.miss != 0 then f q else q) }

/-- Owned words of a line that a mask names become I (R79, R82). A load's request for the line that has not been served
asks for those of them that the load waits for too (R81). -/
def dropOwned (s : State) (dom line : Nat) (mask : Word) : State :=
  let lost := maskOf ((ownedWords s dom line).map (·.1)) &&& mask
  let s := onUnserved s dom line (fun q => { q with mask := q.mask ||| (lost &&& waitedWords s q.miss line) })
  l1Map s dom (fun l =>
    if l.line == line then l.words.filter (fun p => !(p.2.st == .ow && mask.getLsbD p.1)) else l.words)

/-- Every word of a line becomes I. -/
def dropLine (s : State) (dom line : Nat) : State :=
  l1Map (dropOwned s dom line 0xFFFFFFFF) dom (fun l => if l.line == line then [] else l.words)

/-- Make a line the most recently used of its domain (R51). -/
def l1Touch (s : State) (dom line : Nat) : State :=
  match l1Line? s dom line with
  | none => s
  | some l => setL1 s dom ⟨l :: (getL1 s dom).lines.filter (fun x => x.line != line)⟩

/-- Send the owned words of a line to its home and give them up, those of fills and grants on their way too (R82). -/
def surrender (s : State) (dom line : Nat) : State :=
  match ownedWords s dom line with
  | [] => s
  | ws =>
    let mask := maskOf (ws.map (·.1))
    let (_, s) := sendReq s { Req.plain (.dom dom (fusedOf s dom)) .sur line mask with words := ws }
    onReplies (dropOwned s dom line mask) dom (fun r => if r.line == line then r.without mask else r)

/-- Evict a line: surrender its owned words, drop the others silently (R82). -/
def evictLine (s : State) (dom line : Nat) : State := dropLine (surrender s dom line) dom line

/-- Make room for a line in its set: the least recently used of eight lines goes (R51). -/
def makeRoom (s : State) (dom line : Nat) : State :=
  let rivals := (getL1 s dom).lines.filter (fun l => sameSet s dom l.line line)
  if rivals.length < 8 then s
  else match rivals.getLast? with
    | some l => evictLine s dom l.line
    | none => s

/-- Put words into a line, the line being most recently used; owned words are not overwritten. A fill fills the line: the
words that it does not carry, but for owned ones, stay I (R69), so that the SI and WI words of a line come from one fill
(log 101). -/
def l1Install (s : State) (dom line : Nat) (st : WState) (ws : Tab CWord) : State :=
  let s := if st == .ow then s else dropShared s dom line
  if ws.isEmpty then s else
  let s := if (l1Line? s dom line).isSome then s else makeRoom s dom line
  let new := ws.foldl (fun t p =>
    match tget? t p.1 with
    | some ⟨.ow, _⟩ => t
    | _ => tset t p.1 ⟨st, p.2⟩) ((l1Line? s dom line).elim [] (·.words))
  setL1 s dom ⟨⟨line, new⟩ :: (getL1 s dom).lines.filter (fun x => x.line != line)⟩

/-- Write a word of an owned copy. -/
def writeOwned (s : State) (dom line j : Nat) (w : CWord) : State :=
  l1Map s dom (fun l => if l.line == line then tset l.words j ⟨.ow, w⟩ else l.words)

/-- At a write at home, an atomic or a reduction by a domain, its non-owned copies of the words become I (R68, R103,
R104). -/
def dropCopies (s : State) (dom line : Nat) (mask : Word) : State :=
  l1Map s dom (fun l =>
    if l.line == line then l.words.filter (fun p => p.2.st == .ow || !mask.getLsbD p.1) else l.words)

/-- Words of a line become I in a domain once more as its write is merged or its atomic performed: copies filled since, and
those of fills on their way, are older than it (R92, R94, log 102). -/
def dropOlder (s : State) (dom line : Nat) (mask : Word) : State :=
  onReplies (dropCopies s dom line mask) dom (fun r => if r.line == line && !r.grant && r.inHbm then r.without mask else r)

/-- The copies of one line in a domain, those of fills on their way too, give no older value to a later acquire of a part
of memory (R109, R110). -/
def dropLineCopies (s : State) (dom line : Nat) : State := dropOlder s dom line 0xFFFFFFFF

/-- The whole L1 of a core is emptied: owned words written back and surrendered, the rest dropped (R51, R63). -/
def emptyL1 (s : State) (dom : Nat) (lines : List Nat) : State := lines.foldl (fun s l => evictLine s dom l) s

/-- Start a miss of a domain and send its request (R68). -/
def startMiss (s : State) (dom : Nat) (kind : ReqKind) (line : Nat) (mask : Word) (op : Nat) (fal : Bool) : Nat × State :=
  let (id, s) := fresh s
  let m : Miss := { id := id, dom := dom, line := line, kind := kind, firstSlot := 0, notices := 0 }
  let (_, s) := sendReq { s with misses := s.misses ++ [m] }
    { Req.plain (.dom dom (fusedOf s dom)) kind line mask with op := op, miss := id, fal := fal }
  (id, s)

end Sys2Proof.Machine
end

