-- ==== Sys2Proof/Machine/Home.lean ====
section
/-! DEFINITION. The homes: reading and merging words with the poison record, the Fallow list and the retired table
(07 R146 to R148, 21 R362); the directory and the service of every request kind (04 R73 to R84); and the access of
the engines, which keep no copy (04 R70). -/

namespace Sys2Proof.Machine

open Sys2Proof

/-! ### Words at the home -/

/-- A page that reads as poisoned and takes no write: on the Fallow list, retired, or being retired (R148, R362, R363). -/
def pageDead (s : State) (page : Nat) : Bool :=
  s.mgc.fallow.contains page || s.mgc.retired.contains page || s.mgc.retiring == some page

/-- A word of a line as a read served by the home returns it: poisoned on a dead page or in a recorded sector (R146,
R148, R352). -/
def homeView (s : State) (line j : Nat) (fal : Bool) (w : CWord) : CWord :=
  if fal || pageDead s (pageOfLine line) || (getHome s (channelOf line)).poison.contains (sectorOf line j) then poison w
  else w

/-- The word that a read served by the home returns. -/
def homeWord (s : State) (line j : Nat) (fal : Bool) : CWord := homeView s line j fal (s.hbm.word (32 * line + j))

/-- The words of a line that a mask names, as a read returns them. -/
def homeWords (s : State) (line : Nat) (mask : Word) (fal : Bool) : Tab CWord :=
  (ones mask).map (fun j => (j, homeWord s line j fal))

/-- Remove poison entries of sectors that one merge rewrites whole (R147). -/
def healSectors (h : Home) (line : Nat) (ws : Tab CWord) : Home :=
  let whole := (List.range 4).filter (fun k => (List.range 8).all (fun i => (tget? ws (8 * k + i)).isSome))
  { h with poison := h.poison.filter (fun x => !(whole.any (fun k => x == 4 * line + k))) }

/-- Line number within its channel (R61, R73). -/
def localLine (line : Nat) : Nat := line / 16 / 384 * 16 + line % 16

/-- The L2 slice holds a line after an access: 8,192 lines in sets of 16 ways (R60). A full set gives up one line, which is
not said (log 5). -/
def l2Touch (s : State) (h : Home) (line : Nat) : Home :=
  let others := h.l2.filter (· != line)
  let rivals := others.filter (fun l => localLine l % 512 == localLine line % 512)
  let kept := if rivals.length < 16 then others
    else others.filter (fun l => some l != rivals[Config.l2Victim s.tick % 16]?)
  { h with l2 := line :: kept }

/-- Merge words into a line, word by word (R81). A dead page discards them (R148). -/
def mergeLine (s : State) (line : Nat) (ws : Tab CWord) (fal : Bool) : State :=
  if fal || pageDead s (pageOfLine line) then s
  else
    let s := { s with hbm := ws.foldl (fun m p => m.setWord (32 * line + p.1) p.2) s.hbm }
    let c := channelOf line
    setHome s c (healSectors (getHome s c) line ws)

/-- Write one word in poisoned form in place, keeping its data bits (R144, R148). -/
def poisonWord (s : State) (line j : Nat) : State :=
  { s with hbm := s.hbm.setWord (32 * line + j) (poison (s.hbm.word (32 * line + j))) }

/-- The home of channel `ch` moves a page onto the Fallow list, if it is not retired; the page's homes drop their entries for
it (R148, R363). -/
def fallowPage (s : State) (ch page : Nat) : State :=
  let drop (s : State) : State :=
    { s with homes := s.homes.map (fun p =>
        (p.1, { p.2 with poison := p.2.poison.filter (fun x => x / 2048 != page) })) }
  if s.mgc.retired.contains page || s.mgc.retiring == some page || s.mgc.fallow.contains page then drop s
  else
    let l := s.mgc.fallow ++ [page]
    let s := drop { s with mgc := { s.mgc with fallow := l, fallowMax := max s.mgc.fallowMax l.length } }
    recordHome s ch 0x06 (BitVec.ofNat 32 page).toNat

/-- A home adds the sector of a corrupt word to its poison record (R147, R148). -/
def addPoison (s : State) (line j : Nat) : State :=
  let c := channelOf line
  let h := getHome s c
  let sec := sectorOf line j
  if h.poison.contains sec || pageDead s (pageOfLine line) then s
  else
    let add (s : State) : State :=
      let h := getHome s c
      let s := setHome s c { h with poison := sec :: h.poison, poisonAdded := h.poisonAdded + 1 }
      recordHome s c 0x05 (localAddr (32 * sec) / 32)
    if h.poison.length < 512 then add s
    else if s.mgc.fallow.length < 4096 then
      match h.poison.getLast? with
      | some old =>
        let s := fallowPage s c (old / 2048)
        if pageDead s (pageOfLine line) then s else add s
      | none => add s
    else recordHome (poisonWord s line j) c 0x07 (localAddr (128 * line + 4 * j) / 4)

/-- A poison written by an endpoint at the home, without containment (R128, R144, R156). -/
def poisonEvent (s : State) (line j : Nat) : State :=
  recordHome s (channelOf line) 0x09 (localAddr (128 * line + 4 * j) / 4)

/-! ### The directory -/

def dirEntry? (h : Home) (line : Nat) : Option DirEntry := h.dir.find? (fun e => e.line == line)

/-- An untracked line as an entry. -/
def DirEntry.untracked (line : Nat) : DirEntry :=
  { line := line, shr := 0, owm := 0, owner := none, busy := .idle, waiting := 0, pending := 0 }

/-- The entry of a line, untracked when there is none. -/
def entryOf (s : State) (line : Nat) : DirEntry :=
  (dirEntry? (getHome s (channelOf line)) line).getD (DirEntry.untracked line)

/-- An owner whose mask has fallen to zero is removed; an entry with nothing to say goes (R73, R74). -/
def putEntry (s : State) (e : DirEntry) : State :=
  let c := channelOf e.line
  let h := getHome s c
  let e := if e.owm == 0 then { e with owner := none } else e
  let rest := h.dir.filter (fun x => x.line != e.line)
  let keep := e.owner.isSome || e.shr != 0 || e.busy != .idle
  setHome s c { h with dir := if keep then e :: rest else rest }

/-- The directory set of a line: local line number modulo 2,048 (R73). -/
def dirSet (line : Nat) : Nat := localLine line % 2048

/-- A use of a tracked line: its entry becomes the most recently used (R73). -/
def dirTouch (h : Home) (line : Nat) : Home :=
  match dirEntry? h line with
  | some e => { h with dir := e :: h.dir.filter (fun x => x.line != line) }
  | none => h

/-- Decide a notice; it waits for the home's injection opportunities in this order (R77). -/
def decide_ (s : State) (line : Nat) (kind : NoticeKind) (wmask : Word) (owner : Owner) : Nat × State :=
  let (id, s) := fresh s
  let c := channelOf line
  let h := getHome s c
  (id, setHome s c { h with decided := h.decided ++ [⟨id, kind, line, wmask, owner⟩] })

def noOwner : Owner := ⟨false, 0⟩

/-- Decide an INV for a line (R79). -/
def sendInv (s : State) (line : Nat) : Nat × State := decide_ s line .inv 0xFFFFFFFF noOwner

/-- Decide an RCW, and wait for its owner's write-back on behalf of a request (R81). -/
def recallOwner (s : State) (e : DirEntry) (mask : Word) (busy : Busy) (req : Nat) : Nat × State :=
  let (id, s) := decide_ s e.line .rcw mask (e.owner.getD noOwner)
  (id, putEntry s { e with busy := busy, waiting := req })

/-- Bit of a quad in the sharer vector. -/
def quadBit (core : Nat) : BitVec 96 := BitVec.ofNat 96 (2 ^ quadOf core)

/-- Domain and fused flag of a request's source; an engine, the host or the fabric has none. -/
def ReqSrc.owner? : ReqSrc → Option Owner
  | .dom d f => some ⟨f, d⟩
  | _ => none

def ReqSrc.core (r : ReqSrc) : Nat :=
  match r with
  | .dom d _ => d
  | _ => 0

/-- The requester is the entry's owner. An atomic is performed as if it were not (R70). -/
def ownsEntry (e : DirEntry) (r : Req) : Bool :=
  match r.kind with
  | .atomic _ | .reduce _ => false
  | _ => e.owner.isSome && e.owner == r.src.owner?

/-- Words of the line that a fill carries: all but those another domain still owns (R69). -/
def fillMask (e : DirEntry) (r : Req) : Word := if ownsEntry e r then 0xFFFFFFFF else ~~~ e.owm

/-- The notice injected on behalf of a request: none, one that waits for its slot number, or a slot number (R85). -/
inductive OwnNotice where
  | none
  | pending (id : Nat)
  | slot (n : Word)

def OwnNotice.pending? : OwnNotice → Option Nat
  | .pending id => some id
  | _ => Option.none

def OwnNotice.slot? : OwnNotice → Option Word
  | .slot n => some n
  | _ => Option.none

/-- Words of a line in a domain's surrenders on their way (R82). -/
def surrenderedWords (s : State) (dom line : Nat) : Tab CWord :=
  (s.reqs.filter (fun q => q.kind == .sur && q.line == line && q.src.isDom dom)).foldl (fun t q =>
    q.words.foldl (fun t p => tset t p.1 p.2) t) []

/-- A domain's own words of a line, in its L1 or in a surrender on its way: its home may have older ones (R67, R90). -/
def ownNow (s : State) (dom line : Nat) : Tab CWord :=
  (ownedWords s dom line).foldl (fun t p => tset t p.1 p.2) (surrenderedWords s dom line)

/-- Send a fill or a grant to the requesting domain (R81, R85). What the domain has surrendered meanwhile is I there. -/
def sendReply (s : State) (r : Req) (grant wi : Bool) (ws : Tab CWord) (own : OwnNotice) : State :=
  let (id, s) := fresh s
  let dom := r.src.core
  dropReq { s with replies := s.replies ++ [{ id := id, dom := dom, line := r.line, grant := grant, wi := wi, words := ws,
                                              own := ownNow s dom r.line,
                                              gone := maskOf ((surrenderedWords s dom r.line).map (·.1)), miss := r.miss,
                                              ownNotice := own.pending?, ownSlot := own.slot?, sent := s.cycle }] } r.id

def sendFill (s : State) (r : Req) (wi : Bool) (own : OwnNotice) : State :=
  let e := entryOf s r.line
  sendReply s r false wi (homeWords s r.line (fillMask e r) r.fal) own

def sendGrant (s : State) (r : Req) (own : OwnNotice) : State :=
  sendReply s r true false (homeWords s r.line r.mask r.fal) own

/-- The acknowledgement of a write at home, sent when its notice has a slot number (R78). -/
def sendAck (s : State) (r : Req) (own : Option Nat) : State :=
  let s := dropReq s r.id
  if (findOp? s r.op).isSome then { s with wrhReplies := s.wrhReplies ++ [⟨r.id, r.op, own, s.cycle⟩] } else s

/-- The least recently used entry of a full set that is not busy (R73). -/
def victimOf (h : Home) (line : Nat) : Option (Option DirEntry) :=
  let rivals := h.dir.filter (fun e => dirSet e.line == dirSet line)
  if rivals.length < 16 then none
  else some ((rivals.filter (fun e => e.busy == .idle)).getLast?)

/-- The victim that a request has taken is being recalled (R73). -/
def victimFor (h : Home) (req : Nat) : Bool := h.dir.any (fun e => e.busy == .victim && e.waiting == req)

/-- Make room for a new entry of a request's line; none while the request must wait: for its victim's write-back, or
while every entry of the set is busy (R73, R81). -/
def allocate (s : State) (line req : Nat) : Option State × State :=
  let h := getHome s (channelOf line)
  if (dirEntry? h line).isSome then (some s, s)
  else if victimFor h req then (none, s)
  else match victimOf h line with
    | none => (some s, s)
    | some none => (none, s)
    | some (some v) =>
      if v.owner.isSome then (none, (recallOwner s v v.owm .victim req).2)
      else
        let s := (sendInv s v.line).2
        let s := putEntry s { v with shr := 0 }
        (some s, s)

/-- R-SI at the home (R81): the fill, or the recall of words named that another domain owns. `own` is the notice of the
recall before. -/
def finishRSi (s : State) (r : Req) (own : OwnNotice) : State :=
  let e := entryOf s r.line
  let x := r.mask &&& e.owm
  if !ownsEntry e r && x != 0 then (recallOwner s { e with shr := 0 } x .rsi r.id).2
  else sendFill s r false own

def serveRSi (s : State) (r : Req) : State := finishRSi s r .none

/-- R-WI at the home (R81), in an entry. -/
def finishRWi (s : State) (r : Req) (own : OwnNotice) : State :=
  let e := entryOf s r.line
  let q := quadBit r.src.core
  let x := r.mask &&& e.owm
  if !ownsEntry e r && x != 0 then (recallOwner s { e with shr := q } x .rwi r.id).2
  else sendFill (putEntry s { e with shr := e.shr ||| q }) r true own

def serveRWi (s : State) (r : Req) : State :=
  match allocate s r.line r.id with
  | (none, s) => s
  | (some s, _) => finishRWi s r .none

/-- The grant after any recall (R81). -/
def finishOwn (s : State) (r : Req) (own : OwnNotice) : State :=
  let e := entryOf s r.line
  let m := if ownsEntry e r then e.owm ||| r.mask else r.mask
  sendGrant (putEntry s { e with owner := r.src.owner?, owm := m, shr := 0, busy := .idle }) r own

/-- OWN at the home (R81). -/
def serveOwn (s : State) (r : Req) : State :=
  match allocate s r.line r.id with
  | (none, s) => s
  | (some s, _) =>
    let e := entryOf s r.line
    if e.owner.isSome && !ownsEntry e r then (recallOwner s { e with shr := 0 } e.owm .own r.id).2
    else if e.shr != 0 then
      let (id, s) := sendInv s r.line
      finishOwn s r (.pending id)
    else finishOwn s r .none

/-- Bring a line to the state in which a write at home merges: recall what others own of its words, or invalidate
sharers (R81). Some notice and state when it can go on at once; none while a recall is outstanding. -/
def clearForWrite (s : State) (r : Req) : Option (Option Nat) × State :=
  let e := entryOf s r.line
  let x := r.mask &&& e.owm
  if !ownsEntry e r && x != 0 then (none, (recallOwner s { e with shr := 0 } x .wrh r.id).2)
  else if e.shr != 0 then
    let (id, s) := sendInv s r.line
    (some (some id), putEntry s { e with shr := 0 })
  else (some none, s)

/-- Some of a line's words with new values. -/
def putWords (ws t : Tab CWord) : Tab CWord := t.map (fun p => (p.1, (tget? ws p.1).getD p.2))

/-- The owner writes its copy of words that it has sent to the home, in the step of the merge (R81): in its L1, in a
surrender already on its way, which follows the write, or in a grant on its way whose words it owns at the home (log
103). -/
def ownerWrite (s : State) (dom line : Nat) (ws : Tab CWord) : State :=
  let e := entryOf s line
  let mine : Tab CWord := if e.owner.any (·.dom == dom) then ws.filter (fun p => e.owm.getLsbD p.1) else []
  let s := l1Map s dom (fun l =>
    if l.line == line then
      l.words.map (fun p => if p.2.st == .ow then (p.1, ⟨.ow, (tget? ws p.1).getD p.2.val⟩) else p)
    else l.words)
  let s := onReplies s dom (fun r =>
    if r.line == line && r.grant then { r with words := putWords mine r.words, own := putWords mine r.own } else r)
  { s with reqs := s.reqs.map (fun q =>
      if q.kind == .sur && q.line == line && q.src.isDom dom then { q with words := putWords ws q.words } else q) }

/-- The words of a write at home are merged, and written in the requester's owned copy (R81); its other copies of them are
I. -/
def mergeWrh (s : State) (r : Req) : State :=
  let s := mergeLine s r.line r.words r.fal
  match r.src with
  | .dom d _ => if r.fal then s else dropOlder (ownerWrite s d r.line r.words) d r.line r.mask
  | _ => s

/-- A write at home (R81). -/
def serveWrh (s : State) (r : Req) : State :=
  match clearForWrite s r with
  | (none, s) => s
  | (some own, s) => sendAck (mergeWrh s r) r own

/-- A surrender: merge its words and take them from the owned mask (R82). -/
def serveSur (s : State) (r : Req) : State :=
  let e := entryOf s r.line
  let s := mergeLine s r.line r.words r.fal
  dropReq (putEntry s { e with owm := e.owm &&& ~~~ r.mask }) r.id

/-- The unrecoverable directory entry: recall all words from every domain (R84). The domains that will answer are counted
when the notice is delivered. -/
def directoryError (s : State) (line req : Nat) : State :=
  let (_, s) := decide_ s line .rca 0xFFFFFFFF noOwner
  putEntry s { DirEntry.untracked line with busy := .recallAll, waiting := req }

/-- The recall-all is over: the entry is free, and the event goes to the fleet log (R84, R364). -/
def directoryFreed (s : State) (line : Nat) : State :=
  let s := { s with mgc := { s.mgc with direrr := sat32 s.mgc.direrr } }
  putEntry (recordHome s (channelOf line) 0x01 (localAddr (128 * line) / 128)) (DirEntry.untracked line)

/-! ### Engine access: requesters that keep no copy (R70) -/

/-- A line whose entry is busy makes an engine wait. -/
def lineBusy (s : State) (line : Nat) : Bool := (entryOf s line).busy != .idle

/-- A surrender of the line is on its way. -/
def surrendering (s : State) (line : Nat) : Bool := s.reqs.any (fun r => r.kind == .sur && r.line == line)

/-- Words of a line that a domain owns, of those an engine names. -/
def wordsOut (s : State) (line : Nat) (mask : Word) : Word := mask &&& (entryOf s line).owm

/-- Reading the entry for an engine's access finds an uncorrectable error (R84, log 5). -/
def engineDirErr (s : State) (line : Nat) : Bool :=
  (dirEntry? (getHome s (channelOf line)) line).isSome && Config.dirError line s.tick

/-- An engine's access to some words of a line cannot be served at once: the entry is busy or a surrender on its way, or it
must recall words first (R70, R81). -/
def engineBusy (s : State) (line : Nat) (mask : Word) : Bool :=
  lineBusy s line || surrendering s line || wordsOut s line mask != 0 || engineDirErr s line

/-- An engine's request has its turn at a line: it recalls the words named that a domain owns, and waits for the write-back
(R81). -/
def engineRecall (s : State) (r : Req) : State :=
  if lineBusy s r.line || surrendering s r.line then s
  else if engineDirErr s r.line then directoryError s r.line r.id
  else
    let x := wordsOut s r.line r.mask
    if x == 0 then s
    else (recallOwner s { entryOf s r.line with shr := 0 } x (if r.kind == .rsi then .rsi else .wrh) r.id).2

/-- A write at home of an engine, on a line of whose words no domain owns any (R81). -/
def engineWrite (s : State) (line : Nat) (ws : Tab CWord) (fal : Bool) : State :=
  let e := entryOf s line
  let s := if e.shr != 0 then putEntry (sendInv s line).2 { e with shr := 0 } else s
  mergeLine s line ws fal

/-- A word that its owner has sent home and that has not arrived: in a surrender or a write-back. -/
def wordOnItsWay? (s : State) (line j : Nat) : Option CWord :=
  match (s.reqs.filter (fun r => r.kind == .sur && r.line == line)).findSome? (fun r => tget? r.words j) with
  | some w => some w
  | none => (s.writebacks.filter (fun b => b.line == line)).findSome? (fun b => tget? b.words j)

/-- The current value of a word of HBM, its owner's copy if it has one, as a read served by the home returns it (for reads
that change nothing: table walks and the Sower's tables). -/
def currentWord (s : State) (i : Nat) : CWord :=
  let line := i / 32
  let j := i % 32
  let home := (wordOnItsWay? s line j).getD (s.hbm.word i)
  homeView s line j false (match (entryOf s line).owner with
    | some o => (match l1Word? s o.dom line j with
      | some ⟨.ow, w⟩ => w
      | _ => home)
    | none => home)

end Sys2Proof.Machine
end

