-- ==== Sys2Proof/Machine/Barrier.lean ====
section
/-! DEFINITION. Acquires (04 R80, 05 R97), barriers (12 R262, R263, 19 R340, R341) and stage rings (01 R23 to R25):
what arrivals do, and the waiters they let go. -/

namespace Sys2Proof.Machine

open Sys2Proof

/-! ### Slots of a warp -/

/-- Apply a change to every live slot of a warp, those saved in trap mode included (R350). -/
def Warp.mapSlots (w : Warp) (f : Slot → Slot) : Warp :=
  { w with slot0 := w.slot0.map f, slot1 := w.slot1.map f,
           trap := w.trap.map (fun t => { t with slot0 := t.slot0.map f, slot1 := t.slot1.map f }) }

/-- The live slots of a warp, those saved in trap mode included. -/
def Warp.allSlots (w : Warp) : List Slot :=
  let own := w.slot0.toList ++ w.slot1.toList
  match w.trap with
  | none => own
  | some t => own ++ t.slot0.toList ++ t.slot1.toList

/-- A slot by number: false is slot 0. -/
def Warp.slot? (w : Warp) (n : Bool) : Option Slot := if n then w.slot1 else w.slot0

def Warp.setSlot (w : Warp) (n : Bool) (x : Option Slot) : Warp :=
  if n then { w with slot1 := x } else { w with slot0 := x }

/-- Change a warp by its identity. -/
def onWarp (s : State) (uid : Nat) (f : Warp → Warp) : State :=
  { s with warps := s.warps.map (fun w => if w.uid == uid then f w else w) }

/-- The warp's team is resident, and on the active plane of its core (R321). -/
def isResident (s : State) (w : Warp) : Bool := (findTeam? s w.team).elim false (fun t => t.place == .resident)
def isActive (s : State) (w : Warp) : Bool :=
  (findTeam? s w.team).elim false (fun t => t.place == .resident && t.planeOn w.core == (getCore s w.core).active)

/-! ### Acquires -/

/-- An acquire at a scope drops the SI words of its domain (R80). -/
def scopeDrops (s : State) (core : Nat) : Scope → Bool
  | .core => false
  | .quad => !fusedOf s core
  | _ => true

/-- Start an acquire: its reference is the present slot count (R80, R97). -/
def startAcquire (s : State) (uid : Nat) (scope : Scope) (op loadsBefore : Option Nat) : State :=
  match findWarp? s uid with
  | none => s
  | some w =>
    let (id, s) := fresh s
    let a : Acquire := { id := id, refSlot := s.slotCount, bound := id, op := op, scope := scope, loadsBefore := loadsBefore }
    let s := setWarp s { w with acquires := w.acquires ++ [a] }
    if scopeDrops s w.core scope then dropSi s (domainOf s w.core) else s

/-! ### Barriers -/

/-- A spread team (R17). -/
def Team.spread (t : Team) : Bool := t.cores.length != 1

/-- Scope of a barrier level (R31). -/
def levelScope (t : Team) : BarLevel → Scope
  | .team => if t.spread then .die else .core
  | .gang => if t.spread then .die else .quad
  | .grid => .pkg
  | .pod => .pod

def findBar? (l : List Bar) (n : BitVec 6) : Option Bar := l.find? (fun b => b.n == n)
def putBar (l : List Bar) (b : Bar) : List Bar := l.map (fun x => if x.n == b.n then b else x)

/-- The pod instance that a grid belongs to. -/
def podOf? (s : State) (grid : Nat) : Option Pod := s.pods.find? (fun p => p.grid == grid)
def setPod (s : State) (p : Pod) : State :=
  { s with pods := s.pods.map (fun x => if x.part == p.part && x.group == p.group then p else x) }

def PodBar.none (n : BitVec 6) (rank : Nat) : PodBar := { n := n, rank := rank, arrived := 0, leaving := 0, dropped := 0 }

/-- A member's part in a pod barrier, and the list with it replaced. -/
def findPodBar (l : List PodBar) (n : BitVec 6) (rank : Nat) : PodBar :=
  (l.find? (fun b => b.n == n && b.rank == rank)).getD (PodBar.none n rank)
def putPodBar (l : List PodBar) (b : PodBar) : List PodBar := b :: l.filter (fun x => !(x.n == b.n && x.rank == b.rank))

/-- The Sower counts its member's arrivals and drops and will send them to the CLE (R340). -/
def podArrive (s : State) (p : Pod) (n : BitVec 6) (arrivals drops : Nat) : State :=
  let b := findPodBar p.mine n p.rank
  setPod s { p with out := p.out ++ [(n, arrivals, drops)],
                    mine := putPodBar p.mine { b with arrived := b.arrived + arrivals, leaving := b.leaving + drops } }

/-- The barrier of a level that a team uses. A pod barrier has its phase here; its counts are at the CLE. -/
def barOf? (s : State) (t : Team) (level : BarLevel) (n : BitVec 6) : Option Bar :=
  match level with
  | .team => findBar? t.bars n
  | .gang => (findGang? s t.gang).bind (fun g => findBar? g.bars n)
  | .grid => (findGrid? s t.grid).bind (fun g => findBar? g.bars n)
  | .pod => (podOf? s t.grid).map (fun p =>
      { n := n, phase := tget p.phases n.toNat false, registered := 0, arrived := 0, leaving := 0 })

def setBarOf (s : State) (t : Team) (level : BarLevel) (b : Bar) : State :=
  match level with
  | .team => setTeam s { t with bars := putBar t.bars b }
  | .gang => (findGang? s t.gang).elim s (fun g => setGang s { g with bars := putBar g.bars b })
  | .grid => (findGrid? s t.grid).elim s (fun g => setGrid s { g with bars := putBar g.bars b })
  | .pod => s

/-- A team shares the barriers of a level with another. -/
def sameUnit (level : BarLevel) (t u : Team) : Bool :=
  match level with
  | .team => t.uid == u.uid
  | .gang => t.gang == u.gang
  | .grid | .pod => t.grid == u.grid

/-- A warp's record of a barrier (R262). -/
def warpBar (w : Warp) (level : BarLevel) (n : BitVec 6) : WarpBar :=
  (w.bars.find? (fun b => b.level == level && b.n == n)).getD
    { level := level, n := n, arrived := 0, phase := none, dropped := 0 }

def setWarpBar (w : Warp) (b : WarpBar) : Warp :=
  { w with bars := b :: w.bars.filter (fun x => !(x.level == b.level && x.n == b.n)) }

/-- A slot waits in a barrier for a phase that is over. -/
def barReleased (level : BarLevel) (n : BitVec 6) (phase : Bool) : Block → Bool
  | .bar l m p => l == level && m == n && p != phase
  | _ => false

/-- Waiters of a completed phase go on, as acquires at the level's scope; arrived masks clear (R262, R263). -/
def releaseBar (s : State) (t : Team) (level : BarLevel) (n : BitVec 6) (phase : Bool) : State :=
  let mine := s.warps.filter (fun w => ((findTeam? s w.team).elim false (sameUnit level t)))
  mine.foldl (fun s w =>
    let waits := w.allSlots.any (fun x => barReleased level n phase x.block)
    let b := warpBar w level n
    let w' := if b.arrived == 0 then w else setWarpBar w { b with arrived := 0 }
    let w' := w'.mapSlots (fun x => if barReleased level n phase x.block then { x with block := .none } else x)
    let s := setWarp s w'
    if waits then startAcquire s w.uid (levelScope t level) none none else s) s

/-- Arrivals and drops of threads reach a barrier; a phase whose count is full completes (R262). -/
def arriveBar (s : State) (t : Team) (level : BarLevel) (n : BitVec 6) (arrivals drops : Nat) : State :=
  match level, podOf? s t.grid with
  | .pod, some p => podArrive s p n arrivals drops
  | _, _ =>
    match barOf? s t level n with
    | none => s
    | some b =>
      let b := { b with arrived := b.arrived + arrivals, leaving := b.leaving + drops }
      if arrivals != 0 && b.arrived == b.registered then
        let b := { b with phase := !b.phase, arrived := 0, registered := b.registered - b.leaving, leaving := 0 }
        releaseBar (setBarOf s t level b) t level n b.phase
      else setBarOf s t level b

/-- Barriers on which a warp's threads are registered (R262). -/
def registeredBars (g : Grid) : List (BarLevel × BitVec 6) :=
  let ns := (List.range g.r.nbar).map (BitVec.ofNat 6)
  ns.map (fun n => (BarLevel.team, n)) ++ ns.map (fun n => (BarLevel.gang, n)) ++
  (if g.r.gridbar then ns.map (fun n => (BarLevel.grid, n)) else []) ++
  (if g.r.podgrp != 0 then ns.map (fun n => (BarLevel.pod, n)) else [])

/-- Some lanes of a warp arrive at a barrier and, for a drop, leave it; the arrival of lanes that had arrived is not
repeated. The count at the barrier moves only with `arriveBar`. -/
def markBar (w : Warp) (level : BarLevel) (n : BitVec 6) (phase : Bool) (lanes : Word) (drop : Bool) : Warp :=
  let b := warpBar w level n
  setWarpBar w { b with arrived := b.arrived ||| lanes, phase := some phase,
                        dropped := if drop then b.dropped ||| lanes else b.dropped }

/-- EXIT: the lanes drop from every barrier on which they are registered (R230). DESIGN CHOICE (log 107): they are counted
at once, where a `BAR.drop` makes a release wait first (R372). -/
def dropFromBars (s : State) (uid : Nat) (lanes : Word) : State :=
  match (findWarp? s uid).bind (gridOf s) with
  | none => s
  | some g =>
    (registeredBars g).foldl (fun s p =>
      match findWarp? s uid with
      | none => s
      | some w =>
        match findTeam? s w.team with
        | none => s
        | some t =>
          match barOf? s t p.1 p.2 with
          | none => s
          | some _ =>
            let b := warpBar w p.1 p.2
            let leave := lanes &&& ~~~ b.dropped
            let arrive := leave &&& ~~~ b.arrived
            if leave == 0 then s
            else
              let s := setWarp s (setWarpBar w { b with arrived := b.arrived ||| arrive, dropped := b.dropped ||| leave })
              arriveBar s t p.1 p.2 (popcount arrive) (popcount leave)) s

/-- Lanes of a warp whose arrival, or whose drop, a held release has not delivered yet. -/
def heldLanes (s : State) (uid : Nat) (level : BarLevel) (n : BitVec 6) (drops : Bool) : Word :=
  s.ops.foldl (fun m o =>
    match o.kind with
    | .bar kind l k lanes =>
      if o.warp == uid && o.held && l == level && k == n && (!drops || kind == .drop) then m ||| lanes else m
    | _ => m) 0

/-- Lanes of a warp whose arrival the present phase has counted, and those it has counted as leaving with it. -/
def countedLanes (s : State) (w : Warp) (level : BarLevel) (n : BitVec 6) : Word × Word :=
  let b := warpBar w level n
  (b.arrived &&& ~~~ heldLanes s w.uid level n false, b.dropped &&& b.arrived &&& ~~~ heldLanes s w.uid level n true)

/-- Withdraw a warp's arrivals and drops from a barrier: its threads are registered and not arrived again (R149). -/
def withdrawBar (s : State) (w : Warp) (t : Team) (level : BarLevel) (b : WarpBar) : State :=
  match barOf? s t level b.n with
  | none => s
  | some bar =>
    let counted := countedLanes s w level b.n
    setBarOf s t level { bar with arrived := bar.arrived - popcount counted.1, leaving := bar.leaving - popcount counted.2,
                                  registered := bar.registered + popcount (b.dropped &&& ~~~ b.arrived) }

/-- A team's threads leave the barriers of its gang, which it no longer belongs to. -/
def leaveGangBar (s : State) (w : Warp) (t : Team) (n : BitVec 6) : State :=
  match barOf? s t .gang n with
  | none => s
  | some bar =>
    let b := warpBar w .gang n
    let counted := countedLanes s w .gang n
    setBarOf s t .gang { bar with arrived := bar.arrived - popcount counted.1, leaving := bar.leaving - popcount counted.2,
                                  registered := bar.registered - (32 - popcount (b.dropped &&& ~~~ b.arrived)) }

/-! ### Rings -/

def ringOf? (t : Team) (core : Nat) (r : Nat) : Option Ring := (t.rings[coreIndex t core]?).bind (fun l => l[r]?)

/-- A chamber of a ring of a core of a team. -/
def chamberOf? (t : Team) (core r c : Nat) : Option Chamber := (ringOf? t core r).bind (fun x => x.chambers[c]?)

/-- An arrival on a chamber: the step whose count is full ends (R24, R25). -/
def Chamber.arrive (x : Chamber) (fill drain : Nat) : Chamber :=
  let k := x.count + 1
  if k < (if x.full then drain else fill) then { x with count := k }
  else if x.full then { full := false, phase := !x.phase, count := 0 }
  else { full := true, phase := x.phase, count := 0 }

/-- RWT waiters of a chamber that has reached their state and phase go on, as acquires at `.core` (R25, R98). -/
def releaseRing (s : State) (t : Team) (core : Nat) (r : BitVec 5) (c : BitVec 3) (x : Chamber) : State :=
  let hit (b : Block) : Bool := match b with
    | .ring r' c' f p => r' == r && c' == c && f == x.full && p == x.phase
    | _ => false
  (s.warps.filter (fun w => w.team == t.uid && w.core == core)).foldl (fun s w =>
    if w.allSlots.any (fun y => hit y.block) then
      startAcquire (setWarp s (w.mapSlots (fun y => if hit y.block then { y with block := .none } else y)))
        w.uid .core none none
    else s) s

/-- An arrival on chamber c of ring r of a core of a team. -/
def arriveRing (s : State) (team core : Nat) (r : BitVec 5) (c : BitVec 3) : State :=
  match findTeam? s team with
  | none => s
  | some t =>
    match ringOf? t core r.toNat, chamberOf? t core r.toNat c.toNat with
    | some ring, some x =>
      let x := x.arrive ring.fill ring.drain
      let ring := { ring with chambers := ring.chambers.set c.toNat x }
      let i := coreIndex t core
      let t := { t with rings := t.rings.modify i (fun l => l.set r.toNat ring) }
      releaseRing (setTeam s t) t core r c x
    | _, _ => s

end Sys2Proof.Machine
end

