-- ==== Sys2Proof/Machine/Regs.lean ====
section
/-! DEFINITION. Registers: the register block of a warp (03 R49), its sliding window (01 R27), results that land
later (08 R178), and store addresses (03 R46, R52). -/

namespace Sys2Proof.Machine

open Sys2Proof

/-- Key of a word of a banked store (R46). -/
def storeKey (core : Nat) (plane : Bool) (addr : Nat) : Nat := core * 2 ^ 19 + plane.toNat * 2 ^ 18 + addr / 4

/-- Key of the first word of a warp's register block. -/
def regBank (s : State) (w : Warp) : Nat := storeKey w.core (planeOf s w) w.regBase

/-- Word number of scalar `s`j in the block (R49). -/
def sKey (j : Nat) : Nat := j
/-- Word number of vector register `v`k of lane l (R49). -/
def vKey (k l : Nat) : Nat := 64 + 32 * k + l

/-- The value of a register word in the window, the newest result first (R27). -/
def windowGet? : List (List (Nat × Word)) → Nat → Option Word
  | [], _ => none
  | e :: rest, key =>
    match e.find? (fun p => p.1 == key) with
    | some p => some p.2
    | none => windowGet? rest key

/-- A register word as the warp reads it: from the window if it is there, else from the bank (R27). -/
def regWord (s : State) (w : Warp) (bank key : Nat) : Word :=
  match windowGet? w.window key with
  | some v => v
  | none => (s.store.word (bank + key)).data

/-- Write register words to the banks. -/
def bankWrite (s : State) (bank : Nat) (ws : List (Nat × Word)) : State :=
  { s with store := ws.foldl (fun m p => m.setWord (bank + p.1) (good p.2)) s.store,
           upsets := ws.foldl (fun t p => terase t (bank + p.1)) s.upsets }

/-- Results of the window, oldest first, that no later entry of the window overwrites (R27). -/
def windowPending (win : List (List (Nat × Word))) : List (Nat × Word) :=
  win.reverse.flatten

/-- Write every pending result to the banks (R27). -/
def flushWindow (s : State) (w : Warp) : State :=
  setWarp (bankWrite s (regBank s w) (windowPending w.window)) { w with window := [] }

/-- Drop pending results of some register words (R178). -/
def windowDrop (win : List (List (Nat × Word))) (keys : List Nat) : List (List (Nat × Word)) :=
  win.map (fun e => e.filter (fun p => !keys.contains p.1))

/-- A new result enters the window. The result that becomes the ninth is written to the banks, but for registers
that a later instruction of the window has written (R27). -/
def pushWindow (s : State) (uid : Nat) (ws : List (Nat × Word)) : State :=
  match findWarp? s uid with
  | none => s
  | some w =>
    let win := ws :: w.window
    let old := (win.drop 8).flatten
    let kept := win.take 8
    let out := old.filter (fun p => (windowGet? kept p.1).isNone)
    setWarp (if out.isEmpty then s else bankWrite s (regBank s w) out) { w with window := kept }

/-- A variable-latency result lands: it is written to the banks, and pending window results for it are dropped
(R178). -/
def landRegs (s : State) (uid : Nat) (ws : List (Nat × Word)) : State :=
  match findWarp? s uid with
  | none => s
  | some w =>
    let s := bankWrite s (regBank s w) ws
    setWarp s { w with window := windowDrop w.window (ws.map (·.1)) }

/-- Scalar `s`j as the warp reads it. -/
def scalar (s : State) (w : Warp) (j : Nat) : Word := regWord s w (regBank s w) (sKey j)

end Sys2Proof.Machine
end

