-- ==== Sys2Proof/Machine/Operands.lean ====
section
/-! DEFINITION. Operands: the registers an instruction reads and writes (08 R160 to R173), its class, counter and
privilege (01 R22, R26; 08 R174), and the values its sources have (01 R27, R29, R30; 08 R164; 10 R205). -/

namespace Sys2Proof

open Sys2Proof.Machine

/-! ### What an instruction names -/

/-- A register operand and how many consecutive registers it covers. -/
structure Use where
  src : Src
  n : Nat
  deriving DecidableEq, Repr

def Dst.src : Dst → Src
  | .v k => .v k
  | .s j => .s j

def Base.src : Base → Src
  | .v k => .v k
  | .s j => .s j

def SVal.src : SVal → Src
  | .s j => .s j
  | .lit w => .lit w

/-- One or two registers. -/
def wideN (b : Bool) : Nat := if b then 2 else 1

def Width.words : Width → Nat
  | .w4 => 1
  | .w8 => 2
  | .w16 => 4

/-- The GUARD of an instruction; SEL's select bit is not a guard (R161). -/
def Instr.guard : Instr → Guard
  | .add o | .sub o | .adds o | .subs o | .mul o | .mulh o | .div o | .rem o | .min o | .max o | .and o | .or o
  | .xor o | .andn o | .shl o | .shr o | .sar o | .rotl o => o.guard
  | .mad o | .madw o | .funs o | .bfx o | .bfi o | .lea o => o.guard
  | .abs o | .neg o | .not o | .popc o | .clz o | .ctz o | .brev o | .mov o => o.guard
  | .cmp o => o.guard
  | .fcmp o => o.guard
  | .bitop o => o.guard
  | .shfl o => o.guard
  | .vote o => o.guard
  | .wred o => o.guard
  | .wscan o => o.guard
  | .matchLanes o => o.guard
  | .cvt o => o.guard
  | .pack o => o.guard
  | .unpk o => o.guard
  | .frnd o => o.guard
  | .fadd o | .fsub o | .fmul o | .fdiv o | .fscl o => o.guard
  | .ffma o | .fdot2 o => o.guard
  | .fmin o | .fmax o | .fcps o => o.guard
  | .fabs o | .fneg o | .fclass o | .fxtr o | .fsat o => o.guard
  | .exp2 o | .log2 o | .rcp o | .rsq o | .sqrt o | .sinp o | .cosp o | .tanh o | .sigm o | .erf o | .exp o
  | .loge o | .gelu o | .silu o => o.guard
  | .bra o => o.guard
  | .brc o => o.guard
  | .exit g => g
  | .ld o | .st o | .stnt o | .ldck o | .stck o | .pref o => o.guard
  | .lds o | .sts o => o.guard
  | .atom o => o.guard
  | .red o => o.guard
  | .atoms o => o.guard
  | .invl o | .wbl o => o.guard
  | .mma o => o.guard
  | .mmao o => o.guard
  | .acz o => o.guard
  | .acld o | .acst o => o.guard
  | .tdrn o => o.guard
  | .acsc o | .acmx o | .acex o => o.guard
  | .cpt o | .cpg o | .cps o => o.guard
  | .ckgen o => o.guard
  | .cktst o => o.guard
  | _ => none

/-- Two-source integer operands: B is a pair too, or a 32-bit count. -/
def IntBin.uses (o : IntBin) (wideB : Bool) : List Use :=
  [⟨o.a, wideN o.ty.is64⟩, ⟨o.b, wideN (o.ty.is64 && wideB)⟩]

def IntTri.uses (o : IntTri) (a b c : Bool) : List Use := [⟨o.a, wideN a⟩, ⟨o.b, wideN b⟩, ⟨.v o.c, wideN c⟩]

def GAddr.uses (a : GAddr) : List Use :=
  ⟨Base.src a.base, 2⟩ :: (match a.idx with
    | some d => [⟨Dst.src d, 1⟩]
    | none => [])

def StoreOp.addrUses (o : StoreOp) : List Use :=
  ⟨.s o.base, 1⟩ :: (match o.added with
    | some d => [⟨Dst.src d, 1⟩]
    | none => [])

/-- The registers that a half reads. -/
def Half.uses (h : Half) : List Use := h.reads.map (fun k => ⟨.v k, 1⟩)

/-- HOP of a pair's first half (R172). -/
def Instr.half? : Instr → Option Half
  | .halfMov o => some (o.half 0x00) | .halfMovi o => some (o.half 0x01) | .halfAdd o => some (o.half 0x02)
  | .halfAddi o => some (o.half 0x03) | .halfSub o => some (o.half 0x04) | .halfAnd o => some (o.half 0x05)
  | .halfOr o => some (o.half 0x06) | .halfXor o => some (o.half 0x07) | .halfShli o => some (o.half 0x08)
  | .halfShri o => some (o.half 0x09) | .halfSari o => some (o.half 0x0A) | .halfMin o => some (o.half 0x0B)
  | .halfMax o => some (o.half 0x0C) | .halfMul o => some (o.half 0x0D) | .halfFadd o => some (o.half 0x0E)
  | .halfFsub o => some (o.half 0x0F) | .halfFmul o => some (o.half 0x10) | .halfFmac o => some (o.half 0x11)
  | .halfFmin o => some (o.half 0x12) | .halfFmax o => some (o.half 0x13) | .halfHadd o => some (o.half 0x14)
  | .halfHmul o => some (o.half 0x15) | .halfHmac o => some (o.half 0x16) | .halfCvtf o => some (o.half 0x17)
  | .halfCvti o => some (o.half 0x18) | .halfNot o => some (o.half 0x19) | .halfAbs o => some (o.half 0x1A)
  | .halfFabs o => some (o.half 0x1B) | .halfFneg o => some (o.half 0x1C) | .halfNop o => some (o.half 0x1D)
  | _ => none

/-- The second word of a pair. -/
def Instr.second? : Instr → Option Word
  | .halfMov o | .halfMovi o | .halfAdd o | .halfAddi o | .halfSub o | .halfAnd o | .halfOr o | .halfXor o
  | .halfShli o | .halfShri o | .halfSari o | .halfMin o | .halfMax o | .halfMul o | .halfFadd o | .halfFsub o
  | .halfFmul o | .halfFmac o | .halfFmin o | .halfFmax o | .halfHadd o | .halfHmul o | .halfHmac o | .halfCvtf o
  | .halfCvti o | .halfNot o | .halfAbs o | .halfFabs o | .halfFneg o | .halfNop o => some o.second
  | _ => none

/-- The two halves of a pair. -/
def Instr.halves (i : Instr) : List Half :=
  (match i.half? with
    | some h => [h]
    | none => []) ++ (match i.second? with
    | some w => [Half.ofWord w]
    | none => [])

/-- Registers an instruction reads as data, addresses or bits, but for its guard (R160, R180). -/
def Instr.uses : Instr → List Use
  | .add o | .sub o | .adds o | .subs o | .mul o | .mulh o | .div o | .rem o | .min o | .max o | .and o | .or o
  | .xor o | .andn o => o.uses true
  | .shl o | .shr o | .sar o | .rotl o => o.uses false
  | .mad o => o.uses o.ty.is64 o.ty.is64 o.ty.is64
  | .madw o => o.uses false false true
  | .funs o => o.uses false false false
  | .bfx o => o.uses o.ty.is64 false false
  | .bfi o => o.uses o.ty.is64 false o.ty.is64
  | .lea o => o.uses o.ty.is64 false false
  | .abs o | .neg o | .not o | .popc o | .clz o | .ctz o | .brev o | .mov o => [⟨o.a, wideN o.ty.is64⟩]
  | .cmp o => [⟨o.a, wideN o.ty.is64⟩, ⟨o.b, wideN o.ty.is64⟩, ⟨Dst.src o.dst, 1⟩]
  | .fcmp o => [⟨o.a, 1⟩, ⟨o.b, 1⟩, ⟨Dst.src o.dst, 1⟩]
  | .sel o => [⟨.v o.reg, 1⟩, ⟨o.a, wideN (o.ty != .word)⟩, ⟨o.b, wideN (o.ty != .word)⟩]
  | .bitop o => ⟨Dst.src o.dst, 1⟩ :: (match o.kind with
      | .and s _ | .or s _ => [⟨s, 1⟩]
      | _ => [])
  | .shfl o => [⟨o.a, wideN o.pair⟩, ⟨o.b, 1⟩]
  | .vote o => [⟨o.a, 1⟩]
  | .wred o => [⟨o.a, wideN o.ty.is64⟩]
  | .wscan o => [⟨o.a, wideN o.ty.is64⟩]
  | .matchLanes o => [⟨o.a, wideN o.pair⟩]
  | .cvt o => ⟨o.a, wideN o.sfmt.is64⟩ :: (match o.mode with
      | .sr r => [⟨r, 1⟩]
      | .rnd _ => [])
  | .pack o => [⟨o.a, 1⟩, ⟨o.b, 1⟩, ⟨.v o.dst, 1⟩]
  | .unpk o => [⟨o.a, 1⟩]
  | .frnd o => [⟨o.a, 1⟩]
  | .setsr o => [⟨SVal.src o.val, 1⟩]
  | .fadd o | .fsub o | .fmul o | .fdiv o | .fscl o => [⟨o.a, 1⟩, ⟨o.b, 1⟩]
  | .ffma o | .fdot2 o => [⟨o.a, 1⟩, ⟨o.b, 1⟩, ⟨.v o.c, 1⟩]
  | .fmin o | .fmax o | .fcps o => [⟨o.a, 1⟩, ⟨o.b, 1⟩]
  | .fabs o | .fneg o | .fclass o | .fxtr o | .fsat o => [⟨o.a, 1⟩]
  | .exp2 o | .log2 o | .rcp o | .rsq o | .sqrt o | .sinp o | .cosp o | .tanh o | .sigm o | .erf o | .exp o
  | .loge o | .gelu o | .silu o => [⟨o.a, 1⟩]
  | .ret j | .jmpi j => [⟨.s j, 1⟩]
  | .loop o => [⟨.s o.reg, 1⟩]
  | .sleep c => [⟨SVal.src c, 1⟩]
  | .ld o | .ldck o | .pref o => o.addr.uses
  | .st o | .stnt o => ⟨Dst.src o.data, Width.words o.width⟩ :: o.addr.uses
  | .stck o => ⟨Dst.src o.data, 2⟩ :: o.addr.uses
  | .lds o => o.addrUses
  | .sts o => ⟨Dst.src o.data, Width.words o.width⟩ :: o.addrUses
  | .atom o => [⟨Base.src o.base, 2⟩, ⟨o.b, wideN o.kind.is64⟩] ++
      (if o.kind.isCas then [⟨.v o.dst, wideN o.kind.is64⟩] else [])
  | .red o => [⟨Base.src o.base, 2⟩, ⟨o.b, wideN o.kind.is64⟩]
  | .atoms o => [⟨.s o.base, 1⟩, ⟨o.b, 1⟩] ++ (if o.kind.isCas then [⟨.v o.dst, 1⟩] else []) ++
      (match o.addr with
        | .added k _ => [⟨.v k, 1⟩]
        | _ => [])
  | .invl o | .wbl o => [⟨Base.src o.base, 2⟩]
  | .waitw o => ⟨.s o.base, 1⟩ :: (match o.val with
      | .s j => [⟨.s j, 1⟩]
      | .lit _ _ => [])
  | .rwt o => [⟨SVal.src o.phase, 1⟩]
  | .tflag t => [⟨SVal.src t, 1⟩]
  | .wake o => [⟨.s o.base, 1⟩]
  | .nbsa _ d | .nbcp d | .nbzr d | .nbopt d => [⟨.s d, 1⟩]
  | .mma o => [⟨.s o.a, 1⟩, ⟨.s o.b, 1⟩]
  | .mmao o => [⟨.s o.a, 1⟩, ⟨.s o.b, 1⟩, ⟨.s o.list, 2⟩]
  | .acld o | .acst o => [⟨.s o.addr, 1⟩]
  | .tdrn o => ⟨.s o.dst, 1⟩ :: (match o.scales with
      | some j => [⟨.s j, 1⟩]
      | none => [])
  | .acsc o | .acex o => [⟨o.reg, 1⟩]
  | .cpt o | .cpg o | .cps o => [⟨.s o.layout, 1⟩, ⟨Base.src o.g, 2⟩, ⟨.s o.store, 1⟩] ++ (match o.notify with
      | .word b _ => [⟨.s b, 1⟩]
      | _ => [])
  | .card o | .cagt o | .cata o | .cbct o => ⟨.s o.desc, 1⟩ :: (match o.notify with
      | .word b _ => [⟨.s b, 1⟩]
      | _ => [])
  | .sreg o => [⟨.s o.d, 1⟩]
  | .sld o => [⟨.s o.p, 2⟩]
  | .sst o => [⟨.s o.p, 2⟩, ⟨.v o.src, 1⟩]
  | .shrd o => ⟨.s o.p, 2⟩ :: (match o.mode with
      | .smp u | .thr u => [⟨.s u, 1⟩]
      | .max => [])
  | .slda o => [⟨.s o.o, 1⟩, ⟨.s o.p, 2⟩, ⟨.v o.g, 1⟩]
  | .ssta o => [⟨.s o.p, 2⟩, ⟨.s o.o, 1⟩]
  | .snrm o => [⟨.s o.p, 2⟩]
  | .ckgen o => [⟨o.a, 1⟩]
  | .cktst o => [⟨o.a, 1⟩, ⟨o.b, 1⟩]
  | .trap v | .prgs v | .bkpt v => [⟨SVal.src v, 1⟩]
  | .lnch o => [⟨.s o.record, 1⟩, ⟨SVal.src o.q, 1⟩]
  | .tlbi (.page a) => [⟨.s a, 2⟩]
  | .tlbi (.ctx c) => [⟨.s c, 1⟩]
  | i => (i.halves.map Half.uses).flatten

/-- Vector registers an instruction writes, with their number (R160). -/
def Instr.writesV : Instr → List (VReg × Nat)
  | .add o | .sub o | .adds o | .subs o | .mul o | .mulh o | .div o | .rem o | .min o | .max o | .and o | .or o
  | .xor o | .andn o | .shl o | .shr o | .sar o | .rotl o => dv o.dst (wideN o.ty.is64)
  | .mad o | .bfx o | .bfi o | .lea o => [(o.dst, wideN o.ty.is64)]
  | .madw o => [(o.dst, 2)]
  | .funs o => [(o.dst, 1)]
  | .abs o | .neg o | .not o | .brev o | .mov o => dv o.dst (wideN o.ty.is64)
  | .popc o | .clz o | .ctz o => dv o.dst 1
  | .cmp o => dv o.dst 1
  | .fcmp o => dv o.dst 1
  | .sel o => [(o.dst, wideN (o.ty != .word))]
  | .bitop o => dv o.dst 1
  | .shfl o => [(o.dst, wideN o.pair)]
  | .wscan o => [(o.dst, wideN o.ty.is64)]
  | .matchLanes o => [(o.dst, 1)]
  | .cvt o => [(o.dst, wideN o.dfmt.is64)]
  | .pack o => [(o.dst, 1)]
  | .unpk o => [(o.dst, 2)]
  | .frnd o => [(o.dst, 1)]
  | .movsr o => dv o.dst 1
  | .fadd o | .fsub o | .fmul o | .fdiv o | .fscl o => [(o.dst, 1)]
  | .ffma o | .fdot2 o => [(o.dst, 1)]
  | .fmin o | .fmax o | .fcps o => [(o.dst, 1)]
  | .fabs o | .fneg o | .fclass o | .fxtr o | .fsat o => [(o.dst, 1)]
  | .exp2 o | .log2 o | .rcp o | .rsq o | .sqrt o | .sinp o | .cosp o | .tanh o | .sigm o | .erf o | .exp o
  | .loge o | .gelu o | .silu o => [(o.dst, 1)]
  | .ld o => dv o.data (Width.words o.width)
  | .ldck o => dv o.data 2
  | .lds o => dv o.data (Width.words o.width)
  | .atom o => [(o.dst, wideN o.kind.is64)]
  | .atoms o => [(o.dst, 1)]
  | .acmx o => (match o.reg with
      | .v k => [(k, 1)]
      | _ => [])
  | .sld o => [(o.dst, 1)]
  | .ssta o => [(o.dst, 1)]
  | .ckgen o => [(o.dst, 1)]
  | .cktst o => [(o.dst, 1)]
  | i => (i.halves.map (fun h => h.writes.map (fun k => (k, 1)))).flatten
where
  dv (d : Dst) (n : Nat) : List (VReg × Nat) :=
    match d with
    | .v k => [(k, n)]
    | .s _ => []

/-- Highest vector register index the instruction names plus one (R160). -/
def Instr.regLimit (i : Instr) : Nat :=
  let ofSrc (u : Use) : Nat := match u.src with
    | .v k | .left k | .right k => k.toNat + u.n
    | _ => 0
  let g : Nat := match i.guard with
    | some b => b.reg.toNat + 1
    | none => 0
  ((i.uses.map ofSrc) ++ (i.writesV.map (fun p => p.1.toNat + p.2))).foldl Nat.max g

/-! ### Classes -/

/-- The instruction classes of R22. -/
inductive Role where
  | all | copy | array | accSide | vector
  deriving DecidableEq, Repr

/-- A scalar DST with only scalar or literal sources (R22, R205). -/
def scalarClass (d : Dst) : Role := if d.isScalar then .all else .vector

/-- Class of an instruction (R22). -/
def Instr.role : Instr → Role
  | .add o | .sub o | .adds o | .subs o | .mul o | .mulh o | .div o | .rem o | .min o | .max o | .and o | .or o
  | .xor o | .andn o | .shl o | .shr o | .sar o | .rotl o => scalarClass o.dst
  | .abs o | .neg o | .not o | .popc o | .clz o | .ctz o | .brev o | .mov o => scalarClass o.dst
  | .cmp o => scalarClass o.dst
  | .fcmp o => scalarClass o.dst
  | .bitop o => scalarClass o.dst
  | .movsr o => scalarClass o.dst
  | .setsr _ => .all
  | .bra _ | .brc _ | .join | .call _ | .ret _ | .jmpi _ | .loop _ | .exit _ | .yield | .nop | .sleep _
  | .trap _ | .prgs _ | .bkpt _ | .sigchk _ | .sigrd _ | .illegalInstructionWord _ => .all
  | .bar _ | .wait _ | .waitw _ | .rarv _ | .rwt _ | .tflag _ | .wake _ | .fence _ | .drnt | .redf _ | .rsync => .all
  | .cpt _ | .cpg _ | .cps _ | .cpq _ | .card _ | .cagt _ | .cata _ | .cbct _ => .copy
  | .mma _ | .mmao _ | .acz _ | .acld _ | .acst _ => .array
  | .tdrn _ | .acsc _ | .acmx _ | .acex _ => .accSide
  | _ => .vector

/-- A role may issue a class (R22). -/
def Role.admits : Role → BitVec 2 → Bool
  | .all, _ => true
  | .copy, r => r == 0 || r == 3
  | .array, r => r == 1 || r == 3
  | .accSide, r => r == 1 || r == 2 || r == 3
  | .vector, r => r == 2 || r == 3

/-- The counter an instruction raises (R26). -/
def Instr.ctr : Instr → Option Ctr
  | .ld _ | .lds _ | .ldck _ | .atom _ | .atoms _ => some .ld
  | .st _ | .sts _ | .stck _ | .stnt _ => some .st
  | .cpt _ | .cpg _ | .cps _ | .card _ | .cagt _ | .cata _ | .cbct _ => some .cp
  | .mma _ | .mmao _ | .acz _ | .acld _ | .acst _ | .tdrn _ | .acsc _ | .acmx _ | .acex _ => some .mx
  | .nbsa _ _ | .nbcp _ | .nbzr _ | .nbopt _ | .red _ => some .nm
  | .sld _ | .sst _ | .slda _ | .ssta _ | .shrd _ | .snrm _ | .scmt _ => some .sf
  | _ => none

/-- Instructions that an incomplete acquire of the warp holds back (R97). -/
def Instr.access : Instr → Bool
  | .ld _ | .st _ | .stnt _ | .lds _ | .sts _ | .ldck _ | .stck _ | .pref _ | .atom _ | .red _ | .atoms _
  | .invl _ | .wbl _ | .waitw _ | .fence _ | .cpt _ | .cpg _ | .cps _ | .card _ | .cagt _ | .cata _ | .cbct _
  | .nbsa _ _ | .nbcp _ | .nbzr _ | .nbopt _ | .mma _ | .mmao _ | .acz _ | .acld _ | .acst _ | .tdrn _ | .acsc _
  | .acmx _ | .acex _ | .sreg _ | .sld _ | .sst _ | .shrd _ | .slda _ | .ssta _ | .scmt _ | .snrm _ | .lnch _ => true
  | _ => false

/-- Stores, atomics and reductions, which FENCE.rel holds back until its release wait is over (R99). -/
def Instr.storing : Instr → Bool
  | .st _ | .stnt _ | .sts _ | .stck _ | .atom _ | .red _ | .atoms _ => true
  | _ => false

/-- Limit of a WAIT for a counter. -/
def WaitOp.limit (o : WaitOp) : Ctr → BitVec 6
  | .ld => o.ld | .st => o.st | .cp => o.cp | .mx => o.mx | .nm => o.nm | .sf => o.sf

/-- Where a pending report of a counter is taken: a WAIT with a limit for it, an instruction that counts in it, an
EXIT (R281), or an SREG on the same handle (R136). -/
def Instr.meets (i : Instr) (r : Report) : Bool :=
  match i with
  | .wait o => decide ((o.limit r.ctr).toNat < 63)
  | .exit _ => true
  | .sreg o => r.ctr == .sf && r.handle == some o.h
  | i => i.ctr == some r.ctr

/-- A pending report is taken before any check of R163 (R281), so also by a word whose OP is that of such an instruction
and whose fields are not. -/
def Instr.takes (i : Instr) (r : Report) : Bool :=
  match i with
  | .illegalInstructionWord x => (namedBy x.p0 x.rest).any (fun j => j.meets r)
  | i => i.meets r

end Sys2Proof

namespace Sys2Proof.Machine

open Sys2Proof

def Counters.get (c : Counters) : Ctr → Nat
  | .ld => c.ld | .st => c.st | .cp => c.cp | .mx => c.mx | .nm => c.nm | .sf => c.sf

def Counters.set (c : Counters) (k : Ctr) (n : Nat) : Counters :=
  match k with
  | .ld => { c with ld := n } | .st => { c with st := n } | .cp => { c with cp := n }
  | .mx => { c with mx := n } | .nm => { c with nm := n } | .sf => { c with sf := n }

/-! ### An instruction at issue -/

/-- What an instruction finds when it issues: the state before it (`pre`), the state with it counted (`s`: program
counter moved on, SIG, CNT, issue number and outstanding counter raised), its warp in both, and its slot as it was. -/
structure Cx where
  pre : State
  s : State
  preW : Warp
  w : Warp
  slot : Slot
  n : Bool
  instr : Instr
  size : Nat
  bank : Nat

/-- Vector register `v`k of lane l as the warp reads it (R27). -/
def Cx.vec (c : Cx) (k l : Nat) : Word := regWord c.s c.w c.bank (vKey k l)

/-- Scalar register `s`j. -/
def Cx.sca (c : Cx) (j : Nat) : Word := regWord c.s c.w c.bank (sKey j)

/-- The lane that a neighbour operand of lane l reads, by LANECTL; none reads zero (R29, R30). -/
def neighbour (lanectl : Word) (l : Nat) (right : Bool) : Option Nat :=
  let edge := if right then l == 31 else l == 0
  if !edge then some (if right then l + 1 else l - 1)
  else match bits lanectl 0 2 with
    | 1 => some (if right then 0 else 31)
    | 2 => some l
    | _ => none

/-- Register word of a source's i-th register in lane l (R29). -/
def Cx.word (c : Cx) (a : Src) (i l : Nat) : Word :=
  match a with
  | .v k => c.vec (k.toNat + i) l
  | .s j => c.sca (j.toNat + i)
  | .left k => (neighbour c.w.lanectl l false).elim 0 (c.vec (k.toNat + i))
  | .right k => (neighbour c.w.lanectl l true).elim 0 (c.vec (k.toNat + i))
  | .lit w => w

/-- A 32-bit source in lane l. -/
def Cx.src (c : Cx) (a : Src) (l : Nat) : Word := c.word a 0 l

/-- A 64-bit source in lane l; a literal is sign- or zero-extended (R164). -/
def Cx.src64 (c : Cx) (signed : Bool) (a : Src) (l : Nat) : DWord :=
  match a with
  | .lit w => if signed then w.signExtend 64 else w.setWidth 64
  | a => pairUp (c.word a 0 l) (c.word a 1 l)

/-- A scalar pair. -/
def Cx.sca64 (c : Cx) (j : SReg) : DWord := pairUp (c.sca j.toNat) (c.sca (j.toNat + 1))

/-- A scalar or literal value. -/
def Cx.sval (c : Cx) : SVal → Word
  | .s j => c.sca j.toNat
  | .lit w => w

/-- A guard bit of lane l (R38). -/
def Cx.guardBit (c : Cx) (g : GuardBit) (l : Nat) : Bool :=
  ((c.vec g.reg.toNat l).getLsbD g.bit.toNat) != g.neg

/-- Guard value of a lane. -/
def Cx.guardOn (c : Cx) (g : Guard) (l : Nat) : Bool :=
  match g with
  | none => true
  | some b => c.guardBit b l

/-- Active lanes of the issuing slot, ascending (R8). -/
def Cx.active (c : Cx) : List Nat := ones c.slot.mask

/-- Active lanes that are not guarded off, ascending. -/
def Cx.lanes (c : Cx) (g : Guard) : List Nat := c.active.filter (c.guardOn g)

/-- The lowest active lane of the issuing slot (R150). -/
def Cx.lowest (c : Cx) : Nat := c.active.headD 0

/-- A result of one lane: the words for DST and the registers after it, and the flags raised. -/
structure Res where
  words : List Word
  flags : Word

/-- A one-word result. -/
def Res.w (x : Word) (flags : Word := 0) : Res := ⟨[x], flags⟩

/-- A 64-bit result. -/
def Res.d (x : DWord) (flags : Word := 0) : Res := ⟨[lowWord x, highWord x], flags⟩

/-- Register words of DST and the registers after it in lane l. -/
def dstWords (d : Dst) (l : Nat) (ws : List Word) : List (Nat × Word) :=
  ws.zipIdx.map (fun p => (match d with
    | .v k => vKey (k.toNat + p.2) l
    | .s j => sKey (j.toNat + p.2), p.1))

/-- Results of an instruction that acts on each participating lane, or once with a scalar DST; and the flags ORed
over lanes (R196, R205). -/
def Cx.results (c : Cx) (g : Guard) (d : Dst) (f : Nat → Res) : List (Nat × Word) × Word :=
  let lanes := if d.isScalar then [0] else c.lanes g
  let rs := lanes.map (fun l => (l, f l))
  ((rs.map (fun p => dstWords d p.1 p.2.words)).flatten, rs.foldl (fun m p => m ||| p.2.flags) 0)

/-! ### Errors of the register banks (R54) -/

/-- Register words that lane l reads for a source, but for those in the window. -/
def Cx.readKeys (c : Cx) (u : Use) (l : Nat) : List Nat :=
  let lane : Option Nat := match u.src with
    | .left _ => neighbour c.preW.lanectl l false
    | .right _ => neighbour c.preW.lanectl l true
    | _ => some l
  ((List.range u.n).filterMap (fun i =>
    match u.src, lane with
    | .v k, some m | .left k, some m | .right k, some m => some (vKey (k.toNat + i) m)
    | .s j, _ => some (sKey (j.toNat + i))
    | _, _ => none)).filter (fun key => (windowGet? c.preW.window key).isNone)

end Sys2Proof.Machine
end

