-- ==== Sys2Proof/Machine/Ops.lean ====
section
/-! DEFINITION. The shared operations over warps: counters and deferred reports (01 R26, 13 R281); taking an
exception and returning from it (20 R350, 13 R301); suspension, halts and freezes (20 R348, R349, R359); containment
and discard of gangs (07 R149 to R151, 19 R335); and what ends a warp and a team (10 R230, 19 R330). -/

namespace Sys2Proof.Machine

open Sys2Proof

/-! ### Counters, flags and reports -/

/-- One less in a counter of a warp that is still there (R26). -/
def lowerCtr (s : State) (uid : Nat) (k : Ctr) : State :=
  onWarp s uid (fun w => { w with ctrs := w.ctrs.set k (w.ctrs.get k - 1) })

/-- Flags of FLAGS whose trap has cause 0x0A: all but IDZ and IOV (R196). -/
def fpFlags : Word := 0x19F

/-- Cause of the trap of some enabled flags (R196). -/
def flagCause (fl : Word) : Nat := if fl &&& fpFlags != 0 then 0x0A else 0x09

/-- Flags raised after issue are ORed into FLAGS; enabled ones become a deferred report (R196, R281). -/
def landFlags (s : State) (uid : Nat) (k : Ctr) (fl : Word) : State :=
  if fl == 0 then s
  else onWarp s uid (fun w =>
    let on := fl &&& w.trapen
    let w := { w with flags := w.flags ||| fl }
    if on == 0 then w
    else { w with reports := w.reports ++ [⟨k, BitVec.ofNat 8 (flagCause on), on, none⟩] })

/-- A report raised by an engine (R281). -/
def addReport (s : State) (uid : Nat) (r : Report) : State := onWarp s uid (fun w => { w with reports := w.reports ++ [r] })

/-! ### Records of a warp -/

/-- The words of a record about a warp (R347). -/
def warpRecord (s : State) (w : Warp) (src acc : Nat) (rng : Bool) (cause level : Nat) (addr : DWord) (where_ : Word) :
    List Word :=
  recWords (recWord0 src acc rng (ctxOf s w) cause level) (launchOf s w) addr (teamlinOf s w) w.core w.index where_

/-- Stop a warp, its window written to the banks, and post a record that the driver answers (R16, R348, R349). -/
def stopWarp (s : State) (w : Warp) (type : Nat) (halted : Bool) (words : List Word) : State :=
  let (id, s) := postRec (flushWindow s w) (partOf s w) type (.warp w.uid (s.cur.elim false (·.2))) words
  onWarp s w.uid (fun w => { w with stop := if halted then .halted id else .suspended id })

/-! ### Freezes -/

/-- Count a freeze of a master and record it (R359, R360, R364). -/
def noteFreeze (s : State) (die unit pa : Nat) : State :=
  let s := { s with mgc := { s.mgc with frzcnt := sat32 s.mgc.frzcnt } }
  recordEvent s die 0x04 unit (BitVec.ofNat 32 (pa / 2 ^ 20))

/-- A core whose translation left the partition's ranges stops issuing (R359). -/
def freezeCore (s : State) (w : Warp) (src acc : Nat) (rng : Bool) (pa : Nat) (where_ : Word) : State :=
  let (id, s) := postRec s (partOf s w) 4 (.core w.core) (warpRecord s w src acc rng 0 0 (BitVec.ofNat 64 pa) where_)
  noteFreeze (setCore s w.core { getCore s w.core with frozen := some id }) (dieOf w.core) w.core pa

/-! ### Ends of teams -/

/-- Operations that outlive their warp: stores that an L1 domain has accepted (R149). -/
def outlives (o : Op) : Bool :=
  !o.held && match o.kind with
    | .st | .stck | .stnt => true
    | _ => false

/-- What is held at this device's own port for requesters that are gone is forgotten (R353). -/
def dropHeldOf (s : State) (gone : ReqSrc → Bool) : State :=
  { s with fabHeld := s.fabHeld.filter (fun h => !gone h.who) }

/-- Take teams off the device with all that is theirs. Accepted stores and sent requests go on, plough parts run to
completion, matrix operations run on and their results are discarded, staged soft entries go, and grid arrivals are
withdrawn (R137, R149, R280). -/
def removeTeams (s : State) (uids : List Nat) : State :=
  let gone := s.warps.filter (fun w => uids.contains w.team)
  let s := gone.foldl (fun s w =>
    match findTeam? s w.team with
    | none => s
    | some t => w.bars.foldl (fun s b => if b.level == .grid then withdrawBar s w t .grid b else s) s) s
  let dead (uid : Nat) : Bool := gone.any (fun w => w.uid == uid)
  let s := dropHeldOf s (fun who => match who with
    | .warp u _ => dead u
    | .engine i =>
      s.ops.any (fun o => o.id == i && dead o.warp && !outlives o) || s.copies.any (fun c => c.id == i && dead c.warp) ||
      s.colls.any (fun c => c.id == i && dead c.warp) || uids.contains i
    | _ => false)
  { s with warps := s.warps.filter (fun w => !uids.contains w.team),
           teams := s.teams.filter (fun t => !uids.contains t.uid),
           ops := s.ops.filter (fun o => !dead o.warp || outlives o),
           copies := s.copies.filter (fun c => !dead c.warp),
           colls := s.colls.filter (fun c => !dead c.warp),
           staged := s.staged.filter (fun e => !dead e.warp),
           walks := s.walks.filter (fun k => k.result.isNone || !gone.any (fun w => w.core == k.who)) }

/-- Gangs without teams and without a relaunch to come are forgotten. -/
def sweepGangs (s : State) : State :=
  { s with gangs := s.gangs.filter (fun g => s.teams.any (fun t => t.gang == g.uid)) }

/-- A slot that waits in a grid-level barrier. -/
def waitsOnGrid : Block → Bool
  | .bar .grid _ _ => true
  | _ => false

/-- In a grid that has failed, teams that wait on a grid barrier are discarded (R151). DESIGN CHOICE (log 116): a team waits
as soon as one of its warps does. -/
def discardWaiters (s : State) (grid : Nat) : State :=
  match findGrid? s grid with
  | none => s
  | some g =>
    if g.failed.isNone then s
    else
      let stuck := s.teams.filter (fun t => t.grid == grid &&
        s.warps.any (fun w => w.team == t.uid && w.allSlots.any (fun x => waitsOnGrid x.block)))
      let gangs := stuck.map (·.gang)
      let s := removeTeams s (stuck.map (·.uid))
      sweepGangs { s with gangs := s.gangs.map (fun x => if gangs.contains x.uid then { x with open_ := false } else x) }

/-- The grid fails: no further team of it is placed, and its completion carries a status (R151, R348). -/
def failGrid (s : State) (grid status : Nat) : State :=
  match findGrid? s grid with
  | none => s
  | some g =>
    discardWaiters (setGrid s { g with failed := some (g.failed.getD status), relaunches := [] }) grid

/-- A gang's teams stop and are freed; they are queued for placement again, or the grid fails (R149, R151). -/
def endGang (s : State) (gang status : Nat) (mayRelaunch : Bool) : State :=
  match findGang? s gang with
  | none => s
  | some g =>
    let teams := s.teams.filter (fun t => t.gang == gang)
    let s := removeTeams s (teams.map (·.uid))
    let s := sweepGangs { s with gangs := s.gangs.filter (fun x => x.uid != gang) }
    match findGrid? s g.grid with
    | none => s
    | some grid =>
      if mayRelaunch && grid.r.relaunch && g.relaunches < 2 && grid.failed.isNone then
        setGrid s { grid with relaunches := grid.relaunches ++ [⟨gang, teams.map (·.lin), g.relaunches + 1, s.cycle, false⟩] }
      else failGrid s g.grid status

/-- Contain the gang of a warp (R149): the record of R150 is posted, the event counted and recorded, the gang ended. -/
def contain (s : State) (w : Warp) (kind lane cause : Nat) (pc : Word) (addr : DWord) : State :=
  match findTeam? s w.team with
  | none => s
  | some t =>
    let relaunches := (findGang? s t.gang).elim 0 (·.relaunches)
    let words := [BitVec.ofNat 32 (kind * 2 ^ 28 + lane * 2 ^ 16 + cause * 2 ^ 8 + relaunches), pc, lowWord addr,
      highWord addr, BitVec.ofNat 32 t.lin, BitVec.ofNat 32 w.index, launchOf s w]
    let launch := launchOf s w
    let (_, s) := postRec s (partOf s w) 0 .info words
    let s := { s with mgc := { s.mgc with contcnt := sat32 s.mgc.contcnt } }
    let s := recordEvent s (dieOf w.core) 0x02 w.core launch
    endGang s t.gang 2 true

/-- A bad word consumed by a lane of a warp: KIND 0 poisoned, 1 corrupt (R150). -/
def containBad (s : State) (w : Warp) (x : CWord) (lane : Nat) (pc : Word) (addr : DWord) : State :=
  contain s w (if x.isPoisoned then 0 else 1) lane 0x07 pc addr

/-- A bad word that a lane took from a physical address: its home records the sector of a corrupt one (R147). -/
def containFrom (s : State) (w : Warp) (x : CWord) (lane : Nat) (pc : Word) (addr : DWord) (pa : Option Nat) : State :=
  let s := containBad s w x lane pc addr
  match pa with
  | some pa => if x.isCorrupt && pa < hbmEnd then addPoison s (pa / 128) (pa / 4 % 32) else s
  | none => s

/-! ### Errors of the register banks -/

/-- Where a word of a register block lies, as a store address (R49). -/
def blockAddr (w : Warp) (key : Nat) : Nat := w.regBase + 4 * key

/-- Correct the single-bit errors among words of a warp's block as they are read (R54, R360, R364). -/
def correctWords (s : State) (w : Warp) (keys : List Nat) : State :=
  keys.foldl (fun s k =>
    if tget? s.upsets (regBank s w + k) == some false then
      let s := { s with upsets := terase s.upsets (regBank s w + k), mgc := { s.mgc with seccnt := sat32 s.mgc.seccnt } }
      recordEvent s (dieOf w.core) 0x08 w.core (BitVec.ofNat 32 (blockAddr w k))
    else s) s

/-! ### Taking an exception and returning from it -/

/-- Write register words of a warp to its banks at once. -/
def writeRegs (s : State) (w : Warp) (ws : List (Nat × Word)) : State := bankWrite s (regBank s w) ws

/-- CAUSE with its code and subcode (R177). -/
def causeWord (cause sub : Nat) : Word := BitVec.ofNat 32 (sub * 256 + cause)

/-- The handler's slot: PC 0 counted from TVEC, every lane, no join (R350). The signature stays frozen (R152). -/
def handlerSlot (s : State) (sig : Word) : Slot :=
  { pc := 0, mask := 0xFFFFFFFF, join := none, sig := sig, shadow := 0xFFFFFFFF, block := .none, readyAt := s.cycle,
    readySince := none, heldBack := false }

/-- The warp once it has entered the device trap handler (R350). -/
def trappedWarp (s : State) (w : Warp) (n : Bool) (x : Slot) (size : Nat) (causeW tval : Word) : Warp :=
  let b := regBank s w
  let sca (j : Nat) : Word := (s.store.word (b + sKey j)).data
  let hidden : TrapState :=
    { slot0 := w.slot0, slot1 := w.slot1, depth := w.depth, s60 := sca 60, s61 := sca 61, s62 := sca 62, s63 := sca 63,
      trapped := n, size := size, cause := causeW, tval := tval }
  { w with cause := causeW, tval := tval, trap := some hidden,
           slot0 := if n then none else some (handlerSlot s x.sig), slot1 := if n then some (handlerSlot s x.sig) else none }

/-- What the handler finds in s62 and s63 (R350). -/
def trapScalars (w : Warp) (n : Bool) (x : Slot) : List (Nat × Word) :=
  [(sKey 62, x.pc), (sKey 63, BitVec.ofNat 32 (n.toNat + 2 * (w.slot? (!n)).isSome.toNat))]

/-- The register words that an exception saves (R350). -/
def savedKeys : List Nat := [sKey 60, sKey 61, sKey 62, sKey 63]

/-- The first double-bit error among the words that an exception saves (R54). -/
def savedError? (s : State) (w : Warp) : Option Nat :=
  savedKeys.find? (fun k => tget? s.upsets (regBank s w + k) == some true)

/-- Take an exception of slot `n` of a warp at the instruction its slot points at (R350): the window is written to
the banks (R27), both slots, the stack depth and s60 to s63 are saved, CAUSE and TVAL are set, s62 gets the program
counter and s63 the slots, and the handler starts at TVEC. Saving reads s60 to s63: a single-bit error there is
corrected, a double-bit one contains the gang (R54), DEDUCED (log 119). In trap mode it is a double trap: the warp
halts, keeping its state, with a record of type 5. -/
def enterTrap (s : State) (uid : Nat) (n : Bool) (size cause sub : Nat) (tval : Word) : State :=
  match findWarp? s uid with
  | none => s
  | some w0 =>
    match w0.slot? n with
    | none => s
    | some x =>
      let s := flushWindow s w0
      let w := { w0 with window := [] }
      if w.trap.isSome then
        stopWarp s w 5 true (warpRecord s w 0 0 false 0 0 (BitVec.ofNat 64 cause) x.pc)
      else
        match savedError? s w with
        | some k => contain s w 2 ((ones x.mask).headD 0) 0x07 x.pc (BitVec.ofNat 64 (blockAddr w k))
        | none =>
          let s := setWarp (correctWords s w savedKeys) (trappedWarp s w n x size (causeWord cause sub) tval)
          writeRegs s w (trapScalars w n x)

/-- Return from trap mode: both slots, their signatures, the stack depth and s60 to s63 are restored; the trapped
slot moves past its instruction for `.skip` (R301). -/
def leaveTrap (s : State) (uid : Nat) (skip : Bool) : State :=
  match findWarp? s uid with
  | none => s
  | some w0 =>
    match w0.trap with
    | none => s
    | some t =>
      let s := flushWindow s w0
      let move (m : Bool) (x : Option Slot) : Option Slot :=
        if skip && m == t.trapped then x.map (fun y => { y with pc := y.pc + BitVec.ofNat 32 t.size }) else x
      let w := { w0 with window := [], trap := none, depth := t.depth, slot0 := move false t.slot0,
                         slot1 := move true t.slot1 }
      writeRegs (setWarp s w) w [(sKey 60, t.s60), (sKey 61, t.s61), (sKey 62, t.s62), (sKey 63, t.s63)]

/-! ### Discards and ends -/

/-- The driver discards the gang of a team: no relaunch, the grid completes with status 3 (R151, R348). -/
def discardGang (s : State) (team : Nat) : State :=
  match findTeam? s team with
  | none => s
  | some t => endGang s t.gang 3 false

/-- A team stops for a pre-emption discard, without a record; its relaunch is queued first (R335). DESIGN
CHOICE (log 128): the relaunch count of R151 starts again at 0. -/
def discardTeam (s : State) (team : Nat) : State :=
  match findTeam? s team with
  | none => s
  | some t =>
    let ws := s.warps.filter (fun w => w.team == team)
    let nbar := (findGrid? s t.grid).elim 0 (·.r.nbar)
    let s := ws.foldl (fun s w =>
      (List.range nbar).foldl (fun s n => leaveGangBar s w t (BitVec.ofNat 6 n)) s) s
    let s := removeTeams s [team]
    let s := sweepGangs { s with gangs := s.gangs.map (fun x => if x.uid == t.gang then { x with open_ := false } else x) }
    match findGrid? s t.grid with
    | none => s
    | some g => setGrid s { g with relaunches := ⟨0, [t.lin], 0, s.cycle, false⟩ :: g.relaunches }

/-- A warp that has ended: both slots free and no entry on its stack (R15). -/
def Warp.ended (w : Warp) : Bool := w.slot0.isNone && w.slot1.isNone && w.depth == 0

/-- The team ends with its last warp: its resources are free, its gang closes (R230, R330). -/
def endTeamIfDone (s : State) (team : Nat) : State :=
  match findTeam? s team with
  | none => s
  | some t =>
    if (s.warps.filter (fun w => w.team == team)).all Warp.ended then
      let s := { s with warps := s.warps.filter (fun w => w.team != team),
                        teams := s.teams.filter (fun x => x.uid != team),
                        gangs := s.gangs.map (fun x => if x.uid == t.gang then { x with open_ := false } else x) }
      let s := (findGrid? s t.grid).elim s (fun g => setGrid s { g with ended := g.ended + 1 })
      sweepGangs s
    else s

end Sys2Proof.Machine
end

