-- ==== Sys2Proof/Machine/Translate.lean ====
section
/-! DEFINITION. Translation (20 R351 to R353): range entries, table walks, physical targets and the partition's
ranges (R359); the walks of warps and the translations of engines; what a failed translation does to a warp (R349). -/

namespace Sys2Proof.Machine

open Sys2Proof

/-- Attributes in bits 6:3 of an entry (R352). -/
def attrOf (e : DWord) : Attr :=
  { pa := e.getLsbD 6, fal := e.getLsbD 5, ms := e.getLsbD 4, ro := e.getLsbD 3 }

/-- Bits `lo` to `lo + n - 1` of a 64-bit value. -/
def dbits (e : DWord) (lo n : Nat) : Nat := e.toNat / 2 ^ lo % 2 ^ n

/-- A physical address names a target that exists (R353). -/
def targetOk (pa : Nat) : Bool :=
  pa < hbmEnd || (0x4000000000000 ≤ pa && pa < 0x5000000000000) || (0x8000000000000 ≤ pa && pa < 2 ^ 52)

/-- Host and fabric targets take the policy demotion of R71. -/
def remotePa (pa : Nat) : Bool := hbmEnd ≤ pa

/-- A physical address lies in a valid range of a partition (R359, R361). -/
def inRanges (p : Partition) (pa : Nat) : Bool :=
  p.pranges.any (fun r => r.2.2.2 && bits r.2.1 0 22 ≤ pa / 2 ^ 30 && pa / 2 ^ 30 < bits r.2.1 0 22 + bits r.2.2.1 0 22)

/-- A translation result, checked against the partition's ranges and the targets (R353, R359). -/
def checkPa (p : Partition) (pa : Nat) (attr : Attr) (rng : Bool) : Xlat :=
  if !inRanges p pa then .freeze pa attr rng else if targetOk pa then .ok pa attr rng else .prot rng

/-- A range entry may match: V set, must-be-zero bits clear (R351). -/
def RangeEntry.valid (r : RangeEntry) : Bool := r.ctl.getLsbD 0 && bits r.ctl 7 25 == 0 && bits r.ctl 1 2 == 0

/-- Down to a multiple of 64 KiB. -/
def page64 (a : Nat) : Nat := a / 65536 * 65536

def RangeEntry.matches (r : RangeEntry) (va : Nat) : Bool :=
  r.valid && page64 r.base.toNat ≤ va && va < page64 r.limit.toNat

/-- The matching range entry of lowest index (R351). -/
def rangeHit? (c : Ctx) (va : Nat) : Option RangeEntry :=
  ((c.ranges.filter (fun r => r.1 < 16)).map (·.2)).find? (fun r => r.matches va)

/-! ### Table walks -/

/-- How a walk ends: a page with its virtual base, size, physical base and attributes, a stop, or not yet. -/
inductive WalkOut where
  | page (va size pa : Nat) (attr : Attr)
  | fault (level : Nat)
  | bad (level : Nat)
  /-- a table's word waits at this device's own port -/
  | wait
  deriving DecidableEq, Repr

/-- Low bit of the index and its width at a level (R351). -/
def levelIndex : Nat → Nat × Nat
  | 0 => (16, 5)
  | 1 => (21, 9)
  | 2 => (30, 9)
  | 3 => (39, 9)
  | _ => (48, 9)

/-- Page size of a leaf at a level. -/
def leafSize (level : Nat) : Nat := 2 ^ (levelIndex level).1

/-- A fabric address that names this device itself (R353). -/
def ownFabric (pa : Nat) : Bool := 0x8000000000000 ≤ pa && pa / 2 ^ 41 % 1024 == Config.device.toNat

/-- The present value of a word as a reader that keeps no copy gets it (R352, R353): the current word of HBM, host memory's
with a generated GCK (R141), another device's; through a fallow page every one is poisoned. -/
def wordNow (s : State) (pa : Nat) (fal : Bool) : CWord :=
  let w : CWord :=
    if pa < hbmEnd then currentWord s (pa / 4)
    else if pa < 0x5000000000000 then good (s.host.word (pa % 2 ^ 48 / 4)).data
    else remoteNow s pa
  if fal then poison w else w

/-- A word of a table as a walk reads it: bad also where no target is there; or its request over the fabric to this device
waits (R348, R353). -/
inductive TableWord where
  | word (w : CWord)
  | bad
  | wait

/-- An 8-byte entry of a table. -/
inductive TableEntry where
  | entry (e : DWord)
  | bad
  | wait

/-- The entry at a physical address. The walker is an endpoint that keeps no copy (R352). `own` reads what a fabric address of
this device leads to. -/
def entryAt (s : State) (own : Nat → TableWord) (pa : Nat) : TableEntry :=
  let word (a : Nat) : TableWord :=
    if ownFabric a then own a else if targetOk a then .word (wordNow s a false) else .bad
  match word pa, word (pa + 4) with
  | .wait, _ | _, .wait => .wait
  | .word lo, .word hi => if lo.isGood && hi.isGood then .entry (pairUp lo.data hi.data) else .bad
  | _, _ => .bad

/-- Must-be-zero bits of an entry, LEAF where it may not be included (R351, R352). -/
def entryOk (e : DWord) (level : Nat) : Bool :=
  let leaf := e.getLsbD 1
  dbits e 52 12 == 0 && !e.getLsbD 7 && !e.getLsbD 2 &&
  (if leaf then level ≤ 2 && dbits e 8 44 * 256 % leafSize level == 0
   else level != 0 && dbits e 3 4 == 0 && (level == 1 || dbits e 8 4 == 0))

/-- Address of the entry for a virtual address in a table of a level. -/
def tableSlot (va level table : Nat) : Nat := table + 8 * (va / 2 ^ (levelIndex level).1 % 2 ^ (levelIndex level).2)

/-- Walk from a table of a level down (R351, R352). -/
def walkFrom (s : State) (own : Nat → TableWord) (va : Nat) : Nat → Nat → WalkOut
  | level, table =>
    match entryAt s own (tableSlot va level table) with
    | .bad => .bad level
    | .wait => .wait
    | .entry e =>
      let adr := dbits e 8 44 * 256
      if !e.getLsbD 0 then (if entryMbz e then .bad level else .fault level)
      else if !entryOk e level then .bad level
      else if e.getLsbD 1 then .page (va / leafSize level * leafSize level) (leafSize level) adr (attrOf e)
      else match level with
        | 0 => .bad 0
        | n + 1 => walkFrom s own va n adr
where
  /-- a bit set that must be zero in every entry -/
  entryMbz (e : DWord) : Bool := dbits e 52 12 != 0 || e.getLsbD 7 || e.getLsbD 2

/-- Words of tables that a walk reads over the fabric from this device itself. -/
def walkOwn (s : State) (own : Nat → TableWord) (va : Nat) : Nat → Nat → List Nat
  | level, table =>
    let pa := tableSlot va level table
    let here : List Nat := if ownFabric pa then [pa, pa + 4] else []
    match entryAt s own pa, level with
    | .entry e, n + 1 =>
      here ++ (if e.getLsbD 0 && entryOk e level && !e.getLsbD 1 then walkOwn s own va n (dbits e 8 44 * 256) else [])
    | _, _ => here

/-- The walk for a virtual address of a context. -/
def walkVia (s : State) (own : Nat → TableWord) (c : Ctx) (va : Nat) : WalkOut :=
  walkFrom s own va 4 (c.ptroot.toNat / 4096 * 4096)

/-! ### Translations -/

/-- A TLB entry that holds the translation of an address. -/
def tlbHit? (s : State) (who part : Nat) (ctx : Bool) (va : Nat) : Option TlbEntry :=
  s.tlb.find? (fun t => t.who == who && t.part == part && t.ctx == ctx && t.va ≤ va && va < t.va + t.size)

/-- Translate without walking: range entries, then the TLB (R351). -/
def xlat (s : State) (who part : Nat) (ctx : Bool) (va : DWord) : Xlat :=
  let p := getPartition s part
  let c := getCtx p ctx
  if dbits va 57 7 != 0 then .prot false
  else match rangeHit? c va.toNat with
    | some r => checkPa p ((page64 r.pbase.toNat + (va.toNat - page64 r.base.toNat)) % 2 ^ 52)
        (attrOf (r.ctl.setWidth 64)) true
    | none =>
      match tlbHit? s who part ctx va.toNat with
      | some t => checkPa p (t.pa + (va.toNat - t.va)) t.attr false
      | none => .miss

/-- A finished walk as a translation of the address. -/
def WalkOut.xlat (o : WalkOut) (p : Partition) (va : Nat) : Xlat :=
  match o with
  | .page base _ pa attr => checkPa p (pa + (va - base)) attr false
  | .fault l => .fault l
  | .bad l => .bad l
  | .wait => .miss

/-- An engine's translation: a walk, where one is needed, is made at once; it misses while a table's word waits at this
device's own port. -/
def xlatVia (s : State) (own : Nat → TableWord) (who part : Nat) (ctx : Bool) (va : DWord) : Xlat :=
  match xlat s who part ctx va with
  | .miss => (walkVia s own (getCtx (getPartition s part) ctx) va.toNat).xlat (getPartition s part) va.toNat
  | x => x

/-- A write, atomic or reduction to a read-only page is a protection failure (R352). -/
def Xlat.forWrite (x : Xlat) (write : Bool) : Xlat :=
  match x with
  | .ok _ attr rng => if write && attr.ro then .prot rng else x
  | _ => x

/-! ### Requests over the fabric to this device itself (R353, R357) -/

/-- A place in memory that an address translates to. -/
structure Place where
  pa : Nat
  fal : Bool
  deriving DecidableEq, Repr

/-- The partition's Thilos port as a requester of translations. -/
def portWho (part : Nat) : Nat := 656 + part

/-- The context that translates fabric imports: that with FIMP set, context 0 where both have it (R344). -/
def importCtx? (p : Partition) : Option Bool :=
  if p.ctx0.fimp then some false else if p.ctx1.fimp then some true else none

/-- What becomes of a request to a fabric address at its target (R348, R357): it is performed at a place, has the error
outcome (with what a record tells of a protection failure), or waits for an answer to its record. -/
inductive Imported where
  | place (p : Place) (a : Attr) (ctx rng : Bool)
  | error (prot : Option (Bool × Bool))
  | hold (x : Xlat) (ctx : Bool) (va : DWord)

/-- The line of a fabric address (bits 40:7). -/
def fabLine (pa : Nat) : Nat := pa % 2 ^ 41 / 128

/-- A request of this device to a line of its own, held at its port. -/
def FabHeld.own (h : FabHeld) (pa : Nat) : Bool := h.req.src == Config.device.toNat && h.req.addr.toNat / 128 == fabLine pa

/-- The import of a word at a fabric address of this device (R357). A held request that was answered with error has the
error outcome. -/
def importVia (s : State) (own : Nat → TableWord) (write : Bool) (pa : Nat) : Imported :=
  let part := pa / 2 ^ 37 % 16
  let p := getPartition s part
  if s.fabHeld.any (fun h => h.own pa && h.err) then .error none
  else match importCtx? p with
    | none => .error none
    | some ctx =>
      let va := p.fimpbase + BitVec.ofNat 64 (pa % 2 ^ 37)
      match (xlatVia s own (portWho part) part ctx va).forWrite write with
      | .ok q a rng => .place ⟨q, a.fal⟩ a ctx rng
      | .prot rng => .error (some (ctx, rng))
      | x => .hold x ctx va

/-- The port's stream of this device is frozen (R359). -/
def ownFrozen (s : State) : Bool := s.fabFrozen.any (fun f => f.1 == Config.device.toNat)

/-- A table's word at a fabric address of this device. An import whose own tables lie there too is bad (log 55). -/
def ownTableWord (s : State) (pa : Nat) : TableWord :=
  if ownFrozen s then .wait
  else match importVia s (fun _ => .bad) false pa with
    | .place p _ _ _ => .word (wordNow s p.pa p.fal)
    | .error _ => .bad
    | .hold _ _ _ => .wait

def walkTables (s : State) (c : Ctx) (va : Nat) : WalkOut := walkVia s (ownTableWord s) c va

/-- An engine's translation (R351 to R353). -/
def xlatNow (s : State) (who part : Nat) (ctx : Bool) (va : DWord) : Xlat := xlatVia s (ownTableWord s) who part ctx va

/-- The import of a word at a fabric address of this device. -/
def importOf (s : State) (write : Bool) (pa : Nat) : Imported := importVia s (ownTableWord s) write pa

/-- Words of tables that an engine's translation reads over the fabric from this device itself (R353). -/
def tablePlaces (s : State) (who part : Nat) (ctx : Bool) (va : DWord) : List Place :=
  match xlat s who part ctx va with
  | .miss => (walkOwn s (ownTableWord s) va.toNat 4 ((getCtx (getPartition s part) ctx).ptroot.toNat / 4096 * 4096)).map (⟨·, false⟩)
  | _ => []

/-- Where a place leads: itself, or what it is imported to, fallow where either page is; none with the error outcome or while
it waits. -/
def Place.here? (s : State) (write : Bool) (p : Place) : Option Place :=
  if ownFabric p.pa then
    (match importOf s write p.pa with
     | .place q _ _ _ => some { q with fal := q.fal || p.fal }
     | _ => none)
  else some p

/-- A request of a requester to a line of this device, held with its record or with the error outcome. -/
def FabHeld.of (h : FabHeld) (who : ReqSrc) (pa : Nat) : Bool := h.own pa && h.who == who

/-- A request to this device itself waits: for an answer to its record, while the port's stream of this device is frozen
(R348, R359), or while another requester's error outcome at its line is not taken (log 55). -/
def Place.waits (s : State) (who : ReqSrc) (write : Bool) (p : Place) : Bool :=
  ownFabric p.pa && (ownFrozen s || s.fabHeld.any (fun h => h.of who p.pa && !h.err) ||
    s.fabHeld.any (fun h => h.own p.pa && h.err && h.who != who) || (match importOf s write p.pa with
    | .hold _ _ _ => true
    | _ => false))

/-- The present value of a word as a reader that keeps no copy gets it, over the fabric too; the error outcome is a
poisoned word (R348, R357). -/
def placeNow (s : State) (pa : Nat) (fal : Bool) : CWord :=
  match Place.here? s false ⟨pa, fal⟩ with
  | some p => wordNow s p.pa p.fal
  | none => poison (good (Config.freeWord s.tick))

/-- Where the word of a place lies in the end, over the fabric too (R147, R353). -/
def realPa? (s : State) (pa : Nat) : Option Nat := (Place.here? s false ⟨pa, false⟩).map (·.pa)

/-- A request changes memory. -/
def FabKind.writes : FabKind → Bool
  | .read _ => false
  | _ => true

/-- What an engine asks for in a word. -/
def wordKind (write : Bool) : FabKind := if write then .write [] else .read 1

def FabReq.part (r : FabReq) : Nat := r.addr.toNat / 2 ^ 37
def FabReq.offset (r : FabReq) : Nat := r.addr.toNat % 2 ^ 37

/-- ACC of a record about a request (R347). -/
def FabReq.acc (r : FabReq) : Nat :=
  match r.kind with
  | .read _ => 0
  | .write _ => 1
  | .atomic _ _ _ _ => 2

/-- The words of a record about a request (R347). A bad table word's names the virtual address, every other the fabric
address or a physical one. -/
def fabRecord (r : FabReq) (src : Nat) (ctx rng : Bool) (cause level : Nat) (addr : DWord) : List Word :=
  recWords (recWord0 src (FabReq.acc r) rng ctx cause level) 0 addr (BitVec.ofNat 32 r.src) 0 0 0

/-- A record about a request is posted for information only: a protection failure (R348). -/
def fabProtRecord (s : State) (r : FabReq) (ctx rng : Bool) : State :=
  (postRec s (FabReq.part r) 2 .info (fabRecord r 5 ctx rng 0x06 0 (r.addr.setWidth 64))).2

/-- I/O die of a Thilos port, as events name it (log 83). -/
def portDie (port : Nat) : Nat := 4 + port % 2

/-- A request waits at its target with a record (R357), or freezes its source's stream with the port's number as UNIT
(R359, R364). -/
def fabHold (s : State) (who : ReqSrc) (r : FabReq) (ctx : Bool) (x : Xlat) (va : DWord) : State :=
  let part := FabReq.part r
  let hold (src lv : Nat) (addr : DWord) : State :=
    let (id, s) := postRec s part 1 (.fabric r.src) (fabRecord r src ctx false 0x05 lv addr)
    { s with fabHeld := s.fabHeld ++ [{ rec_ := id, who := who, req := r, err := false }] }
  match x with
  | .fault l => hold 5 l (r.addr.setWidth 64)
  | .bad l => hold 4 l va
  | .freeze pa _ rng =>
    let (id, s) := postRec s part 4 (.fabric r.src) (fabRecord r 5 ctx rng 0 0 (BitVec.ofNat 64 pa))
    let own : List FabHeld := if r.src == Config.device.toNat then [{ rec_ := id, who := who, req := r, err := false }] else []
    noteFreeze { s with fabFrozen := s.fabFrozen ++ [(r.src, id)], fabHeld := s.fabHeld ++ own } (portDie r.port) r.port pa
  | _ => s

/-- The request of this device to itself for a word. -/
def ownReq (kind : FabKind) (pa : Nat) : FabReq :=
  { src := Config.device.toNat, port := Config.ownPort.toNat, addr := BitVec.ofNat 41 pa, kind := kind }

/-- A requester's requests of this device to itself that must wait post their records, one for each line that it asks for. -/
def holdOwn (s : State) (who : ReqSrc) (kind : FabKind) (ps : List Place) : State :=
  ps.foldl (fun s p =>
    if !ownFabric p.pa || s.fabHeld.any (fun h => h.of who p.pa) || ownFrozen s then s
    else match importOf s (FabKind.writes kind) p.pa with
      | .hold x ctx va => fabHold s who (ownReq kind p.pa) ctx x va
      | _ => s) s

/-- Protection failures among requests of this device to itself, one a line, each with the context and the range bit. -/
def ownProts (s : State) (kind : FabKind) (ps : List Place) : List (Nat × Bool × Bool) :=
  ps.foldl (fun l p =>
    if !ownFabric p.pa || l.any (fun q => fabLine q.1 == fabLine p.pa) then l
    else match importOf s (FabKind.writes kind) p.pa with
      | .error (some r) => l ++ [(p.pa, r)]
      | _ => l) []

/-- A requester's requests of this device to itself have been performed: their protection failures leave records, and what held
them is over. `before` is the state in which they were imported. -/
def ownDone (before : State) (who : ReqSrc) (kind : FabKind) (ps : List Place) (s : State) : State :=
  let s := (ownProts before kind ps).foldl (fun s q => fabProtRecord s (ownReq kind q.1) q.2.1 q.2.2) s
  { s with fabHeld := s.fabHeld.filter (fun h => !(h.err && ps.any (fun p => ownFabric p.pa && h.of who p.pa))) }

/-- Two addresses lie in one 64 KiB page. -/
def samePage (a b : Nat) : Bool := a / 65536 == b / 65536

/-- The walk a warp waits for at an address. -/
def findWalk? (s : State) (who part : Nat) (ctx : Bool) (va : Nat) : Option Walk :=
  s.walks.find? (fun k => k.who == who && k.part == part && k.ctx == ctx && samePage k.va va)

/-- Where a warp's translation stands: done (or failed, in the state that has taken the result), or waiting for a
walk. -/
inductive WarpXlat where
  | done (x : Xlat)
  /-- failed in a walk, whose record is taken -/
  | failed (x : Xlat) (s : State)
  | wait (s : State)

/-- Translate an address of a warp, beginning a walk where one is needed (R349, R351). -/
def warpXlat (s : State) (w : Warp) (va : DWord) : WarpXlat :=
  let part := partOf s w
  let ctx := ctxOf s w
  match xlat s w.core part ctx va with
  | .miss =>
    match findWalk? s w.core part ctx va.toNat with
    | none =>
      let (id, s) := fresh s
      .wait { s with walks := s.walks ++ [⟨id, w.core, part, ctx, va.toNat, none⟩] }
    | some k =>
      match k.result with
      | none => .wait s
      | some x => .failed x { s with walks := s.walks.filter (fun j => j.id != k.id) }
  | x => .done x

/-- A walk ends: its translation is held for the requester, or its fault waits for the instruction that began it. While a
table's word waits at this device's own port, so does the walk (R353, R357). -/
def endWalk (s : State) (k : Walk) : State :=
  let c := getCtx (getPartition s k.part) k.ctx
  let own : List Place := (walkOwn s (ownTableWord s) k.va 4 (c.ptroot.toNat / 4096 * 4096)).map (⟨·, false⟩)
  let who : ReqSrc := .walk k.id
  let failed (x : Xlat) : State :=
    ownDone s who (.read 1) own
      { s with walks := s.walks.map (fun j => if j.id == k.id then { j with result := some x } else j) }
  if own.any (Place.waits s who false) then holdOwn s who (.read 1) own
  else match walkTables s c k.va with
    | .page va size pa attr =>
      ownDone s who (.read 1) own
        { s with walks := s.walks.filter (fun j => j.id != k.id),
                 tlb := ⟨k.who, k.part, k.ctx, va, size, pa, attr⟩ :: s.tlb }
    | .fault l => failed (.fault l)
    | .bad l => failed (.bad l)
    | .wait => s

/-- A warp instruction whose translation failed: both slots stop and a record is posted, or the core freezes
(R349, R352, R359). `src` is 0 for data and 1 for a fetch. -/
def xlatFail (s : State) (w : Warp) (x : Xlat) (src acc : Nat) (va : DWord) (pc : Word) : State :=
  match x with
  | .fault l => stopWarp s w 1 false (warpRecord s w src acc false 0x05 l va pc)
  | .bad l => stopWarp s w 1 false (warpRecord s w 4 acc false 0x05 l va 0)
  | .prot rng => stopWarp s w 2 false (warpRecord s w src acc rng 0x06 0 va pc)
  | .freeze pa _ rng => freezeCore s w src acc rng pa pc
  | .ok _ _ _ | .miss => s

/-- Several addresses of one access, in lane order: all translated, or the first that is not. -/
inductive Xlats where
  | ok (l : List (Nat × DWord × Nat × Attr))
  | stop (lane : Nat) (va : DWord) (x : Xlat) (s : State)
  | wait (s : State)

/-- The translation check of every address comes first: the first that does not translate stops the access (R253,
R349, R351). What is left is a translation or an address with no target for each. -/
inductive XlatPass where
  | all (l : List (Nat × DWord × Xlat))
  | stop (lane : Nat) (va : DWord) (x : Xlat) (s : State)
  | wait (s : State)

def xlatPass (s : State) (w : Warp) : List (Nat × DWord) → XlatPass
  | [] => .all []
  | (l, va) :: rest =>
    let go (x : Xlat) : XlatPass := match xlatPass s w rest with
      | .all t => .all ((l, va, x) :: t)
      | r => r
    match warpXlat s w va with
    | .wait s => .wait s
    | .failed x s => .stop l va x s
    | .done (.ok pa attr rng) => go (.ok pa attr rng)
    | .done (.prot rng) => if dbits va 57 7 != 0 then .stop l va (.prot rng) s else go (.prot rng)
    | .done x => .stop l va x s

/-- The protection check of every translated address: the first that fails it stops the access (R253, R352, R353). -/
def protPass (s : State) (bad : Nat → Attr → Bool) : List (Nat × DWord × Xlat) → Xlats
  | [] => .ok []
  | (l, va, .ok pa attr rng) :: rest =>
    if bad pa attr then .stop l va (.prot rng) s
    else match protPass s bad rest with
      | .ok t => .ok ((l, va, pa, attr) :: t)
      | r => r
  | (l, va, x) :: _ => .stop l va x s

/-- Translate the addresses of an access, in lane order (R253, R349). -/
def warpXlats (s : State) (w : Warp) (bad : Nat → Attr → Bool) (addrs : List (Nat × DWord)) : Xlats :=
  match xlatPass s w addrs with
  | .all l => protPass s bad l
  | .stop l va x s => .stop l va x s
  | .wait s => .wait s

/-! ### Store addresses (R52, R53) -/

/-- The cores of a gang by gang core index (R52). -/
def gangCore? (g : Gang) (i : Nat) : Option Nat := (g.quads[i / 4]?).map (fun q => 4 * q + i % 4)

/-- Where a store address leads: a word of a banked store, or a register word of a warp of the team. -/
inductive StoreTgt where
  | word (core : Nat) (addr : Nat) (writable : Bool)
  | reg (w : Warp) (k l : Nat)

/-- Scratchpad bytes of a team per core. -/
def scratchBytes (g : Grid) : Nat := 128 * g.r.scratch

/-- The team of a gang, in a plane of the stores, whose block on a core holds an address. -/
def blockOwner? (s : State) (gang core addr : Nat) (plane : Bool) : Option Team :=
  s.teams.find? (fun t => t.gang == gang && t.place == .resident && t.cores.contains core && t.planeOn core == plane &&
    t.blockHolds core addr)

/-- Resolve a store address of a warp; none where a check of R53 fails but for alignment. Of another core a plain address
and an alias both name the active plane only (R46). -/
def storeTgt (s : State) (w : Warp) (a : Word) : Option StoreTgt :=
  if bits a 26 5 != 0 then none
  else match findTeam? s w.team with
    | none => none
    | some t =>
      if a.getLsbD 31 then
        let idx := bits a 25 1 * 1024 + bits a 20 5 * 32 + bits a 15 5
        match s.warps.find? (fun x => x.team == t.uid && x.index == idx) with
        | none => none
        | some x =>
          if bits a 7 8 < x.regs && planeOf s x == planeAt s w x.core then some (.reg x (bits a 7 8) (bits a 2 5)) else none
      else
        let core? := if a.getLsbD 25 then (findGang? s t.gang).bind (fun g => gangCore? g (bits a 20 5))
          else some w.core
        match core? with
        | none => none
        | some core =>
          let addr := bits a 0 20
          match blockOwner? s t.gang core addr (planeAt s w core) with
          | none => none
          | some o => some (.word core addr (addr < o.baseOn core + (findGrid? s o.grid).elim 0 scratchBytes))

/-- A plain store address in the team block of a team of the gang (R53), for engines and waits. -/
def plainTgt (s : State) (w : Warp) (a : Word) (write : Bool) : Option (Nat × Nat) :=
  match storeTgt s w a with
  | some (.word core addr ok) => if write && !ok then none else some (core, addr)
  | _ => none

end Sys2Proof.Machine
end

