-- ==== Sys2Proof/Machine/Issue.lean ====
section
/-! DEFINITION. How an instruction issues: what holds it back, the deferred report it meets, the checks in their order
(08 R160 to R163), the errors of the register banks (03 R54), its counting (01 R26, 07 R152, 08 R176), and how its
effect enters the state (01 R27, 09 R196). -/

namespace Sys2Proof

open Sys2Proof.Machine

/-- The accumulator an instruction names (R21). -/
def Instr.acc? : Instr → Option (BitVec 4)
  | .mma o => some o.acc
  | .mmao o => some o.acc
  | .acz o => some o.acc
  | .acld o | .acst o => some o.acc
  | .tdrn o => some o.acc
  | .acsc o | .acmx o | .acex o => some o.acc
  | _ => none

/-- The soft handle an instruction names (R114). -/
def Instr.handle? : Instr → Option (BitVec 4)
  | .sreg o => some o.h
  | .sld o => some o.h
  | .sst o => some o.h
  | .shrd o => some o.h
  | .slda o => some o.h
  | .ssta o => some o.h
  | .scmt o => some o.h
  | _ => none

/-- A form-P pair (R171). -/
def Instr.isPair (i : Instr) : Bool := i.half?.isSome

/-- Instructions that need trap mode or a driver context; RETT needs trap mode (R174). -/
def Instr.privileged : Instr → Bool
  | .stck _ | .tlbi _ | .halt | .rett _ => true
  | _ => false

end Sys2Proof

namespace Sys2Proof.Machine

open Sys2Proof

/-- What an instruction does once its checks have passed. -/
inductive Eff where
  /-- results that go to the window, and flags (R27, R196) -/
  | write (ws : List (Nat × Word)) (flags : Word)
  /-- a state change, with results -/
  | go (s : State) (ws : List (Nat × Word))
  /-- a state change that stands, and flags raised at issue (R122, R196) -/
  | raise (s : State) (flags : Word)
  /-- an exception; the instruction has no effect -/
  | trap (cause sub : Nat) (tval : Word)
  /-- it cannot issue yet -/
  | hold
  /-- it has not issued: the warp waits or has been stopped, as the state says -/
  | stop (s : State)

/-- Role of a warp: gn in trap mode (R350). -/
def roleOf (w : Warp) : BitVec 2 := if w.trap.isSome then 3 else w.role

/-- A matrix operation of the warp has not finished (R280). -/
def mxInFlight (s : State) (uid : Nat) : Bool := s.mx.any (fun e => e.op.warp == uid && e.op.ended.isNone)

/-- Mark a slot's instruction as unable to issue at present. -/
def holdSlot (s : State) (uid : Nat) (n : Bool) : State :=
  onWarp s uid (fun w => w.setSlot n ((w.slot? n).map (fun x => { x with heldBack := true })))

/-- Take an exception, once the warp's matrix operations have finished (R280). -/
def takeTrap (s : State) (w : Warp) (n : Bool) (size cause sub : Nat) (tval : Word) : State :=
  if mxInFlight s w.uid then holdSlot s w.uid n else enterTrap s w.uid n size cause sub tval

/-- First two parcels of an instruction (R152). -/
def firstParcels (i : Instr) : Word × Word :=
  match encode i with
  | a :: b :: _ => (a, b)
  | [a] => (a, 0)
  | [] => (0, 0)

/-- SIG := ROTL32(SIG, 7) XOR P0 XOR ROTL32(P1, 13) (R152). -/
def sigNext (sig : Word) (p0 p1 : Word) : Word := sig.rotateLeft 7 ^^^ p0 ^^^ p1.rotateLeft 13

/-- The signature after an instruction; frozen in trap mode, and SIGCHK does not count itself (R152, R154). -/
def countSig (w : Warp) (x : Slot) (i : Instr) : Word :=
  match i with
  | .sigchk _ => x.sig
  | _ => if w.trap.isSome then x.sig else sigNext x.sig (firstParcels i).1 (firstParcels i).2

/-- The warp with the instruction counted: program counter, SIG, CNT, issue number, outstanding counter. -/
def countedWarp (w : Warp) (n : Bool) (x : Slot) (i : Instr) : Warp :=
  let y := { x with pc := x.pc + BitVec.ofNat 32 i.size, sig := countSig w x i, readySince := none, heldBack := false }
  let ctrs := match i.ctr with
    | none => w.ctrs
    | some k => w.ctrs.set k (w.ctrs.get k + 1)
  { w.setSlot n (some y) with cnt := w.cnt + 1, seq := w.seq + 1, ctrs := ctrs }

/-- What an instruction of slot `n` of a warp finds. -/
def Cx.make (s : State) (w : Warp) (n : Bool) (x : Slot) (i : Instr) : Cx :=
  let w' := countedWarp w n x i
  { pre := s, s := setWarp s w', preW := w, w := w', slot := x, n := n, instr := i, size := i.size,
    bank := regBank s w }

/-- An earlier FENCE of the warp still makes its release wait (R99). -/
def fenceHolds (s : State) (w : Warp) (i : Instr) : Bool :=
  (i.storing || i.access) && s.ops.any (fun o => o.warp == w.uid && match o.kind with
    | .fence rel acq _ => (rel && i.storing) || (acq && i.access)
    | _ => false)

/-- Held back by an acquire (R97), a fence (R99), or a counter at 63 (R26). -/
def gated (s : State) (w : Warp) (i : Instr) : Bool :=
  (i.access && !w.acquires.isEmpty) || fenceHolds s w i ||
  match i.ctr with
  | some k => decide (63 ≤ w.ctrs.get k)
  | none => false

/-- A register, accumulator or handle number is beyond what the kernel declared (R21, R114, R160), or a pair is malformed
(R173). -/
def beyondLimits (s : State) (w : Warp) (i : Instr) : Bool :=
  let g := gridOf s w
  (i.isPair && !i.wf) || decide (w.regs < i.regLimit) ||
  (match i.acc? with
    | some a => decide (g.elim 0 (·.r.acc) ≤ a.toNat)
    | none => false) ||
  (match i.handle? with
    | some h => decide (g.elim 0 (·.r.nsoft) ≤ h.toNat)
    | none => false)

/-- In trap mode or in a driver context (R174). -/
def mayPrivileged (s : State) (w : Warp) (i : Instr) : Bool :=
  w.trap.isSome || (match i with
    | .rett _ => false
    | _ => (ctxRegs s w).priv)

/-- The lane that SHFL reads for lane l, or its own (R218). -/
def shflLane (m : ShflMode) (l n : Nat) : Nat :=
  match m with
  | .idx => n % 32
  | .xor => l ^^^ (n % 32)
  | .up => if n ≤ l then l - n else l
  | .down => if l + n ≤ 31 then l + n else l

/-- Width W of a bound handle's slots (R117); no lane is read through an unbound one. -/
def Cx.softWidth (c : Cx) (h : BitVec 4) : Nat := ((c.preW.handles[h.toNat]?).bind (·.desc)).elim 0 (·.w)

/-- Register words that an instruction's operands name, with the lane that reads them. SHFL reads its first operand in the
source lane (R218); SST and SLDA read the vector of lanes 0 to W - 1, active or not (R122, R130); ACSC and ACEX read
theirs when they start (R279); every other operand is read by each participating lane. -/
def Cx.operandReads (c : Cx) : List (Nat × Nat) :=
  let lanes := c.lanes c.instr.guard
  let own (u : Use) (l : Nat) : List (Nat × Nat) := (c.readKeys u l).map (fun k => (l, k))
  let soft (h : BitVec 4) (scalars : List Use) (v : VReg) : List (Nat × Nat) :=
    (scalars.map (fun u => own u c.lowest)).flatten ++ ((List.range (c.softWidth h)).map (own ⟨.v v, 1⟩)).flatten
  match c.instr with
  | .shfl o =>
    (lanes.map (fun l =>
      (c.readKeys ⟨o.a, wideN o.pair⟩ (shflLane o.mode l (c.src o.b l).toNat)).map (fun k => (l, k)) ++ own ⟨o.b, 1⟩ l)).flatten
  | .sst o => soft o.h [⟨.s o.p, 2⟩] o.src
  | .slda o => soft o.h [⟨.s o.o, 1⟩, ⟨.s o.p, 2⟩] o.g
  | .acsc _ | .acex _ => []
  | i => (lanes.map (fun l => (i.uses.map (fun u => own u l)).flatten)).flatten

/-- Register words an instruction reads from the banks, with the reading lane, lowest lane first. -/
def Cx.bankReads (c : Cx) : List (Nat × Nat) :=
  let guardReads : List (Nat × Nat) := match c.instr.guard with
    | none => []
    | some g => (c.active.map (fun l => (l, vKey g.reg.toNat l))).filter (fun p => (windowGet? c.preW.window p.2).isNone)
  guardReads ++ c.operandReads

/-- The first double-bit error among the words an instruction reads (R54). -/
def Cx.doubleError? (c : Cx) : Option (Nat × Nat) :=
  if c.pre.upsets.isEmpty then none else c.bankReads.find? (fun p => tget? c.pre.upsets (c.bank + p.2) == some true)

/-- Correct the single-bit errors among the words read. -/
def Cx.correctErrors (c : Cx) : State :=
  if c.pre.upsets.isEmpty then c.pre else correctWords c.pre c.preW (c.bankReads.map (·.2))

/-- The state after an instruction's effect. -/
def Eff.finish (e : Eff) (c : Cx) : State :=
  match e with
  | .write ws fl =>
    if fl &&& c.preW.trapen != 0 then
      if mxInFlight c.pre c.preW.uid then holdSlot c.pre c.preW.uid c.n
      else
        let s := setWarp c.pre { c.preW with flags := c.preW.flags ||| fl }
        enterTrap (pushWindow s c.preW.uid ws) c.preW.uid c.n c.size (flagCause (fl &&& c.preW.trapen)) 0
          (fl &&& c.preW.trapen)
    else
      pushWindow (setWarp c.s { c.w with flags := c.w.flags ||| fl }) c.w.uid ws
  | .go s ws => pushWindow s c.w.uid ws
  | .raise s fl =>
    let put (w : Warp) : Warp := { w with flags := w.flags ||| fl }
    if fl &&& c.preW.trapen != 0 then
      if mxInFlight c.pre c.preW.uid then holdSlot c.pre c.preW.uid c.n
      else
        let s := onWarp s c.w.uid (fun w => { put w with cnt := c.preW.cnt }.setSlot c.n (some c.slot))
        enterTrap s c.w.uid c.n c.size (flagCause (fl &&& c.preW.trapen)) 0 (fl &&& c.preW.trapen)
    else pushWindow (onWarp s c.w.uid put) c.w.uid []
  | .trap cause sub tval => takeTrap c.pre c.preW c.n c.size cause sub tval
  | .hold => holdSlot c.pre c.preW.uid c.n
  | .stop s => s

/-- The checks of an instruction that no word of memory decides, then its errors of the banks, then its effect. -/
def issueChecked (s : State) (w : Warp) (n : Bool) (x : Slot) (i : Instr) (body : Cx → Eff) : State :=
  let p0 := (firstParcels i).1
  if beyondLimits s w i then takeTrap s w n i.size (if i.isPair then 0x02 else 0x01) (if i.isPair then 0 else 1) p0
  else if !i.role.admits (roleOf w) then takeTrap s w n i.size 0x01 2 p0
  else if i.privileged && !mayPrivileged s w i then takeTrap s w n i.size 0x03 0 (Config.freeWord s.tick)
  else
    let c := Cx.make s w n x i
    match c.doubleError? with
    | some p => contain s w 2 p.1 0x07 x.pc (BitVec.ofNat 64 (blockAddr w p.2))
    | none =>
      let s' := c.correctErrors
      let c := Cx.make s' w n x i
      (body c).finish c

/-- Issue an instruction: `early` holds it before anything else (EXIT, R230). -/
def issueWith (early : Cx → Bool) (i : Instr) (body : Cx → Eff) (s : State) : Host.Outcome State Fault Refusal :=
  match s.cur with
  | none => .fault .noIssuer
  | some (uid, n) =>
    match findWarp? s uid with
    | none => .fault .noIssuer
    | some w =>
      match w.slot? n with
      | none => .fault .noIssuer
      | some x =>
        if gated s w i || early (Cx.make s w n x i) then .next (holdSlot s uid n)
        else match w.reports.find? i.takes with
          | some r =>
            if mxInFlight s uid then .next (holdSlot s uid n)
            else
              let s := setWarp s { w with reports := w.reports.erase r }
              .next (enterTrap s uid n i.size r.cause.toNat 0 r.tval)
          | none => .next (issueChecked s w n x i body)

/-- Issue an instruction (R163). -/
def issue (i : Instr) (body : Cx → Eff) (s : State) : Host.Outcome State Fault Refusal :=
  issueWith (fun _ => false) i body s

/-- Results of an instruction that acts on each participating lane, or once for a scalar DST (R205). -/
def Cx.lanewise (c : Cx) (g : Guard) (d : Dst) (f : Nat → Res) : Eff :=
  let r := c.results g d f
  .write r.1 r.2

end Sys2Proof.Machine
end

