-- ==== Sys2Proof/Machine/Fetch.lean ====
section
/-! DEFINITION. Which slot issues (19 R334, 01 R33), and fetching and decoding its instruction (08 R157, R158; 20 R349).
-/

namespace Sys2Proof.Machine

open Sys2Proof

/-- The counters are at or below the limits of a WAIT (R264). -/
def waitDone (c : Counters) (o : WaitOp) : Bool :=
  decide (c.ld ≤ o.ld.toNat) && decide (c.st ≤ o.st.toNat) && decide (c.cp ≤ o.cp.toNat) &&
  decide (c.mx ≤ o.mx.toNat) && decide (c.nm ≤ o.nm.toNat) && decide (c.sf ≤ o.sf.toNat)

/-- What a slot was blocked by is over (R33, R231, R233, R264). DEDUCED (log 33): for a slot that was ready at the YIELD and
stops being ready without issuing, the YIELD waits until the 16 cycles are over. -/
def blockDone (s : State) (w : Warp) : Block → Bool
  | .none => true
  | .sleep t => decide (t ≤ s.cycle)
  | .yield t others => decide (t ≤ s.cycle) || others.isEmpty
  | .wait lim => waitDone w.ctrs lim
  | .waitw _ | .bar _ _ _ | .ring _ _ _ _ | .lnch _ | .tlbi _ => false

/-- An earlier operation that DRNT, REDF or NBFN waits for (R103 to R105). -/
def holdWaitsFor : HoldKind → OpKind → Bool
  | .drnt, .stnt => true
  | .redf, .red _ => true
  | .nbfn, .plough _ => true
  | _, _ => false

/-- A DRNT, REDF or NBFN whose waits are over. -/
def holdDone (s : State) (uid : Nat) (h : HoldKind × Nat) : Bool :=
  !s.ops.any (fun o => o.warp == uid && decide (o.seq < h.2) && holdWaitsFor h.1 o.kind)

/-- The warp may issue at all: it runs, its team is resident on the active plane and not halted, its core is neither
frozen nor halted for a swap, its partition is enabled (R321, R322, R349, R359, R361). -/
def warpMayIssue (s : State) (w : Warp) : Bool :=
  let c := getCore s w.core
  w.stop == .running && c.frozen.isNone && !c.swapping && (getPartition s (partOf s w)).en &&
  (findTeam? s w.team).elim false (fun t => t.place == .resident && !t.halting && !t.compacting && t.planeOn w.core == c.active) &&
  w.holds.all (holdDone s w.uid)

/-! ### Fetch -/

/-- Virtual address from which a warp's program counters count: its entry point, or TVEC in trap mode (R12, R350). -/
def codeBase (s : State) (w : Warp) : DWord :=
  if w.trap.isSome then (ctxRegs s w).tvec else (gridOf s w).elim 0 (·.r.entry)

/-- The word a fetch reads at a physical address. -/
def fetchWord (s : State) (pa : Nat) : Word := (placeNow s pa false).data

/-- What a fetch gives: the parcels with the state in which they have been read, or the state in which the slot waits or the
warp is stopped. -/
inductive Fetched where
  | parcels (ps : List Word) (s : State)
  | stop (s : State)

/-- Fetch some parcels from a program counter on (R157, R349). -/
def fetchFrom (s : State) (w : Warp) (n : Bool) (pc : Word) (k : Nat) : Fetched :=
  let va (i : Nat) : DWord := codeBase s w + 4 * (pc.setWidth 64 + BitVec.ofNat 64 i)
  match warpXlats s w (fun _ _ => false) ((List.range k).map (fun i => (i, va i))) with
  | .ok l =>
    let ps := l.map (fun p => Place.mk p.2.2.1 false)
    let who : ReqSrc := .warp w.uid n
    if ps.any (Place.waits s who false) then .stop (holdSlot (holdOwn s who (.read 1) ps) w.uid n)
    else .parcels (l.map (fun p => fetchWord s p.2.2.1)) (ownDone s who (.read 1) ps s)
  | .wait s => .stop (holdSlot s w.uid n)
  | .stop _ a x s => .stop (xlatFail s w x 1 3 a pc)

/-- Fetch a whole instruction: a form-L word has a third parcel (R157, R158). -/
def fetch (s : State) (w : Warp) (n : Bool) (pc : Word) : Fetched :=
  match fetchFrom s w n pc 2 with
  | .parcels (p0 :: rest) t => if formParcels p0 == 3 then fetchFrom s w n pc 3 else .parcels (p0 :: rest) t
  | r => r

/-- The instruction that parcels stand for; one that is none becomes the illegal-instruction event of its
parcels (R158, R163, R173). -/
def instrOf (ps : List Word) : Instr :=
  match decodeParcels ps with
  | .ok i => i
  | .error _ => .illegalInstructionWord ⟨ps.headD 0, ps.drop 1⟩

/-! ### Ready slots (R334) -/

/-- The unit of an operation: false the MA, true the accumulator-side unit. -/
def MxKind.side : MxKind → Bool
  | .mma _ _ _ _ | .acz | .acld _ | .acst _ => false
  | _ => true

/-- Operations of a unit that wait to start. -/
def mxWaiting (s : State) (core : Nat) (side : Bool) : Nat :=
  (s.mx.filter (fun e => e.core == core && e.op.kind.side == side && e.op.started.isNone)).length

/-- While 4 wait, a further instruction of the unit does not issue (R279). -/
def mxFull (side : Bool) (c : Cx) : Bool := 4 ≤ mxWaiting c.pre c.w.core side

/-- Copies that the TCE of a core's quad holds (R291). -/
def tceHeld (s : State) (core : Nat) : Nat := (s.copies.filter (fun k => k.quad == quadOf core)).length

/-- The TCE of the quad holds 16 copies: the slot waits before issue (R291). -/
def tceFull (c : Cx) : Bool := 16 ≤ tceHeld c.pre c.w.core

/-- The parcels of the instruction at a slot's program counter, where its translations are at hand. -/
def nextParcels? (s : State) (w : Warp) (pc : Word) : Option (List Word) :=
  let word (i : Nat) : Option Word :=
    match xlat s w.core (partOf s w) (ctxOf s w) (codeBase s w + 4 * (pc.setWidth 64 + BitVec.ofNat 64 i)) with
    | .ok pa _ _ => some (fetchWord s pa)
    | _ => none
  match word 0, word 1 with
  | some p0, some p1 => if formParcels p0 == 3 then (word 2).map (fun p2 => [p0, p1, p2]) else some [p0, p1]
  | _, _ => none

/-- Something may hold back an instruction of the warp before issue: an acquire, a fence, a counter at 63, a full unit. -/
def mayHoldBack (s : State) (w : Warp) : Bool :=
  !w.acquires.isEmpty || [Ctr.ld, .st, .cp, .mx, .nm, .sf].any (fun k => decide (63 ≤ w.ctrs.get k)) ||
  s.ops.any (fun o => o.warp == w.uid && (match o.kind with
    | .fence _ _ _ => true
    | _ => false)) ||
  decide (4 ≤ mxWaiting s w.core false) || decide (4 ≤ mxWaiting s w.core true) || decide (16 ≤ tceHeld s w.core)

/-- The unit that an instruction goes to takes no more of them at present (R279, R291). -/
def unitFull (s : State) (w : Warp) (i : Instr) : Bool :=
  match i with
  | .mma _ | .mmao _ | .acz _ | .acld _ | .acst _ => decide (4 ≤ mxWaiting s w.core false)
  | .tdrn _ | .acsc _ | .acmx _ | .acex _ => decide (4 ≤ mxWaiting s w.core true)
  | .cpt _ | .cpg _ | .cps _ => decide (16 ≤ tceHeld s w.core)
  | _ => false

/-- The slot's next instruction is held back before issue (R26, R97, R99, R279, R291). -/
def heldAtIssue (s : State) (w : Warp) (pc : Word) : Bool :=
  mayHoldBack s w && (nextParcels? s w pc).any (fun ps => gated s w (instrOf ps) || unitFull s w (instrOf ps))

/-- A live slot is ready (R334). -/
def slotReady (s : State) (w : Warp) (x : Slot) : Bool :=
  warpMayIssue s w && decide (x.readyAt ≤ s.cycle) && blockDone s w x.block && !x.heldBack && !heldAtIssue s w x.pc

/-- Ready slots of a scheduler: warp, slot number, slot. -/
def readySlots (s : State) (core sched : Nat) : List (Warp × Bool × Slot) :=
  ((s.warps.filter (fun w => w.core == core && w.ws % 4 == sched)).map (fun w =>
    [false, true].filterMap (fun n => match w.slot? n with
      | some x => if slotReady s w x then some (w, n, x) else none
      | none => none))).flatten

/-- Cycle since which a slot is ready. -/
def sinceOf (s : State) (x : Slot) : Nat := x.readySince.getD s.cycle

/-- Smaller in a list of keys, compared in order. -/
def lexLt : List Nat → List Nat → Bool
  | a :: as, b :: bs => decide (a < b) || (a == b && lexLt as bs)
  | _, _ => false

/-- The element of least key; the first of equals. -/
def leastBy {α : Type} (key : α → List Nat) : List α → Option α
  | [] => none
  | x :: rest => match leastBy key rest with
    | none => some x
    | some y => if lexLt (key y) (key x) then some y else some x

/-- The slot a scheduler picks: the starvation guard, else the oldest warp (R334). DESIGN CHOICE (log 127): of warps placed in one
cycle, the one of the lowest warp slot. -/
def pickSlot (s : State) (core sched : Nat) : Option (Warp × Bool × Slot) :=
  let l := readySlots s core sched
  let starved := l.filter (fun p => decide (sinceOf s p.2.2 + 64 ≤ s.cycle))
  if starved.isEmpty then leastBy (fun p => [p.1.placed, p.1.ws, sinceOf s p.2.2, p.2.1.toNat]) l
  else leastBy (fun p => [sinceOf s p.2.2, p.1.ws, p.2.1.toNat]) starved

/-! ### Starting an instruction -/

/-- The chosen slot as it goes to issue: what blocked it is over, and waits of the warp that are over are gone; other
slots that yielded to it note that it issued (R231). -/
def startIssue (s : State) (w : Warp) (n : Bool) (x : Slot) : State :=
  let me := (w.uid, n)
  let unyield (y : Slot) : Slot := match y.block with
    | .yield t others => { y with block := .yield t (others.filter (· != me)) }
    | _ => y
  let s := { s with warps := s.warps.map (fun v => if v.core == w.core && v.ws % 4 == w.ws % 4 then
      { v with slot0 := v.slot0.map unyield, slot1 := v.slot1.map unyield } else v) }
  let s := onWarp s w.uid (fun v => { v.setSlot n (some { x with block := .none }) with holds := [] })
  { s with cur := some me }

/-! ### After a move -/

/-- Keep the time since which each slot is ready; a slot found unable to issue is tried again after any other move. -/
def settleSlot (s : State) (w : Warp) (keep : Bool) (x : Slot) : Slot :=
  let x := if keep then x else { x with heldBack := false }
  if slotReady s w x then (match x.readySince with
    | some _ => x
    | none => { x with readySince := some s.cycle })
  else { x with readySince := none }

def settle (s : State) (keep : Bool) : State :=
  { s with cur := none, warps := s.warps.map (fun w =>
      { w with slot0 := w.slot0.map (settleSlot s w keep), slot1 := w.slot1.map (settleSlot s w keep) }) }

/-- The move just made found its slot unable to issue. -/
def wasHeld (s : State) : Bool :=
  match s.cur with
  | none => false
  | some (uid, n) => ((findWarp? s uid).bind (fun w => w.slot? n)).elim false (·.heldBack)

/-- The next move: the head of the agenda, else the free schedule's. -/
def nextMove (s : State) : Move × List Move :=
  match s.agenda with
  | m :: rest => (m, rest)
  | [] => (Config.schedule s.tick, [])

/-- Time passes, but not beyond the cycle in which a flying notice is due, 64 cycles after its injection (R78). -/
def advance (s : State) (dt : Nat) : State :=
  { s with cycle := s.flying.foldl (fun c f => Nat.min c (Nat.max s.cycle (f.cycle + 64))) (s.cycle + dt) }

/-- The cycles a move lets pass. -/
def Move.dt : Move → Nat
  | .issue dt _ _ => dt
  | .event dt _ => dt

/-- After a trip every core and engine stands still; the management controller goes on (R367). -/
def tripAllows : Move → Bool
  | .event _ (.reset _) | .event _ .standbyPowerLoss | .event _ (.registerWrite _ _ _) | .event _ (.retire _ _)
  | .event _ .retirementCompletes | .event _ (.eridx _ _) | .event _ (.attestationGo _ _) | .event _ .attestationDone
  | .event _ (.firmwareStage _ _) | .event _ .firmwareStagingDone | .event _ (.szlrel _ _) => true
  | _ => false

end Sys2Proof.Machine
end

