-- ==== Sys2Proof/Machine/Control.lean ====
section
/-! DEFINITION. The control group 0x70 to 0x7A (10 R224 to R234): branches, the divergence stack (01 R11 to R15),
signatures and shadow masks of splits and joins (07 R153, R154), calls, loops, exits and pauses. -/

namespace Sys2Proof.Machine

open Sys2Proof

/-! ### Targets -/

/-- A code offset as an integer (R165). -/
def offInt : Off → Int
  | .short o => o.toInt
  | .long o => o.toInt

/-- A target, join program counter or indirect value that code may have (R224). -/
def targetIn (t : Int) : Bool := decide (0 ≤ t) && decide (t ≤ 0x3FFFFFFE)

/-- Address of the instruction plus an offset. -/
def Cx.plus (c : Cx) (off : Int) : Int := (c.slot.pc.toNat : Int) + off

/-- A target out of range: reserved value, with TVAL the target modulo 2^32 (R224). -/
def badTarget (t : Int) : Eff := .trap 0x01 1 (BitVec.ofInt 32 t)

/-- The issuing slot once it is counted. -/
def Cx.mine (c : Cx) : Slot := (c.w.slot? c.n).getD c.slot

/-- The state with the issuing slot changed. -/
def Cx.withSlot (c : Cx) (x : Slot) : State := setWarp c.s (c.w.setSlot c.n (some x))

/-- The slot after a taken branch: its next instruction issues 4 cycles later (R179). -/
def Slot.at_ (x : Slot) (cycle : Nat) (t : Int) : Slot := { x with pc := BitVec.ofInt 32 t, readyAt := cycle + 4 }

/-- Go to a target, with a result (R224). -/
def Cx.jump (c : Cx) (t : Int) (ws : List (Nat × Word)) : Eff :=
  if targetIn t then .go (c.withSlot (c.mine.at_ c.s.cycle t)) ws else badTarget t

/-- Go on with the next instruction. -/
def Cx.fall (c : Cx) (ws : List (Nat × Word)) : Eff := .go c.s ws

/-- BRA (R225). -/
def braEff (o : BraOp) (c : Cx) : Eff :=
  let on := c.active.map (c.guardOn o.guard)
  if on.all (fun b => b) then c.jump (c.plus (offInt o.target)) []
  else if on.any (fun b => b) then .trap 0x01 3 (firstParcels c.instr).1
  else c.fall []

def execBra (o : BraOp) (s : State) : Host.Outcome State Fault Refusal := issue (.bra o) (braEff o) s

/-- CALL (R228). -/
def callEff (o : LinkOp) (c : Cx) : Eff :=
  c.jump (c.plus (offInt o.target)) [(sKey o.reg.toNat, c.slot.pc + BitVec.ofNat 32 c.size)]

def execCall (o : LinkOp) (s : State) : Host.Outcome State Fault Refusal := issue (.call o) (callEff o) s

/-- RET and JMPI (R228). -/
def indirectEff (j : SReg) (c : Cx) : Eff := c.jump ((c.sca j.toNat).toNat : Int) []

def execRet (j : SReg) (s : State) : Host.Outcome State Fault Refusal := issue (.ret j) (indirectEff j) s
def execJmpi (j : SReg) (s : State) : Host.Outcome State Fault Refusal := issue (.jmpi j) (indirectEff j) s

/-- LOOP (R229). -/
def loopEff (o : LinkOp) (c : Cx) : Eff :=
  let v := c.sca o.reg.toNat - 1
  if v == 0 then c.fall [(sKey o.reg.toNat, v)]
  else c.jump (c.plus (offInt o.target)) [(sKey o.reg.toNat, v)]

def execLoop (o : LinkOp) (s : State) : Host.Outcome State Fault Refusal := issue (.loop o) (loopEff o) s

def execNop (s : State) : Host.Outcome State Fault Refusal := issue .nop (fun c => c.fall []) s

/-- SLEEP: not ready for c cycles after issue, at least one (R233). -/
def sleepEff (v : SVal) (c : Cx) : Eff :=
  .go (c.withSlot { c.mine with block := .sleep (c.s.cycle + Nat.max 1 (c.sval v).toNat + 1) }) []

def execSleep (v : SVal) (s : State) : Host.Outcome State Fault Refusal := issue (.sleep v) (sleepEff v) s

/-- YIELD: not ready until every other ready slot of its scheduler has issued, or 16 cycles have passed (R231). -/
def yieldEff (c : Cx) : Eff :=
  let others := ((readySlots c.pre c.w.core (c.w.ws % 4)).map (fun p => (p.1.uid, p.2.1))).filter (· != (c.w.uid, c.n))
  .go (c.withSlot { c.mine with block := .yield (c.s.cycle + 16) others }) []

def execYield (s : State) : Host.Outcome State Fault Refusal := issue .yield yieldEff s

/-! ### The divergence stack (R11, R12) -/

/-- An entry: KIND, PC, LANES, OWN, JPC and SPLIT. -/
structure DEntry where
  kind : Nat
  pc : Nat
  lanes : Word
  own : Nat
  jpc : Nat
  split : Word
  deriving DecidableEq, Repr

/-- PC field of a join that is none. -/
def noPc : Nat := 0x3FFFFFFF

/-- A join program counter as a 30-bit field, and back. -/
def joinField (j : Option Word) : Nat := j.elim noPc (fun p => p.toNat % 2 ^ 30)
def fieldJoin (n : Nat) : Option Word := if n == noPc then none else some (BitVec.ofNat 32 n)

/-- Words of an entry (R12). -/
def DEntry.words (e : DEntry) : List CWord :=
  [good (BitVec.ofNat 32 (e.kind * 2 ^ 30 + e.pc)), good e.lanes, good (BitVec.ofNat 32 (e.own * 2 ^ 30 + e.jpc)),
   good e.split]

def DEntry.ofWords (w0 w1 w2 w3 : Word) : DEntry :=
  { kind := bits w0 30 2, pc := bits w0 0 30, lanes := w1, own := bits w2 30 2, jpc := bits w2 0 30, split := w3 }

/-- Store address of an entry of a warp's stack (R50). -/
def entryAddr (w : Warp) (i : Nat) : Nat := w.stackBase + 16 * i

/-- Number of an entry's first word in the stores. -/
def entryKey (s : State) (w : Warp) (i : Nat) : Nat := storeKey w.core (planeOf s w) (entryAddr w i)

def readEntry (s : State) (w : Warp) (i : Nat) : DEntry :=
  let k := entryKey s w i
  DEntry.ofWords (s.store.word k).data (s.store.word (k + 1)).data (s.store.word (k + 2)).data (s.store.word (k + 3)).data

def writeEntry (s : State) (w : Warp) (i : Nat) (e : DEntry) : State :=
  { s with store := s.store.setWords (entryKey s w i) e.words }

/-- Numbers of the entries that are not retired and are owned by slot `n` or by both, topmost first, among the first
`d` entries. -/
def ownedEntries (s : State) (w : Warp) (n : Bool) : Nat → List Nat
  | 0 => []
  | d + 1 =>
    let e := readEntry s w d
    if e.kind != 2 && (e.own == 2 || e.own == n.toNat) then d :: ownedEntries s w n d else ownedEntries s w n d

/-- Topmost such entry. -/
def topEntry? (s : State) (w : Warp) (n : Bool) : Option (Nat × DEntry) :=
  ((ownedEntries s w n w.depth).head?).map (fun i => (i, readEntry s w i))

/-- The depth once retired entries at the top are gone (R11). -/
def trimDepth (s : State) (w : Warp) : Nat → Nat
  | 0 => 0
  | d + 1 => if (readEntry s w d).kind == 2 then trimDepth s w d else d + 1

/-- Retire an entry in place. -/
def retireEntry (s : State) (w : Warp) (i : Nat) : State × Warp :=
  let s := writeEntry s w i { readEntry s w i with kind := 2 }
  (s, { w with depth := trimDepth s w w.depth })

/-- Signature of a slot that a split, a join or an exit sets (R153); in trap mode it is frozen (R152). -/
def resig (w : Warp) (old new : Word) : Word := if w.trap.isSome then old else new

/-- A warp with another stack depth. -/
def Warp.withDepth (w : Warp) (d : Nat) : Warp := { w with depth := d }

/-- BRC (R13, R226, R153). DESIGN CHOICE (log 112): where several checks of a split fail, the target's range comes first,
then the join's, then the stack overflow. -/
def brcEff (o : BrcOp) (c : Cx) : Eff :=
  let p := c.slot.pc
  let target := c.plus o.target.toInt
  let j := c.plus (o.join.toNat : Int)
  let taken := maskOf (c.lanes o.guard)
  let rest := c.slot.mask &&& ~~~ taken
  if taken == 0 then c.fall []
  else if rest == 0 then c.jump target []
  else
    let other := c.w.slot? (!c.n)
    let need := if other.isNone then 1 else 2
    if !targetIn target then badTarget target
    else if !targetIn j then badTarget j
    else if c.w.dstk < c.w.depth + need then .trap 0x10 0 p
    else
      let jf := j.toNat % 2 ^ 30
      let e : DEntry := { kind := 0, pc := joinField c.slot.join, lanes := 0,
                          own := if other.isNone then 2 else c.n.toNat, jpc := jf, split := c.slot.mask }
      let s := writeEntry c.s c.w c.w.depth e
      let x := c.mine
      let mine := { x with mask := rest, shadow := x.shadow &&& ~~~ taken, join := some (BitVec.ofInt 32 j),
                           sig := resig c.w x.sig (x.sig ^^^ 0x5A5A0001) }
      match other with
      | none =>
        let there : Slot := { pc := BitVec.ofInt 32 target, mask := taken, join := some (BitVec.ofInt 32 j),
                              sig := resig c.w x.sig 0x5A5A0001, shadow := x.shadow &&& taken, block := .none,
                              readyAt := c.s.cycle + 4, readySince := none, heldBack := false }
        .go (setWarp s (((c.w.setSlot c.n (some mine)).setSlot (!c.n) (some there)).withDepth (c.w.depth + 1))) []
      | some _ =>
        let e2 : DEntry := { kind := 1, pc := target.toNat % 2 ^ 30, lanes := taken, own := c.n.toNat, jpc := jf, split := 0 }
        let s := writeEntry s c.w (c.w.depth + 1) e2
        .go (setWarp s ((c.w.setSlot c.n (some mine)).withDepth (c.w.depth + 2))) []

def execBrc (o : BrcOp) (s : State) : Host.Outcome State Fault Refusal := issue (.brc o) (brcEff o) s

/-- JOIN (R14, R227, R153). -/
def joinEff (c : Cx) : Eff :=
  let j := c.slot.pc
  if c.slot.join != some j then c.fall []
  else match topEntry? c.s c.w c.n with
    | none => .trap 0x01 1 (BitVec.ofNat 32 (entryAddr c.w c.w.depth))
    | some (i, e) =>
      let x := c.mine
      if e.jpc != j.toNat || e.kind == 3 then .trap 0x01 1 (BitVec.ofNat 32 (entryAddr c.w i))
      else if e.kind == 1 then
        let below := (ownedEntries c.s c.w c.n i).find? (fun k =>
          let f := readEntry c.s c.w k
          f.kind == 0 && f.jpc == j.toNat)
        let s := match below with
          | none => c.s
          | some k =>
            let f := readEntry c.s c.w k
            writeEntry c.s c.w k { f with lanes := f.lanes ||| x.mask }
        let r := retireEntry s c.w i
        .go (setWarp r.1 (r.2.setSlot c.n (some { x with pc := BitVec.ofNat 32 e.pc, mask := e.lanes, shadow := e.lanes,
                                                          sig := resig c.w x.sig 0x5A5A0001 }))) []
      else if e.own == 2 && (c.w.slot? (!c.n)).isSome then
        .go (setWarp (writeEntry c.s c.w i { e with lanes := e.lanes ||| x.mask }) (c.w.setSlot c.n none)) []
      else
        let r := retireEntry c.s c.w i
        .go (setWarp r.1 (r.2.setSlot c.n (some { x with mask := x.mask ||| e.lanes, shadow := x.shadow ||| e.lanes,
                                                          join := fieldJoin e.pc,
                                                          sig := resig c.w x.sig 0x5A5A0002 }))) []

def execJoin (s : State) : Host.Outcome State Fault Refusal := issue .join joinEff s

/-! ### EXIT (R15, R230) -/

/-- What a slot whose mask has become zero takes up; `fuel` bounds the entries it may retire. -/
inductive ExitOut where
  | free (s : State) (w : Warp)
  | take (s : State) (w : Warp) (pc : Nat) (mask : Word) (join : Option Word) (sig : Word)
  /-- an entry of KIND 0b11 at a store address (R11) -/
  | bad (addr : Nat)

def exitLoop (s : State) (w : Warp) (n : Bool) : Nat → ExitOut
  | 0 => .free s w
  | fuel + 1 =>
    match topEntry? s w n with
    | none => .free s w
    | some (i, e) =>
      if e.kind == 3 then .bad (entryAddr w i)
      else if e.kind == 1 then
        let r := retireEntry s w i
        .take r.1 r.2 e.pc e.lanes (fieldJoin e.jpc) 0x5A5A0001
      else if e.own == 2 && (w.slot? (!n)).isSome then .free s w
      else if e.lanes == 0 then
        let r := retireEntry s w i
        exitLoop r.1 r.2 n fuel
      else
        let r := retireEntry s w i
        .take r.1 r.2 (e.jpc + 2) e.lanes (fieldJoin e.pc) 0x5A5A0002

/-- Exiting lanes of an EXIT. -/
def Cx.exiting (c : Cx) (g : Guard) : Word := maskOf (c.lanes g)

/-- The EXIT leaves both slots free and the stack empty: the warp ends. -/
def exitEnds (g : Guard) (c : Cx) : Bool :=
  c.slot.mask &&& ~~~ c.exiting g == 0 &&
  match exitLoop c.s c.w c.n (c.w.depth + 1) with
  | .free _ w => (w.slot? (!c.n)).isNone && w.depth == 0
  | _ => false

/-- An EXIT that would end its warp waits until the counters are zero, the waits of R111 are over, and the releases of
the warp, whose waits are then over too, have taken effect (R230, R372). -/
def exitHeld (g : Guard) (c : Cx) : Bool :=
  exitEnds g c &&
  (c.preW.ctrs != ⟨0, 0, 0, 0, 0, 0⟩ || c.pre.ops.any (fun o => o.warp == c.preW.uid && o.held) ||
   !([HoldKind.drnt, .redf, .nbfn].all (fun h => holdDone c.pre c.preW.uid (h, c.preW.seq))))

/-- The state with the exiting lanes gone from every barrier, and the issuing slot and the stack as `f` makes them. -/
def Cx.leave (c : Cx) (s : State) (w : Warp) (lanes : Word) (x : Option Slot) : State :=
  dropFromBars (setWarp s (w.setSlot c.n x)) w.uid lanes

/-- The warp has ended: nothing of it issues again. -/
def endWarp (s : State) (w : Warp) : State :=
  endTeamIfDone (onWarp s w.uid (fun v => { v with trap := none })) w.team

/-- EXIT (R15, R230, R153, R156). DESIGN CHOICE (log 129): in a trap handler it goes on with the stack's entries as they stand,
those of the interrupted code among them. -/
def exitEff (g : Guard) (c : Cx) : Eff :=
  let lanes := c.exiting g
  let x := c.mine
  let rest := x.mask &&& ~~~ lanes
  if rest != 0 then .go (c.leave c.s c.w lanes (some { x with mask := rest, shadow := x.shadow &&& ~~~ lanes })) []
  else match exitLoop c.s c.w c.n (c.w.depth + 1) with
    | .bad a => .trap 0x01 1 (BitVec.ofNat 32 a)
    | .take s w pc mask join sig =>
      .go (c.leave s w lanes (some { x with pc := BitVec.ofNat 32 pc, mask := mask, shadow := mask, join := join,
                                            sig := resig w x.sig sig })) []
    | .free s w =>
      if exitEnds g c then
        match c.preW.ploughError with
        | some a => .stop (contain c.pre c.preW 6 0 0x07 c.slot.pc a)
        | none => .stop (endWarp (c.leave s w lanes none) w)
      else .go (c.leave s w lanes none) []

def execExit (g : Guard) (s : State) : Host.Outcome State Fault Refusal :=
  issueWith (exitHeld g) (.exit g) (exitEff g) s

end Sys2Proof.Machine
end

