-- ==== Sys2Proof/Machine/Flags.lean ====
section
/-! DEFINITION. Number formats and exact arithmetic (09 R181 to R195, R198 to R202): decoding elements to exact values,
rounding them once, and the flags each result raises. -/

namespace Sys2Proof.Machine

open Sys2Proof

/-! ### FLAGS (R195) -/

def flNV : Word := 0x001
def flDZ : Word := 0x002
def flOF : Word := 0x004
def flUF : Word := 0x008
def flNX : Word := 0x010
def flIDZ : Word := 0x020
def flIOV : Word := 0x040
def flCVS : Word := 0x080
def flSCL : Word := 0x100

/-- A flag raised when a condition holds. -/
def raise (b : Bool) (fl : Word) : Word := if b then fl else 0

/-! ### Integers of a width -/

/-- Two's-complement value of the low `w` bits. -/
def sval (w x : Nat) : Int := if x % 2 ^ w < 2 ^ (w - 1) then (x % 2 ^ w : Nat) else (x % 2 ^ w : Nat) - (2 ^ w : Nat)

/-- Value of the low `w` bits, signed or not. -/
def ival (signed : Bool) (w x : Nat) : Int := if signed then sval w x else (x % 2 ^ w : Nat)

/-- An integer modulo 2^w. -/
def wrap (w : Nat) (i : Int) : Nat := (i % (2 ^ w : Nat)).toNat

/-- Limits of an integer type. -/
def intLo (signed : Bool) (w : Nat) : Int := if signed then -(2 ^ (w - 1) : Nat) else 0
def intHi (signed : Bool) (w : Nat) : Int := if signed then (2 ^ (w - 1) : Nat) - 1 else (2 ^ w : Nat) - 1

/-- The nearer end of a range, or the value itself. -/
def clamp (lo hi x : Int) : Int := if x < lo then lo else if hi < x then hi else x

/-- Bit length of a number. -/
def bitLen (n : Nat) : Nat := if n = 0 then 0 else Nat.log2 n + 1

/-! ### Floating-point formats (R181) -/

/-- A format: width, significand bits, bias, encoding of its largest finite magnitude, whether it has infinities,
whether a NaN whose top significand bit is 0 signals, its canonical NaN. -/
structure Format where
  width : Nat
  mb : Nat
  bias : Nat
  big : Nat
  hasInf : Bool
  signals : Bool
  nan : Nat
  deriving DecidableEq, Repr

def fmtF32 : Format := ⟨32, 23, 127, 0x7F7FFFFF, true, true, 0x7FC00000⟩
def fmtBf16 : Format := ⟨16, 7, 127, 0x7F7F, true, true, 0x7FC0⟩
def fmtF16 : Format := ⟨16, 10, 15, 0x7BFF, true, true, 0x7E00⟩
def fmtE4m3 : Format := ⟨8, 3, 7, 0x7E, false, false, 0x7F⟩
def fmtE5m2 : Format := ⟨8, 2, 15, 0x7B, true, false, 0x7E⟩
/-- E2M1 has no NaN; a NaN converts to +0 (R193). -/
def fmtE2m1 : Format := ⟨4, 1, 1, 0x7, false, false, 0⟩

/-- Sign bit of a format. -/
def Format.sbit (f : Format) : Nat := 2 ^ (f.width - 1)
/-- Encoding of +infinity. -/
def Format.infEnc (f : Format) : Nat := f.big + 1
/-- Exponent of the smallest normal value. -/
def Format.emin (f : Format) : Int := 1 - (f.bias : Int)

/-- The value of an element: a NaN (signalling or quiet), an infinity, or (-1)^neg * m * 2^e exactly. -/
inductive Fp where
  | nan (signalling : Bool)
  | inf (neg : Bool)
  | fin (neg : Bool) (m : Nat) (e : Int)
  deriving DecidableEq, Repr

/-- Value of an element (R181, R182, R183). -/
def Format.decode (f : Format) (x : Nat) : Fp :=
  let x := x % 2 ^ f.width
  let neg := f.sbit ≤ x
  let mag := x % f.sbit
  let frac := mag % 2 ^ f.mb
  let ex := mag / 2 ^ f.mb
  if f.hasInf && mag == f.infEnc then .inf neg
  else if f.big < mag then .nan (f.signals && frac < 2 ^ (f.mb - 1))
  else if ex == 0 then .fin neg frac (f.emin - (f.mb : Int))
  else .fin neg (2 ^ f.mb + frac) ((ex : Int) - (f.bias : Int) - (f.mb : Int))

/-- Value of an E8M0 code (R182). -/
def decodeE8m0 (x : Nat) : Fp := if x % 256 == 0xFF then .nan false else .fin false 1 ((x % 256 : Nat) - 127 : Int)

def Fp.isNan : Fp → Bool
  | .nan _ => true
  | _ => false
def Fp.isSnan : Fp → Bool
  | .nan s => s
  | _ => false
def Fp.isInf : Fp → Bool
  | .inf _ => true
  | _ => false
def Fp.isZero : Fp → Bool
  | .fin _ 0 _ => true
  | _ => false
def Fp.neg : Fp → Bool
  | .nan _ => false
  | .inf s => s
  | .fin s _ _ => s
def Fp.negate : Fp → Fp
  | .nan s => .nan s
  | .inf s => .inf (!s)
  | .fin s m e => .fin (!s) m e
def Fp.abs : Fp → Fp
  | .nan s => .nan s
  | .inf _ => .inf false
  | .fin _ m e => .fin false m e

/-! ### Rounding (R190 to R192) -/

/-- A value between m and m + 1 units of 2^e rounds up: `rem` of `unit` is left, and `sticky` says that more is. -/
def roundUp (mode : Rnd) (neg : Bool) (m rem unit : Nat) (sticky : Bool) : Bool :=
  match mode with
  | .rz => false
  | .ru => !neg && (rem != 0 || sticky)
  | .rd => neg && (rem != 0 || sticky)
  | .rne => decide (unit < 2 * rem) || (2 * rem == unit && (sticky || m % 2 == 1))

/-- m * 2^e (and a little more if `sticky`) as a multiple of 2^q, rounded; and whether that is inexact. With `sticky`
m has bits to spare below 2^q. -/
def roundTo (mode : Rnd) (neg : Bool) (m : Nat) (e : Int) (sticky : Bool) (q : Int) : Nat × Bool :=
  if q ≤ e then (m * 2 ^ (e - q).toNat, sticky)
  else
    let unit := 2 ^ (q - e).toNat
    let k := m / unit
    let rem := m % unit
    (if roundUp mode neg k rem unit sticky then k + 1 else k, rem != 0 || sticky)

/-- Result of a finite value whose rounded magnitude exceeds the largest finite one (R191). -/
def Format.overflow (f : Format) (mode : Rnd) (neg : Bool) : Nat × Word :=
  let s := if neg then f.sbit else 0
  if !f.hasInf then (s + f.big, flCVS ||| flNX)
  else
    let toInf := match mode with
      | .rne => true
      | .rz => false
      | .ru => !neg
      | .rd => neg
    (s + (if toInf then f.infEnc else f.big), flOF ||| flNX)

/-- Round a nonzero magnitude m * 2^e once to a format, with its flags (R190, R191, R192). -/
def Format.round (f : Format) (mode : Rnd) (neg : Bool) (m : Nat) (e : Int) (sticky : Bool) : Nat × Word :=
  let s := if neg then f.sbit else 0
  if m == 0 then (s, 0)
  else
    let top := e + (bitLen m : Int) - 1
    let q := (if top < f.emin then f.emin else top) - (f.mb : Int)
    let r := roundTo mode neg m e sticky q
    let k := if r.1 == 2 ^ (f.mb + 1) then 2 ^ f.mb else r.1
    let q := if r.1 == 2 ^ (f.mb + 1) then q + 1 else q
    let enc := if 2 ^ f.mb ≤ k then (q + (f.mb : Int) + (f.bias : Int)).toNat * 2 ^ f.mb + (k - 2 ^ f.mb) else k
    if f.big < enc then f.overflow mode neg
    else
      let unbounded := (roundTo mode neg m e sticky (top - (f.mb : Int))).1
      let tiny := top < f.emin && !(top + 1 == f.emin && unbounded == 2 ^ (f.mb + 1))
      (s + enc, raise r.2 flNX ||| raise (tiny && r.2) flUF)

/-- Canonical NaN with NV or without. -/
def Format.canon (f : Format) (nv : Bool) : Nat × Word := (f.nan, raise nv flNV)

/-- A signed infinity. -/
def Format.infinity (f : Format) (neg : Bool) : Nat × Word := ((if neg then f.sbit else 0) + f.infEnc, 0)

/-- A signed zero. -/
def Format.zero (f : Format) (neg : Bool) : Nat := if neg then f.sbit else 0

/-- Encode an exact value (R190 to R193). -/
def Format.ofFp (f : Format) (mode : Rnd) : Fp → Nat × Word
  | .nan s => f.canon s
  | .inf s => f.infinity s
  | .fin s m e => f.round mode s m e false

/-! ### Sums, products, quotients (R193, R198, R237, R238) -/

/-- Exact product; an invalid one (0 times infinity) is a signalling NaN. -/
def Fp.mul : Fp → Fp → Fp
  | .nan s, y => .nan (s || y.isSnan)
  | x, .nan s => .nan (s || x.isSnan)
  | .inf s, y => if y.isZero then .nan true else .inf (s != y.neg)
  | x, .inf s => if x.isZero then .nan true else .inf (x.neg != s)
  | .fin s m e, .fin t n f => .fin (s != t) (m * n) (e + f)

/-- Least exponent of the finite terms. -/
def minExp : List Fp → Int → Int
  | [], e => e
  | .fin _ _ e :: rest, x => minExp rest (if e < x then e else x)
  | _ :: rest, x => minExp rest x

/-- Sum of the finite terms in units of 2^e, no term having a lesser exponent. -/
def sumAt (e : Int) : List Fp → Int
  | [] => 0
  | .fin s m x :: rest =>
    let v : Int := (m * 2 ^ (x - e).toNat : Nat)
    (if s then -v else v) + sumAt e rest
  | _ :: rest => sumAt e rest

/-- The sum of some terms, rounded once (R193). -/
def Format.sum (f : Format) (mode : Rnd) (ts : List Fp) : Nat × Word :=
  let opposed := ts.any (fun t => t.isInf && t.neg) && ts.any (fun t => t.isInf && !t.neg)
  if ts.any Fp.isNan || opposed then f.canon (opposed || ts.any Fp.isSnan)
  else match ts.find? Fp.isInf with
    | some t => f.infinity t.neg
    | none =>
      let e := minExp ts 0
      let v := sumAt e ts
      if v == 0 then
        let same := ts.all Fp.isZero && (ts.all Fp.neg || ts.all (fun t => !t.neg))
        (f.zero (if same then (ts.headD (.fin false 0 0)).neg else mode == .rd), 0)
      else f.round mode (v < 0) v.natAbs e false

/-- Exact quotient of two finite nonzero magnitudes, with bits to spare: m, e and whether more is left. -/
def quotient (m n : Nat) (bits : Nat) : Nat × Int × Bool :=
  let k := bits + bitLen n
  (m * 2 ^ k / n, -(k : Int), m * 2 ^ k % n != 0)

/-- Quotient, rounded once (R237). -/
def Format.div (f : Format) (mode : Rnd) (a b : Fp) : Nat × Word :=
  match a, b with
  | .nan s, y => f.canon (s || y.isSnan)
  | x, .nan s => f.canon (s || x.isSnan)
  | .inf _, .inf _ => f.canon true
  | .inf s, y => f.infinity (s != y.neg)
  | x, .inf s => (f.zero (x.neg != s), 0)
  | .fin s m e, .fin t n g =>
    if n == 0 then (if m == 0 then f.canon true else ((f.infinity (s != t)).1, flDZ))
    else if m == 0 then (f.zero (s != t), 0)
    else
      let q := quotient m n (f.mb + 4)
      f.round mode (s != t) q.1 (q.2.1 + e - g) q.2.2

/-! ### Comparison (R239, R243) -/

/-- Order of two values that are no NaN, zeros being equal. -/
def Fp.cmp (a b : Fp) : Ordering :=
  match a, b with
  | .inf s, .inf t => if s == t then .eq else if s then .lt else .gt
  | .inf s, _ => if s then .lt else .gt
  | _, .inf t => if t then .gt else .lt
  | a, b =>
    let e := minExp [a, b] 0
    compare (sumAt e [a]) (sumAt e [b])

/-- A condition on an order (R166). -/
def condHolds (c : Cond) (o : Ordering) : Bool :=
  match c with
  | .eq => o == .eq
  | .ne => o != .eq
  | .lt => o == .lt
  | .le => o != .gt
  | .gt => o == .gt
  | .ge => o != .lt

/-- FCMP of one element (R243). -/
def fcmpElem (f : Format) (c : Cond) (x y : Nat) : Bool × Word :=
  let a := f.decode x
  let b := f.decode y
  if a.isNan || b.isNan then
    (c == .ne, raise (a.isSnan || b.isSnan || !(c == .eq || c == .ne)) flNV)
  else (condHolds c (a.cmp b), 0)

/-- FMIN and FMAX of one element (R239). -/
def fminmaxElem (f : Format) (max : Bool) (x y : Nat) : Nat × Word :=
  let x := x % 2 ^ f.width
  let y := y % 2 ^ f.width
  let a := f.decode x
  let b := f.decode y
  let nv := raise (a.isSnan || b.isSnan) flNV
  if a.isNan && b.isNan then (f.nan, nv)
  else if a.isNan then (y, nv)
  else if b.isNan then (x, nv)
  else
    let o := a.cmp b
    let less := o == .lt || (o == .eq && a.neg && !b.neg)
    (if less != max then x else y, 0)

/-- FCLASS of one element (R241). -/
def fclassElem (f : Format) (x : Nat) : Nat :=
  match f.decode x with
  | .nan s => if s then 0x100 else 0x200
  | .inf s => if s then 0x001 else 0x080
  | .fin s m _ =>
    if m == 0 then (if s then 0x008 else 0x010)
    else if m < 2 ^ f.mb then (if s then 0x004 else 0x020)
    else (if s then 0x002 else 0x040)

/-- floor(log2) of a finite nonzero magnitude. -/
def floorLog (m : Nat) (e : Int) : Int := e + (bitLen m : Int) - 1

/-- FXTR of one element, in a width (R242). -/
def fxtrElem (f : Format) (x : Nat) : Nat × Word :=
  let w := f.width
  match f.decode x with
  | .nan _ => (2 ^ (w - 1), flNV)
  | .inf _ => (2 ^ (w - 1) - 1, flNV)
  | .fin _ m e => if m == 0 then (2 ^ (w - 1), flNV) else (wrap w (floorLog m e), 0)

/-- FSCL of one element (R242). -/
def fsclElem (f : Format) (mode : Rnd) (x : Nat) (n : Int) : Nat × Word :=
  match f.decode x with
  | .nan s => f.canon s
  | .inf s => f.infinity s
  | .fin s m e => if m == 0 then (f.zero s, 0) else f.round mode s m (e + clamp (-1000) 1000 n) false

/-- FSAT of one element (R240). -/
def fsatElem (f : Format) (x : Nat) : Nat × Word :=
  match f.decode x with
  | .nan s => (0, raise s flNV)
  | v => if v.neg then (0, 0) else (Nat.min (x % 2 ^ f.width) (f.bias * 2 ^ f.mb), 0)

/-- FRND of one element (R244). -/
def frndElem (f : Format) (mode : Rnd) (x : Nat) : Nat × Word :=
  match f.decode x with
  | .nan s => f.canon s
  | .inf s => f.infinity s
  | .fin s m e =>
    if m == 0 then (f.zero s, 0)
    else
      let r := roundTo mode s m e false 0
      ((f.round .rne s r.1 0 false).1, raise r.2 flNX)

/-! ### Conversions (R193, R194, R247) -/

/-- The format of a floating-point code other than E8M0. -/
def fmtFormat? : Fmt → Option Format
  | .f32 => some fmtF32
  | .bf16 => some fmtBf16
  | .f16 => some fmtF16
  | .e4m3 => some fmtE4m3
  | .e5m2 => some fmtE5m2
  | .e2m1 => some fmtE2m1
  | _ => none

/-- Width and signedness of an integer code. -/
def fmtInt? : Fmt → Option (Nat × Bool)
  | .i32 => some (32, true)
  | .n32 => some (32, false)
  | .i16 => some (16, true)
  | .n16 => some (16, false)
  | .i8 => some (8, true)
  | .n8 => some (8, false)
  | .i64 => some (64, true)
  | .n64 => some (64, false)
  | _ => none

/-- A float to a format (R247): a NaN is canonical, E2M1 having +0 and NV; an infinity that the format lacks is the
largest finite value with CVS. -/
def fpToFp (f : Format) (mode : Rnd) : Fp → Nat × Word
  | .nan s => if f == fmtE2m1 then (0, flNV) else f.canon s
  | .inf s => if f.hasInf then f.infinity s else (f.zero s + f.big, flCVS)
  | .fin s m e => f.round mode s m e false

/-- A float to E8M0 (R193, R247). DESIGN CHOICE (log 122): a positive value below 2^-127, clamped to code 0x00, sets CVS and NX
and not UF. -/
def fpToE8m0 (mode : Rnd) : Fp → Nat × Word
  | .nan _ => (0xFF, flNV)
  | .inf s => if s then (0xFF, flNV) else (0xFE, flCVS)
  | .fin s m e =>
    if m == 0 then (0, flUF ||| flNX)
    else if s then (0xFF, flNV)
    else
      let fl := floorLog m e
      let exact := m == 2 ^ (bitLen m - 1)
      let up := !exact && match mode with
        | .rz | .rd => false
        | .ru => true
        | .rne => 3 * 2 ^ (bitLen m - 1) ≤ 2 * m
      let k := if up then fl + 1 else fl
      let k' := clamp (-127) 127 k
      ((k' + 127).toNat, raise (!exact || k' != k) flNX ||| raise (k' != k) flCVS)

/-- A float to an integer range (R193). -/
def fpToInt (mode : Rnd) (signed : Bool) (w : Nat) : Fp → Nat × Word
  | .nan _ => (0, flNV)
  | .inf s => (wrap w (if s then intLo signed w else intHi signed w), flCVS)
  | .fin s m e =>
    let r := roundTo mode s m e false 0
    let x : Int := if s then -(r.1 : Int) else r.1
    let y := clamp (intLo signed w) (intHi signed w) x
    (wrap w y, if y != x then flCVS else raise r.2 flNX)

/-- An integer to a format (R247). -/
def intToFp (f : Format) (mode : Rnd) (x : Int) : Nat × Word := f.round mode (x < 0) x.natAbs 0 false

/-- An integer to an integer range (R247). -/
def intToInt (signed : Bool) (w : Nat) (x : Int) : Nat × Word :=
  let y := clamp (intLo signed w) (intHi signed w) x
  (wrap w y, raise (y != x) flCVS)

/-- Stochastic rounding with a random word (R194). -/
def fpToFpSr (f : Format) (r : Nat) : Fp → Nat × Word
  | .nan _ => (if f == fmtE2m1 then 0 else f.nan, flNV)
  | .inf s => (f.zero s + f.big, flCVS ||| raise (!f.hasInf) flNX)
  | .fin s m e =>
    if m == 0 then (f.zero s, 0)
    else
      let top := floorLog m e
      let q := (if top < f.emin then f.emin else top) - (f.mb : Int)
      let a := roundTo .rz false m e false q
      let enc := (f.round .rz false m e false).1
      if f.big ≤ enc then (f.zero s + f.big, flCVS ||| raise (a.2 || f.infEnc ≤ encOf f a.1 q) flNX)
      else if !a.2 then (f.zero s + enc, 0)
      else
        -- x - a in units of 2^e below 2^q
        let unit := 2 ^ (q - e).toNat
        let d := m % unit * 2 ^ 32 / unit
        let mag := if 2 ^ 32 ≤ r % 2 ^ 32 + d then enc + 1 else enc
        if f.big < mag then (f.zero s + f.big, flCVS ||| flNX)
        else (f.zero s + mag, flNX ||| raise (mag < 2 ^ f.mb) flUF)
where
  /-- encoding of a multiple of 2^q, perhaps beyond the largest finite one -/
  encOf (f : Format) (k : Nat) (q : Int) : Nat :=
    if 2 ^ f.mb ≤ k then (q + (f.mb : Int) + (f.bias : Int)).toNat * 2 ^ f.mb + (k - 2 ^ f.mb) else k

/-- Exact value of a source element of a code, its low bits (R245). -/
def srcFp (fmt : Fmt) (x : Nat) : Fp :=
  match fmtFormat? fmt with
  | some f => f.decode x
  | none => decodeE8m0 x

/-- CVT of one value: the source's low bits to the destination's, zero- or sign-extended to the register (R245, R247).
`sr` is the random word of stochastic rounding. -/
def cvtElem (dst src : Fmt) (mode : Rnd) (sr : Option Nat) (x : Nat) : Nat × Word :=
  match fmtInt? src, fmtInt? dst with
  | some (w, sg), some (v, tg) => ext v tg (intToInt tg v (ival sg w x))
  | some (w, sg), none =>
    match fmtFormat? dst with
    | some f => intToFp f mode (ival sg w x)
    | none => (0, 0)
  | none, some (v, tg) => ext v tg (fpToInt mode tg v (srcFp src x))
  | none, none =>
    match fmtFormat? dst, sr with
    | some f, none => fpToFp f mode (srcFp src x)
    | some f, some r => fpToFpSr f r (srcFp src x)
    | none, _ => fpToE8m0 mode (srcFp src x)
where
  /-- narrow signed integers fill the 32-bit register with their sign -/
  ext (w : Nat) (signed : Bool) (r : Nat × Word) : Nat × Word :=
    if w < 32 then (wrap 32 (ival signed w r.1), r.2) else r

/-! ### Sums of the array and the engines -/

/-- One accumulator element (R198): the products and the accumulator summed exactly, one RNE to FP32. A NaN product
sets NV; a NaN accumulator only if it signals. -/
def mmaElem (acc : Nat) (ps : List Fp) : Nat × Word :=
  let c := fmtF32.decode acc
  let infs := (c :: ps).filter Fp.isInf
  if ps.any Fp.isNan || (infs.any Fp.neg && infs.any (fun x => !x.neg)) then fmtF32.canon true
  else fmtF32.sum .rne (c :: ps)

/-- FP32 addition of WRED, WSCAN and the atomics (R200, R201, R106). -/
def addF32 (a b : Nat) : Nat × Word := fmtF32.sum .rne [fmtF32.decode a, fmtF32.decode b]

/-- FP32 fused multiply-add with RNE (R238). -/
def fmaF32 (a b c : Nat) : Nat × Word := fmtF32.sum .rne [(fmtF32.decode a).mul (fmtF32.decode b), fmtF32.decode c]

end Sys2Proof.Machine
end

