-- ==== Sys2Proof/Machine/Integer.lean ====
section
/-! DEFINITION. The integer group 0x00 to 0x1F (10 R205 to R214). -/

namespace Sys2Proof.Machine

open Sys2Proof

/-- Element width of an integer type (R184, R206). -/
def tyWidth : IntTy → Nat
  | .i32 | .n32 => 32
  | .i64 | .n64 => 64
  | .i16x2 | .n16x2 => 16
  | .i8x4 | .n8x4 => 8

/-- Elements of a value of the type. -/
def tyCount : IntTy → Nat
  | .i16x2 | .n16x2 => 2
  | .i8x4 | .n8x4 => 4
  | _ => 1

/-- Apply an operation to each of `n` elements of width `w`, element 0 at the bottom; flags are ORed (R184). -/
def elemMap (w : Nat) (f : Nat → Nat → Nat × Word) : Nat → Nat → Nat → Nat × Word
  | 0, _, _ => (0, 0)
  | n + 1, a, b =>
    let r := f (a % 2 ^ w) (b % 2 ^ w)
    let rest := elemMap w f n (a / 2 ^ w) (b / 2 ^ w)
    (r.1 % 2 ^ w + 2 ^ w * rest.1, r.2 ||| rest.2)

/-- An operand of a type in a lane, as a number. -/
def Cx.opnd (c : Cx) (ty : IntTy) (a : Src) (l : Nat) : Nat :=
  if ty.is64 then (c.src64 ty.isSigned a l).toNat else (c.src a l).toNat

/-- A result of a type. -/
def tyRes (ty : IntTy) (x : Nat × Word) : Res :=
  if ty.is64 then Res.d (BitVec.ofNat 64 x.1) x.2 else Res.w (BitVec.ofNat 32 x.1) x.2

/-- Two-source shape: `f ty` acts on elements; B has the type's width, or is a 32-bit count (R206). -/
def intBin (o : IntBin) (wideB : Bool) (f : IntTy → Nat → Nat → Nat × Word) (c : Cx) : Eff :=
  c.lanewise o.guard o.dst (fun l =>
    tyRes o.ty (elemMap (tyWidth o.ty) (f o.ty) (tyCount o.ty) (c.opnd o.ty o.a l)
      (if wideB then c.opnd o.ty o.b l else (c.src o.b l).toNat)))

/-- One-source shape. -/
def intUn (o : IntUn) (f : IntTy → Nat → Nat) (c : Cx) : Eff :=
  c.lanewise o.guard o.dst (fun l =>
    tyRes o.ty (elemMap (tyWidth o.ty) (fun a _ => (f o.ty a, 0)) (tyCount o.ty) (c.opnd o.ty o.a l) 0))

/-- One-source shape whose result is a count: one 32-bit register for 64-bit types (R212). -/
def intCount (o : IntUn) (f : IntTy → Nat → Nat) (c : Cx) : Eff :=
  c.lanewise o.guard o.dst (fun l =>
    Res.w (BitVec.ofNat 32 (elemMap (tyWidth o.ty) (fun a _ => (f o.ty a, 0)) (tyCount o.ty) (c.opnd o.ty o.a l) 0).1))

/-- Three-source shape; C is a vector register. -/
def intTri (o : IntTri) (f : Nat → Res) (c : Cx) : Eff := c.lanewise o.guard (.v o.dst) f

/-! ### Elements -/

def addElem (_ : IntTy) (a b : Nat) : Nat × Word := (a + b, 0)
def subElem (ty : IntTy) (a b : Nat) : Nat × Word := (wrap (tyWidth ty) ((a : Int) - b), 0)

/-- Clamp an exact value to the type's range, with IOV (R207). -/
def satElem (ty : IntTy) (x : Int) : Nat × Word :=
  let y := clamp (intLo ty.isSigned (tyWidth ty)) (intHi ty.isSigned (tyWidth ty)) x
  (wrap (tyWidth ty) y, raise (y != x) flIOV)

def addsElem (ty : IntTy) (a b : Nat) : Nat × Word :=
  satElem ty (ival ty.isSigned (tyWidth ty) a + ival ty.isSigned (tyWidth ty) b)
def subsElem (ty : IntTy) (a b : Nat) : Nat × Word :=
  satElem ty (ival ty.isSigned (tyWidth ty) a - ival ty.isSigned (tyWidth ty) b)
def mulElem (_ : IntTy) (a b : Nat) : Nat × Word := (a * b, 0)

/-- High half of the exact product (R208). -/
def mulhElem (ty : IntTy) (a b : Nat) : Nat × Word :=
  let w := tyWidth ty
  (wrap w (ival ty.isSigned w a * ival ty.isSigned w b / (2 ^ w : Nat)), 0)

/-- Quotient, with the cases of R209. -/
def divElem (ty : IntTy) (a b : Nat) : Nat × Word :=
  let w := tyWidth ty
  let x := ival ty.isSigned w a
  let y := ival ty.isSigned w b
  if y == 0 then
    (wrap w (if x < 0 then intLo ty.isSigned w else intHi ty.isSigned w), flIDZ)
  else if ty.isSigned && y == -1 && x == intLo true w then (wrap w x, flIOV)
  else (wrap w (x.tdiv y), 0)

/-- Remainder, with the cases of R209. -/
def remElem (ty : IntTy) (a b : Nat) : Nat × Word :=
  let w := tyWidth ty
  let x := ival ty.isSigned w a
  let y := ival ty.isSigned w b
  if y == 0 then (a, flIDZ)
  else if ty.isSigned && y == -1 && x == intLo true w then (0, flIOV)
  else (wrap w (x - x.tdiv y * y), 0)

/-- a < b in the type's signedness. -/
def ltElem (ty : IntTy) (a b : Nat) : Bool := ival ty.isSigned (tyWidth ty) a < ival ty.isSigned (tyWidth ty) b

def minElem (ty : IntTy) (a b : Nat) : Nat × Word := (if ltElem ty a b then a else b, 0)
def maxElem (ty : IntTy) (a b : Nat) : Nat × Word := (if ltElem ty b a then a else b, 0)

def absElem (ty : IntTy) (a : Nat) : Nat := if sval (tyWidth ty) a < 0 then wrap (tyWidth ty) (-(a : Int)) else a
def negElem (ty : IntTy) (a : Nat) : Nat := wrap (tyWidth ty) (-(a : Int))

def andElem (_ : IntTy) (a b : Nat) : Nat × Word := (a &&& b, 0)
def orElem (_ : IntTy) (a b : Nat) : Nat × Word := (a ||| b, 0)
def xorElem (_ : IntTy) (a b : Nat) : Nat × Word := (a ^^^ b, 0)
/-- NOT within a width. -/
def notIn (w a : Nat) : Nat := 2 ^ w - 1 - a % 2 ^ w
def andnElem (ty : IntTy) (a b : Nat) : Nat × Word := (a &&& notIn (tyWidth ty) b, 0)
def notElem (ty : IntTy) (a : Nat) : Nat := notIn (tyWidth ty) a
def movElem (_ : IntTy) (a : Nat) : Nat := a

def shlElem (ty : IntTy) (a b : Nat) : Nat × Word := (a * 2 ^ (b % tyWidth ty), 0)
def shrElem (ty : IntTy) (a b : Nat) : Nat × Word := (a / 2 ^ (b % tyWidth ty), 0)
def sarElem (ty : IntTy) (a b : Nat) : Nat × Word :=
  let w := tyWidth ty
  (wrap w (sval w a / (2 ^ (b % w) : Nat)), 0)
def rotlElem (ty : IntTy) (a b : Nat) : Nat × Word :=
  let w := tyWidth ty
  (a * 2 ^ (b % w) + a / 2 ^ (w - b % w), 0)

/-- Number of one bits among the low `w`. -/
def popIn : Nat → Nat → Nat
  | 0, _ => 0
  | w + 1, a => a % 2 + popIn w (a / 2)

/-- Trailing zeros among the low `w` bits. -/
def ctzIn : Nat → Nat → Nat
  | 0, _ => 0
  | w + 1, a => if a % 2 = 1 then 0 else 1 + ctzIn w (a / 2)

/-- The low `w` bits in reverse order. -/
def revIn : Nat → Nat → Nat
  | 0, _ => 0
  | w + 1, a => a % 2 * 2 ^ w + revIn w (a / 2)

def popcElem (ty : IntTy) (a : Nat) : Nat := popIn (tyWidth ty) a
def clzElem (ty : IntTy) (a : Nat) : Nat := tyWidth ty - bitLen a
def ctzElem (ty : IntTy) (a : Nat) : Nat := ctzIn (tyWidth ty) a
def brevElem (ty : IntTy) (a : Nat) : Nat := revIn (tyWidth ty) a

/-- BFX of a value of the type: position and length (R213). -/
def bfxVal (ty : IntTy) (a p len : Nat) : Nat :=
  let w := tyWidth ty
  let n := min len w
  if n = 0 then 0 else wrap w (ival ty.isSigned n (wrap n (ival ty.isSigned w a / (2 ^ p : Nat))))

/-- BFI: the low n bits of a into a copy of c at position p (R213). -/
def bfiVal (ty : IntTy) (a p len base : Nat) : Nat :=
  let w := tyWidth ty
  let n := min len w
  if w ≤ p then base
  else (base % 2 ^ p + a % 2 ^ n * 2 ^ p + base / 2 ^ (p + n) * 2 ^ (p + n)) % 2 ^ w

/-- LEA (R214). -/
def leaVal (ty : IntTy) (a b sh : Nat) : Nat :=
  let w := tyWidth ty
  wrap w ((a : Int) + ival ty.isSigned 32 b * (2 ^ (sh % w) : Nat))

/-! ### The instructions -/

def execAdd (o : IntBin) (s : State) : Host.Outcome State Fault Refusal := issue (.add o) (intBin o true addElem) s
def execSub (o : IntBin) (s : State) : Host.Outcome State Fault Refusal := issue (.sub o) (intBin o true subElem) s
def execAdds (o : IntBin) (s : State) : Host.Outcome State Fault Refusal := issue (.adds o) (intBin o true addsElem) s
def execSubs (o : IntBin) (s : State) : Host.Outcome State Fault Refusal := issue (.subs o) (intBin o true subsElem) s
def execMul (o : IntBin) (s : State) : Host.Outcome State Fault Refusal := issue (.mul o) (intBin o true mulElem) s
def execMulh (o : IntBin) (s : State) : Host.Outcome State Fault Refusal := issue (.mulh o) (intBin o true mulhElem) s

/-- MAD: (a * b + c) mod 2^w per element (R208). -/
def execMad (o : IntTri) (s : State) : Host.Outcome State Fault Refusal :=
  issue (.mad o) (fun c => intTri o (fun l =>
    let w := tyWidth o.ty
    let n := tyCount o.ty
    let p := elemMap w (fun a b => (a * b % 2 ^ w, 0)) n (c.opnd o.ty o.a l) (c.opnd o.ty o.b l)
    tyRes o.ty (elemMap w (fun a b => (a + b, 0)) n p.1 (c.opnd o.ty (.v o.c) l))) c) s

/-- MADW: (ext64(a) * ext64(b) + c) mod 2^64 (R208). -/
def execMadw (o : IntTri) (s : State) : Host.Outcome State Fault Refusal :=
  issue (.madw o) (fun c => intTri o (fun l =>
    let a := ival o.ty.isSigned 32 (c.src o.a l).toNat
    let b := ival o.ty.isSigned 32 (c.src o.b l).toNat
    Res.d (BitVec.ofInt 64 (a * b + (c.src64 false (.v o.c) l).toNat))) c) s

def execDiv (o : IntBin) (s : State) : Host.Outcome State Fault Refusal := issue (.div o) (intBin o true divElem) s
def execRem (o : IntBin) (s : State) : Host.Outcome State Fault Refusal := issue (.rem o) (intBin o true remElem) s
def execMin (o : IntBin) (s : State) : Host.Outcome State Fault Refusal := issue (.min o) (intBin o true minElem) s
def execMax (o : IntBin) (s : State) : Host.Outcome State Fault Refusal := issue (.max o) (intBin o true maxElem) s
def execAbs (o : IntUn) (s : State) : Host.Outcome State Fault Refusal := issue (.abs o) (intUn o absElem) s
def execNeg (o : IntUn) (s : State) : Host.Outcome State Fault Refusal := issue (.neg o) (intUn o negElem) s
def execAnd (o : IntBin) (s : State) : Host.Outcome State Fault Refusal := issue (.and o) (intBin o true andElem) s
def execOr (o : IntBin) (s : State) : Host.Outcome State Fault Refusal := issue (.or o) (intBin o true orElem) s
def execXor (o : IntBin) (s : State) : Host.Outcome State Fault Refusal := issue (.xor o) (intBin o true xorElem) s
def execAndn (o : IntBin) (s : State) : Host.Outcome State Fault Refusal := issue (.andn o) (intBin o true andnElem) s
def execNot (o : IntUn) (s : State) : Host.Outcome State Fault Refusal := issue (.not o) (intUn o notElem) s
def execShl (o : IntBin) (s : State) : Host.Outcome State Fault Refusal := issue (.shl o) (intBin o false shlElem) s
def execShr (o : IntBin) (s : State) : Host.Outcome State Fault Refusal := issue (.shr o) (intBin o false shrElem) s
def execSar (o : IntBin) (s : State) : Host.Outcome State Fault Refusal := issue (.sar o) (intBin o false sarElem) s
def execRotl (o : IntBin) (s : State) : Host.Outcome State Fault Refusal := issue (.rotl o) (intBin o false rotlElem) s

/-- FUNS: a right funnel shift of A above C by B mod 64 (R211). -/
def execFuns (o : IntTri) (s : State) : Host.Outcome State Fault Refusal :=
  issue (.funs o) (fun c => intTri o (fun l =>
    let x := (c.src o.a l).toNat * 2 ^ 32 + (c.src (.v o.c) l).toNat
    Res.w (BitVec.ofNat 32 (x / 2 ^ ((c.src o.b l).toNat % 64)))) c) s

def execPopc (o : IntUn) (s : State) : Host.Outcome State Fault Refusal := issue (.popc o) (intCount o popcElem) s
def execClz (o : IntUn) (s : State) : Host.Outcome State Fault Refusal := issue (.clz o) (intCount o clzElem) s
def execCtz (o : IntUn) (s : State) : Host.Outcome State Fault Refusal := issue (.ctz o) (intCount o ctzElem) s
def execBrev (o : IntUn) (s : State) : Host.Outcome State Fault Refusal := issue (.brev o) (intUn o brevElem) s

def execBfx (o : IntTri) (s : State) : Host.Outcome State Fault Refusal :=
  issue (.bfx o) (fun c => intTri o (fun l =>
    tyRes o.ty (bfxVal o.ty (c.opnd o.ty o.a l) ((c.src o.b l).toNat % 256) ((c.src (.v o.c) l).toNat % 256), 0)) c) s

def execBfi (o : IntTri) (s : State) : Host.Outcome State Fault Refusal :=
  issue (.bfi o) (fun c => intTri o (fun l =>
    let b := (c.src o.b l).toNat
    tyRes o.ty (bfiVal o.ty (c.opnd o.ty o.a l) (b % 256) (b / 256 % 256) (c.opnd o.ty (.v o.c) l), 0)) c) s

def execLea (o : IntTri) (s : State) : Host.Outcome State Fault Refusal :=
  issue (.lea o) (fun c => intTri o (fun l =>
    tyRes o.ty (leaVal o.ty (c.opnd o.ty o.a l) (c.src o.b l).toNat (c.src (.v o.c) l).toNat, 0)) c) s

def execMov (o : IntUn) (s : State) : Host.Outcome State Fault Refusal := issue (.mov o) (intUn o movElem) s

end Sys2Proof.Machine
end

