-- ==== Sys2Proof/Machine/Lanes.lean ====
section
/-! DEFINITION. Compare, select, bit operations and the cross-lane group 0x20 to 0x28 (10 R215 to R221, 11 R243,
09 R200, R201). -/

namespace Sys2Proof.Machine

open Sys2Proof

/-- A word with one bit given. -/
def withBit (w : Word) (b : Nat) (v : Bool) : Word := if v then w ||| bitAt b else w &&& ~~~ bitAt b

/-- A destination's present value in lane l. -/
def Cx.dstOld (c : Cx) (d : Dst) (l : Nat) : Word :=
  match d with
  | .v k => c.vec k.toNat l
  | .s j => c.sca j.toNat

/-- CMP (R215). -/
def cmpEff (o : CmpOp) (c : Cx) : Eff :=
  c.lanewise o.guard o.dst (fun l =>
    let w := tyWidth o.ty
    let x := ival o.ty.isSigned w (c.opnd o.ty o.a l)
    let y := ival o.ty.isSigned w (c.opnd o.ty o.b l)
    Res.w (withBit (c.dstOld o.dst l) o.bit.toNat (condHolds o.cond (compare x y))))

def execCmp (o : CmpOp) (s : State) : Host.Outcome State Fault Refusal := issue (.cmp o) (cmpEff o) s

/-- Format of a floating-point type's elements and how many a word holds (R236). -/
def ftyFormat : FTy → Format
  | .f32 => fmtF32
  | .bf16x2 => fmtBf16
  | .f16x2 => fmtF16
def ftyCount : FTy → Nat
  | .f32 => 1
  | _ => 2

/-- FCMP: element k's result goes to bit b + k (R243). -/
def fcmpEff (o : FCmpOp) (c : Cx) : Eff :=
  c.lanewise o.guard o.dst (fun l =>
    let f := ftyFormat o.ty
    let a := (c.src o.a l).toNat
    let b := (c.src o.b l).toNat
    let r0 := fcmpElem f o.cond a b
    let d := withBit (c.dstOld o.dst l) o.bit.toNat r0.1
    if ftyCount o.ty == 1 then Res.w d r0.2
    else
      let r1 := fcmpElem f o.cond (a / 2 ^ 16) (b / 2 ^ 16)
      Res.w (withBit d (o.bit.toNat + 1) r1.1) (r0.2 ||| r1.2))

def execFcmp (o : FCmpOp) (s : State) : Host.Outcome State Fault Refusal := issue (.fcmp o) (fcmpEff o) s

/-- SEL (R216). -/
def selEff (o : SelOp) (c : Cx) : Eff :=
  c.lanewise none (.v o.dst) (fun l =>
    let k := (c.vec o.reg.toNat l).getLsbD o.bit.toNat != o.inv
    let x := if k then o.a else o.b
    match o.ty with
    | .word => Res.w (c.src x l)
    | .i64 => Res.d (c.src64 true x l)
    | .n64 => Res.d (c.src64 false x l))

def execSel (o : SelOp) (s : State) : Host.Outcome State Fault Refusal := issue (.sel o) (selEff o) s

/-- BITOP (R217). -/
def bitopEff (o : BitOp) (c : Cx) : Eff :=
  c.lanewise o.guard o.dst (fun l =>
    let d := c.dstOld o.dst l
    let x := d.getLsbD o.bit.toNat
    let v := match o.kind with
      | .set => true
      | .clr => false
      | .flip => !x
      | .and s k => x && (c.src s l).getLsbD k.toNat
      | .or s k => x || (c.src s l).getLsbD k.toNat
    Res.w (withBit d o.bit.toNat v))

def execBitop (o : BitOp) (s : State) : Host.Outcome State Fault Refusal := issue (.bitop o) (bitopEff o) s

def shflEff (o : ShflOp) (c : Cx) : Eff :=
  c.lanewise o.guard (.v o.dst) (fun l =>
    let m := shflLane o.mode l (c.src o.b l).toNat
    if o.pair then ⟨[c.word o.a 0 m, c.word o.a 1 m], 0⟩ else Res.w (c.word o.a 0 m))

def execShfl (o : ShflOp) (s : State) : Host.Outcome State Fault Refusal := issue (.shfl o) (shflEff o) s

/-- VOTE (R219). -/
def voteEff (o : VoteOp) (c : Cx) : Eff :=
  let lanes := c.lanes o.guard
  let on := lanes.filter (fun l => (c.src o.a l).getLsbD o.bit.toNat)
  let v : Word := match o.kind with
    | .any => if on.isEmpty then 0 else 1
    | .all => if on.length == lanes.length then 1 else 0
    | .ballot => maskOf on
  .write [(sKey o.dst.toNat, v)] 0

def execVote (o : VoteOp) (s : State) : Host.Outcome State Fault Refusal := issue (.vote o) (voteEff o) s

/-! ### Reductions and scans (R200, R201, R220) -/

def redWidth (ty : RedTy) : Nat := if ty.is64 then 64 else 32

def redSigned : RedTy → Bool
  | .i32 | .i64 => true
  | _ => false

/-- One combination of two values, with its flags. -/
def redOp (op : RedKind) (ty : RedTy) (x y : Nat) : Nat × Word :=
  let w := redWidth ty
  let lt (a b : Nat) : Bool := ival (redSigned ty) w a < ival (redSigned ty) w b
  match ty with
  | .f32 => match op with
    | .min => fminmaxElem fmtF32 false x y
    | .max => fminmaxElem fmtF32 true x y
    | _ => addF32 x y
  | _ => match op with
    | .add => ((x + y) % 2 ^ w, 0)
    | .min => (if lt x y then x else y, 0)
    | .max => (if lt y x then x else y, 0)
    | .and => (x &&& y, 0)
    | .or => (x ||| y, 0)
    | .xor => (x ^^^ y, 0)

/-- Identity of a reduction without lanes (R200). -/
def redIdentity (op : RedKind) (ty : RedTy) : Nat :=
  let w := redWidth ty
  match op with
  | .add | .or | .xor => 0
  | .and => 2 ^ w - 1
  | .min => if ty == .f32 then fmtF32.infEnc else wrap w (intHi (redSigned ty) w)
  | .max => if ty == .f32 then fmtF32.sbit + fmtF32.infEnc else wrap w (intLo (redSigned ty) w)

/-- One level of the tree: neighbours combine, an absent one gives way (R200). -/
def redLevel (op : RedKind) (ty : RedTy) : List (Option Nat) → List (Option Nat) × Word
  | some x :: some y :: rest =>
    let r := redOp op ty x y
    let t := redLevel op ty rest
    (some r.1 :: t.1, r.2 ||| t.2)
  | x :: y :: rest =>
    let t := redLevel op ty rest
    ((match x with
      | some v => some v
      | none => y) :: t.1, t.2)
  | l => (l, 0)

/-- Five levels over 32 lanes. -/
def redTree (op : RedKind) (ty : RedTy) : Nat → List (Option Nat) → Option Nat × Word
  | 0, l => (l.headD none, 0)
  | n + 1, l =>
    let r := redLevel op ty l
    let t := redTree op ty n r.1
    (t.1, r.2 ||| t.2)

/-- A lane's value of a reduction's source. -/
def Cx.redSrc (c : Cx) (ty : RedTy) (a : Src) (l : Nat) : Nat :=
  if ty.is64 then (c.src64 false a l).toNat else (c.src a l).toNat

def wredEff (o : WredOp) (c : Cx) : Eff :=
  let lanes := c.lanes o.guard
  let t := redTree o.op o.ty 5 ((List.range 32).map (fun l => if lanes.contains l then some (c.redSrc o.ty o.a l) else none))
  let v := t.1.getD (redIdentity o.op o.ty)
  let ws := if o.ty.is64 then [lowWord (BitVec.ofNat 64 v), highWord (BitVec.ofNat 64 v)] else [BitVec.ofNat 32 v]
  .write (dstWords (.s o.dst) 0 ws) t.2

def execWred (o : WredOp) (s : State) : Host.Outcome State Fault Refusal := issue (.wred o) (wredEff o) s

/-- Inclusive results of a scan in ascending lane order (R201). -/
def scanFrom (op : RedKind) (ty : RedTy) : Option Nat → List (Nat × Nat) → List (Nat × Nat) × Word
  | _, [] => ([], 0)
  | prev, (l, v) :: rest =>
    let r := match prev with
      | none => (v, 0)
      | some p => redOp op ty p v
    let t := scanFrom op ty (some r.1) rest
    ((l, r.1) :: t.1, r.2 ||| t.2)

/-- The exclusive form: each lane receives the result before it, the first the identity (R201). -/
def shiftScan (first : Nat) : List (Nat × Nat) → List (Nat × Nat)
  | [] => []
  | (l, v) :: rest => (l, first) :: shiftScan v rest

/-- WSCAN (R220). DESIGN CHOICE (log 113): an exclusive FP32 scan raises the flags of every addition of the inclusive one,
that of the last lane among them, whose sum no lane receives. -/
def wscanEff (o : WscanOp) (c : Cx) : Eff :=
  let lanes := c.lanes o.guard
  let r := scanFrom o.op o.ty none (lanes.map (fun l => (l, c.redSrc o.ty o.a l)))
  let vs := if o.excl then shiftScan (redIdentity o.op o.ty) r.1 else r.1
  let word (v : Nat) : List Word :=
    if o.ty.is64 then [lowWord (BitVec.ofNat 64 v), highWord (BitVec.ofNat 64 v)] else [BitVec.ofNat 32 v]
  .write ((vs.map (fun p => dstWords (.v o.dst) p.1 (word p.2))).flatten) r.2

def execWscan (o : WscanOp) (s : State) : Host.Outcome State Fault Refusal := issue (.wscan o) (wscanEff o) s

/-- MATCH (R221). -/
def matchEff (o : MatchOp) (c : Cx) : Eff :=
  let lanes := c.lanes o.guard
  let val (l : Nat) : Nat := if o.pair then (c.src64 false o.a l).toNat else (c.src o.a l).toNat
  c.lanewise o.guard (.v o.dst) (fun l => Res.w (maskOf (lanes.filter (fun m => val m == val l))))

def execMatchLanes (o : MatchOp) (s : State) : Host.Outcome State Fault Refusal := issue (.matchLanes o) (matchEff o) s

end Sys2Proof.Machine
end

