-- ==== Sys2Proof/Machine/Float.lean ====
section
/-! DEFINITION. The floating-point group 0x40 to 0x4E (11 R235 to R242), and conversion and packing 0x2A to 0x2D
(11 R244 to R249). -/

namespace Sys2Proof.Machine

open Sys2Proof

/-- Apply a three-operand operation to each of `n` elements of width `w`. -/
def elemMap3 (w : Nat) (f : Nat → Nat → Nat → Nat × Word) : Nat → Nat → Nat → Nat → Nat × Word
  | 0, _, _, _ => (0, 0)
  | n + 1, a, b, c =>
    let r := f (a % 2 ^ w) (b % 2 ^ w) (c % 2 ^ w)
    let rest := elemMap3 w f n (a / 2 ^ w) (b / 2 ^ w) (c / 2 ^ w)
    (r.1 % 2 ^ w + 2 ^ w * rest.1, r.2 ||| rest.2)

/-- A lane-wise operation on the elements of a floating-point type. -/
def fpLanes (ty : FTy) (g : Guard) (d : VReg) (a b c3 : Src) (f : Format → Nat → Nat → Nat → Nat × Word) (c : Cx) : Eff :=
  c.lanewise g (.v d) (fun l =>
    let fm := ftyFormat ty
    let r := elemMap3 fm.width (f fm) (ftyCount ty) (c.src a l).toNat (c.src b l).toNat (c.src c3 l).toNat
    Res.w (BitVec.ofNat 32 r.1) r.2)

def fBinR (o : FBinR) (f : Format → Rnd → Nat → Nat → Nat × Word) (c : Cx) : Eff :=
  fpLanes o.ty o.guard o.dst o.a o.b (.lit 0) (fun fm x y _ => f fm o.rnd x y) c

def fBin (o : FBin) (f : Format → Nat → Nat → Nat × Word) (c : Cx) : Eff :=
  fpLanes o.ty o.guard o.dst o.a o.b (.lit 0) (fun fm x y _ => f fm x y) c

def fUn (o : FUn) (f : Format → Nat → Nat × Word) (c : Cx) : Eff :=
  fpLanes o.ty o.guard o.dst o.a (.lit 0) (.lit 0) (fun fm x _ _ => f fm x) c

def faddElem (f : Format) (m : Rnd) (x y : Nat) : Nat × Word := f.sum m [f.decode x, f.decode y]
def fsubElem (f : Format) (m : Rnd) (x y : Nat) : Nat × Word := f.sum m [f.decode x, (f.decode y).negate]
def fmulElem (f : Format) (m : Rnd) (x y : Nat) : Nat × Word := f.ofFp m ((f.decode x).mul (f.decode y))
def fdivElem (f : Format) (m : Rnd) (x y : Nat) : Nat × Word := f.div m (f.decode x) (f.decode y)
def ffmaElem (f : Format) (x y z : Nat) : Nat × Word := f.sum .rne [(f.decode x).mul (f.decode y), f.decode z]
def fabsElem (f : Format) (x : Nat) : Nat × Word := (x % f.sbit, 0)
def fnegElem (f : Format) (x : Nat) : Nat × Word := (x ^^^ f.sbit, 0)
def fcpsElem (f : Format) (x y : Nat) : Nat × Word := (x % f.sbit + y / f.sbit % 2 * f.sbit, 0)

def execFadd (o : FBinR) (s : State) : Host.Outcome State Fault Refusal := issue (.fadd o) (fBinR o faddElem) s
def execFsub (o : FBinR) (s : State) : Host.Outcome State Fault Refusal := issue (.fsub o) (fBinR o fsubElem) s
def execFmul (o : FBinR) (s : State) : Host.Outcome State Fault Refusal := issue (.fmul o) (fBinR o fmulElem) s

/-- FFMA (R238). -/
def execFfma (o : FTri) (s : State) : Host.Outcome State Fault Refusal :=
  issue (.ffma o) (fpLanes o.ty o.guard o.dst o.a o.b (.v o.c) ffmaElem) s

def execFmin (o : FBin) (s : State) : Host.Outcome State Fault Refusal :=
  issue (.fmin o) (fBin o (fun f => fminmaxElem f false)) s
def execFmax (o : FBin) (s : State) : Host.Outcome State Fault Refusal :=
  issue (.fmax o) (fBin o (fun f => fminmaxElem f true)) s
def execFabs (o : FUn) (s : State) : Host.Outcome State Fault Refusal := issue (.fabs o) (fUn o fabsElem) s
def execFneg (o : FUn) (s : State) : Host.Outcome State Fault Refusal := issue (.fneg o) (fUn o fnegElem) s
def execFcps (o : FBin) (s : State) : Host.Outcome State Fault Refusal := issue (.fcps o) (fBin o fcpsElem) s
def execFclass (o : FUn) (s : State) : Host.Outcome State Fault Refusal :=
  issue (.fclass o) (fUn o (fun f x => (fclassElem f x, 0))) s
def execFdiv (o : FBinR) (s : State) : Host.Outcome State Fault Refusal := issue (.fdiv o) (fBinR o fdivElem) s

/-- FSCL: the count is the whole word, or each 16-bit element, signed (R242). -/
def execFscl (o : FBinR) (s : State) : Host.Outcome State Fault Refusal :=
  issue (.fscl o) (fBinR o (fun f m x y => fsclElem f m x (sval f.width y))) s

def execFxtr (o : FUn) (s : State) : Host.Outcome State Fault Refusal := issue (.fxtr o) (fUn o fxtrElem) s

/-- FDOT2: two products of packed pairs and an FP32 addend, one rounding (R238). -/
def execFdot2 (o : FTri) (s : State) : Host.Outcome State Fault Refusal :=
  issue (.fdot2 o) (fun c => c.lanewise o.guard (.v o.dst) (fun l =>
    let f := ftyFormat o.ty
    let a := (c.src o.a l).toNat
    let b := (c.src o.b l).toNat
    let r := fmtF32.sum .rne [(f.decode a).mul (f.decode b), (f.decode (a / 2 ^ 16)).mul (f.decode (b / 2 ^ 16)),
      fmtF32.decode (c.src (.v o.c) l).toNat]
    Res.w (BitVec.ofNat 32 r.1) r.2)) s

def execFsat (o : FUn) (s : State) : Host.Outcome State Fault Refusal := issue (.fsat o) (fUn o fsatElem) s

/-- FRND (R244). -/
def execFrnd (o : FrndOp) (s : State) : Host.Outcome State Fault Refusal :=
  issue (.frnd o) (fpLanes o.ty o.guard o.dst o.a (.lit 0) (.lit 0) (fun f x _ _ => frndElem f o.rnd x)) s

/-! ### Conversion and packing -/

def cvtEff (o : CvtOp) (c : Cx) : Eff :=
  c.lanewise o.guard (.v o.dst) (fun l =>
    let x := if o.sfmt.is64 then (c.src64 false o.a l).toNat else (c.src o.a l).toNat
    let r := match o.mode with
      | .rnd m => cvtElem o.dfmt o.sfmt m none x
      | .sr q => cvtElem o.dfmt o.sfmt .rne (some (c.src q l).toNat) x
    if o.dfmt.is64 then Res.d (BitVec.ofNat 64 r.1) r.2 else Res.w (BitVec.ofNat 32 r.1) r.2)

def execCvt (o : CvtOp) (s : State) : Host.Outcome State Fault Refusal := issue (.cvt o) (cvtEff o) s

/-- Width of a packed element (R184). -/
def fmtWidth : Fmt → Nat
  | .bf16 | .f16 | .i16 | .n16 => 16
  | .e2m1 => 4
  | _ => 8

/-- Source format of PACK's operands (R248). -/
def packSrc (f : Fmt) : Fmt := if (fmtInt? f).isSome then .i32 else .f32

/-- A word with element k of a width replaced. -/
def withElem (w k : Nat) (word x : Nat) : Nat :=
  word % 2 ^ (w * k) + x % 2 ^ w * 2 ^ (w * k) + word / 2 ^ (w * (k + 1)) * 2 ^ (w * (k + 1))

/-- PACK (R248). -/
def packEff (o : PackOp) (c : Cx) : Eff :=
  c.lanewise o.guard (.v o.dst) (fun l =>
    let w := fmtWidth o.fmt
    let e0 := cvtElem o.fmt (packSrc o.fmt) o.rnd none (c.src o.a l).toNat
    let e1 := cvtElem o.fmt (packSrc o.fmt) o.rnd none (c.src o.b l).toNat
    let k := 2 * o.pos.toNat
    Res.w (BitVec.ofNat 32 (withElem w (k + 1) (withElem w k (c.vec o.dst.toNat l).toNat e0.1) e1.1)) (e0.2 ||| e1.2))

def execPack (o : PackOp) (s : State) : Host.Outcome State Fault Refusal := issue (.pack o) (packEff o) s

/-- Widen one element: floats to FP32, integers to the register (R249). -/
def widenElem (f : Fmt) (x : Nat) : Nat × Word :=
  match fmtInt? f with
  | some (w, sg) => (wrap 32 (ival sg w x), 0)
  | none => cvtElem .f32 f .rne none x

def unpkEff (o : UnpkOp) (c : Cx) : Eff :=
  c.lanewise o.guard (.v o.dst) (fun l =>
    let w := fmtWidth o.fmt
    let a := (c.src o.a l).toNat
    let e0 := widenElem o.fmt (a / 2 ^ (w * (2 * o.pos.toNat)) % 2 ^ w)
    let e1 := widenElem o.fmt (a / 2 ^ (w * (2 * o.pos.toNat + 1)) % 2 ^ w)
    ⟨[BitVec.ofNat 32 e0.1, BitVec.ofNat 32 e1.1], e0.2 ||| e1.2⟩)

def execUnpk (o : UnpkOp) (s : State) : Host.Outcome State Fault Refusal := issue (.unpk o) (unpkEff o) s

end Sys2Proof.Machine
end

