-- ==== Sys2Proof/Machine/GlobalMem.lean ====
section
/-! DEFINITION. The global half of the memory group (12 R253 to R256, R258 to R261): addresses and checks, what a load
and a store do at issue by policy (04 R68, R71), atomics and reductions, fences, drains and line maintenance
(05 R96 to R105). -/

namespace Sys2Proof.Machine

open Sys2Proof

/-! ### Addresses and checks (R168, R253) -/

/-- The 64-bit base of lane l. -/
def Cx.base (c : Cx) (b : Base) (l : Nat) : DWord :=
  match b with
  | .v k => pairUp (c.vec k.toNat l) (c.vec (k.toNat + 1) l)
  | .s j => c.sca64 j

/-- A signed 32-bit offset, where form L gives one. -/
def offset64 (o : Option Word) : DWord := o.elim 0 (fun w => w.signExtend 64)

def scaleShift : Scale → Nat
  | .x1 => 0 | .x4 => 2 | .x8 => 3 | .x16 => 4

/-- Address of lane l: base, unsigned index times scale, offset, modulo 2^64 (R254). -/
def Cx.gaddr (c : Cx) (a : GAddr) (l : Nat) : DWord :=
  let idx : DWord := match a.idx with
    | none => 0
    | some d => (c.word (Dst.src d) 0 l).setWidth 64 <<< scaleShift a.scale
  c.base a.base l + idx + offset64 a.off

/-- Target of a physical address (R353). -/
def tgtOf (pa : Nat) : Tgt :=
  if pa < hbmEnd then .hbm pa else if pa < 0x5000000000000 then .host (pa % 2 ^ 48) else .fabric pa

/-- The first lane whose address is not a multiple of the width (R253). -/
def misaligned? (bytes : Nat) (addrs : List (Nat × DWord)) : Option DWord :=
  (addrs.find? (fun p => p.2.toNat % bytes != 0)).map (·.2)

/-- Addresses that passed every check, or what happens instead. -/
inductive Checked where
  | ok (l : List (Nat × DWord × Nat × Attr))
  | eff (e : Eff)

/-- Alignment, translation and protection of the lanes' addresses, in that order (R253, R349). `acc` is the ACC code
of R347. -/
def Cx.checkAddrs (c : Cx) (bytes acc : Nat) (bad : Nat → Attr → Bool) (addrs : List (Nat × DWord)) : Checked :=
  match misaligned? bytes addrs with
  | some a => .eff (.trap 0x04 0 (lowWord a))
  | none =>
    match warpXlats c.pre c.preW bad addrs with
    | .ok l => .ok l
    | .wait s => .eff (.stop (holdSlot s c.preW.uid c.n))
    | .stop _ va x s => .eff (.stop (xlatFail s c.preW x 0 acc va c.slot.pc))

/-- A read-only page takes no write (R352). -/
def roBad (_ : Nat) (a : Attr) : Bool := a.ro

/-- Atomics do not reach host memory (R259). -/
def atomBad (pa : Nat) (a : Attr) : Bool :=
  a.ro || (match tgtOf pa with
    | .host _ => true
    | _ => false)

/-- RED needs a memory-side page (R259). -/
def redBad (pa : Nat) (a : Attr) : Bool := atomBad pa a || !a.ms

/-- The policy of an access after demotion (R71, R352); a fallow page is served by its home. -/
def demote (store : Bool) (p : Policy) (pa : Nat) (a : Attr) : Policy :=
  if remotePa pa || !a.pa || a.fal then
    (match p with
     | .own => if store then .wt else .si
     | .wi => if store then .wi else .si
     | q => q)
  else p

/-! ### Operations in flight -/

/-- A word of an access with nothing received or done yet. -/
def OpWord.plain (lane j : Nat) (addr : DWord) (tgt : Tgt) (pol : Policy) (fal : Bool) (data expect : CWord) : OpWord :=
  { lane := lane, j := j, addr := addr, tgt := tgt, pol := pol, fal := fal, data := data, expect := expect,
    got := none, done := false, flags := 0, miss := none }

/-- The operation of an issuing instruction. -/
def Cx.newOp (c : Cx) (id : Nat) (kind : OpKind) (dst width : Nat) (words : List OpWord) (held : Bool) : Op :=
  { id := id, warp := c.w.uid, slot := c.n, pc := c.slot.pc, seq := c.preW.seq, kind := kind, ctr := c.instr.ctr,
    dst := dst, width := width, words := words, held := held, accepted := false }

/-- Words of the lanes' accesses: word j of a lane lies 4j bytes on. -/
def lanesWords (l : List (Nat × DWord × Nat × Attr)) (n : Nat) (f : Nat → Nat → DWord → Nat → Attr → OpWord) : List OpWord :=
  (l.map (fun p => (List.range n).map (fun j =>
    f p.1 j (p.2.1 + BitVec.ofNat 64 (4 * j)) (p.2.2.1 + 4 * j) p.2.2.2))).flatten

/-- Operations that reach memory by the global path (R91). -/
def OpKind.isGlobal : OpKind → Bool
  | .ld | .ldck | .st | .stck | .stnt | .atom _ | .red _ => true
  | _ => false

/-- Line and word of any global target, as an L1 keeps it: host memory and other devices have theirs above HBM's (R71,
R353). -/
def OpWord.line? (x : OpWord) : Option (Nat × Nat) :=
  match x.tgt with
  | .hbm pa | .fabric pa => some (pa / 128, pa / 4 % 32)
  | .host a => some ((hostBase + a) / 128, a / 4 % 32)
  | _ => none

/-- A write at home of an earlier store of the warp has not been served, and the domain has the word again by now: an owned
copy is written, any other becomes I, when the home serves the write (R81, logs 102, 103). -/
def homeWriteOpen (s : State) (o : Op) (x : OpWord) : Bool :=
  x.hbm?.elim false (fun p => s.reqs.any (fun r => r.op == o.id && r.kind == .wrh && r.line == p.1 && r.mask.getLsbD p.2 &&
    (l1Word? s r.src.core p.1 p.2).isSome))

/-- A word of an earlier access of the warp that a later access to the same word waits for (R92): a load without its
value, an atomic or reduction not performed, a store that waits for ownership or goes beyond HBM, a write at home of a
word that the domain has again, or any word of a release that still waits. -/
def wordOpen (s : State) (o : Op) (x : OpWord) : Bool :=
  o.held || (match o.kind with
    | .ld | .ldck => x.got.isNone
    | .atom _ | .red _ => !x.done
    | .st | .stck | .stnt => (!x.done && (x.pol == .own || x.hbm?.isNone)) || homeWriteOpen s o x
    | _ => false)

/-- An earlier global access of the warp to one of these words is still open (R92). -/
def globalConflict (s : State) (uid : Nat) (ws : List OpWord) : Bool :=
  s.ops.any (fun o => o.warp == uid && o.kind.isGlobal &&
    o.words.any (fun x => wordOpen s o x && ws.any (fun y => x.tgt == y.tgt)))

/-! ### Loads (R68) -/

/-- The words of an L1 that a policy's load may hit. -/
def hits (p : Policy) (st : WState) : Bool := p != .own || st == .ow

/-- The request a load of a policy makes. -/
def loadReq : Policy → ReqKind
  | .own => .own
  | .wi => .rwi
  | _ => .rsi

/-- A word that has no value yet and waits for no miss. -/
def OpWord.fresh (x : OpWord) : Bool := x.got.isNone && x.miss.isNone

/-- Lines that words without a value name, each once. -/
def freshLines (ws : List OpWord) : List Nat :=
  ((ws.filter OpWord.fresh).filterMap (fun x => x.line?.map (·.1))).eraseDups

/-- The domain's copy of a word, if it is valid for the word's policy (R68). -/
def OpWord.copy? (s : State) (dom : Nat) (x : OpWord) : Option L1Word :=
  if x.fal then none
  else (x.line?.bind (fun p => l1Word? s dom p.1 p.2)).bind (fun w => if hits x.pol w.st then some w else none)

/-- A plough has written a part of a line. -/
def ploughOn (s : State) (line : Nat) : Bool :=
  s.parts.any (fun p => p.target == line / 16 && decide (32 * (line % 16) < p.wpos) && decide (p.wpos < 32 * (line % 16) + 32))

/-- Two words of a load must come from one moment: the two of an aligned 8 bytes of a lane (R90), and those of a line that a
plough is writing (R113). -/
def together (s : State) (x y : OpWord) : Bool :=
  (x.line?.map (·.1)) == (y.line?.map (·.1)) && loadReq x.pol == loadReq y.pol &&
  ((x.lane == y.lane && x.j / 2 == y.j / 2) || x.line?.elim false (fun p => ploughOn s p.1))

/-- A valid word hits (R68). Where words must come from one moment, they hit if all are valid, and all are owned or none is:
the SI and WI words of a line come from one fill, and an owned word may be newer (R90, R113, log 101). -/
def wordHits (s : State) (dom : Nat) (ws : List OpWord) (x : OpWord) : Bool :=
  (x.copy? s dom).elim false (fun w => ws.all (fun y => !y.fresh || !together s x y ||
    (y.copy? s dom).elim false (fun v => (v.st == .ow) == (w.st == .ow))))

/-- A word takes its value from the L1 if it hits. -/
def lookWord (s : State) (dom : Nat) (ws : List OpWord) (x : OpWord) : OpWord :=
  if x.fresh && wordHits s dom ws x then { x with got := (x.copy? s dom).map (·.val) } else x

/-- Look the words of a load up in the L1; a hit gives the value and touches the line. -/
def lookWords (s : State) (dom : Nat) (ws : List OpWord) : State × List OpWord :=
  ((freshLines (ws.filter (wordHits s dom ws))).foldl (fun s line => l1Touch s dom line) s, ws.map (lookWord s dom ws))

/-- The domain does not own a word, so that its home is asked for it: loads of OW words never reach the home (R81). -/
def notOwned (s : State) (dom : Nat) (x : OpWord) : Bool :=
  x.fal || x.hbm?.elim true (fun p => (l1Word? s dom p.1 p.2).elim true (fun w => w.st != .ow))

/-- Lines that words still miss, each with its request, its mask and whether its page is fallow. -/
def missGroups (need : OpWord → Bool) (kind : OpWord → ReqKind) (ws : List OpWord) :
    List (Nat × ReqKind × Word × Bool) :=
  ws.foldl (fun g x =>
    match x.hbm? with
    | none => g
    | some (line, j) =>
      if !need x then g
      else if g.any (fun p => p.1 == line && p.2.1 == kind x) then
        g.map (fun p => if p.1 == line && p.2.1 == kind x then (line, kind x, p.2.2.1 ||| bitAt j, x.fal) else p)
      else g ++ [(line, kind x, bitAt j, x.fal)]) []

/-- Start a miss for each group of words that are needed and not owned, and tie every needed word of the line to it. -/
def startMisses (s : State) (dom op : Nat) (need : OpWord → Bool) (kind : OpWord → ReqKind) (ws : List OpWord) :
    State × List OpWord :=
  (missGroups (fun x => need x && notOwned s dom x) kind ws).foldl (fun r g =>
    let m := startMiss r.1 dom g.2.1 g.1 g.2.2.1 op g.2.2.2
    (m.2, r.2.map (fun x =>
      if need x && kind x == g.2.1 && (x.hbm?).elim false (fun p => p.1 == g.1) then { x with miss := some m.1 } else x)))
    (s, ws)

/-- The words of a load at issue: hits have their value, the others their miss; an owned word that waits with others takes
its own copy when the home serves them. A word beyond HBM that misses waits for its landing. -/
def loadWords (s : State) (dom op : Nat) (ws : List OpWord) : State × List OpWord :=
  let r := lookWords s dom ws
  startMisses r.1 dom op OpWord.fresh (fun x => loadReq x.pol) r.2

/-- Issue a load whose words are known. -/
def Cx.issueLoad (c : Cx) (kind : OpKind) (dst width : Nat) (ws : List OpWord) (acq : Bool) (sc : Scope) : Eff :=
  if globalConflict c.pre c.w.uid ws then .hold
  else
    let (id, s) := fresh c.s
    let r := loadWords s (domainOf s c.w.core) id ws
    let s := { r.1 with ops := r.1.ops ++ [c.newOp id kind dst width r.2 false] }
    .go (if acq then startAcquire s c.w.uid sc (some id) none else s) []

/-- LD and LDCK (R254, R256). -/
def loadEff (kind : OpKind) (o : MemOp) (c : Cx) : Eff :=
  let n := o.width.words
  match c.checkAddrs (4 * n) 0 (fun _ _ => false) ((c.lanes o.guard).map (fun l => (l, c.gaddr o.addr l))) with
  | .eff e => e
  | .ok l =>
    c.issueLoad kind (match o.data with
      | .v k => k.toNat
      | .s _ => 0) n
      (lanesWords l n (fun lane j va pa a =>
        OpWord.plain lane j va (tgtOf pa) (demote false o.pol pa a) a.fal (good 0) (good 0))) o.ord o.scope

def execLd (o : MemOp) (s : State) : Host.Outcome State Fault Refusal := issue (.ld o) (loadEff .ld o) s
def execLdck (o : MemOp) (s : State) : Host.Outcome State Fault Refusal := issue (.ldck o) (loadEff .ldck o) s

/-! ### Stores (R68) -/

/-- Of several lanes that name one word, the highest writes (R89). -/
def lastWriters : List OpWord → List OpWord
  | [] => []
  | x :: rest => if rest.any (fun y => y.tgt == x.tgt) then lastWriters rest else x :: lastWriters rest

/-- A word of a `.own` store that has not been written, at a line and word of HBM. -/
def OpWord.unwritten? (x : OpWord) : Option (Nat × Nat) := if x.pol == .own && !x.done then x.hbm? else none

/-- A word can be written in the domain's copy: it is owned, and so is its partner in an aligned 8 bytes of its lane, so
that no read sees the two apart (R90). -/
def pairOwned (s : State) (dom : Nat) (ws : List OpWord) (x : OpWord) : Bool :=
  ws.all (fun y => y.lane != x.lane || y.j / 2 != x.j / 2 ||
    y.unwritten?.elim true (fun p => (l1Word? s dom p.1 p.2).elim false (fun w => w.st == .ow)))

/-- Write the words that the domain owns, and ask for the others (R68). -/
def ownWords (s : State) (dom op : Nat) (ws : List OpWord) : State × List OpWord :=
  let r := ws.foldl (fun (r : State × List OpWord) x =>
    match x.unwritten? with
    | some (line, j) =>
      if pairOwned s dom ws x then
        (l1Touch (writeOwned r.1 dom line j x.data) dom line, r.2 ++ [{ x with done := true, miss := none }])
      else (r.1, r.2 ++ [x])
    | none => (r.1, r.2 ++ [x])) (s, [])
  startMisses r.1 dom op (fun x => x.pol == .own && !x.done && x.miss.isNone) (fun _ => .own) r.2

/-- Lines written at home, or at their target beyond HBM, with their words and whether their page is fallow. -/
def homeGroups (ws : List OpWord) : List (Nat × Tab CWord × Bool) :=
  ws.foldl (fun g x =>
    match x.line? with
    | none => g
    | some (line, j) =>
      if x.pol == .own then g
      else if g.any (fun p => p.1 == line) then
        g.map (fun p => if p.1 == line then (line, tset p.2.1 j x.data, x.fal) else p)
      else g ++ [(line, [(j, x.data)], x.fal)]) []

/-- Send the writes at home of a store; the domain's copies that it does not own become I (R68), and an owned copy is
written when the home serves the write (R81, log 103). Host memory and other devices are written when they acknowledge.
-/
def sendWrites (s : State) (dom op : Nat) (ws : List OpWord) : State :=
  (homeGroups ws).foldl (fun s g =>
    let mask := maskOf (g.2.1.map (·.1))
    let s := dropCopies s dom g.1 mask
    if 128 * g.1 < hbmEnd then
      (sendReq s { Req.plain (.dom dom (fusedOf s dom)) .wrh g.1 mask with words := g.2.1, op := op, fal := g.2.2 }).2
    else s) s

/-- Let a store's words go: owned ones are written or asked for, the others are sent to their homes. -/
def performStore (s : State) (core : Nat) (o : Op) : State :=
  let dom := domainOf s core
  let s := sendWrites s dom o.id o.words
  let r := ownWords s dom o.id o.words
  setOp r.1 { o with words := r.2, held := false }

/-- Issue a store whose words are known; with `.rel` it first makes its release wait (R96, R372). -/
def Cx.issueStore (c : Cx) (kind : OpKind) (ws : List OpWord) (rel : Bool) : Eff :=
  let ws := lastWriters ws
  if globalConflict c.pre c.w.uid ws then .hold
  else
    let (id, s) := fresh c.s
    let o := c.newOp id kind 0 0 ws rel
    let s := { s with ops := s.ops ++ [o] }
    .go (if rel then s else performStore s c.w.core o) []

/-- Register word j of a store's data in lane l. -/
def Cx.dataWord (c : Cx) (d : Dst) (j l : Nat) : Word := c.word (Dst.src d) j l

/-- ST and STNT (R254). -/
def storeEff (kind : OpKind) (o : MemOp) (c : Cx) : Eff :=
  let n := o.width.words
  match c.checkAddrs (4 * n) 1 roBad ((c.lanes o.guard).map (fun l => (l, c.gaddr o.addr l))) with
  | .eff e => e
  | .ok l =>
    c.issueStore kind (lanesWords l n (fun lane j va pa a =>
      OpWord.plain lane j va (tgtOf pa) (demote true o.pol pa a) a.fal (good (c.dataWord o.data j lane)) (good 0))) o.ord

def execSt (o : MemOp) (s : State) : Host.Outcome State Fault Refusal := issue (.st o) (storeEff .st o) s
def execStnt (o : MemOp) (s : State) : Host.Outcome State Fault Refusal := issue (.stnt o) (storeEff .stnt o) s

/-- STCK: the word carries the given check (R256). -/
def stckEff (o : MemOp) (c : Cx) : Eff :=
  match c.checkAddrs 4 1 roBad ((c.lanes o.guard).map (fun l => (l, c.gaddr o.addr l))) with
  | .eff e => e
  | .ok l =>
    c.issueStore .stck (lanesWords l 1 (fun lane j va pa a =>
      OpWord.plain lane j va (tgtOf pa) .wt a.fal
        (CWord.ofCheck (c.dataWord o.data 0 lane) ((c.dataWord o.data 1 lane).setWidth 8)) (good 0))) o.ord

def execStck (o : MemOp) (s : State) : Host.Outcome State Fault Refusal := issue (.stck o) (stckEff o) s

/-! ### PREF, INVL, WBL -/

/-- Lanes whose address translates, with their physical address and attributes; the others are dropped. A result outside
the partition's ranges freezes the core, as every master's does (R359). -/
def Cx.quietAddrs (c : Cx) (addrs : List (Nat × DWord)) : Checked :=
  let xs := addrs.map (fun p => (p, xlatNow c.pre c.w.core (partOf c.pre c.w) (ctxOf c.pre c.w) p.2))
  let tables := (addrs.map (fun p => tablePlaces c.pre c.w.core (partOf c.pre c.w) (ctxOf c.pre c.w) p.2)).flatten
  let who : ReqSrc := .warp c.w.uid c.n
  if tables.any (Place.waits c.pre who false) then
    .eff (.stop (holdSlot (holdOwn c.pre who (.read 1) tables) c.preW.uid c.n))
  else match xs.find? (fun q => match q.2 with
    | .freeze _ _ _ => true
    | _ => false) with
  | some q => .eff (.stop (xlatFail c.pre c.preW q.2 0 0 q.1.2 c.slot.pc))
  | none => .ok (xs.filterMap (fun q => match q.2 with
    | .ok pa a _ => some (q.1.1, q.1.2, pa, a)
    | _ => none))

/-- Ask for the lines beyond HBM that words of a PREF miss: each fills its line as SI words when it arrives (R71). -/
def prefetchRemote (s : State) (dom : Nat) (ws : List OpWord) : State :=
  (freshLines (ws.filter (fun x => x.hbm?.isNone && !x.fal))).foldl (fun s line =>
    let (id, s) := fresh s
    let (reply, s) := fresh s
    { s with
      misses := s.misses ++ [{ id := id, dom := dom, line := line, kind := .rsi, firstSlot := 0, notices := 0 }],
      replies := s.replies ++ [{ id := reply, dom := dom, line := line, grant := false, wi := false, words := [], own := [],
                                 gone := 0, miss := id, ownNotice := none, ownSlot := none, sent := s.cycle }] }) s

/-- PREF (R255): the words are asked for as a load would; nothing waits for them. -/
def prefEff (o : MemOp) (c : Cx) : Eff :=
  let n := o.width.words
  let addrs := ((c.lanes o.guard).map (fun l => (l, c.gaddr o.addr l))).filter (fun p => p.2.toNat % (4 * n) == 0)
  match c.quietAddrs addrs with
  | .eff e => e
  | .ok l =>
    let ws := lanesWords l n (fun lane j va pa a =>
      OpWord.plain lane j va (tgtOf pa) (demote false o.pol pa a) a.fal (good 0) (good 0))
    let dom := domainOf c.s c.w.core
    let r := loadWords c.s dom 0 ws
    .go (prefetchRemote r.1 dom r.2) []

def execPref (o : MemOp) (s : State) : Host.Outcome State Fault Refusal := issue (.pref o) (prefEff o) s

/-- INVL and WBL (R261): each line that a lane names. -/
def lineEff (f : State → Nat → Nat → State) (o : LineOp) (c : Cx) : Eff :=
  match c.quietAddrs ((c.lanes o.guard).map (fun l => (l, c.base o.base l + offset64 o.off))) with
  | .eff e => e
  | .ok l => .go ((l.map (fun p => p.2.2.1 / 128)).foldl (fun s line => f s (domainOf s c.w.core) line) c.s) []

def execInvl (o : LineOp) (s : State) : Host.Outcome State Fault Refusal := issue (.invl o) (lineEff dropShared o) s
def execWbl (o : LineOp) (s : State) : Host.Outcome State Fault Refusal := issue (.wbl o) (lineEff surrender o) s

/-! ### Atomics (R258, R259) -/

/-- Words of an operand of an atomic. -/
def atomCount (k : AtomKind) : Nat := if k.is64 then 2 else 1

/-- New value of the word or pair, and the flags raised (R258). -/
def atomOp (k : AtomKind) (old b d : DWord) : DWord × Word :=
  let x := lowWord old
  let y := lowWord b
  let w (v : Word) (fl : Word) : DWord × Word := (v.setWidth 64, fl)
  let f (r : Nat × Word) : DWord × Word := (BitVec.ofNat 64 r.1, r.2)
  match k with
  | .addI32 => w (x + y) 0
  | .addI64 => (old + b, 0)
  | .addF32 => f (faddElem fmtF32 .rne x.toNat y.toNat)
  | .minI32 => w (if y.slt x then y else x) 0
  | .minN32 => w (if y.ult x then y else x) 0
  | .minF32 => f (fminmaxElem fmtF32 false x.toNat y.toNat)
  | .maxI32 => w (if x.slt y then y else x) 0
  | .maxN32 => w (if x.ult y then y else x) 0
  | .maxF32 => f (fminmaxElem fmtF32 true x.toNat y.toNat)
  | .and => w (x &&& y) 0
  | .or => w (x ||| y) 0
  | .xor => w (x ^^^ y) 0
  | .xchg => w y 0
  | .xchg64 => (b, 0)
  | .cas => w (if x == lowWord d then y else x) 0
  | .cas64 => (if old == d then b else old, 0)
  | .incw => w (if x.ult y then x + 1 else 0) 0

/-- A list of one or two words as a 64-bit value. -/
def wordsVal (l : List Word) : DWord := pairUp (l.headD 0) (l.getD 1 0)

/-- Send the requests of an atomic or a reduction, lane by lane (R89, R259); copies that the domain does not own go
(R104). -/
def performAtomics (s : State) (core : Nat) (o : Op) (kind : ReqKind) : State :=
  let dom := domainOf s core
  let lanes := (o.words.map (·.lane)).eraseDups
  let s := lanes.foldl (fun s l =>
    let ws := o.words.filter (fun x => x.lane == l)
    match (ws.head?).bind OpWord.line? with
    | none => s
    | some (line, j) =>
      let mask := maskOf (ws.map (fun x => j + x.j))
      let s := dropCopies s dom line mask
      if hbmEnd ≤ 128 * line then s else (sendReq s { Req.plain (.dom dom (fusedOf s dom)) kind line mask with
        words := ws.map (fun x => (j + x.j, x.data)), expect := ws.map (fun x => (j + x.j, x.expect)), op := o.id,
        lane := l, fal := ws.any (·.fal) }).2) s
  setOp s { o with held := false }

/-- Words of the lanes of an atomic or a reduction. -/
def Cx.atomWords (c : Cx) (k : AtomKind) (b : Src) (d : Option VReg) (l : List (Nat × DWord × Nat × Attr)) : List OpWord :=
  lanesWords l (atomCount k) (fun lane j va pa a =>
    OpWord.plain lane j va (tgtOf pa) .wt a.fal (good (c.word b j lane))
      (good (match d with
        | some r => c.vec (r.toNat + j) lane
        | none => 0)))

/-- Issue an atomic or a reduction. -/
def Cx.issueAtomics (c : Cx) (kind : OpKind) (req : ReqKind) (dst width : Nat) (ws : List OpWord) (rel acq : Bool)
    (sc : Scope) : Eff :=
  if globalConflict c.pre c.w.uid ws then .hold
  else
    let (id, s) := fresh c.s
    let o := c.newOp id kind dst width ws rel
    let s := { s with ops := s.ops ++ [o] }
    let s := if rel then s else performAtomics s c.w.core o req
    .go (if acq then startAcquire s c.w.uid sc (some id) none else s) []

def Order.acquires (o : Order) : Bool := o == .acq || o == .ar
def Order.releases (o : Order) : Bool := o == .rel || o == .ar

/-- ATOM (R258). -/
def atomEff (o : AtomOp) (c : Cx) : Eff :=
  match c.checkAddrs (4 * atomCount o.kind) 2 atomBad ((c.lanes o.guard).map (fun l => (l, c.base o.base l + offset64 o.off))) with
  | .eff e => e
  | .ok l =>
    c.issueAtomics (.atom o.kind) (.atomic o.kind) o.dst.toNat (atomCount o.kind)
      (c.atomWords o.kind o.b (some o.dst) l) (Order.releases o.ord) (Order.acquires o.ord) o.scope

def execAtom (o : AtomOp) (s : State) : Host.Outcome State Fault Refusal := issue (.atom o) (atomEff o) s

/-- RED (R258, R259); `.ar` acts as `.rel`. -/
def redEff (o : RedOp) (c : Cx) : Eff :=
  match c.checkAddrs (4 * atomCount o.kind) 2 redBad ((c.lanes o.guard).map (fun l => (l, c.base o.base l + offset64 o.off))) with
  | .eff e => e
  | .ok l =>
    c.issueAtomics (.red o.kind) (.reduce o.kind) 0 0 (c.atomWords o.kind o.b none l) (Order.releases o.ord) false o.scope

def execRed (o : RedOp) (s : State) : Host.Outcome State Fault Refusal := issue (.red o) (redEff o) s

/-! ### Fences and drains (R260) -/

/-- FENCE: its release wait is made by an operation that `fenceHolds` sees; `.acq` starts its acquire now, `.ar` when
the release wait ends (R99). -/
def fenceEff (o : FenceOp) (c : Cx) : Eff :=
  match o.ord with
  | .acq => .go (startAcquire c.s c.w.uid o.scope none (some c.preW.seq)) []
  | ord =>
    let (id, s) := fresh c.s
    .go { s with ops := s.ops ++ [c.newOp id (.fence true (ord != .rel) o.scope) 0 0 [] true] } []

def execFence (o : FenceOp) (s : State) : Host.Outcome State Fault Refusal := issue (.fence o) (fenceEff o) s

/-- Hold back the warp's later instructions (R103 to R105). -/
def Cx.holdLater (c : Cx) (k : HoldKind) : Eff :=
  .go (setWarp c.s { c.w with holds := c.w.holds ++ [(k, c.preW.seq)] }) []

def execDrnt (s : State) : Host.Outcome State Fault Refusal := issue .drnt (fun c => c.holdLater .drnt) s
def execRedf (sc : Scope) (s : State) : Host.Outcome State Fault Refusal := issue (.redf sc) (fun c => c.holdLater .redf) s

/-- RSYNC (R27, R260). -/
def execRsync (s : State) : Host.Outcome State Fault Refusal :=
  issue .rsync (fun c => .go (flushWindow c.s c.w) []) s

end Sys2Proof.Machine
end

