-- ==== Sys2Proof/Machine/Watch.lean ====
section
/-! DEFINITION. Slots that wait on a word of a scratchpad (12 R265): their comparison, their watch entries, and the
re-evaluation that every write to a word makes. -/

namespace Sys2Proof.Machine

open Sys2Proof

/-- The awaited comparison. -/
def waitHolds (w : WordWait) (x : Word) : Bool :=
  let v (y : Word) : Int := if w.signed then y.toInt else (y.toNat : Int)
  condHolds w.cond (compare (v x) (v w.value))

/-- Scope of an acquire on a store word: `.quad`, or `.die` in a spread team (R98). -/
def wordScope (s : State) (w : Warp) : Scope :=
  if (findTeam? s w.team).elim false Team.spread then .die else .quad

/-- Watch entries in use on a core. -/
def entriesUsed (s : State) (core : Nat) : Nat :=
  ((s.warps.filter (fun w => w.core == core)).map (fun w => (w.allSlots.filter (fun x => match x.block with
    | .waitw k => k.entry
    | _ => false)).length)).foldl (· + ·) 0

/-- Where a slot that waits on a word stands: in the slot itself, or saved while the warp is in trap mode. -/
def waitingSlot? (w : Warp) (n : Bool) : Option (Bool × Slot × WordWait) :=
  let look (saved : Bool) (x : Option Slot) : Option (Bool × Slot × WordWait) :=
    x.bind (fun y => match y.block with
      | .waitw k => some (saved, y, k)
      | _ => none)
  match look false (w.slot? n) with
  | some r => some r
  | none => w.trap.bind (fun t => look true (if n then t.slot1 else t.slot0))

def putWaiting (w : Warp) (n saved : Bool) (x : Slot) : Warp :=
  if saved then
    { w with trap := w.trap.map (fun t => if n then { t with slot1 := some x } else { t with slot0 := some x }) }
  else w.setSlot n (some x)

/-- Read the word again for a waiting slot: consume it, and let the slot go if it compares (R142, R265). -/
def reevaluate (s : State) (w : Warp) (n saved : Bool) (x : Slot) (k : WordWait) : State :=
  let m := s.store.word k.key
  if !m.isGood then containBad s w m ((ones x.mask).headD 0) k.pc (k.addr.setWidth 64)
  else if waitHolds k m.data then
    let s := setWarp s (putWaiting w n saved { x with block := .none })
    if k.acq then startAcquire s w.uid (wordScope s w) none none else s
  else setWarp s (putWaiting w n saved { x with block := .waitw k })

/-- An event of a slot that waits on a word; `f` gives its wait as it reads again, if it does. -/
def waitwEvent (s : State) (uid : Nat) (n : Bool) (f : Warp → WordWait → Option WordWait) : State :=
  match findWarp? s uid with
  | none => s
  | some w =>
    if !isResident s w then s
    else match waitingSlot? w n with
    | none => s
    | some (saved, x, k) =>
      match f w k with
      | none => s
      | some k => reevaluate s w n saved x k

/-- The operation may read a word, and has not ended. -/
def MxOp.reads (o : MxOp) (key : Nat) : Bool :=
  o.ended.isNone && o.spans.any (fun x => decide (x.1 ≤ key) && decide (key < x.1 + x.2))

/-- What a write by a warp's operation, or by another agent, adds to an operation's earlier values of a word. -/
def MxOp.keep (o : MxOp) (key : Nat) (old : CWord) (by_ : Option (Nat × Nat)) : MxOp :=
  match by_ with
  | some (warp, id) =>
    if warp == o.warp && decide (id < o.id) then { o with olds := o.olds.filter (fun p => p.1 != key) }
    else { o with olds := o.olds ++ [(key, old)] }
  | none => { o with olds := o.olds ++ [(key, old)] }

/-- A word of a store is about to be written: the array's operations on their way keep the value it had, since they may
have read it (R280). `by_` is the writing warp and operation: an STS before the operation reaches its bank before the
first read, so nothing older than it is read. -/
def keepOld (s : State) (key : Nat) (by_ : Option (Nat × Nat)) : State :=
  if s.mx.any (fun e => e.op.reads key) then
    { s with mx := s.mx.map (fun e => if e.op.reads key then { e with op := e.op.keep key (s.store.word key) by_ } else e) }
  else s

/-- A word of a store has been written: every waiting slot that holds a watch entry for it reads it again (R265). -/
def wroteWord (s : State) (key : Nat) : State :=
  let watches (x : Slot) : Bool := match x.block with
    | .waitw k => k.entry && k.key == key
    | _ => false
  (s.warps.filter (fun w => w.allSlots.any watches)).foldl (fun s w =>
    [false, true].foldl (fun s n =>
      waitwEvent s w.uid n (fun _ k => if k.entry && k.key == key then some k else none)) s) s

/-- Write a word of a banked store, by a warp's operation or by another agent. -/
def writeStore (s : State) (key : Nat) (x : CWord) (by_ : Option (Nat × Nat)) : State :=
  let s := keepOld s key by_
  wroteWord { s with store := s.store.setWord key x } key

end Sys2Proof.Machine
end

