-- ==== Sys2Proof/Machine/Scratch.lean ====
section
/-! DEFINITION. The store half of the memory group (12 R257, R258): LDS, STS and ATOMS at the banks, their checks (03
R52, R53), errors of registers read through the alias (R54), and the pass count (03 R55 to R57). -/

namespace Sys2Proof.Machine

open Sys2Proof

/-- A word that a lane's access covers: lane, word number, store address, and where it leads. -/
structure BankWord where
  lane : Nat
  j : Nat
  addr : Word
  tgt : StoreTgt

/-- Core, store address and key of a target. -/
def StoreTgt.place (s : State) (w : Warp) : StoreTgt → Nat × Nat × Nat
  | .word core addr _ => (core, addr, storeKey core (planeAt s w core) addr)
  | .reg x k l => (x.core, x.regBase + 256 + 4 * (32 * k + l), regBank s x + vKey k l)

def StoreTgt.writable : StoreTgt → Bool
  | .word _ _ ok => ok
  | .reg _ _ _ => true

def StoreTgt.isAlias : StoreTgt → Bool
  | .word _ _ _ => false
  | .reg _ _ _ => true

/-- Store address of lane l of LDS or STS (R257). -/
def Cx.saddr (c : Cx) (o : StoreOp) (l : Nat) : Word :=
  c.sca o.base.toNat + (o.added.elim 0 (fun d => c.word (Dst.src d) 0 l)) + o.off.getD 0

/-- Words of the lanes' accesses, or the failure of R53: alignment, then protection, each for the lowest lane. -/
inductive BankChecked where
  | ok (l : List BankWord)
  | eff (e : Eff)

/-- Resolve one lane's words; none where a check of R53 fails. -/
def laneBankWords (s : State) (w : Warp) (n : Nat) (ok : StoreTgt → Bool) (l : Nat) (a : Word) : Option (List BankWord) :=
  (List.range n).foldl (fun r j =>
    match r with
    | none => none
    | some t =>
      let b := a + BitVec.ofNat 32 (4 * j)
      match storeTgt s w b with
      | none => none
      | some g => if ok g then some (t ++ [⟨l, j, b, g⟩]) else none) (some [])

/-- Check the lanes' store addresses (R53); `acc` is the ACC code of R347. -/
def Cx.checkBank (c : Cx) (n acc : Nat) (ok : StoreTgt → Bool) (addrs : List (Nat × Word)) : BankChecked :=
  match addrs.find? (fun p => p.2.toNat % (4 * n) != 0) with
  | some p => .eff (.trap 0x04 0 p.2)
  | none =>
    match addrs.find? (fun p => (laneBankWords c.pre c.preW n ok p.1 p.2).isNone) with
    | some p => .eff (.stop (xlatFail c.pre c.preW (.prot false) 0 acc (p.2.setWidth 64) c.slot.pc))
    | none => .ok ((addrs.map (fun p => (laneBankWords c.pre c.preW n ok p.1 p.2).getD [])).flatten)

/-- Passes that a group of accesses takes: the most distinct words that one bank of one core serves (R55). -/
def passesOf (ws : List (Nat × Nat)) : Nat :=
  let u := ws.eraseDups
  u.foldl (fun m p => Nat.max m (u.filter (fun q => q.1 == p.1 && q.2 / 4 % 256 == p.2 / 4 % 256)).length) 0

/-- Passes of an access (R55, R56). -/
def Cx.passes (c : Cx) (n : Nat) (ws : List BankWord) : Nat :=
  let place (b : BankWord) : Nat × Nat := let p := b.tgt.place c.pre c.preW; (p.1, p.2.1)
  let whole := passesOf (ws.map place)
  if n == 4 && 1 < whole then
    passesOf ((ws.filter (fun b => b.lane < 16)).map place) + passesOf ((ws.filter (fun b => 16 ≤ b.lane)).map place)
  else whole

/-- The counted state with the replay passes in PASSES (R57). DESIGN CHOICE (log 106): an access without a participating
lane, for which P is 0, adds nothing. -/
def Cx.withPasses (c : Cx) (n : Nat) (ws : List BankWord) : State :=
  setWarp c.s { c.w with passes := c.w.passes + BitVec.ofNat 32 (c.passes n ws - 1) }

/-- Correct a single-bit error of a register word (R54). -/
def correctReg (s : State) (core key addr : Nat) : State :=
  let s := { s with upsets := terase s.upsets key, mgc := { s.mgc with seccnt := sat32 s.mgc.seccnt } }
  recordEvent s (dieOf core) 0x08 core (BitVec.ofNat 32 addr)

/-- A word read at its bank: a store word with its check, or a register word with a generated one; none for a register
word with a double-bit error (R54). -/
def bankRead (s : State) (w : Warp) (t : StoreTgt) : State × Option CWord :=
  let p := t.place s w
  if t.isAlias then
    match tget? s.upsets p.2.2 with
    | some true => (s, none)
    | some false => (correctReg s p.1 p.2.2 p.2.1, some (good (s.store.word p.2.2).data))
    | none => (s, some (good (s.store.word p.2.2).data))
  else (s, some (s.store.word p.2.2))

/-- What an access of the store paths holds of a word (R91). -/
def BankWord.opWord (s : State) (w : Warp) (b : BankWord) : OpWord :=
  let tgt : Tgt := match b.tgt with
    | .reg x k l => .reg x.uid (vKey k l)
    | t => .store (t.place s w).2.2
  OpWord.plain b.lane b.j (b.addr.setWidth 64) tgt .wt false (good 0) (good 0)

/-- An earlier STS of the warp to one of these words, by the same path, has not reached its bank (R92). -/
def bankConflict (s : State) (w : Warp) (ws : List BankWord) : Bool :=
  s.ops.any (fun o => o.warp == w.uid && o.kind == .sts &&
    o.words.any (fun x => ws.any (fun b => (b.opWord s w).tgt == x.tgt)))

/-- Read the words of an LDS in order; a double-bit error stops it. -/
def readBanks (s : State) (w : Warp) : List BankWord → State × List OpWord × Option BankWord
  | [] => (s, [], none)
  | b :: rest =>
    match bankRead s w b.tgt with
    | (s, none) => (s, [], some b)
    | (s, some v) =>
      let r := readBanks s w rest
      (r.1, { b.opWord s w with got := some v } :: r.2.1, r.2.2)

/-- LDS (R257): the banks are read at issue, the value lands later. -/
def ldsEff (o : StoreOp) (c : Cx) : Eff :=
  let n := o.width.words
  match c.checkBank n 0 (fun _ => true) ((c.lanes o.guard).map (fun l => (l, c.saddr o l))) with
  | .eff e => e
  | .ok ws =>
    if bankConflict c.pre c.preW ws then .hold else
    let r := readBanks (c.withPasses n ws) c.preW ws
    match r.2.2 with
    | some b => .stop (contain c.pre c.preW 2 b.lane 0x07 c.slot.pc (b.addr.setWidth 64))
    | none =>
      let (id, s) := fresh r.1
      .go { s with ops := s.ops ++ [c.newOp id .lds (match o.data with
        | .v k => k.toNat
        | .s _ => 0) n r.2.1 false] } []

def execLds (o : StoreOp) (s : State) : Host.Outcome State Fault Refusal := issue (.lds o) (ldsEff o) s

/-- STS (R257): its words are on their way to the banks, lanes in ascending order; `st` falls when they are written (R26).
-/
def stsEff (o : StoreOp) (c : Cx) : Eff :=
  let n := o.width.words
  match c.checkBank n 1 StoreTgt.writable ((c.lanes o.guard).map (fun l => (l, c.saddr o l))) with
  | .eff e => e
  | .ok ws =>
    if bankConflict c.pre c.preW ws then .hold else
    let (id, s) := fresh (c.withPasses n ws)
    .go { s with ops := s.ops ++ [c.newOp id .sts 0 0
      (lastWriters (ws.map (fun b => { b.opWord s c.preW with data := good (c.dataWord o.data b.j b.lane) }))) false] } []

/-- The plane of a word of a banked store is active (R46). -/
def planeOpen (s : State) (key : Nat) : Bool := (getCore s (key / 2 ^ 19)).active == ((key / 2 ^ 18).testBit 0)

/-- A word of an STS may not reach its bank yet: the register's team is stopped for compaction (R65), or the plane is not the
active one of its core (R46, DEDUCED, log 120). -/
def OpWord.bankShut (s : State) (x : OpWord) : Bool :=
  match x.tgt with
  | .store key => !planeOpen s key
  | .reg uid _ => (findWarp? s uid).elim false (fun w =>
      !planeOpen s (regBank s w) || (findTeam? s w.team).elim false (·.compacting))
  | _ => false

/-- A word of an STS reaches its bank; whoever waits on it reads it (R55, R257, R265). A word that fails its check at a
register's bank is consumed by the register's warp (R54). -/
def stsWord (s : State) (o : Op) (x : OpWord) : State :=
  match x.tgt with
  | .store key => writeStore s key x.data (some (o.warp, o.id))
  | .reg uid k =>
    (match findWarp? s uid with
     | none => s
     | some w =>
       if x.data.isGood then
         { s with store := s.store.setWord (regBank s w + k) x.data, upsets := terase s.upsets (regBank s w + k) }
       else containBad s w x.data x.lane o.pc (BitVec.ofNat 64 (blockAddr w k)))
  | _ => s

def execSts (o : StoreOp) (s : State) : Host.Outcome State Fault Refusal := issue (.sts o) (stsEff o) s

/-! ### ATOMS (R258) -/

/-- Store address of lane l of ATOMS. -/
def Cx.atomsAddr (c : Cx) (o : AtomsOp) (l : Nat) : Word :=
  c.sca o.base.toNat + (match o.addr with
    | .plain => 0
    | .off w => w
    | .added k w => c.vec k.toNat l + w.signExtend 32)

/-- Perform the lanes of an ATOMS in ascending order; a bad memory word stops it. -/
def atomsBanks (s : State) (w : Warp) (k : AtomKind) (b d : Nat → Word) :
    List BankWord → State × List OpWord × Option (BankWord × CWord)
  | [] => (s, [], none)
  | x :: rest =>
    let key := (x.tgt.place s w).2.2
    let m := s.store.word key
    if !m.isGood then (s, [], some (x, m))
    else
      let r := atomOp k (m.data.setWidth 64) ((b x.lane).setWidth 64) ((d x.lane).setWidth 64)
      let t := atomsBanks (writeStore s key (good (lowWord r.1)) none) w k b d rest
      (t.1, { x.opWord s w with got := some m, done := true, flags := r.2 } :: t.2.1, t.2.2)

def atomsEff (o : AtomsOp) (c : Cx) : Eff :=
  match c.checkBank 1 2 (fun t => t.writable && !t.isAlias) ((c.lanes o.guard).map (fun l => (l, c.atomsAddr o l))) with
  | .eff e => e
  | .ok ws =>
    if bankConflict c.pre c.preW ws then .hold else
    let r := atomsBanks (c.withPasses 1 ws) c.preW o.kind (fun l => c.word o.b 0 l) (fun l => c.vec o.dst.toNat l) ws
    match r.2.2 with
    | some (x, m) => .stop (containBad r.1 c.preW m x.lane c.slot.pc (x.addr.setWidth 64))
    | none =>
      let (id, s) := fresh r.1
      .go { s with ops := s.ops ++ [c.newOp id (.atoms o.kind) o.dst.toNat 1 r.2.1 false] } []

def execAtoms (o : AtomsOp) (s : State) : Host.Outcome State Fault Refusal := issue (.atoms o) (atomsEff o) s

end Sys2Proof.Machine
end

