-- ==== Sys2Proof/Machine/HomeEvents.lean ====
section
/-! DEFINITION. The events of the homes (04 R75, R81 to R84, 07 R144), of the Towpath (R76 to R79), of fills and
grants (R85, R371), of store acknowledgements (01 R26) and of acquires (05 R97, R99). -/

namespace Sys2Proof.Machine

open Sys2Proof

/-- A meaning of an event: the machine goes on, whether or not the event is due. -/
def goesOn (s : State) : Host.Outcome State Fault Refusal := .next s

/-! ### When a home serves a request (R75, R270) -/

/-- A part that runs steps holds the DRAM of its channel; a frozen one runs none (R270). -/
def ploughHolds (s : State) (ch : Nat) : Bool :=
  s.parts.any (fun p => p.channel == ch && p.accepted && !p.finished && p.frozen.isNone && match p.kind with
    | .cross _ => false
    | _ => true)

/-- The requester keeps no copy (R70). -/
def ReqSrc.isEngine : ReqSrc → Bool
  | .dom _ _ => false
  | _ => true

def ReqKind.isSur : ReqKind → Bool
  | .sur => true
  | _ => false

/-- Requests that have arrived at a home and wait there (R75). -/
def waitingAt (s : State) (ch : Nat) : List Req := s.reqs.filter (fun r => channelOf r.line == ch && r.arrived != 0)

/-- A home that holds 64 waiting requests accepts no new one (R75). -/
def homeFull (s : State) (ch : Nat) : Bool := 64 ≤ (waitingAt s ch).length

/-- A request is at its home, or may arrive there now: after the earlier ones of its source to that home, and while the
home accepts (R75). A surrender is never kept out: a recall waits for it (R82, log 104). -/
def mayArrive (s : State) (r : Req) : Bool :=
  let ch := channelOf r.line
  let full := homeFull s ch
  r.arrived != 0 ||
  ((!full || r.kind.isSur) &&
   !s.reqs.any (fun q => decide (q.id < r.id) && q.src == r.src && channelOf q.line == ch && q.arrived == 0 &&
     !(full && r.kind.isSur)))

/-- A request that arrived at the home before another one does. -/
def arrivedBefore (q r : Req) : Bool := q.arrived != 0 && (r.arrived == 0 || decide (q.arrived < r.arrived))

/-- A request that allocates an entry for its line (R73, R81). -/
def needsRoom (s : State) (r : Req) : Bool :=
  match r.kind with
  | .rwi | .own => (dirEntry? (getHome s (channelOf r.line)) r.line).isNone
  | _ => false

/-- A request waits for room in its set: for its victim's write-back, while every entry is busy, or behind an earlier
request for room there (R73). -/
def waitsRoom (s : State) (r : Req) : Bool :=
  needsRoom s r &&
  (victimFor (getHome s (channelOf r.line)) r.id || victimOf (getHome s (channelOf r.line)) r.line == some none ||
   s.reqs.any (fun q => arrivedBefore q r && channelOf q.line == channelOf r.line && dirSet q.line == dirSet r.line &&
     q.line != r.line && needsRoom s q))

/-- A commit at work has words of a line still to write: a write to the line is merged after them (R138). -/
def commitHolds (s : State) (line : Nat) : Bool := s.commits.any (fun c => c.todo.any (fun x => x.1 / 128 == line))

/-- A request that may change a line's words. -/
def ReqKind.writes : ReqKind → Bool
  | .own | .wrh | .atomic _ | .reduce _ => true
  | .rsi | .rwi | .sur => false

/-- A request must wait at its home: for its line, behind an earlier request for the line, for room, for the plough, or for
a commit (R73, R75, R138, R270). A surrender never waits. -/
def reqWaits (s : State) (r : Req) : Bool :=
  let ch := channelOf r.line
  !r.kind.isSur &&
  (lineBusy s r.line || s.reqs.any (fun q => arrivedBefore q r && q.line == r.line && !q.kind.isSur) || waitsRoom s r ||
   (r.kind.writes && commitHolds s r.line) ||
   (ploughHolds s ch && !r.admitted && !(getHome s ch).l2.contains r.line))

/-- Every request that arrived before another waits (R75). One of an engine may be passed by those for other lines: the
engine takes it with its own event (log 118). -/
def inTurn (s : State) (r : Req) : Bool :=
  (waitingAt s (channelOf r.line)).all (fun q => !arrivedBefore q r || q.src.isEngine || reqWaits s q)

/-- A home may serve a request now: it has arrived and waits for nothing, and every earlier one waits (R75). -/
def homeDue (s : State) (r : Req) : Bool := mayArrive s r && !reqWaits s r && (r.kind.isSur || inTurn s r)

/-- A request takes its place in the home's order of arrival. -/
def arrive (s : State) (r : Req) : State :=
  if r.arrived != 0 || !mayArrive s r then s
  else
    let (n, s) := fresh s
    { s with reqs := s.reqs.map (fun q => if q.id == r.id then { q with arrived := n } else q) }

/-- The L2 slice takes the line of a request, and its entry is used. -/
def touchHome (s : State) (line : Nat) : State :=
  setHome s (channelOf line) (dirTouch (l2Touch s (getHome s (channelOf line)) line) line)

/-! ### The home atomics unit (R144) -/

/-- The home has accepted a reduction: its `nm` falls, once (R26). -/
def acceptRed (s : State) (o : Op) : State :=
  if o.accepted then setOp s o else lowerCtr (setOp s { o with accepted := true }) o.warp .nm

/-- The words of a lane of an atomic operation get their values. A reduction is over only when its homes have answered
(R104). -/
def atomicDone (s : State) (r : Req) (vals : Tab CWord) (fl : Word) : State :=
  match findOp? s r.op with
  | none => s
  | some o =>
    let first := (r.words.headD (0, good 0)).1
    let ws := o.words.map (fun x =>
      if x.lane == r.lane && !x.done && x.hbm?.elim false (fun p => p.1 == r.line) then
        { x with got := tget? vals (first + x.j), done := true, flags := if x.j == 0 then fl else 0 }
      else x)
    match o.kind with
    | .red _ => if ws.all (·.done) then acceptRed s { o with words := ws } else setOp s { o with words := ws }
    | _ => setOp s { o with words := ws }

/-- A corrupt word that an endpoint at the home meets enters the poison record (R147). -/
def noteCorrupt (s : State) (line : Nat) (ws : Tab CWord) : State :=
  ws.foldl (fun s p => if p.2.isCorrupt then addPoison s line p.1 else s) s

/-- Perform an atomic or a reduction whose words nobody owns any more (R144, R258): the state and the returned words
with their flags. -/
def atomicAt (s : State) (line : Nat) (k : AtomKind) (red fal : Bool) (b d : Tab CWord) : State × Tab CWord × Word :=
  let old : Tab CWord := b.map (fun p => (p.1, homeWord s line p.1 fal))
  if fal || pageDead s (pageOfLine line) then (s, old, 0)
  else if !(old.all (fun p => p.2.isGood) && b.all (fun p => p.2.isGood)) then
    let s1 := noteCorrupt s line old
    let s2 := old.foldl (fun s p => poisonWord s line p.1) s1
    let s3 := if red then old.foldl (fun s p => poisonEvent s line p.1) s2 else s2
    (s3, old.map (fun p => (p.1, poison p.2)), 0)
  else
    let v (t : Tab CWord) : DWord := wordsVal (t.map (fun p => p.2.data))
    let r := atomOp k (v old) (v b) (v d)
    let new : Tab CWord := b.zipIdx.map (fun p => (p.1.1, good (if p.2 == 0 then lowWord r.1 else highWord r.1)))
    (mergeLine s line new false, old, r.2)

/-- The atomic of a request, once its line is clear; its reply waits for its notice (R78). The domain's older copies of its
words are I. -/
def performAtomic (s : State) (r : Req) (own : Option Nat) : State :=
  let go (k : AtomKind) (red : Bool) : State :=
    let a := atomicAt s r.line k red r.fal r.words r.expect
    atomicDone (sendAck (dropOlder a.1 r.src.core r.line r.mask) r own) r a.2.1 a.2.2
  match r.kind with
  | .atomic k => go k false
  | .reduce k => go k true
  | _ => s

def serveAtomic (s : State) (r : Req) : State :=
  match clearForWrite s r with
  | (none, s) => s
  | (some own, s) => performAtomic s r own

/-- Serve a request of a domain of any kind from the line's present state. -/
def serveReq (s : State) (r : Req) : State :=
  match r.kind with
  | .rsi => serveRSi s r
  | .rwi => serveRWi s r
  | .own => serveOwn s r
  | .wrh => serveWrh s r
  | .sur => serveSur s r
  | .atomic _ | .reduce _ => serveAtomic s r

/-- The operation whose engine asks is there and may go on. -/
def engineAlive (s : State) : ReqSrc → Bool
  | .dom _ _ => true
  | .host | .fabric _ | .warp _ _ | .walk _ => false
  | .engine id =>
    let here (uid : Nat) : Bool := (findWarp? s uid).any (isResident s)
    s.ops.any (fun o => o.id == id && here o.warp) ||
    s.copies.any (fun c => c.id == id && c.state == .running && here c.warp) ||
    s.colls.any (fun c => c.id == id && c.state == .running && here c.warp) ||
    s.parts.any (fun p => p.id == id && p.frozen.isNone) || s.commits.any (fun c => c.id == id) ||
    s.teams.any (fun t => t.uid == id) || s.replies.any (fun r => r.id == id) ||
    s.regions.any (fun r => r.arrivals.any (fun a => a.op == id))

/-- A request of an engine has its turn: the recall it needs begins. Its words are read or written by the engine's own event,
which takes the request with it; one that nobody asks for any more ends (log 118). -/
def engineTurn (s : State) (r : Req) : State :=
  if engineBusy s r.line r.mask then engineRecall s r else if engineAlive s r.src then s else dropReq s r.id

/-- A request reaches its home, and is served if it has its turn; reading its entry may find an uncorrectable error (R75,
R84). -/
def homeEvent (s : State) (req : Nat) (dirErr : Bool) (is : ReqKind → Bool) : State :=
  match findReq? s req with
  | none => s
  | some r =>
    if !is r.kind then s
    else if !homeDue s r then arrive s r
    else
      let s := touchHome (arrive s r) r.line
      if dirErr && (dirEntry? (getHome s (channelOf r.line)) r.line).isSome then directoryError s r.line r.id
      else if r.src.isEngine then engineTurn s r
      else serveReq s r

def execHomeRSi (req : Nat) (dirErr : Bool) (s : State) : Host.Outcome State Fault Refusal :=
  goesOn (homeEvent s req dirErr (· == .rsi))
def execHomeRWi (req : Nat) (dirErr : Bool) (s : State) : Host.Outcome State Fault Refusal :=
  goesOn (homeEvent s req dirErr (· == .rwi))
def execHomeOwn (req : Nat) (dirErr : Bool) (s : State) : Host.Outcome State Fault Refusal :=
  goesOn (homeEvent s req dirErr (· == .own))
def execHomeWrh (req : Nat) (dirErr : Bool) (s : State) : Host.Outcome State Fault Refusal :=
  goesOn (homeEvent s req dirErr (· == .wrh))
def execHomeSur (r : HomeTurn) (s : State) : Host.Outcome State Fault Refusal :=
  goesOn (homeEvent s r.req r.dirErr (· == .sur))

def ReqKind.isAtomic : ReqKind → Bool
  | .atomic _ | .reduce _ => true
  | _ => false

def execHomeAtomic (r : HomeTurn) (s : State) : Host.Outcome State Fault Refusal :=
  goesOn (homeEvent s r.req r.dirErr ReqKind.isAtomic)

/-! ### Write-backs (R81, R84) -/

/-- The request that waited for a recall goes on; `slot` is the recall's slot number. One that has its victim's room now, or
an engine's, has its turn again. -/
def resumeReq (s : State) (busy : Busy) (r : Req) (slot : Word) : State :=
  if r.src.isEngine then s
  else match busy with
    | .rsi => finishRSi s r (.slot slot)
    | .rwi => finishRWi s r (.slot slot)
    | .own => finishOwn s r (.slot slot)
    | .wrh => (match r.kind with
        | .wrh => sendAck (mergeWrh s r) r none
        | _ => performAtomic s r none)
    | _ => s

/-- A surrender that the sender of a write-back sent before it comes first, unless it is what waits for the write-back
(R82, R84). -/
def surFirst (s : State) (w : Writeback) : Bool :=
  s.reqs.any (fun q => q.kind.isSur && q.line == w.line && q.src.core == w.dom && decide (q.id < w.id) &&
    !(q.id == (entryOf s w.line).waiting))

/-- A write-back reaches the home (R81, R84). The words its notice named leave the owned mask. After a recall-all the
request is served from state U; DESIGN CHOICE (log 105): its fill or grant carries no own slot, so it is use once where
the domain has processed the RCA meanwhile. -/
def writebackEvent (s : State) (id : Nat) (dirErr : Bool) : State :=
  match s.writebacks.find? (fun w => w.id == id) with
  | none => s
  | some w =>
    if surFirst s w then s
    else
      let s := { s with writebacks := s.writebacks.filter (fun v => v.id != id) }
      let s := mergeLine s w.line w.words false
      let e := entryOf s w.line
      match e.busy with
      | .idle => s
      | .recallAll =>
        if !w.all then s
        else if 1 < e.pending then putEntry s { e with pending := e.pending - 1 }
        else
          let s := directoryFreed s w.line
          (findReq? s e.waiting).elim s (fun r => if r.src.isEngine then s else serveReq s r)
      | b =>
        if dirErr then directoryError s w.line (if b == .victim then 0 else e.waiting)
        else
          let r := findReq? s e.waiting
          let shr := if b == .victim then 0 else e.shr
          let s := putEntry s { e with owm := e.owm &&& ~~~ w.mask, shr := shr, busy := .idle, waiting := 0 }
          r.elim s (fun r => resumeReq s b r w.slot)

def execRecallWriteback (wb : Nat) (dirErr : Bool) (s : State) : Host.Outcome State Fault Refusal :=
  goesOn (writebackEvent s wb dirErr)

/-! ### The Towpath -/

/-- A home injects its next notice at its opportunity; what waits for its slot number is sent (R77, R78). -/
def injectNotice (s : State) (ch : Nat) : State :=
  let h := getHome s ch
  let now := s.flying.filter (fun f => f.cycle == s.cycle)
  match h.decided with
  | [] => s
  | n :: rest =>
    if s.cycle % 8 != ch % 8 || now.any (fun f => decide (ch ≤ channelOf f.notice.line)) then s
    else
      let slot := s.slotCount
      let s := setHome s ch { h with decided := rest }
      { s with slotCount := slot + 1, flying := s.flying ++ [⟨n, slot, s.cycle⟩],
               replies := s.replies.map (fun r =>
                 if r.ownNotice == some n.id then { r with ownNotice := none, ownSlot := some slot, sent := s.cycle } else r),
               wrhReplies := s.wrhReplies.map (fun r =>
                 if r.notice == some n.id then { r with notice := none, sent := s.cycle } else r) }

def execNoticeInjection (ch : Nat) (s : State) : Host.Outcome State Fault Refusal := goesOn (injectNotice s ch)

/-- The next notice of the Towpath, if it is delivered in this cycle (R78). -/
def dueNotice? (s : State) : Option (Flying × State) :=
  match s.flying with
  | [] => none
  | f :: rest => if f.cycle + 64 ≤ s.cycle then some (f, { s with flying := rest }) else none

/-- Domains that hold lines. -/
def heldDomains (s : State) : List Nat := s.l1s.map (·.1)

/-- Every domain makes the SI and WI words of a line I, and notes the notice against its pending misses (R79, R85). -/
def noticeShared (s : State) (line : Nat) (slot : Word) : State :=
  let s := (heldDomains s).foldl (fun s d => dropShared s d line) s
  { s with misses := s.misses.map (fun m =>
      if m.line == line then
        { m with firstSlot := if m.notices == 0 then slot else m.firstSlot, notices := Nat.min 2 (m.notices + 1) }
      else m) }

/-- A domain's write-back of owned words. -/
def sendWriteback (s : State) (dom : Nat) (f : Flying) (ws : Tab CWord) (all : Bool) : State :=
  let (id, s) := fresh s
  { s with writebacks := s.writebacks ++ [{ id := id, slot := f.slot, dom := dom, line := f.notice.line, mask := f.notice.wmask,
                                            words := ws, all := all }] }

/-- INV (R79). -/
def towpathInv (s : State) : State :=
  match dueNotice? s with
  | some (f, t) => if f.notice.kind == .inv then noticeShared t f.notice.line f.slot else s
  | none => s

/-- RCW: the owner writes back the words named that it owns (R79, R83). -/
def towpathRcw (s : State) : State :=
  match dueNotice? s with
  | some (f, t) =>
    if f.notice.kind != .rcw then s
    else
      let line := f.notice.line
      let t := noticeShared t line f.slot
      let dom := f.notice.owner.dom
      let ws := (ownedWords t dom line).filter (fun p => f.notice.wmask.getLsbD p.1)
      dropOwned (sendWriteback t dom f ws false) dom line f.notice.wmask
  | none => s

/-- RCA: every domain writes back its owned words of the line and empties it (R79). Its home waits for as many write-backs
(R84). -/
def towpathRca (s : State) : State :=
  match dueNotice? s with
  | some (f, t) =>
    if f.notice.kind != .rca then s
    else
      let line := f.notice.line
      let t := noticeShared t line f.slot
      let domains := (List.range 384).filter (isDomain t)
      let t := putEntry t { entryOf t line with pending := domains.length }
      domains.foldl (fun t d => dropLine (sendWriteback t d f (ownedWords t d line) true) d line) t
  | none => s

def execTowpathInv (s : State) : Host.Outcome State Fault Refusal := goesOn (towpathInv s)
def execTowpathRcw (s : State) : Host.Outcome State Fault Refusal := goesOn (towpathRcw s)
def execTowpathRca (s : State) : Host.Outcome State Fault Refusal := goesOn (towpathRca s)

/-! ### Fills and grants (R85, R371) -/

/-- Cycles a response takes from a home at least (R72); its time is held under a clock step (R366). -/
def transit (s : State) : Nat := nominal s 160

/-- A notice for a line that was decided before a bound has not been processed by the domains. -/
def noticesOut (s : State) (line bound : Nat) : Bool :=
  (getHome s (channelOf line)).decided.any (fun n => n.line == line && decide (n.id < bound)) ||
  s.flying.any (fun f => f.notice.line == line && decide (f.notice.id < bound))

/-- A reply has reached its domain: it has been sent, no earlier one of that home to that domain is on its way, and the
notices for its line that the home decided before it have been delivered, so that no older word is left beside it (R94,
log 101). -/
def replyDue (s : State) (r : Reply) : Bool :=
  r.ownNotice.isNone && decide (r.sent + transit s ≤ s.cycle) && !(r.inHbm && noticesOut s r.line r.id) &&
  !s.replies.any (fun q => decide (q.id < r.id) && q.dom == r.dom && channelOf q.line == channelOf r.line && q.inHbm && r.inHbm)

/-- The notice test: install, or use once (R85). -/
def installs (m : Miss) (r : Reply) : Bool := m.notices == 0 || (m.notices == 1 && r.ownSlot == some m.firstSlot)

/-- The value of a word at the moment at which the home served its miss: the domain's own, or what the reply carries. -/
def Reply.value? (r : Reply) (j : Nat) : Option CWord :=
  match tget? r.own j with
  | some v => some v
  | none => tget? r.words j

/-- A waiting word takes its value. -/
def feedWord (m : Miss) (r : Reply) (x : OpWord) : OpWord :=
  if x.waitsOn m.id then { x with got := x.hbm?.bind (fun p => r.value? p.2) } else x

/-- Every load that waited on a miss takes its words, whether or not the reply is installed (R85, R371). -/
def feedLoads (s : State) (m : Miss) (r : Reply) : State :=
  { s with ops := s.ops.map (fun o => if o.kind.isLoad then { o with words := o.words.map (feedWord m r) } else o) }

/-- Words of a reply that become valid as it is installed: not those that have become I since. -/
def Reply.kept (r : Reply) : Tab CWord := r.words.filter (fun p => !r.gone.getLsbD p.1)

/-- A reply is installed, or used once (R85, R371). Where loads take words from one that is used once, the domain's SI copies
of them are older and become I (R94, log 101). -/
def installReply (s : State) (m : Miss) (r : Reply) (st : WState) : State :=
  if !isDomain s r.dom then s
  else if installs m r then l1Install s r.dom r.line st r.kept
  else
    let read := waitedWords s m.id r.line
    l1Map s r.dom (fun l =>
      if l.line == r.line then l.words.filter (fun p => !(p.2.st == .si && read.getLsbD p.1)) else l.words)

/-- A reply has come: it is installed or used once, and feeds the loads. -/
def takeReply (s : State) (m : Miss) (r : Reply) (st : WState) : State :=
  dropMiss (feedLoads (installReply s m r st) m r) m.id

/-- Stores that waited on a grant write the words now owned, and ask again for the others (R371). -/
def retryStores (s : State) (dom miss : Nat) : State :=
  (s.ops.filter (fun o => o.words.any (fun x => x.miss == some miss && !x.done))).foldl (fun s o =>
    match o.kind with
    | .st | .stck =>
      let ws := o.words.map (fun x => if x.miss == some miss then { x with miss := none } else x)
      let r := ownWords s dom o.id ws
      setOp r.1 { o with words := r.2 }
    | _ => s) s

def grantEvent (s : State) (id : Nat) : State :=
  match s.replies.find? (fun r => r.id == id) with
  | none => s
  | some r =>
    if !r.grant || !replyDue s r then s
    else
      let s := { s with replies := s.replies.filter (fun q => q.id != id) }
      match findMiss? s r.miss with
      | none => s
      | some m => retryStores (takeReply s m r .ow) r.dom m.id

def execGrantArrives (msg : Nat) (s : State) : Host.Outcome State Fault Refusal := goesOn (grantEvent s msg)

/-! ### Acknowledgements (R26) -/

/-- Every home has answered for an operation: its requests are served, their replies sent and arrived (R78). -/
def homesAnswered (s : State) (op : Nat) : Bool :=
  !s.reqs.any (fun r => r.op == op) &&
  s.wrhReplies.all (fun r => r.op != op || (r.notice.isNone && decide (r.sent + transit s ≤ s.cycle)))

def dropReplies (s : State) (op : Nat) : State := { s with wrhReplies := s.wrhReplies.filter (fun r => r.op != op) }

/-- A word reaches host memory: a bad one takes the link's poison mark (R141). -/
def hostStore (s : State) (a : Nat) (w : CWord) : State :=
  if w.isGood then { s with host := s.host.setWord (a / 4) w }
  else recordIo { s with host := s.host.setWord (a / 4) (poison w) } 0x0A 0 (BitVec.ofNat 32 (a / 65536))

/-! ### Acquires (R80, R97, R99) -/

/-- A slot number comes before another, modulo 2^32 (R77). -/
def slotBefore (a b : Word) : Bool := a != b && decide ((b - a).toNat < 2 ^ 31)

/-- A notice decided before a bound has not been processed by the domains (R102). -/
def noticesBefore (s : State) (bound : Nat) : Bool :=
  s.homes.any (fun h => h.2.decided.any (fun n => decide (n.id < bound))) ||
  s.flying.any (fun f => decide (f.notice.id < bound))

/-- Loads and atomics, which FENCE.acq waits for (R99). -/
def OpKind.isRead : OpKind → Bool
  | .ld | .lds | .ldck | .atom _ | .atoms _ => true
  | _ => false

/-- Drop the SI words that an acquire of a warp drops. -/
def acquireDrop (s : State) (w : Warp) (sc : Scope) : State :=
  if scopeDrops s w.core sc then dropSi s (domainOf s w.core) else s

/-- An acquire completes; a FENCE.acq whose loads have landed first takes its reference (R99). -/
def acquireEvent (s : State) (id : Nat) : State :=
  match s.warps.find? (fun w => w.acquires.any (fun a => a.id == id)) with
  | none => s
  | some w =>
    match w.acquires.find? (fun a => a.id == id) with
    | none => s
    | some a =>
      match a.loadsBefore with
      | some n =>
        if s.ops.any (fun o => o.warp == w.uid && decide (o.seq < n) && o.kind.isRead) then s
        else
          let put (b : Acquire) : Acquire :=
            if b.id == id then { b with loadsBefore := none, refSlot := s.slotCount, bound := s.nextId } else b
          acquireDrop (setWarp s { w with acquires := w.acquires.map put }) w a.scope
      | none =>
        if a.op.any (fun o => (findOp? s o).isSome) || s.flying.any (fun f => slotBefore f.slot a.refSlot) ||
            noticesBefore s a.bound then s
        else acquireDrop (setWarp s { w with acquires := w.acquires.filter (fun b => b.id != id) }) w a.scope

def execAcquireCompletes (acq : Nat) (s : State) : Host.Outcome State Fault Refusal := goesOn (acquireEvent s acq)

end Sys2Proof.Machine
end

