-- ==== Sys2Proof/Machine/Engine.lean ====
section
/-! DEFINITION. How engines reach global memory: translated places, reads that keep no copy and writes at home
(04 R70, R71, 07 R141, 20 R349, R353), and their notifications (13 R290, R291). -/

namespace Sys2Proof.Machine

open Sys2Proof

/-- Line and word of a place in HBM. -/
def Place.hbm? (p : Place) : Option (Nat × Nat) := if p.pa < hbmEnd then some (p.pa / 128, p.pa / 4 % 32) else none

/-- The HBM lines of some places, each with the mask of the words named. -/
def placeMasks (ps : List Place) : List (Nat × Word) :=
  ps.foldl (fun g p =>
    match p.hbm? with
    | none => g
    | some (line, j) =>
      if g.any (fun q => q.1 == line) then g.map (fun q => if q.1 == line then (line, q.2 ||| bitAt j) else q)
      else g ++ [(line, bitAt j)]) []

/-! ### The engines' places at the homes (R70, R75) -/

/-- What an engine asks of a line: words to read, or words to write at home. `held` is that of a plough, which holds the
DRAM itself (R270). -/
structure Ask where
  line : Nat
  mask : Word
  write : Bool
  held : Bool

/-- The request of an engine for a line, at its home or about to come there. -/
def askReq (s : State) (who : ReqSrc) (a : Ask) : Req :=
  let kind : ReqKind := if a.write then .wrh else .rsi
  (s.reqs.find? (fun r => r.src == who && r.line == a.line && r.kind == kind)).getD
    { Req.plain who kind a.line a.mask with admitted := a.held }

/-- An engine's request cannot be served now: it waits as any other does (R75, R138, R270), or a full home does not accept
it, or words must be recalled first (R81). -/
def askWaits (s : State) (who : ReqSrc) (a : Ask) : Bool :=
  let r := askReq s who a
  reqWaits s r || !inTurn s r || engineBusy s a.line a.mask || (r.arrived == 0 && homeFull s (channelOf a.line))

/-- An engine's request takes its place in its home's order of arrival, if the home accepts it (R75). -/
def askArrives (who : ReqSrc) (s : State) (a : Ask) : State :=
  let r := askReq s who a
  if r.arrived != 0 || homeFull s (channelOf a.line) then s
  else
    let (n, s) := fresh s
    (sendReq s { r with arrived := n }).2

/-- Every home concerned has room for the engine's requests that are not there yet. -/
def askRoom (s : State) (who : ReqSrc) (l : List Ask) : Bool :=
  let new := (l.filter (fun a => (askReq s who a).arrived == 0)).map (fun a => channelOf a.line)
  new.all (fun ch => (waitingAt s ch).length + (new.filter (· == ch)).length ≤ 64)

/-- An engine's requests take their places at the homes, all together where there is room for all, else those that must wait;
the recalls of those that have their turn begin. Requests that it no longer makes are gone. -/
def askAll (s : State) (who : ReqSrc) (l : List Ask) : State :=
  let named (r : Req) : Bool := l.any (fun a => a.line == r.line && (if a.write then ReqKind.wrh else .rsi) == r.kind)
  let s := if engineAlive s who then { s with reqs := s.reqs.filter (fun r => r.src != who || named r) } else s
  let come := if askRoom s who l then l else l.filter (askWaits s who)
  let s := come.foldl (askArrives who) s
  come.foldl (fun s a =>
    let r := askReq s who a
    if r.arrived == 0 || reqWaits s r || !inTurn s r then s else engineRecall s { r with mask := a.mask }) s

/-- The engine's requests are served: they leave their places, and the entries of their lines are used (R73). -/
def askServed (touch : State → Nat → State) (who : ReqSrc) (l : List Ask) (s : State) : State :=
  let kindOf (a : Ask) : ReqKind := if a.write then .wrh else .rsi
  let s := { s with reqs := s.reqs.filter (fun r => r.src != who || !l.any (fun a => a.line == r.line && kindOf a == r.kind)) }
  l.foldl (fun s a => touch s a.line) s

/-- What an engine asks for in some places. -/
def placeAsks (s : State) (write : Bool) (ps : List Place) : List Ask :=
  (placeMasks (ps.filterMap (Place.here? s write))).map (fun g => ⟨g.1, g.2, write, false⟩)

/-- The engine cannot have some places yet: a request for one of their lines waits (R70, R75), or a request over the fabric
to this device waits there (R353, R357). -/
def placesBusy (s : State) (who : ReqSrc) (write : Bool) (ps : List Place) : Bool :=
  (placeAsks s write ps).any (askWaits s who) || ps.any (Place.waits s who write)

/-- Do something with places, some for reading and some for writing, once the engine may have them all; until then its
requests wait at the homes or at the port. -/
def withAccess (s : State) (who : ReqSrc) (l : List (FabKind × List Place)) (act : State) : State :=
  let asks := (l.map (fun p => placeAsks s (FabKind.writes p.1) p.2)).flatten
  if asks.any (askWaits s who) || l.any (fun p => p.2.any (Place.waits s who (FabKind.writes p.1))) then
    l.foldl (fun s p => holdOwn s who p.1 p.2) (askAll s who asks)
  else askServed touchHome who asks (l.foldl (fun t p => ownDone s who p.1 p.2 t) act)

def withPlacesFor (s : State) (who : ReqSrc) (kind : FabKind) (ps : List Place) (act : State) : State :=
  withAccess s who [(kind, ps)] act

def withPlaces (s : State) (who : ReqSrc) (write : Bool) (ps : List Place) (act : State) : State :=
  withPlacesFor s who (wordKind write) ps act

/-- The same for places that a translation gave which read the words `tables` over the fabric from this device itself. -/
def withWalked (s : State) (who : ReqSrc) (tables : List Place) (write : Bool) (ps : List Place) (act : State) : State :=
  withAccess s who [(wordKind false, tables), (wordKind write, ps)] act

/-- Read one word; words from the host get a generated GCK (R141), and the error outcome of a request to this device itself
is a poisoned word (R348). -/
def placeRead (s : State) (p : Place) : CWord :=
  match Place.here? s false p with
  | none => poison (good (Config.freeWord s.tick))
  | some q =>
    match q.hbm? with
    | some h => homeWord s h.1 h.2 q.fal
    | none => wordNow s q.pa q.fal

/-- Words of an engine's write by line. -/
def placeLines (ws : List (Place × CWord)) : List (Nat × Tab CWord × Bool) :=
  ws.foldl (fun g p =>
    match p.1.hbm? with
    | none => g
    | some (line, j) =>
      if g.any (fun q => q.1 == line) then g.map (fun q => if q.1 == line then (line, tset q.2.1 j p.2, p.1.fal) else q)
      else g ++ [(line, [(j, p.2)], p.1.fal)]) []

/-- A word reaches host memory: a bad one takes the link's poison mark (R141); through a fallow page it is discarded (R352). -/
def placeHost (s : State) (p : Place × CWord) : State :=
  if hbmEnd ≤ p.1.pa && p.1.pa < 0x5000000000000 && !p.1.fal then hostStore s (p.1.pa % 2 ^ 48) p.2 else s

/-- Write words: at home in HBM, line by line, or in host memory; another device's memory is not here, and a write with the
error outcome is discarded (R348). -/
def placesWrite (s : State) (ws : List (Place × CWord)) : State :=
  let ws := ws.filterMap (fun p => (Place.here? s true p.1).map (fun q => (q, p.2)))
  let s := (placeLines ws).foldl (fun s g => engineWrite s g.1 g.2.1 g.2.2) s
  ws.foldl placeHost s

/-- Translations of an engine's addresses in order, or the first that fails or must wait for a table's word. -/
inductive Places where
  | ok (l : List (DWord × Place))
  | fail (va : DWord) (x : Xlat)
  | wait

def placesOf (s : State) (who part : Nat) (ctx write : Bool) : List DWord → Places
  | [] => .ok []
  | va :: rest =>
    match (xlatNow s who part ctx va).forWrite write with
    | .ok pa a _ =>
      (match placesOf s who part ctx write rest with
       | .ok l => .ok ((va, ⟨pa, a.fal⟩) :: l)
       | r => r)
    | .miss => .wait
    | x => .fail va x

/-- Down to a multiple of 4. -/
def wordVa (va : DWord) : DWord := va &&& 0xFFFFFFFFFFFFFFFC

/-- A byte of a word by its address. -/
def byteOfWord (va : DWord) (w : Word) : Nat := w.toNat / 2 ^ (8 * (va.toNat % 4)) % 256

/-- An engine writes a word of a banked store, good or not; whoever waits on it reads it (R265). -/
def storePut (s : State) (key : Nat) (w : CWord) : State := writeStore s key w none

/-- The notification of a completed engine operation: the word gets a value, or the chamber its arrival (R290, R295). -/
def notifyDone (s : State) (uid : Nat) (n : CopyNotify) (v : Word) : State :=
  match n with
  | .none => s
  | .word key => storePut s key (good v)
  | .ring r c => match findWarp? s uid with
    | none => s
    | some w => arriveRing s w.team w.core r c

/-- A word of a store lies in a block of a resident team. -/
def storeHere (s : State) (key : Nat) : Bool :=
  let core := key / 2 ^ 19
  let a := 4 * (key % 2 ^ 18)
  s.teams.any (fun t => t.place == .resident && t.cores.contains core && t.planeOn core == decide (key / 2 ^ 18 % 2 = 1) &&
    t.blockHolds core a)

/-- The place of a notification is there: its word's block, or the warp's rings, belong to a resident team (R336, R341).
-/
def notifyHere (s : State) (uid : Nat) : CopyNotify → Bool
  | .none => true
  | .word key => storeHere s key
  | .ring _ _ => (findWarp? s uid).elim false (isResident s)

/-- Notification operands: none, a store address, or a chamber; with what R265 and R267 check. -/
inductive NotifyArg where
  | ok (n : CopyNotify)
  | eff (e : Eff)

/-- The notify word's address must be a multiple of 4 (R290). -/
def Cx.notifyAddr (c : Cx) : Notify → Option Word
  | .word b off => some (c.sca b.toNat + off.getD 0)
  | _ => none

/-- Check and resolve a notification (R265, R267, R290). -/
def Cx.notify (c : Cx) (n : Notify) : NotifyArg :=
  match n with
  | .none => .ok .none
  | .word b off =>
    let a := c.sca b.toNat + off.getD 0
    if a.toNat % 4 != 0 then .eff (.trap 0x04 0 a)
    else match plainTgt c.pre c.preW a true with
      | none => .eff (.stop (xlatFail c.pre c.preW (.prot false) 0 1 (a.setWidth 64) c.slot.pc))
      | some p => .ok (.word (storeKey p.1 (planeAt c.pre c.preW p.1) p.2))
  | .ring r k =>
    match (findTeam? c.pre c.preW.team).bind (fun t => chamberOf? t c.preW.core r.toNat k.toNat) with
    | none => .eff (.trap 0x0E 0 (BitVec.ofNat 32 (k.toNat * 32 + r.toNat)))
    | some _ => .ok (.ring r k)

end Sys2Proof.Machine
end

