-- ==== Sys2Proof/Machine/Functions.lean ====
section
/-! DEFINITION. The function unit 0x60 to 0x6D (11 R250 to R252, 09 R203). Values are computed in fixed point with
hundreds of bits, exactly where f(x) is representable; an FP32 result is one of the two neighbours of f(x), which one
being the free value `Config.fnuUp`. -/

namespace Sys2Proof.Machine

open Sys2Proof

/-! ### Fixed-point arithmetic -/

/-- Fractional bits of the fixed point. -/
def fxP : Nat := 640

/-- One. -/
def fxOne : Int := (2 ^ fxP : Nat)

/-- m * 2^e in fixed point, rounded down. -/
def fxOf (m : Int) (e : Int) : Int :=
  let k := e + (fxP : Int)
  if 0 ≤ k then m * (2 ^ k.toNat : Nat) else m / (2 ^ (-k).toNat : Nat)

def fxMul (a b : Int) : Int := a * b / fxOne
def fxDiv (a b : Int) : Int := a * fxOne / b

/-- Sum of t, t*r/1, t*r^2/(1*2), ... : exp(r) for t = 1. -/
def fxExpSum (r : Int) : Nat → Int → Int → Int
  | 0, _, _ => 0
  | n + 1, k, t => t + fxExpSum r n (k + 1) (fxMul t r / k)

/-- Sum of z^k / k over odd k: atanh z; with alternating signs atan z. -/
def fxAtanSum (z2 : Int) (alt : Bool) : Nat → Int → Int → Int
  | 0, _, _ => 0
  | n + 1, k, t => t / k + fxAtanSum z2 alt n (k + 2) (if alt then -(fxMul t z2) else fxMul t z2)

def fxAtanh (z : Int) : Int := fxAtanSum (fxMul z z) false 330 1 z
/-- atan(1/n). -/
def fxAtanInv (n : Int) : Int := fxAtanSum (fxOne / (n * n)) true 330 1 (fxOne / n)

def fxLn2 : Int := 2 * fxAtanh (fxOne / 3)
def fxPi : Int := 16 * fxAtanInv 5 - 4 * fxAtanInv 239

/-- Bit-by-bit integer square root. -/
def isqrtFrom (n : Nat) : Nat → Nat → Nat
  | 0, r => r
  | b + 1, r => if (r + 2 ^ b) * (r + 2 ^ b) ≤ n then isqrtFrom n b (r + 2 ^ b) else isqrtFrom n b r

def isqrt (n : Nat) : Nat := isqrtFrom n (bitLen n / 2 + 1) 0

/-- Square root in fixed point. -/
def fxSqrt (a : Int) : Int := (isqrt (a.toNat * 2 ^ fxP) : Nat)

/-- exp(x) as a fixed-point factor in [1/2, 2) and a power of two. -/
def fxExp (x : Int) : Int × Int :=
  let k := (2 * x + fxLn2) / (2 * fxLn2)
  (fxExpSum (x - k * fxLn2) 130 1 fxOne, k)

/-- ln of m * 2^e. -/
def fxLn (m : Nat) (e : Int) : Int :=
  let n := bitLen m
  -- y = m / 2^n in [1/2, 1), doubled below 3/4
  let low := 4 * m < 3 * 2 ^ n
  let y := fxOf m (if low then 1 - (n : Int) else -(n : Int))
  let k := e + (n : Int) - (if low then 1 else 0)
  2 * fxAtanh (fxDiv (y - fxOne) (y + fxOne)) + k * fxLn2

/-- sin(a) for a in [0, pi/2]. -/
def fxSinSum (a2 : Int) : Nat → Int → Int → Int
  | 0, _, _ => 0
  | n + 1, k, t => t + fxSinSum a2 n (k + 2) (-(fxMul t a2 / ((k + 1) * (k + 2))))

def fxSin (a : Int) : Int := fxSinSum (fxMul a a) 100 1 a

/-- Sum over n of (-u)^n / (n! (2n + 1)). -/
def fxErfSum (u : Int) : Nat → Int → Int → Int
  | 0, _, _ => 0
  | n + 1, k, t => t / (2 * k + 1) + fxErfSum u n (k + 1) (-(fxMul t u / (k + 1)))

/-- 2 / sqrt(pi). -/
def fxTwoOverSqrtPi : Int := fxDiv (2 * fxOne) (fxSqrt fxPi)

/-- erf of the square root of u times a sign-free factor: erf(x) = (2 / sqrt pi) * x * S(x^2). -/
def fxErf (x u : Int) : Int := fxMul (fxMul fxTwoOverSqrtPi x) (fxErfSum u 700 0 fxOne)

/-! ### Values of functions -/

/-- What a function's value is: an encoding with flags, or a magnitude m * 2^e (and a little more, or exactly). -/
inductive FVal where
  | bits (x : Nat) (fl : Word)
  | mag (neg : Bool) (m : Nat) (e : Int) (exact : Bool)

/-- A nonzero fixed-point value that is not exact. -/
def FVal.fx (a : Int) (scale : Int) : FVal := .mag (a < 0) a.natAbs (scale - (fxP : Int)) false

/-- A value just below m * 2^e in magnitude. -/
def FVal.below (neg : Bool) (m : Nat) (e : Int) : FVal := .mag neg (m * 2 ^ 300 - 1) (e - 300) false
/-- A value just above m * 2^e in magnitude. -/
def FVal.above (neg : Bool) (m : Nat) (e : Int) : FVal := .mag neg (m * 2 ^ 300) (e - 300) false
/-- A nonzero value below every subnormal. -/
def FVal.tiny (neg : Bool) : FVal := .mag neg 1 (-1000) false
/-- A value beyond every finite one. -/
def FVal.huge : FVal := .mag false 1 1000 false

/-- |x| < 2^-100, or 1000 or more, for x = m * 2^e. -/
def isTiny (m : Nat) (e : Int) : Bool := floorLog m e < -100
def isLarge (m : Nat) (e : Int) : Bool := 9 < floorLog m e

/-- exp of a finite nonzero value times a constant (1 for EXP, ln 2 for EXP2). -/
def expVal (k : Int) (neg : Bool) (m : Nat) (e : Int) : FVal :=
  if isTiny m e then (if neg then .below false 1 0 else .above false 1 0)
  else if isLarge m e then (if neg then .tiny false else .huge)
  else
    let r := fxExp (fxMul (fxOf (if neg then -(m : Int) else m) e) k)
    .fx r.1 r.2

/-- sin(pi t) for t = n / 2^b, 0 <= t < 2, as sign and value. -/
def sinpiVal (n b : Nat) : FVal :=
  let one := 2 ^ b
  let neg := one ≤ n
  let n := n % one
  let n := if one < 2 * n then one - n else n
  if n == 0 then .bits 0 0
  else if 2 * n == one then .mag neg 1 0 true
  else
    let s := fxSin (fxMul fxPi (fxOf n (-(b : Int))))
    .mag neg s.natAbs (-(fxP : Int)) false

/-- x mod 2 for x = m * 2^e, as n / 2^b. -/
def modTwo (m : Nat) (e : Int) : Nat × Nat :=
  if 1 ≤ e then (0, 0) else
    let b := (-e).toNat
    (m % 2 ^ (b + 1), b)

/-- 1 / (1 + exp(-x)) for a finite nonzero x that is neither tiny nor large. -/
def fxSigm (neg : Bool) (m : Nat) (e : Int) : Int × Int :=
  -- E = exp(-|x|), as f * 2^k
  let r := fxExp (-(fxOf m e))
  let ex := if 0 ≤ r.2 then r.1 * (2 ^ r.2.toNat : Nat) else r.1 / (2 ^ (-r.2).toNat : Nat)
  if neg then (fxDiv r.1 (fxOne + ex), r.2) else (fxDiv fxOne (fxOne + ex), 0)

/-- The value of a function at a finite nonzero argument, or at an argument of its own (R251). -/
def fnuFinite (op : Nat) (neg : Bool) (m : Nat) (e : Int) (f : Format) : FVal :=
  let v : Int := if neg then -(m : Int) else m
  let whole := 0 ≤ e || m % 2 ^ (-e).toNat == 0
  match op with
  | 0x60 => -- EXP2
    if whole then
      let n := fxOf v e / fxOne
      .mag false 1 (clamp (-1000) 1000 n) true
    else expVal fxLn2 neg m e
  | 0x61 => -- LOG2
    if neg then .bits f.nan flNV
    else if m == 2 ^ (bitLen m - 1) then
      let k := floorLog m e
      if k == 0 then .bits 0 0 else .mag (k < 0) k.natAbs 0 true
    else .fx (fxDiv (fxLn m e) fxLn2) 0
  | 0x62 => -- RCP
    let q := quotient 1 m 64
    .mag neg q.1 (q.2.1 - e) (!q.2.2)
  | 0x63 => -- RSQ
    if neg then .bits f.nan flNV
    else
      let m' := if e % 2 == 0 then m else 2 * m
      let e' := if e % 2 == 0 then e else e - 1
      let s := isqrt (2 ^ 400 / m')
      .mag false s (-(e' / 2) - 200) (s * s * m' == 2 ^ 400)
  | 0x64 => -- SQRT
    if neg then .bits f.nan flNV
    else
      let m' := if e % 2 == 0 then m else 2 * m
      let e' := if e % 2 == 0 then e else e - 1
      let s := isqrt (m' * 2 ^ 400)
      .mag false s (e' / 2 - 200) (s * s == m' * 2 ^ 400)
  | 0x65 => -- SINP: the sign of x turns the sign of the sine
    let t := modTwo m e
    match sinpiVal t.1 t.2 with
    | .bits _ _ => .bits (f.zero neg) 0
    | .mag s x k ex => .mag (s != neg) x k ex
  | 0x66 => -- COSP: cos(pi x) = sin(pi (x + 1/2))
    if isTiny m e then .below false 1 0
    else
      let t := modTwo m e
      let n := if t.2 == 0 then 2 * t.1 else t.1
      let b := if t.2 == 0 then 1 else t.2
      sinpiVal ((n + 2 ^ (b - 1)) % 2 ^ (b + 1)) b
  | 0x67 => -- TANH
    if isTiny m e then .below neg m e
    else if isLarge m e || 64 ≤ floorLog m e then .below neg 1 0
    else
      let x := fxOf m e
      if 100 * fxOne < x then .below neg 1 0
      else
        let r := fxExp (-(2 * x))
        let ex := r.1 / (2 ^ (-r.2).toNat : Nat)
        .mag neg (fxDiv (fxOne - ex) (fxOne + ex)).natAbs (-(fxP : Int)) false
  | 0x68 => -- SIGM
    if isTiny m e then (if neg then .below false 1 (-1) else .above false 1 (-1))
    else if isLarge m e then (if neg then .tiny false else .below false 1 0)
    else if !neg && 200 * fxOne < fxOf m e then .below false 1 0
    else
      let r := fxSigm neg m e
      .fx r.1 r.2
  | 0x69 => -- ERF
    if 2 < floorLog m e then .below neg 1 0
    else
      let x := fxOf m e
      .mag neg (fxErf x (fxMul x x)).natAbs (-(fxP : Int)) false
  | 0x6A => expVal fxOne neg m e -- EXP
  | 0x6B => -- LOGE
    if neg then .bits f.nan flNV
    else if m == 2 ^ (bitLen m - 1) && floorLog m e == 0 then .bits 0 0
    else .fx (fxLn m e) 0
  | 0x6C => -- GELU
    if isTiny m e then (if neg then .below true m (e - 1) else .above false m (e - 1))
    else if 3 < floorLog m e then (if neg then .tiny true else .below false m e)
    else
      let x := fxOf m e
      let phi := fxErf (fxDiv x (fxSqrt (2 * fxOne))) (fxMul x x / 2)
      let g := if neg then fxOne - phi else fxOne + phi
      .mag neg (m * g.natAbs) (e - (fxP : Int) - 1) false
  | _ => -- SILU
    if isTiny m e then (if neg then .below true m (e - 1) else .above false m (e - 1))
    else if isLarge m e then (if neg then .tiny true else .below false m e)
    else if !neg && 200 * fxOne < fxOf m e then .below false m e
    else
      let r := fxSigm neg m e
      .mag neg (m * r.1.natAbs) (e + r.2 - (fxP : Int)) false

/-- Values at the infinities and at zeros (R251). DEDUCED (log 114): a zero argument that gives an infinity sets DZ alone, as
R251 and R193 name it, and not the OF of R252. -/
def fnuSpecial (op : Nat) (f : Format) (inf neg : Bool) : Nat × Word :=
  let one := f.bias * 2 ^ f.mb
  let nan := (f.nan, flNV)
  let z := f.zero neg
  match op, inf, neg with
  | 0x60, true, true => (0, 0)
  | 0x60, true, false => (f.infEnc, 0)
  | 0x60, false, _ => (one, 0)
  | 0x61, true, true => nan
  | 0x61, true, false => (f.infEnc, 0)
  | 0x61, false, _ => (f.sbit + f.infEnc, flDZ)
  | 0x62, true, _ => (z, 0)
  | 0x62, false, _ => (z + f.infEnc, flDZ)
  | 0x63, true, true => nan
  | 0x63, true, false => (0, 0)
  | 0x63, false, _ => (z + f.infEnc, flDZ)
  | 0x64, true, true => nan
  | 0x64, true, false => (f.infEnc, 0)
  | 0x64, false, _ => (z, 0)
  | 0x65, true, _ => nan
  | 0x65, false, _ => (z, 0)
  | 0x66, true, _ => nan
  | 0x66, false, _ => (one, 0)
  | 0x67, true, _ => (z + one, 0)
  | 0x67, false, _ => (z, 0)
  | 0x68, true, true => (0, 0)
  | 0x68, true, false => (one, 0)
  | 0x68, false, _ => ((f.bias - 1) * 2 ^ f.mb, 0)
  | 0x69, true, _ => (z + one, 0)
  | 0x69, false, _ => (z, 0)
  | 0x6A, true, true => (0, 0)
  | 0x6A, true, false => (f.infEnc, 0)
  | 0x6A, false, _ => (one, 0)
  | 0x6B, true, true => nan
  | 0x6B, true, false => (f.infEnc, 0)
  | 0x6B, false, _ => (f.sbit + f.infEnc, flDZ)
  | _, true, true => (f.sbit, 0)
  | _, true, false => (f.infEnc, 0)
  | _, false, _ => (z, 0)

/-- Flags of a rounded function value (R252): NX when inexact, OF for an infinity, UF for a subnormal or zero. -/
def fnuFlags (f : Format) (mag : Nat) (inexact : Bool) : Word :=
  raise inexact flNX ||| raise (mag == f.infEnc) flOF ||| raise (inexact && mag < 2 ^ f.mb) flUF

/-- Round a function's value: correctly for 16-bit types, to one of its two neighbours for FP32 (R203, R252). -/
def fnuRound (op x : Nat) (f : Format) : FVal → Nat × Word
  | .bits v fl => (v, fl)
  | .mag neg m e exact =>
    let s := f.zero neg
    let lo := f.round .rz false m e (!exact)
    let inexact := lo.2 != 0
    if !inexact then (s + lo.1, 0)
    else
      let mag :=
        if f == fmtF32 then
          -- from 2^128 on only the infinity is within one ULP
          (if 128 ≤ floorLog m e || Config.fnuUp op (BitVec.ofNat 32 x) != neg then lo.1 + 1 else lo.1)
        else (f.round .rne false m e (!exact)).1
      (s + mag, fnuFlags f mag true)

/-- A function of one element (R251, R252). -/
def fnuElem (op : Nat) (f : Format) (x : Nat) : Nat × Word :=
  match f.decode x with
  | .nan sg => f.canon sg
  | .inf neg => fnuSpecial op f true neg
  | .fin neg m e => if m == 0 then fnuSpecial op f false neg else fnuRound op x f (fnuFinite op neg m e f)

/-- A function instruction by its OP (R250). -/
def fnuEff (op : Nat) (o : FUn) (c : Cx) : Eff := fUn o (fnuElem op) c

def execExp2 (o : FUn) (s : State) : Host.Outcome State Fault Refusal := issue (.exp2 o) (fnuEff 0x60 o) s
def execLog2 (o : FUn) (s : State) : Host.Outcome State Fault Refusal := issue (.log2 o) (fnuEff 0x61 o) s
def execRcp (o : FUn) (s : State) : Host.Outcome State Fault Refusal := issue (.rcp o) (fnuEff 0x62 o) s
def execRsq (o : FUn) (s : State) : Host.Outcome State Fault Refusal := issue (.rsq o) (fnuEff 0x63 o) s
def execSqrt (o : FUn) (s : State) : Host.Outcome State Fault Refusal := issue (.sqrt o) (fnuEff 0x64 o) s
def execSinp (o : FUn) (s : State) : Host.Outcome State Fault Refusal := issue (.sinp o) (fnuEff 0x65 o) s
def execCosp (o : FUn) (s : State) : Host.Outcome State Fault Refusal := issue (.cosp o) (fnuEff 0x66 o) s
def execTanh (o : FUn) (s : State) : Host.Outcome State Fault Refusal := issue (.tanh o) (fnuEff 0x67 o) s
def execSigm (o : FUn) (s : State) : Host.Outcome State Fault Refusal := issue (.sigm o) (fnuEff 0x68 o) s
def execErf (o : FUn) (s : State) : Host.Outcome State Fault Refusal := issue (.erf o) (fnuEff 0x69 o) s
def execExp (o : FUn) (s : State) : Host.Outcome State Fault Refusal := issue (.exp o) (fnuEff 0x6A o) s
def execLoge (o : FUn) (s : State) : Host.Outcome State Fault Refusal := issue (.loge o) (fnuEff 0x6B o) s
def execGelu (o : FUn) (s : State) : Host.Outcome State Fault Refusal := issue (.gelu o) (fnuEff 0x6C o) s
def execSilu (o : FUn) (s : State) : Host.Outcome State Fault Refusal := issue (.silu o) (fnuEff 0x6D o) s

end Sys2Proof.Machine
end

