-- ==== Sys2Proof/Machine/Sync.lean ====
section
/-! DEFINITION. Synchronisation 0xA0 to 0xA6 (12 R262 to R268) and the events of waiting slots. Releases are made by
operations that `RELEASE_WAIT_ENDS` lets go (05 R372). -/

namespace Sys2Proof.Machine

open Sys2Proof

/-! ### BAR (R262, R263) -/

def barKindCode : BarKind → Nat
  | .sync => 0 | .arrive => 1 | .wait => 2 | .drop => 3
def barLevelCode : BarLevel → Nat
  | .team => 0 | .gang => 1 | .grid => 2 | .pod => 3

/-- TVAL of cause 0x0F: MOD above X8 (R263). -/
def barTval (o : BarOp) : Word := BitVec.ofNat 32 (barKindCode o.kind * 256 + barLevelCode o.level * 64 + o.n.toNat)

/-- The barrier is one that the launch declared (R32, R263). -/
def barDeclared (g : Grid) (o : BarOp) : Bool :=
  decide (o.n.toNat < g.r.nbar) && (match o.level with
    | .grid => g.r.gridbar
    | .pod => g.r.podgrp != 0
    | _ => true)

/-- An operation that makes a release wait, then delivers its arrival, flag or record. -/
def Cx.release (c : Cx) (s : State) (kind : OpKind) : State :=
  let (id, s) := fresh s
  { s with ops := s.ops ++ [c.newOp id kind 0 0 [] true] }

def barEff (o : BarOp) (c : Cx) : Eff :=
  let bad : Eff := .trap 0x0F 0 (barTval o)
  match gridOf c.pre c.preW, findTeam? c.pre c.preW.team with
  | some g, some t =>
    match barOf? c.pre t o.level o.n with
    | none => bad
    | some b =>
      let wb := warpBar c.preW o.level o.n
      let active := c.slot.mask
      if !barDeclared g o then bad
      else if (o.kind != .wait && active &&& wb.arrived != 0) || active &&& wb.dropped != 0 then bad
      else
        let arrive (drop : Bool) : State :=
          let w := markBar c.w o.level o.n b.phase active drop
          c.release (setWarp c.s w) (.bar o.kind o.level o.n active)
        let block (s : State) : State :=
          let s := onWarp s c.w.uid (fun w => w.setSlot c.n (some { c.mine with block := .bar o.level o.n b.phase }))
          if o.level == .grid then discardWaiters s g.uid else s
        match o.kind with
        | .arrive => .go (arrive false) []
        | .drop => .go (arrive true) []
        | .sync => .go (block (arrive false)) []
        | .wait => if wb.arrived != 0 then .go (block c.s) []
                   else .go (startAcquire c.s c.w.uid (levelScope t o.level) none none) []
  | _, _ => bad

def execBar (o : BarOp) (s : State) : Host.Outcome State Fault Refusal := issue (.bar o) (barEff o) s

/-! ### WAIT (R264) -/

/-- WAIT: the window goes to the banks, and the slot waits for its counters. -/
def waitEff (o : WaitOp) (c : Cx) : Eff :=
  .go (flushWindow c.s (c.w.setSlot c.n (some { c.mine with block := .wait o }))) []

def execWait (o : WaitOp) (s : State) : Host.Outcome State Fault Refusal := issue (.wait o) (waitEff o) s

/-! ### WAITW and WAKE (R265, R266) -/

/-- A store address of WAITW or WAKE: a plain word of the gang's scratchpads (R53, R265). -/
inductive WordChecked where
  | ok (key : Nat)
  | eff (e : Eff)

def Cx.checkWord (c : Cx) (a : Word) (acc : Nat) : WordChecked :=
  if a.toNat % 4 != 0 then .eff (.trap 0x04 0 a)
  else match plainTgt c.pre c.preW a true with
    | none => .eff (.stop (xlatFail c.pre c.preW (.prot false) 0 acc (a.setWidth 64) c.slot.pc))
    | some p => .ok (storeKey p.1 (planeAt c.pre c.preW p.1) p.2)

/-- WAITW: a word that compares is done, else the slot waits for it (R265). -/
def waitwEff (o : WaitwOp) (c : Cx) : Eff :=
  let a := c.sca o.base.toNat + (match o.val with
    | .s _ => 0
    | .lit _ off => BitVec.ofNat 32 (4 * off.toNat))
  match c.checkWord a 0 with
  | .eff e => e
  | .ok key =>
    let m := c.pre.store.word key
    if !m.isGood then .stop (containBad c.pre c.preW m c.lowest c.slot.pc (a.setWidth 64))
    else
      let k : WordWait :=
        { key := key, addr := a, cond := o.cond, signed := o.signed, acq := o.acq,
          value := (match o.val with
            | .s j => c.sca j.toNat
            | .lit w _ => w),
          entry := decide (entriesUsed c.pre c.w.core < 16), polled := c.s.cycle, pc := c.slot.pc }
      if waitHolds k m.data then
        .go (if o.acq then startAcquire c.s c.w.uid (wordScope c.s c.w) none none else c.s) []
      else .go (c.withSlot { c.mine with block := .waitw k }) []

def execWaitw (o : WaitwOp) (s : State) : Host.Outcome State Fault Refusal := issue (.waitw o) (waitwEff o) s

def execWaitwReevaluation (warp : Nat) (slot : Bool) (s : State) : Host.Outcome State Fault Refusal :=
  goesOn (waitwEvent s warp slot (fun _ k => if k.entry then some k else none))

def execWaitwPoll (warp : Nat) (slot : Bool) (s : State) : Host.Outcome State Fault Refusal :=
  goesOn (waitwEvent s warp slot (fun _ k =>
    if !k.entry && decide (k.polled + 256 ≤ s.cycle) then some { k with polled := s.cycle } else none))

def execWatchEntryTaken (warp : Nat) (slot : Bool) (s : State) : Host.Outcome State Fault Refusal :=
  goesOn (waitwEvent s warp slot (fun w k =>
    if !k.entry && decide (entriesUsed s w.core < 16) then some { k with entry := true } else none))

/-- WAKE: every slot of the gang that waits on the word reads it again (R266). -/
def wakeAll (s : State) (gang key : Nat) : State :=
  (s.warps.filter (fun w => (findTeam? s w.team).elim false (fun t => t.gang == gang))).foldl (fun s w =>
    [false, true].foldl (fun s n =>
      waitwEvent s w.uid n (fun _ k => if k.key == key then some k else none)) s) s

def wakeEff (o : WakeOp) (c : Cx) : Eff :=
  match c.checkWord (c.sca o.base.toNat + o.off.getD 0) 0 with
  | .eff e => e
  | .ok key => .go (wakeAll c.s ((findTeam? c.s c.w.team).elim 0 (·.gang)) key) []

def execWake (o : WakeOp) (s : State) : Host.Outcome State Fault Refusal := issue (.wake o) (wakeEff o) s

/-! ### Rings and flags (R267, R268) -/

/-- X8 of RARV and RWT. -/
def ChamberOp.x8 (o : ChamberOp) : Word := BitVec.ofNat 32 (o.chamber.toNat * 32 + o.ring.toNat)

def Cx.chamber? (c : Cx) (o : ChamberOp) : Option Chamber :=
  (findTeam? c.pre c.preW.team).bind (fun t => chamberOf? t c.preW.core o.ring.toNat o.chamber.toNat)

def rarvEff (o : RarvOp) (c : Cx) : Eff :=
  match c.chamber? o.at_ with
  | none => .trap 0x0E 0 (ChamberOp.x8 o.at_)
  | some _ => .go (c.release c.s (.ring o.at_.ring o.at_.chamber)) []

def execRarv (o : RarvOp) (s : State) : Host.Outcome State Fault Refusal := issue (.rarv o) (rarvEff o) s

def rwtEff (o : RwtOp) (c : Cx) : Eff :=
  match c.chamber? o.at_ with
  | none => .trap 0x0E 0 (ChamberOp.x8 o.at_)
  | some x =>
    let phase := (c.sval o.phase).getLsbD 0
    if x.full == o.full && x.phase == phase then .go (startAcquire c.s c.w.uid .core none none) []
    else .go (c.withSlot { c.mine with block := .ring o.at_.ring o.at_.chamber o.full phase }) []

def execRwt (o : RwtOp) (s : State) : Host.Outcome State Fault Refusal := issue (.rwt o) (rwtEff o) s

def tflagEff (t : SVal) (c : Cx) : Eff :=
  let v := c.sval t
  if (gridOf c.pre c.preW).elim 0 (·.r.tiles) ≤ v.toNat then .trap 0x0F 0 v
  else .go (c.release c.s (.tflag v)) []

def execTflag (t : SVal) (s : State) : Host.Outcome State Fault Refusal := issue (.tflag t) (tflagEff t) s

/-! ### Sleeping and yielding slots (R231, R233) -/

/-- A slot whose pause is over is ready; that of a warp which is swapped out or saved stands still (R233, R322). -/
def pauseEvent (s : State) (uid : Nat) (n : Bool) (past : Block → Bool) : State :=
  if !(findWarp? s uid).elim false (isActive s) then s
  else onWarp s uid (fun w => w.setSlot n ((w.slot? n).map (fun x => if past x.block then { x with block := .none } else x)))

def execSleepExpiry (warp : Nat) (slot : Bool) (s : State) : Host.Outcome State Fault Refusal :=
  goesOn (pauseEvent s warp slot (fun b => match b with
    | .sleep t => decide (t ≤ s.cycle)
    | _ => false))

def execYieldTimeout (warp : Nat) (slot : Bool) (s : State) : Host.Outcome State Fault Refusal :=
  goesOn (pauseEvent s warp slot (fun b => match b with
    | .yield t _ => decide (t ≤ s.cycle)
    | _ => false))

end Sys2Proof.Machine
end

