-- ==== Sys2Proof/Machine/Near.lean ====
section
/-! DEFINITION. Near-bank operations 0xB0 to 0xB4 (12 R269 to R275): what the warp does at issue, the parts the ploughs
and home pairs run, step by step, and their completion (07 R156, 20 R359). -/

namespace Sys2Proof.Machine

open Sys2Proof

/-! ### Descriptors -/

/-- Words read from the scratchpad for the warp, or what happens instead. -/
inductive ReadWords where
  | ok (ws : List Word)
  | eff (e : Eff)

/-- Consume `n` words at a plain store address, for the whole warp: of the gang's scratchpads alone where `scratch` is set, else
of its team blocks (R53, R142, R150). -/
def Cx.consumeAt (c : Cx) (scratch : Bool) (a : Word) : Nat → ReadWords
  | 0 => .ok []
  | n + 1 =>
    match plainTgt c.pre c.preW a scratch with
    | none => .eff (.stop (xlatFail c.pre c.preW (.prot false) 0 0 (a.setWidth 64) c.slot.pc))
    | some p =>
      let m := c.pre.store.word (storeKey p.1 (planeAt c.pre c.preW p.1) p.2)
      if !m.isGood then .eff (.stop (containBad c.pre c.preW m c.lowest c.slot.pc (a.setWidth 64)))
      else match c.consumeAt scratch (a + 4) n with
        | .ok ws => .ok (m.data :: ws)
        | r => r

/-- Consume `n` words of the gang's scratchpads. -/
def Cx.consume (c : Cx) (a : Word) (n : Nat) : ReadWords := c.consumeAt true a n

/-- Consume `n` words at an address aligned to `align` bytes (R269). -/
def Cx.readDesc (c : Cx) (a : Word) (align n : Nat) : ReadWords :=
  if a.toNat % align != 0 then .eff (.trap 0x04 0 a) else c.consume a n

/-- Word i of a list. -/
def wordAt (ws : List Word) (i : Nat) : Word := ws.getD i 0
/-- The 64-bit value in words i and i + 1. -/
def dwordAt (ws : List Word) (i : Nat) : DWord := pairUp (wordAt ws i) (wordAt ws (i + 1))

/-- A descriptor's field check failed (R269). -/
def badDesc (a : Word) : Eff := .trap 0x01 1 a

/-! ### Granules (R269) -/

/-- A granule an instruction names: its virtual address and whether it is written. -/
structure NamedGranule where
  va : DWord
  dst : Bool

/-- A translated granule: virtual address, granule number, fallow, translated by a range entry. -/
structure XGranule where
  va : DWord
  num : Nat
  fal : Bool
  rng : Bool

/-- Translated granules, or what happens instead. -/
inductive Granules where
  | ok (l : List XGranule)
  | eff (e : Eff)

/-- Physical address and attributes of a translation, whether or not the partition's ranges hold it: a part that
reaches a granule outside them freezes (R359). -/
def Xlat.place? : Xlat → Option (Nat × Attr × Bool)
  | .ok pa a rng | .freeze pa a rng => some (pa, a, rng)
  | _ => none

/-- A range entry gave the translation (R347). -/
def Xlat.rng : Xlat → Bool
  | .ok _ _ rng | .freeze _ _ rng | .prot rng => rng
  | _ => false

/-- The translation of each granule, in order; the first that does not translate stops the instruction. What stands for
the lane of an access is its ACC code: 1 for a granule written (R347). -/
def granulePass (s : State) (w : Warp) : List NamedGranule → XlatPass
  | [] => .all []
  | g :: rest =>
    match warpXlat s w g.va with
    | .wait s => .wait s
    | .failed x s => .stop g.dst.toNat g.va x s
    | .done x =>
      let step : Bool := match x with
        | .prot _ => dbits g.va 57 7 != 0
        | .ok _ _ _ | .freeze _ _ _ => false
        | _ => true
      if step then .stop g.dst.toNat g.va x s
      else match granulePass s w rest with
        | .all t => .all ((0, g.va, x) :: t)
        | r => r

/-- A granule that may not be used: no HBM there, not memory-side, or a read-only destination (R269). -/
def granuleBad (g : NamedGranule) (x : Xlat) : Bool :=
  match x.place? with
  | some (pa, a, _) => hbmEnd ≤ pa || !a.ms || (g.dst && a.ro)
  | none => true

/-- Check and translate the granules an instruction names (R269, R349). -/
def Cx.granules (c : Cx) (gs : List NamedGranule) : Granules :=
  match gs.find? (fun g => g.va.toNat % 2048 != 0) with
  | some g => .eff (.trap 0x04 0 (lowWord g.va))
  | none =>
    match granulePass c.pre c.preW gs with
    | .wait s => .eff (.stop (holdSlot s c.preW.uid c.n))
    | .stop acc va x s => .eff (.stop (xlatFail s c.preW x 0 acc va c.slot.pc))
    | .all l =>
      match (gs.zip l).find? (fun p => granuleBad p.1 p.2.2.2) with
      | some p =>
        .eff (.stop (xlatFail c.pre c.preW (.prot p.2.2.2.rng) 0 p.1.dst.toNat p.1.va c.slot.pc))
      | none => .ok (l.filterMap (fun p => p.2.2.place?.map (fun q => ⟨p.2.1, q.1 / 2048, q.2.1.fal, q.2.2⟩)))

/-- Channel of a granule (R61). -/
def granuleChannel (g : Nat) : Nat := g % 384

/-- A channel rule is broken at a granule (R269). -/
def Cx.badChannel (c : Cx) (va : DWord) (rng write : Bool) : Eff :=
  .stop (xlatFail c.pre c.preW (.prot rng) 0 write.toNat va c.slot.pc)

/-! ### Issue -/

/-- A part of an operation with nothing done. -/
def Cx.part (c : Cx) (channel : Nat) (kind : PartKind) (va : DWord) (l : List XGranule) : Part :=
  { id := 0, op := 0, warp := c.w.uid, channel := channel, kind := kind, accepted := false, upc := 0, wpos := 0, target := 0, acc := [],
    err := none, finished := false, notices := [], frozen := none, va := va, fals := (l.filter (·.fal)).map (·.num),
    rngs := (l.filter (·.rng)).map (·.num), issuer := issuerOf c.pre c.preW }

/-- Send the parts of an operation (R269). -/
def Cx.sendParts (c : Cx) (ps : List Part) : Eff :=
  let (op, s) := fresh c.s
  let s := { s with ops := s.ops ++ [c.newOp op (.plough none) 0 0 [] false] }
  .go (ps.foldl (fun s p =>
    let (id, s) := fresh s
    { s with parts := s.parts ++ [{ p with id := id, op := op }] }) s) []

/-- Channels of granules, ascending, each once. -/
def channelsOf (l : List Nat) : List Nat := (List.range 384).filter (fun ch => l.any (fun g => granuleChannel g == ch))

/-- Insert by ascending key. -/
def insertBy {α : Type} (key : α → Nat) (x : α) : List α → List α
  | [] => [x]
  | y :: rest => if key x < key y then x :: y :: rest else y :: insertBy key x rest
def sortBy {α : Type} (key : α → Nat) (l : List α) : List α := l.foldr (insertBy key) []

/-- NBSA (R272). -/
def nbsaEff (accd : Bool) (d : SReg) (c : Cx) : Eff :=
  let a := c.sca d.toNat
  match c.readDesc a 16 4 with
  | .eff e => e
  | .ok h =>
    let n := bits (wordAt h 0) 0 6 + 1
    match c.consume (a + 16) (4 * n) with
    | .eff e => e
    | .ok rows =>
      let bad := bits (wordAt h 0) 6 26 != 0 || wordAt h 1 != 0 ||
        (List.range n).any (fun i => wordAt rows (4 * i + 3) != 0)
      if bad then badDesc a
      else
        let dst := dwordAt h 2
        let srcs := (List.range n).map (fun i => dwordAt rows (4 * i))
        match c.granules (⟨dst, true⟩ :: srcs.map (fun v => ⟨v, false⟩)) with
        | .eff e => e
        | .ok l =>
          let gs := l.map (·.num)
          let ch := granuleChannel (gs.headD 0)
          match l.find? (fun p => granuleChannel p.num != ch) with
          | some p => c.badChannel p.va p.rng false
          | none =>
            let scales := (List.range n).map (fun i => wordAt rows (4 * i + 2))
            c.sendParts [c.part ch (.nbsa accd (gs.headD 0) ((gs.drop 1).zip scales)) dst l]

def execNbsa (accd : Bool) (d : SReg) (s : State) : Host.Outcome State Fault Refusal := issue (.nbsa accd d) (nbsaEff accd d) s

/-- Consecutive granules from an address on. -/
def runOf (va : DWord) (n : Nat) (dst : Bool) : List NamedGranule :=
  (List.range n).map (fun k => ⟨va + BitVec.ofNat 64 (2048 * k), dst⟩)

def countOk (w : Word) : Bool := 1 ≤ w.toNat && w.toNat ≤ 512

/-- Source and destination of a pair lie in one bank and one subarray of their channel (R61, R273). -/
def sameSubarray (g h : Nat) : Bool :=
  g / 384 % 64 == h / 384 % 64 && g / 384 / 64 / 512 == h / 384 / 64 / 512

/-- NBCP (R273): parts of the ploughs, then parts of the home pairs. DESIGN CHOICE (log 123): a part's granules go by ascending
physical destination address. -/
def nbcpEff (d : SReg) (c : Cx) : Eff :=
  let a := c.sca d.toNat
  match c.readDesc a 16 8 with
  | .eff e => e
  | .ok h =>
    if !countOk (wordAt h 4) || wordAt h 5 != 0 || wordAt h 6 != 0 || wordAt h 7 != 0 then badDesc a
    else
      let n := (wordAt h 4).toNat
      match c.granules (runOf (dwordAt h 0) n false ++ runOf (dwordAt h 2) n true) with
      | .eff e => e
      | .ok l =>
        let pairs := sortBy (·.2) (((l.take n).map (·.num)).zip ((l.drop n).map (·.num)))
        let own := pairs.filter (fun p => granuleChannel p.1 == granuleChannel p.2)
        let cross := pairs.filter (fun p => granuleChannel p.1 != granuleChannel p.2)
        let own := (channelsOf (own.map (·.2))).map (fun ch =>
          c.part ch (.nbcp (own.filter (fun p => granuleChannel p.2 == ch))) (dwordAt h 2) l)
        let cross := ((channelsOf (cross.map (·.1))).map (fun sc => (channelsOf (cross.map (·.2))).filterMap (fun dc =>
          let ps := cross.filter (fun p => granuleChannel p.1 == sc && granuleChannel p.2 == dc)
          if ps.isEmpty then none else some (c.part dc (.cross ps) (dwordAt h 2) l)))).flatten
        c.sendParts (own ++ cross)

def execNbcp (d : SReg) (s : State) : Host.Outcome State Fault Refusal := issue (.nbcp d) (nbcpEff d) s

/-- NBZR (R273). DESIGN CHOICE (log 123): a part's granules go by ascending physical address. -/
def nbzrEff (d : SReg) (c : Cx) : Eff :=
  let a := c.sca d.toNat
  match c.readDesc a 16 4 with
  | .eff e => e
  | .ok h =>
    if !countOk (wordAt h 2) || wordAt h 3 != 0 then badDesc a
    else match c.granules (runOf (dwordAt h 0) (wordAt h 2).toNat true) with
      | .eff e => e
      | .ok l =>
        let gs := sortBy id (l.map (·.num))
        c.sendParts ((channelsOf gs).map (fun ch =>
          c.part ch (.nbzr (gs.filter (fun g => granuleChannel g == ch))) (dwordAt h 0) l))

def execNbzr (d : SReg) (s : State) : Host.Outcome State Fault Refusal := issue (.nbzr d) (nbzrEff d) s

/-- NBOPT (R274). -/
def nboptEff (d : SReg) (c : Cx) : Eff :=
  let a := c.sca d.toNat
  match c.readDesc a 16 20 with
  | .eff e => e
  | .ok h =>
    if !countOk (wordAt h 8) || wordAt h 9 != 0 || wordAt h 19 != 0 then badDesc a
    else
      let n := (wordAt h 8).toNat
      match c.granules (runOf (dwordAt h 0) n true ++ runOf (dwordAt h 2) n true ++ runOf (dwordAt h 4) n true ++
          runOf (dwordAt h 6) n false) with
      | .eff e => e
      | .ok l =>
        let g (array k : Nat) : Nat := (l[array * n + k]?).elim 0 (·.num)
        let blocks := (List.range n).map (fun k => (g 0 k, g 1 k, g 2 k, g 3 k, k))
        let chOk (b : Nat × Nat × Nat × Nat × Nat) : Bool :=
          [b.2.1, b.2.2.1, b.2.2.2.1].all (fun x => granuleChannel x == granuleChannel b.1)
        match blocks.find? (fun b => !chOk b) with
        | some b => c.badChannel (dwordAt h 0 + BitVec.ofNat 64 (2048 * b.2.2.2.2)) ((l[b.2.2.2.2]?).any (·.rng)) true
        | none =>
          c.sendParts ((channelsOf (blocks.map (·.1))).map (fun ch =>
            c.part ch (.nbopt (blocks.filter (fun b => granuleChannel b.1 == ch)) h) (dwordAt h 2) l))

def execNbopt (d : SReg) (s : State) : Host.Outcome State Fault Refusal := issue (.nbopt d) (nboptEff d) s

/-- Plough operations of the warp are outstanding: NBFN waits for them (R275). -/
def nbfnHeld (c : Cx) : Bool := !holdDone c.pre c.preW.uid (.nbfn, c.preW.seq)

/-- NBFN: SI words of the domain become I; error status contains the gang (R156, R275). -/
def nbfnEff (c : Cx) : Eff :=
  match c.preW.ploughError with
  | some a => .stop (contain c.pre c.preW 6 0 0x07 c.slot.pc a)
  | none => .go (dropSi c.s (domainOf c.s c.w.core)) []

def execNbfn (s : State) : Host.Outcome State Fault Refusal := issueWith nbfnHeld .nbfn nbfnEff s

/-! ### Acceptance (R269) -/

def Part.isCross (p : Part) : Bool :=
  match p.kind with
  | .cross _ => true
  | _ => false

/-- A part may be accepted: its plough holds fewer than 8, and no earlier part waits at its input. -/
def partAcceptable (s : State) (p : Part) : Bool :=
  !p.accepted && (p.isCross ||
    ((s.parts.filter (fun q => q.channel == p.channel && !q.isCross && q.accepted)).length < 8 &&
     !s.parts.any (fun q => q.channel == p.channel && !q.isCross && !q.accepted && decide (q.id < p.id))))

/-- An operation all of whose parts are accepted lowers `nm` (R26). -/
def acceptedOp (s : State) (op : Nat) : State :=
  if s.parts.any (fun p => p.op == op && !p.accepted) then s
  else match findOp? s op with
    | none => s
    | some o => if o.accepted then s else lowerCtr (setOp s { o with accepted := true }) o.warp .nm

def partAccepted (s : State) (id : Nat) : State :=
  match findPart? s id with
  | none => s
  | some p => if partAcceptable s p then acceptedOp (setPart s { p with accepted := true }) p.op else s

def execPloughPartAccepted (part : Nat) (s : State) : Host.Outcome State Fault Refusal := goesOn (partAccepted s part)

/-! ### Row steps (R270 to R274) -/

/-- The 16 lines of a granule. -/
def granuleLines (g : Nat) : List Nat := (List.range 16).map (fun i => 16 * g + i)

/-- The 512 words of a granule as the home reads them. -/
def granuleWords (s : State) (p : Part) (g : Nat) : List CWord :=
  ((granuleLines g).map (fun l => (List.range 32).map (fun j => homeWord s l j (p.fals.contains g)))).flatten

/-- Words `lo` to `hi - 1` of a granule that lie in its line i, by word of the line. -/
def lineWords (ws : List CWord) (lo hi i : Nat) : Tab CWord :=
  (((ws.drop (32 * i)).take 32).zipIdx.filter (fun p => decide (lo ≤ 32 * i + p.2) && decide (32 * i + p.2 < hi))).map
    (fun p => (p.2, p.1))

/-- A plough has written words of a line: a load whose request for the line is still to be served takes with it the words
that it had from the L1, so that the new words of the line that it returns form a prefix (R113, log 101). -/
def rereadLine (s : State) (line : Nat) : State :=
  (s.reqs.filter (fun q => q.line == line && q.miss != 0)).foldl (fun s q =>
    let again (o : Op) (x : OpWord) : Bool := o.kind.isLoad && o.words.any (fun y => y.waitsOn q.miss) && x.got.isSome &&
      loadReq x.pol == q.kind && x.hbm?.elim false (fun p => p.1 == line)
    let ops := s.ops.map (fun o =>
      { o with words := o.words.map (fun x => if again o x then { x with got := none, miss := some q.miss } else x) })
    let more := waitedWords { s with ops := ops } q.miss line
    { s with ops := ops, reqs := s.reqs.map (fun r => if r.id == q.id then { r with mask := r.mask ||| more } else r) }) s

/-- Write words of a granule line by line, in ascending order (R113, R271). -/
def granuleWrite (s : State) (p : Part) (g lo hi : Nat) (ws : List CWord) : State :=
  (List.range 16).foldl (fun s i =>
    let l := lineWords ws lo hi i
    if l.isEmpty then s else rereadLine (engineWrite s (16 * g + i) l (p.fals.contains g)) (16 * g + i)) s

/-- A granule is written whole: its lines leave the L2 slice and its sectors the poison record (R147, R271). -/
def granuleDone (s : State) (p : Part) (g : Nat) (ws : List CWord) : State :=
  let ch := granuleChannel g
  let h := getHome s ch
  let h := { h with l2 := h.l2.filter (fun l => l / 16 != g) }
  setHome s ch (if p.fals.contains g || pageDead s (pageOfLine (16 * g)) then h
    else (List.range 16).foldl (fun h i => healSectors h (16 * g + i) (lineWords ws 0 512 i)) h)

/-- Corrupt words that the plough meets enter the poison record (R147). -/
def noteGranule (s : State) (g : Nat) (ws : List CWord) : State :=
  ws.zipIdx.foldl (fun s p => if p.1.isCorrupt then addPoison s (16 * g + p.2 / 32) (p.2 % 32) else s) s

/-- A part's result of one element goes to a granule in poisoned form, the event to the fleet log (R156): words `lo` to
`hi - 1`. -/
def notePoison (s : State) (g lo hi : Nat) (ws : List CWord) : State :=
  ws.zipIdx.foldl (fun s p => if p.1.isPoisoned && decide (lo ≤ p.2) && decide (p.2 < hi) then poisonEvent s (16 * g + p.2 / 32) (p.2 % 32) else s) s

/-- Index of the first poisoned word. -/
def firstPoison? (ws : List CWord) : Option Nat := ws.findIdx? (fun w => w.isPoisoned)

/-- Value of an FP32 operation. -/
def mul32 (a b : Nat) : Nat := (fmulElem fmtF32 .rne a b).1
def fma32 (a b c : Nat) : Nat := (fmaF32 a b c).1
def add32 (a b : Nat) : Nat := (addF32 a b).1
def div32 (a b : Nat) : Nat := (fdivElem fmtF32 .rne a b).1

/-- The correctly rounded FP32 square root (R274). -/
def sqrt32 (x : Nat) : Nat :=
  match fmtF32.decode x with
  | .nan _ => fmtF32.nan
  | .inf true => fmtF32.nan
  | .inf false => fmtF32.infEnc
  | .fin neg m e =>
    if m == 0 then x
    else if neg then fmtF32.nan
    else
      let m' := if e % 2 == 0 then m else 2 * m
      let e' := if e % 2 == 0 then e else e - 1
      let r := isqrt (m' * 2 ^ 100)
      (fmtF32.round .rne false r (e' / 2 - 50) (r * r != m' * 2 ^ 100)).1

/-- Row i added to the accumulators (R272); an element with a bad operand is poisoned. -/
def nbsaRow (scale : Word) (row acc : List CWord) : List CWord :=
  (row.zip acc).map (fun p =>
    if !p.1.isGood || !p.2.isGood then poison p.2
    else good (BitVec.ofNat 32 (fma32 scale.toNat p.1.data.toNat p.2.data.toNat)))

/-- A result whose element had a bad operand keeps the memory word's data (R140, R156). -/
def poisonOver (old new : List CWord) : List CWord := (old.zip new).map (fun p => if p.2.isGood then p.2 else poison p.1)

/-- Results of one element of NBOPT: m', v', w' (R274). -/
def nboptElem (k : List Word) (w m v g : Nat) : Nat × Nat × Nat :=
  let q (i : Nat) : Nat := (wordAt k i).toNat
  let m1 := fma32 (q 10) m (mul32 (q 11) g)
  let v1 := fma32 (q 12) v (mul32 (q 13) (mul32 g g))
  let mh := mul32 m1 (q 17)
  let vh := mul32 v1 (q 18)
  let r := div32 mh (add32 (sqrt32 vh) (q 15))
  let w1 := fma32 ((q 14) ^^^ 0x80000000) (fma32 (q 16) w r) w
  (m1, v1, w1)

/-- Results of a block: words for m', v' and w' (R156, R274). -/
def nboptBlock (k : List Word) (acc : List CWord) : List CWord × List CWord × List CWord :=
  let w := acc.take 512
  let m := (acc.drop 512).take 512
  let v := (acc.drop 1024).take 512
  let g := (acc.drop 1536).take 512
  let rs := (w.zip (m.zip (v.zip g))).map (fun p =>
    let r := nboptElem k p.1.data.toNat p.2.1.data.toNat p.2.2.1.data.toNat p.2.2.2.data.toNat
    let ok := p.1.isGood && p.2.1.isGood && p.2.2.1.isGood && p.2.2.2.isGood
    let out (x : Nat) (old : CWord) : CWord := if ok then good (BitVec.ofNat 32 x) else poison old
    (out r.1 p.2.1, out r.2.1 p.2.2.1, out r.2.2 p.1))
  (rs.map (·.1), rs.map (·.2.1), rs.map (·.2.2))

/-- Steps of an NBCP pair: one in one subarray, else a read and a write (R273). -/
def pairSteps (p : Nat × Nat) : Nat := if sameSubarray p.1 p.2 then 1 else 2

/-- The pair at a micro-PC, and the step within it. -/
def pairAt : List (Nat × Nat) → Nat → Option ((Nat × Nat) × Nat)
  | [], _ => none
  | p :: rest, k => if k < pairSteps p then some (p, k) else pairAt rest (k - pairSteps p)

/-- What a part's next step reads and writes. -/
inductive Step where
  /-- read a granule into the accumulators -/
  | load (g : Nat)
  /-- add a scaled row -/
  | row (g : Nat) (scale : Word)
  /-- write a granule; address of its first word -/
  | store (g : Nat) (ws : List CWord) (va : DWord)
  /-- copy a granule inside the DRAM -/
  | copy (src dst : Nat)
  | done

/-- The next step of a part (R272 to R274). -/
def Part.step (p : Part) : Step :=
  match p.kind with
  | .nbsa accd dst rows =>
    let pre := accd.toNat
    if p.upc < pre then .load dst
    else match rows[p.upc - pre]? with
      | some r => .row r.1 r.2
      | none => if p.upc == pre + rows.length then .store dst p.acc p.va else .done
  | .nbzr dsts =>
    (match dsts[p.upc]? with
     | some g => .store g (List.replicate 512 (good 0)) p.va
     | none => .done)
  | .nbcp pairs =>
    (match pairAt pairs p.upc with
     | some (q, k) => if pairSteps q == 1 then .copy q.1 q.2 else if k == 0 then .load q.1 else .store q.2 p.acc p.va
     | none => .done)
  | .cross pairs =>
    (match pairs[p.upc]? with
     | some q => .copy q.1 q.2
     | none => .done)
  | .nbopt blocks k =>
    (match blocks[p.upc / 7]? with
     | some b =>
       let off : DWord := BitVec.ofNat 64 (2048 * b.2.2.2.2)
       let r := nboptBlock k p.acc
       match p.upc % 7 with
       | 0 => .load b.1
       | 1 => .load b.2.1
       | 2 => .load b.2.2.1
       | 3 => .load b.2.2.2.1
       | 4 => .store b.2.1 r.1 (dwordAt k 2 + off)
       | 5 => .store b.2.2.1 r.2.1 (dwordAt k 4 + off)
       | _ => .store b.1 r.2.2 (dwordAt k 0 + off)
     | none => .done)

/-- Granules that a step touches. -/
def Step.granules : Step → List Nat
  | .load g | .row g _ | .store g _ _ => [g]
  | .copy a b => [a, b]
  | .done => []

/-- Accumulators after a read: NBOPT gathers four granules, the others keep one. -/
def Part.gather (p : Part) (ws : List CWord) : List CWord :=
  match p.kind with
  | .nbopt _ _ => (if p.upc % 7 == 0 then [] else p.acc) ++ ws
  | _ => ws

/-- A plough that computes is an endpoint; one that copies is a hop (R141). -/
def Part.computes (p : Part) : Bool :=
  match p.kind with
  | .nbsa _ _ _ | .nbopt _ _ => true
  | _ => false

/-- Accumulators of NBSA before its first row. -/
def Part.sums (p : Part) : List CWord := if p.acc.isEmpty then List.replicate 512 (good 0) else p.acc

/-- The part with its step done: the next micro-PC, and whether it was the last. -/
def Part.advance (p : Part) : Part :=
  let q := { p with upc := p.upc + 1 }
  match q.step with
  | .done => { q with finished := true }
  | _ => q

/-- The next `n` words of a granule are written, at least one: a reader may see the step half done (R113). -/
def storeSome (s : State) (p : Part) (g n : Nat) (ws : List CWord) (va : DWord) : State :=
  let hi := min 512 (p.wpos + max 1 n)
  let u := granuleWrite s p g p.wpos hi ws
  let u := if p.computes then notePoison u g p.wpos hi ws else u
  let p := { p with wpos := hi, target := g, notices := p.notices ++ newNotices s u }
  if hi < 512 then setPart u p
  else
    let err := match p.err with
      | some a => some a
      | none => if p.computes then (firstPoison? ws).map (fun i => va + BitVec.ofNat 64 (4 * i)) else none
    setPart (granuleDone u p g ws) { p with err := err, wpos := 0 }.advance

/-- Carry out a part's next step, or `n` words of its write, on lines that are not busy. -/
def partStep (s : State) (p : Part) (n : Nat) : State :=
  match p.step with
  | .done => setPart s { p with finished := true }
  | .load g =>
    let ws := granuleWords s p g
    let s := if p.computes then noteGranule s g ws else s
    setPart s { p with acc := p.gather ws }.advance
  | .row g scale =>
    let ws := granuleWords s p g
    let s := noteGranule s g ws
    setPart s { p with acc := nbsaRow scale ws p.sums }.advance
  | .store g ws va => storeSome s p g n (if p.computes then poisonOver (granuleWords s p g) ws else ws) va
  | .copy a b =>
    let p := if p.wpos == 0 then { p with acc := granuleWords s p a } else p
    storeSome s p b n p.acc 0

/-- The granule a step writes. -/
def Step.writes (st : Step) (g : Nat) : Bool :=
  match st with
  | .store h _ _ | .copy _ h => g == h
  | _ => false

/-- A part that reaches a granule outside its partition's ranges freezes with a record of type 4 (R347, R359). -/
def freezePart (s : State) (p : Part) (g : Nat) : State :=
  let i := p.issuer
  let (id, s) := postRec s i.part 4 (.part p.id)
    (issuerRecord i 6 (p.step.writes g).toNat (p.rngs.contains g) 0 0 (BitVec.ofNat 64 (2048 * g)) 0)
  noteFreeze (setPart s { p with frozen := some id }) (channelDie (granuleChannel g)) (granuleChannel g) (2048 * g)

/-- Granules that a part's step has still to read or write. -/
def Part.left (p : Part) : List Nat := if p.wpos == 0 then p.step.granules else p.step.granules.filter p.step.writes

/-- What a part asks of the homes for a granule: its lines, those still to be written where it is written (R271). -/
def Part.asks (p : Part) (g : Nat) : List Ask :=
  ((granuleLines g).drop (if p.step.writes g then p.wpos / 32 else 0)).map (fun l =>
    ⟨l, 0xFFFFFFFF, p.step.writes g, !p.isCross⟩)

/-- A part cannot have its granules yet. -/
def partWaits (s : State) (p : Part) : Bool := (p.left.map p.asks).flatten.any (askWaits s (.engine p.id))

/-- The entry of a line is used; what the plough reads and writes does not pass through the L2 slice (R271). -/
def touchEntry (s : State) (line : Nat) : State := setHome s (channelOf line) (dirTouch (getHome s (channelOf line)) line)

/-- Run one step of a part; until it can have its granules its requests wait at the homes (R70, R75, R271). -/
def runPart (s : State) (p : Part) (n : Nat) : State :=
  let asks := (p.left.map p.asks).flatten
  match p.left.find? (fun g => !inRanges (getPartition s p.issuer.part) (2048 * g)) with
  | some g => freezePart s p g
  | none =>
    if partWaits s p then askAll s (.engine p.id) asks else askServed touchEntry (.engine p.id) asks (partStep s p n)

/-- The part a plough runs: the first accepted one that is neither over nor frozen (R269). DESIGN CHOICE (log 124): a part whose
granules are all done is over for the plough, so that the next one runs, while its Towpath notices are still out; it counts
among the 8 of its plough until they have come back. -/
def runningPart? (s : State) (ch : Nat) : Option Part :=
  s.parts.find? (fun p => p.channel == ch && !p.isCross && p.accepted && !p.finished && p.frozen.isNone)

/-- Up to 16 of the requests that wait at a home for the plough are admitted, oldest first (R270). -/
def admitReqs (s : State) (ch : Nat) : State :=
  let waits := (waitingAt s ch).filter (fun r => !r.admitted && !(getHome s ch).l2.contains r.line)
  let ids := ((sortBy (·.arrived) waits).map (·.id)).take 16
  { s with reqs := s.reqs.map (fun r => if ids.contains r.id then { r with admitted := true } else r) }

/-- The plough of a channel goes on by a step, or by `n` words of its write; requests are admitted between steps (R270). -/
def ploughStep (s : State) (ch n : Nat) : State :=
  match runningPart? s ch with
  | none => s
  | some p =>
    let s := runPart s p n
    if (findPart? s p.id).elim false (fun q => q.wpos != 0) then s else admitReqs s ch

def execPloughRowStep (p : PloughTurn) (s : State) : Host.Outcome State Fault Refusal := goesOn (ploughStep s p.id p.words)

/-- Channel of a part's first source granule, for a cross-channel part that of all. -/
def Part.source (p : Part) : Nat :=
  match p.kind with
  | .cross pairs => granuleChannel (pairs.headD (0, 0)).1
  | _ => p.channel

/-- A destination home takes the granules of one source home one at a time (R273): another part is between them. -/
def pairTaken (s : State) (p : Part) : Bool :=
  s.parts.any (fun q => q.id != p.id && q.isCross && q.channel == p.channel && q.source == p.source && q.wpos != 0)

/-- The home pair moves the next granule of a cross-channel part, or `n` words of it (R273). It competes as ordinary requests
do. -/
def crossGranule (s : State) (id n : Nat) : State :=
  match findPart? s id with
  | none => s
  | some p =>
    if p.isCross && p.accepted && !p.finished && p.frozen.isNone && !pairTaken s p then runPart s p n else s

def execCrossChannelGranule (p : PloughTurn) (s : State) : Host.Outcome State Fault Refusal :=
  goesOn (crossGranule s p.id p.words)

/-! ### Completion (R156, R269) -/

/-- A part is over; its operation completes with its last part, and the warp learns of an error (R156). -/
def partOver (s : State) (p : Part) (err : Option DWord) : State :=
  let s := dropPart s p.id
  match findOp? s p.op with
  | none => s
  | some o =>
    let old : Option DWord := match o.kind with
      | .plough e => e
      | _ => none
    let e := match old with
      | some a => some a
      | none => err
    if s.parts.any (fun q => q.op == p.op) then setOp s { o with kind := .plough e }
    else
      let s := dropOp s o.id
      match e with
      | none => s
      | some a => onWarp s o.warp (fun w => { w with ploughError := some (w.ploughError.getD a) })

def partCompletes (s : State) (id : Nat) : State :=
  match findPart? s id with
  | none => s
  | some p => if p.finished && delivered s p.notices then partOver s p p.err else s

def execPloughPartCompletes (part : Nat) (s : State) : Host.Outcome State Fault Refusal := goesOn (partCompletes s part)

end Sys2Proof.Machine
end

