-- ==== Sys2Proof/Machine/Matrix.lean ====
section
/-! DEFINITION. The matrix group 0xC0 to 0xC8 (13 R276 to R286, 09 R189, R198, R199): checks and queues at issue, and
the events of the array and of the accumulator-side unit (R279, R280, 19 R333). -/

namespace Sys2Proof.Machine

open Sys2Proof

/-! ### Operand types (R276) -/

/-- Format of an operand type's elements; none for INT8. -/
def mmaFormat : MmaTy → Option Format
  | .bf16 => some fmtBf16
  | .f16 => some fmtF16
  | .e4m3 => some fmtE4m3
  | .e5m2 => some fmtE5m2
  | .i8 => none
  | .f32x3 | .f32x6 => some fmtF32

def mmaWidth (t : MmaTy) : Nat := (mmaFormat t).elim 8 (·.width)

/-- Depth K of a product (R282). -/
def mmaK : MmaTy → Nat
  | .e4m3 | .e5m2 | .i8 => 64
  | _ => 32

/-- Bytes of a row of A and of B, without the 16 bytes that end a pitch. -/
def rowA (t : MmaTy) : Nat := mmaK t * mmaWidth t / 8
def rowB (t : MmaTy) : Nat := 64 * mmaWidth t / 8
def tileA (t : MmaTy) : Nat := 32 * (rowA t + 16)
def tileB (t : MmaTy) : Nat := mmaK t * (rowB t + 16)

/-- Bytes of a drained row, and of the drain tile. -/
def drainRow : DrainFmt → Nat
  | .f32 => 256
  | .bf16 | .f16 => 128
  | .e4m3 | .mxe4m3 => 64
  | .mxe2m1 => 32
def drainTile (f : DrainFmt) : Nat := 32 * (drainRow f + 16)

/-- Bytes of an accumulator image (R284). -/
def imageBytes : Nat := 8192

def DrainFmt.isMx (f : DrainFmt) : Bool := f == .mxe4m3 || f == .mxe2m1

/-! ### Units and occupancy (R279) -/

/-- Cycles an operation occupies its unit. -/
def MxKind.cycles : MxKind → Nat
  | .mma t _ _ l => (match t with
      | .f32x3 => 48
      | .f32x6 => 96
      | _ => 16) + l.length
  | .acz => 2
  | .acld _ | .acst _ => 16
  | .tdrn f _ _ => if DrainFmt.isMx f then 24 else 16
  | .acsc _ | .acmx _ => 8
  | .acex _ => 64

/-! ### Issue (R278) -/

/-- Extents a matrix instruction names: address, alignment, bytes. -/
abbrev Extent := Word × Nat × Nat

/-- The extent is plain, RM = 0, and lies in the scratchpad of one team of the gang on the issuing core. -/
def extentOk (s : State) (w : Warp) (e : Extent) : Bool :=
  bits e.1 25 7 == 0 && (e.2.2 == 0 ||
    (match findTeam? s w.team with
     | none => false
     | some t =>
       match blockOwner? s t.gang w.core (bits e.1 0 20) (t.planeOn w.core) with
       | none => false
       | some o => decide (bits e.1 0 20 + e.2.2 ≤ o.baseOn w.core + (findGrid? s o.grid).elim 0 scratchBytes)))

/-- Alignment of every address, then protection of every extent (R278); `acc` is the ACC code of R347. -/
def Cx.checkExtents (c : Cx) (acc : Nat) (l : List Extent) : Option Eff :=
  match l.find? (fun e => e.1.toNat % e.2.1 != 0) with
  | some e => some (.trap 0x04 0 e.1)
  | none =>
    (l.find? (fun e => !extentOk c.pre c.preW e)).map (fun e =>
      .stop (xlatFail c.pre c.preW (.prot false) 0 acc (e.1.setWidth 64) c.slot.pc))

/-- Tile of the issuing core that an accumulator names (R21, R328). -/
def Cx.tile (c : Cx) (a : BitVec 4) : Nat :=
  (findTeam? c.pre c.preW.team).elim 0 (fun t => t.accBase.getD (coreIndex t c.preW.core) 0) + a.toNat

/-- Operand words that an operation reads in the store: first word and number of words of each tile or image (R280). -/
def MxKind.spans (k : MxKind) (core : Nat) (plane : Bool) : List (Nat × Nat) :=
  match k with
  | .mma t a b _ => [(storeKey core plane a, tileA t / 4), (storeKey core plane b, tileB t / 4)]
  | .acld a => [(storeKey core plane a, imageBytes / 4)]
  | _ => []

/-- Put an operation into its unit's queue (R279). -/
def Cx.enqueue (c : Cx) (s : State) (acc : BitVec 4) (g : Guard) (k : MxKind) : State :=
  let (id, s) := fresh s
  let core := getCore s c.w.core
  let plane := planeOf c.pre c.preW
  let op : MxOp := { id := id, warp := c.w.uid, pc := c.slot.pc, order := core.mxOrder, tile := c.tile acc,
                     mask := maskOf (c.lanes g), lane := c.lowest, kind := k, plane := plane,
                     spans := k.spans c.w.core plane, olds := [], reg := [], started := none, ended := none }
  { setCore s c.w.core { core with mxOrder := core.mxOrder + 1 } with mx := s.mx ++ [⟨c.w.core, op⟩] }

/-- An instruction whose only checks are its extents. -/
def mxEff (acc : BitVec 4) (g : Guard) (rw : Nat) (ext : List Extent) (k : MxKind) (c : Cx) : Eff :=
  match c.checkExtents rw ext with
  | some e => e
  | none => .go (c.enqueue c.s acc g k) []

/-- Extents of the tiles of a product. -/
def mmaExtents (t : MmaTy) (a b : Word) : List Extent := [(a, 16, tileA t), (b, 16, tileB t)]

def mmaEff (o : MmaOp) (c : Cx) : Eff :=
  let a := c.sca o.a.toNat
  let b := c.sca o.b.toNat
  mxEff o.acc o.guard 0 (mmaExtents o.ty a b) (.mma o.ty (bits a 0 20) (bits b 0 20) []) c

def execMma (o : MmaOp) (s : State) : Host.Outcome State Fault Refusal := issueWith (mxFull false) (.mma o) (mmaEff o) s

/-- An STS that the warp issued before an operation has not reached its bank (R280). -/
def storesOut (s : State) (warp id : Nat) : Bool := s.ops.any (fun o => o.warp == warp && o.kind == .sts && decide (o.id < id))

/-- Outlier entries read from the list: k, n and value, or what happens instead (R283). -/
inductive Outliers where
  | ok (l : List (Nat × Nat × Word))
  | eff (e : Eff)

def Cx.outliers (c : Cx) (t : MmaTy) (a : Word) : Nat → Outliers
  | 0 => .ok []
  | n + 1 =>
    match c.consume a 2 with
    | .eff e => .eff e
    | .ok ws =>
      let h := wordAt ws 0
      let k := bits h 0 8
      let col := bits h 8 8
      if bits h 16 16 != 0 || 64 ≤ col || mmaK t ≤ k then .eff (badDesc a)
      else match c.outliers t (a + 8) n with
        | .ok l => .ok ((k, col, wordAt ws 1) :: l)
        | r => r

/-- MMAO (R278, R283): the slot does not issue again for 20 + c/4 cycles. The list is read at issue, so the warp's earlier
STS have reached their banks by then (R280). -/
def mmaoEff (o : MmaoOp) (c : Cx) : Eff :=
  let a := c.sca o.a.toNat
  let b := c.sca o.b.toNat
  let list := c.sca o.list.toNat
  let n := c.sca (o.list.toNat + 1)
  if 256 < n.toNat then badDesc list
  else match c.checkExtents 0 (mmaExtents o.ty a b ++ [(list, 8, 8 * n.toNat)]) with
    | some e => e
    | none =>
      if storesOut c.pre c.preW.uid c.pre.nextId then .hold
      else match c.outliers o.ty list n.toNat with
      | .eff e => e
      | .ok l =>
        let s := c.enqueue c.s o.acc o.guard (.mma o.ty (bits a 0 20) (bits b 0 20) l)
        .go (setWarp s (c.w.setSlot c.n (some { c.mine with readyAt := c.s.cycle + 20 + (n.toNat + 3) / 4 }))) []

def execMmao (o : MmaoOp) (s : State) : Host.Outcome State Fault Refusal := issueWith (mxFull false) (.mmao o) (mmaoEff o) s

def execAcz (o : AccOp) (s : State) : Host.Outcome State Fault Refusal :=
  issueWith (mxFull false) (.acz o) (mxEff o.acc o.guard 0 [] .acz) s

def acldEff (o : AccMemOp) (c : Cx) : Eff :=
  let a := c.sca o.addr.toNat
  mxEff o.acc o.guard 0 [(a, 256, imageBytes)] (.acld (bits a 0 20)) c

def acstEff (o : AccMemOp) (c : Cx) : Eff :=
  let a := c.sca o.addr.toNat
  mxEff o.acc o.guard 1 [(a, 256, imageBytes)] (.acst (bits a 0 20)) c

def execAcld (o : AccMemOp) (s : State) : Host.Outcome State Fault Refusal := issueWith (mxFull false) (.acld o) (acldEff o) s
def execAcst (o : AccMemOp) (s : State) : Host.Outcome State Fault Refusal := issueWith (mxFull false) (.acst o) (acstEff o) s

/-- TDRN (R285). -/
def tdrnEff (o : TdrnOp) (c : Cx) : Eff :=
  let d := c.sca o.dst.toNat
  let e := o.scales.elim 0 (fun j => c.sca j.toNat)
  let ext : List Extent := (d, 16, drainTile o.fmt) :: (if o.scales.isSome then [(e, 4, 128)] else [])
  mxEff o.acc o.guard 1 ext (.tdrn o.fmt (bits d 0 20) (bits e 0 20)) c

def execTdrn (o : TdrnOp) (s : State) : Host.Outcome State Fault Refusal := issueWith (mxFull true) (.tdrn o) (tdrnEff o) s

/-- Key of a register operand's first lane word and how lane m reads it: the register and its neighbour side. -/
def accReg : Src → Nat
  | .v k => k.toNat
  | .left k => 256 + k.toNat
  | .right k => 512 + k.toNat
  | _ => 0

def execAcsc (o : AccVecOp) (s : State) : Host.Outcome State Fault Refusal :=
  issueWith (mxFull true) (.acsc o) (mxEff o.acc o.guard 0 [] (.acsc (accReg o.reg))) s
def execAcmx (o : AccVecOp) (s : State) : Host.Outcome State Fault Refusal :=
  issueWith (mxFull true) (.acmx o) (mxEff o.acc o.guard 0 [] (.acmx (accReg o.reg))) s
def execAcex (o : AccVecOp) (s : State) : Host.Outcome State Fault Refusal :=
  issueWith (mxFull true) (.acex o) (mxEff o.acc o.guard 0 [] (.acex (accReg o.reg))) s

/-! ### Starting (R279, R333) -/

/-- The next operation of a unit: the first in issue order that has not started. -/
def nextMx? (s : State) (core : Nat) (side : Bool) : Option MxOp :=
  ((s.mx.find? (fun e => e.core == core && e.op.kind.side == side && e.op.started.isNone))).map (·.op)

/-- The unit runs an operation. -/
def unitBusy (s : State) (core : Nat) (side : Bool) : Bool :=
  s.mx.any (fun e => e.core == core && e.op.kind.side == side && e.op.started.isSome && e.op.ended.isNone)

/-- An earlier operation on the same tile has not finished. -/
def tileBusy (s : State) (core : Nat) (o : MxOp) : Bool :=
  s.mx.any (fun e => e.core == core && e.op.tile == o.tile && decide (e.op.order < o.order) && e.op.ended.isNone)

/-- The array has run nothing for 1,024 cycles (R333). -/
def arrayIdle (s : State) (core : Nat) : Bool :=
  match (getCore s core).arrayRan with
  | none => true
  | some t => decide (t + 1024 ≤ s.cycle)

def setMx (s : State) (o : MxOp) : State :=
  { s with mx := s.mx.map (fun e => if e.op.id == o.id then { e with op := o } else e) }

/-- Key of the register word that lane m of a register operand reads; none at the edge of the lanes. -/
def mxKey? (w : Warp) (r m : Nat) : Option Nat :=
  (if r < 256 then some m else neighbour w.lanectl m (512 ≤ r)).map (vKey (r % 256))

/-- The register operand of an operation, if it has one. -/
def MxKind.reg? : MxKind → Option Nat
  | .acsc r | .acex r => some r
  | _ => none

/-- Words of the register operand that the participating lanes read from the banks (R54). -/
def mxBankReads (w : Warp) (o : MxOp) (r : Nat) : List (Nat × Nat) :=
  ((ones o.mask).filterMap (fun m => (mxKey? w r m).map (fun k => (m, k)))).filter (fun p => (windowGet? w.window p.2).isNone)

/-- A register operand is read as its operation starts (R279): single-bit errors are corrected, and a double-bit error
contains the gang of the lane that meets it (R54, R143). -/
def readMxReg (s : State) (w : Warp) (o : MxOp) (r : Nat) : State :=
  let bank := regBank s w
  let reads := mxBankReads w o r
  match reads.find? (fun p => tget? s.upsets (bank + p.2) == some true) with
  | some p => contain s w 2 p.1 0x07 o.pc (BitVec.ofNat 64 (blockAddr w p.2))
  | none =>
    let reg := (List.range 32).map (fun m => (mxKey? w r m).elim 0 (fun k => regWord s w bank k))
    setMx (correctWords s w (reads.map (·.2))) { o with started := some s.cycle, reg := reg }

/-- Start an operation: ACSC and ACEX read their register operand (R279). -/
def startMx (s : State) (o : MxOp) : State :=
  match o.kind.reg?, findWarp? s o.warp with
  | some r, some w => readMxReg s w o r
  | _, _ => setMx s { o with started := some s.cycle }

/-- The operation may not start yet: its unit or its tile is busy (R279), an STS before it has not reached its bank (R280),
or its quad belongs to no enabled partition (R361). -/
def mxHeld (s : State) (core : Nat) (side : Bool) (o : MxOp) : Bool :=
  unitBusy s core side || tileBusy s core o || storesOut s o.warp o.id || !quadRuns s (quadOf core)

/-- A unit starts its next operation; `staggered` is the start of an idle array in its quad's cycle (R333). -/
def mxStart (s : State) (core : Nat) (side staggered : Bool) : State :=
  match nextMx? s core side with
  | none => s
  | some o =>
    let idle := !side && arrayIdle s core
    let when_ := if idle then staggered && s.cycle / 8 % 24 == quadOf core % 24 else !staggered
    if when_ && !mxHeld s core side o then startMx s o else s

def execMatrixOperationStart (core : Nat) (side : Bool) (s : State) : Host.Outcome State Fault Refusal :=
  goesOn (mxStart s core side false)
def execArrayStaggeredStart (core : Nat) (s : State) : Host.Outcome State Fault Refusal :=
  goesOn (mxStart s core false true)

/-! ### Tiles -/

/-- Key of an accumulator word (R276). -/
def accKey (core tile m n : Nat) : Nat := (core * 32 + tile) * 2048 + 64 * m + n

/-- A row of a tile. -/
def accRow (s : State) (core tile m : Nat) : List Word := (List.range 64).map (fun n => tget s.acc (accKey core tile m n) 0)

def setAccRow (s : State) (core tile m : Nat) (ws : List Word) : State :=
  ws.zipIdx.foldl (fun s p =>
    let k := accKey core tile m p.2
    { s with acc := tput s.acc k p.1 0, accUpsets := terase s.accUpsets k }) s

/-- A word as the array has read it: what it holds, or a value it had since the operation's issue (R280). Which of them is
not stated, so it is free. -/
def mxWord (s : State) (o : MxOp) (key : Nat) : CWord :=
  match (o.olds.filter (fun p => p.1 == key)).map (·.2) with
  | [] => s.store.word key
  | old => old.getD (Config.mxReads s.tick key) (s.store.word key)

/-- Words of a row of an operand tile in the core's store, with their store addresses. -/
def tileRow (s : State) (core : Nat) (o : MxOp) (a pitch bytes r : Nat) : List (Nat × CWord) :=
  (List.range (bytes / 4)).map (fun j =>
    let addr := a + r * pitch + 4 * j
    (addr, mxWord s o (storeKey core o.plane addr)))

/-- Elements of a width packed in words (R184). -/
def unpackElems (w : Nat) (ws : List Word) : List Nat :=
  (ws.map (fun x => (List.range (32 / w)).map (fun k => x.toNat / 2 ^ (w * k) % 2 ^ w))).flatten

/-- Pack elements of a width into words. -/
def packElems (w : Nat) : List Nat → List Word
  | l => (List.range (l.length * w / 32)).map (fun i =>
      BitVec.ofNat 32 (((l.drop (i * (32 / w))).take (32 / w)).zipIdx.foldl (fun x p => x + p.1 % 2 ^ w * 2 ^ (w * p.2)) 0))

/-- Write words to the core's store, with generated checks (R143). -/
def putStore (s : State) (core : Nat) (plane : Bool) (a : Nat) (ws : List Word) : State :=
  ws.zipIdx.foldl (fun s p => writeStore s (storeKey core plane a + p.2) (good p.1) none) s

/-! ### Products (R198, R199) -/

/-- One element after a pass: K products and the accumulator. -/
def passElem (f : Format) (acc : Nat) (a b : List Nat) : Nat × Word :=
  mmaElem acc ((a.zip b).map (fun p => (f.decode p.1).mul (f.decode p.2)))

/-- INT8 products, wrapping (R198). -/
def int8Elem (acc : Nat) (a b : List Nat) : Nat :=
  wrap 32 ((acc : Int) + ((a.zip b).map (fun p => sval 8 p.1 * sval 8 p.2)).foldl (· + ·) 0)

/-- The three BF16 slices of an FP32 value (R199). -/
def slices (x : Nat) : Nat × Nat × Nat :=
  let v := fmtF32.decode x
  match v with
  | .nan _ => (fmtBf16.nan, 0, 0)
  | .inf sg => ((fmtBf16.infinity sg).1, 0, 0)
  | .fin _ _ _ =>
    let rz (y : Nat) : Nat := (fmtBf16.ofFp .rz (fmtF32.decode y)).1
    let minus (y h : Nat) : Nat := (fmtF32.sum .rne [fmtF32.decode y, (fmtBf16.decode h).negate]).1
    let h := rz x
    let d := minus x h
    let m := rz d
    (h, m, rz (minus d m))

/-- Passes of the synthesised forms: which slice of A and of B (0 h, 1 m, 2 l). -/
def passList : MmaTy → List (Nat × Nat)
  | .f32x3 => [(1, 0), (0, 1), (0, 0)]
  | _ => [(1, 1), (2, 0), (0, 2), (1, 0), (0, 1), (0, 0)]

def sliceOf3 (k : Nat) (x : Nat × Nat × Nat) : Nat :=
  match k with
  | 0 => x.1
  | 1 => x.2.1
  | _ => x.2.2

/-- The dense product for one element. -/
def denseElem (t : MmaTy) (acc : Nat) (a b : List Nat) : Nat × Word :=
  match t with
  | .i8 => (int8Elem acc a b, 0)
  | .f32x3 | .f32x6 =>
    let sa := a.map slices
    let sb := b.map slices
    (passList t).foldl (fun r p =>
      let x := passElem fmtBf16 r.1 (sa.map (sliceOf3 p.1)) (sb.map (sliceOf3 p.2))
      (x.1, r.2 ||| x.2)) (acc, 0)
  | t => passElem ((mmaFormat t).getD fmtBf16) acc a b

/-- An outlier entry on one row (R198, R283). -/
def outlierElem (t : MmaTy) (a x acc : Nat) : Nat × Word :=
  fmtF32.sum .rne [(((mmaFormat t).getD fmtBf16).decode a).mul (fmtF32.decode x), fmtF32.decode acc]

/-- One accumulator row after an MMA or MMAO: words and flags. -/
def mmaRow (t : MmaTy) (a : List Nat) (cols : List (List Nat)) (out : List (Nat × Nat × Word)) (row : List Word) :
    List Word × Word :=
  let d := (row.zip cols).map (fun p => denseElem t p.1.toNat a p.2)
  let r : List Nat := d.map (·.1)
  let fl := d.foldl (fun m p => m ||| p.2) 0
  let e := out.foldl (fun (acc : List Nat × Word) q =>
    let x := outlierElem t (a.getD q.1 0) q.2.2.toNat (acc.1.getD q.2.1 0)
    (acc.1.set q.2.1 x.1, acc.2 ||| x.2)) (r, fl)
  (e.1.map (BitVec.ofNat 32), e.2)

/-- Columns of B out of its rows. -/
def columns (rows : List (List Nat)) : List (List Nat) := (List.range 64).map (fun n => rows.map (fun r => r.getD n 0))

/-! ### Draining (R189, R285) -/

/-- An MX block: scale code, element codes, flags (R189). -/
def mxBlock (f : Format) (emax : Int) (vs : List Nat) : Nat × List Nat × Word :=
  let ds := vs.map fmtF32.decode
  if ds.any (fun d => d.isNan || d.isInf) then (0xFF, vs.map (fun _ => if f == fmtE4m3 then 0x7F else 0), flNV)
  else
    let tops := ds.filterMap (fun d => match d with
      | .fin _ m e => if m == 0 then none else some (floorLog m e)
      | _ => none)
    match tops with
    | [] => (0, vs.map (fun _ => 0), 0)
    | t :: rest =>
      let k := max (rest.foldl max t - emax) (-127)
      let es := ds.map (fun d => match d with
        | .fin sg m e => f.round .rne sg m (e - k) false
        | _ => (0, 0))
      ((k + 127).toNat, es.map (·.1), es.foldl (fun fl e => fl ||| e.2) 0)

/-- A drained row: its words, its scale word, and the flags. -/
def drainRowOf (f : DrainFmt) (row : List Word) : List Word × Word × Word :=
  let conv (fmt : Fmt) (w : Nat) : List Word × Word × Word :=
    let es := row.map (fun x => cvtElem fmt .f32 .rne none x.toNat)
    (packElems w (es.map (·.1)), 0, es.foldl (fun m e => m ||| e.2) 0)
  let mx (fmt : Format) (emax : Int) : List Word × Word × Word :=
    let b0 := mxBlock fmt emax ((row.take 32).map (·.toNat))
    let b1 := mxBlock fmt emax ((row.drop 32).map (·.toNat))
    (packElems fmt.width (b0.2.1 ++ b1.2.1), BitVec.ofNat 32 (b0.1 + 256 * b1.1), b0.2.2 ||| b1.2.2)
  match f with
  | .f32 => (row, 0, 0)
  | .bf16 => conv .bf16 16
  | .f16 => conv .f16 16
  | .e4m3 => conv .e4m3 8
  | .mxe4m3 => mx fmtE4m3 8
  | .mxe2m1 => mx fmtE2m1 2

/-! ### Accumulator-side rows (R286) -/

def acscRow (x : Word) (row : List Word) : List Word × Word :=
  let r := row.map (fun a => fmulElem fmtF32 .rne a.toNat x.toNat)
  (r.map (fun p => BitVec.ofNat 32 p.1), r.foldl (fun m p => m ||| p.2) 0)

def acexRow (x : Word) (row : List Word) : List Word × Word :=
  let r := row.map (fun a =>
    let d := fsubElem fmtF32 .rne a.toNat x.toNat
    let e := fnuElem 0x60 fmtF32 d.1
    (e.1, d.2 ||| e.2))
  (r.map (fun p => BitVec.ofNat 32 p.1), r.foldl (fun m p => m ||| p.2) 0)

/-- Row maximum; a signalling NaN sets NV (R239). -/
def acmxRow (row : List Word) : Word × Word :=
  match row with
  | [] => (0, 0)
  | a :: rest =>
    let r := rest.foldl (fun (r : Nat × Word) x =>
      let y := fminmaxElem fmtF32 true r.1 x.toNat
      (y.1, r.2 ||| y.2)) (a.toNat, 0)
    (BitVec.ofNat 32 r.1, r.2)

/-! ### Finishing (R279, R280) -/

/-- A bad word met by an operation: lane, store address, word. -/
def badIn (lane : Nat) (ws : List (Nat × CWord)) : Option (Nat × Nat × CWord) :=
  (ws.find? (fun p => !p.2.isGood)).map (fun p => (lane, p.1, p.2))

/-- First of several. -/
def firstSome {α β : Type} (f : α → Option β) : List α → Option β
  | [] => none
  | a :: rest => match f a with
    | some b => some b
    | none => firstSome f rest

/-- The bad word an operation consumes: A rows of its lanes, all of B, image words of its lanes (R280, R284). -/
def mxBad? (s : State) (core : Nat) (o : MxOp) : Option (Nat × Nat × CWord) :=
  match o.kind with
  | .mma t a b _ =>
    (match firstSome (fun m => badIn m (tileRow s core o a (rowA t + 16) (rowA t) m)) (ones o.mask) with
     | some x => some x
     | none => firstSome (fun k => badIn o.lane (tileRow s core o b (rowB t + 16) (rowB t) k)) (List.range (mmaK t)))
  | .acld a => firstSome (fun m => badIn m (tileRow s core o a 256 256 m)) (ones o.mask)
  | _ => none

/-- Rows of the accumulator that an operation reads. -/
def MxKind.readsAcc : MxKind → Bool
  | .acz | .acld _ => false
  | _ => true

/-- A double-bit error of an accumulator word that an operation reads (R143): its lane. -/
def accDouble? (s : State) (core : Nat) (o : MxOp) : Option Nat :=
  if s.accUpsets.isEmpty || !o.kind.readsAcc then none
  else (ones o.mask).find? (fun m => (List.range 64).any (fun n => tget? s.accUpsets (accKey core o.tile m n) == some true))

/-- Correct the single-bit errors of the words an operation reads; what the event's DETAIL holds is not stated for an
accumulator word. -/
def accCorrect (s : State) (core : Nat) (o : MxOp) : State :=
  if s.accUpsets.isEmpty || !o.kind.readsAcc then s
  else (ones o.mask).foldl (fun s m => (List.range 64).foldl (fun s n =>
    let k := accKey core o.tile m n
    if tget? s.accUpsets k == some false then
      let s := { s with accUpsets := terase s.accUpsets k, mgc := { s.mgc with seccnt := sat32 s.mgc.seccnt } }
      recordEvent s (dieOf core) 0x08 core (Config.freeWord (s.tick + k))
    else s) s) s

/-- What an operation does to one lane's row: the state, flags, and a result for the lane's register. -/
def mxRow (s : State) (core : Nat) (o : MxOp) (cols : List (List Nat)) (m : Nat) : State × Word × Option Word :=
  let row := accRow s core o.tile m
  let acc (r : List Word × Word) : State × Word × Option Word := (setAccRow s core o.tile m r.1, r.2, none)
  match o.kind with
  | .mma t a _ out =>
    acc (mmaRow t (unpackElems (mmaWidth t) ((tileRow s core o a (rowA t + 16) (rowA t) m).map (·.2.data))) cols out row)
  | .acz => acc (List.replicate 64 0, 0)
  | .acld a => acc ((tileRow s core o a 256 256 m).map (·.2.data), 0)
  | .acst a => (putStore s core o.plane (a + 256 * m) row, 0, none)
  | .tdrn f d e =>
    let r := drainRowOf f row
    let s := putStore s core o.plane (d + m * (drainRow f + 16)) r.1
    (if DrainFmt.isMx f then putStore s core o.plane (e + 4 * m) [r.2.1] else s, r.2.2, none)
  | .acsc _ => acc (acscRow (o.reg.getD m 0) row)
  | .acex _ => acc (acexRow (o.reg.getD m 0) row)
  | .acmx _ => let r := acmxRow row; (s, r.2, some r.1)

/-- The results of an operation: rows, flags, and the registers of ACMX. -/
def mxResults (s : State) (core : Nat) (o : MxOp) : State × Word × List (Nat × Word) :=
  let cols : List (List Nat) := match o.kind with
    | .mma t _ b _ => columns ((List.range (mmaK t)).map (fun k =>
        unpackElems (mmaWidth t) ((tileRow s core o b (rowB t + 16) (rowB t) k).map (·.2.data))))
    | _ => []
  (ones o.mask).foldl (fun (r : State × Word × List (Nat × Word)) m =>
    let x := mxRow r.1 core o cols m
    let regs : List (Nat × Word) := match o.kind, x.2.2 with
      | .acmx v, some y => [(vKey (v % 256) m, y)]
      | _, _ => []
    (x.1, r.2.1 ||| x.2.1, r.2.2 ++ regs)) (s, 0, [])

def dropMx (s : State) (id : Nat) : State := { s with mx := s.mx.filter (fun x => x.op.id != id) }

/-- An operation ends its occupied cycles and writes its results; those of a warp that is no more are discarded (R280). -/
def mxFinish (s : State) (core : Nat) (side : Bool) : State :=
  match s.mx.find? (fun e => e.core == core && e.op.kind.side == side && e.op.started.isSome && e.op.ended.isNone) with
  | none => s
  | some e =>
    let o := e.op
    if s.cycle < o.started.getD 0 + o.kind.cycles || !quadRuns s (quadOf core) then s
    else
      let s := if side then s else setCore s core { getCore s core with arrayRan := some s.cycle }
      match findWarp? s o.warp with
      | none => dropMx s o.id
      | some w =>
        match mxBad? s core o with
        | some b => containBad (dropMx s o.id) w b.2.2 b.1 o.pc (BitVec.ofNat 64 b.2.1)
        | none =>
          match accDouble? s core o with
          | some m => contain (dropMx s o.id) w 3 m 0x07 o.pc 0
          | none =>
            let r := mxResults (accCorrect s core o) core o
            let s := landFlags r.1 o.warp .mx r.2.1
            let s := if r.2.2.isEmpty then s else landRegs s o.warp r.2.2
            setMx s { o with ended := some s.cycle }

def execMatrixOperationFinishes (core : Nat) (side : Bool) (s : State) : Host.Outcome State Fault Refusal :=
  goesOn (mxFinish s core side)

/-- `mx` falls 8 cycles after the last occupied cycle (R279). -/
def mxFall (s : State) (id : Nat) : State :=
  match s.mx.find? (fun e => e.op.id == id) with
  | none => s
  | some e =>
    match e.op.ended with
    | none => s
    | some t =>
      if s.cycle < t + 8 then s
      else lowerCtr (dropMx s id) e.op.warp .mx

def execMxCounterFall (op : Nat) (s : State) : Host.Outcome State Fault Refusal := goesOn (mxFall s op)

end Sys2Proof.Machine
end

