-- ==== Sys2Proof/Machine/Copy.lean ====
section
/-! DEFINITION. Tensor copies 0xD0 to 0xD3 (13 R287 to R292, 09 R186 to R188): layout records and their checks, what
a copy does at issue, and the TCE's rows and completion. -/

namespace Sys2Proof.Machine

open Sys2Proof

/-! ### Layout records (R287 to R289) -/

/-- Bits of an element of a copy format (R288); none for a reserved code. -/
def copyBits : Nat → Option Nat
  | 0 => some 32
  | 1 | 2 => some 16
  | 3 | 4 => some 8
  | 5 => some 4
  | 6 => some 8
  | 7 => some 4
  | 8 => some 8
  | 9 | 10 | 11 => some 16
  | _ => none

/-- Accepted pairs of formats (R288). -/
def copyPair (toGlobal : Bool) (sf df : Nat) : Bool :=
  (sf == df && (sf ≤ 4 || sf == 8)) ||
  (!toGlobal && ((sf == 5 && df == 1) || ((sf == 6 || sf == 7) && (df == 1 || df == 3)) ||
    (sf == 0 && (df == 1 || df == 9 || df == 10 || df == 11))))

/-- The fields of a record's 32 words. -/
def layoutOf (ws : List Word) : Layout :=
  let w0 := wordAt ws 0
  { toGlobal := bits w0 28 4 == 1, sfmt := bits w0 24 4, dfmt := bits w0 20 4, scope := bits w0 17 3,
    ndim := bits w0 14 3, xpose := w0.getLsbD 13, pad := wordAt ws 1, aux1 := dwordAt ws 2, aux2 := dwordAt ws 4,
    counts := (List.range 8).map (fun d => bits (wordAt ws (6 + 3 * d)) 16 16),
    valids := (List.range 8).map (fun d => bits (wordAt ws (6 + 3 * d)) 0 16),
    strides := (List.range 8).map (fun d => dwordAt ws (7 + 3 * d)) }

def Layout.srcBits (l : Layout) : Nat := (copyBits l.sfmt).getD 32
def Layout.dstBits (l : Layout) : Nat := (copyBits l.dfmt).getD 32
/-- Bits of an element on the global side. -/
def Layout.globalBits (l : Layout) : Nat := if l.toGlobal then l.dstBits else l.srcBits
/-- Bits of an element on the store side. -/
def Layout.storeBits (l : Layout) : Nat := if l.toGlobal then l.srcBits else l.dstBits

/-- Extent of a dimension; one of a dimension the record does not have. -/
def Layout.count (l : Layout) (d : Nat) : Nat := if d ≤ l.ndim then l.counts.getD d 1 else 1
def Layout.valid (l : Layout) (d : Nat) : Nat := if d ≤ l.ndim then l.valids.getD d 1 else 1
def Layout.stride (l : Layout) (d : Nat) : DWord := l.strides.getD d 0

/-- Rows: runs of dimension 0 (R289). -/
def Layout.rows (l : Layout) : Nat := (List.range 7).foldl (fun n d => n * l.count (d + 1)) 1
/-- Elements of a store row, rows of a store tile, and tiles. -/
def Layout.rowElems (l : Layout) : Nat := if l.xpose then l.count 1 else l.count 0
def Layout.tileRows (l : Layout) : Nat := if l.xpose then l.count 0 else l.count 1
def Layout.tiles (l : Layout) : Nat := (List.range 6).foldl (fun n d => n * l.count (d + 2)) 1
/-- Bytes of a store row, and its pitch (R276). -/
def Layout.rowBytes (l : Layout) : Nat := l.rowElems * l.storeBits / 8
def Layout.pitch (l : Layout) : Nat := l.rowBytes + 16
/-- Store bytes from the first row to the end of the last. -/
def Layout.extent (l : Layout) : Nat := (l.tiles * l.tileRows - 1) * l.pitch + l.rowBytes

/-- Height of a transposition band (R289). -/
def granuleOf (bits : Nat) : Nat := if bits == 32 then 4 else if bits == 16 then 8 else 16

/-- The record keeps R287, R288 and R289 as far as they concern the record itself; `lanes` is CPG or CPS. DESIGN CHOICE (log
125): a CPG or CPS record with an NDIM other than 0 or the other DIR is a record breach. -/
def layoutOk (ws : List Word) (lanes : Option Bool) : Bool :=
  let l := layoutOf ws
  let w0 := wordAt ws 0
  let mx := l.sfmt == 6 || l.sfmt == 7
  let dimOk (d : Nat) : Bool :=
    if d ≤ l.ndim then 1 ≤ l.count d && l.valid d ≤ l.count d
    else wordAt ws (6 + 3 * d) == 0 && dwordAt ws (7 + 3 * d) == 0
  bits w0 28 4 ≤ 1 && bits w0 0 13 == 0 && l.scope ≤ 5 && wordAt ws 30 == 0 && wordAt ws 31 == 0 &&
  copyPair l.toGlobal l.sfmt l.dfmt && (List.range 8).all dimOk &&
  (l.sfmt == 5 || mx || l.aux1 == 0) && (l.sfmt == 5 || l.aux2 == 0) &&
  l.pad.toNat < 2 ^ l.dstBits &&
  (l.globalBits != 4 || l.stride 0 == 0) &&
  l.rowElems * l.storeBits % 128 == 0 &&
  (!l.toGlobal || (l.stride 0 == BitVec.ofNat 64 (l.globalBits / 8) && l.valid 0 * l.globalBits % 32 == 0)) &&
  (!l.xpose || (1 ≤ l.ndim && l.count 0 % granuleOf l.srcBits == 0 && l.count 1 % granuleOf l.srcBits == 0)) &&
  l.rows ≤ 2 ^ 24 &&
  (match lanes with
   | none => true
   | some toGlobal => l.ndim == 0 && l.toGlobal == toGlobal)

/-- A base and the strides keep the alignments of R289. -/
def alignedFor (l : Layout) (base : DWord) : Bool :=
  let size := l.globalBits / 8
  let dims := (List.range (l.ndim + 1))
  (size == 0 || (base.toNat % size == 0 && dims.all (fun d => (l.stride d).toNat % size == 0))) &&
  (!l.toGlobal || (base.toNat % 4 == 0 && dims.all (fun d => d == 0 || (l.stride d).toNat % 4 == 0)))

/-! ### Issue (R290, R291) -/

/-- The store side of a copy lies in the scratchpad of a team of the gang, or for a read in its block (R53). -/
def Cx.copyStore? (c : Cx) (a : Word) (bytes : Nat) (write : Bool) : Option (Nat × Nat) :=
  match plainTgt c.pre c.preW a write with
  | none => none
  | some (core, addr) =>
    (findTeam? c.pre c.preW.team).bind (fun t =>
      (blockOwner? c.pre t.gang core addr (planeAt c.pre c.preW core)).bind (fun o =>
        let top := o.baseOn core + (if write then (findGrid? c.pre o.grid).elim 0 scratchBytes else o.blockSize)
        if addr + bytes ≤ top then some (core, addr) else none))

/-- The rows of a copy: one base for CPT, one per participating lane for CPG and CPS. -/
def Cx.copyRows (c : Cx) (kind : CopyKind) (o : CopyOp) : List (Nat × DWord) :=
  match kind with
  | .cpt => []
  | _ => (c.lanes o.guard).map (fun l => (l, c.base o.g l))

/-- Store bytes that a copy names, from its store address on. -/
def copyExtent (kind : CopyKind) (l : Layout) (rows : List (Nat × DWord)) : Nat :=
  match kind with
  | .cpt => l.extent
  | _ => (rows.getLast?).elim 0 (fun r => r.1 * l.pitch + l.rowBytes)

def CopyKind.dir : CopyKind → Option Bool
  | .cpt => none
  | .cpg => some false
  | .cps => some true

/-- CPT, CPG and CPS (R290). DESIGN CHOICE (log 125): a store address that is no multiple of 4 is cause 0x04, TVAL holding it. -/
def copyEff (kind : CopyKind) (o : CopyOp) (c : Cx) : Eff :=
  let a := c.sca o.layout.toNat
  match c.readDesc a 16 32 with
  | .eff e => e
  | .ok ws =>
    if !layoutOk ws kind.dir then badDesc a
    else
      let l := layoutOf ws
      let rows := c.copyRows kind o
      let base := c.base o.g c.lowest
      let bases := if kind == .cpt then [base] else rows.map (·.2)
      let store := c.sca o.store.toNat
      let bytes := copyExtent kind l rows
      match bases.find? (fun b => !alignedFor l b) with
      | some b => .trap 0x04 0 (lowWord b)
      | none =>
        if store.toNat % 4 != 0 then .trap 0x04 0 store
        else match (c.notifyAddr o.notify).filter (fun n => n.toNat % 4 != 0) with
        | some n => .trap 0x04 0 n
        | none =>
          match c.copyStore? store bytes (!l.toGlobal) with
          | none => .stop (xlatFail c.pre c.preW (.prot false) 0 (!l.toGlobal).toNat (store.setWidth 64) c.slot.pc)
          | some (core, addr) =>
            match c.notify o.notify with
            | .eff e => e
            | .ok n =>
              let (id, s) := fresh c.s
              let total := if kind == .cpt then l.rows else rows.length
              let k : Copy :=
                { id := id, warp := c.w.uid, seq := c.preW.seq, quad := quadOf c.w.core, kind := kind, layout := l,
                  base := base, rows := rows, core := core, store := addr, notify := n, done := 0, total := total, seg := 0,
                  moved := [], state := .running, held := true, notices := [] }
              let w := { c.w with latestCopy := id, rowprog := 0x40000000, copyRows := BitVec.ofNat 32 total }
              let w := w.setSlot c.n (some { c.mine with readyAt := c.s.cycle + 24 })
              .go (c.release { setWarp s w with copies := s.copies ++ [k] } (.copy id)) []

def execCpt (o : CopyOp) (s : State) : Host.Outcome State Fault Refusal := issueWith tceFull (.cpt o) (copyEff .cpt o) s
def execCpg (o : CopyOp) (s : State) : Host.Outcome State Fault Refusal := issueWith tceFull (.cpg o) (copyEff .cpg o) s
def execCps (o : CopyOp) (s : State) : Host.Outcome State Fault Refusal := issueWith tceFull (.cps o) (copyEff .cps o) s

/-- CPQ (R292). -/
def execCpq (d : SReg) (s : State) : Host.Outcome State Fault Refusal :=
  issue (.cpq d) (fun c => .write [(sKey d.toNat, c.preW.rowprog), (sKey (d.toNat + 1), c.preW.copyRows)] 0) s

/-! ### Elements (R186 to R189, R199, R289) -/

/-- Index vector of a row over dimensions 1 to 7. -/
def Layout.rowIndex (l : Layout) (r : Nat) : List (Nat × Nat) :=
  ((List.range 7).foldl (fun (t : List (Nat × Nat) × Nat) d =>
    (t.1 ++ [(d + 1, t.2 % l.count (d + 1))], t.2 / l.count (d + 1))) ([], r)).1

/-- A row some of whose indices lie outside the source (R289). -/
def Layout.rowPad (l : Layout) (r : Nat) : Bool := (l.rowIndex r).any (fun p => l.valid p.1 ≤ p.2)

/-- Byte offset of a row from the base. -/
def Layout.rowOff (l : Layout) (r : Nat) : Int :=
  (l.rowIndex r).foldl (fun a p => a + (p.2 : Int) * (l.stride p.1).toInt) 0

/-- Base and byte offset of row r of a copy. -/
def Copy.rowAt (k : Copy) (r : Nat) : DWord × Int :=
  match k.kind with
  | .cpt => (k.base, k.layout.rowOff r)
  | _ => ((k.rows.getD r (0, 0)).2, 0)

def Copy.padRow (k : Copy) (r : Nat) : Bool := k.kind == .cpt && k.layout.rowPad r

/-- Where an element stands: its byte, its nibble, and the addresses of its scale, or block code and superscale. -/
structure Elem where
  va : DWord
  nib : Nat
  scale : List DWord

/-- Element i0 of a row (R289). -/
def Copy.elem (k : Copy) (r i : Nat) : Elem :=
  let l := k.layout
  let b := k.rowAt r
  let four := l.globalBits == 4
  let off : Int := b.2 + (if four then ((i / 2 : Nat) : Int) else (i : Int) * (l.stride 0).toInt)
  let ix : Int := if four then 2 * off + ((i % 2 : Nat) : Int) else off
  let at_ (o : Int) : DWord := b.1 + BitVec.ofInt 64 o
  let sup (o : Int) : List DWord := (List.range 4).map (fun (n : Nat) => at_ (l.aux2.toInt + 4 * (o / 16384) + (n : Int)))
  { va := at_ off, nib := i % 2,
    scale := if l.toGlobal then [] else match l.sfmt with
      | 5 => at_ (l.aux1.toInt + ix / 64) :: sup ix
      | 6 | 7 => [at_ (l.aux1.toInt + ix / 32)]
      | _ => [] }

/-- The KQ4 codebook in 512ths (R187). -/
def codebook : Nat → Nat
  | 8 => 22 | 9 => 65 | 10 => 111 | 11 => 159 | 12 => 213 | 13 => 278 | 14 => 362 | _ => 512

/-- Value of a KQ4 code. -/
def kq4Code (c : Nat) : Fp := if 8 ≤ c then .fin false (codebook c) (-9) else .fin true (codebook (15 - c)) (-9)

/-- A KQ4 element as BF16 (R187). -/
def kq4Elem (code b sup : Nat) : Nat :=
  if b == 0 then 0
  else
    let v := fmtF32.decode sup
    if v.isNan then fmtBf16.nan
    else
      let bs := (fmtF32.ofFp .rne ((Fp.fin false b 0).mul v)).1
      (fmtBf16.ofFp .rne ((kq4Code code).mul (fmtF32.decode bs))).1

/-- An MX element in a destination format (R188, R288). -/
def mxElem (sf df x scale : Nat) : Nat :=
  let v := ((if sf == 6 then fmtE4m3.decode x else fmtE2m1.decode x)).mul (decodeE8m0 scale)
  (fpToFp (if df == 3 then fmtE4m3 else fmtBf16) .rne v).1

/-- An element in its destination format (R288). -/
def copyElem (sf df x : Nat) (aux : List Nat) : Nat :=
  match sf with
  | 5 => kq4Elem x (aux.headD 0) ((aux.drop 1).zipIdx.foldl (fun n p => n + p.1 * 256 ^ p.2) 0)
  | 6 | 7 => mxElem sf df x (aux.headD 0)
  | _ =>
    if sf == df then x
    else
      let sl := slices x
      match df with
      | 9 => sl.1
      | 10 => sl.2.1
      | 11 => sl.2.2
      | _ => (fpToFp fmtBf16 .rne (fmtF32.decode x)).1

/-- A converted element: its bits, whether any bit came from a bad word, and its source word and position there, where
it is carried unchanged. -/
structure Made where
  bits : Nat
  bad : Bool
  whole : Option (CWord × DWord)

/-- Words read, by their addresses. -/
abbrev Got := List (DWord × Place × CWord)

def gotWord (g : Got) (va : DWord) : CWord := ((g.find? (fun p => p.1 == wordVa va)).map (·.2.2)).getD (good 0)

/-- Build an element of a global-to-store copy from the words read. -/
def makeElem (l : Layout) (g : Got) (e : Elem) : Made :=
  let w := gotWord g e.va
  let b := l.srcBits
  let x := w.data.toNat / 2 ^ (8 * (e.va.toNat % 4) + (if b == 4 then 4 * e.nib else 0)) % 2 ^ b
  let aux := e.scale.map (fun a => (byteOfWord a (gotWord g a).data, (gotWord g a).isGood))
  { bits := copyElem l.sfmt l.dfmt x (aux.map (·.1)), bad := !w.isGood || aux.any (fun p => !p.2),
    whole := if l.sfmt == l.dfmt then some (w, e.va) else none }

def padElem (l : Layout) : Made := { bits := l.pad.toNat, bad := false, whole := none }

/-- The elements stand in one source word as they do in the destination word: the word is carried unchanged (R141). -/
def carried? (bits : Nat) (ms : List Made) : Option CWord :=
  match ms with
  | m :: _ =>
    (match m.whole with
     | some (w, va) =>
       if va.toNat % 4 == 0 && ms.zipIdx.all (fun p => match p.1.whole with
           | some (_, v) => v == va + BitVec.ofNat 64 (p.2 * bits / 8)
           | none => false) then some w else none
     | none => none)
  | [] => none

/-- A destination word from its elements (R141). -/
def makeWord (bits : Nat) (ms : List Made) : CWord :=
  match carried? bits ms with
  | some w => w
  | none =>
    let d : Word := (packElems bits (ms.map (·.bits))).headD 0
    if ms.any (·.bad) then poison (good d) else good d

/-- Put elements into a word of a transposed row, each with its place in the word; the others stay. A word whose first
element is among them starts afresh: nothing of its old check counts. -/
def insertElems (bits : Nat) (old : CWord) (ms : List (Nat × Made)) : CWord :=
  let d : Word := ms.foldl (fun (d : Word) m => BitVec.ofNat 32 (withElem bits m.1 d.toNat m.2.bits)) old.data
  if ms.any (·.2.bad) || (ms.all (fun m => m.1 != 0) && !old.isGood) then poison (good d) else good d

/-! ### Rows (R291, R292) -/

/-- Virtual-address requester of a quad's TCE. -/
def tceWho (quad : Nat) : Nat := 384 + quad

/-- Store address of a store row of a copy: row of the tile and tile. -/
def Copy.rowAddr (k : Copy) (row tile : Nat) : Nat :=
  k.store + (tile * k.layout.tileRows + row) * k.layout.pitch

/-- Store row number and tile of global row r, without transposition. -/
def Copy.storeRow (k : Copy) (r : Nat) : Nat :=
  match k.kind with
  | .cpt => r
  | _ => (k.rows.getD r (0, 0)).1

/-- Tile of global row r, and its row in the tile. -/
def Layout.tileOf (l : Layout) (r : Nat) : Nat × Nat := (r / l.count 1, r % l.count 1)

/-- ROWPROG of the issuing warp, if this is its latest copy (R291): bits 29:24 read zero, also for 2^24 rows. -/
def showProgress (s : State) (k : Copy) (st : Nat) : State :=
  onWarp s k.warp (fun w =>
    if w.latestCopy == k.id then { w with rowprog := BitVec.ofNat 32 (st * 2 ^ 30 + k.done % 2 ^ 24) } else w)

/-- The copy ends by an error: no notification, and a deferred report (R292). -/
def copyError (s : State) (k : Copy) : State :=
  let s := showProgress (dropCopy s k.id) k 3
  addReport (lowerCtr s k.warp .cp) k.warp ⟨.cp, 0x06, BitVec.ofNat 32 k.done, none⟩

/-- Words of a record about a copy (R347). -/
def copyRecord (s : State) (k : Copy) (src acc : Nat) (rng : Bool) (cause level : Nat) (addr : DWord) : List Word :=
  match findWarp? s k.warp with
  | none => []
  | some w => warpRecord s w src acc rng cause level addr
      (if src == 2 then BitVec.ofNat 32 (2 ^ 31 + k.done) else 0)

/-- A row's address did not translate (R292, R352, R359): the row starts again when the copy goes on. -/
def copyFault (s : State) (k : Copy) (va : DWord) (x : Xlat) : State :=
  let k := { k with seg := 0, moved := [] }
  let part := (findWarp? s k.warp).elim 0 (partOf s)
  let acc := k.layout.toGlobal.toNat
  let stop (src lv : Nat) : State :=
    let (id, s) := postRec s part 1 (.copy k.id) (copyRecord s k src acc false 0x05 lv va)
    showProgress (setCopy s { k with state := .suspended id }) k 2
  match x with
  | .fault l => stop 2 l
  | .bad l => stop 4 l
  | .prot rng =>
    let (_, s) := postRec s part 2 .info (copyRecord s k 2 acc rng 0x06 0 va)
    copyError s k
  | .freeze pa _ rng =>
    let (id, s) := postRec s part 4 (.copy k.id) (copyRecord s k 2 acc rng 0 0 (BitVec.ofNat 64 pa))
    noteFreeze (setCopy s { k with state := .frozen id }) (k.quad / 24) k.quad pa
  | .ok _ _ _ | .miss => s

/-! A copy moves its rows one by one, with XPOSE in bands of a granule's height (R289, R291). The rows being moved are a
*segment*: one row, or the rows of the band from the first unfinished one to the first whose address does not translate.
The words of a segment are numbered, and move in any order. -/

/-- Elements of global row r that a copy reads: none of a padding row. -/
def Copy.validElems (k : Copy) (r : Nat) : Nat := if k.padRow r then 0 else k.layout.valid 0

/-- Words that a row has on the global side of a store-to-global copy. -/
def Copy.outWords (k : Copy) (r : Nat) : Nat := k.validElems r * k.layout.storeBits / 32

/-- Global addresses of an element of a global-to-store copy. -/
def Elem.addrs (e : Elem) : List DWord := e.va :: e.scale

/-- Address of word j of a row in global memory. -/
def Copy.outVa (k : Copy) (r j : Nat) : DWord := (k.elem r 0).va + BitVec.ofNat 64 (4 * j)

/-- Global addresses of a row. -/
def Copy.rowAddrs (k : Copy) (r : Nat) : List DWord :=
  if k.layout.toGlobal then (List.range (k.outWords r)).map (k.outVa r)
  else ((List.range (k.validElems r)).map (fun i => (k.elem r i).addrs)).flatten

/-- Global addresses translated for a copy. -/
def copyPlaces (s : State) (k : Copy) (w : Warp) (vas : List DWord) : Places :=
  placesOf s (tceWho k.quad) (partOf s w) (ctxOf s w) k.layout.toGlobal vas

/-- Words of tables that the translations of a copy's addresses read over the fabric from this device itself. -/
def copyTables (s : State) (k : Copy) (w : Warp) (vas : List DWord) : List Place :=
  ((vas.map (tablePlaces s (tceWho k.quad) (partOf s w) (ctxOf s w))).flatten).eraseDups

/-- Rows of a band. -/
def Layout.height (l : Layout) : Nat := if l.xpose then granuleOf l.srcBits else 1

/-- Leading rows of a list whose addresses all translate. -/
def goodRows (s : State) (k : Copy) (w : Warp) : List Nat → Nat
  | [] => 0
  | r :: rest => match copyPlaces s k w (k.rowAddrs r) with
    | .ok _ | .wait => goodRows s k w rest + 1
    | .fail _ _ => 0

/-- Rows of the segment that starts at the first unfinished row; without XPOSE one row. -/
def segmentOf (s : State) (k : Copy) (w : Warp) : Nat :=
  if k.seg != 0 then k.seg
  else if k.layout.xpose then
    let h := k.layout.height
    max 1 (goodRows s k w ((List.range (h - k.done % h)).map (k.done + ·)))
  else 1

/-- Words of a transposed store row that a segment touches: the first one's number in its row, and how many. -/
def Copy.segCols (k : Copy) (seg : Nat) : Nat × Nat :=
  let per := 32 / k.layout.storeBits
  let c := (k.layout.tileOf k.done).2
  (c / per, (c + seg - 1) / per - c / per + 1)

/-- The words of a segment: store words of a copy to the store, words of global memory otherwise. -/
def Copy.pieces (k : Copy) (seg : Nat) : List Nat :=
  let l := k.layout
  if l.toGlobal then
    ((List.range seg).map (fun i => (List.range (k.outWords (k.done + i))).map (fun j => i + seg * j))).flatten
  else if l.xpose then List.range (l.count 0 * (k.segCols seg).2)
  else List.range (l.rowBytes / 4)

/-- Elements of a store word: row, element, and place in the word. -/
def Copy.pieceElems (k : Copy) (seg p : Nat) : List (Nat × Nat × Nat) :=
  let l := k.layout
  let per := 32 / l.storeBits
  if l.xpose then
    let cols := k.segCols seg
    let t := l.tileOf k.done
    (List.range per).filterMap (fun sub =>
      let c := (cols.1 + p % cols.2) * per + sub
      if t.2 ≤ c && c < t.2 + seg then some (k.done + (c - t.2), p / cols.2, sub) else none)
  else (List.range per).map (fun sub => (k.done, p * per + sub, sub))

/-- Store address of a store word. -/
def Copy.pieceAddr (k : Copy) (seg p : Nat) : Nat :=
  if k.layout.xpose then
    let cols := k.segCols seg
    k.rowAddr (p / cols.2) (k.layout.tileOf k.done).1 + 4 * (cols.1 + p % cols.2)
  else k.rowAddr (k.storeRow k.done) 0 + 4 * p

/-- Words of a segment have been moved; with the last its rows are finished. -/
def segMoved (s : State) (k : Copy) (seg : Nat) (now : List Nat) (last : Bool) (notices : List Nat) : State :=
  let k := { k with notices := k.notices ++ notices }
  if last then
    let k := { k with done := k.done + seg, seg := 0, moved := [] }
    showProgress (setCopy s k) k 1
  else setCopy s { k with seg := seg, moved := k.moved ++ now }

/-- An address of the segment did not translate: the copy stops at that row, or goes on with the rows before it. -/
def segFault (s : State) (k : Copy) (seg : Nat) (va : DWord) (x : Xlat) : State :=
  if seg == 1 then copyFault s k va x else setCopy s { k with seg := 0, moved := [] }

/-- Words of a segment move from global memory to the store (R276, R289). -/
def moveIn (s : State) (k : Copy) (w : Warp) (seg : Nat) (now : List Nat) (last : Bool) : State :=
  let l := k.layout
  let elems (p : Nat) : List (Nat × Nat × Nat) := k.pieceElems seg p
  let vas := ((now.map (fun p => (elems p).filterMap (fun e =>
    if e.2.1 < k.validElems e.1 then some (k.elem e.1 e.2.1).addrs else none))).flatten).flatten
  let tables := copyTables s k w vas
  match copyPlaces s k w vas with
  | .wait => holdOwn s (.engine k.id) (.read 1) tables
  | .fail va x => ownDone s (.engine k.id) (.read 1) tables (segFault s k seg va x)
  | .ok ps =>
    let words := (ps.map (fun p => (wordVa p.1, { p.2 with pa := p.2.pa / 4 * 4 }))).eraseDups
    let g : Got := words.map (fun p => (p.1, p.2, placeRead s p.2))
    let made (e : Nat × Nat × Nat) : Made :=
      if e.2.1 < k.validElems e.1 then makeElem l g (k.elem e.1 e.2.1) else padElem l
    let put (s : State) (p : Nat) : State :=
      let key := storeKey k.core (planeAt s w k.core) (k.pieceAddr seg p)
      let es := elems p
      let x := if es.length == 32 / l.storeBits then makeWord l.storeBits (es.map made)
        else insertElems l.storeBits (s.store.word key) (es.map (fun e => (e.2.2, made e)))
      storePut s key x
    withWalked s (.engine k.id) tables false (words.map (·.2)) (segMoved (now.foldl put s) k seg now last [])

/-- Element i0 of row r on the store side, as bits of a store word. -/
def storeElem (s : State) (k : Copy) (plane : Bool) (r i : Nat) : Made :=
  let l := k.layout
  let b := l.storeBits
  let a := if l.xpose then
      let t := l.tileOf r
      k.rowAddr i t.1 + t.2 * b / 8
    else k.rowAddr (k.storeRow r) 0 + i * b / 8
  let w := s.store.word (storeKey k.core plane a)
  { bits := w.data.toNat / 2 ^ (8 * (a % 4)) % 2 ^ b, bad := !w.isGood, whole := some (w, BitVec.ofNat 64 a) }

/-- Words of a segment move from the store to global memory. -/
def moveOut (s : State) (k : Copy) (w : Warp) (seg : Nat) (now : List Nat) (last : Bool) : State :=
  let b := k.layout.storeBits
  let per := 32 / b
  let at_ (p : Nat) : Nat × Nat := (k.done + p % seg, p / seg)
  let vas := now.map (fun p => k.outVa (at_ p).1 (at_ p).2)
  let tables := copyTables s k w vas
  match copyPlaces s k w vas with
  | .wait => holdOwn s (.engine k.id) (.read 1) tables
  | .fail va x => ownDone s (.engine k.id) (.read 1) tables (segFault s k seg va x)
  | .ok ps =>
    let word (p : Nat) : CWord := makeWord b ((List.range per).map (fun e =>
      storeElem s k (planeAt s w k.core) (at_ p).1 ((at_ p).2 * per + e)))
    let t := placesWrite s ((ps.map (·.2)).zip (now.map word))
    withWalked s (.engine k.id) tables true (ps.map (·.2)) (segMoved t k seg now last (newNotices s t))

/-- The copy may move: it runs, its warp and the block of its store side are there, and its quad runs (R322, R336, R361).
-/
def copyRuns (s : State) (k : Copy) : Bool :=
  k.state == .running && !k.held && quadRuns s k.quad && (findWarp? s k.warp).elim false (fun w =>
    isResident s w && storeHere s (storeKey k.core (planeAt s w k.core) k.store))

/-- The TCE translates and moves words of the next rows of a copy, all that are left of them where none is named (R291,
R292). -/
def copyRowEvent (s : State) (id : Nat) (words : List Nat) : State :=
  match findCopy? s id with
  | none => s
  | some k =>
    match findWarp? s k.warp with
    | none => s
    | some w =>
      if !copyRuns s k || k.total ≤ k.done then s
      else
        let seg := segmentOf s k w
        let rest := (k.pieces seg).filter (fun p => !k.moved.contains p)
        let now := if words.isEmpty then rest else rest.filter (words.contains ·)
        if now.isEmpty && !rest.isEmpty then s
        else
          let last := now.length == rest.length
          if k.layout.toGlobal then moveOut s k w seg now last else moveIn s k w seg now last

def execCopyRow (c : CopyTurn) (s : State) : Host.Outcome State Fault Refusal :=
  goesOn (copyRowEvent s c.copy c.words)

/-- After its last payload word the copy notifies, and `cp` falls (R26, R291). -/
def copyCompletesEvent (s : State) (id : Nat) : State :=
  match findCopy? s id with
  | none => s
  | some k =>
    if !copyRuns s k || k.done < k.total || !injected s k.notices || !notifyHere s k.warp k.notify then s
    else
      let s := showProgress (dropCopy s k.id) k 0
      lowerCtr (notifyDone s k.warp k.notify 1) k.warp .cp

def execCopyCompletes (copy : Nat) (s : State) : Host.Outcome State Fault Refusal := goesOn (copyCompletesEvent s copy)

end Sys2Proof.Machine
end

