-- ==== Sys2Proof/Machine/Collective.lean ====
section
/-! DEFINITION. Collectives 0xD4 to 0xD7 (13 R294 to R296, 09 R202, 20 R348, R349, R358): descriptors and group
tables at issue, and the blocks, failures and completion of an instance on this device's CLEs. What the other
participants supply arrives with the event of a block. -/

namespace Sys2Proof.Machine

open Sys2Proof

/-! ### Issue -/

/-- Collective operations, in the order of their OP codes (R294). -/
def collCard : Nat := 0
def collGather : Nat := 1
def collAll : Nat := 2
def collCast : Nat := 3

/-- Words read from memory for the warp, and what its instruction goes on from; or what happens instead. -/
inductive GlobalWords where
  | ok (c : Cx) (ws : List Word)
  | eff (e : Eff)

/-- Read words of the issuing context's memory for the warp (R253, R349); a bad word contains the gang. -/
def Cx.readGlobal (c : Cx) (vas : List DWord) : GlobalWords :=
  match warpXlats c.pre c.preW (fun _ _ => false) (vas.map (fun v => (0, v))) with
  | .wait s => .eff (.stop (holdSlot s c.preW.uid c.n))
  | .stop _ va x s => .eff (.stop (xlatFail s c.preW x 0 0 va c.slot.pc))
  | .ok l =>
    let ps := l.map (fun p => Place.mk p.2.2.1 p.2.2.2.fal)
    let ws := l.map (fun p => (p.2, placeNow c.pre p.2.2.1 p.2.2.2.fal))
    let who : ReqSrc := .warp c.preW.uid c.n
    let done : State → State := ownDone c.pre who (.read 1) ps
    if ps.any (Place.waits c.pre who false) then .eff (.stop (holdSlot (holdOwn c.pre who (.read 1) ps) c.preW.uid c.n))
    else match ws.find? (fun p => !p.2.isGood) with
    | some p => .eff (.stop (containFrom (done c.pre) c.preW p.2 c.lowest c.slot.pc p.1.1 (realPa? c.pre p.1.2.1)))
    | none => .ok { c with pre := done c.pre, s := done c.s } (ws.map (·.2.data))

/-- Requester of the Sower's own reads. -/
def sowerWho (part : Nat) : Nat := 640 + part

/-- A word at a virtual address; none where it is not mapped or bad. -/
def sowerWord? (s : State) (part : Nat) (ctx : Bool) (va : DWord) : Option Word :=
  if va.toNat % 4 != 0 then none
  else match xlatNow s (sowerWho part) part ctx va with
    | .ok pa a _ =>
      let w := placeNow s pa a.fal
      if w.isGood && !Place.waits s (.engine 0) false ⟨pa, a.fal⟩ then some w.data else none
    | _ => none

/-- What the Sower reads over the fabric from this device itself for some words, their tables included (R353). -/
def sowerOwn (s : State) (part : Nat) (ctx : Bool) (vas : List DWord) : List Place :=
  ((vas.map (fun va => tablePlaces s (sowerWho part) part ctx va ++ (match xlatNow s (sowerWho part) part ctx va with
    | .ok pa a _ => if ownFabric pa then [⟨pa, a.fal⟩] else []
    | _ => []))).flatten).eraseDups

/-- Consecutive words; none where one cannot be read. -/
def sowerWords? (s : State) (part : Nat) (ctx : Bool) (va : DWord) : Nat → Option (List Word)
  | 0 => some []
  | n + 1 =>
    match sowerWord? s part ctx va, sowerWords? s part ctx (va + 4) n with
    | some w, some l => some (w :: l)
    | _, _ => none

/-- Address of a group's entry (R358). -/
def groupEntry (p : Partition) (g : Nat) : DWord := p.cgbase + BitVec.ofNat 64 (16 * g)

/-- The instance that an instruction asks for. -/
def collNew (c : Cx) (op : Nat) (ws : List Word) (rank np : Nat) (n : CopyNotify) (id : Nat) : Coll :=
  { id := id, warp := c.w.uid, seq := c.preW.seq, kind := op, group := bits (wordAt ws 0) 24 8, tag := wordAt ws 1,
    root := bits (wordAt ws 0) 0 16, count := (wordAt ws 6).toNat, rank := rank, np := np, src := dwordAt ws 2,
    dst := dwordAt ws 4, notify := n, block := 0, mismatch := false, failed := false, state := .running,
    issuer := issuerOf c.pre c.preW, notices := [] }

/-- An instance's group names a device, by the table as it stands. -/
def collNames (s : State) (k : Coll) (peer : Nat) : Bool :=
  let i := k.issuer
  match sowerWords? s i.part i.ctx (groupEntry (getPartition s i.part) k.group) 3 with
  | none => false
  | some ws =>
    (List.range k.np).any (fun r =>
      let at_ := dwordAt ws 1 + BitVec.ofNat 64 (2 * r)
      (sowerWord? s i.part i.ctx (wordVa at_)).any (fun d => bits d (8 * (at_.toNat % 4)) 10 == peer))

/-- An instance includes a device that this one has lost: it fails, whenever it was issued (R370). -/
def collLost (s : State) (k : Coll) : Bool := k.failed || s.lost.any (collNames s k)

/-- A descriptor keeps R294. -/
def collOk (op : Nat) (ws : List Word) : Bool :=
  bits (wordAt ws 0) 16 8 == 0 && wordAt ws 7 == 0 && (op == collCast || bits (wordAt ws 0) 0 16 == 0) &&
  1 ≤ (wordAt ws 6).toNat && (wordAt ws 6).toNat ≤ 2 ^ 28

/-- Start an instance whose group entry is read; its source reads come after the warp's earlier accesses (R109). -/
def collStart (c : Cx) (op : Nat) (o : CollOp) (ws : List Word) (rank np : Nat) : Eff :=
  match c.notify o.notify with
  | .eff e => e
  | .ok n =>
    let (id, s) := fresh c.s
    .go (c.release { s with colls := s.colls ++ [collNew c op ws rank np n id] } (.copy id)) []

/-- CARD, CAGT, CATA and CBCT (R294, R296, R358). A descriptor that breaks R294 has no TVAL of its own, so it gets that of
R177: the first parcel. -/
def collEff (op : Nat) (o : CollOp) (c : Cx) : Eff :=
  let a := c.sca o.desc.toNat
  match c.readDesc a 32 8 with
  | .eff e => e
  | .ok ws =>
    if !collOk op ws then .trap 0x01 1 (firstParcels c.instr).1
    else
      let e := groupEntry (getPartition c.pre (partOf c.pre c.preW)) (bits (wordAt ws 0) 24 8)
      let notMember (c : Cx) : Eff := .stop (xlatFail c.pre c.preW (.prot false) 0 0 (Config.freeAddr c.pre.tick) c.slot.pc)
      if (dwordAt ws 2).toNat % 4 != 0 then .trap 0x04 0 (wordAt ws 2)
      else if (dwordAt ws 4).toNat % 4 != 0 then .trap 0x04 0 (wordAt ws 4)
      else match (c.notifyAddr o.notify).filter (fun n => n.toNat % 4 != 0) with
      | some n => .trap 0x04 0 n
      | none =>
        match c.readGlobal [e, e + 4, e + 8] with
        | .eff x => x
        | .ok c g =>
          let rank := bits (wordAt g 0) 16 11
          let np := bits (wordAt g 0) 0 11
          if !(wordAt g 0).getLsbD 31 then notMember c
          else
            let at_ := dwordAt g 1 + BitVec.ofNat 64 (2 * rank)
            match c.readGlobal [wordVa at_] with
            | .eff x => x
            | .ok c d =>
              let half := bits (wordAt d 0) (8 * (at_.toNat % 4)) 16
              if np ≤ rank || half % 1024 != Config.device.toNat then notMember c
              else if op == collCast && np ≤ bits (wordAt ws 0) 0 16 then notMember c
              else collStart c op o ws rank np

def execCard (o : CollOp) (s : State) : Host.Outcome State Fault Refusal := issue (.card o) (collEff collCard o) s
def execCagt (o : CollOp) (s : State) : Host.Outcome State Fault Refusal := issue (.cagt o) (collEff collGather o) s
def execCata (o : CollOp) (s : State) : Host.Outcome State Fault Refusal := issue (.cata o) (collEff collAll o) s
def execCbct (o : CollOp) (s : State) : Host.Outcome State Fault Refusal := issue (.cbct o) (collEff collCast o) s

/-! ### The sum of CARD (R202) -/

/-- Nearest integer to m * 2^e, ties to even. -/
def rneInt (m : Nat) (e : Int) : Nat :=
  match e with
  | .ofNat k => m * 2 ^ k
  | .negSucc k =>
    let d := 2 ^ (k + 1)
    let q := m / d
    let r := m % d
    if d < 2 * r || (d == 2 * r && q % 2 == 1) then q + 1 else q

/-- Exponent of a finite nonzero value: floor of the logarithm of its magnitude. -/
def expOf? : Fp → Option Int
  | .fin _ m e => if m == 0 then none else some (floorLog m e)
  | _ => none

/-- The value in units of 2^(E - 40). -/
def quantised (top : Int) : Fp → Int
  | .fin neg m e => let q : Int := (rneInt m (e + 40 - top) : Nat); if neg then -q else q
  | _ => 0

/-- Sum of one position over the participants. -/
def cardSum (top : Int) (vs : List Fp) : Nat :=
  if vs.any Fp.isNan || (vs.any (fun v => v.isInf && v.neg) && vs.any (fun v => v.isInf && !v.neg)) then fmtF32.nan
  else if vs.any Fp.isInf then (fmtF32.infinity (vs.any (fun v => v.isInf && v.neg))).1
  else
    let q := (vs.map (quantised top)).foldl (· + ·) 0
    (fmtF32.round .rne (q < 0) q.natAbs (top - 40) false).1

/-- Largest exponent of a block. -/
def cardTop (l : List (List CWord)) : Int :=
  (((l.flatten.filterMap (fun w => expOf? (fmtF32.decode w.data.toNat))))).foldl (fun (a : Option Int) x =>
    match a with
    | none => some x
    | some y => some (if y < x then x else y)) none |>.getD 0

/-- Words of a block of CARD: one list of words per participant (R141, R202). -/
def cardBlock (n : Nat) (l : List (List CWord)) : List CWord :=
  let top := cardTop l
  (List.range n).map (fun j =>
    let ws := l.map (fun x => x.getD j (good 0))
    let r := good (BitVec.ofNat 32 (cardSum top (ws.map (fun w => fmtF32.decode w.data.toNat))))
    if ws.all (·.isGood) then r else poison r)

/-! ### Blocks (R295, R349) -/

/-- Requester of a collective's CLE. -/
def cleWho (group : Nat) : Nat := 480 + group % 2

/-- Words in the block at hand. -/
def Coll.blockWords (k : Coll) : Nat := Nat.min 256 (k.count - 256 * k.block)

/-- Addresses of the block's words from a word offset of a buffer on. -/
def Coll.run (k : Coll) (base : DWord) (off : Nat) : List DWord :=
  (List.range k.blockWords).map (fun j => base + BitVec.ofNat 64 (4 * (off + 256 * k.block + j)))

/-- Word offsets of the source blocks that this device reads. -/
def Coll.srcOffs (k : Coll) : List Nat :=
  if k.kind == collAll then (List.range k.np).map (fun r => r * k.count)
  else if k.kind == collCast && k.rank != k.root then []
  else [0]

/-- Word offsets of the destination blocks. -/
def Coll.dstOffs (k : Coll) : List Nat :=
  if k.kind == collGather || k.kind == collAll then (List.range k.np).map (fun r => r * k.count) else [0]

/-- Words of each rank, the device's own among them. -/
def Coll.byRank (k : Coll) (own : List CWord) (peers : List CollPeer) : List (List CWord) :=
  (List.range k.np).map (fun r =>
    if r == k.rank then own else ((peers.find? (fun p => p.rank == r)).elim [] (·.words)))

/-- Destination words of the block, in the order of `dstOffs`. -/
def Coll.result (k : Coll) (ws : List (List CWord)) : List CWord :=
  let n := k.blockWords
  let fit (l : List CWord) : List CWord := (List.range n).map (fun j => l.getD j (good 0))
  if k.kind == collCard then cardBlock n ws
  else if k.kind == collCast then fit (ws.getD k.root [])
  else (ws.map fit).flatten

/-- Every other rank is among the peers, each once. -/
def peersComplete (k : Coll) (peers : List CollPeer) : Bool :=
  peers.length + 1 == k.np && (List.range k.np).all (fun r => r == k.rank || peers.any (fun p => p.rank == r))

/-- A peer that has failed (R348). -/
def CollPeer.failed (p : CollPeer) : Bool := 3 < p.op

def peerDiffers (k : Coll) (p : CollPeer) : Bool := p.op != k.kind || p.count != k.count || p.root != k.root

/-- The instance fails on this device: the notification says so, and the warp gets a deferred report (R296, R348). -/
def collFails (s : State) (k : Coll) (cause : Byte) (report : Bool) : State :=
  let s := notifyDone (dropColl (dropHeldOf s (· == .engine k.id)) k.id) k.warp k.notify 0xFFFFFFFF
  let s := lowerCtr s k.warp .cp
  if report then addReport s k.warp ⟨.cp, cause, k.tag, none⟩ else s

/-- The error outcome of an instance (R348). -/
def collError (s : State) (k : Coll) : State := collFails s k 0x06 true

/-- A block's address did not translate (R349, R352, R359). -/
def collFault (s : State) (k : Coll) (write : Bool) (va : DWord) (x : Xlat) : State :=
  let i := k.issuer
  let stop (src lv : Nat) : State :=
    let (id, s) := postRec s i.part 1 (.coll k.id)
      (issuerRecord i src write.toNat false 0x05 lv va (if src == 3 then k.tag else 0))
    setColl s { k with state := .suspended id }
  match x with
  | .fault l => stop 3 l
  | .bad l => stop 4 l
  | .prot rng => collError (postRec s i.part 2 .info (issuerRecord i 3 write.toNat rng 0x06 0 va k.tag)).2 k
  | .freeze pa _ rng =>
    let (id, s) := postRec s i.part 4 (.coll k.id)
      (issuerRecord i 3 write.toNat rng 0 0 (BitVec.ofNat 64 pa) k.tag)
    noteFreeze (setColl s { k with state := .frozen id }) (4 + k.group % 2) (k.group % 2) pa
  | .ok _ _ _ | .miss => s

/-- The CLE runs an instance: it is among the oldest 8 of its I/O die (R358), and its reads may start (R109). -/
def collRuns (s : State) (k : Coll) : Bool :=
  k.state == .running && !k.mismatch && !collLost s k && notifyHere s k.warp k.notify &&
  (s.colls.filter (fun c => c.group % 2 == k.group % 2 && decide (c.id < k.id))).length < 8 &&
  !s.ops.any (fun o => o.kind == .copy k.id)

/-- Lines of some places in HBM or beyond it. -/
def placeTouched (ps : List Place) : List Nat := (ps.map (fun p => p.pa / 128)).eraseDups

/-- A participant's own copies of buffer lines go: its completion is an acquire for the named buffers (R109). -/
def dropBuffer (s : State) (k : Coll) (ps : List Place) : State :=
  (placeTouched ps).foldl (fun s l => dropLineCopies s (domainOf s k.issuer.core) l) s

/-- Move the next block of an instance with the peers' words (R295). -/
def moveBlock (s : State) (k : Coll) (peers : List CollPeer) : State :=
  let i := k.issuer
  let srcs := (k.srcOffs.map (k.run k.src)).flatten
  let dsts := (k.dstOffs.map (k.run k.dst)).flatten
  let tables := (((srcs ++ dsts).map (tablePlaces s (cleWho k.group) i.part i.ctx)).flatten).eraseDups
  let wait : State := holdOwn s (.engine k.id) (.read 1) tables
  let fault (write : Bool) (va : DWord) (x : Xlat) : State := ownDone s (.engine k.id) (.read 1) tables (collFault s k write va x)
  match placesOf s (cleWho k.group) i.part i.ctx false srcs with
  | .wait => wait
  | .fail va x => fault false va x
  | .ok ps =>
    match placesOf s (cleWho k.group) i.part i.ctx true dsts with
    | .wait => wait
    | .fail va x => fault true va x
    | .ok qs =>
      let ins := ps.map (·.2)
      let outs := qs.map (·.2)
      let ws := ins.map (placeRead s)
      let own := if k.kind == collAll then (ws.drop (k.rank * k.blockWords)).take k.blockWords else ws
      let t := placesWrite s (outs.zip (k.result (k.byRank own peers)))
      let t := dropBuffer (setColl t { k with block := k.block + 1, notices := k.notices ++ newNotices s t }) k (ins ++ outs)
      withAccess s (.engine k.id) [(wordKind false, tables), (wordKind false, ins), (wordKind true, outs)] t

def collBlockEvent (s : State) (id : Nat) (peers : List CollPeer) : State :=
  match findColl? s id with
  | none => s
  | some k =>
    if !collRuns s k || k.count ≤ 256 * k.block || !peersComplete k peers then s
    else if peers.any CollPeer.failed then collError s k
    else if peers.any (peerDiffers k) then (if k.block == 0 then setColl s { k with mismatch := true } else s)
    else moveBlock s k peers

def execCollectiveBlock (inst : Nat) (peers : List CollPeer) (s : State) : Host.Outcome State Fault Refusal :=
  goesOn (collBlockEvent s inst peers)

/-- A ring notification, where a mismatch is told by a report (R296). -/
def CopyNotify.isRing : CopyNotify → Bool
  | .ring _ _ => true
  | _ => false

/-- An instance is over on this device (R295, R296). DESIGN CHOICE (log 126): a mismatch reaches a warp by its notify word or its
ring only; a collective without a notification reports none. -/
def collCompletesEvent (s : State) (id : Nat) : State :=
  match findColl? s id with
  | none => s
  | some k =>
    if !notifyHere s k.warp k.notify then s
    else if collLost s k then collError s k
    else if k.mismatch then collFails s k 0x0F k.notify.isRing
    else if k.state == .running && k.count ≤ 256 * k.block && delivered s k.notices then
      lowerCtr (notifyDone (dropColl s k.id) k.warp k.notify 1) k.warp .cp
    else s

def execCollectiveCompletes (inst : Nat) (s : State) : Host.Outcome State Fault Refusal := goesOn (collCompletesEvent s inst)

end Sys2Proof.Machine
end

