-- ==== Sys2Proof/Machine/System.lean ====
section
/-! DEFINITION. The system group 0xF0 to 0xF6 (13 R300 to R305): traps, the return from them, device-side launches,
progress, invalidations and halts. -/

namespace Sys2Proof.Machine

open Sys2Proof

/-- TRAP (R300). -/
def trapEff (v : SVal) (c : Cx) : Eff := .trap 0x0B 0 (c.sval v)

def execTrap (v : SVal) (s : State) : Host.Outcome State Fault Refusal := issue (.trap v) (trapEff v) s

/-- BKPT (R300). -/
def bkptEff (v : SVal) (c : Cx) : Eff := .trap 0x0C 0 (c.sval v &&& 0xFFFF)

def execBkpt (v : SVal) (s : State) : Host.Outcome State Fault Refusal := issue (.bkpt v) (bkptEff v) s

/-- RETT (R301). -/
def rettEff (skip : Bool) (c : Cx) : Eff := .go (leaveTrap c.s c.w.uid skip) []

def execRett (skip : Bool) (s : State) : Host.Outcome State Fault Refusal := issue (.rett skip) (rettEff skip) s

/-- PRGS: the team's progress (R303). -/
def prgsEff (v : SVal) (c : Cx) : Eff :=
  match findTeam? c.s c.w.team with
  | none => .go c.s []
  | some t => .go (setTeam c.s { t with progress := Nat.min (c.sval v).toNat 256 }) []

def execPrgs (v : SVal) (s : State) : Host.Outcome State Fault Refusal := issue (.prgs v) (prgsEff v) s

/-- HALT: the warp stops with the next instruction still to issue, and a record of type 3 names the HALT (R305). -/
def haltEff (c : Cx) : Eff := .stop (stopWarp c.s c.w 3 true (warpRecord c.s c.w 0 0 false 0 0 0 c.slot.pc))

def execHalt (s : State) : Host.Outcome State Fault Refusal := issue .halt haltEff s

/-! ### LNCH (R302) -/

/-- log2 of a queue's records: LOGN held within 4 to 22 (R323). -/
def Queue.log (q : Queue) : Nat := Nat.max 4 (Nat.min 22 q.logn.toNat)

/-- Records of a queue that have been written and not taken. -/
def Queue.count (q : Queue) : Nat := (q.tail.toNat + 2 ^ q.log - q.head) % 2 ^ q.log

/-- Address of a record of a queue (R323). -/
def Queue.recordAt (q : Queue) (idx : Nat) : Nat := q.base.toNat / 128 * 128 + 128 * idx

/-- Launches of a partition's queue whose records wait for their releases. -/
def launchesHeld (s : State) (part queue : Nat) : Nat :=
  (s.ops.filter (fun o => match o.kind with
    | .lnch _ q _ => q == queue && (findWarp? s o.warp).elim false (fun w => partOf s w == part)
    | _ => false)).length

/-- The queue has no room for one more record (R323). -/
def queueFull (s : State) (part queue : Nat) : Bool :=
  let q := getQueue (getPartition s part) queue
  decide (2 ^ q.log ≤ q.count + launchesHeld s part queue + 1)

/-- Store words from an address on, with their own addresses; none where a check of R53 fails. -/
def Cx.storeWords (c : Cx) (a : Word) : Nat → Option (List (Word × CWord))
  | 0 => some []
  | n + 1 =>
    match plainTgt c.pre c.preW a false, c.storeWords (a + 4) n with
    | some p, some l => some ((a, c.pre.store.word (storeKey p.1 (planeAt c.pre c.preW p.1) p.2)) :: l)
    | _, _ => none

/-- LNCH: the record is consumed at issue and goes to the queue when the release wait is over; the slot blocks until
then. For a queue number beyond 63 the spec states no address for the record of cause 0x06. -/
def lnchEff (o : LnchOp) (c : Cx) : Eff :=
  let a := c.sca o.record.toNat
  let q := (c.sval o.q).toNat
  let part := partOf c.pre c.preW
  let prot (va : DWord) : Eff := .stop (xlatFail c.pre c.preW (.prot false) 0 0 va c.slot.pc)
  if a.toNat % 128 != 0 then .trap 0x04 0 a
  else if 63 < q then prot (Config.freeAddr c.pre.tick)
  else match c.storeWords a 32 with
    | none => prot (a.setWidth 64)
    | some ws =>
      if queueFull c.pre part q then .trap 0x11 0 (BitVec.ofNat 32 q)
      else match ws.find? (fun p => !p.2.isGood) with
        | some p => .stop (containBad c.pre c.preW p.2 c.lowest c.slot.pc (p.1.setWidth 64))
        | none =>
          let id := c.s.nextId
          .go (c.release (c.withSlot { c.mine with block := .lnch id }) (.lnch (ws.map (fun p => p.2.data)) q o.idx)) []

def execLnch (o : LnchOp) (s : State) : Host.Outcome State Fault Refusal := issue (.lnch o) (lnchEff o) s

/-! ### TLBI (R304, R355) -/

/-- What TLBI names: a page of the warp's own context, a context, or everything. -/
def Cx.invKind (c : Cx) : TlbiKind → InvKind
  | .page a => .page (c.sca64 a).toNat (ctxOf c.pre c.preW)
  | .ctx k => .ctx ((c.sca k.toNat).getLsbD 0)
  | .all => .all

/-- TLBI: after the release wait the invalidation begins; the slot blocks until it is done. -/
def tlbiEff (k : TlbiKind) (c : Cx) : Eff :=
  let (id, s) := fresh (c.withSlot { c.mine with block := .tlbi c.s.nextId })
  let s := { s with invals := s.invals ++
    [{ id := id, part := partOf c.pre c.preW, kind := c.invKind k, walks := [], byHost := false }] }
  .go (c.release s (.tlbi id)) []

def execTlbi (k : TlbiKind) (s : State) : Host.Outcome State Fault Refusal := issue (.tlbi k) (tlbiEff k) s

end Sys2Proof.Machine
end

