-- ==== Sys2Proof/Machine/Records.lean ====
section
/-! DEFINITION. Launch records (19 R323 to R327): their fields and checks, and the Sower's taking of the next record from
the chosen queue. -/

namespace Sys2Proof.Machine

open Sys2Proof

/-! ### Fields (R325) -/

def rword (ws : List Word) (i : Nat) : Word := ws.getD i 0
def rdword (ws : List Word) (i : Nat) : DWord := pairUp (rword ws i) (rword ws (i + 1))

/-- The fields of a record. -/
def recordOf (ws : List Word) : LaunchRec :=
  let f (i lo n : Nat) : Nat := bits (rword ws i) lo n
  let b (i k : Nat) : Bool := (rword ws i).getLsbD k
  { entry := rdword ws 0, ntx := f 2 0 24, nty := f 3 0 24, ntz := f 4 0 24, w := f 5 0 12, c := f 5 12 6,
    roles := rword ws 9 ++ rword ws 8 ++ rword ws 7 ++ rword ws 6, regs := 8 * f 10 0 6, acc := f 10 6 7,
    nring := f 10 13 6, nbar := f 10 19 7, nsoft := f 10 26 5, scratch := f 11 0 14, dstk := f 11 14 11,
    ringtab := rdword ws 12, relaunch := b 14 0, gridbar := b 14 1, fusel1 := b 14 2, spread := b 14 3, prio := f 14 4 2,
    dclass := f 14 6 2, podgrp := f 14 8 8, cint := b 14 16, param := rdword ws 15, prod := rword ws 17, dep := b 18 0,
    map := f 18 1 2, rb := f 18 8 8, tiles := f 19 0 24, compva := rdword ws 20, saveva := rdword ws 22 }

/-- Every must-be-zero field is zero. -/
def recordMbz (ws : List Word) : Bool :=
  let z (i lo n : Nat) : Bool := bits (rword ws i) lo n == 0
  z 2 24 8 && z 3 24 8 && z 4 24 8 && z 5 18 14 && z 10 31 1 && z 11 25 7 && z 14 17 15 && z 18 3 5 && z 18 16 16 &&
  z 19 24 8 && (List.range 7).all (fun i => rword ws (24 + i) == 0)

/-- Cores of a team, warps on each, and the sizes of its regions on a core (R17, R47). -/
def LaunchRec.cores (r : LaunchRec) : Nat := if r.spread then r.c else 1
def LaunchRec.perCore (r : LaunchRec) : Nat := r.w / LaunchRec.cores r
def LaunchRec.regBytes (r : LaunchRec) : Nat := 256 + 128 * r.regs
def LaunchRec.blockBytes (r : LaunchRec) : Nat :=
  Nat.max 128 ((128 * r.scratch + LaunchRec.perCore r * r.dstk * 16 + 127) / 128 * 128)
/-- Bytes of a team's register blocks and team block on one core. -/
def LaunchRec.coreBytes (r : LaunchRec) : Nat := LaunchRec.perCore r * LaunchRec.regBytes r + LaunchRec.blockBytes r
def LaunchRec.teams (r : LaunchRec) : Nat := r.ntx * r.nty * r.ntz
def LaunchRec.threads (r : LaunchRec) : Nat := r.w * 32

/-- Limits of R325 and of R17. -/
def recordLimits (r : LaunchRec) : Bool :=
  decide (r.entry.toNat % 4 = 0) && decide (1 ≤ r.ntx) && decide (1 ≤ r.nty) && decide (1 ≤ r.ntz) &&
  decide (LaunchRec.teams r < 2 ^ 32) &&
  (if r.spread then
    decide (4 ≤ r.w) && decide (r.w ≤ 2048) && decide (4 ≤ r.c) && decide (r.c ≤ 32) && r.c % 4 == 0 && r.w % r.c == 0 &&
      decide (r.w / r.c ≤ 64)
   else decide (1 ≤ r.w) && decide (r.w ≤ 64) && r.c == 0) &&
  decide (8 ≤ r.regs) && decide (r.regs ≤ 256) && decide (r.acc ≤ 16) && decide (r.nring ≤ 32) && decide (r.nbar ≤ 64) &&
  decide (r.nsoft ≤ 16) && decide (r.scratch ≤ 8191) && decide (r.dstk ≤ 1024) && (r.nring != 0 || r.ringtab == 0) &&
  decide (r.map < 2) && (r.map != 1 || r.rb != 0) && decide (r.compva.toNat % 32 = 0) && decide (r.saveva.toNat % 4096 = 0)

/-- ROLES entries of local warp indices that the team has not are zero (R326). -/
def recordRoles (r : LaunchRec) : Bool := decide (r.roles.toNat / 4 ^ LaunchRec.perCore r = 0)

/-! ### Regions of a store (R47, R48, R50) -/

/-- Bytes from an address on lie in the store and in no region. -/
def clearAt (rs : List (Nat × Nat)) (a n : Nat) : Bool :=
  decide (a + n ≤ 2 ^ 20) && rs.all (fun r => decide (a + n ≤ r.1) || decide (r.1 + r.2 ≤ a))

def roundUpTo (k a : Nat) : Nat := (a + k - 1) / k * k

/-- Lowest place for a register block. -/
def fitLow (rs : List (Nat × Nat)) (n : Nat) : Option Nat :=
  leastBy (fun a => [a]) ((0 :: rs.map (fun r => roundUpTo 256 (r.1 + r.2))).filter (fun a => clearAt rs a n))

/-- Highest place for a team block. -/
def fitHigh (rs : List (Nat × Nat)) (n : Nat) : Option Nat :=
  let tops := 2 ^ 20 :: rs.map (·.1)
  leastBy (fun a => [2 ^ 20 - a]) (((tops.filter (fun t => decide (n ≤ t))).map (fun t => (t - n) / 128 * 128)).filter (fun a =>
    clearAt rs a n))

/-- Places for some register blocks of one size, lowest first. -/
def fitBlocks (rs : List (Nat × Nat)) (n : Nat) : Nat → Option (List Nat)
  | 0 => some []
  | k + 1 =>
    match fitLow rs n with
    | none => none
    | some a => (fitBlocks ((a, n) :: rs) n k).map (fun l => a :: l)

/-- 32 KiB units of a plane that hold no part of a region. -/
def freeUnits (rs : List (Nat × Nat)) : Nat := ((List.range 32).filter (fun u => clearAt rs (32768 * u) 32768)).length

/-- A team block and the register blocks of a launch's team beside some regions of a core, at least 64 KiB being left as L1
(R47, R48). -/
def storeFit (rs : List (Nat × Nat)) (r : LaunchRec) : Option (Nat × List Nat) :=
  (fitHigh rs (LaunchRec.blockBytes r)).bind (fun a =>
    let rs := (a, LaunchRec.blockBytes r) :: rs
    (fitBlocks rs (LaunchRec.regBytes r) (LaunchRec.perCore r)).bind (fun b =>
      if 2 ≤ freeUnits (b.map (fun x => (x, LaunchRec.regBytes r)) ++ rs) then some (a, b) else none))

/-- Teams of a launch whose regions fit beside some regions of a core, up to a number of them. -/
def storeRoom (rs : List (Nat × Nat)) (r : LaunchRec) : Nat → Nat
  | 0 => 0
  | k + 1 =>
    match storeFit rs r with
    | none => 0
    | some x => 1 + storeRoom (x.2.map (fun b => (b, LaunchRec.regBytes r)) ++ (x.1, LaunchRec.blockBytes r) :: rs) r k

/-! ### Room in a partition (R326, R328) -/

/-- Quads of a partition on a die. -/
def quadsOnDie (p : Partition) (die : Nat) : Nat :=
  ((List.range 24).filter (fun q => p.quads.getLsbD (24 * die + q))).length

/-- The partition has the cores that a team needs: a quad, or enough quads of one die (R326, R328). -/
def recordCores (p : Partition) (r : LaunchRec) : Bool :=
  if r.spread then (List.range 4).any (fun d => decide (r.c / 4 ≤ quadsOnDie p d)) else p.quads != 0

/-- Teams of a launch that one core of an empty partition holds, and teams on a quad (R328). -/
def coreRoom (r : LaunchRec) : Nat :=
  let per (total each : Nat) : Nat := if each == 0 then total else total / each
  storeRoom [] r (Nat.min (64 / LaunchRec.perCore r)
    (Nat.min (if r.acc == 0 then 64 else per 32 r.acc) (if r.nring == 0 then 64 else per 32 r.nring)))

def quadRoom (r : LaunchRec) : Nat :=
  let n := if r.spread then coreRoom r else 4 * coreRoom r
  if r.nbar == 0 then n else Nat.min n (64 / r.nbar)

/-- Teams of a launch that an empty partition holds at once. -/
def partRoom (p : Partition) (r : LaunchRec) : Nat :=
  ((List.range 4).map (fun d =>
    (if r.spread then quadsOnDie p d / (r.c / 4) else quadsOnDie p d) * quadRoom r)).foldl (· + ·) 0

/-! ### Memory as the Sower reads it -/

/-- A ring word is in range (R325). -/
def ringWordOk (w : Word) : Bool := bits w 15 17 == 0

/-- The pod-group entry of a record: rank and members; none where reason 9 applies (R326, R340). -/
def podEntry? (s : State) (part : Nat) (ctx : Bool) (g : Nat) : Option (Nat × Nat) :=
  match sowerWords? s part ctx ((getPartition s part).pgbase + BitVec.ofNat 64 (16 * g)) 3 with
  | none => none
  | some ws =>
    let rank := bits (rword ws 0) 16 11
    let at_ := rdword ws 1 + BitVec.ofNat 64 (2 * rank)
    if !(rword ws 0).getLsbD 31 || bits (rword ws 0) 0 11 ≤ rank || at_.toNat % 2 != 0 then none
    else match sowerWord? s part ctx (wordVa at_) with
      | none => none
      | some d =>
        let half := bits d (8 * (at_.toNat % 4)) 16
        if half == part * 1024 + Config.device.toNat then some (rank, bits (rword ws 0) 0 11) else none

/-- The context of a partition's launches: the enabled one; where both are, which of them is not said by the record. -/
def launchCtx (s : State) (part : Nat) : Bool :=
  let p := getPartition s part
  if p.ctx0.en && p.ctx1.en then Config.launchContext part else p.ctx1.en

/-! ### Producers (R331) -/

/-- What is known of the launch that PROD names. -/
inductive Producer where
  | running (g : Grid)
  | done (status : Nat)
  /-- written to its queue and not taken -/
  | queued

def producerOf (s : State) (part : Nat) (prod : Word) : Producer :=
  match s.grids.find? (fun g => g.part == part && g.launch == prod) with
  | some g => .running g
  | none =>
    let p := getPartition s part
    match p.completed.find? (fun c => c.1 == prod) with
    | some c => .done c.2
    | none =>
      let q := getQueue p (bits prod 22 6)
      let i := bits prod 0 22
      if (i + 2 ^ q.log - q.head) % 2 ^ q.log < q.count && i < 2 ^ q.log then .queued else .done 4

/-- The producer failed or was rejected, or belongs to another partition (R326). -/
def producerBad (s : State) (part : Nat) (prod : Word) : Bool :=
  bits prod 28 4 != part || (match producerOf s part prod with
    | .running g => g.failed.isSome
    | .done st => st != 4
    | .queued => false)

/-! ### The checks (R326) -/

/-- Reason for which a record is rejected; 0 for none. `words` holds whether every word of the record could be read. -/
def recordReason (s : State) (part : Nat) (q : Queue) (words : Bool) (ws : List Word) (ctx : Bool) : Nat :=
  let p := getPartition s part
  let r := recordOf ws
  let tag := rword ws 31
  if !words || bits tag 22 10 != q.lap || bits tag 0 22 != q.head || !recordMbz ws then 1
  else if !recordLimits r then 2
  else if !recordRoles r then 3
  else if 983040 < LaunchRec.coreBytes r then 4
  else if !recordCores p r then 5
  else if r.gridbar && r.saveva == 0 && decide (partRoom p r < LaunchRec.teams r) then 6
  else if r.nring != 0 && !(sowerWords? s part ctx r.ringtab r.nring).elim false (fun l => l.all ringWordOk) then 7
  else if r.dep && producerBad s part r.prod then 8
  else if r.podgrp != 0 && (podEntry? s part ctx r.podgrp).isNone then 9
  else 0

/-! ### Taking (R323, R324) -/

/-- The words of a queue's head record. -/
def headRecord (s : State) (q : Queue) : List CWord :=
  (List.range 32).map (fun j => placeNow s (q.recordAt q.head + 4 * j) false)

/-- Every team of a grid has been placed, or no further one will be. -/
def Grid.allPlaced (g : Grid) : Bool :=
  g.failed.isSome || (decide (LaunchRec.teams g.r ≤ g.nextTeam) && g.skipped.isEmpty)

/-- The queue may give up its head record: SER, and one member of a pod group at a time, whatever became of its record (R323,
R340). -/
def mayTake (s : State) (part qn : Nat) : Bool :=
  let q := getQueue (getPartition s part) qn
  let grp := bits (((headRecord s q).map (·.data)).getD 14 0) 8 8
  q.en && q.count != 0 &&
  s.grids.all (fun g => g.part != part || g.queue != qn || (!q.ser && g.allPlaced)) &&
  s.grids.all (fun g => g.part != part || grp == 0 || g.r.podgrp != grp) &&
  (grp == 0 || !s.pods.any (fun d => d.part == part && d.group == grp))

/-- PRIO of a queue's head record. -/
def headPrio (s : State) (part qn : Nat) : Nat :=
  bits (((headRecord s (getQueue (getPartition s part) qn)).map (·.data)).getD 14 0) 4 2

/-- The queue whose record is taken next: highest priority, then round-robin (R324). -/
def chooseQueue (s : State) (part : Nat) : Option Nat :=
  let last := (getPartition s part).lastQueue
  leastBy (fun q => [3 - headPrio s part q, (q + 63 - last) % 64]) ((List.range 64).filter (mayTake s part))

/-- LAUNCH word of a record (R324). -/
def launchWord (part queue idx : Nat) : Word := BitVec.ofNat 32 (part * 2 ^ 28 + queue * 2 ^ 22 + idx)

/-- A barrier that some threads use, before any has arrived. -/
def freshBars (n threads : Nat) : List Bar :=
  (List.range n).map (fun k => { n := BitVec.ofNat 6 k, phase := false, registered := threads, arrived := 0, leaving := 0 })

/-- The device joins the next instance of a pod group (R340). -/
def joinPod (s : State) (part g grid threads : Nat) (e : Nat × Nat) : State :=
  { s with pods := s.pods ++ [{ part := part, group := g, grid := grid, rank := e.1, np := e.2, threads := threads,
                                mine := [], phases := [], out := [], sent := false, gone := false, ranks := [],
                                bars := [], completions := [] }] }

/-- The head moves on; a wrap of the head begins the next lap (R323). -/
def Queue.advance (q : Queue) : Queue :=
  if q.head + 1 < 2 ^ q.log then { q with head := q.head + 1 } else { q with head := 0, lap := (q.lap + 1) % 1024 }

/-- Addresses that the Sower reads for a record that passes the checks before them: its ring words, then its pod group's entry
and the member's word in its list (R325, R340). -/
def recordVas (s : State) (part : Nat) (ctx : Bool) (r : LaunchRec) (reason : Nat) : List DWord :=
  let words (va : DWord) (n : Nat) : List DWord := (List.range n).map (fun j => va + BitVec.ofNat 64 (4 * j))
  let e := (getPartition s part).pgbase + BitVec.ofNat 64 (16 * r.podgrp)
  (if 1 ≤ reason && reason ≤ 6 then [] else words r.ringtab r.nring) ++
  (if r.podgrp == 0 then []
   else words e 3 ++ (match sowerWords? s part ctx e 3 with
    | some ws => [wordVa (rdword ws 1 + BitVec.ofNat 64 (2 * bits (rword ws 0) 16 11))]
    | none => []))

/-- The Sower takes the head record of a queue. DESIGN CHOICE (log 115): no field of the record tells where the kernel's
`.data scratch` image is (R42, R325), so the words of the image come with the event, once for the grid. -/
def takeHead (s : State) (part qn : Nat) (image : List (Nat × Word)) : State :=
  let p := getPartition s part
  let q := getQueue p qn
  let cw := headRecord s q
  let ws := cw.map (·.data)
  let r := recordOf ws
  let ctx := launchCtx s part
  let reason := recordReason s part q (cw.all CWord.isGood) ws ctx
  let (id, s) := fresh s
  let total := LaunchRec.teams r * LaunchRec.threads r
  let g : Grid :=
    { uid := id, launch := launchWord part qn q.head, part := part, queue := qn, ctx := ctx, r := r,
      ringWords := (sowerWords? s part ctx r.ringtab r.nring).getD [],
      scratchInit := image.foldl (fun t x => tset t x.1 x.2) [], nextTeam := 0, skipped := [], relaunches := [],
      ended := 0, failed := if reason == 0 then none else some 1, reason := reason, relaunchCount := 0, tiles := [],
      bars := if r.gridbar && reason == 0 then freshBars r.nbar total else [], waitingSince := s.cycle,
      requested := false }
  let s := setPartition { s with grids := s.grids ++ [g] } part { setQueue p qn q.advance with lastQueue := qn }
  if !cw.all CWord.isGood || r.podgrp == 0 then s
  else (podEntry? s part ctx r.podgrp).elim s (joinPod s part r.podgrp id total)

/-- What the Sower reads over the fabric from this device itself for a queue's head record. -/
def headOwn (s : State) (part qn : Nat) : List Place :=
  let q := getQueue (getPartition s part) qn
  let cw := headRecord s q
  let ws := cw.map (·.data)
  let ctx := launchCtx s part
  if cw.all CWord.isGood then sowerOwn s part ctx (recordVas s part ctx (recordOf ws) (recordReason s part q true ws ctx)) else []

/-- The Sower takes the next record, once what it reads for it can be had (R324, R353). -/
def takeRecord (s : State) (part : Nat) (image : List (Nat × Word)) : State :=
  if !(getPartition s part).en then s
  else match chooseQueue s part with
    | none => s
    | some qn =>
      let own := headOwn s part qn
      if own.any (Place.waits s (.engine 0) false) then holdOwn s (.engine 0) (.read 1) own
      else ownDone s (.engine 0) (.read 1) own (takeHead s part qn image)

def execLaunchRecordTaken (part : Nat) (image : List (Nat × Word)) (s : State) : Host.Outcome State Fault Refusal :=
  goesOn (takeRecord s part image)

end Sys2Proof.Machine
end

