-- ==== Sys2Proof/Machine/Grids.lean ====
section
/-! DEFINITION. The end of a grid (05 R111, 19 R327, 20 R356) and the pod groups (19 R340): registrations, barrier
messages and phase completions, as this device sends and receives them. -/

namespace Sys2Proof.Machine

open Sys2Proof

/-! ### Pod groups (R340) -/

def findPod? (s : State) (part group : Nat) : Option Pod := s.pods.find? (fun p => p.part == part && p.group == group)

def sumOf (l : List Nat) : Nat := l.foldl (· + ·) 0

/-- Every member's thread count has arrived at the rank-0 CLE. -/
def Pod.complete (p : Pod) : Bool := (List.range p.np).all (fun r => (tget? p.ranks r).isSome)

/-- The members' parts in one barrier, as the rank-0 CLE holds them. -/
def Pod.barsOf (p : Pod) (n : BitVec 6) : List PodBar := p.bars.filter (fun b => b.n == n)

/-- A phase begins afresh: threads that leave are out from now on. -/
def PodBar.next (b : PodBar) : PodBar := { b with arrived := 0, leaving := 0, dropped := b.dropped + b.leaving }

/-- Complete the phase of a barrier whose count is full. -/
def Pod.phase (p : Pod) (n : BitVec 6) : Pod :=
  let l := p.barsOf n
  let arrived := sumOf (l.map (·.arrived))
  if p.complete && arrived != 0 && arrived + sumOf (l.map (·.dropped)) == sumOf (p.ranks.map (·.2)) then
    { p with bars := p.bars.map (fun b => if b.n == n then PodBar.next b else b), completions := p.completions ++ [n] }
  else p

/-- Complete every phase that can be. -/
def Pod.phases' (p : Pod) : Pod := ((p.bars.map (·.n)).eraseDups).foldl Pod.phase p

/-- A member has completed, as far as the rank-0 CLE can tell: its threads are out of every barrier it uses. -/
def Pod.memberOver (p : Pod) (r : Nat) : Bool :=
  let l := p.bars.filter (fun b => b.rank == r)
  let count := tget p.ranks r 0
  (count == 0 || !l.isEmpty || p.bars.isEmpty) && l.all (fun b => b.dropped + b.leaving == count)

/-- The device's part in an instance is over. -/
def Pod.ended (p : Pod) : Bool :=
  p.gone && p.sent && p.out.isEmpty &&
  (p.rank != 0 || (p.complete && p.completions.isEmpty && (List.range p.np).all p.memberOver))

def sweepPods (s : State) : State := { s with pods := s.pods.filter (fun p => !p.ended) }

/-- A member's thread count reaches the instance: this device's leaves it, and at rank 0 the counts are gathered. -/
def podRegister (s : State) (part group rank count : Nat) : State :=
  match findPod? s part group with
  | none => s
  | some p =>
    if rank == p.rank then
      if p.sent || count != p.threads then s
      else
        let p := { p with sent := true }
        sweepPods (setPod s (if rank == 0 then { p with ranks := tset p.ranks 0 count }.phases' else p))
    else if p.rank != 0 || p.np ≤ rank || (tget? p.ranks rank).isSome then s
    else sweepPods (setPod s { p with ranks := tset p.ranks rank count }.phases')

def execPodRegistration (part group rank count : Nat) (s : State) : Host.Outcome State Fault Refusal :=
  goesOn (podRegister s part group rank count)

/-- Arrivals and drops of a member count at the rank-0 CLE. -/
def Pod.count (p : Pod) (rank : Nat) (n : BitVec 6) (arrivals drops : Nat) : Pod :=
  let b := findPodBar p.bars n rank
  Pod.phase { p with bars := putPodBar p.bars { b with arrived := b.arrived + arrivals, leaving := b.leaving + drops } } n

/-- A member can have sent such a message: no more threads than it has. -/
def Pod.sendable (p : Pod) (rank : Nat) (n : BitVec 6) (arrivals drops : Nat) : Bool :=
  let b := findPodBar p.bars n rank
  (tget? p.ranks rank).any (fun c =>
    decide (b.arrived + arrivals + b.dropped ≤ c) && decide (b.leaving + drops + b.dropped ≤ c))

/-- A Sower's message reaches the rank-0 CLE: this device's own leaves it in order; another's comes from outside. -/
def podMessage (s : State) (part group rank : Nat) (n : BitVec 6) (arrivals drops : Nat) : State :=
  match findPod? s part group with
  | none => s
  | some p =>
    if rank == p.rank then
      match p.out with
      | [] => s
      | m :: rest =>
        if !p.sent || m != (n, arrivals, drops) then s
        else
          let p := { p with out := rest }
          sweepPods (setPod s (if rank == 0 then p.count 0 n arrivals drops else p))
    else if p.rank != 0 || !p.sendable rank n arrivals drops then s
    else sweepPods (setPod s (p.count rank n arrivals drops))

def execPodBarrierMessage (part group rank : Nat) (n : BitVec 6) (arrivals drops : Nat) (s : State) :
    Host.Outcome State Fault Refusal := goesOn (podMessage s part group rank n arrivals drops)

/-- A completion may reach this device now: at rank 0 one that its CLE has sent; elsewhere, one that this member's
threads do not still hold up. -/
def Pod.completes (p : Pod) (n : BitVec 6) : Bool :=
  if p.rank == 0 then p.completions.contains n
  else
    let b := findPodBar p.mine n p.rank
    p.sent && b.arrived + b.dropped == p.threads && !p.out.any (fun m => m.1 == n)

/-- A phase completes on this device: its bit flips and the grid's waiters resume (R263). -/
def podPhase (s : State) (part group : Nat) (n : BitVec 6) : State :=
  match findPod? s part group with
  | none => s
  | some p =>
    if !p.completes n then s
    else
      let b := findPodBar p.mine n p.rank
      let bit := !tget p.phases n.toNat false
      let s := setPod s { p with mine := putPodBar p.mine (PodBar.next b), phases := tset p.phases n.toNat bit,
                                 completions := p.completions.erase n }
      let s := (s.teams.find? (fun t => t.grid == p.grid)).elim s (fun t => releaseBar s t .pod n bit)
      sweepPods s

def execPodPhaseCompletion (part group : Nat) (n : BitVec 6) (s : State) : Host.Outcome State Fault Refusal :=
  goesOn (podPhase s part group n)

/-- The device of a member of a pod group, by its rank; none where the table cannot be read. -/
def podDevice? (s : State) (p : Pod) (r : Nat) : Option Nat :=
  (s.grids.find? (fun g => g.uid == p.grid)).bind (fun g =>
    (sowerWords? s p.part g.ctx ((getPartition s p.part).pgbase + BitVec.ofNat 64 (16 * p.group)) 3).bind (fun ws =>
      let at_ := rdword ws 1 + BitVec.ofNat 64 (2 * r)
      (sowerWord? s p.part g.ctx (wordVa at_)).map (fun d => bits d (8 * (at_.toNat % 4)) 10)))

/-- A member device is lost: its threads leave the instance's barriers (R340, R370). -/
def Pod.lose (p : Pod) (r : Nat) : Pod :=
  Pod.phases' { p with ranks := tset p.ranks r 0, bars := p.bars.filter (fun b => b.rank != r) }

/-- The pod groups whose rank-0 CLE is here lose a device. -/
def podsLose (s : State) (peer : Nat) : State :=
  { s with pods := s.pods.map (fun p =>
      if p.rank != 0 then p
      else ((List.range p.np).filter (fun r => r != 0 && podDevice? s p r == some peer)).foldl Pod.lose p) }

/-! ### The end of a grid (R327) -/

/-- What a warp that is no more has left of an operation holds up no completion: a soft operation whose entries or answers wait
for a commit that another grid may make. -/
def OpKind.lingers : OpKind → Bool
  | .soft _ => true
  | _ => false

/-- A grid's teams have all ended, none is to come, and nothing that its warps left behind is under way (R111). -/
def gridOver (s : State) (g : Grid) : Bool :=
  !s.teams.any (fun t => t.grid == g.uid) &&
  (g.failed.isSome || (decide (LaunchRec.teams g.r ≤ g.nextTeam) && g.skipped.isEmpty && g.relaunches.isEmpty)) &&
  s.ops.all (fun o => OpKind.lingers o.kind || (findWarp? s o.warp).isSome) && s.parts.all (fun p => (findWarp? s p.warp).isSome)

/-- STATUS of a grid's completion: 4 complete, or what it failed with. -/
def gridStatus (g : Grid) : Nat := g.failed.getD 4

/-- The completion record. -/
def completionRecord (s : State) (g : Grid) : List Word :=
  [BitVec.ofNat 32 (gridStatus g * 2 ^ 24 + (if gridStatus g == 1 then g.reason else 0)), g.launch,
   BitVec.ofNat 32 s.cycle, BitVec.ofNat 32 (s.cycle / 2 ^ 32), BitVec.ofNat 32 g.relaunchCount, 0, 0, 0]

/-- One more interrupt of a partition (R356). -/
def sendInterrupt (s : State) (part : Nat) : State :=
  { s with interrupts := tset s.interrupts part (tget s.interrupts part 0 + 1) }

/-- A member that does not complete drops its threads from the group's barriers (R340). -/
def podDropAll (s : State) (part group : Nat) : State :=
  (List.range 64).foldl (fun s n =>
    match findPod? s part group with
    | none => s
    | some p =>
      let b := findPodBar p.mine (BitVec.ofNat 6 n) p.rank
      let drops := p.threads - b.dropped - b.leaving
      if drops == 0 then s
      else podArrive s p (BitVec.ofNat 6 n) (p.threads - b.dropped - b.arrived) drops) s

/-- The member's grid has completed. -/
def podGridOver (s : State) (g : Grid) : State :=
  match podOf? s g.uid with
  | none => s
  | some p =>
    let s := if gridStatus g == 4 then s else podDropAll s p.part p.group
    { s with pods := s.pods.map (fun x => if x.grid == g.uid then { x with gone := true } else x) }

/-- Addresses of a completion record's words. -/
def completionVas (g : Grid) : List DWord := (List.range 8).map (fun j => g.r.compva + BitVec.ofNat 64 (4 * j))

/-- Places of a completion record; none where its address is not mapped for writing. -/
def completionPlaces (s : State) (g : Grid) : List Place :=
  match placesOf s (sowerWho g.part) g.part g.ctx true (completionVas g) with
  | .ok l => l.map (·.2)
  | .fail _ _ | .wait => []

/-- The record is written, the interrupt sent and the grid forgotten (R111, R327, R356). -/
def gridCompletes (s : State) (grid : Nat) : State :=
  match findGrid? s grid with
  | none => s
  | some g =>
    let ps := completionPlaces s g
    if !gridOver s g then s
    else
      let t := placesWrite s (ps.zip ((completionRecord s g).map good))
      let t := if g.r.cint then sendInterrupt t g.part else t
      let p := getPartition t g.part
      let t := setPartition t g.part { p with completed := ((g.launch, gridStatus g) :: p.completed).take 1024 }
      let tables := ((completionVas g).map (tablePlaces s (sowerWho g.part) g.part g.ctx)).flatten.eraseDups
      withWalked s (.engine 0) tables true ps (sweepPods { podGridOver t g with grids := t.grids.filter (fun x => x.uid != grid) })

def execGridCompletes (grid : Nat) (s : State) : Host.Outcome State Fault Refusal := goesOn (gridCompletes s grid)

end Sys2Proof.Machine
end

