-- ==== Sys2Proof/Machine/Remote.lean ====
section
/-! DEFINITION. Fills from beyond HBM (04 R71, R85), acknowledgements of stores and reductions (01 R26), and the accesses of
this device to itself over the fabric (20 R353, R357). -/

namespace Sys2Proof.Machine

open Sys2Proof

/-! ### Fills -/

/-- The words of a line. -/
def linePlaces (line : Nat) : List Place := (List.range 32).map (fun j => ⟨128 * line + 4 * j, false⟩)

/-- A line beyond HBM as a fill finds it (R141, R353). -/
def remoteLine (s : State) (line : Nat) : Tab CWord := (linePlaces line).zipIdx.map (fun p => (p.2, placeRead s p.1))

/-- A fill whose line lies beyond HBM has its words as they are on its arrival. -/
def Reply.arrived (s : State) (r : Reply) : Reply := if r.inHbm then r else { r with words := remoteLine s r.line }

def fillEvent (s : State) (id : Nat) : State :=
  match s.replies.find? (fun r => r.id == id) with
  | none => s
  | some r =>
    if r.grant || !replyDue s r then s
    else withPlaces s (.engine r.id) false (if r.inHbm then [] else linePlaces r.line)
      (let s := { s with replies := s.replies.filter (fun q => q.id != id) }
      match findMiss? s r.miss with
      | none => s
      | some m => takeReply s m (r.arrived s) (if r.wi then .wi else .si))

def execFillArrives (msg : Nat) (s : State) : Host.Outcome State Fault Refusal := goesOn (fillEvent s msg)

/-! ### Acknowledgements (R26) -/

/-- Copies beyond HBM of an operation's words in its domain, filled since its issue, become I as it is performed (R68,
R71). -/
def dropRemote (s : State) (o : Op) : State :=
  match findWarp? s o.warp with
  | none => s
  | some w => (o.words.filter (fun x => x.hbm?.isNone)).foldl (fun s x => match x.line? with
      | some (line, j) => dropCopies s (domainOf s w.core) line (bitAt j)
      | none => s) s

/-- The words of a store that lie in host memory; those of a fallow page are discarded (R352). -/
def storeHostWords (s : State) (o : Op) : State :=
  o.words.foldl (fun s x => match x.tgt with
    | .host a => if x.fal then s else hostStore s a x.data
    | _ => s) (dropRemote s o)

/-- Every word of a store that goes to an owned copy has been written. -/
def ownedDone (o : Op) : Bool := o.words.all (fun x => x.done || x.pol != .own)

/-- Words over the fabric, performed at their target (R259). -/
def markRemote (o : Op) : Op :=
  { o with words := o.words.map (fun x => match x.tgt with
    | .fabric _ => { x with done := true }
    | _ => x) }

/-! ### Accesses of this device to itself over the fabric (R353, R357) -/

/-- Words of an operation that go to this device over the fabric and are not performed yet. -/
def Op.ownLeft (o : Op) : List OpWord :=
  o.words.filter (fun x => !x.done && x.got.isNone && (match x.tgt with
    | .fabric pa => ownFabric pa
    | _ => false))

def OpWord.place (x : OpWord) : Place :=
  match x.tgt with
  | .fabric pa | .hbm pa => ⟨pa, x.fal⟩
  | .host a => ⟨hostBase + a, x.fal⟩
  | _ => ⟨0, false⟩

/-- The requests of one L1 domain to this device keep their order on the path (R357). -/
def ownTurn (s : State) (o : Op) : Bool :=
  let dom (e : Op) : Option Nat := (findWarp? s e.warp).map (fun w => domainOf s w.core)
  !(s.ops.takeWhile (fun e => e.id != o.id)).any (fun e => !e.held && e.kind.isGlobal && !e.ownLeft.isEmpty && dom e == dom o)

/-- What an operation asks of a word's home. -/
def OpKind.fabKind : OpKind → FabKind
  | .atom k => .atomic false k [] []
  | .red k => .atomic true k [] []
  | .st | .stck | .stnt => .write []
  | _ => .read 1

/-- Replies to writes performed here are acknowledgements, which wait for their notices (R78, R96). -/
def ackNotices (before after : State) (op : Nat) : State :=
  { after with wrhReplies := after.wrhReplies ++ (newNotices before after).map (fun n => ⟨0, op, some n, after.cycle⟩) }

/-- An atomic or reduction that did not pass through an L1, at its home; nobody owns its words (R144, R259). -/
def atomicPlaces (s : State) (ps : List Place) (red : Bool) (k : AtomKind) (b d : List CWord) : State × List CWord × Word :=
  match ps.head?.bind Place.hbm? with
  | none => (s, b.map (fun _ => poison (good (Config.freeWord s.tick))), 0)
  | some h =>
    let e := entryOf s h.1
    let ix (l : List CWord) : Tab CWord := l.zipIdx.map (fun p => (h.2 + p.2, p.1))
    let t := if e.shr != 0 then putEntry (sendInv s h.1).2 { e with shr := 0 } else s
    let a := atomicAt t h.1 k red (ps.any (·.fal)) (ix b) (ix d)
    (a.1, a.2.1.map (·.2), a.2.2)

/-- Atomics reach no host memory, reductions only memory-side pages (R259): the translation that fails so. -/
def atomicProt (red : Bool) (q : Place) (a : Attr) : Bool := hbmEnd ≤ q.pa || (red && !a.ms)

/-- The words of one lane of an atomic are performed at this device's home, or have the error outcome. -/
def ownAtomic (o : Op) (k : AtomKind) (red : Bool) (s : State) (lane : Nat) : State :=
  let ws := o.ownLeft.filter (fun x => x.lane == lane)
  let pa := (ws.head?.elim ⟨0, false⟩ OpWord.place).pa
  let req := ownReq (OpKind.fabKind o.kind) pa
  let r : State × List CWord × Word :=
    match importOf s true pa with
    | .place q a ctx rng =>
      if atomicProt red q a then atomicPlaces (fabProtRecord s req ctx rng) [] red k (ws.map (·.data)) []
      else atomicPlaces s (ws.filterMap (fun x => Place.here? s true x.place)) red k (ws.map (·.data)) (ws.map (·.expect))
    | _ => atomicPlaces s [] red k (ws.map (·.data)) []
  match findOp? r.1 o.id with
  | none => r.1
  | some p => ackNotices s (setOp r.1 { p with words := p.words.map (fun x =>
      if x.lane == lane && ws.any (fun y => y.j == x.j) then
        { x with got := r.2.1[x.j]?, done := true, flags := if x.j == 0 then r.2.2 else 0 }
      else x) }) o.id

/-- An operation's words for this device are performed (R357): a load's with the fill of their lines (R71). -/
def performOwn (s : State) (o : Op) : State :=
  let own := o.ownLeft
  let ps := own.map OpWord.place
  let mark (f : OpWord → OpWord) (t : State) : State :=
    setOp t { o with words := o.words.map (fun x => if own.any (fun y => y.lane == x.lane && y.j == x.j) then f x else x) }
  let dom := (findWarp? s o.warp).elim 0 (fun w => domainOf s w.core)
  let lines := (ps.map (fun p => p.pa / 128)).eraseDups
  let kept := ((ps.filter (fun p => !p.fal)).map (fun p => p.pa / 128)).eraseDups
  let kind := OpKind.fabKind o.kind
  if !ownTurn s o then s
  else match o.kind with
    | .st | .stck | .stnt =>
      withPlacesFor s (.engine o.id) kind ps
        (ackNotices s (mark (fun x => { x with done := true }) (placesWrite s (own.map (fun x => (x.place, x.data))))) o.id)
    | .atom k => withPlacesFor s (.engine o.id) kind ps ((own.map (·.lane)).eraseDups.foldl (ownAtomic o k false) s)
    | .red k => withPlacesFor s (.engine o.id) kind ps ((own.map (·.lane)).eraseDups.foldl (ownAtomic o k true) s)
    | _ =>
      withPlacesFor s (.engine o.id) kind ((lines.map linePlaces).flatten)
        (kept.foldl (fun t line => l1Install t dom line .si (remoteLine s line))
          (mark (fun x => { x with got := some (placeRead s x.place) }) s))

def storeAckEvent (s : State) (id : Nat) : State :=
  match findOp? s id with
  | none => s
  | some o =>
    let own := !o.ownLeft.isEmpty
    let finished := ownedDone o && homesAnswered s id
    let finish (s : State) : State := dropOp (storeHostWords (dropReplies s id) o) id
    if o.held then s
    else match o.kind with
      | .sts =>
        if o.words.any (OpWord.bankShut s) then s
        else lowerCtr (dropOp (o.words.foldl (fun s x => stsWord s o x) s) id) o.warp .st
      | .st | .stck => if own then performOwn s o else if finished then lowerCtr (finish s) o.warp .st else s
      | .stnt =>
        if !o.accepted then lowerCtr (setOp s { o with accepted := true }) o.warp .st
        else if own then performOwn s o
        else if finished then finish s else s
      | .red _ =>
        if !o.accepted then acceptRed s o
        else if own then performOwn s o
        else
          let s := dropRemote s o
          let o := markRemote o
          if o.words.all (·.done) && homesAnswered s id then dropOp (dropReplies s id) id else setOp s o
      | _ => s

def execStoreAcknowledged (op : Nat) (s : State) : Host.Outcome State Fault Refusal := goesOn (storeAckEvent s op)

end Sys2Proof.Machine
end

