-- ==== Sys2Proof/Machine/Soft.lean ====
section
/-! DEFINITION. Soft memory 0xE0 to 0xE7 (06 R114 to R138, 13 R297): handles and lists at issue, staging at the homes,
commits forward and adjoint at the commit home, and their completion. -/

namespace Sys2Proof.Machine

open Sys2Proof

/-! ### Failures and handles (R114, R136) -/

/-- TVAL of cause 0x0D. -/
def softTval (kind : Nat) (h : BitVec 4) : Word := BitVec.ofNat 32 (kind * 2 ^ 28 + h.toNat)

def softFail (kind : Nat) (h : BitVec 4) : Eff := .trap 0x0D 0 (softTval kind h)

/-- A handle that nothing has bound. -/
def Handle.unbound : Handle := { desc := none, sq := 0, ew := 0, lq := 0 }

def Cx.handle (c : Cx) (h : BitVec 4) : Handle := c.preW.handles.getD h.toNat Handle.unbound

/-- The counted warp with a handle changed. -/
def Cx.withHandle (c : Cx) (h : BitVec 4) (x : Handle) : State := setWarp c.s { c.w with handles := c.w.handles.set h.toNat x }

/-- Smallest power of two that is at least W (R117). -/
def SoftDesc.p (d : SoftDesc) : Nat :=
  if d.w ≤ 1 then 1 else if d.w ≤ 2 then 2 else if d.w ≤ 4 then 4 else if d.w ≤ 8 then 8 else if d.w ≤ 16 then 16 else 32

/-- Bytes of a region (R117). -/
def SoftDesc.bytes (d : SoftDesc) : Nat := 4 * d.p * d.n

/-- Address of word j of slot k of a region or of its gradient region (R117). -/
def SoftDesc.slotVa (d : SoftDesc) (k j : Nat) : DWord := d.base + BitVec.ofNat 64 (4 * d.p * k + 4 * j)
def SoftDesc.gradVa (d : SoftDesc) (k j : Nat) : DWord := d.gbase + BitVec.ofNat 64 (4 * d.p * k + 4 * j)

/-- A descriptor that is not used. -/
def SoftDesc.none : SoftDesc := { region := 0, base := 0, w := 1, n := 1, parts := 1, wbase := 0, gbase := 0 }

/-! ### SREG (R115, R116) -/

/-- The fields of a descriptor's eight words. -/
def softDescOf (ws : List Word) : SoftDesc :=
  { region := 0, base := pairUp (wordAt ws 0) (wordAt ws 1 &&& 0x1FFFFFF), w := bits (wordAt ws 2) 16 5 + 1,
    n := bits (wordAt ws 2) 0 16 + 1, parts := bits (wordAt ws 3) 0 24, wbase := dwordAt ws 4, gbase := dwordAt ws 6 }

def softDescOk (ws : List Word) (d : SoftDesc) : Bool :=
  bits (wordAt ws 1) 25 7 == 0 && bits (wordAt ws 2) 21 11 == 0 && bits (wordAt ws 3) 24 8 == 0 && d.parts != 0 &&
  d.base.toNat % 128 == 0 && d.wbase.toNat % 64 == 0 && d.gbase.toNat % 128 == 0

/-- An address of each page of a range: the first address, then the starts of the later pages. -/
def pagesOf (a : DWord) (bytes : Nat) : List DWord :=
  let first := 65536 - a.toNat % 65536
  if bytes == 0 then []
  else a :: (List.range ((bytes - 1 + a.toNat % 65536) / 65536)).map (fun i => a + BitVec.ofNat 64 (first + 65536 * i))

/-- A page that may not hold a soft region (R116, R352). -/
def softBad (pa : Nat) (a : Attr) : Bool := !a.ms || a.ro || hbmEnd ≤ pa

/-- A page that a soft load may not read. -/
def softReadBad (pa : Nat) (a : Attr) : Bool := !a.ms || hbmEnd ≤ pa

/-- A store address of the issuing team's own block on the issuing core (R119). -/
def Cx.ownAddr? (c : Cx) (a : Word) (write : Bool) : Option Nat :=
  match plainTgt c.pre c.preW a write, findTeam? c.pre c.preW.team with
  | some (core, addr), some t =>
    if core == c.preW.core && t.blockHolds core addr then some addr else none
  | _, _ => none

/-- Protection of `n` words at a store address of the team's own block (R119). -/
def Cx.checkOwn (c : Cx) (a : Word) (n : Nat) (write : Bool) : Option Eff :=
  let addrs := (List.range n).map (fun i => a + BitVec.ofNat 32 (4 * i))
  (addrs.find? (fun x => (c.ownAddr? x write).isNone)).map (fun x =>
    .stop (xlatFail c.pre c.preW (.prot false) 0 write.toNat (x.setWidth 64) c.slot.pc))

/-- Consume `n` words of the team's own block, its stacks and rounding bytes included (R53, R119, R142). -/
def Cx.readOwn (c : Cx) (a : Word) (n : Nat) : ReadWords :=
  match c.checkOwn a n false with
  | some e => .eff e
  | none => c.consumeAt false a n

def sregEff (o : SregOp) (c : Cx) : Eff :=
  let a := c.sca o.d.toNat
  if a.toNat % 32 != 0 then .trap 0x04 0 a
  else match c.readOwn a 8 with
  | .eff e => e
  | .ok ws =>
    let d := softDescOf ws
    if !softDescOk ws d then softFail 5 o.h
    else
      let pages := pagesOf d.base d.bytes ++ pagesOf d.wbase 64 ++ (if d.gbase == 0 then [] else pagesOf d.gbase d.bytes)
      match warpXlats c.pre c.preW softBad (pages.map (fun p => (0, p))) with
      | .wait s => .stop (holdSlot s c.preW.uid c.n)
      | .stop _ va x s => .stop (xlatFail s c.preW x 0 1 va c.slot.pc)
      | .ok l =>
        let region := (l.head?).elim 0 (·.2.2.1)
        .go (c.withHandle o.h { Handle.unbound with desc := some { d with region := region } }) []

def execSreg (o : SregOp) (s : State) : Host.Outcome State Fault Refusal := issue (.sreg o) (sregEff o) s

/-! ### Lists (R118, R119) -/

/-- A list as read: entries of index and weight. -/
structure SoftList where
  dense : Bool
  ents : List (Nat × Word)

/-- Words of a list of n entries. -/
def listWords (dense : Bool) (n : Nat) : Nat := if dense then n else 2 * n

/-- Entries of a list's words. -/
def entsOf (dense : Bool) (n : Nat) (ws : List Word) : List (Nat × Word) :=
  (List.range n).map (fun i => if dense then (i, wordAt ws i) else ((wordAt ws (2 * i)).toNat, wordAt ws (2 * i + 1)))

inductive ReadList where
  | ok (l : SoftList)
  | eff (e : Eff)

/-- Read a list. `n` is the slot count of the region, where there is one; `out` is the address of a list of the same
form to be written, checked as well. -/
def Cx.readList (c : Cx) (h : BitVec 4) (n : Option Nat) (p : SReg) (out : Option Word) : ReadList :=
  let a := c.sca p.toNat
  let k := c.sca (p.toNat + 1)
  let dense := k.getLsbD 31
  let count := bits k 0 17
  if bits k 17 14 != 0 || (if dense then n.any (· != count) else 1024 < count) then .eff (softFail 5 h)
  else
    let align := if dense then 4 else 8
    match ((a :: out.toList)).find? (fun x => x.toNat % align != 0) with
    | some x => .eff (.trap 0x04 0 x)
    | none =>
      let words := listWords dense count
      match out.bind (fun x => c.checkOwn x words true) with
      | some e => .eff e
      | none =>
        match c.readOwn a words with
        | .eff e => .eff e
        | .ok ws =>
          let ents := entsOf dense count ws
          if n.any (fun m => ents.any (fun e => m ≤ e.1)) then .eff (softFail 4 h) else .ok ⟨dense, ents⟩

/-- Translate the slots, or gradient slots, of a list's entries (R349): physical addresses with their attributes. -/
inductive SoftXlats where
  | ok (l : List (Nat × Attr))
  | eff (e : Eff)

def Cx.softXlat (c : Cx) (bad : Nat → Attr → Bool) (acc : Nat) (vas : List DWord) : SoftXlats :=
  match warpXlats c.pre c.preW bad (vas.map (fun v => (0, v))) with
  | .wait s => .eff (.stop (holdSlot s c.preW.uid c.n))
  | .stop _ va x s => .eff (.stop (xlatFail s c.preW x 0 acc va c.slot.pc))
  | .ok l => .ok (l.map (fun p => (p.2.2.1, p.2.2.2)))

/-- Home channel of a physical address. -/
def homeOf (pa : Nat) : Nat := channelOf (pa / 128)

/-- A soft operation with only its list. -/
def Cx.softOp (c : Cx) (kind : SoftKind) (h : BitVec 4) (d : SoftDesc) (l : SoftList) (a : Nat) : SoftOp :=
  { kind := kind, issuer := issuerOf c.pre c.preW, handle := h, desc := d, mask := c.slot.mask, list := l.ents, dense := l.dense, places := [],
    homes := [], inAddr := a, outAddr := 0, vals := [], u := 0, count := 0, epoch := 0, staged := 0, gw := [], gv := [],
    gvFlags := 0, gvBad := none }

/-- The state with a soft operation under way. -/
def Cx.sendSoft (c : Cx) (s : State) (dst : Nat) (o : SoftOp) : State :=
  let (id, s) := fresh s
  { s with ops := s.ops ++ [c.newOp id (.soft o) dst 0 [] false] }

/-- Lanes below W. -/
def laneLimit (d : SoftDesc) : Word := maskOf (List.range d.w)

/-! ### Issue of the list instructions -/

/-- An instruction over a bound handle's list. -/
def Cx.onList (c : Cx) (h : BitVec 4) (p : SReg) (out : Option Word) (ok : Handle → SoftDesc → Bool)
    (f : Handle → SoftDesc → SoftList → Eff) : Eff :=
  match (c.handle h).desc with
  | none => softFail 5 h
  | some d =>
    if !ok (c.handle h) d then softFail 5 h
    else match c.readList h (some d.n) p out with
      | .eff e => e
      | .ok l => f (c.handle h) d l

/-- Store address within the core's store that a scalar names. -/
def Cx.addrOf (c : Cx) (j : SReg) : Nat := bits (c.sca j.toNat) 0 20

/-- SLD (R120, R121). -/
def sldEff (o : SldOp) (c : Cx) : Eff :=
  c.onList o.h o.p none (fun _ _ => true) (fun _ d l =>
    match c.softXlat softReadBad 0 (l.ents.map (fun e => d.slotVa e.1 0)) with
    | .eff e => e
    | .ok ps =>
      let x := c.softOp .sld o.h d l (c.addrOf o.p)
      .go (c.sendSoft c.s o.dst.toNat { x with places := ps.map (fun p => (p.1, p.2.fal)) }) [])

def execSld (o : SldOp) (s : State) : Host.Outcome State Fault Refusal := issue (.sld o) (sldEff o) s

/-- The weight a soft store stages, with its flags (R122). -/
def clampWeight (w : Word) : Word × Word :=
  let v := fmtF32.decode w.toNat
  if v.isNan then (0, flSCL ||| flNV)
  else if v.isZero then (0, 0)
  else if v.neg then (0, flSCL)
  else if 0x3F800000 < w.toNat then (0x3F800000, flSCL)
  else (w, 0)

/-- SST (R122). -/
def sstEff (o : SstOp) (c : Cx) : Eff :=
  c.onList o.h o.p none (fun _ _ => true) (fun h d l =>
    match c.softXlat softBad 1 (l.ents.map (fun e => d.slotVa e.1 0)) with
    | .eff e => e
    | .ok ps =>
      let x := c.softOp .sst o.h d l (c.addrOf o.p)
      let x := { x with homes := ps.map (fun p => homeOf p.1), vals := (List.range d.w).map (c.vec o.src.toNat),
                        count := h.sq, epoch := h.ew }
      .raise (c.sendSoft (c.withHandle o.h { h with sq := h.sq + 1 }) 0 x)
        (l.ents.foldl (fun m e => m ||| (clampWeight e.2).2) 0))

def execSst (o : SstOp) (s : State) : Host.Outcome State Fault Refusal := issue (.sst o) (sstEff o) s

/-- SHRD (R134). -/
def shrdEff (o : ShrdOp) (c : Cx) : Eff :=
  c.onList o.h o.p none (fun _ _ => true) (fun _ d l =>
    let x := c.softOp (.shrd o.mode o.addr) o.h d l (c.addrOf o.p)
    let u : Word := match o.mode with
      | .smp j | .thr j => c.sca j.toNat
      | .max => 0
    .go (c.sendSoft c.s o.dst.toNat { x with u := u }) [])

def execShrd (o : ShrdOp) (s : State) : Host.Outcome State Fault Refusal := issue (.shrd o) (shrdEff o) s

/-- SLDA (R130). -/
def sldaEff (o : SldaOp) (c : Cx) : Eff :=
  c.onList o.h o.p (some (c.sca o.o.toNat)) (fun _ d => d.gbase != 0) (fun h d l =>
    match c.softXlat softReadBad 0 (l.ents.map (fun e => d.slotVa e.1 0)) with
    | .eff e => e
    | .ok ps =>
      match c.softXlat softBad 1 (l.ents.map (fun e => d.gradVa e.1 0)) with
      | .eff e => e
      | .ok gs =>
        let x := c.softOp .slda o.h d l (c.addrOf o.p)
        let x := { x with places := ps.map (fun p => (p.1, p.2.fal)), homes := gs.map (fun p => homeOf p.1),
                          outAddr := c.addrOf o.o, vals := (List.range d.w).map (c.vec o.g.toNat),
                          count := h.lq, epoch := h.ew }
        .go (c.sendSoft (c.withHandle o.h { h with lq := h.lq + 1 }) 0 x) [])

def execSlda (o : SldaOp) (s : State) : Host.Outcome State Fault Refusal := issue (.slda o) (sldaEff o) s

/-- SSTA (R131). -/
def sstaEff (o : SstaOp) (c : Cx) : Eff :=
  c.onList o.h o.p (some (c.sca o.o.toNat)) (fun h _ => h.sq != 0) (fun h d l =>
    match c.softXlat softReadBad 0 (l.ents.map (fun e => d.slotVa e.1 0)) with
    | .eff e => e
    | .ok ps =>
      let x := c.softOp .ssta o.h d l (c.addrOf o.p)
      let x := { x with homes := ps.map (fun p => homeOf p.1), outAddr := c.addrOf o.o, count := h.sq - 1,
                        epoch := h.ew, gv := List.replicate d.w 0 }
      .go (c.sendSoft (c.withHandle o.h { h with sq := h.sq - 1 }) o.dst.toNat x) [])

def execSsta (o : SstaOp) (s : State) : Host.Outcome State Fault Refusal := issue (.ssta o) (sstaEff o) s

/-- SCMT (R124). -/
def scmtEff (o : ScmtOp) (c : Cx) : Eff :=
  let h := c.handle o.h
  match h.desc with
  | none => softFail 5 o.h
  | some d =>
    let x := c.softOp (.scmt o.rev) o.h d ⟨false, []⟩ 0
    .go (c.sendSoft (c.withHandle o.h { h with ew := h.ew + 1 }) 0 { x with epoch := h.ew }) []

def execScmt (o : ScmtOp) (s : State) : Host.Outcome State Fault Refusal := issue (.scmt o) (scmtEff o) s

/-- SNRM (R135): it names no handle. -/
def snrmEff (o : SnrmOp) (c : Cx) : Eff :=
  match c.readList 0 none o.p (some (c.sca o.p.toNat)) with
  | .eff e => e
  | .ok l => .go (c.sendSoft c.s 0 (c.softOp (.snrm o.smax) 0 SoftDesc.none l (c.addrOf o.p))) []

def execSnrm (o : SnrmOp) (s : State) : Host.Outcome State Fault Refusal := issue (.snrm o) (snrmEff o) s

/-! ### Results that land (R120, R130, R134, R135) -/

/-- Write words to the own store of a warp, at byte offsets from an address. -/
def putOwn (s : State) (w : Warp) (addr : Nat) (ws : List (Nat × CWord)) : State :=
  ws.foldl (fun s x => storePut s (storeKey w.core (planeOf s w) (addr + x.1)) x.2) s

/-- The weights of a list, by their byte offset. -/
def weightWords (dense : Bool) (l : List CWord) : List (Nat × CWord) :=
  l.zipIdx.map (fun e => (if dense then 4 * e.2 else 8 * e.2 + 4, e.1))

/-- Write a list: its weights, and the indices for a sparse one. -/
def putList (s : State) (w : Warp) (addr : Nat) (dense : Bool) (l : List (Nat × CWord)) : State :=
  putOwn s w addr ((if dense then [] else l.zipIdx.map (fun e => (8 * e.2, good (BitVec.ofNat 32 e.1.1)))) ++
    weightWords dense (l.map (·.2)))

/-- One fused multiply-add, with flags. -/
def fmaW (a b c : Word) : Word × Word :=
  let r := fmaF32 a.toNat b.toNat c.toNat
  (BitVec.ofNat 32 r.1, r.2)

def addW (a b : Word) : Word := BitVec.ofNat 32 (addF32 a.toNat b.toNat).1
def subW (a b : Word) : Word := BitVec.ofNat 32 (fsubElem fmtF32 .rne a.toNat b.toNat).1

/-- Places of the first W words of each entry's slot. -/
def SoftOp.slotPlaces (o : SoftOp) : List Place :=
  (o.places.map (fun p => (List.range o.desc.w).map (fun j => (⟨p.1 + 4 * j, p.2⟩ : Place)))).flatten

/-- Word j of the slot of entry i, as its home returns it. -/
def SoftOp.slotWord (o : SoftOp) (s : State) (i j : Nat) : CWord :=
  let p := o.places.getD i (0, false)
  placeRead s ⟨p.1 + 4 * j, p.2⟩

/-- Lanes of an SLD that get a result. -/
def SoftOp.lanes (o : SoftOp) : List Nat := (ones o.mask).filter (· < o.desc.w)

/-- The first bad word that the lanes of an SLD consume: lane, entry and word. -/
def sldBad? (s : State) (o : SoftOp) : Option (Nat × Nat × CWord) :=
  ((o.lanes.map (fun j => (List.range o.list.length).map (fun i => (j, i, o.slotWord s i j)))).flatten).find?
    (fun p => !p.2.2.isGood)

/-- Result of lane j of an SLD. -/
def sldLane (s : State) (o : SoftOp) (j : Nat) : Word × Word :=
  o.list.zipIdx.foldl (fun r e =>
    let x := fmaW e.1.2 (o.slotWord s e.2 j).data r.1
    (x.1, r.2 ||| x.2)) (0, 0)

/-- Contain the gang for a bad slot word. -/
def softContain (s : State) (w : Warp) (op : Op) (o : SoftOp) (lane i j : Nat) (x : CWord) : State :=
  containFrom s w x lane op.pc (o.desc.slotVa (o.list.getD i (0, 0)).1 j) (some ((o.places.getD i (0, false)).1 + 4 * j))

def landSld (s : State) (w : Warp) (op : Op) (o : SoftOp) : State :=
  match sldBad? s o with
  | some (j, i, x) => softContain s w op o j i j x
  | none =>
    let rs := o.lanes.map (fun j => (j, sldLane s o j))
    let s := landRegs s w.uid (rs.map (fun r => (vKey op.dst r.1, r.2.1)))
    dropOp (lowerCtr (landFlags s w.uid .sf (rs.foldl (fun m r => m ||| r.2.2) 0)) w.uid .sf) op.id

/-- The gradient of entry i of an SLDA (R130). -/
def sldaEntry (s : State) (o : SoftOp) (i : Nat) : Word × Word :=
  (List.range o.desc.w).foldl (fun r j =>
    let x := fmaW (wordAt o.vals j) (o.slotWord s i j).data r.1
    (x.1, r.2 ||| x.2)) (0, 0)

def landSlda (s : State) (w : Warp) (op : Op) (o : SoftOp) : State :=
  let cells := ((List.range o.list.length).map (fun i => (List.range o.desc.w).map (fun j => (i, j, o.slotWord s i j)))).flatten
  match cells.find? (fun p => !p.2.2.isGood) with
  | some (i, j, x) => softContain s w op o ((ones o.mask).headD 0) i j x
  | none =>
    let rs := (List.range o.list.length).map (sldaEntry s o)
    let s := putList s w o.outAddr o.dense ((o.list.zip rs).map (fun p => (p.1.1, good p.2.1)))
    let s := lowerCtr (landFlags s w.uid .sf (rs.foldl (fun m r => m ||| r.2) 0)) w.uid .sf
    if o.list.length ≤ o.staged then dropOp s op.id else setOp s { op with accepted := true }

/-- A weight with NaN and negative ones taken as 0 (R134). -/
def weightPlus (w : Word) : Word :=
  let v := fmtF32.decode w.toNat
  if v.isNan || v.neg then 0 else w

/-- FP32 comparison; a NaN compares false. -/
def geW (a b : Word) : Bool := (fcmpElem fmtF32 .ge a.toNat b.toNat).1
def gtW (a b : Word) : Bool := (fcmpElem fmtF32 .gt a.toNat b.toNat).1

/-- Entries in ascending index, entries of one index in list order. -/
def byIndex (l : List (Nat × Word)) : List (Nat × Word) := l.foldr (fun e t => insertBy' e t) []
where
  insertBy' (e : Nat × Word) : List (Nat × Word) → List (Nat × Word)
    | [] => [e]
    | x :: rest => if e.1 ≤ x.1 then e :: x :: rest else x :: insertBy' e rest

/-- `.max` (R134). -/
def shrdMax (l : List (Nat × Word)) : Option Nat :=
  (((byIndex l).filter (fun e => !(fmtF32.decode e.2.toNat).isNan)).foldl (fun (m : Option (Nat × Word)) e =>
    match m with
    | none => some e
    | some b => if gtW e.2 b.2 then some e else m) none).map (·.1)

/-- The sample value, clamped (R134). -/
def clampSample (u : Word) : Word × Word :=
  let v := fmtF32.decode u.toNat
  if v.isNan then (0, flSCL)
  else if v.isZero then (u, 0)
  else if v.neg then (0, flSCL)
  else if 0x3F800000 < u.toNat then (0x3F800000, flSCL)
  else (u, 0)

/-- Running sums per index: index, sum after all its entries, and whether one of its weights is above 0. -/
def runningSums (l : List (Nat × Word)) : List (Nat × Word × Bool) :=
  let r := (byIndex l).foldl (fun (t : List (Nat × Word × Bool) × Word) e =>
    let w := weightPlus e.2
    let c := addW t.2 w
    let pos := gtW w 0
    match t.1 with
    | (k, _, p) :: rest => if k == e.1 then ((k, c, p || pos) :: rest, c) else ((e.1, c, pos) :: t.1, c)
    | [] => ([(e.1, c, pos)], c)) ([], 0)
  r.1.reverse

/-- `.smp` (R134). DESIGN CHOICE (log 108): its sums and its product raise no flag, as R134 names SCL alone. -/
def shrdSmp (l : List (Nat × Word)) (u : Word) : Option Nat :=
  let sums := runningSums l
  let total := (sums.getLast?).elim 0 (·.2.1)
  let goal : Word := BitVec.ofNat 32 (mul32 u.toNat total.toNat)
  if (fmtF32.decode total.toNat).isZero then none
  else (sums.find? (fun e => e.2.2 && geW e.2.1 goal)).map (·.1)

/-- `.thr` (R134). -/
def shrdThr (l : List (Nat × Word)) (u : Word) : Option Nat := ((byIndex l).find? (fun e => geW e.2 u)).map (·.1)

def landShrd (s : State) (w : Warp) (op : Op) (o : SoftOp) (m : ShrdMode) (addr : Bool) : State :=
  let r : Option Nat × Word := match m with
    | .max => (shrdMax o.list, 0)
    | .smp _ => let u := clampSample o.u; (shrdSmp o.list u.1, u.2)
    | .thr _ => (shrdThr o.list o.u, 0)
  let ws : List Word := match r.1, addr with
    | none, true => [0xFFFFFFFF, 0xFFFFFFFF]
    | none, false => [0xFFFFFFFF]
    | some k, true => [lowWord (o.desc.slotVa k 0), highWord (o.desc.slotVa k 0)]
    | some k, false => [BitVec.ofNat 32 k]
  let s := landRegs s w.uid (ws.zipIdx.map (fun p => (sKey (op.dst + p.2), p.1)))
  dropOp (lowerCtr (landFlags s w.uid .sf r.2) w.uid .sf) op.id

/-- The new weights of SNRM, with NV where they are all zero for want of a sum (R135). DESIGN CHOICE (log 108): its
additions, divisions and exponentials raise no flag, as R135 names NV alone. -/
def normalise (smax : Bool) (ws : List Word) : List Word × Word :=
  let v (x : Word) : Fp := fmtF32.decode x.toNat
  let m := (ws.foldl (fun (a : Option Word) x =>
    match a with
    | none => some x
    | some b => if gtW x b then some x else a) none).getD 0
  let es := if smax then ws.map (fun x => BitVec.ofNat 32 (fnuElem 0x6A fmtF32 (subW x m).toNat).1) else ws
  let sum := es.foldl addW 0
  let bad := ws.any (fun x => (v x).isNan) || (v sum).isNan || (v sum).isInf || (v sum).isZero
  if bad then (ws.map (fun _ => 0), flNV)
  else (es.map (fun e => BitVec.ofNat 32 (div32 e.toNat sum.toNat)), 0)

def landSnrm (s : State) (w : Warp) (op : Op) (o : SoftOp) (smax : Bool) : State :=
  let r : List Word × Word := if o.list.isEmpty then ([], 0) else normalise smax (o.list.map (·.2))
  let s := putOwn s w o.inAddr (weightWords o.dense (r.1.map good))
  dropOp (lowerCtr (landFlags s w.uid .sf r.2) w.uid .sf) op.id

/-- A soft operation's result lands, if its homes can serve it now (R45). -/
def landSoft (s : State) (op : Op) (o : SoftOp) : State :=
  match findWarp? s op.warp with
  | none => s
  | some w =>
    let ready (t : State) : State := withPlaces s (.engine op.id) false o.slotPlaces t
    match o.kind with
    | .sld => ready (landSld s w op o)
    | .slda => if op.accepted then s else ready (landSlda s w op o)
    | .shrd m a => landShrd s w op o m a
    | .snrm x => landSnrm s w op o x
    | .sst | .ssta | .scmt _ => s

/-! ### Staging (R122, R130, R131, R136) -/

/-- Requester of the homes' soft unit in its translations (R349). -/
def softWho : Nat := 600

/-- A place that a commit may use: mapped, memory-side, writable, in HBM (R116, R136). -/
def softPlace? (s : State) (part : Nat) (ctx : Bool) (va : DWord) : Option Place :=
  match xlatNow s softWho part ctx va with
  | .ok pa a _ => if softBad pa a then none else some ⟨pa, a.fal⟩
  | _ => none

/-- Words of tables that the soft unit's translation of an address reads over the fabric from this device itself (R353). -/
def softTables (s : State) (part : Nat) (ctx : Bool) (va : DWord) : List Place := tablePlaces s softWho part ctx va

/-- The region of a descriptor, taken up if need be at the epoch its header holds (R124), which the home's soft unit reads as an
endpoint (R128, R147); where the header cannot be read the spec says nothing. -/
def takeRegion (s : State) (part : Nat) (ctx : Bool) (d : SoftDesc) : State :=
  if (findRegion? s d.region).isSome then s
  else
    let p := softPlace? s part ctx (d.wbase + 12)
    let e : CWord := match p with
      | some p => placeNow s p.pa p.fal
      | none => good (Config.freeWord s.tick)
    let s := match p with
      | some p => if e.isCorrupt then addPoison s (p.pa / 128) (p.pa / 4 % 32) else s
      | none => s
    { s with regions := s.regions ++ [{ base := d.region, part := part, ctx := ctx, epoch := e.data, bad := !e.isGood,
                                        arrivals := [], overflows := [] }] }

/-- Take up the region of a descriptor and go on, once the tables that this needs can be read. -/
def withRegion (s : State) (id part : Nat) (ctx : Bool) (d : SoftDesc) (act : State → State) : State :=
  let tables := if (findRegion? s d.region).isSome then [] else softTables s part ctx (d.wbase + 12)
  if tables.any (Place.waits s (.engine id) false) then holdOwn s (.engine id) (.read 1) tables
  else ownDone s (.engine id) (.read 1) tables (act (takeRegion s part ctx d))

def setRegion (s : State) (r : Region) : State :=
  { s with regions := s.regions.map (fun x => if x.base == r.base then r else x) }

/-- Epoch that a tag counts towards (R124). -/
def effEpoch (r : Region) (tag : Word) : Word := if tag.toNat < r.epoch.toNat then r.epoch else tag

/-- Entry i of an operation as its home stages it. -/
def stagedEntry (op : Op) (o : SoftOp) (i : Nat) : Staged :=
  let e := o.list.getD i (0, 0)
  let clamp : Word × Word := if o.kind == .sst then clampWeight e.2 else (e.2, 0)
  { region := o.desc.region, home := o.homes.getD i 0, kind := o.kind, teamlin := o.issuer.teamlin, warpIndex := o.issuer.index,
    count := o.count, pos := i, slot := e.1, weight := clamp.1, clamped := clamp.2 != 0, vals := o.vals.map good,
    epoch := o.epoch, op := op.id, warp := op.warp }

/-- All entries of an operation are staged (R122, R131). -/
def allStaged (s : State) (op : Op) (o : SoftOp) : State :=
  match o.kind with
  | .sst => dropOp (lowerCtr s op.warp .sf) op.id
  | .ssta => lowerCtr (setOp s { op with kind := .soft o, accepted := true }) op.warp .sf
  | _ => if op.accepted then dropOp s op.id else setOp s { op with kind := .soft o }

/-- A home stages the next entry of an operation, or finds itself full (R136). -/
def stageEntry (op : Op) (o : SoftOp) (s : State) : State :=
  if o.list.length ≤ o.staged then allStaged s op o
  else
    let e := stagedEntry op o o.staged
    let o := { o with staged := o.staged + 1 }
    let s :=
      if 4096 ≤ (s.staged.filter (fun x => x.home == e.home)).length then
        (findRegion? s o.desc.region).elim s (fun r => setRegion s { r with overflows := effEpoch r o.epoch :: r.overflows })
      else { s with staged := s.staged ++ [e] }
    if o.list.length ≤ o.staged then allStaged s op o else setOp s { op with kind := .soft o }

def stageNext (s : State) (op : Op) (o : SoftOp) : State :=
  withRegion s op.id o.issuer.part o.issuer.ctx o.desc (stageEntry op o)

/-- Operations that stage entries. -/
def SoftKind.stages : SoftKind → Bool
  | .sst | .slda | .ssta => true
  | _ => false

/-- An operation still has entries to stage; an SST or SSTA without entries is staged by one such event too. -/
def stagingDue (op : Op) (o : SoftOp) : Bool :=
  o.kind.stages && (decide (o.staged < o.list.length) || (o.kind != .slda && !op.accepted))

def softStagedEvent (s : State) (id : Nat) : State :=
  match findOp? s id with
  | none => s
  | some op =>
    match op.kind with
    | .soft o => if stagingDue op o then stageNext s op o else s
    | _ => s

def execSoftEntryStaged (op : Nat) (s : State) : Host.Outcome State Fault Refusal := goesOn (softStagedEvent s op)

/-! ### Commits (R123 to R129, R132, R133) -/

/-- A commit at work: words written so far, newest first, flags by warp, SSTA operations with what they get. A step of it that
fails leaves the work done so far as its error: nothing of it is applied but the report of corrupt words met (R136, R147). -/
structure Work where
  s : State
  part : Nat
  ctx : Bool
  cur : List (Place × CWord)
  /-- which of them are words of slots or of gradients -/
  slots : List Nat
  flags : List (Nat × Word)
  /-- words written in poisoned form, and corrupt words met (R128, R147) -/
  poisoned : List Place
  corrupt : List Place
  /-- words of tables that its translations read over the fabric from this device itself (R353) -/
  tables : List Place

abbrev Works := Except Work Work

/-- Where a word stands; it fails where its page is lost (R136). -/
def Work.place (k : Work) (va : DWord) : Except Work (Work × Place) :=
  let k := match softTables k.s k.part k.ctx va with
    | [] => k
    | l => { k with tables := k.tables ++ l }
  match softPlace? k.s k.part k.ctx va with
  | none => .error k
  | some p => .ok (k, p)

/-- The present value of a word. -/
def Work.read (k : Work) (p : Place) : CWord :=
  ((k.cur.find? (fun x => x.1.pa == p.pa)).map (·.2)).getD (placeNow k.s p.pa p.fal)

def Work.write (k : Work) (p : Place) (w : CWord) : Work := { k with cur := (p, w) :: k.cur }

/-- A word of a slot or of a gradient gets a value. -/
def Work.writeSlot (k : Work) (p : Place) (w : CWord) : Work := { k.write p w with slots := p.pa :: k.slots }

def Work.credit (k : Work) (warp : Nat) (fl : Word) : Work := if fl == 0 then k else { k with flags := (warp, fl) :: k.flags }

/-- A corrupt word met by the home's soft unit. -/
def Work.meet (k : Work) (p : Place) (w : CWord) : Work := if w.isCorrupt then { k with corrupt := p :: k.corrupt } else k

/-- A new word, in poisoned form where an operand of it is bad (R128, R141). -/
def newWord (d : Word) (bad : Bool) : CWord := if bad then poison (good d) else good d

/-- A new word with a bad operand leaves an event of its home (R128). -/
def Work.note (k : Work) (p : Place) (bad : Bool) : Work := if bad then { k with poisoned := p :: k.poisoned } else k

/-- A new word of a slot or of a gradient. -/
def Work.put (k : Work) (p : Place) (d : Word) (bad : Bool) : Work := (k.writeSlot p (newWord d bad)).note p bad

/-- A new word of the wake buffer. -/
def Work.putWake (k : Work) (p : Place) (d : Word) (bad : Bool) : Work := (k.write p (newWord d bad)).note p bad

/-- Staged entries of a kind, in ascending rank key and position; equal keys in order of arrival (R125). -/
def rankLt (a b : Staged) : Bool :=
  lexLt [a.teamlin.toNat, a.warpIndex, a.count.toNat, a.pos] [b.teamlin.toNat, b.warpIndex, b.count.toNat, b.pos]

def insertRank (x : Staged) : List Staged → List Staged
  | [] => [x]
  | y :: rest => if rankLt y x then y :: insertRank x rest else x :: y :: rest

def rankSort (l : List Staged) : List Staged := l.foldr insertRank []

/-- Words of a wake record (R126). -/
def recordWords (d : SoftDesc) : Nat := 8 + 2 * d.p

/-- Address of word j of record x. -/
def recordVa (d : SoftDesc) (x j : Nat) : DWord := d.wbase + 64 + BitVec.ofNat 64 (4 * (recordWords d * x + j))

/-- Write a record; it fails where one of its positions has lost its page. -/
def writeRecord (k : Work) (d : SoftDesc) (x : Nat) (ws : List CWord) : Works :=
  ws.zipIdx.foldl (fun r p => r.bind (fun k => (k.place (recordVa d x p.2)).map (fun q => q.1.write q.2 p.1))) (.ok k)

/-- The wake-buffer header word i (R126). -/
def header (k : Work) (d : SoftDesc) (i : Nat) : Except Work (Work × Place) := k.place (d.wbase + BitVec.ofNat 64 (4 * i))

def zeros (n : Nat) : List CWord := List.replicate n (good 0)

/-- Apply one word of a store entry (R123, R128). -/
def storeWord (k : Work) (e : Staged) (p : Place) (v : CWord) : Work :=
  let old := k.read p
  let k := k.meet p old
  if e.weight == 0 then (if old.isGood then k.writeSlot p old else k.put p old.data true)
  else
    let d := subW v.data old.data
    let r := fmaW e.weight d old.data
    if old.isGood && v.isGood then (k.put p r.1 false).credit e.warp r.2 else k.put p r.1 true

/-- Apply a store entry and write its record at index x (R123, R127). -/
def applyStore (k : Work) (d : SoftDesc) (x : Nat) (e : Staged) : Works :=
  (k.place (d.slotVa e.slot 0)).bind (fun (k, p0) =>
    let at_ (j : Nat) : Place := { p0 with pa := p0.pa + 4 * j }
    let olds := (List.range d.w).map (fun j => k.read (at_ j))
    let k := (List.range d.w).foldl (fun k j => storeWord k e (at_ j) (e.vals.getD j (good 0))) k
    let head : List Word := [e.teamlin, BitVec.ofNat 32 (e.clamped.toNat * 2 ^ 29 + e.warpIndex % 2 ^ 11), e.count,
      BitVec.ofNat 32 (e.pos * 2 ^ 16 + e.slot), e.weight, 0, 0, 0]
    writeRecord k d x (head.map good ++ olds ++ zeros (d.p - d.w) ++ e.vals ++ zeros (d.p - d.w)))

/-- The fields of a frame record as words (R126, R127); PREV and the epoch are passed on in poisoned form where they are bad.
DESIGN CHOICE (log 109): a frame of more than 65,535 records has its count in all 32 bits of its word 3. -/
def frameWords (top epoch : CWord) (m : Nat) : List CWord :=
  [newWord top.data (!top.isGood), good 0x40000000, newWord epoch.data (!epoch.isGood), good (BitVec.ofNat 32 m)]

/-- Write a commit's frame record at index x; words passed on in poisoned form leave events (R128). -/
def writeFrame (k : Work) (d : SoftDesc) (x : Nat) (top epoch : CWord) (m : Nat) : Works :=
  (writeRecord k d x (frameWords top epoch m ++ zeros (recordWords d - 4))).bind (fun k =>
    (k.place (recordVa d x 0)).bind (fun (k, p) => (k.place (recordVa d x 2)).map (fun (k, q) =>
      (k.note p (!top.isGood)).note q (!epoch.isGood))))

/-- A forward commit (R125, R126); it fails with kind 2. DESIGN CHOICE (log 110): a header word with a bad check is used by its
data bits; words written from it are poisoned (R128, R141). -/
def forwardCommit (k : Work) (d : SoftDesc) (epoch : CWord) (es : List Staged) : Works :=
  (header k d 0).bind (fun (k, p0) => (header k d 1).bind (fun (k, p1) => (header k d 2).bind (fun (k, p2) =>
    let k := [p0, p1, p2].foldl (fun k p => k.meet p (k.read p)) k
    let wpos := k.read p0
    let top := k.read p1
    let x := wpos.data.toNat
    let m := es.length
    if (k.read p2).data.toNat < x + m + 1 then .error k
    else
      let k := writeFrame k d x top epoch m
      let k := es.zipIdx.foldl (fun r p => r.bind (fun k => applyStore k d (x + 1 + p.2) p.1)) k
      k.map (fun k => (k.putWake p1 wpos.data (!wpos.isGood)).putWake p0 (wpos.data + BitVec.ofNat 32 (m + 1)) (!wpos.isGood)))))

/-- Step 1 of an adjoint commit for one SLDA entry (R132). -/
def applySlda (k : Work) (d : SoftDesc) (e : Staged) : Works :=
  (List.range d.w).foldl (fun r j => r.bind (fun k => (k.place (d.gradVa e.slot j)).map (fun (k, p) =>
    let g := k.read p
    let k := k.meet p g
    let x := fmaW e.weight (e.vals.getD j (good 0)).data g.data
    if g.isGood then (k.put p x.1 false).credit e.warp x.2 else k.put p x.1 true))) (.ok k)

/-- An SSTA operation named by a record's key (R132). -/
def sstaFor? (s : State) (es : List Staged) (teamlin : Word) (warp : Nat) (sq : Word) : Option Nat :=
  (es.find? (fun e => e.teamlin == teamlin && e.warpIndex == warp && e.count == sq)).map (·.op) |>.filter (fun i => (findOp? s i).isSome)

/-- What the undoing of one record gives its SSTA. -/
structure Undone where
  k : Work
  gw : Word
  gwBad : Bool
  gpre : List (CWord × DWord)
  flags : Word

/-- Undo one word of a record of weight w (R132). A multiply-add with a bad operand sets no flag and gives a poisoned
result, for G, for gw and for the gradient that the warp forms from G (R128, R141, R155). -/
def undoWord (u : Undone) (d : SoftDesc) (slot j : Nat) (w old v : CWord) : Except Work Undone :=
  (u.k.place (d.gradVa slot j)).bind (fun (k, gp) => (k.place (d.slotVa slot j)).map (fun (k, sp) =>
    let g := k.read gp
    let k := k.meet gp g
    let a := fmaW (subW v.data old.data) g.data u.gw
    let b := fmaW (w.data ^^^ 0x80000000) g.data g.data
    let gwBad := u.gwBad || !(g.isGood && old.isGood && v.isGood)
    let gBad := !(g.isGood && w.isGood)
    let k := (k.put gp b.1 gBad).writeSlot sp old
    { k := k, gw := a.1, gwBad := gwBad, gpre := u.gpre ++ [(if gBad then poison g else g, d.gradVa slot j)],
      flags := u.flags ||| (if gwBad then 0 else a.2) ||| (if gBad then 0 else b.2) }))

/-- Undo a record's words. -/
def undoRecord (k : Work) (d : SoftDesc) (rec_ : List CWord) : Except Work Undone :=
  let word (i : Nat) : CWord := rec_.getD i (good 0)
  let slot := bits (word 3).data 0 16
  (List.range d.w).foldl (fun r j => r.bind (fun u =>
    undoWord u d slot j (word 4) (word (8 + j)) (word (8 + d.p + j))))
    (.ok { k := k, gw := 0, gwBad := false, gpre := [], flags := 0 })

/-- Give an SSTA what a record's undoing returns (R132). -/
def giveSsta (o : SoftOp) (pos : Nat) (w : Word) (clamped : Bool) (u : Undone) : SoftOp :=
  let gw : CWord := if clamped then good 0 else if u.gwBad then poison (good u.gw) else good u.gw
  let lanes := o.lanes
  let r := u.gpre.zipIdx.map (fun p => (fmaW w p.1.1.data (wordAt o.gv p.2), p.2))
  let bad := (u.gpre.zipIdx.find? (fun p => !p.1.1.isGood && lanes.contains p.2)).map (fun p => (p.2, p.1.1, p.1.2))
  { o with gw := tset o.gw pos gw, gv := r.map (·.1.1),
           gvFlags := r.foldl (fun m p => if lanes.contains p.2 then m ||| p.1.2 else m) o.gvFlags,
           gvBad := match o.gvBad with
             | some b => some b
             | none => bad }

/-- Read a record's words, a corrupt one being noted (R147); it fails where a position has lost its page. -/
def readRecord (k : Work) (d : SoftDesc) (x : Nat) : Except Work (Work × List CWord) :=
  (List.range (recordWords d)).foldl (fun r j => r.bind (fun l =>
    (l.1.place (recordVa d x j)).map (fun (k, p) => (k.meet p (k.read p), l.2 ++ [k.read p])))) (.ok (k, []))

/-- Undo record x, and credit the SSTA that names it. -/
def undoAt (k : Work) (d : SoftDesc) (es : List Staged) (x : Nat) : Works :=
  (readRecord k d x).bind (fun r =>
    (undoRecord r.1 d r.2).map (fun u =>
      let word (i : Nat) : Word := (r.2.getD i (good 0)).data
      match sstaFor? k.s es (word 0) (bits (word 1) 0 11) (word 2) with
      | none => u.k
      | some id =>
        match findOp? u.k.s id with
        | none => u.k
        | some op => match op.kind with
          | .soft o =>
            let o := giveSsta o (bits (word 3) 16 16) (word 4) ((word 1).getLsbD 29) u
            { u.k with s := setOp u.k.s { op with kind := .soft o } }.credit op.warp u.flags
          | _ => u.k))

/-- An adjoint commit (R132); it fails with kind 2. DESIGN CHOICE (log 110): header words, frame words and the key words of a
record with a bad check are used by their data bits; the WPOS and TOP written from them are poisoned (R128, R141). -/
def adjointCommit (k : Work) (d : SoftDesc) (slda ssta : List Staged) : Works :=
  (slda.foldl (fun (r : Works) e => r.bind (fun k => applySlda k d e)) (.ok k)).bind (fun k =>
    (header k d 0).bind (fun (k, p0) => (header k d 1).bind (fun (k, p1) =>
      let top := k.read p1
      let k := k.meet p1 top
      if top.data == 0xFFFFFFFF then .ok k
      else if d.gbase == 0 then .error k
      else (readRecord k d top.data.toNat).bind (fun (k, frame) =>
        let word (i : Nat) : CWord := frame.getD i (good 0)
        let m := (word 3).data.toNat
        ((List.range m).foldl (fun (r : Works) i => r.bind (fun k => undoAt k d ssta (top.data.toNat + m - i))) (.ok k)).map (fun k =>
          (k.putWake p0 top.data (!top.isGood)).putWake p1 (word 0).data (!(top.isGood && (word 0).isGood)))))))

/-- Flags of a warp in a commit. -/
def flagsFor (l : List (Nat × Word)) (warp : Nat) : Word := l.foldl (fun m p => if p.1 == warp then m ||| p.2 else m) 0

/-- SSTA operations of a region that a commit answers: those staged whole with a tag at or below its epoch. -/
def answeredOps (s : State) (region : Nat) (epoch : Word) : List Nat :=
  (s.ops.filter (fun op => match op.kind with
    | .soft o => o.kind == .ssta && op.accepted && o.desc.region == region && decide (o.epoch.toNat ≤ epoch.toNat)
    | _ => false)).map (·.id)

/-- Why a commit fails before anything is applied: overflow, mismatch (R133, R136). -/
def commitFails? (r : Region) (arr : List Arrival) (es : List Staged) : Option Nat :=
  match arr with
  | [] => none
  | a :: _ =>
    if r.overflows.contains r.epoch then some 1
    else if arr.any (fun b => b.rev != a.rev || b.desc != a.desc) then some 3
    else if es.any (fun e => (e.kind == .sst) == a.rev) then some 3
    else none

/-- The words of a commit but for those of slots and gradients, by ascending address, each with its last value. -/
def Work.wake (k : Work) : List (Place × CWord) :=
  let last := k.cur.foldl (fun (t : List (Place × CWord)) p => if t.any (fun q => q.1.pa == p.1.pa) then t else t ++ [p]) []
  sortBy (fun p => p.1.pa) (last.filter (fun p => !k.slots.contains p.1.pa))

/-- The values that words of slots and gradients take, in the order of application: of a word that several entries change,
each of them (R121, R125). -/
def Work.values (k : Work) : List (Place × CWord) := k.cur.reverse.filter (fun p => k.slots.contains p.1.pa)

/-- A commit begins to be entered (R138): its wake buffer is written, and what its homes note (R128, R147). -/
def Work.enter (k : Work) : State :=
  let s := placesWrite k.s k.wake
  let s := k.poisoned.foldl (fun s p => poisonEvent s (p.pa / 128) (p.pa / 4 % 32)) s
  k.corrupt.foldl (fun s p => addPoison s (p.pa / 128) (p.pa / 4 % 32)) s

/-- What a commit of a region does, and its failure kind (R124, R133, R136). EPOCH is written in poisoned form where the one
that the region was taken up with was bad (R141). -/
def commitWork (s : State) (r : Region) (arr : List Arrival) (a : Arrival) (es : List Staged) : Work × Option Nat :=
  let k0 : Work := { s := s, part := r.part, ctx := r.ctx, cur := [], slots := [], flags := [], poisoned := [], corrupt := [],
                     tables := [] }
  let d := a.desc
  let done : Work × Option Nat := match commitFails? r arr es with
    | some f => (k0, some f)
    | none =>
      match (if a.rev then adjointCommit k0 d (es.filter (fun e => e.kind == .slda)) (es.filter (fun e => e.kind == .ssta))
        else forwardCommit k0 d (newWord r.epoch r.bad) es) with
      | .ok k => (k, none)
      | .error k => ({ k0 with corrupt := k.corrupt, tables := k.tables }, some 2)
  (match header done.1 d 3 with
    | .ok (k, p) => k.putWake p (r.epoch + 1) r.bad
    | .error k => k, done.2)

/-- A failed commit's SSTA operations are discarded with their entries (R136). -/
def dropAnswered (s : State) (ids : List Nat) : State := { s with ops := s.ops.filter (fun o => !ids.contains o.id) }

/-- Begin the commit of a region with its arrivals; until its lines can be had their recalls are begun (R138). Its slots and
gradients are written value by value from then on. -/
def commitRegion (s : State) (r : Region) (arr : List Arrival) (a : Arrival) : State :=
  let due (e : Staged) : Bool := e.region == r.base && decide (e.epoch.toNat ≤ r.epoch.toNat)
  let w := commitWork s r arr a (rankSort (s.staged.filter due))
  let k := w.1
  let answered := answeredOps k.s r.base r.epoch
  withWalked s (.engine a.op) k.tables.eraseDups true (k.cur.map (·.1))
    (let t := k.enter
     let (id, t) := fresh t
     let todo := k.values.map (fun p => (p.1.pa, p.1.fal, p.2))
     let c : Commit := { id := id, arrivals := arr, failed := w.2, flags := k.flags,
                         results := if a.rev && w.2.isNone then answered else [], notices := newNotices s t,
                         region := r.base, stride := 4 * a.desc.p, todo := todo,
                         lines := (todo.map (fun x => x.1 / 128)).eraseDups }
     let r := { r with epoch := r.epoch + 1, arrivals := r.arrivals.filter (fun b => !arr.any (fun x => x.op == b.op)),
                       overflows := r.overflows.filter (fun e => e != r.epoch) }
     let t := if w.2.isSome then dropAnswered t answered else t
     let t := { t with staged := t.staged.filter (fun e => !due e), commits := t.commits ++ [c] }
     if r.arrivals.isEmpty && r.overflows.isEmpty && !t.staged.any (fun e => e.region == r.base) then
       { t with regions := t.regions.filter (fun x => x.base != r.base) }
     else setRegion t r)

/-- The next commit of a region begins if its arrivals are complete and the one before has been applied (R124). -/
def runCommit (s : State) (base : Nat) : State :=
  match findRegion? s base with
  | none => s
  | some r =>
    match r.arrivals.filter (fun a => decide (a.epoch.toNat ≤ r.epoch.toNat)) with
    | [] => s
    | a :: rest =>
      if (a :: rest).length < a.desc.parts || s.commits.any (fun c => c.region == base && !c.todo.isEmpty) then s
      else commitRegion s r ((a :: rest).take a.desc.parts) a

/-- Earlier operations of the warp on the handle are not all staged, or the gradient list of an earlier SLDA is not written:
SCMT waits (R124, R130). -/
def scmtWaits (s : State) (op : Op) (o : SoftOp) : Bool :=
  s.ops.any (fun q => q.warp == op.warp && decide (q.seq < op.seq) && match q.kind with
    | .soft x => x.kind.stages && x.handle == o.handle && (decide (x.staged < x.list.length) || !q.accepted)
    | _ => false)

/-- The SCMT counts as an arrival, and its region's commit begins if it can. -/
def arriveAt (op : Op) (o : SoftOp) (rev : Bool) (s : State) : State :=
  let a : Arrival := { op := op.id, warp := op.warp, epoch := o.epoch, rev := rev, desc := o.desc, handle := o.handle }
  match findRegion? s o.desc.region with
  | none => s
  | some r => runCommit (setRegion (setOp s { op with accepted := true }) { r with arrivals := r.arrivals ++ [a] }) r.base

/-- An SCMT arrives at the commit home; one that stands there begins its region's commit once that can be (R124), whether or not
its warp is still there (R137). -/
def commitArrivalEvent (s : State) (id : Nat) : State :=
  match s.regions.find? (fun r => r.arrivals.any (fun a => a.op == id)) with
  | some r => runCommit s r.base
  | none =>
    match findOp? s id with
    | none => s
    | some op =>
      match op.kind with
      | .soft o =>
        match o.kind with
        | .scmt rev =>
          if op.accepted || scmtWaits s op o then s
          else withRegion s op.id o.issuer.part o.issuer.ctx o.desc (arriveAt op o rev)
        | _ => s
      | _ => s

def execCommitArrival (op : Nat) (s : State) : Host.Outcome State Fault Refusal := goesOn (commitArrivalEvent s op)

/-! ### Completion (R124, R129, R132, R136) -/

/-- Write the results of an SSTA: its list, then its lanes (R132). -/
def landSsta (s : State) (id : Nat) : State :=
  match findOp? s id with
  | none => s
  | some op =>
    match op.kind, findWarp? s op.warp with
    | .soft o, some w =>
      let s := putList s w o.outAddr o.dense (o.list.zipIdx.map (fun p => (p.1.1, tget o.gw p.2 (good 0))))
      let s := dropOp s id
      match o.gvBad with
      | some (l, x, va) => containFrom s w x l op.pc va none
      | none =>
        let s := landRegs s w.uid (o.lanes.map (fun j => (vKey op.dst j, wordAt o.gv j)))
        landFlags s w.uid .sf o.gvFlags
    | _, _ => dropOp s id

/-- One participant's SCMT completes: its counter falls, the flags are ORed, failures and enabled flags are reported. -/
def completeArrival (s : State) (c : Commit) (a : Arrival) : State :=
  match findWarp? s a.warp with
  | none => s
  | some w =>
    let fl := flagsFor c.flags w.uid
    let report (kind : Nat) (w : Warp) : Warp :=
      { w with reports := w.reports ++ [⟨.sf, 0x0D, softTval kind a.handle, some a.handle⟩] }
    let s := lowerCtr (dropOp s a.op) w.uid .sf
    onWarp s w.uid (fun w =>
      let w := { w with flags := w.flags ||| fl }
      match c.failed with
      | some f => report f w
      | none => if fl &&& w.trapen != 0 then report 6 w else w)

/-- A warp's team is in its store. -/
def teamHere (s : State) (uid : Nat) : Bool :=
  match findWarp? s uid with
  | none => true
  | some w => (findTeam? s w.team).elim true (fun t => t.place == .resident)

/-- The next value to write of the slot that holds an address. -/
def Commit.next? (c : Commit) (pa : Nat) : Option (Nat × Bool × CWord) :=
  c.todo.find? (fun x => x.1 / c.stride == pa / c.stride)

/-- The home of a slot writes its next value: a load may find the commit half applied (R121). -/
def commitWord (s : State) (c : Commit) (x : Nat × Bool × CWord) : State :=
  let p : Place := ⟨x.1, x.2.1⟩
  withPlaces s (.engine c.id) false [p]
    (let t := placesWrite s [(p, x.2.2)]
     { t with commits := t.commits.map (fun y => if y.id == c.id then
         { c with todo := c.todo.erase x, notices := c.notices ++ newNotices s t } else y) })

/-- A participant's domain keeps no older value of the words of a commit (R110). -/
def dropCommitted (s : State) (c : Commit) : State :=
  c.arrivals.foldl (fun s a => match findWarp? s a.warp with
    | none => s
    | some w => c.lines.foldl (fun s l => dropLineCopies s (domainOf s w.core) l) s) s

/-- A commit writes the next value of the slot at `pa`; with every word written and every notice of them processed, it
completes for its participants (R110, R124). -/
def scmtCompletesEvent (s : State) (id pa : Nat) : State :=
  match s.commits.find? (fun c => c.id == id) with
  | none => s
  | some c =>
    if !c.todo.isEmpty then (c.next? pa).elim s (commitWord s c)
    else if !delivered s c.notices || !c.results.all (fun i => (findOp? s i).elim true (fun o => teamHere s o.warp)) then s
    else
      let s := dropCommitted { s with commits := s.commits.filter (fun x => x.id != id) } c
      let s := c.results.foldl landSsta s
      c.arrivals.foldl (fun s a => completeArrival s c a) s

def execScmtCompletes (c : CommitTurn) (s : State) : Host.Outcome State Fault Refusal :=
  goesOn (scmtCompletesEvent s c.commit c.pa)

end Sys2Proof.Machine
end

