-- ==== Sys2Proof/Machine/Landing.lean ====
section
/-! DEFINITION. The two events that finish what an instruction left behind: the landing of a variable-latency value (02
R45, 07 R142, 08 R178, 13 R281) and the end of a release wait (05 R96, R98, R99, R372). -/

namespace Sys2Proof.Machine

open Sys2Proof

/-! ### LOAD_VALUE_LANDS -/

/-- Flags of an atomic performed at another device, from the value it returned. -/
def remoteFlags (k : OpKind) (x : OpWord) (r : CWord) : Word :=
  match k with
  | .atom a => if r.isGood && x.j == 0 then
      (atomOp a (r.data.setWidth 64) (x.data.data.setWidth 64) (x.expect.data.setWidth 64)).2 else 0
  | _ => 0

/-- Words that come from outside HBM: host memory's get a generated GCK (R141), another device's are the event's; through a
fallow page every one is poisoned (R352). -/
def receive (s : State) (k : OpKind) : List OpWord → List CWord → List OpWord
  | [], _ => []
  | x :: rest, remote =>
    if x.got.isSome then x :: receive s k rest remote
    else match x.tgt, remote with
    | .host a, _ =>
      let v := good (s.host.word (a / 4)).data
      { x with got := some (if x.fal then poison v else v) } :: receive s k rest remote
    | .fabric pa, v :: more =>
      let r := if x.fal || s.lost.contains (pa / 2 ^ 41 % 1024) then poison v else v
      { x with got := some r, done := true, flags := remoteFlags k x r } :: receive s k rest more
    | _, _ => x :: receive s k rest remote

/-- Operations whose landing consumes their words; LDCK does not (R142, R256). -/
def OpKind.consumes : OpKind → Bool
  | .ldck => false
  | _ => true

/-- Register words that a landed word gives. -/
def landWords (o : Op) (x : OpWord) : List (Nat × Word) :=
  match x.got, o.kind with
  | none, _ => []
  | some v, .ldck => [(vKey o.dst x.lane, v.data), (vKey (o.dst + 1) x.lane, v.check.setWidth 32)]
  | some v, _ => [(vKey (o.dst + x.j) x.lane, v.data)]

/-- Physical address of a word in memory, as the translation gave it. -/
def OpWord.pa? (x : OpWord) : Option Nat :=
  match x.tgt with
  | .hbm pa | .fabric pa => some pa
  | _ => none

/-- The value of a load or an atomic lands: consumed lane by lane, written to the banks, its flags reported. -/
def landLoad (s : State) (w : Warp) (o : Op) : State :=
  let s := dropReplies s o.id
  match (if OpKind.consumes o.kind then o.words.find? (fun x => x.got.any (fun v => !v.isGood)) else none) with
  | some x => containFrom s w (x.got.getD (good 0)) x.lane o.pc x.addr (x.pa?.bind (realPa? s))
  | none =>
    let s := landRegs s w.uid ((o.words.map (landWords o)).flatten)
    let s := landFlags s w.uid .ld (o.words.foldl (fun m x => m ||| x.flags) 0)
    dropOp (lowerCtr s w.uid .ld) o.id

/-- As values from beyond HBM land, a load fills their lines as SI words, and an atomic drops the domain's copies (R68, R71).
`old` is the operation before they came. -/
def fillRemote (s : State) (w : Warp) (old new : Op) : State :=
  let dom := domainOf s w.core
  match old.kind with
  | .ld | .ldck =>
    (freshLines (old.words.filter (fun x => x.hbm?.isNone && !x.fal))).foldl (fun s line =>
      let named := new.words.filterMap (fun x => x.line?.bind (fun p =>
        if p.1 == line then x.got.map (fun v => (p.2, v)) else none))
      l1Install s dom line .si (named.foldl (fun t p => tset t p.1 p.2) (remoteLine s line))) s
  | .atom _ => dropRemote s old
  | _ => s

/-- A value lands, once every word of it is there and every home has answered. -/
def landEvent (s : State) (id : Nat) (remote : List CWord) : State :=
  match findOp? s id with
  | none => s
  | some o =>
    match findWarp? s o.warp with
    | none => s
    | some w =>
      match o.kind with
      | .soft x => landSoft s o x
      | k =>
        if o.held || !OpKind.isRead k then s
        else if !o.ownLeft.isEmpty then performOwn s o
        else
          let n := { o with words := receive s k o.words remote }
          if n.words.all (fun x => x.got.isSome) && homesAnswered s id then landLoad (fillRemote s w o n) w n else s

def execLoadValueLands (op : Nat) (remote : List CWord) (s : State) : Host.Outcome State Fault Refusal :=
  goesOn (landEvent s op remote)

/-! ### RELEASE_WAIT_ENDS -/

/-- A release waits for this earlier operation (R96). -/
def releaseWaitsFor (e : Op) : Bool :=
  match e.kind with
  | .ld | .lds | .ldck | .atom _ | .atoms _ | .st | .stck | .sts => true
  | .stnt | .red _ | .plough _ => !e.accepted
  | _ => false

/-- The release wait of an operation is over. -/
def releaseOver (s : State) (o : Op) : Bool :=
  !s.ops.any (fun e => e.warp == o.warp && decide (e.seq < o.seq) && releaseWaitsFor e)

/-- The tag of a record at an index: the lap in which the slot is to be taken, and the index (R323). -/
def recordTag (q : Queue) (idx : Nat) : Word :=
  BitVec.ofNat 32 ((if idx < q.head then q.lap + 1 else q.lap) % 1024 * 2 ^ 22 + idx)

/-- A launch record goes to its queue; the index lands in its register and the slot goes on (R302). -/
def appendRecord (s : State) (w : Warp) (o : Op) (ws : List Word) (queue : Nat) (dst : SReg) : State :=
  let part := partOf s w
  let p := getPartition s part
  let q := getQueue p queue
  let idx := q.tail.toNat % 2 ^ q.log
  let places : List (Place × CWord) :=
    (ws.set 31 (recordTag q idx)).zipIdx.map (fun x => (⟨q.recordAt idx + 4 * x.2, false⟩, good x.1))
  if 2 ^ q.log ≤ q.count + 1 then s
  else
    let t := placesWrite s places
    let p := getPartition t part
    let t := setPartition t part (setQueue p queue { q with tail := BitVec.ofNat 32 ((idx + 1) % 2 ^ q.log) })
    let t := landRegs t w.uid [(sKey dst.toNat, BitVec.ofNat 32 idx)]
    let go (x : Slot) : Slot := if x.block == .lnch o.id then { x with block := .none } else x
    withPlaces s (.engine o.id) true (places.map (·.1)) (dropOp (onWarp t w.uid (fun v => v.mapSlots go)) o.id)

/-- A copy's source reads may begin (R108). -/
def freeCopy (s : State) (id : Nat) : State :=
  { s with copies := s.copies.map (fun k => if k.id == id then { k with held := false } else k) }

/-- TFLAG sets the ready flag of its tile (R268). -/
def setTile (s : State) (w : Warp) (t : Word) : State :=
  match gridOf s w with
  | none => s
  | some g => if g.tiles.contains t.toNat then s else setGrid s { g with tiles := g.tiles ++ [t.toNat] }

/-- Walks of a partition that have not ended. -/
def openWalks (s : State) (part : Nat) : List Nat :=
  (s.walks.filter (fun k => k.part == part && k.result.isNone)).map (·.id)

/-- An invalidation begins to wait for the walks begun before it (R304, R355). -/
def beginInval (s : State) (id : Nat) : State :=
  { s with invals := s.invals.map (fun v => if v.id == id then { v with walks := openWalks s v.part } else v) }

/-- What a release delivers when its wait is over. -/
def deliver (s : State) (w : Warp) (o : Op) : State :=
  let rest := dropOp s o.id
  match o.kind with
  | .st | .stck | .stnt => performStore s w.core o
  | .atom k => performAtomics s w.core o (.atomic k)
  | .red k => performAtomics s w.core o (.reduce k)
  | .bar kind level n lanes =>
    (match findTeam? rest w.team with
     | none => rest
     | some t => arriveBar rest t level n (popcount lanes) (if kind == .drop then popcount lanes else 0))
  | .ring r c => arriveRing rest w.team w.core r c
  | .copy id => freeCopy rest id
  | .tflag t => setTile rest w t
  | .lnch ws q dst => appendRecord s w o ws q dst
  | .tlbi inv => beginInval rest inv
  | .fence _ acq scope => if acq then startAcquire rest w.uid scope none none else rest
  | _ => s

def releaseEvent (s : State) (id : Nat) : State :=
  match findOp? s id with
  | none => s
  | some o =>
    match findWarp? s o.warp with
    | none => s
    | some w => if o.held && isResident s w && releaseOver s o then deliver s w o else s

def execReleaseWaitEnds (op : Nat) (s : State) : Host.Outcome State Fault Refusal := goesOn (releaseEvent s op)

end Sys2Proof.Machine
end

