-- ==== Sys2Proof/Machine/Placement.lean ====
section
/-! DEFINITION. Placement (19 R328 to R332, R335, 07 R151, 03 R47 to R51, R59, R63): what a team needs, where it fits,
whose turn it is, and what starts with it; the sizes of the L1s. -/

namespace Sys2Proof.Machine

open Sys2Proof

/-! ### Store regions (R47, R48) -/

/-- Regions of resident teams in a plane of a core: start and size. -/
def regionsOn (s : State) (core : Nat) (plane : Bool) : List (Nat × Nat) :=
  ((s.teams.filter (fun t => t.place == .resident && t.cores.contains core && t.planeOn core == plane)).map (fun t =>
    (t.baseOn core, t.blockSize) ::
      (s.warps.filter (fun w => w.team == t.uid && w.core == core)).map (fun w => (w.regBase, 256 + 128 * w.regs)))).flatten

/-! ### The other resources (R328) -/

def residentOn (s : State) (core : Nat) : List Team :=
  s.teams.filter (fun t => t.place == .resident && t.cores.contains core)

def recOf (s : State) (t : Team) : LaunchRec := (findGrid? s t.grid).elim (recordOf []) (·.r)

/-- Free warp slots of a core, ascending. -/
def freeSlots (s : State) (core : Nat) : List Nat :=
  let ts := (residentOn s core).map (·.uid)
  let used := (s.warps.filter (fun w => w.core == core && ts.contains w.team)).map (·.ws)
  (List.range 64).filter (fun k => !used.contains k)

/-- First of some free consecutive accumulator tiles of a core. -/
def fitTiles (s : State) (core n : Nat) : Option Nat :=
  let used := (residentOn s core).map (fun t => (t.accBase.getD (coreIndex t core) 0, (recOf s t).acc))
  (List.range (33 - n)).find? (fun a => used.all (fun u => decide (a + n ≤ u.1) || decide (u.1 + u.2 ≤ a)))

def ringsFit (s : State) (core n : Nat) : Bool :=
  decide ((residentOn s core).foldl (fun k t => k + (recOf s t).nring) n ≤ 32)

/-- Teams resident on a quad. -/
def residentQuad (s : State) (quad : Nat) : List Team :=
  s.teams.filter (fun t => t.place == .resident && t.cores.any (fun c => quadOf c == quad))

def barsFit (s : State) (quad n : Nat) : Bool :=
  decide ((residentQuad s quad).foldl (fun k t => k + (recOf s t).nbar) n ≤ 64)

/-- A quad of the partition that is up and fused as the team wants it, or empty (R59, R361, R365). -/
def quadSuits (s : State) (part : Nat) (r : LaunchRec) (q : Nat) : Bool :=
  let x := getQuad s q
  (getPartition s part).quads.getLsbD q && x.powered && (x.fused == r.fusel1 || (residentQuad s q).isEmpty) &&
  barsFit s q r.nbar

/-- A plane of a core may take teams of a context: it holds no image, none is to come there, it holds no team of the other
context, and the other plane holds no team of this one (R321, R343). -/
def planeSuits (s : State) (part : Nat) (ctx : Bool) (core : Nat) (plane : Bool) : Bool :=
  s.teams.all (fun t => !t.cores.contains core || (match t.place with
    | .resident =>
      let g := findGrid? s t.grid
      (g.elim false (fun g => g.part == part && g.ctx == ctx)) == (t.planeOn core == plane) &&
      (t.planeOn core == plane || !t.reserve)
    | .saved false => t.planeOn core == plane
    | .saved true => true))

/-! ### Where a team fits (R329) -/

/-- Where a team goes: its cores, and for each of them plane, team block, register blocks, warp slots and first tile. -/
structure Spot where
  cores : List Nat
  planes : List Bool
  bases : List Nat
  blocks : List (List Nat)
  slots : List (List Nat)
  tiles : List Nat
  deriving DecidableEq, Repr

/-- All that a team needs on a core but its store regions. -/
def coreSuits (s : State) (part : Nat) (ctx : Bool) (r : LaunchRec) (core : Nat) (plane : Bool) : Bool :=
  planeSuits s part ctx core plane && ringsFit s core r.nring && quadSuits s part r (quadOf core) &&
  decide (LaunchRec.perCore r ≤ (freeSlots s core).length) && (fitTiles s core r.acc).isSome

/-- All that a team needs on a core in a plane: plane, team block and register blocks. -/
def planeSpot (s : State) (part : Nat) (ctx : Bool) (r : LaunchRec) (core : Nat) (plane : Bool) : Option (Bool × Nat × List Nat) :=
  if coreSuits s part ctx r core plane then
    (storeFit (regionsOn s core plane) r).map (fun x => (plane, x.1, x.2))
  else none

/-- The active plane of a core is tried before its shadow plane. -/
def coreSpot (s : State) (part : Nat) (ctx : Bool) (r : LaunchRec) (core : Nat) : Option (Bool × Nat × List Nat) :=
  let first := (getCore s core).active
  match planeSpot s part ctx r core first with
  | some x => some x
  | none => planeSpot s part ctx r core (!first)

/-- All that a team needs on some cores. -/
def spotOn (s : State) (part : Nat) (ctx : Bool) (r : LaunchRec) (cores : List Nat) : Option Spot :=
  let l := cores.filterMap (coreSpot s part ctx r)
  if l.length == cores.length then
    some { cores := cores, planes := l.map (·.1), bases := l.map (·.2.1), blocks := l.map (·.2.2),
           slots := cores.map (fun c => (freeSlots s c).take (LaunchRec.perCore r)),
           tiles := cores.map (fun c => (fitTiles s c r.acc).getD 0) }
  else none

/-- Sort by keys, the first of equals first. -/
def orderInsert {α : Type} (key : α → List Nat) (x : α) : List α → List α
  | [] => [x]
  | y :: rest => if lexLt (key y) (key x) then y :: orderInsert key x rest else x :: y :: rest
def orderBy {α : Type} (key : α → List Nat) (l : List α) : List α := l.foldr (orderInsert key) []

def coresOfQuad (q : Nat) : List Nat := [4 * q, 4 * q + 1, 4 * q + 2, 4 * q + 3]

/-- The place of a one-core team: the fitting core with the most free warp slots, then the lowest (R329). -/
def oneCoreSpot (s : State) (part : Nat) (ctx : Bool) (r : LaunchRec) (allowed : List Nat) : Option Spot :=
  let fit := allowed.filterMap (fun c => (spotOn s part ctx r [c]).map (fun p => (c, p)))
  (leastBy (fun x => [64 - (freeSlots s x.1).length, x.1]) fit).map (·.2)

/-- The place of a spread team on a die: its fitting quads of lowest number. -/
def dieSpot (s : State) (part : Nat) (ctx : Bool) (r : LaunchRec) (allowed : List Nat) (die : Nat) : Option Spot :=
  let fit := ((List.range 24).map (fun q => 24 * die + q)).filter (fun q =>
    (coresOfQuad q).all allowed.contains && (spotOn s part ctx r (coresOfQuad q)).isSome)
  if fit.length < r.c / 4 then none else spotOn s part ctx r (((fit.take (r.c / 4)).map coresOfQuad).flatten)

def dieFree (s : State) (allowed : List Nat) (die : Nat) : Nat :=
  (allowed.filter (fun c => dieOf c == die)).foldl (fun n c => n + (freeSlots s c).length) 0

def spreadSpot (s : State) (part : Nat) (ctx : Bool) (r : LaunchRec) (allowed : List Nat) : Option Spot :=
  (orderBy (fun d => [96 * 64 - dieFree s allowed d, d]) (List.range 4)).findSome? (dieSpot s part ctx r allowed)

def spotFor (s : State) (g : Grid) (allowed : List Nat) : Option Spot :=
  if g.r.spread then spreadSpot s g.part g.ctx g.r allowed else oneCoreSpot s g.part g.ctx g.r allowed

/-- Cores of a partition. -/
def partCores (p : Partition) : List Nat := (List.range 384).filter (fun c => p.quads.getLsbD (quadOf c))

/-- Cores that a team could use. -/
def couldUse (s : State) (g : Grid) : List Nat :=
  let p := getPartition s g.part
  if g.r.spread then (partCores p).filter (fun c => decide (g.r.c / 4 ≤ quadsOnDie p (dieOf c))) else partCores p

/-! ### Whose turn it is (R329, R331, R335) -/

/-- Tiles that a team of a launch needs: the first and how many (R331). -/
def neededTiles (r : LaunchRec) (lin : Nat) : Nat × Nat :=
  if r.map == 1 then (r.rb * (lin / r.ntx % r.nty), r.rb) else (lin, 1)

/-- A dependent team may be placed: its tiles are ready (R331). -/
def tilesReady (s : State) (g : Grid) (lin : Nat) : Bool :=
  !g.r.dep || (match producerOf s g.part g.r.prod with
    | .running p =>
      let n := neededTiles g.r lin
      (List.range n.2).all (fun k => p.tiles.contains (n.1 + k))
    | .done st => st == 4
    | .queued => false)

/-- First team of a grid from a number on whose tiles are ready. -/
def readyFrom (s : State) (g : Grid) (lin : Nat) : Nat → Option Nat
  | 0 => none
  | k + 1 => if tilesReady s g lin then some lin else readyFrom s g (lin + 1) k

/-- The next team of a grid: the lowest unplaced one that does not wait on tile flags. -/
def nextReady (s : State) (g : Grid) : Option Nat :=
  match g.skipped.find? (tilesReady s g) with
  | some l => some l
  | none => readyFrom s g g.nextTeam (LaunchRec.teams g.r - g.nextTeam)

/-! ### Whose turn it is while a grid rotates (R339) -/

/-- A warp has ended, or every slot of it waits in one barrier of a level above the gang. -/
def waitsIn (level : BarLevel) (n : BitVec 6) (w : Warp) : Bool :=
  w.allSlots.all (fun x => match x.block with
    | .bar l k _ => l == level && k == n
    | _ => false)

/-- A saved team with a warp that has not arrived. -/
def notArrived (s : State) (level : BarLevel) (n : BitVec 6) (t : Team) : Bool :=
  t.place != .resident && s.warps.any (fun w => w.team == t.uid && !waitsIn level n w)

/-- TEAMLINs of a grid's teams that are not resident and have not arrived, among the next ones of each kind. -/
def comingIn (s : State) (g : Grid) (level : BarLevel) (n : BitVec 6) : List Nat :=
  (nextReady s g).toList ++ (g.relaunches.map (·.teams)).flatten ++
  (s.teams.filter (fun t => t.grid == g.uid && notArrived s level n t)).map (·.lin)

/-- Every resident team of a grid waits in one barrier for teams that are not resident. -/
def rotates (s : State) (g : Grid) (level : BarLevel) (n : BitVec 6) : Bool :=
  let here := s.teams.filter (fun t => t.grid == g.uid && t.place == .resident)
  !here.isEmpty && here.all (fun t => (s.warps.filter (fun w => w.team == t.uid)).all (waitsIn level n)) &&
  !(comingIn s g level n).isEmpty

/-- A team of the grid is out for a barrier. -/
def outFor (s : State) (g : Grid) (level : BarLevel) (n : BitVec 6) : Bool :=
  s.teams.any (fun t => t.grid == g.uid && t.rotated && t.place != .resident &&
    s.warps.any (fun w => w.team == t.uid && w.allSlots.any (fun x => match x.block with
      | .bar l k _ => l == level && k == n
      | _ => false)))

/-- The barriers over which a grid may be rotated. -/
def rotationBars (g : Grid) : List (BarLevel × BitVec 6) :=
  let ns := (List.range g.r.nbar).map (BitVec.ofNat 6)
  ns.map (fun n => (BarLevel.grid, n)) ++ (if g.r.podgrp != 0 then ns.map (fun n => (BarLevel.pod, n)) else [])

/-- The barrier over which a grid is being rotated; rotation needs a save area. -/
def rotationBar? (s : State) (g : Grid) : Option (BarLevel × BitVec 6) :=
  if !g.r.gridbar || g.r.saveva == 0 || g.failed.isSome then none
  else (rotationBars g).find? (fun b => rotates s g b.1 b.2 || outFor s g b.1 b.2)

/-- While a grid rotates, teams that have not arrived come in by ascending TEAMLIN: a team is the next one. -/
def nextIn (s : State) (g : Grid) (lin : Nat) : Bool :=
  match rotationBar? s g with
  | none => true
  | some b => (comingIn s g b.1 b.2).all (fun l => decide (lin ≤ l))

/-- A team that waits for placement: a relaunch, or one never placed. -/
structure Cand where
  grid : Grid
  lin : Nat
  relaunch : Option Relaunch
  deriving DecidableEq, Repr

/-- Candidates of a partition in their order: by priority, relaunches first, by order of taking, within a launch by ascending
TEAMLIN; of a grid that rotates, only the next team. -/
def candidates (s : State) (part : Nat) : List Cand :=
  let gs := s.grids.filter (fun g => g.part == part && g.failed.isNone)
  ([3, 2, 1, 0].map (fun prio =>
    let l := gs.filter (fun g => g.r.prio == prio)
    ((l.map (fun g => orderBy (fun c => [c.lin])
        (g.relaunches.map (fun x => x.teams.map (fun t => Cand.mk g t (some x)))).flatten)).flatten ++
     l.filterMap (fun g => (nextReady s g).map (fun t => Cand.mk g t none))).filter (fun c => nextIn s c.grid c.lin))).flatten

/-- The next placement: a candidate that cannot be placed holds up those after it on the cores it could use. -/
def chooseFrom (s : State) : List Cand → List Nat → Option (Cand × Spot)
  | [], _ => none
  | c :: rest, allowed =>
    match spotFor s c.grid allowed with
    | some p => some (c, p)
    | none => chooseFrom s rest (allowed.filter (fun x => !(couldUse s c.grid).contains x))

def choosePlacement (s : State) (part : Nat) : Option (Cand × Spot) :=
  let p := getPartition s part
  if p.en then chooseFrom s (candidates s part) (partCores p) else none

/-! ### L1 size and fusing (R51, R59, R63) -/

/-- The L1 of a core is emptied (R51). -/
def emptyCoreL1 (s : State) (core : Nat) : State :=
  let dom := domainOf s core
  emptyL1 s dom (((getL1 s dom).lines.filter (fun l => sliceOf s dom l.line == core)).map (·.line))

/-- Give the L1 of a core another size. -/
def resizeL1 (s : State) (core units : Nat) : State :=
  let s := emptyCoreL1 s core
  setCore s core { getCore s core with l1Units := units }

/-- The L1 gives up units that regions of the active plane now take. -/
def shrinkL1 (s : State) (core : Nat) : State :=
  let u := freeUnits (regionsOn s core (getCore s core).active)
  if u < (getCore s core).l1Units then resizeL1 s core u else s

/-- Fuse or unfuse a quad on which no team is resident (R59). -/
def fuseQuad (s : State) (q : Nat) (fused : Bool) : State :=
  if (getQuad s q).fused == fused then s
  else
    let s := (coresOfQuad q).foldl emptyCoreL1 s
    setQuad s q { getQuad s q with fused := fused }

/-- The L1 of one of the 384 cores (R1) takes a size that its core's regions leave: it grows into freed units, or shrinks for
a team that waits (R51, R63). -/
def l1Resize (s : State) (core units : Nat) : State :=
  let x := getCore s core
  let top := freeUnits (regionsOn s core x.active)
  let waits := s.grids.any (fun g => g.failed.isNone && (!g.relaunches.isEmpty || (nextReady s g).isSome))
  if decide (core < 384) && decide (2 ≤ units) && decide (units ≤ top) &&
      (decide (x.l1Units < units) || (decide (units < x.l1Units) && waits)) then
    resizeL1 s core units
  else s

def execL1Resize (core units : Nat) (s : State) : Host.Outcome State Fault Refusal := goesOn (l1Resize s core units)

/-! ### Placing -/

/-- Zero words of a store from a key on, without errors. -/
def clearStore (s : State) (key n : Nat) : State :=
  { s with store := { data := s.store.data.filter (fun c => decide (c.1 < 4 * key) || decide (4 * (key + n) ≤ c.1)),
                      syn := s.store.syn.filter (fun c => decide (c.1 < key) || decide (key + n ≤ c.1)) },
           upsets := s.upsets.filter (fun c => decide (c.1 < key) || decide (key + n ≤ c.1)) }

/-- A ring of a team from its word (R23, R325). -/
def ringOf (w : Word) : Ring :=
  { fill := bits w 3 6 + 1, drain := bits w 9 6 + 1,
    chambers := List.replicate (bits w 0 3 + 1) { full := false, phase := false, count := 0 } }

/-- A gang reaches a quad: by the quads it was opened on, or by a member that stands there. -/
def gangOn (s : State) (x : Gang) (q : Nat) : Bool :=
  x.quads.contains q || s.teams.any (fun t => t.gang == x.uid && t.cores.any (fun c => quadOf c == q))

/-- The gang that a team joins: the open gang of its grid on one of its quads (R19, R330), the one opened first where there
are several. -/
def openGang? (s : State) (grid : Nat) (quads : List Nat) : Option Gang :=
  s.gangs.find? (fun g => g.open_ && g.grid == grid && quads.any (gangOn s g))

/-- The team joins a gang or opens one; its threads are registered on the gang's barriers (R262, R330). -/
def enterGang (s : State) (g : Grid) (quads : List Nat) (relaunches : Nat) : Nat × State :=
  match openGang? s g.uid quads with
  | some x =>
    (x.uid, setGang s { x with relaunches := Nat.max x.relaunches relaunches,
                               bars := x.bars.map (fun b => { b with registered := b.registered + LaunchRec.threads g.r }) })
  | none =>
    let (id, s) := fresh s
    (id, { s with gangs := s.gangs ++ [{ uid := id, grid := g.uid, quads := quads, open_ := true, relaunches := relaunches,
                                         bars := freshBars g.r.nbar (LaunchRec.threads g.r) }] })

/-- A warp at its entry point (R9). -/
def newWarp (s : State) (g : Grid) (team : Nat) (p : Spot) (uid i : Nat) : Warp :=
  let n := LaunchRec.perCore g.r
  let k := i / n
  let j := i % n
  { uid := uid, team := team, index := i, core := p.cores.getD k 0, ws := (p.slots.getD k []).getD j 0, regs := g.r.regs,
    regBase := (p.blocks.getD k []).getD j 0, stackBase := p.bases.getD k 0 + 128 * g.r.scratch + j * g.r.dstk * 16,
    dstk := g.r.dstk, role := BitVec.ofNat 2 (g.r.roles.toNat / 4 ^ j),
    slot0 := some { pc := 0, mask := 0xFFFFFFFF, join := none, sig := 0, shadow := 0xFFFFFFFF, block := .none,
                    readyAt := s.cycle, readySince := none, heldBack := false },
    slot1 := none, depth := 0, ctrs := ⟨0, 0, 0, 0, 0, 0⟩, flags := 0, lanectl := 0, trapen := 0, cnt := 0, passes := 0,
    cause := 0, tval := 0, clkhi := 0, latestCopy := 0, rowprog := 0, copyRows := 0, window := [], seq := 0, trap := none,
    reports := [], handles := List.replicate 16 { desc := none, sq := 0, ew := 0, lq := 0 }, bars := [], acquires := [],
    holds := [], ploughError := none, stop := .running, placed := s.cycle }

/-- Write the Sower's words of a team on a core: register blocks of zeros, a team block of zeros with the scratch image (R42,
R49, R50). -/
def fillCore (s : State) (g : Grid) (core : Nat) (plane : Bool) (base : Nat) (blocks : List Nat) : State :=
  let s := blocks.foldl (fun s a => clearStore s (storeKey core plane a) (LaunchRec.regBytes g.r / 4)) s
  let s := clearStore s (storeKey core plane base) (LaunchRec.blockBytes g.r / 4)
  (g.scratchInit.filter (fun w => decide (w.1 + 4 ≤ 128 * g.r.scratch) && w.1 % 4 == 0)).foldl (fun s w =>
    { s with store := s.store.setWord (storeKey core plane (base + w.1)) (good w.2) }) s

/-- Write the Sower's words of a team. DESIGN CHOICE (log 115): words of the kernel's scratch image that lie past `.scratch`,
or at an offset that is no multiple of 4, are dropped. -/
def fillTeam (s : State) (g : Grid) (p : Spot) : State :=
  p.cores.zipIdx.foldl (fun s x =>
    fillCore s g x.1 (p.planes.getD x.2 false) (p.bases.getD x.2 0) (p.blocks.getD x.2 [])) s

/-- Place a team: regions, gang, barriers, rings and warps; the start of each warp is an acquire at `.pkg` (R111). -/
def placeTeam (s : State) (g : Grid) (lin relaunches : Nat) (p : Spot) : State :=
  let quads := (p.cores.map quadOf).eraseDups
  let s := quads.foldl (fun s q => fuseQuad s q g.r.fusel1) s
  let s := fillTeam s g p
  let (gang, s) := enterGang s g quads relaunches
  let (id, s) := fresh s
  let t : Team :=
    { uid := id, grid := g.uid, lin := lin, gang := gang, cores := p.cores, planes := p.planes, spBases := p.bases,
      blockSize := LaunchRec.blockBytes g.r, place := .resident, halting := false, compacting := false, reserve := false, decision := .none, deadline := 0,
      accBase := p.tiles, rings := p.cores.map (fun _ => g.ringWords.map ringOf),
      bars := freshBars g.r.nbar (LaunchRec.threads g.r), progress := 0, since := s.cycle, images := [], rotated := false }
  let first := s.nextId
  let ws := (List.range g.r.w).map (fun i => newWarp s g id p (first + i) i)
  let s := { s with nextId := first + g.r.w, teams := s.teams ++ [t], warps := s.warps ++ ws }
  let s := p.cores.foldl shrinkL1 s
  ws.foldl (fun s w => startAcquire s w.uid .pkg none none) s

/-- The grid no longer has the team to place. -/
def tookTeam (s : State) (g : Grid) (lin : Nat) : Grid :=
  { g with waitingSince := s.cycle, requested := false,
           skipped := if g.skipped.contains lin then g.skipped.erase lin
             else g.skipped ++ (List.range (lin - g.nextTeam)).map (fun k => g.nextTeam + k),
           nextTeam := if g.skipped.contains lin then g.nextTeam else lin + 1 }

/-- The grid no longer has the team to launch again. -/
def tookRelaunch (g : Grid) (x : Relaunch) (lin : Nat) : Grid :=
  let l := g.relaunches.map (fun y => if y == x then { y with teams := y.teams.erase lin, begun := true } else y)
  { g with relaunches := l.filter (fun y => !y.teams.isEmpty), requested := false }

/-- A relaunch is made: with the first team of a gang, or the team of a pre-emption discard (R327, R360, R364). -/
def countRelaunch (s : State) (g : Grid) (x : Relaunch) (core : Nat) : State :=
  if x.begun then setGrid s g
  else
    let s := setGrid s { g with relaunchCount := g.relaunchCount + 1 }
    recordEvent { s with mgc := { s.mgc with relcnt := sat32 s.mgc.relcnt } } (dieOf core) 0x03 core g.launch

/-- The next placement of a partition, if it is one that `ok` wants. -/
def placeNext (s : State) (part : Nat) (ok : Option Relaunch → Bool) : State :=
  match choosePlacement s part with
  | none => s
  | some (c, p) =>
    if !ok c.relaunch then s
    else match c.relaunch with
      | none =>
        let g := tookTeam s c.grid c.lin
        placeTeam (setGrid s g) g c.lin 0 p
      | some x =>
        let g := tookRelaunch c.grid x c.lin
        placeTeam (countRelaunch s g x (p.cores.headD 0)) g c.lin x.relaunches p

/-- A team never placed, or one placed again after a pre-emption discard (R335). -/
def execTeamPlacement (part : Nat) (s : State) : Host.Outcome State Fault Refusal :=
  goesOn (placeNext s part (fun r => r.elim true (fun x => x.gang == 0)))

/-- A team of a contained gang (R151). -/
def execGangRelaunch (gang : Nat) (s : State) : Host.Outcome State Fault Refusal :=
  goesOn (match s.grids.find? (fun g => g.relaunches.any (fun x => x.gang == gang)) with
    | none => s
    | some g => placeNext s g.part (fun r => r.elim false (fun x => x.gang == gang && x.gang != 0)))

end Sys2Proof.Machine
end

