-- ==== Sys2Proof/Machine/Preempt.lean ====
section
/-! DEFINITION. How teams leave a core early and come back (19 R322, R335 to R339, R341, R342, 03 R63, R64): the
estimator, saves and restores, plane swaps, compaction and the rotation of grid barriers. -/

namespace Sys2Proof.Machine

open Sys2Proof

/-! ### The estimator (R336, R338) -/

/-- Image size of a team. -/
def imageSize (r : LaunchRec) : Nat :=
  roundUpTo 4096 (r.w * LaunchRec.regBytes r + LaunchRec.cores r * (LaunchRec.blockBytes r + 8192 * r.acc) + 512)

/-- A plane of a core holds neither a team nor an image (R321). -/
def planeFree (s : State) (core : Nat) (plane : Bool) : Bool :=
  s.teams.all (fun t => !t.cores.contains core || (match t.place with
    | .resident => t.planeOn core != plane && !t.reserve
    | .saved false => t.planeOn core == plane
    | .saved true => true))

/-- The other plane is free on every core of a team, or kept for its image. -/
def shadowFree (s : State) (t : Team) : Bool := t.reserve || t.cores.all (fun c => planeFree s c (!t.planeOn c))

/-- Some warp of the team waits on a grid barrier. -/
def teamOnGrid (s : State) (t : Team) : Bool :=
  s.warps.any (fun w => w.team == t.uid && w.allSlots.any (fun x => waitsOnGrid x.block))

def ceilDiv (a b : Nat) : Nat := (a + b - 1) / b

/-- Cycles until the team ends by itself; none for infinite. -/
def drainTime (s : State) (t : Team) : Option Nat :=
  if t.progress == 0 || teamOnGrid s t then none
  else some (ceilDiv ((s.cycle - t.since) * (256 - t.progress)) t.progress)

/-- Cycles of a save at the clock in force; none for infinite. -/
def saveTime (s : State) (t : Team) : Option Nat :=
  let r := recOf s t
  if shadowFree s t then some (nominal s 1600)
  else if r.saveva == 0 then none
  else some (nominal s (Nat.max 1600 (ceilDiv (imageSize r) 160)))

/-- What becomes of a team that a request names. -/
inductive Exit where
  | drain | save | discard
  deriving DecidableEq, Repr

/-- The feasible options in tie order, with their costs. -/
def exitOptions (s : State) (t : Team) (d : Nat) : List (Exit × Nat) :=
  (match drainTime s t with
    | some x => if x ≤ d then [(Exit.drain, 0)] else []
    | none => []) ++
  (match saveTime s t with
    | some x => if x ≤ d then [(Exit.save, 2 * x)] else []
    | none => []) ++
  (if (recOf s t).relaunch then [(Exit.discard, s.cycle - t.since)] else [])

/-- The estimator's choice for a deadline in cycles (R338). -/
def estimate (s : State) (t : Team) (d : Nat) : Exit :=
  match leastBy (fun x => [x.2]) (exitOptions s t d) with
  | some x => x.1
  | none => if (saveTime s t).isSome then .save else if (recOf s t).relaunch then .discard else .drain

/-- A save begins: the team halts, and a shadow plane that is free is kept for its image (R336, R343). -/
def beginSave (s : State) (t : Team) (d : Nat) (rotated : Bool) : State :=
  setTeam s { t with decision := .save, deadline := d, halting := true, reserve := shadowFree s t, rotated := rotated }

/-- Carry out a choice (R335). -/
def applyExit (s : State) (t : Team) (d : Nat) : Exit → State
  | .drain => setTeam s { t with decision := .drain, deadline := d }
  | .save => beginSave s t d t.rotated
  | .discard => discardTeam s t.uid

/-- A frozen core holds its teams until the driver answers (R359). -/
def teamFrozen (s : State) (t : Team) : Bool :=
  t.cores.any (fun c => let x := getCore s c; x.frozen.isSome && t.planeOn c == x.active)

/-- A request names a team with a deadline at the nominal clock; an earlier decision stands unless the new deadline is
smaller, and a save begun is not undone (R342). DESIGN CHOICE (log 117): it does nothing for a team that a freeze holds. -/
def nameTeam (s : State) (uid d : Nat) : State :=
  match findTeam? s uid with
  | none => s
  | some t =>
    if t.place != .resident || teamFrozen s t || t.decision == .save || (t.decision == .drain && decide (t.deadline ≤ d)) then s
    else applyExit s t d (estimate s t (nominal s d))

/-! ### Requests (R335, R337) -/

/-- Waiting time in microseconds and deadline of a deadline class. -/
def classTimes : Nat → Option (Nat × Nat)
  | 1 => some (100, 160000)
  | 2 => some (20, 32000)
  | 3 => some (2, 3200)
  | _ => none

/-- The state as it would be without some teams. -/
def withoutTeams (s : State) (uids : List Nat) : State :=
  { s with teams := s.teams.filter (fun t => !uids.contains t.uid), warps := s.warps.filter (fun w => !uids.contains w.team) }

/-- Of the teams in order, those whose resources together place a team of the grid. -/
def enoughTeams (s : State) (g : Grid) : List Nat → List Nat → List Nat
  | named, [] => named
  | named, u :: rest =>
    if (spotFor (withoutTeams s named) g (partCores (getPartition s g.part))).isSome then named
    else enoughTeams s g (named ++ [u]) rest

/-- Teams that a request of a grid may name, in their order. -/
def victims (s : State) (g : Grid) : List Nat :=
  let prio (t : Team) : Nat := (recOf s t).prio
  let ts := s.teams.filter (fun t => t.place == .resident && decide (prio t < g.r.prio) &&
    (findGrid? s t.grid).elim false (fun x => x.part == g.part))
  ((orderBy (fun t => [prio t, s.nextId - t.uid]) ts)).map (·.uid)

/-- Since when the next team of a grid waits: a relaunch, which goes first, or one never placed. -/
def waitsSince (s : State) (g : Grid) : Option Nat :=
  match g.relaunches.head? with
  | some x => some x.since
  | none => if (nextReady s g).isSome then some g.waitingSince else none

/-- The Sower's own request for a launch of a deadline class whose next team has waited too long (R337). -/
def deadlineRequest (s : State) (part : Nat) : State :=
  let late (g : Grid) : Bool := g.part == part && g.failed.isNone && !g.requested &&
    (match classTimes g.r.dclass, waitsSince s g with
     | some c, some n => decide (n + micros s c.1 < s.cycle)
     | _, _ => false)
  match s.grids.find? late with
  | none => s
  | some g =>
    let d := (classTimes g.r.dclass).elim 0 (·.2)
    (enoughTeams s g [] (victims s g)).foldl (fun s u => nameTeam s u d) (setGrid s { g with requested := true })

def execDeadlinePreemption (part : Nat) (s : State) : Host.Outcome State Fault Refusal := goesOn (deadlineRequest s part)

/-- A write to PRDEAD names resident teams of the launch in PRLAUNCH (R335, R344). -/
def prdeadWrite (s : State) (part : Nat) (d : Word) : State :=
  let p := getPartition s part
  let named := s.teams.filter (fun t => t.place == .resident &&
    (findGrid? s t.grid).elim false (fun g => g.part == part && g.launch == p.prlaunch) &&
    (p.prteam == 0xFFFFFFFF || t.lin == p.prteam.toNat))
  (named.map (·.uid)).foldl (fun s u => nameTeam s u d.toNat) s

/-! ### Halts (R322) -/

/-- Some warps hold nothing that a save or a swap waits for. -/
def quietSave (w : Warp) : Bool := w.ctrs.ld == 0 && w.ctrs.st == 0 && w.ctrs.mx == 0 && w.ctrs.sf == 0

/-- The windows of some warps go to the banks (R27). -/
def flushAll (s : State) (ws : List Warp) : State := ws.foldl flushWindow s

/-- Copies whose store side satisfies a test stop at their row (R322). -/
def stopCopies (s : State) (test : Copy → Bool) : State :=
  (s.copies.filter (fun k => k.state == .running && test k)).foldl (fun s k =>
    showProgress (setCopy s { k with state := .stopped }) k 2) s

/-- Copies that a halt stopped go on. -/
def resumeCopies (s : State) (test : Copy → Bool) : State :=
  (s.copies.filter (fun k => k.state == .stopped && test k)).foldl (fun s k =>
    showProgress (setCopy s { k with state := .running }) k 1) s

/-- A copy's store side lies in the block of a team of its warp's gang. -/
def copyInTeam (s : State) (t : Team) (k : Copy) : Bool :=
  t.cores.contains k.core && t.blockHolds k.core k.store &&
  ((findWarp? s k.warp).bind (fun w => findTeam? s w.team)).elim false (fun m => m.gang == t.gang)

/-- A copy's store side is on a plane of a core. -/
def copyOn (s : State) (core : Nat) (plane : Bool) (k : Copy) : Bool :=
  k.core == core && s.teams.any (fun t => t.planeOn core == plane && copyInTeam s t k)

/-- Copies whose store side satisfies a test stand at a row boundary, or are stopped (R322). -/
def copiesAtRow (s : State) (test : Copy → Bool) : Bool :=
  s.copies.all (fun k => k.state != .running || k.seg == 0 || !test k)

/-- A pause that was interrupted keeps its remainder (R233). -/
def Slot.later (x : Slot) (n : Nat) : Slot :=
  match x.block with
  | .sleep t => { x with block := .sleep (t + n) }
  | _ => x

/-- Warps of some teams on a core whose plane is swapped out keep what is left of their pauses: the time since the swap, or
since the team came there, does not count (R233, R322). -/
def pausedOut (s : State) (core : Nat) (teams : List Nat) : State :=
  let x := getCore s core
  let out (t : Team) : Nat := s.cycle - Nat.max x.swapped t.since
  { s with warps := s.warps.map (fun w =>
      match findTeam? s w.team with
      | none => w
      | some t =>
        if w.core == core && teams.contains t.uid && t.planeOn core != x.active then w.mapSlots (fun y => Slot.later y (out t))
        else w) }

/-! ### Saves and restores (R336, R339, R341) -/

/-- Words of a region of a core that differ from zero, by their key. -/
def keptWords (s : State) (key n : Nat) : Tab CWord :=
  (List.range n).filterMap (fun j =>
    let w := s.store.word (key + j)
    if w == good 0 then none else some (key + j, w))

/-- The regions of a team on a core: key and words. -/
def teamRegions (s : State) (t : Team) (core : Nat) : List (Nat × Nat) :=
  (storeKey core (t.planeOn core) (t.baseOn core), t.blockSize / 4) ::
    (s.warps.filter (fun w => w.team == t.uid && w.core == core)).map (fun w =>
      (storeKey core (t.planeOn core) w.regBase, 64 + 32 * w.regs))

/-- The image of a team on a core. -/
def imageOf (s : State) (t : Team) (core : Nat) : Image :=
  let rs := teamRegions s t core
  let base := (core * 32 + t.accBase.getD (coreIndex t core) 0) * 2048
  let n := 2048 * (recOf s t).acc
  { core := core, words := (rs.map (fun r => keptWords s r.1 r.2)).flatten,
    upsets := s.upsets.filter (fun u => rs.any (fun r => decide (r.1 ≤ u.1) && decide (u.1 < r.1 + r.2))),
    acc := (s.acc.filter (fun a => decide (base ≤ a.1) && decide (a.1 < base + n))).map (fun a => (a.1 - base, a.2)) }

/-- Places of a team's image in the save area, those of them that are mapped for writing (R336). -/
def savePlaces (s : State) (t : Team) : List Place :=
  match findGrid? s t.grid with
  | none => []
  | some g =>
    let b := imageSize g.r
    let base := g.r.saveva + BitVec.ofNat 64 (t.lin * b)
    (List.range (b / 4)).filterMap (fun j =>
      match (xlatNow s (sowerWho g.part) g.part g.ctx (base + BitVec.ofNat 64 (4 * j))).forWrite true with
      | .ok pa a _ => some ⟨pa, a.fal⟩
      | _ => none)

/-- Words of tables that the translation of a save area reads over the fabric from this device itself. -/
def saveTables (s : State) (t : Team) : List Place :=
  match findGrid? s t.grid with
  | none => []
  | some g =>
    let b := imageSize g.r
    let base := g.r.saveva + BitVec.ofNat 64 (t.lin * b)
    (((List.range (b / 4)).map (fun j =>
      tablePlaces s (sowerWho g.part) g.part g.ctx (base + BitVec.ofNat 64 (4 * j)))).flatten).eraseDups

/-- An image's words go to the save area; what each of them holds is not stated (log 69). -/
def writeImage (s : State) (ps : List Place) : State :=
  placesWrite s (ps.zipIdx.map (fun p => (p.1, good (Config.imageWord s.tick p.2))))

/-- A halted team is saved: into the shadow plane if that is free on every core, else into memory. -/
def saveTeam (s : State) (uid : Nat) : State :=
  match findTeam? s uid with
  | none => s
  | some t =>
    let ws := s.warps.filter (fun w => w.team == uid)
    let shadow := shadowFree s t
    if t.place != .resident || t.decision != .save || t.compacting || teamFrozen s t || !ws.all quietSave ||
      !copiesAtRow s (copyInTeam s t) || (!shadow && (recOf s t).saveva == 0) then s
    else
      let ps := if shadow then [] else savePlaces s t
      let u := stopCopies (flushAll (writeImage s ps) ws) (copyInTeam s t)
      let u := t.cores.foldl (fun u c => pausedOut u c [uid]) u
      let m := { t with images := t.cores.map (imageOf u t), place := .saved (!shadow), halting := false,
                        decision := .none, reserve := false, since := s.cycle }
      withWalked s (.engine t.uid) (if shadow then [] else saveTables s t) true ps
        { setTeam u m with gangs := u.gangs.map (fun g => if g.uid == t.gang then { g with open_ := false } else g) }

def execTeamSave (team : Nat) (s : State) : Host.Outcome State Fault Refusal := goesOn (saveTeam s team)

/-- A saved team's resources are free on its cores, at its addresses (R64, R336). -/
def restorable (s : State) (t : Team) : Bool :=
  let r := recOf s t
  let g := findGrid? s t.grid
  t.cores.all (fun c =>
    let rs := regionsOn s c (t.planeOn c)
    let mine := (t.baseOn c, t.blockSize) :: (s.warps.filter (fun w => w.team == t.uid && w.core == c)).map (fun w =>
      (w.regBase, 256 + 128 * w.regs))
    mine.all (fun m => clearAt rs m.1 m.2) && decide (2 ≤ freeUnits (mine ++ rs)) &&
    g.elim false (fun g => coreSuits s g.part g.ctx r c (t.planeOn c)))

/-- A slot that waits in a grid- or pod-level barrier. -/
def waitsAbove : Block → Bool
  | .bar .grid _ _ | .bar .pod _ _ => true
  | _ => false

/-- A team rotated out stays out until its phase has completed (R339). -/
def stillRotated (s : State) (t : Team) : Bool :=
  t.rotated && s.warps.any (fun w => w.team == t.uid && w.allSlots.any (fun x => waitsAbove x.block))

/-- Put an image back. -/
def putImage (s : State) (t : Team) (tile : Nat) (m : Image) : State :=
  let s := (teamRegions s t m.core).foldl (fun s r => clearStore s r.1 r.2) s
  let base := (m.core * 32 + tile) * 2048
  let acc := s.acc.filter (fun a => decide (a.1 < base) || decide (base + 2048 * (recOf s t).acc ≤ a.1))
  { s with store := m.words.foldl (fun d w => d.setWord w.1 w.2) s.store,
           upsets := m.upsets.foldl (fun d u => tset d u.1 u.2) s.upsets,
           acc := m.acc.foldl (fun d a => tput d (base + a.1) a.2 0) acc }

/-- New warp slots for a restored team's warps, core by core. -/
def seatWarps (s : State) (t : Team) (slots : List (List Nat)) (gap : Nat) : State :=
  { s with warps := s.warps.map (fun w =>
      if w.team != t.uid then w
      else
        let k := coreIndex t w.core
        let n := (s.warps.filter (fun x => x.team == t.uid && x.core == w.core && decide (x.index < w.index))).length
        { w.mapSlots (fun x => Slot.later x gap) with ws := (slots.getD k []).getD n 0 }) }

/-- It is a saved team's turn: one that has not arrived comes in by ascending TEAMLIN, and teams rotated out come back so (R339). -/
def turnOf (s : State) (t : Team) : Bool :=
  let earlier := s.teams.any (fun u => u.grid == t.grid && u.rotated && t.rotated && u.place != .resident &&
    decide (u.lin < t.lin) && !stillRotated s u && restorable s u)
  !stillRotated s t && !earlier && (findGrid? s t.grid).all (fun g =>
    (rotationBar? s g).all (fun b => !notArrived s b.1 b.2 t || nextIn s g t.lin))

/-- A saved team comes back, its quads fused as it wants them (R59); its return is an acquire at `.pkg` (R336). -/
def restoreTeam (s : State) (uid : Nat) : State :=
  match findTeam? s uid with
  | none => s
  | some t =>
    if t.place == .resident || !turnOf s t || !restorable s t then s
    else
      let r := recOf s t
      let s := ((t.cores.map quadOf).eraseDups).foldl (fun s q => fuseQuad s q r.fusel1) s
      let tiles := t.cores.map (fun c => (fitTiles s c r.acc).getD 0)
      let slots := t.cores.map (fun c => (freeSlots s c).take (LaunchRec.perCore r))
      let s := t.images.zipIdx.foldl (fun s m => putImage s t (tiles.getD m.2 0) m.1) s
      let s := seatWarps s t slots (s.cycle - t.since)
      let t := { t with place := .resident, images := [], accBase := tiles, since := s.cycle, rotated := false }
      let s := resumeCopies (t.cores.foldl shrinkL1 (setTeam s t)) (copyInTeam s t)
      (s.warps.filter (fun w => w.team == uid)).foldl (fun s w => startAcquire s w.uid .pkg none none) s

def execTeamRestore (team : Nat) (s : State) : Host.Outcome State Fault Refusal := goesOn (restoreTeam s team)

/-! ### Plane swaps (R322) -/

/-- Resident teams of a plane of a core. -/
def planeTeams (s : State) (core : Nat) (plane : Bool) : List Team :=
  (residentOn s core).filter (fun t => t.planeOn core == plane)

/-- Time slice of a partition in microseconds; 0 for never. -/
def sliceOfPart (p : Partition) : Nat :=
  let n := p.slice.toNat
  if n == 0 then 0 else Nat.max 10 (Nat.min 10000 n)

/-- The save of a team on a core, on either plane, or the compaction of one on the active plane comes before a swap (R332,
R342). -/
def coreStops (s : State) (core : Nat) : Bool :=
  (residentOn s core).any (fun t => t.halting || (t.compacting && t.planeOn core == (getCore s core).active))

/-- A swap begins: the slice is over, or the active plane holds no team, and nothing on the core comes first. -/
def swapDue (s : State) (core : Nat) : Bool :=
  let x := getCore s core
  let other := planeTeams s core (!x.active)
  let slice := sliceOfPart (getPartition s ((other.head?.bind (fun t => findGrid? s t.grid)).elim 0 (·.part)))
  !other.isEmpty && !coreStops s core && x.frozen.isNone &&
  ((planeTeams s core x.active).isEmpty || (slice != 0 && decide (x.swapped + micros s slice ≤ s.cycle)))

/-- The halt of a swap is over: nothing of the active plane's warps is out, its copies stand at a row boundary, and no save
comes first (R322, R342). -/
def swapReady (s : State) (core : Nat) : Bool :=
  let plane := (getCore s core).active
  let mine := (planeTeams s core plane).map (·.uid)
  (s.warps.filter (fun w => w.core == core && mine.contains w.team)).all quietSave && copiesAtRow s (copyOn s core plane) &&
  !coreStops s core

/-- The planes change roles. -/
def exchange (s : State) (core : Nat) : State :=
  let x := getCore s core
  let mine := (planeTeams s core x.active).map (·.uid)
  let s := flushAll s (s.warps.filter (fun w => w.core == core && mine.contains w.team))
  let s := stopCopies s (copyOn s core x.active)
  let s := pausedOut s core ((planeTeams s core (!x.active)).map (·.uid))
  let s := setCore s core { getCore s core with active := !x.active, swapping := false, swapped := s.cycle }
  resumeCopies (shrinkL1 s core) (copyOn s core (!x.active))

/-- A plane swap begins, or its halt is over and the planes change roles. -/
def planeSwap (s : State) (core : Nat) : State :=
  let x := getCore s core
  if !x.swapping then (if swapDue s core then setCore s core { x with swapping := true } else s)
  else if swapReady s core then exchange s core
  else s

def execPlaneSwap (core : Nat) (s : State) : Host.Outcome State Fault Refusal := goesOn (planeSwap s core)

/-! ### Compaction (R63, R64, R332) -/

/-- Register blocks of a launch's team have no place on a core, beside its team block and the 64 KiB of L1, though there is
room in total (R48, R63). -/
def needsCompaction (s : State) (g : Grid) (core : Nat) (plane : Bool) : Bool :=
  let rs := regionsOn s core plane
  let n := LaunchRec.perCore g.r
  coreSuits s g.part g.ctx g.r core plane &&
  (match fitHigh rs (LaunchRec.blockBytes g.r) with
   | none => false
   | some a =>
     let rs := (a, LaunchRec.blockBytes g.r) :: rs
     (storeFit (regionsOn s core plane) g.r).isNone &&
     decide (rs.foldl (fun k r => k + r.2) (n * LaunchRec.regBytes g.r) ≤ 2 ^ 20 - 65536))

/-- The predicted wait for natural release; none for infinite (R332). -/
def predictedWait (s : State) (g : Grid) (core : Nat) (plane : Bool) : Option Nat :=
  let ts := (planeTeams s core plane).filter (fun t =>
    (storeFit (regionsOn (withoutTeams s [t.uid]) core plane) g.r).isSome)
  leastBy (fun n => [n]) (ts.filterMap (drainTime s))

/-- New places of a team's register blocks on a core, by ascending old place; the old places where the new ones would leave
less than 64 KiB of L1 (R48). -/
def movedBlocks (s : State) (t : Team) (core : Nat) : List (Warp × Nat) :=
  let ws := orderBy (fun w => [w.regBase]) (s.warps.filter (fun w => w.team == t.uid && w.core == core))
  let rest := (t.baseOn core, t.blockSize) :: regionsOn (withoutTeams s [t.uid]) core (t.planeOn core)
  let n := LaunchRec.regBytes (recOf s t)
  let keeps (l : List Nat) : Bool := decide (2 ≤ freeUnits (l.map (fun a => (a, n)) ++ rest))
  ws.zip (((fitBlocks rest n ws.length).filter keeps).getD (ws.map (·.regBase)))

/-- The state with a team's register blocks on a core moved. -/
def moveBlocks (s : State) (t : Team) (core : Nat) : State :=
  let l := movedBlocks s t core
  let n (w : Warp) : Nat := 64 + 32 * w.regs
  let key (a : Nat) : Nat := storeKey core (t.planeOn core) a
  let saved := l.map (fun p => (p.1, p.2, keptWords s (key p.1.regBase) (n p.1)))
  let ups := l.map (fun p => (p.2, (s.upsets.filter (fun u =>
    decide (key p.1.regBase ≤ u.1) && decide (u.1 < key p.1.regBase + n p.1))).map (fun u => (u.1 - key p.1.regBase, u.2))))
  let s := l.foldl (fun s p => clearStore s (key p.1.regBase) (n p.1)) s
  let s := saved.foldl (fun s x =>
    let s := clearStore s (key x.2.1) (n x.1)
    { s with store := x.2.2.foldl (fun m w => m.setWord (w.1 - key x.1.regBase + key x.2.1) w.2) s.store }) s
  let s := { s with upsets := ups.foldl (fun t' x => x.2.foldl (fun m u => tset m (key x.1 + u.1) u.2) t') s.upsets }
  l.foldl (fun s p => onWarp s p.1.uid (fun w => { w with regBase := p.2 })) s

/-- Bytes that a team's compaction moves. -/
def movedBytes (s : State) (t : Team) : Nat :=
  t.cores.foldl (fun n c => n + ((movedBlocks s t c).filter (fun p => p.2 != p.1.regBase)).length *
    LaunchRec.regBytes (recOf s t)) 0

/-- A team that may be compacted: no halt of it is in progress (R332), and no core of it is frozen. -/
def mayCompact (s : State) (t : Team) : Bool :=
  !t.halting && !t.compacting && t.cores.all (fun c =>
    let x := getCore s c
    !(x.swapping && t.planeOn c == x.active)) && !teamFrozen s t

/-- The team to compact for a candidate: its move leaves room and moves the fewest bytes (R332). -/
def compactionTeam (s : State) (g : Grid) (core : Nat) (plane : Bool) : Option Team :=
  let helps (t : Team) : Bool :=
    let moved := (movedBlocks s t core).map (fun p => (p.2, LaunchRec.regBytes (recOf s t)))
    let rest := (t.baseOn core, t.blockSize) :: regionsOn (withoutTeams s [t.uid]) core plane
    (storeFit (moved ++ rest) g.r).isSome
  leastBy (fun t => [movedBytes s t, t.lin, t.grid]) ((planeTeams s core plane).filter (fun t => mayCompact s t && helps t))

/-- The team that the Sower has chosen and for which a core has no room: of the candidates in their order, the first without
a place that could use the core (R63, R329). -/
def wantingCore (s : State) (core : Nat) : List Cand → List Nat → Option Grid
  | [], _ => none
  | c :: rest, allowed =>
    if (spotFor s c.grid allowed).isSome then wantingCore s core rest allowed
    else if allowed.contains core && (couldUse s c.grid).contains core then some c.grid
    else wantingCore s core rest (allowed.filter (fun x => !(couldUse s c.grid).contains x))

/-- A team's warps hold nothing that a compaction waits for (R63). -/
def quietCompaction (w : Warp) : Bool := w.ctrs.ld == 0 && w.ctrs.mx == 0 && w.ctrs.sf == 0

/-- The blocks of a stopped team move on every core of it; the L1s give up the units that they now take, and the team runs on
(R47, R63). -/
def compactTeam (s : State) (t : Team) : State :=
  let ws := s.warps.filter (fun w => w.team == t.uid)
  if ws.all quietCompaction && !teamFrozen s t then
    let s := t.cores.foldl (fun s c => moveBlocks s t c) (flushAll s ws)
    t.cores.foldl shrinkL1 (setTeam s { t with compacting := false })
  else s

/-- A team is chosen for compaction on a core, unless room comes soon by itself (R63, R332). -/
def beginCompaction (s : State) (core : Nat) (g : Grid) : State :=
  let first := (getCore s core).active
  match [first, !first].find? (needsCompaction s g core) with
  | none => s
  | some plane =>
    if (predictedWait s g core plane).elim false (fun n => decide (n ≤ micros s 20)) then s
    else match compactionTeam s g core plane with
      | none => s
      | some t => setTeam s { t with compacting := true }

/-- The partition of a core. -/
def partOfCore? (s : State) (core : Nat) : Option Nat :=
  (List.range 16).find? (fun n => (getPartition s n).en && (getPartition s n).quads.getLsbD (quadOf core))

/-- A compaction begins on a core, or the team stopped for one is quiet and its blocks move. -/
def compaction (s : State) (core : Nat) : State :=
  match (residentOn s core).find? (·.compacting) with
  | some t => compactTeam s t
  | none =>
    match (partOfCore? s core).bind (fun n => wantingCore s core (candidates s n) (partCores (getPartition s n))) with
    | none => s
    | some g => beginCompaction s core g

def execRegisterCompaction (core : Nat) (s : State) : Host.Outcome State Fault Refusal := goesOn (compaction s core)

/-! ### Rotation (R339) -/

/-- The next team of a grid that has not arrived can be placed or restored now. -/
def roomNow (s : State) (g : Grid) (level : BarLevel) (n : BitVec 6) : Bool :=
  match leastBy (fun l => [l]) (comingIn s g level n) with
  | none => false
  | some lin =>
    match s.teams.find? (fun t => t.grid == g.uid && t.lin == lin && notArrived s level n t) with
    | some t => restorable s t
    | none => (spotFor s g (partCores (getPartition s g.part))).isSome

/-- Rotation: while the next team that has not arrived has no room, the resident team of highest TEAMLIN goes out. -/
def rotation (s : State) (grid : Nat) : State :=
  match findGrid? s grid with
  | none => s
  | some g =>
    if !g.r.gridbar || g.r.saveva == 0 || g.failed.isSome then s
    else match (rotationBars g).find? (fun b => rotates s g b.1 b.2) with
      | none => s
      | some b =>
        let here := s.teams.filter (fun t => t.grid == g.uid && t.place == .resident)
        if roomNow s g b.1 b.2 || here.any (fun t => t.halting || t.compacting) then s
        else match leastBy (fun t => [2 ^ 32 - t.lin]) here with
          | none => s
          | some t => beginSave s t t.deadline true

def execGridBarrierRotation (grid : Nat) (s : State) : Host.Outcome State Fault Refusal := goesOn (rotation s grid)

end Sys2Proof.Machine
end

