-- ==== Sys2Proof/Machine/Driver.lean ====
section
/-! DEFINITION. The driver's side of translation and faults (20 R344 to R355, R359): walks, the fault queue, the answers
to records, pre-emption requests and invalidations; and the import of fabric requests (20 R357), which an answer may
repeat. -/

namespace Sys2Proof.Machine

open Sys2Proof

/-- All 96 quads are up: partition and queue registers take writes (R365). -/
def deviceReady (s : State) : Bool := (List.range 96).all (fun q => (getQuad s q).powered)

/-! ### Walks (R351) -/

/-- A walk ends in a translation or a fault. -/
def pageWalk (s : State) (walk : Nat) : State :=
  match s.walks.find? (fun k => k.id == walk && k.result.isNone) with
  | none => s
  | some k => endWalk s k

def execPageWalk (walk : Nat) (s : State) : Host.Outcome State Fault Refusal := goesOn (pageWalk s walk)

/-! ### The fault queue (R345 to R347) -/

/-- log2 of the fault queue's records: LOGN held within 4 to 16 (R346). -/
def Partition.fqLog (p : Partition) : Nat := Nat.max 4 (Nat.min 16 p.fqlogn.toNat)

/-- The fault queue is full (R345). -/
def Partition.fqFull (p : Partition) : Bool := (p.fqtail + 1) % 2 ^ p.fqLog == p.fqhead.toNat % 2 ^ p.fqLog

/-- A token that no outstanding record holds (R347). -/
def freeToken (p : Partition) : Nat :=
  (((List.range (p.outstanding.length + 1)).map (fun k => (p.nextToken + k) % 2 ^ 24)).find? (fun t =>
    !p.outstanding.any (fun o => o.token == t))).getD p.nextToken

/-- The driver may answer the record: it waits in its source (R348). -/
def FaultRec.answered (r : FaultRec) : Bool := r.type != 0 && r.src != .info

/-- The words of a record as it is written. -/
def FaultRec.written (r : FaultRec) (token : Nat) : List Word :=
  r.words ++ [if r.type == 0 then 0 else BitVec.ofNat 32 (r.type * 2 ^ 24 + token)]

/-- Places of the record at an index; none beyond HBM, where FQBASE must not lead. -/
def recordPlaces (p : Partition) : List Place :=
  ((List.range 8).map (fun j => Place.mk (p.fqbase.toNat / 4096 * 4096 + 32 * p.fqtail + 4 * j) false)).filter (fun x =>
    decide (x.pa < hbmEnd))

/-- The oldest record held is written and FQTAIL advances (R345, R346). -/
def faultRecordWrite (s : State) (part : Nat) : State :=
  let p := getPartition s part
  match p.recs with
  | [] => s
  | r :: rest =>
    let places := recordPlaces p
    if !p.fqen || p.fqFull then s
    else withPlaces s (.engine 0) true places
      (let token := freeToken p
      let s := placesWrite s (places.zip ((r.written token).map good))
      let s := if p.fqie && p.fqtail == p.fqhead.toNat % 2 ^ p.fqLog then sendInterrupt s part else s
      let p := getPartition s part
      setPartition s part { p with
        recs := rest, fqtail := (p.fqtail + 1) % 2 ^ p.fqLog, nextToken := (token + 1) % 2 ^ 24,
        outstanding := if r.answered then p.outstanding ++ [{ token := token, rec_ := r, act := none }] else p.outstanding })

def execFaultRecordWrite (part : Nat) (s : State) : Host.Outcome State Fault Refusal := goesOn (faultRecordWrite s part)

/-- The driver has read records (R345). -/
def fqheadWrite (s : State) (part : Nat) (v : Word) : State :=
  if deviceReady s then setPartition s part { getPartition s part with fqhead := v } else s

def execFqhead (part : Nat) (v : Word) (s : State) : Host.Outcome State Fault Refusal := goesOn (fqheadWrite s part v)

/-! ### Fabric imports (R348, R357) -/

/-- Words that a request names. -/
def FabReq.count (r : FabReq) : Nat :=
  match r.kind with
  | .read n => n
  | .write ws => ws.length
  | .atomic _ _ b _ => b.length

def FabReq.writes (r : FabReq) : Bool := FabKind.writes r.kind

/-- Virtual addresses of a request's words. -/
def fabVas (s : State) (r : FabReq) : List DWord :=
  (List.range (FabReq.count r)).map (fun j =>
    (getPartition s (FabReq.part r)).fimpbase + BitVec.ofNat 64 (FabReq.offset r + 4 * j))

def fabReply (s : State) (r : FabReq) (ws : List CWord) (notices : List Nat) : State :=
  { s with fabReplies := s.fabReplies ++ [{ device := r.src, words := ws, notices := notices }] }

/-- The error outcome: a read returns poisoned words, a write is acknowledged and discarded (R348). -/
def fabError (s : State) (r : FabReq) : State :=
  fabReply s r (match r.kind with
    | .write _ | .atomic true _ _ _ => []
    | .read n => (List.range n).map (fun _ => poison (good (Config.freeWord s.tick)))
    | .atomic false _ b _ => b.map (fun _ => poison (good (Config.freeWord s.tick)))) []

/-- An atomic or reduction of another device, at this device's home (R144, R259). -/
def fabAtomic (s : State) (r : FabReq) (red : Bool) (k : AtomKind) (b d : List CWord) (ps : List Place) : State :=
  let a := atomicPlaces s ps red k b d
  fabReply a.1 r (if red then [] else a.2.1) (newNotices s a.1)

/-- Perform a translated request (R357). -/
def fabPerform (s : State) (r : FabReq) (ps : List Place) : State :=
  match r.kind with
  | .read _ => fabReply s r (ps.map (placeRead s)) []
  | .write ws =>
    let t := placesWrite s (ps.zip ws)
    fabReply t r [] (newNotices s t)
  | .atomic red k b d => fabAtomic s r red k b d ps

/-- A request's first word that an atomic may not reach (R259): the range bit of its record. -/
def fabProt (s : State) (r : FabReq) (ctx : Bool) : Option Bool :=
  match r.kind with
  | .atomic red _ _ _ =>
    ((fabVas s r).map (xlatNow s (portWho (FabReq.part r)) (FabReq.part r) ctx)).findSome? (fun x => match x with
      | .ok pa a rng => if atomicProt red ⟨pa, a.fal⟩ a then some rng else none
      | _ => none)
  | _ => none

/-- Words of tables that the translation of a request reads over the fabric from this device itself. -/
def fabTables (s : State) (r : FabReq) (ctx : Bool) : List Place :=
  (((fabVas s r).map (tablePlaces s (portWho (FabReq.part r)) (FabReq.part r) ctx)).flatten).eraseDups

/-- A request reaches its turn at the target: performed once its words' recalls are made, held with a record, or answered
with the error outcome (R348, R357). -/
def fabServe (s : State) (r : FabReq) : State :=
  let part := FabReq.part r
  match importCtx? (getPartition s part) with
  | none => fabError s r
  | some ctx =>
    let tables := fabTables s r ctx
    let done : State → State := ownDone s (.fabric r.src) (.read 1) tables
    match placesOf s (portWho part) part ctx (FabReq.writes r) (fabVas s r) with
    | .wait => holdOwn s (.fabric r.src) (.read 1) tables
    | .fail _ (.prot rng) => done (fabError (fabProtRecord s r ctx rng) r)
    | .fail va x => done (fabHold s (.fabric r.src) r ctx x va)
    | .ok l =>
      match fabProt s r ctx with
      | some rng => done (fabError (fabProtRecord s r ctx rng) r)
      | none =>
        withWalked s (.fabric r.src) tables (FabReq.writes r) (l.map (·.2)) (fabPerform s r (l.map (·.2)))

/-- A line of the request is busy, so that it waits. -/
def fabBusy (s : State) (r : FabReq) : Bool :=
  let part := FabReq.part r
  match importCtx? (getPartition s part) with
  | none => false
  | some ctx =>
    match placesOf s (portWho part) part ctx (FabReq.writes r) (fabVas s r) with
    | .wait => true
    | .fail _ _ => false
    | .ok l => (fabProt s r ctx).isNone && (placesBusy s (.fabric r.src) false (fabTables s r ctx) ||
        placesBusy s (.fabric r.src) (FabReq.writes r) (l.map (·.2)))

/-- A request can be one of the fabric's: from another of a pod's 1,024 devices, at one of the 16 ports (R1), words on word
boundaries within a line. -/
def FabReq.wellFormed (r : FabReq) : Bool :=
  decide (r.port < 16) && decide (r.src < 1024) && r.src != Config.device.toNat &&
  r.addr.toNat % 4 == 0 && decide (1 ≤ FabReq.count r) && decide (r.addr.toNat % 128 + 4 * FabReq.count r ≤ 128) &&
  (match r.kind with
   | .atomic _ _ b d => decide (b.length ≤ 2) && d.length == b.length && (b.length == 1 || r.addr.toNat % 8 == 0)
   | _ => true)

/-- FABRIC_REQUEST: a lost device gets the error outcome (R370), a frozen one waits (R359). -/
def fabricRequest (s : State) (r : FabReq) : State :=
  if !FabReq.wellFormed r || s.fabFrozen.any (fun f => f.1 == r.src) then s
  else if s.lost.contains r.src then fabError s r
  else fabServe s r

def execFabricRequest (r : FabReq) (s : State) : Host.Outcome State Fault Refusal := goesOn (fabricRequest s r)

/-! ### Answers to records (R348) -/

/-- What an answer does: it is not accepted, it acts, or it is accepted and acts later. -/
inductive Answer where
  | refused
  | acts (s : State)
  | later (s : State)

/-- The record that a RESUME write names, if it is outstanding and not answered. -/
def outstanding? (s : State) (part : Nat) (v : Word) : Option FaultRec :=
  ((getPartition s part).outstanding.find? (fun o => o.token == bits v 0 24 && o.act.isNone)).map (·.rec_)

/-- A record has been answered. -/
def dropRecord (s : State) (part : Nat) (id : Nat) : State :=
  let p := getPartition s part
  setPartition s part { p with outstanding := p.outstanding.filter (fun o => o.rec_.id != id) }

/-- The warp is stopped with this record. -/
def stoppedBy (w : Warp) (rec_ : Nat) : Bool := w.stop == .suspended rec_ || w.stop == .halted rec_

def runWarp (s : State) (uid : Nat) : State := onWarp s uid (fun w => { w with stop := .running })

/-- After a double trap the handler starts again from TVEC with the first trap's state (R348). -/
def restartHandler (s : State) (w : Warp) : State :=
  match w.trap with
  | none => s
  | some t =>
    let inner := { w with slot0 := t.slot0, slot1 := t.slot1 }
    match inner.slot? t.trapped with
    | none => s
    | some x =>
      let h := some (handlerSlot s x.sig)
      let w := { w with stop := .running, cause := t.cause, tval := t.tval, depth := t.depth, window := [],
                        slot0 := if t.trapped then none else h, slot1 := if t.trapped then h else none }
      writeRegs (setWarp s w) w (trapScalars inner t.trapped x)

/-- A request held with a record is held no more. -/
def dropHeld (s : State) (id : Nat) : State := { s with fabHeld := s.fabHeld.filter (fun h => h.rec_ != id) }

/-- The request of this device to itself that a record holds gets the error outcome when it is tried again. -/
def failHeld (s : State) (id : Nat) : State :=
  { s with fabHeld := s.fabHeld.map (fun h => if h.rec_ == id then { h with err := true } else h) }

/-- A suspended copy, collective or warp that a record names. -/
def isSuspended (st : CopyState) (rec_ : Nat) : Bool := st == .suspended rec_

/-- Retry by source. -/
def retryRec (s : State) (r : FaultRec) : Answer :=
  match r.src with
  | .warp uid _ =>
    (match findWarp? s uid with
     | none => .acts s
     | some w =>
       if !stoppedBy w r.id then .acts s
       else if r.type == 5 then (if isResident s w then .acts (restartHandler s w) else .later s)
       else .acts (runWarp s uid))
  | .copy id => if r.type == 4 then .refused else
    .acts (match findCopy? s id with
     | none => s
     | some k => if isSuspended k.state r.id then showProgress (setCopy s { k with state := .running }) k 1 else s)
  | .coll id => if r.type == 4 then .refused else
    .acts (match findColl? s id with
     | none => s
     | some k => if isSuspended k.state r.id then setColl s { k with state := .running } else s)
  | .fabric src => if r.type == 4 then .refused else
    (match s.fabHeld.find? (fun h => h.rec_ == r.id) with
     | none => .acts s
     | some h =>
       if src == Config.device.toNat then .acts (dropHeld s r.id)
       else if fabBusy s h.req then .later (fabServe s h.req)
       else .acts (fabServe (dropHeld s r.id) h.req))
  | .part _ | .core _ | .szl | .info => .refused

/-- Parcels of the instruction at a program counter, as far as its first parcel can be read; for `RETT.skip`. -/
def codeSize (s : State) (w : Warp) (pc : Word) : Nat :=
  match xlatNow s w.core (partOf s w) (ctxOf s w) (codeBase s w + 4 * pc.setWidth 64) with
  | .ok pa _ _ => formParcels (fetchWord s pa)
  | _ => 2

/-- The suspended warp enters the device trap handler with cause 0x06 (R348, R350). -/
def errorWarp (s : State) (w : Warp) (n : Bool) (r : FaultRec) : State :=
  let pc := (w.slot? n).elim 0 (·.pc)
  enterTrap (runWarp s w.uid) w.uid n (codeSize s w pc) 0x06 0 (r.words.getD 2 0)

/-- An instance fails on this device when its notification can be made (COLLECTIVE_COMPLETES). -/
def failColl (s : State) (k : Coll) : State := setColl s { k with failed := true, state := .running }

/-- Error by source. -/
def errorRec (s : State) (r : FaultRec) : Answer :=
  match r.src with
  | .warp uid n => if r.type == 3 || r.type == 5 then .refused else
    (match findWarp? s uid with
     | none => .acts s
     | some w =>
       if !stoppedBy w r.id then .acts s
       else if isResident s w && !mxInFlight s uid then .acts (errorWarp s w n r) else .later s)
  | .copy id => if r.type == 4 then .refused else
    .acts (match findCopy? s id with
     | none => s
     | some k => if isSuspended k.state r.id then copyError s k else s)
  | .coll id => if r.type == 4 then .refused else
    .acts (match findColl? s id with
     | none => s
     | some k => if isSuspended k.state r.id then failColl s k else s)
  | .fabric src => if r.type == 4 then .refused else
    .acts (match s.fabHeld.find? (fun h => h.rec_ == r.id) with
     | none => s
     | some h => if src == Config.device.toNat then failHeld s r.id else fabError (dropHeld s r.id) h.req)
  | .part _ | .core _ | .szl | .info => .refused

/-- The gang of a warp is discarded without relaunch. -/
def discardWarp (s : State) (uid : Nat) : State := (findWarp? s uid).elim s (fun w => discardGang s w.team)

/-- A discard answer releases a frozen core: every gang with a member on it is discarded (R359). -/
def releaseCore (s : State) (core : Nat) : State :=
  let gangs := ((s.teams.filter (fun t => t.place != .saved true && t.cores.contains core)).map (·.gang)).eraseDups
  let s := gangs.foldl (fun s g => endGang s g 3 false) s
  setCore s core { getCore s core with frozen := none }

/-- Discard by source (R348, R359). -/
def discardRec (s : State) (r : FaultRec) : Answer :=
  match r.src with
  | .warp uid _ => .acts (discardWarp s uid)
  | .copy id => .acts (match findCopy? s id with
     | none => s
     | some k => if r.type == 4 then copyError s k else discardWarp s k.warp)
  | .coll id => .acts (match findColl? s id with
     | none => s
     | some k => if r.type == 4 then failColl s k else discardWarp s k.warp)
  | .fabric _ =>
    if r.type == 4 then .acts (failHeld { s with fabFrozen := s.fabFrozen.filter (fun f => f.2 != r.id) } r.id) else errorRec s r
  | .part id => .acts ((findPart? s id).elim s (fun p => partOver s p (some (p.err.getD p.va))))
  | .core c => .acts (releaseCore s c)
  | .szl => .acts { s with szl := .open_ }
  | .info => .refused

/-- The answer of an ACT (R348). -/
def answerRec (act : Nat) (s : State) (r : FaultRec) : Answer :=
  match act with
  | 0 => retryRec s r
  | 1 => errorRec s r
  | 2 => discardRec s r
  | _ => .refused

/-- An accepted answer waits until it can act. -/
def keepAnswer (s : State) (part id act : Nat) : State :=
  let p := getPartition s part
  setPartition s part { p with outstanding := p.outstanding.map (fun o => if o.rec_.id == id then { o with act := some act } else o) }

/-- An answer to a record acts, or is kept. -/
def giveAnswer (s : State) (part act : Nat) (r : FaultRec) : State :=
  match answerRec act s r with
  | .refused => s
  | .acts t => dropRecord t part r.id
  | .later t => keepAnswer t part r.id act

/-- A RESUME write with an ACT: ignored where its TOKEN is not outstanding, a must-be-zero bit is set or the record does
not accept it. -/
def resumeWrite (s : State) (part act : Nat) (v : Word) : State :=
  if !deviceReady s || bits v 30 2 != act || bits v 24 6 != 0 then s
  else (outstanding? s part v).elim s (giveAnswer s part act)

/-- The answers that have waited are tried again, after every move. -/
def serveAnswers (s : State) : State :=
  s.partitions.foldl (fun s p => p.2.outstanding.foldl (fun s o => o.act.elim s (fun act => giveAnswer s p.1 act o.rec_)) s) s

def execResumeRetry (part : Nat) (v : Word) (s : State) : Host.Outcome State Fault Refusal :=
  goesOn (resumeWrite s part 0 v)
def execResumeError (part : Nat) (v : Word) (s : State) : Host.Outcome State Fault Refusal :=
  goesOn (resumeWrite s part 1 v)
def execResumeDiscard (part : Nat) (v : Word) (s : State) : Host.Outcome State Fault Refusal :=
  goesOn (resumeWrite s part 2 v)

/-! ### Pre-emption requests (R335, R344) -/

def execPrdead (part : Nat) (d : Word) (s : State) : Host.Outcome State Fault Refusal :=
  goesOn (if deviceReady s then prdeadWrite s part d else s)

/-! ### Invalidations (R304, R354, R355) -/

/-- An INVCTL write starts an invalidation, unless one is in progress. -/
def invctlWrite (s : State) (part kind : Nat) (v : Word) : State :=
  let p := getPartition s part
  if !deviceReady s || p.invbusy || bits v 0 2 != kind || kind == 3 then s
  else
    let ctx := v.getLsbD 3
    let k : InvKind := if kind == 0 then .page p.invva.toNat ctx else if kind == 1 then .ctx ctx else .all
    let (id, s) := fresh s
    let s := setPartition s part { p with invbusy := true, invctx := ctx, invkind := BitVec.ofNat 2 kind }
    { s with invals := s.invals ++ [{ id := id, part := part, kind := k, walks := openWalks s part, byHost := true }] }

def execInvctlPage (part : Nat) (v : Word) (s : State) : Host.Outcome State Fault Refusal := goesOn (invctlWrite s part 0 v)
def execInvctlContext (part : Nat) (v : Word) (s : State) : Host.Outcome State Fault Refusal :=
  goesOn (invctlWrite s part 1 v)
def execInvctlAll (part : Nat) (v : Word) (s : State) : Host.Outcome State Fault Refusal := goesOn (invctlWrite s part 2 v)

/-- An invalidation names a translation of a context, over a range of addresses (R354). -/
def InvKind.names (k : InvKind) (ctx : Bool) (va size : Nat) : Bool :=
  match k with
  | .page a c => c == ctx && decide (va ≤ a) && decide (a < va + size)
  | .ctx c => c == ctx
  | .all => true

/-- The entries that an invalidation drops go. -/
def dropTranslations (s : State) (v : Inval) : State :=
  { s with tlb := s.tlb.filter (fun t => !(t.part == v.part && v.kind.names t.ctx t.va t.size)),
           walks := s.walks.filter (fun k =>
             !(k.part == v.part && k.result.isSome && v.kind.names k.ctx (page64 k.va) 65536)) }

/-- An invalidation whose release wait is over and before which no walk is still open is done (R355). -/
def invalDue (s : State) (v : Inval) : Bool :=
  !s.ops.any (fun o => o.kind == .tlbi v.id) && !s.walks.any (fun k => k.result.isNone && v.walks.contains k.id)

/-- The invalidation is done: its slot goes on, or INVCTL.BUSY falls. -/
def invalidationDone (s : State) (id : Nat) : State :=
  match s.invals.find? (fun v => v.id == id) with
  | none => s
  | some v =>
    if !invalDue s v then s
    else
      let s := dropTranslations { s with invals := s.invals.filter (fun x => x.id != id) } v
      let go (x : Slot) : Slot := if x.block == .tlbi id then { x with block := .none } else x
      let s := { s with warps := s.warps.map (fun w => w.mapSlots go) }
      if v.byHost then setPartition s v.part { getPartition s v.part with invbusy := false } else s

def execInvalidationCompletes (inv : Nat) (s : State) : Host.Outcome State Fault Refusal := goesOn (invalidationDone s inv)

end Sys2Proof.Machine
end

