-- ==== Sys2Proof/Machine/Link.lean ====
section
/-! DEFINITION. The host's access to device memory (20 R356, 21 R361) and the loss of a Thilos link (21 R370). -/

namespace Sys2Proof.Machine

open Sys2Proof

/-! ### The memory aperture (R356, R361) -/

/-- Partitions whose valid host ranges hold an address. -/
def hostParts (s : State) (pa : Nat) (test : Partition → Bool → Bool) : List Nat :=
  (List.range 16).filter (fun n =>
    let p := getPartition s n
    p.hranges.any (fun r => r.2.2.2.1 && bits r.2.1 0 22 ≤ pa / 2 ^ 30 &&
      pa / 2 ^ 30 < bits r.2.1 0 22 + bits r.2.2.1 0 22 && test p r.2.2.2.2))

/-- A host access at an address is accepted. -/
def hostAllowed (s : State) (write : Bool) (pa : Nat) : Bool :=
  !(hostParts s pa (fun p wr => p.en && (!write || wr))).isEmpty

/-- The SZL's inbound stream freezes at an address: with a record of the partition whose range holds it without WR, be it
for a read of a partition that is not enabled, else with an event only (R359, R361). -/
def freezeSzl (s : State) (write : Bool) (pa : Nat) : State :=
  match (hostParts s pa (fun _ wr => !wr)).head? with
  | some part =>
    let (id, s) := postRec s part 4 .szl
      (recWords (recWord0 7 write.toNat false false 0 0) 0 (BitVec.ofNat 64 pa) 0 0 0 0)
    noteFreeze { s with szl := .frozen id } 4 0 pa
  | none => noteFreeze { s with szl := .frozenNoRange } 4 0 pa

/-- Byte addresses of an access, word by word. -/
def apertureAddrs (pa n : Nat) : List Nat := (List.range n).map (fun j => pa + 4 * j)

/-- The aperture reaches the words of an access: device memory, on word boundaries. -/
def apertureOk (pa n : Nat) : Bool := pa % 4 == 0 && decide (1 ≤ n) && decide (pa + 4 * n ≤ hbmEnd)

/-- An access through the aperture: accepted, or the stream freezes at its first word outside the ranges. -/
def aperture (s : State) (write : Bool) (pa n : Nat) (act : State → List Place → State) : State :=
  let places := (apertureAddrs pa n).map (fun a => Place.mk a false)
  if s.szl != .open_ || !apertureOk pa n then s
  else match (apertureAddrs pa n).find? (fun a => !hostAllowed s write a) with
    | some a => freezeSzl s write a
    | none => withPlaces s .host write places (act s places)

/-- HOST_WRITE: the words reach their homes as writes at home, with generated GCKs (R141, R356). -/
def hostWrite (s : State) (pa : Nat) (ws : List Word) : State :=
  aperture s true pa ws.length (fun s ps => placesWrite s (ps.zip (ws.map good)))

def execHostWrite (pa : Nat) (ws : List Word) (s : State) : Host.Outcome State Fault Refusal := goesOn (hostWrite s pa ws)

/-- HOST_READ: the host gets the current words, bad ones in poisoned form; no copy is kept (R141, R356). -/
def hostRead (s : State) (pa n : Nat) : State :=
  aperture s false pa n (fun s ps =>
    { s with hostReply := (ps.map (placeRead s)).map (fun w => if w.isGood then w else poison w) })

def execHostRead (pa n : Nat) (s : State) : Host.Outcome State Fault Refusal := goesOn (hostRead s pa n)

/-! ### A link goes down (R370) -/

/-- A device is lost: its traffic is answered with the error outcome from now on, and what includes it fails. -/
def loseDevice (s : State) (peer : Nat) : State :=
  podsLose { s with lost := s.lost ++ [peer],
                    colls := s.colls.map (fun k => if collNames s k peer then { k with failed := true } else k) } peer

/-- THILOS_LINK_DOWN at one of the 16 ports, its peer one of a pod's 1,024 devices (R1): the port records it, and the peer is
lost if no other port has said so. -/
def linkDown (s : State) (port peer : Nat) : State :=
  if 16 ≤ port || 1024 ≤ peer then s
  else recordEvent (if s.lost.contains peer then s else loseDevice s peer) (portDie port) 0x0F port (BitVec.ofNat 32 peer)

def execThilosLinkDown (port peer : Nat) (s : State) : Host.Outcome State Fault Refusal := goesOn (linkDown s port peer)

end Sys2Proof.Machine
end

