-- ==== Sys2Proof/Machine/Fleet.lean ====
section
/-! DEFINITION. The fleet's side (21 R360 to R369): retirement, the event recorders, attestation, firmware staging, the
release of the SZL, power checks, trips, resets and power-up. -/

namespace Sys2Proof.Machine

open Sys2Proof

/-! ### Retirement (R362, R363) -/

/-- Number of 64 KiB pages of HBM (R360). -/
def pageCount : Nat := 9830400

/-- The MGC takes a RETIRE write of a page. -/
def takeRetire (m : Mgc) (page : Nat) : Mgc :=
  let bad := decide (pageCount ≤ page)
  let known := m.retired.contains page
  let full := !bad && !known && decide (8192 ≤ m.retired.length)
  { m with retBad := bad, retFull := full, retiring := if bad || known || full then none else some page }

/-- Take waiting RETIRE writes until one starts a retirement. -/
def takeRetires (m : Mgc) : List Word → Mgc
  | [] => { m with retireQueue := [] }
  | v :: rest =>
    let m := takeRetire m (bits v 0 24)
    if m.retiring.isSome then { m with retireQueue := rest } else takeRetires m rest

/-- A write to RETIRE; one that comes while a page is being retired waits. -/
def retireWrite (s : State) (mgmt : Bool) (v : Word) : State :=
  if !mgmt || bits v 24 8 != 0 then s
  else if s.mgc.retiring.isSome then { s with mgc := { s.mgc with retireQueue := s.mgc.retireQueue ++ [v] } }
  else { s with mgc := takeRetires s.mgc [v] }

def execRetire (mgmt : Bool) (v : Word) (s : State) : Host.Outcome State Fault Refusal := goesOn (retireWrite s mgmt v)

/-- A page is retired: off the Fallow list, out of its homes' poison records, into the retired table. -/
def retirePage (s : State) (page : Nat) : State :=
  let m := s.mgc
  let m := { m with fallow := m.fallow.filter (· != page), retired := m.retired ++ [page], retiring := none }
  { s with mgc := takeRetires m m.retireQueue,
           homes := s.homes.map (fun p =>
             (p.1, { p.2 with poison := p.2.poison.filter (fun x => x / 2048 != page) })) }

def retirementCompletes (s : State) : State := s.mgc.retiring.elim s (retirePage s)

def execRetirementCompletes (s : State) : Host.Outcome State Fault Refusal := goesOn (retirementCompletes s)

/-! ### Event recorders (R364) -/

/-- The words of an entry as recorded by a die. -/
def eventWords (die : Nat) (e : Event) : List Word :=
  [BitVec.ofNat 32 (e.code.toNat * 2 ^ 24 + die * 2 ^ 20 + e.unit % 2 ^ 20), BitVec.ofNat 32 e.cycle,
   BitVec.ofNat 32 (e.cycle / 2 ^ 32), e.detail]

/-- Entry i of a recorder: the latest event whose number is i modulo 4,096; zeros where there is none. -/
def entryWords (s : State) (die i : Nat) : List Word :=
  let r := getRecorder s die
  match r.entries[(r.head + 2 * 4096 - 1 - i % 4096) % 4096]? with
  | some e => eventWords die e
  | none => [0, 0, 0, 0]

/-- A write to ERIDX latches an entry of the selected recorder; dies 6 and 7 read zero. -/
def eridxWrite (s : State) (mgmt : Bool) (v : Word) : State :=
  if !mgmt then s
  else
    let die := s.mgc.ersel.toNat
    { s with mgc := { s.mgc with eridx := v,
                                 erdata := if die < 6 then entryWords s die v.toNat else [0, 0, 0, 0] } }

def execEridx (mgmt : Bool) (v : Word) (s : State) : Host.Outcome State Fault Refusal := goesOn (eridxWrite s mgmt v)

/-- Loss of standby power clears every recorder. -/
def execStandbyPowerLoss (s : State) : Host.Outcome State Fault Refusal := goesOn { s with recorders := [] }

/-! ### Attestation (R369) -/

/-- GO starts a report, unless one is being made. -/
def attestGo (s : State) (mgmt : Bool) (v : Word) : State :=
  if !mgmt || s.mgc.attbusy || !v.getLsbD 0 then s
  else { s with mgc := { s.mgc with attbusy := true, attdone := false, attfail := false } }

def execAttestationGo (mgmt : Bool) (v : Word) (s : State) : Host.Outcome State Fault Refusal := goesOn (attestGo s mgmt v)

/-- The image in force of a type. The MGC's firmware always has one: a reset starts it (R365). -/
def imageInForce (m : Mgc) (type : Nat) : Option (Nat × BitVec 512) :=
  match tget? m.inForce type with
  | some x => some x
  | none => if type == 1 then some Config.mgcImage else Config.factoryImage type

/-- Types, versions and digests of the images in force. -/
def imagesInForce (m : Mgc) : List (Nat × Nat × BitVec 512) :=
  (List.range 4).filterMap (fun t => (imageInForce m t).map (fun x => (t, x)))

/-- Word j of a digest. -/
def digestWord (d : BitVec 512) (j : Nat) : Word := BitVec.ofNat 32 (d.toNat / 2 ^ (32 * j))

/-- Places of words from a physical byte address on. -/
def placesAt (pa n : Nat) : List Place := (List.range n).map (fun j => Place.mk (pa + 4 * j) false)

/-- Words of a report but for the signature, by their word number in the buffer. -/
def reportWords (s : State) (nonce : List CWord) : List (Nat × CWord) :=
  let l := imagesInForce s.mgc
  (nonce.zipIdx.map (fun p => (16 + p.2, p.1))) ++
  (List.range 16).map (fun j => (32 + j, good (digestWord Config.identityDigest j))) ++
  [(48, good (BitVec.ofNat 32 l.length))] ++
  (l.zipIdx.map (fun p => [(49 + 2 * p.2, good (BitVec.ofNat 32 p.1.1)), (50 + 2 * p.2, good (BitVec.ofNat 32 p.1.2.1))])).flatten ++
  (l.zipIdx.map (fun p => (List.range 16).map (fun j => (64 + 16 * p.2 + j, good (digestWord p.1.2.2 j))))).flatten

/-- Read some words of device memory as an endpoint that keeps no copy. -/
def readPlaces (s : State) (ps : List Place) : List CWord := ps.map (placeRead s)

/-- The KRT writes the report, then its signature over bytes 64 to 511. -/
def writeReport (s : State) (base : Nat) : State :=
  let nonce := readPlaces s (placesAt base 16)
  let s := placesWrite s ((reportWords s nonce).map (fun p => (Place.mk (base + 4 * p.1) false, p.2)))
  let body := readPlaces s (placesAt (base + 64) 112)
  placesWrite s ((List.finRange 33).map (fun j =>
    (Place.mk (base + 512 + 4 * j.val) false, good (Config.reportSignature (body.map (·.data)) j))))

/-- The KRT finishes: DONE with the report written, or FAIL where ATTVA is invalid. -/
def attestDone (s : State) : State :=
  let base := s.mgc.attva.toNat
  if !s.mgc.attbusy then s
  else if base % 4096 != 0 || hbmEnd ≤ base then { s with mgc := { s.mgc with attbusy := false, attfail := true } }
  else withPlaces s (.engine 0) true (placesAt base 161)
    (let s := writeReport s base
    { s with mgc := { s.mgc with attbusy := false, attdone := true } })

def execAttestationDone (s : State) : Host.Outcome State Fault Refusal := goesOn (attestDone s)

/-! ### Firmware (R361, R368) -/

/-- A write to FWCTL: the type, and with GO the staging; ignored while one is in progress. -/
def firmwareWrite (s : State) (mgmt : Bool) (v : Word) : State :=
  let m := s.mgc
  if !mgmt || m.fwbusy then s
  else if v.getLsbD 0 then
    { s with mgc := { m with fwtype := v.extractLsb' 4 4, fwbusy := true, fwdone := false, fwfail := false } }
  else { s with mgc := { m with fwtype := v.extractLsb' 4 4 } }

def execFirmwareStage (mgmt : Bool) (v : Word) (s : State) : Host.Outcome State Fault Refusal :=
  goesOn (firmwareWrite s mgmt v)

/-- The last word of an image keeps only the image's bytes. -/
def trimImage (len : Nat) (ws : List CWord) : List CWord :=
  ws.zipIdx.map (fun p => if len < 4 * p.2 + 4 then { p.1 with data := p.1.data &&& BitVec.ofNat 32 (2 ^ (8 * (len % 4)) - 1) } else p.1)

/-- The fused minimum of a type. -/
def fusedMinimum (m : Mgc) (type : Nat) : Nat := tget m.fusedMin type 0

/-- The fused minima as an operator may have raised them by now; they never fall (R368). What the operator commands is free
(log 85). -/
def raiseFused (s : State) : State :=
  { s with mgc := { s.mgc with fusedMin := (List.range 4).foldl (fun t n =>
      tput t n (Nat.max (tget t n 0) (Config.operatorMinimum s.tick n)) 0) s.mgc.fusedMin } }

/-- FWVA and FWLEN keep their limits, and the type is one of the four. -/
def stageable (m : Mgc) : Bool :=
  m.fwva.toNat % 4096 == 0 && decide (1 ≤ m.fwlen.toNat) && decide (m.fwlen.toNat ≤ 16777216) &&
  decide (m.fwva.toNat + m.fwlen.toNat ≤ hbmEnd) && decide (m.fwtype.toNat < 4)

/-- An image is rejected: it is not held, FAIL is set and CODE 0x0E recorded. -/
def rejectImage (s : State) : State :=
  recordIo { s with mgc := { s.mgc with fwbusy := false, fwfail := true } } 0x0E 0 (s.mgc.fwtype.setWidth 32)

/-- The KRT finishes the verification of an image. -/
def stagingDone (s : State) : State :=
  let ps := placesAt s.mgc.fwva.toNat ((s.mgc.fwlen.toNat + 3) / 4)
  if !s.mgc.fwbusy then s
  else if !stageable s.mgc then rejectImage s
  else withPlaces s (.engine 0) false ps
    (let s := raiseFused s
    let m := s.mgc
    match Config.imageVerdict m.fwtype.toNat (trimImage m.fwlen.toNat (readPlaces s ps)) with
    | some (version, digest) =>
      if fusedMinimum m m.fwtype.toNat ≤ version then
        { s with mgc := { m with fwbusy := false, fwdone := true, staged := tset m.staged m.fwtype.toNat (version, digest) } }
      else rejectImage s
    | none => rejectImage s)

def execFirmwareStagingDone (s : State) : Host.Outcome State Fault Refusal := goesOn (stagingDone s)

/-- SZLREL releases an inbound stream that froze outside every partition's ranges (R361). -/
def execSzlrel (mgmt : Bool) (v : Word) (s : State) : Host.Outcome State Fault Refusal :=
  goesOn (if mgmt && v == 1 && s.szl == .frozenNoRange then { s with szl := .open_ } else s)

/-! ### Power (R365 to R367) -/

/-- PLIM as it acts: within 600 and 2,400 (R360). -/
def powerLimit (m : Mgc) : Nat := Nat.max 600 (Nat.min 2400 (bits m.plim 0 12))

/-- The clock step changes, and an event says so. -/
def setStep (s : State) (m : Mgc) (step : Nat) : State :=
  recordIo { s with mgc := { m with clockStep := step } } 0x0C 0 (BitVec.ofNat 32 step)

/-- The MGC's check: average watts over the millisecond and the highest junction temperature (R366). -/
def powerCheck (s : State) (watts temp : Nat) : State :=
  let m := { s.mgc with lastCheck := s.cycle }
  if s.cycle < s.mgc.lastCheck + micros s 1000 then s
  else if decide (powerLimit m < watts) || decide (105 < temp) then
    if m.clockStep < 8 then setStep s { m with calm := 0, pstep := sat32 m.pstep } (m.clockStep + 1)
    else { s with mgc := { m with calm := 0 } }
  else if decide (100 * watts < 95 * powerLimit m) && decide (temp < 100) then
    if m.calm + 1 < 10 then { s with mgc := { m with calm := m.calm + 1 } }
    else if m.clockStep == 0 then { s with mgc := { m with calm := 0 } }
    else setStep s { m with calm := 0 } (m.clockStep - 1)
  else { s with mgc := { m with calm := 0 } }

def execPowerCheck (watts temp : Nat) (s : State) : Host.Outcome State Fault Refusal := goesOn (powerCheck s watts temp)

/-- A junction above 115 °C, or a compute rail outside 675 ± 20 mV (R367). -/
def tripDue (thermal : Bool) (v : Nat) : Bool :=
  if thermal then decide (115 < v) else decide (v < 655) || decide (695 < v)

/-- A trip: every core and engine stops, TRIP is set and recorded, the compute supply is removed. -/
def tripNow (s : State) (thermal : Bool) (v : Nat) : State :=
  if s.mgc.trip || !tripDue thermal v then s
  else recordIo { s with mgc := { s.mgc with trip := true }, quads := s.quads.map (fun q => (q.1, { q.2 with powered := false })) }
    0x0D 0 (BitVec.ofNat 32 v)

def execTrip (thermal : Bool) (v : Nat) (s : State) : Host.Outcome State Fault Refusal := goesOn (tripNow s thermal v)

/-! ### Reset and power-up (R364, R365, R368) -/

/-- Staged images are verified again and take effect; a rejected one leaves the previous image in force. -/
def takeImages (m : Mgc) : Mgc :=
  m.staged.foldl (fun m p =>
    if fusedMinimum m p.1 ≤ p.2.1 then { m with inForce := tset m.inForce p.1 p.2 } else m) { m with staged := [] }

/-- Types of staged images that the second verification rejects. -/
def rejectedTypes (m : Mgc) : List Nat := (m.staged.filter (fun p => p.2.1 < fusedMinimum m p.1)).map (·.1)

/-- The MGC after a reset: the retired table, the fused minima and the images in force stay (R362, R368). -/
def mgcAfterReset (m : Mgc) : Mgc :=
  let n := takeImages m
  { Mgc.reset with retired := n.retired, inForce := n.inForce, fusedMin := n.fusedMin }

/-- The device after a reset. The recorders survive, running (R364); so do the retired table and the images in force, and
the memories, but for HBM at power-on. -/
def resetDevice (s : State) (cause : Nat) : State :=
  let s := raiseFused s
  let t := { State.reset with
    tick := s.tick, agenda := s.agenda, hbm := if cause == 0 then Mem.empty else s.hbm, host := s.host, interrupts := s.interrupts,
    hostReply := s.hostReply, mgc := mgcAfterReset s.mgc, recorders := s.recorders.map (fun r => (r.1, { r.2 with frz := false })) }
  let t := (rejectedTypes s.mgc).foldl (fun t n => recordIo t 0x0E 0 (BitVec.ofNat 32 n)) t
  recordIo t 0x0B 0 (BitVec.ofNat 32 cause)

/-- RESET by one of the four causes. -/
def execReset (cause : Nat) (s : State) : Host.Outcome State Fault Refusal :=
  goesOn (if cause < 4 then resetDevice s cause else s)

/-- Quads are powered one after another, quad n from 2 µs × n after the reset on (R365). -/
def quadPowerUp (s : State) (quad : Nat) : State :=
  if quad < 96 && (List.range quad).all (fun q => (getQuad s q).powered) && decide (micros s (2 * quad) ≤ s.cycle) &&
      !s.mgc.trip then
    setQuad s quad { getQuad s quad with powered := true }
  else s

def execQuadPowerUp (quad : Nat) (s : State) : Host.Outcome State Fault Refusal := goesOn (quadPowerUp s quad)

end Sys2Proof.Machine
end

