-- ==== Sys2Proof/Machine/Halves.lean ====
section
/-! DEFINITION. Form-P pairs (08 R171 to R173): the value of each half by its HOP, and the pair as one instruction. A
word that is no instruction (08 R158, R163). -/

namespace Sys2Proof.Machine

open Sys2Proof

/-- imm8 sign-extended to 32 bits (R172). -/
def imm8 (b : BitVec 8) : Nat := (b.signExtend 32).toNat

/-- An FP32 or bf16x2 element operation on whole words. -/
def halfFp (f : Format) (n : Nat) (g : Format → Nat → Nat → Nat → Nat × Word) (a b d : Nat) : Nat × Word :=
  elemMap3 f.width (g f) n a b d

/-- Result and flags of a half from its sources A, B and D (R172). -/
def halfValue (h : Half) (a b d : Nat) : Nat × Word :=
  let i := fun (f : IntTy → Nat → Nat → Nat × Word) (ty : IntTy) (y : Nat) => f ty a y
  match h.hop.toNat with
  | 0x00 => (a, 0)
  | 0x01 => (imm8 h.b, 0)
  | 0x02 => i addElem .i32 b
  | 0x03 => i addElem .i32 (imm8 h.b)
  | 0x04 => i subElem .i32 b
  | 0x05 => i andElem .n32 b
  | 0x06 => i orElem .n32 b
  | 0x07 => i xorElem .n32 b
  | 0x08 => i shlElem .n32 (h.b.toNat % 32)
  | 0x09 => i shrElem .n32 (h.b.toNat % 32)
  | 0x0A => i sarElem .i32 (h.b.toNat % 32)
  | 0x0B => i minElem .i32 b
  | 0x0C => i maxElem .i32 b
  | 0x0D => i mulElem .i32 b
  | 0x0E => halfFp fmtF32 1 (fun f x y _ => faddElem f .rne x y) a b 0
  | 0x0F => halfFp fmtF32 1 (fun f x y _ => fsubElem f .rne x y) a b 0
  | 0x10 => halfFp fmtF32 1 (fun f x y _ => fmulElem f .rne x y) a b 0
  | 0x11 => halfFp fmtF32 1 ffmaElem a b d
  | 0x12 => halfFp fmtF32 1 (fun f x y _ => fminmaxElem f false x y) a b 0
  | 0x13 => halfFp fmtF32 1 (fun f x y _ => fminmaxElem f true x y) a b 0
  | 0x14 => halfFp fmtBf16 2 (fun f x y _ => faddElem f .rne x y) a b 0
  | 0x15 => halfFp fmtBf16 2 (fun f x y _ => fmulElem f .rne x y) a b 0
  | 0x16 => halfFp fmtBf16 2 ffmaElem a b d
  | 0x17 => cvtElem .f32 .i32 .rne none a
  | 0x18 => cvtElem .i32 .f32 .rne none a
  | 0x19 => (notElem .n32 a, 0)
  | 0x1A => (absElem .i32 a, 0)
  | 0x1B => halfFp fmtF32 1 (fun f x _ _ => fabsElem f x) a 0 0
  | 0x1C => halfFp fmtF32 1 (fun f x _ _ => fnegElem f x) a 0 0
  | _ => (0, 0)

/-- Results and flags of one half in every active lane. -/
def Cx.halfResults (c : Cx) (h : Half) : List (Nat × Word) × Word :=
  let rs := c.active.map (fun l =>
    (l, halfValue h (c.vec h.a.toNat l).toNat (c.vec h.b.toNat l).toNat (c.vec h.d.toNat l).toNat))
  if h.writes.isEmpty then ([], 0)
  else (rs.map (fun p => (vKey h.d.toNat p.1, BitVec.ofNat 32 p.2.1)), rs.foldl (fun m p => m ||| p.2.2) 0)

/-- Both halves read every source before either writes; their flags are ORed (R173). -/
def pairEff (h1 h2 : Half) (c : Cx) : Eff :=
  let r1 := c.halfResults h1
  let r2 := c.halfResults h2
  .write (r1.1 ++ r2.1) (r1.2 ||| r2.2)

/-- A pair by the HOP of its first half. -/
def pairOf (hop : BitVec 6) (o : HalfOp) (c : Cx) : Eff := pairEff (o.half hop) (Half.ofWord o.second) c

def execHalfMov (o : HalfOp) (s : State) : Host.Outcome State Fault Refusal := issue (.halfMov o) (pairOf 0x00 o) s
def execHalfMovi (o : HalfOp) (s : State) : Host.Outcome State Fault Refusal := issue (.halfMovi o) (pairOf 0x01 o) s
def execHalfAdd (o : HalfOp) (s : State) : Host.Outcome State Fault Refusal := issue (.halfAdd o) (pairOf 0x02 o) s
def execHalfAddi (o : HalfOp) (s : State) : Host.Outcome State Fault Refusal := issue (.halfAddi o) (pairOf 0x03 o) s
def execHalfSub (o : HalfOp) (s : State) : Host.Outcome State Fault Refusal := issue (.halfSub o) (pairOf 0x04 o) s
def execHalfAnd (o : HalfOp) (s : State) : Host.Outcome State Fault Refusal := issue (.halfAnd o) (pairOf 0x05 o) s
def execHalfOr (o : HalfOp) (s : State) : Host.Outcome State Fault Refusal := issue (.halfOr o) (pairOf 0x06 o) s
def execHalfXor (o : HalfOp) (s : State) : Host.Outcome State Fault Refusal := issue (.halfXor o) (pairOf 0x07 o) s
def execHalfShli (o : HalfOp) (s : State) : Host.Outcome State Fault Refusal := issue (.halfShli o) (pairOf 0x08 o) s
def execHalfShri (o : HalfOp) (s : State) : Host.Outcome State Fault Refusal := issue (.halfShri o) (pairOf 0x09 o) s
def execHalfSari (o : HalfOp) (s : State) : Host.Outcome State Fault Refusal := issue (.halfSari o) (pairOf 0x0A o) s
def execHalfMin (o : HalfOp) (s : State) : Host.Outcome State Fault Refusal := issue (.halfMin o) (pairOf 0x0B o) s
def execHalfMax (o : HalfOp) (s : State) : Host.Outcome State Fault Refusal := issue (.halfMax o) (pairOf 0x0C o) s
def execHalfMul (o : HalfOp) (s : State) : Host.Outcome State Fault Refusal := issue (.halfMul o) (pairOf 0x0D o) s
def execHalfFadd (o : HalfOp) (s : State) : Host.Outcome State Fault Refusal := issue (.halfFadd o) (pairOf 0x0E o) s
def execHalfFsub (o : HalfOp) (s : State) : Host.Outcome State Fault Refusal := issue (.halfFsub o) (pairOf 0x0F o) s
def execHalfFmul (o : HalfOp) (s : State) : Host.Outcome State Fault Refusal := issue (.halfFmul o) (pairOf 0x10 o) s
def execHalfFmac (o : HalfOp) (s : State) : Host.Outcome State Fault Refusal := issue (.halfFmac o) (pairOf 0x11 o) s
def execHalfFmin (o : HalfOp) (s : State) : Host.Outcome State Fault Refusal := issue (.halfFmin o) (pairOf 0x12 o) s
def execHalfFmax (o : HalfOp) (s : State) : Host.Outcome State Fault Refusal := issue (.halfFmax o) (pairOf 0x13 o) s
def execHalfHadd (o : HalfOp) (s : State) : Host.Outcome State Fault Refusal := issue (.halfHadd o) (pairOf 0x14 o) s
def execHalfHmul (o : HalfOp) (s : State) : Host.Outcome State Fault Refusal := issue (.halfHmul o) (pairOf 0x15 o) s
def execHalfHmac (o : HalfOp) (s : State) : Host.Outcome State Fault Refusal := issue (.halfHmac o) (pairOf 0x16 o) s
def execHalfCvtf (o : HalfOp) (s : State) : Host.Outcome State Fault Refusal := issue (.halfCvtf o) (pairOf 0x17 o) s
def execHalfCvti (o : HalfOp) (s : State) : Host.Outcome State Fault Refusal := issue (.halfCvti o) (pairOf 0x18 o) s
def execHalfNot (o : HalfOp) (s : State) : Host.Outcome State Fault Refusal := issue (.halfNot o) (pairOf 0x19 o) s
def execHalfAbs (o : HalfOp) (s : State) : Host.Outcome State Fault Refusal := issue (.halfAbs o) (pairOf 0x1A o) s
def execHalfFabs (o : HalfOp) (s : State) : Host.Outcome State Fault Refusal := issue (.halfFabs o) (pairOf 0x1B o) s
def execHalfFneg (o : HalfOp) (s : State) : Host.Outcome State Fault Refusal := issue (.halfFneg o) (pairOf 0x1C o) s
def execHalfNop (o : HalfOp) (s : State) : Host.Outcome State Fault Refusal := issue (.halfNop o) (pairOf 0x1D o) s

/-! ### Words that are no instruction -/

/-- A word that is no instruction: cause 0x02 for a form-P word, else 0x01 with the reserved-value subcode; TVAL holds
its first parcel (R158, R163, R173, R177). -/
def illegalEff (p0 : Word) (_ : Cx) : Eff :=
  if p0.extractLsb' 30 2 == 1 then .trap 0x02 0 p0 else .trap 0x01 1 p0

def execIllegalInstructionWord (x : IllegalWord) (s : State) : Host.Outcome State Fault Refusal :=
  issue (.illegalInstructionWord x) (illegalEff x.p0) s

end Sys2Proof.Machine
end

