-- ==== Sys2Proof/Machine/Integrity.lean ====
section
/-! DEFINITION. The integrity group 0xE8 to 0xEB (13 R298, R299): signatures (07 R152, R154) and words with their
checks (07 R139, R140). -/

namespace Sys2Proof.Machine

open Sys2Proof

/-- SIGCHK: a signature or a mask that differs contains the gang, else SIG is zero again (R154); in trap mode the
signature is frozen (R152). -/
def sigchkEff (v : Word) (c : Cx) : Eff :=
  let x := c.slot
  if x.sig != v || x.mask != x.shadow then
    .stop (contain c.pre c.preW (if x.sig != v then 4 else 5) 0 0x08 x.pc 0)
  else .go (c.withSlot { c.mine with sig := resig c.w x.sig 0 }) []

def execSigchk (v : Word) (s : State) : Host.Outcome State Fault Refusal := issue (.sigchk v) (sigchkEff v) s

/-- SIGRD: the signature before it is counted, and the shadow mask (R298). -/
def sigrdEff (d : SReg) (c : Cx) : Eff :=
  .write [(sKey d.toNat, c.slot.sig), (sKey (d.toNat + 1), c.slot.shadow)] 0

def execSigrd (d : SReg) (s : State) : Host.Outcome State Fault Refusal := issue (.sigrd d) (sigrdEff d) s

/-- CKGEN (R299). -/
def ckgenEff (o : CkgenOp) (c : Cx) : Eff :=
  c.lanewise o.guard (.v o.dst) (fun l => Res.w ((gck (c.src o.a l)).setWidth 32))

def execCkgen (o : CkgenOp) (s : State) : Host.Outcome State Fault Refusal := issue (.ckgen o) (ckgenEff o) s

/-- Class of a word with some check bits: good, poisoned or corrupt (R140). -/
def wordClass (x : CWord) : Word := if x.isGood then 0 else if x.isPoisoned then 1 else 2

/-- CKTST (R299). -/
def cktstEff (o : CktstOp) (c : Cx) : Eff :=
  c.lanewise o.guard (.v o.dst) (fun l =>
    Res.w (wordClass (CWord.ofCheck (c.src o.a l) ((c.src o.b l).setWidth 8))))

def execCktst (o : CktstOp) (s : State) : Host.Outcome State Fault Refusal := issue (.cktst o) (cktstEff o) s

end Sys2Proof.Machine
end

