-- ==== Sys2Proof/Machine/Registers.lean ====
section
/-! DEFINITION. The register aperture (20 R344, R346, R351, 21 R360, R361, 19 R323): what a write to each register does
and what a read returns. -/

namespace Sys2Proof.Machine

open Sys2Proof

/-! ### Fields -/

/-- A 64-bit register with one of its halves written. -/
def putHalf (x : DWord) (high : Bool) (v : Word) : DWord := if high then pairUp (lowWord x) v else pairUp v (highWord x)

def getHalf (x : DWord) (high : Bool) : Word := if high then highWord x else lowWord x

/-! ### A partition's window: writes (R344) -/

/-- A master of the partition works in a context: a resident team, a copy or a collective outstanding. -/
def ctxBusy (s : State) (part : Nat) (test : Bool → Bool) : Bool :=
  s.teams.any (fun t => t.place == .resident && (findGrid? s t.grid).elim false (fun g => g.part == part && test g.ctx)) ||
  s.copies.any (fun k => (findWarp? s k.warp).elim false (fun w => partOf s w == part && test (ctxOf s w))) ||
  s.colls.any (fun k => k.issuer.part == part && test k.issuer.ctx)

/-- Write word `i` of a range entry (R351). -/
def RangeEntry.put (r : RangeEntry) (i : Nat) (v : Word) : RangeEntry :=
  match i with
  | 0 => { r with base := putHalf r.base false v }
  | 1 => { r with base := putHalf r.base true v }
  | 2 => { r with limit := putHalf r.limit false v }
  | 3 => { r with limit := putHalf r.limit true v }
  | 4 => { r with pbase := putHalf r.pbase false v }
  | 5 => { r with pbase := putHalf r.pbase true v }
  | 6 => { r with ctl := v }
  | _ => r

def RangeEntry.get (r : RangeEntry) (i : Nat) : Word :=
  match i with
  | 0 => getHalf r.base false
  | 1 => getHalf r.base true
  | 2 => getHalf r.limit false
  | 3 => getHalf r.limit true
  | 4 => getHalf r.pbase false
  | 5 => getHalf r.pbase true
  | 6 => r.ctl
  | _ => 0

/-- A context's register at an offset from 0x200 + 0x400 c; TVEC is written at any time, the others only while the
context is idle. -/
def writeCtx (x : Ctx) (off : Nat) (idle : Bool) (v : Word) : Ctx :=
  if off == 0x10 then { x with tvec := putHalf x.tvec false v }
  else if off == 0x14 then { x with tvec := putHalf x.tvec true v }
  else if !idle then x
  else if off == 0 then { x with en := v.getLsbD 0, priv := v.getLsbD 1, fimp := v.getLsbD 2 }
  else if off == 8 then { x with ptroot := putHalf x.ptroot false v }
  else if off == 0xC then { x with ptroot := putHalf x.ptroot true v }
  else if 0x200 ≤ off && off < 0x400 then
    let i := (off - 0x200) / 32
    { x with ranges := tput x.ranges i ((tget x.ranges i RangeEntry.dflt).put (off % 32 / 4) v) RangeEntry.dflt }
  else x

def readCtx (x : Ctx) (off : Nat) : Word :=
  if off == 0 then BitVec.ofNat 32 (x.en.toNat + 2 * x.priv.toNat + 4 * x.fimp.toNat)
  else if off == 8 then getHalf x.ptroot false
  else if off == 0xC then getHalf x.ptroot true
  else if off == 0x10 then getHalf x.tvec false
  else if off == 0x14 then getHalf x.tvec true
  else if 0x200 ≤ off && off < 0x400 then (tget x.ranges ((off - 0x200) / 32) RangeEntry.dflt).get (off % 32 / 4)
  else 0

/-- QCTL while EN is 1 takes only EN; a write of LOGN, or of QBASE, resets the lap count (R323). -/
def writeQueue (q : Queue) (off : Nat) (v : Word) : Queue :=
  match off with
  | 0 => { q with base := putHalf q.base false v, lap := 0 }
  | 4 => { q with base := putHalf q.base true v, lap := 0 }
  | 8 =>
    if q.en then { q with en := v.getLsbD 7 }
    else
      let q := { q with en := v.getLsbD 7, ser := v.getLsbD 6, logn := v.extractLsb' 0 5, lap := 0 }
      { q with head := q.head % 2 ^ q.log }
  | 16 => { q with tail := v }
  | _ => q

def readQueue (q : Queue) (off : Nat) : Word :=
  match off with
  | 0 => getHalf q.base false
  | 4 => getHalf q.base true
  | 8 => BitVec.ofNat 32 (q.en.toNat * 128 + q.ser.toNat * 64 + q.logn.toNat)
  | 12 => BitVec.ofNat 32 q.head
  | 16 => q.tail
  | _ => 0

/-- FQCTL (R346). -/
def writeFqctl (p : Partition) (v : Word) : Partition :=
  let p := { p with fqen := v.getLsbD 7, fqie := v.getLsbD 6, fqlogn := v.extractLsb' 0 5 }
  { p with fqtail := p.fqtail % 2 ^ p.fqLog }

/-- The plain registers of a partition's window. -/
def writePlain (p : Partition) (off : Nat) (v : Word) : Partition :=
  match off with
  | 0x40 => { p with fqbase := putHalf p.fqbase false v }
  | 0x44 => { p with fqbase := putHalf p.fqbase true v }
  | 0x48 => writeFqctl p v
  | 0x58 => { p with slice := v }
  | 0x64 => { p with prlaunch := v }
  | 0x68 => { p with prteam := v }
  | 0x78 => { p with invva := putHalf p.invva false v }
  | 0x7C => { p with invva := putHalf p.invva true v }
  | 0x80 => { p with cgbase := putHalf p.cgbase false v }
  | 0x84 => { p with cgbase := putHalf p.cgbase true v }
  | 0x90 => { p with fimpbase := putHalf p.fimpbase false v }
  | 0x94 => { p with fimpbase := putHalf p.fimpbase true v }
  | 0x98 => { p with pgbase := putHalf p.pgbase false v }
  | 0x9C => { p with pgbase := putHalf p.pgbase true v }
  | _ => p

/-- A write to RESUME, by its ACT (R348). -/
def resumeAny (s : State) (part : Nat) (v : Word) : State := resumeWrite s part (bits v 30 2) v

/-- A write at an offset of a partition's window, once the device is ready (R365). -/
def writePartition (s : State) (part off : Nat) (v : Word) : State :=
  let p := getPartition s part
  if off % 4 != 0 || !deviceReady s then s
  else if off == 0x4C then fqheadWrite s part v
  else if off == 0x60 then resumeAny s part v
  else if off == 0x6C then prdeadWrite s part v
  else if off == 0x70 then invctlWrite s part (bits v 0 2) v
  else if 0x200 ≤ off && off < 0xA00 then
    let c := decide (0x600 ≤ off)
    let o := off - (if c then 0x600 else 0x200)
    setPartition s part (setCtx p c (writeCtx (getCtx p c) o (!ctxBusy s part (· == c)) v))
  else if 0x1000 ≤ off && off < 0x1800 then
    let q := (off - 0x1000) / 32
    setPartition s part (setQueue p q (writeQueue (getQueue p q) (off % 32) v))
  else setPartition s part (writePlain p off v)

/-! ### The management window: writes (R360, R361) -/

/-- A counter takes a write of 0 only. -/
def clearCount (n : Nat) (v : Word) : Nat := if v == 0 then 0 else n

/-- Bits 32 k to 32 k + 31 of a quad mask replaced. -/
def putQuads (m : BitVec 96) (k : Nat) (v : Word) : BitVec 96 :=
  let old := m.toNat / 2 ^ (32 * k) % 2 ^ 32
  BitVec.ofNat 96 (m.toNat - old * 2 ^ (32 * k) + v.toNat * 2 ^ (32 * k))

/-- A new quad mask keeps the rules: no quad in two partitions, no change for a quad with a resident team (R361). -/
def quadsOk (s : State) (part : Nat) (old new : BitVec 96) : Bool :=
  (List.range 16).all (fun n => n == part || (getPartition s n).quads &&& new == 0) &&
  s.teams.all (fun t => t.place != .resident || t.cores.all (fun c =>
    old.getLsbD (quadOf c) == new.getLsbD (quadOf c)))

def writeQuads (s : State) (part k : Nat) (v : Word) : State :=
  let p := getPartition s part
  let m := putQuads p.quads k v
  if quadsOk s part p.quads m then setPartition s part { p with quads := m } else s

/-- A physical range with one of its registers written. -/
def putPrange (r : Word × Word × Bool) (i : Nat) (v : Word) : Word × Word × Bool :=
  match i with
  | 0 => (v &&& 0x3FFFFF, r.2.1, r.2.2)
  | 1 => (r.1, v &&& 0x3FFFFF, r.2.2)
  | 2 => (r.1, r.2.1, v.getLsbD 0)
  | _ => r

/-- The new range covers all that the old one did. -/
def covers (new old : Word × Word × Bool) : Bool :=
  !old.2.2 || old.2.1 == 0 ||
  (new.2.2 && decide (new.1.toNat ≤ old.1.toNat) && decide (old.1.toNat + old.2.1.toNat ≤ new.1.toNat + new.2.1.toNat))

def writePrange (s : State) (part i k : Nat) (v : Word) : State :=
  let p := getPartition s part
  let old := tget p.pranges i (0, 0, false)
  let new := putPrange old k v
  if ctxBusy s part (fun _ => true) && !covers new old then s
  else setPartition s part { p with pranges := tput p.pranges i new (0, 0, false) }

def writeHrange (s : State) (part i k : Nat) (v : Word) : State :=
  let p := getPartition s part
  let r := tget p.hranges i (0, 0, false, false)
  let r := match k with
    | 0 => (v &&& 0x3FFFFF, r.2)
    | 1 => (r.1, v &&& 0x3FFFFF, r.2.2)
    | 2 => (r.1, r.2.1, v.getLsbD 0, v.getLsbD 1)
    | _ => r
  setPartition s part { p with hranges := tput p.hranges i r (0, 0, false, false) }

/-- ERSEL selects a recorder and sets its FRZ (R360, R364). -/
def writeErsel (s : State) (v : Word) : State :=
  let die := bits v 0 3
  let s := { s with mgc := { s.mgc with ersel := v.extractLsb' 0 3 } }
  if die < 6 then setRecorder s die { getRecorder s die with frz := v.getLsbD 8 } else s

/-- The plain registers of the MGC. -/
def writeMgcPlain (m : Mgc) (off : Nat) (v : Word) : Mgc :=
  match off with
  | 0x10 => { m with hsel := v &&& 0x1FF }
  | 0x24 => { m with falidx := v &&& 0xFFF }
  | 0x40 => { m with direrr := clearCount m.direrr v }
  | 0x44 => { m with contcnt := clearCount m.contcnt v }
  | 0x48 => { m with relcnt := clearCount m.relcnt v }
  | 0x4C => { m with frzcnt := clearCount m.frzcnt v }
  | 0x50 => { m with seccnt := clearCount m.seccnt v }
  | 0x54 => { m with pstep := clearCount m.pstep v }
  | 0xC0 => { m with plim := v &&& 0xFFF }
  | 0x108 => { m with attva := putHalf m.attva false v }
  | 0x10C => { m with attva := putHalf m.attva true v }
  | 0x110 => { m with fwva := putHalf m.fwva false v }
  | 0x114 => { m with fwva := putHalf m.fwva true v }
  | 0x118 => { m with fwlen := v }
  | 0x200 => { m with psel := v.extractLsb' 0 4 }
  | _ => m

/-- The offsets of the registers of the partition that PSEL names (R361). -/
def partitionOffset (off : Nat) : Bool := 0x204 ≤ off && off < 0x380

/-- A write at an offset of the MGC's window; partition registers take none before READY (R365). -/
def writeMgc (s : State) (off : Nat) (v : Word) : State :=
  let part := s.mgc.psel.toNat
  if off % 4 != 0 || (partitionOffset off && !deviceReady s) then s
  else if off == 0x30 then retireWrite s true v
  else if off == 0x80 then writeErsel s v
  else if off == 0x88 then eridxWrite s true v
  else if off == 0x100 then attestGo s true v
  else if off == 0x11C then firmwareWrite s true v
  else if off == 0x204 || off == 0x208 || off == 0x20C then writeQuads s part ((off - 0x204) / 4) v
  else if off == 0x210 then setPartition s part { getPartition s part with en := v.getLsbD 0 }
  else if 0x220 ≤ off && off < 0x2A0 then writePrange s part ((off - 0x220) / 16) (off % 16 / 4) v
  else if 0x300 ≤ off && off < 0x380 then writeHrange s part ((off - 0x300) / 16) (off % 16 / 4) v
  else if off == 0x380 then (if v == 1 && s.szl == .frozenNoRange then { s with szl := .open_ } else s)
  else { s with mgc := writeMgcPlain s.mgc off v }

/-- REGISTER_WRITE: a write to the aperture; the MGC's window answers only those with management rights (R360). -/
def registerWrite (s : State) (mgmt : Bool) (off : Nat) (v : Word) : State :=
  if off < 0x100000 then writePartition s (off / 0x10000) (off % 0x10000) v
  else if mgmt then writeMgc s (off - 0x100000) v
  else s

def execRegisterWrite (mgmt : Bool) (off : BitVec 24) (v : Word) (s : State) : Host.Outcome State Fault Refusal :=
  goesOn (registerWrite s mgmt off.toNat v)

/-! ### Reads -/

/-- What a read at an offset of a partition's window returns; offsets not listed and write-only registers read zero. -/
def readPartition (s : State) (part off : Nat) : Word :=
  let p := getPartition s part
  if off % 4 != 0 then 0
  else if 0x200 ≤ off && off < 0xA00 then
    let c := decide (0x600 ≤ off)
    readCtx (getCtx p c) (off - (if c then 0x600 else 0x200))
  else if 0x1000 ≤ off && off < 0x1800 then readQueue (getQueue p ((off - 0x1000) / 32)) (off % 32)
  else match off with
  | 0x00 => BitVec.ofNat 32 (part + 16 * Config.device.toNat)
  | 0x40 => getHalf p.fqbase false
  | 0x44 => getHalf p.fqbase true
  | 0x48 => BitVec.ofNat 32 (p.fqen.toNat * 128 + p.fqie.toNat * 64 + p.fqlogn.toNat)
  | 0x4C => p.fqhead
  | 0x50 => BitVec.ofNat 32 p.fqtail
  | 0x58 => p.slice
  | 0x64 => p.prlaunch
  | 0x68 => p.prteam
  | 0x70 => BitVec.ofNat 32 (p.invbusy.toNat * 2 ^ 31 + p.invctx.toNat * 8 + p.invkind.toNat)
  | 0x78 => getHalf p.invva false
  | 0x7C => getHalf p.invva true
  | 0x80 => getHalf p.cgbase false
  | 0x84 => getHalf p.cgbase true
  | 0x90 => getHalf p.fimpbase false
  | 0x94 => getHalf p.fimpbase true
  | 0x98 => getHalf p.pgbase false
  | 0x9C => getHalf p.pgbase true
  | _ => 0

/-- HPOIS of the selected home (R360). -/
def hpois (s : State) : Word :=
  let c := s.mgc.hsel.toNat
  if 383 < c then 0
  else
    let h := getHome s c
    BitVec.ofNat 32 (h.poison.length + 1024 * Nat.min h.poisonAdded (2 ^ 22 - 1))

/-- A partition's quads, ranges and control as the MGC's window shows them (R361). -/
def readSelected (p : Partition) (off : Nat) : Word :=
  if off == 0x204 || off == 0x208 || off == 0x20C then BitVec.ofNat 32 (p.quads.toNat / 2 ^ (32 * ((off - 0x204) / 4)))
  else if off == 0x210 then BitVec.ofNat 32 p.en.toNat
  else if 0x220 ≤ off && off < 0x2A0 then
    let r := tget p.pranges ((off - 0x220) / 16) (0, 0, false)
    (match off % 16 / 4 with
     | 0 => r.1
     | 1 => r.2.1
     | 2 => BitVec.ofNat 32 r.2.2.toNat
     | _ => 0)
  else if 0x300 ≤ off && off < 0x380 then
    let r := tget p.hranges ((off - 0x300) / 16) (0, 0, false, false)
    (match off % 16 / 4 with
     | 0 => r.1
     | 1 => r.2.1
     | 2 => BitVec.ofNat 32 (r.2.2.1.toNat + 2 * r.2.2.2.toNat)
     | _ => 0)
  else 0

/-- What a read at an offset of the MGC's window returns. -/
def readMgc (s : State) (off : Nat) : Word :=
  let m := s.mgc
  let die := m.ersel.toNat
  match off with
  | 0x00 => BitVec.ofNat 32 Config.device.toNat
  | 0x10 => m.hsel
  | 0x14 => hpois s
  | 0x20 => BitVec.ofNat 32 (m.fallow.length + 2 ^ 16 * m.fallowMax)
  | 0x24 => m.falidx
  | 0x28 => (match m.fallow[m.falidx.toNat]? with
    | some page => BitVec.ofNat 32 (2 ^ 31 + page)
    | none => 0)
  | 0x34 => BitVec.ofNat 32 (m.retired.length + 2 ^ 16 * m.retiring.isSome.toNat + 2 ^ 17 * m.retFull.toNat +
      2 ^ 18 * m.retBad.toNat)
  | 0x40 => BitVec.ofNat 32 m.direrr
  | 0x44 => BitVec.ofNat 32 m.contcnt
  | 0x48 => BitVec.ofNat 32 m.relcnt
  | 0x4C => BitVec.ofNat 32 m.frzcnt
  | 0x50 => BitVec.ofNat 32 m.seccnt
  | 0x54 => BitVec.ofNat 32 m.pstep
  | 0x80 => BitVec.ofNat 32 (die + 256 * (die < 6 && (getRecorder s die).frz).toNat)
  | 0x84 => if die < 6 then BitVec.ofNat 32 (getRecorder s die).head else 0
  | 0x88 => m.eridx
  | 0x90 => m.erdata.getD 0 0
  | 0x94 => m.erdata.getD 1 0
  | 0x98 => m.erdata.getD 2 0
  | 0x9C => m.erdata.getD 3 0
  | 0xA0 => if die < 6 then BitVec.ofNat 32 (getRecorder s die).lost else 0
  | 0xC0 => m.plim
  | 0xC4 => BitVec.ofNat 32 ((deviceReady s).toNat + 2 * m.clockStep + 256 * m.trip.toNat)
  | 0x100 => BitVec.ofNat 32 (2 * m.attbusy.toNat + 4 * m.attdone.toNat + 8 * m.attfail.toNat)
  | 0x108 => getHalf m.attva false
  | 0x10C => getHalf m.attva true
  | 0x110 => getHalf m.fwva false
  | 0x114 => getHalf m.fwva true
  | 0x118 => m.fwlen
  | 0x11C => BitVec.ofNat 32 (2 * m.fwbusy.toNat + 4 * m.fwdone.toNat + 8 * m.fwfail.toNat + 16 * m.fwtype.toNat)
  | 0x200 => m.psel.setWidth 32
  | _ => if off % 4 == 0 then readSelected (getPartition s m.psel.toNat) off else 0

/-- What a read of the aperture returns. -/
def registerRead (s : State) (mgmt : Bool) (off : Nat) : Word :=
  if off < 0x100000 then readPartition s (off / 0x10000) (off % 0x10000)
  else if mgmt then readMgc s (off - 0x100000)
  else 0

end Sys2Proof.Machine
end

