-- ==== Sys2Proof/Machine/Special.lean ====
section
/-! DEFINITION. Special registers: MOVSR and SETSR (10 R222, R223) over the table of 08 R176 and R177. -/

namespace Sys2Proof.Machine

open Sys2Proof

/-- Value of a special register in a lane (R176). Slot values are those of the issuing slot before this instruction
is counted. -/
def specialReg (c : Cx) (idx l : Nat) : Word :=
  let s := c.pre
  let w := c.preW
  let team := findTeam? s w.team
  let grid := gridOf s w
  let num (n : Nat) : Word := BitVec.ofNat 32 n
  let nx := grid.elim 0 (·.r.ntx)
  let ny := grid.elim 0 (·.r.nty)
  let lin := team.elim 0 (·.lin)
  match idx with
  | 0 => num l
  | 1 => num w.index
  | 2 => num (lin % nx)
  | 3 => num (lin / nx % ny)
  | 4 => num (lin / nx / ny)
  | 5 => num nx
  | 6 => num ny
  | 7 => num (grid.elim 0 (·.r.ntz))
  | 8 => num (grid.elim 0 (·.r.w))
  | 9 => num lin
  | 10 => launchOf s w
  | 11 => num w.core
  | 12 => num (quadOf w.core % 24)
  | 13 => num (dieOf w.core)
  | 14 => Config.device.setWidth 32
  | 15 => (roleOf w).setWidth 32
  | 16 => num c.n.toNat
  | 17 => c.slot.mask
  | 18 => w.flags
  | 19 => w.lanectl
  | 20 => w.trapen
  | 21 => num s.cycle
  | 22 => w.clkhi
  | 23 => c.slot.sig
  | 24 => w.cnt
  | 25 => w.rowprog
  | 26 => lowWord (grid.elim 0 (·.r.param))
  | 27 => highWord (grid.elim 0 (·.r.param))
  | 28 => num (team.elim 0 (·.baseOn c.preW.core))
  | 29 => w.passes
  | 30 => w.cause
  | _ => w.tval

/-- MOVSR: a read of CLKLO latches the upper half for CLKHI (R222). -/
def movsrEff (o : MovsrOp) (c : Cx) : Eff :=
  let r := c.results none o.dst (fun l => Res.w (specialReg c o.idx.toNat l))
  if o.idx == 21 then .go (setWarp c.s { c.w with clkhi := BitVec.ofNat 32 (c.pre.cycle / 2 ^ 32) }) r.1
  else .write r.1 r.2

def execMovsr (o : MovsrOp) (s : State) : Host.Outcome State Fault Refusal := issue (.movsr o) (movsrEff o) s

/-- The warp with a special register written, if the value sets no reserved bit and the register may be written
(R30, R176, R177, R195, R223). -/
def setSpecial (w : Warp) (idx : Nat) (v : Word) : Option Warp :=
  match idx with
  | 18 => if v &&& 0xFFFFFE00 == 0 then some { w with flags := v } else none
  | 19 => if v.toNat < 3 then some { w with lanectl := v } else none
  | 20 => if v &&& 0xFFFFFE00 == 0 then some { w with trapen := v } else none
  | 24 => some { w with cnt := v }
  | 29 => some { w with passes := v }
  | 30 => if w.trap.isSome && v &&& 0xFFFF0000 == 0 then some { w with cause := v } else none
  | 31 => if w.trap.isSome then some { w with tval := v } else none
  | _ => none

/-- SETSR: the warp issues nothing else for 4 cycles (R179, R223). -/
def setsrEff (o : SetsrOp) (c : Cx) : Eff :=
  match setSpecial c.w o.idx.toNat (c.sval o.val) with
  | none => .trap 0x01 1 (firstParcels c.instr).1
  | some w =>
    let later (x : Slot) : Slot := { x with readyAt := Nat.max x.readyAt (c.s.cycle + 4) }
    .go (setWarp c.s { w with slot0 := w.slot0.map later, slot1 := w.slot1.map later }) []

def execSetsr (o : SetsrOp) (s : State) : Host.Outcome State Fault Refusal := issue (.setsr o) (setsrEff o) s

end Sys2Proof.Machine
end

