-- ==== Sys2Proof/Machine/Dispatch.lean ====
section
/-! DEFINITION. One arm for each instruction and event: a call of its meaning. -/

namespace Sys2Proof.Machine

open Sys2Proof

/-- What an instruction or an event does. -/
def exec (i : Instr) (s : State) : Host.Outcome State Fault Refusal :=
  match i with
  | .add o => Sys2Proof.Machine.execAdd o s
  | .sub o => Sys2Proof.Machine.execSub o s
  | .adds o => Sys2Proof.Machine.execAdds o s
  | .subs o => Sys2Proof.Machine.execSubs o s
  | .mul o => Sys2Proof.Machine.execMul o s
  | .mulh o => Sys2Proof.Machine.execMulh o s
  | .mad o => Sys2Proof.Machine.execMad o s
  | .madw o => Sys2Proof.Machine.execMadw o s
  | .div o => Sys2Proof.Machine.execDiv o s
  | .rem o => Sys2Proof.Machine.execRem o s
  | .min o => Sys2Proof.Machine.execMin o s
  | .max o => Sys2Proof.Machine.execMax o s
  | .abs o => Sys2Proof.Machine.execAbs o s
  | .neg o => Sys2Proof.Machine.execNeg o s
  | .and o => Sys2Proof.Machine.execAnd o s
  | .or o => Sys2Proof.Machine.execOr o s
  | .xor o => Sys2Proof.Machine.execXor o s
  | .andn o => Sys2Proof.Machine.execAndn o s
  | .not o => Sys2Proof.Machine.execNot o s
  | .shl o => Sys2Proof.Machine.execShl o s
  | .shr o => Sys2Proof.Machine.execShr o s
  | .sar o => Sys2Proof.Machine.execSar o s
  | .rotl o => Sys2Proof.Machine.execRotl o s
  | .funs o => Sys2Proof.Machine.execFuns o s
  | .popc o => Sys2Proof.Machine.execPopc o s
  | .clz o => Sys2Proof.Machine.execClz o s
  | .ctz o => Sys2Proof.Machine.execCtz o s
  | .brev o => Sys2Proof.Machine.execBrev o s
  | .bfx o => Sys2Proof.Machine.execBfx o s
  | .bfi o => Sys2Proof.Machine.execBfi o s
  | .lea o => Sys2Proof.Machine.execLea o s
  | .mov o => Sys2Proof.Machine.execMov o s
  | .cmp o => Sys2Proof.Machine.execCmp o s
  | .fcmp o => Sys2Proof.Machine.execFcmp o s
  | .sel o => Sys2Proof.Machine.execSel o s
  | .bitop o => Sys2Proof.Machine.execBitop o s
  | .shfl o => Sys2Proof.Machine.execShfl o s
  | .vote o => Sys2Proof.Machine.execVote o s
  | .wred o => Sys2Proof.Machine.execWred o s
  | .wscan o => Sys2Proof.Machine.execWscan o s
  | .matchLanes o => Sys2Proof.Machine.execMatchLanes o s
  | .cvt o => Sys2Proof.Machine.execCvt o s
  | .pack o => Sys2Proof.Machine.execPack o s
  | .unpk o => Sys2Proof.Machine.execUnpk o s
  | .frnd o => Sys2Proof.Machine.execFrnd o s
  | .movsr o => Sys2Proof.Machine.execMovsr o s
  | .setsr o => Sys2Proof.Machine.execSetsr o s
  | .fadd o => Sys2Proof.Machine.execFadd o s
  | .fsub o => Sys2Proof.Machine.execFsub o s
  | .fmul o => Sys2Proof.Machine.execFmul o s
  | .ffma o => Sys2Proof.Machine.execFfma o s
  | .fmin o => Sys2Proof.Machine.execFmin o s
  | .fmax o => Sys2Proof.Machine.execFmax o s
  | .fabs o => Sys2Proof.Machine.execFabs o s
  | .fneg o => Sys2Proof.Machine.execFneg o s
  | .fcps o => Sys2Proof.Machine.execFcps o s
  | .fclass o => Sys2Proof.Machine.execFclass o s
  | .fdiv o => Sys2Proof.Machine.execFdiv o s
  | .fscl o => Sys2Proof.Machine.execFscl o s
  | .fxtr o => Sys2Proof.Machine.execFxtr o s
  | .fdot2 o => Sys2Proof.Machine.execFdot2 o s
  | .fsat o => Sys2Proof.Machine.execFsat o s
  | .exp2 o => Sys2Proof.Machine.execExp2 o s
  | .log2 o => Sys2Proof.Machine.execLog2 o s
  | .rcp o => Sys2Proof.Machine.execRcp o s
  | .rsq o => Sys2Proof.Machine.execRsq o s
  | .sqrt o => Sys2Proof.Machine.execSqrt o s
  | .sinp o => Sys2Proof.Machine.execSinp o s
  | .cosp o => Sys2Proof.Machine.execCosp o s
  | .tanh o => Sys2Proof.Machine.execTanh o s
  | .sigm o => Sys2Proof.Machine.execSigm o s
  | .erf o => Sys2Proof.Machine.execErf o s
  | .exp o => Sys2Proof.Machine.execExp o s
  | .loge o => Sys2Proof.Machine.execLoge o s
  | .gelu o => Sys2Proof.Machine.execGelu o s
  | .silu o => Sys2Proof.Machine.execSilu o s
  | .bra o => Sys2Proof.Machine.execBra o s
  | .brc o => Sys2Proof.Machine.execBrc o s
  | .join => Sys2Proof.Machine.execJoin s
  | .call o => Sys2Proof.Machine.execCall o s
  | .ret j => Sys2Proof.Machine.execRet j s
  | .jmpi j => Sys2Proof.Machine.execJmpi j s
  | .loop o => Sys2Proof.Machine.execLoop o s
  | .exit g => Sys2Proof.Machine.execExit g s
  | .yield => Sys2Proof.Machine.execYield s
  | .nop => Sys2Proof.Machine.execNop s
  | .sleep c => Sys2Proof.Machine.execSleep c s
  | .ld o => Sys2Proof.Machine.execLd o s
  | .st o => Sys2Proof.Machine.execSt o s
  | .stnt o => Sys2Proof.Machine.execStnt o s
  | .lds o => Sys2Proof.Machine.execLds o s
  | .sts o => Sys2Proof.Machine.execSts o s
  | .ldck o => Sys2Proof.Machine.execLdck o s
  | .stck o => Sys2Proof.Machine.execStck o s
  | .pref o => Sys2Proof.Machine.execPref o s
  | .atom o => Sys2Proof.Machine.execAtom o s
  | .red o => Sys2Proof.Machine.execRed o s
  | .atoms o => Sys2Proof.Machine.execAtoms o s
  | .fence o => Sys2Proof.Machine.execFence o s
  | .drnt => Sys2Proof.Machine.execDrnt s
  | .redf sc => Sys2Proof.Machine.execRedf sc s
  | .invl o => Sys2Proof.Machine.execInvl o s
  | .wbl o => Sys2Proof.Machine.execWbl o s
  | .rsync => Sys2Proof.Machine.execRsync s
  | .bar o => Sys2Proof.Machine.execBar o s
  | .wait o => Sys2Proof.Machine.execWait o s
  | .waitw o => Sys2Proof.Machine.execWaitw o s
  | .rarv o => Sys2Proof.Machine.execRarv o s
  | .rwt o => Sys2Proof.Machine.execRwt o s
  | .tflag t => Sys2Proof.Machine.execTflag t s
  | .wake o => Sys2Proof.Machine.execWake o s
  | .nbsa accd d => Sys2Proof.Machine.execNbsa accd d s
  | .nbcp d => Sys2Proof.Machine.execNbcp d s
  | .nbzr d => Sys2Proof.Machine.execNbzr d s
  | .nbopt d => Sys2Proof.Machine.execNbopt d s
  | .nbfn => Sys2Proof.Machine.execNbfn s
  | .mma o => Sys2Proof.Machine.execMma o s
  | .mmao o => Sys2Proof.Machine.execMmao o s
  | .acz o => Sys2Proof.Machine.execAcz o s
  | .acld o => Sys2Proof.Machine.execAcld o s
  | .acst o => Sys2Proof.Machine.execAcst o s
  | .tdrn o => Sys2Proof.Machine.execTdrn o s
  | .acsc o => Sys2Proof.Machine.execAcsc o s
  | .acmx o => Sys2Proof.Machine.execAcmx o s
  | .acex o => Sys2Proof.Machine.execAcex o s
  | .cpt o => Sys2Proof.Machine.execCpt o s
  | .cpg o => Sys2Proof.Machine.execCpg o s
  | .cps o => Sys2Proof.Machine.execCps o s
  | .cpq d => Sys2Proof.Machine.execCpq d s
  | .card o => Sys2Proof.Machine.execCard o s
  | .cagt o => Sys2Proof.Machine.execCagt o s
  | .cata o => Sys2Proof.Machine.execCata o s
  | .cbct o => Sys2Proof.Machine.execCbct o s
  | .sreg o => Sys2Proof.Machine.execSreg o s
  | .sld o => Sys2Proof.Machine.execSld o s
  | .sst o => Sys2Proof.Machine.execSst o s
  | .shrd o => Sys2Proof.Machine.execShrd o s
  | .slda o => Sys2Proof.Machine.execSlda o s
  | .ssta o => Sys2Proof.Machine.execSsta o s
  | .scmt o => Sys2Proof.Machine.execScmt o s
  | .snrm o => Sys2Proof.Machine.execSnrm o s
  | .sigchk v => Sys2Proof.Machine.execSigchk v s
  | .sigrd d => Sys2Proof.Machine.execSigrd d s
  | .ckgen o => Sys2Proof.Machine.execCkgen o s
  | .cktst o => Sys2Proof.Machine.execCktst o s
  | .trap v => Sys2Proof.Machine.execTrap v s
  | .rett skip => Sys2Proof.Machine.execRett skip s
  | .lnch o => Sys2Proof.Machine.execLnch o s
  | .prgs v => Sys2Proof.Machine.execPrgs v s
  | .bkpt v => Sys2Proof.Machine.execBkpt v s
  | .tlbi k => Sys2Proof.Machine.execTlbi k s
  | .halt => Sys2Proof.Machine.execHalt s
  | .halfMov o => Sys2Proof.Machine.execHalfMov o s
  | .halfMovi o => Sys2Proof.Machine.execHalfMovi o s
  | .halfAdd o => Sys2Proof.Machine.execHalfAdd o s
  | .halfAddi o => Sys2Proof.Machine.execHalfAddi o s
  | .halfSub o => Sys2Proof.Machine.execHalfSub o s
  | .halfAnd o => Sys2Proof.Machine.execHalfAnd o s
  | .halfOr o => Sys2Proof.Machine.execHalfOr o s
  | .halfXor o => Sys2Proof.Machine.execHalfXor o s
  | .halfShli o => Sys2Proof.Machine.execHalfShli o s
  | .halfShri o => Sys2Proof.Machine.execHalfShri o s
  | .halfSari o => Sys2Proof.Machine.execHalfSari o s
  | .halfMin o => Sys2Proof.Machine.execHalfMin o s
  | .halfMax o => Sys2Proof.Machine.execHalfMax o s
  | .halfMul o => Sys2Proof.Machine.execHalfMul o s
  | .halfFadd o => Sys2Proof.Machine.execHalfFadd o s
  | .halfFsub o => Sys2Proof.Machine.execHalfFsub o s
  | .halfFmul o => Sys2Proof.Machine.execHalfFmul o s
  | .halfFmac o => Sys2Proof.Machine.execHalfFmac o s
  | .halfFmin o => Sys2Proof.Machine.execHalfFmin o s
  | .halfFmax o => Sys2Proof.Machine.execHalfFmax o s
  | .halfHadd o => Sys2Proof.Machine.execHalfHadd o s
  | .halfHmul o => Sys2Proof.Machine.execHalfHmul o s
  | .halfHmac o => Sys2Proof.Machine.execHalfHmac o s
  | .halfCvtf o => Sys2Proof.Machine.execHalfCvtf o s
  | .halfCvti o => Sys2Proof.Machine.execHalfCvti o s
  | .halfNot o => Sys2Proof.Machine.execHalfNot o s
  | .halfAbs o => Sys2Proof.Machine.execHalfAbs o s
  | .halfFabs o => Sys2Proof.Machine.execHalfFabs o s
  | .halfFneg o => Sys2Proof.Machine.execHalfFneg o s
  | .halfNop o => Sys2Proof.Machine.execHalfNop o s
  | .illegalInstructionWord x => Sys2Proof.Machine.execIllegalInstructionWord x s
  | .loadValueLands op remote => Sys2Proof.Machine.execLoadValueLands op remote s
  | .storeAcknowledged op => Sys2Proof.Machine.execStoreAcknowledged op s
  | .acquireCompletes acq => Sys2Proof.Machine.execAcquireCompletes acq s
  | .releaseWaitEnds op => Sys2Proof.Machine.execReleaseWaitEnds op s
  | .gangRelaunch gang => Sys2Proof.Machine.execGangRelaunch gang s
  | .homeRSi req dirErr => Sys2Proof.Machine.execHomeRSi req dirErr s
  | .homeRWi req dirErr => Sys2Proof.Machine.execHomeRWi req dirErr s
  | .homeOwn req dirErr => Sys2Proof.Machine.execHomeOwn req dirErr s
  | .homeWrh req dirErr => Sys2Proof.Machine.execHomeWrh req dirErr s
  | .homeSur r => Sys2Proof.Machine.execHomeSur r s
  | .recallWriteback wb dirErr => Sys2Proof.Machine.execRecallWriteback wb dirErr s
  | .noticeInjection ch => Sys2Proof.Machine.execNoticeInjection ch s
  | .towpathInv => Sys2Proof.Machine.execTowpathInv s
  | .towpathRcw => Sys2Proof.Machine.execTowpathRcw s
  | .towpathRca => Sys2Proof.Machine.execTowpathRca s
  | .fillArrives msg => Sys2Proof.Machine.execFillArrives msg s
  | .grantArrives msg => Sys2Proof.Machine.execGrantArrives msg s
  | .homeAtomic r => Sys2Proof.Machine.execHomeAtomic r s
  | .waitwReevaluation warp slot => Sys2Proof.Machine.execWaitwReevaluation warp slot s
  | .waitwPoll warp slot => Sys2Proof.Machine.execWaitwPoll warp slot s
  | .watchEntryTaken warp slot => Sys2Proof.Machine.execWatchEntryTaken warp slot s
  | .sleepExpiry warp slot => Sys2Proof.Machine.execSleepExpiry warp slot s
  | .yieldTimeout warp slot => Sys2Proof.Machine.execYieldTimeout warp slot s
  | .softEntryStaged op => Sys2Proof.Machine.execSoftEntryStaged op s
  | .commitArrival op => Sys2Proof.Machine.execCommitArrival op s
  | .scmtCompletes c => Sys2Proof.Machine.execScmtCompletes c s
  | .copyRow c => Sys2Proof.Machine.execCopyRow c s
  | .copyCompletes copy => Sys2Proof.Machine.execCopyCompletes copy s
  | .collectiveBlock inst peers => Sys2Proof.Machine.execCollectiveBlock inst peers s
  | .collectiveCompletes inst => Sys2Proof.Machine.execCollectiveCompletes inst s
  | .ploughPartAccepted part => Sys2Proof.Machine.execPloughPartAccepted part s
  | .ploughRowStep p => Sys2Proof.Machine.execPloughRowStep p s
  | .ploughPartCompletes part => Sys2Proof.Machine.execPloughPartCompletes part s
  | .crossChannelGranule p => Sys2Proof.Machine.execCrossChannelGranule p s
  | .matrixOperationStart core side => Sys2Proof.Machine.execMatrixOperationStart core side s
  | .matrixOperationFinishes core side => Sys2Proof.Machine.execMatrixOperationFinishes core side s
  | .mxCounterFall op => Sys2Proof.Machine.execMxCounterFall op s
  | .arrayStaggeredStart core => Sys2Proof.Machine.execArrayStaggeredStart core s
  | .launchRecordTaken part image => Sys2Proof.Machine.execLaunchRecordTaken part image s
  | .teamPlacement part => Sys2Proof.Machine.execTeamPlacement part s
  | .l1Resize core units => Sys2Proof.Machine.execL1Resize core units s
  | .registerCompaction core => Sys2Proof.Machine.execRegisterCompaction core s
  | .planeSwap core => Sys2Proof.Machine.execPlaneSwap core s
  | .deadlinePreemption part => Sys2Proof.Machine.execDeadlinePreemption part s
  | .teamSave team => Sys2Proof.Machine.execTeamSave team s
  | .teamRestore team => Sys2Proof.Machine.execTeamRestore team s
  | .gridBarrierRotation grid => Sys2Proof.Machine.execGridBarrierRotation grid s
  | .podBarrierMessage part group rank n arrivals drops => Sys2Proof.Machine.execPodBarrierMessage part group rank n arrivals drops s
  | .podPhaseCompletion part group n => Sys2Proof.Machine.execPodPhaseCompletion part group n s
  | .gridCompletes grid => Sys2Proof.Machine.execGridCompletes grid s
  | .pageWalk walk => Sys2Proof.Machine.execPageWalk walk s
  | .faultRecordWrite part => Sys2Proof.Machine.execFaultRecordWrite part s
  | .fqhead part v => Sys2Proof.Machine.execFqhead part v s
  | .resumeRetry part v => Sys2Proof.Machine.execResumeRetry part v s
  | .resumeError part v => Sys2Proof.Machine.execResumeError part v s
  | .resumeDiscard part v => Sys2Proof.Machine.execResumeDiscard part v s
  | .prdead part d => Sys2Proof.Machine.execPrdead part d s
  | .invctlPage part v => Sys2Proof.Machine.execInvctlPage part v s
  | .invctlContext part v => Sys2Proof.Machine.execInvctlContext part v s
  | .invctlAll part v => Sys2Proof.Machine.execInvctlAll part v s
  | .invalidationCompletes inv => Sys2Proof.Machine.execInvalidationCompletes inv s
  | .registerWrite mgmt off v => Sys2Proof.Machine.execRegisterWrite mgmt off v s
  | .hostWrite pa ws => Sys2Proof.Machine.execHostWrite pa ws s
  | .hostRead pa n => Sys2Proof.Machine.execHostRead pa n s
  | .fabricRequest r => Sys2Proof.Machine.execFabricRequest r s
  | .thilosLinkDown port peer => Sys2Proof.Machine.execThilosLinkDown port peer s
  | .retire mgmt v => Sys2Proof.Machine.execRetire mgmt v s
  | .eridx mgmt v => Sys2Proof.Machine.execEridx mgmt v s
  | .attestationGo mgmt v => Sys2Proof.Machine.execAttestationGo mgmt v s
  | .attestationDone => Sys2Proof.Machine.execAttestationDone s
  | .firmwareStage mgmt v => Sys2Proof.Machine.execFirmwareStage mgmt v s
  | .firmwareStagingDone => Sys2Proof.Machine.execFirmwareStagingDone s
  | .szlrel mgmt v => Sys2Proof.Machine.execSzlrel mgmt v s
  | .powerCheck watts temp => Sys2Proof.Machine.execPowerCheck watts temp s
  | .trip thermal v => Sys2Proof.Machine.execTrip thermal v s
  | .reset cause => Sys2Proof.Machine.execReset cause s
  | .quadPowerUp quad => Sys2Proof.Machine.execQuadPowerUp quad s
  | .retirementCompletes => Sys2Proof.Machine.execRetirementCompletes s
  | .standbyPowerLoss => Sys2Proof.Machine.execStandbyPowerLoss s
  | .podRegistration part group rank count => Sys2Proof.Machine.execPodRegistration part group rank count s

end Sys2Proof.Machine
end

