-- ==== Sys2Proof/Machine/Place.lean ====
section
/-! DEFINITION. A program loaded from outside for `State.withFetchWord`: one partition with one context, one grid of
one team of one warp on core 0, its code in HBM (log 8). -/

namespace Sys2Proof.Machine

open Sys2Proof

/-- Where the code of the placed program lies, as a virtual and a physical address. -/
def programBase : Nat := 0x10000

/-- A launch record of a one-warp team with every resource it can declare. -/
def programRecord : LaunchRec :=
  { entry := BitVec.ofNat 64 programBase, ntx := 1, nty := 1, ntz := 1, w := 1, c := 0, roles := 3, regs := 256, acc := 16,
    nring := 1, nbar := 1, nsoft := 16, scratch := 1024, dstk := 8, ringtab := 0, relaunch := false, gridbar := true,
    fusel1 := false, spread := false, prio := 0, dclass := 0, podgrp := 0, cint := false, param := 0, prod := 0,
    dep := false, map := 0, rb := 0, tiles := 1, compva := 0, saveva := 0 }

def programGrid : Grid :=
  { uid := 1, launch := 0, part := 0, queue := 0, ctx := false, r := programRecord, ringWords := [0], scratchInit := [],
    nextTeam := 1, skipped := [], relaunches := [], ended := 0, failed := none, reason := 0, relaunchCount := 0, tiles := [],
    bars := [{ n := 0, phase := false, registered := 32, arrived := 0, leaving := 0 }], waitingSince := 0,
    requested := false }

def programTeam : Team :=
  { uid := 2, grid := 1, lin := 0, gang := 3, cores := [0], planes := [false], spBases := [0xDFF80], blockSize := 0x20080,
    place := .resident, halting := false, compacting := false, reserve := false, decision := .none, deadline := 0, accBase := [0],
    rings := [[{ fill := 1, drain := 1, chambers := [{ full := false, phase := false, count := 0 }] }]],
    bars := [{ n := 0, phase := false, registered := 32, arrived := 0, leaving := 0 }], progress := 0, since := 0,
    images := [], rotated := false }

def programGang : Gang :=
  { uid := 3, grid := 1, quads := [0], open_ := true, relaunches := 0,
    bars := [{ n := 0, phase := false, registered := 32, arrived := 0, leaving := 0 }] }

/-- A warp at its entry point (R9). -/
def programWarp : Warp :=
  { uid := 4, team := 2, index := 0, core := 0, ws := 0, regs := 256, regBase := 0, stackBase := 0xFFF80, dstk := 8,
    role := 3,
    slot0 := some { pc := 0, mask := 0xFFFFFFFF, join := none, sig := 0, shadow := 0xFFFFFFFF, block := .none,
                    readyAt := 0, readySince := none, heldBack := false },
    slot1 := none, depth := 0, ctrs := ⟨0, 0, 0, 0, 0, 0⟩, flags := 0, lanectl := 0, trapen := 0, cnt := 0, passes := 0,
    cause := 0, tval := 0, clkhi := 0, latestCopy := 0, rowprog := 0, copyRows := 0, window := [], seq := 0, trap := none,
    reports := [], handles := List.replicate 16 { desc := none, sq := 0, ew := 0, lq := 0 }, bars := [], acquires := [],
    holds := [], ploughError := none, stop := .running, placed := 0 }

/-- Context 0 with virtual equal to physical addresses over the whole of HBM. -/
def programCtx : Ctx :=
  { en := true, priv := false, fimp := false, ptroot := 0, tvec := 0,
    ranges := [(0, { base := 0, limit := BitVec.ofNat 64 hbmEnd, pbase := 0, ctl := 0x51 })] }

def programPartition : Partition :=
  { Partition.dflt with quads := 1, en := true, pranges := [(0, (0, 600, true))], ctx0 := programCtx }

/-- The state with a program's parcels in memory and its warp the next to issue. -/
def placeProgram (s : State) (ps : List Word) : State :=
  { s with agenda := [.issue 0 0 0], nextId := 5, quads := tset s.quads 0 { powered := true, fused := false },
           warps := [programWarp], teams := [programTeam], gangs := [programGang], grids := [programGrid],
           partitions := [(0, programPartition)], hbm := s.hbm.setWords (programBase / 4) (ps.map good) }

end Sys2Proof.Machine
end

