-- ==== Sys2Proof/Machine/Step.lean ====
section
/-! DEFINITION. One step of the machine: a move, and what it does. -/

namespace Sys2Proof.Machine

open Sys2Proof

/-- The state with the step's bookkeeping done after a move: answers to records that can act now do (R348), and slots note
since when they are ready (R334). -/
def afterMove (o : Host.Outcome State Fault Refusal) : Host.Outcome State Fault Refusal :=
  match o with
  | .next s => .next (settle (serveAnswers s) (wasHeld s))
  | o => o

/-- A scheduler of a core starts an instruction, if a slot of its is ready: fetch, decode, execute. -/
def stepIssue (core sched : Nat) (s : State) : Host.Outcome State Fault Refusal :=
  match pickSlot s core sched with
  | none => .next s
  | some (w, n, x) =>
    let s := startIssue s w n x
    match findWarp? s w.uid with
    | none => .next s
    | some w =>
      match fetch s w n x.pc with
      | .stop s => .next s
      | .parcels ps s => exec (instrOf ps) s

/-- What a move does. -/
def stepMove (m : Move) (s : State) : Host.Outcome State Fault Refusal :=
  if s.mgc.trip && !tripAllows m then .next s
  else
    match m with
    | .issue dt core sched => stepIssue core sched (advance s dt)
    | .event dt e => exec e (advance s dt)

/-- One step: the next move happens. -/
def step (s : State) : Host.Outcome State Fault Refusal :=
  let m := nextMove s
  afterMove (stepMove m.1 { s with tick := s.tick + 1, agenda := m.2, cur := none })

/-- The state with an instruction stored where step fetches its next one: a resident team of one warp whose slot is
the next to issue (Machine/Place.lean). -/
def State.withFetchWord (s : State) (nbits w : Nat) : State := placeProgram s (tableParcels nbits w)

end Sys2Proof.Machine
end

