-- ==== Sys2Proof/Safety.lean ====
section
/-! DEFINITION. The terms in which claims speak: a step that goes on, an instruction that nothing keeps from
executing, what its issue leaves in the warp, results of lanes and elements, rounding as the reals have it, the memories,
and ready times. -/

namespace Sys2Proof.Machine

open Sys2Proof

/-! ### Outcomes and states -/

/-- The outcome is a next state. -/
def Goes (o : Host.Outcome State Fault Refusal) : Prop := ∃ t, o = .next t

/-- Every memory of the device is in canonical form. -/
def State.memWf (s : State) : Bool := s.hbm.wf && s.host.wf && s.store.wf

/-- A slot has a ready time exactly while it is ready. -/
def slotTimed (s : State) (w : Warp) (x : Slot) : Bool := x.readySince.isSome == slotReady s w x

/-- Every live slot of the device is timed so. -/
def State.timed (s : State) : Bool :=
  s.warps.all (fun w => w.slot0.toList.all (slotTimed s w) && w.slot1.toList.all (slotTimed s w))

/-- Between steps no slot is issuing, and ready times are kept for the ready slots. -/
def State.settled (s : State) : Prop := s.cur = none ∧ s.timed = true

/-! ### An instruction that executes -/

/-- What an instruction finds when it issues. -/
abbrev finds (s : State) (w : Warp) (n : Bool) (x : Slot) (i : Instr) : Cx := Cx.make s w n x i

/-- What holds an instruction at issue before its checks: EXIT waits for the counters, the drains and the
releases of a warp that it would end (R230, R372), NBFN for the warp's plough operations (R275), a copy while its quad has no room for it (R291), a
matrix operation while four of its unit wait (R279). -/
def waitsFirst (i : Instr) (c : Cx) : Bool :=
  match i with
  | .exit g => exitHeld g c
  | .nbfn => nbfnHeld c
  | .cpt _ | .cpg _ | .cps _ => tceFull c
  | .mma _ | .mmao _ | .acz _ | .acld _ | .acst _ => mxFull false c
  | .tdrn _ | .acsc _ | .acmx _ | .acex _ => mxFull true c
  | _ => false

/-- Slot `n` of warp `w`, which holds `x`, issues `i` and nothing keeps `i` from executing: it is the slot that is
issuing; no counter at 63, fence, acquire, deferred report or full queue holds it back (R26, R97, R99, R281); the checks
that come before its own are passed (R21, R22, R114, R160, R163, R174); and the register banks hold no error (R54). -/
structure Issues (i : Instr) (s : State) (w : Warp) (n : Bool) (x : Slot) : Prop where
  cur : s.cur = some (w.uid, n)
  warp : findWarp? s w.uid = some w
  slot : w.slot? n = some x
  free : gated s w i = false
  noReport : w.reports.find? i.takes = none
  limits : beyondLimits s w i = false
  role : i.role.admits (roleOf w) = true
  privilege : (i.privileged && !mayPrivileged s w i) = false
  noUpset : s.upsets = []
  ready : waitsFirst i (finds s w n x i) = false

/-- The counters with one more operation of an instruction outstanding (R26). -/
def raised (w : Warp) (i : Instr) : Counters :=
  match i.ctr with
  | none => w.ctrs
  | some k => w.ctrs.set k (w.ctrs.get k + 1)

/-- The state after `i` has issued and its results and flags have entered: program counter, SIG, CNT, the issue number
and the outstanding counter have moved on, FLAGS gathers the flags, the results are the newest of the window; nothing
else changes but the results that leave the window for the banks (R26, R27, R152, R176, R196). -/
def issued (s : State) (w : Warp) (n : Bool) (x : Slot) (i : Instr) (ws : List (Nat × Word)) (fl : Word) : State :=
  let v := countedWarp w n x i
  pushWindow (setWarp s { v with flags := v.flags ||| fl }) w.uid ws

/-- The state in which the trap handler starts for flags that TRAPEN enables: the results and the flags are there
(R196, R350). -/
def flagTrapped (s : State) (w : Warp) (n : Bool) (i : Instr) (ws : List (Nat × Word)) (fl : Word) : State :=
  enterTrap (pushWindow (setWarp s { w with flags := w.flags ||| fl }) w.uid ws) w.uid n i.size
    (flagCause (fl &&& w.trapen)) 0 (fl &&& w.trapen)

/-- `i` gives each participating lane a result as `P` says, and nothing else happens; flags that TRAPEN enables trap
once the results are there. -/
def GivesLanes (i : Instr) (g : Guard) (d : Dst) (P : Cx → Nat → Res → Prop) : Prop :=
  ∀ s w n x, Issues i s w n x →
    ∃ r : Nat → Res, (∀ l, P (finds s w n x i) l (r l)) ∧
      (((finds s w n x i).results g d r).2 &&& w.trapen = 0 →
        exec i s = .next (issued s w n x i ((finds s w n x i).results g d r).1 ((finds s w n x i).results g d r).2)) ∧
      (((finds s w n x i).results g d r).2 &&& w.trapen ≠ 0 → mxInFlight s w.uid = false →
        exec i s = .next (flagTrapped s w n i ((finds s w n x i).results g d r).1 ((finds s w n x i).results g d r).2))

/-- Warp `w` of `t` is that of `s` with `i` counted: CNT, the issue number and the counters have moved on, and slot `n`
stands at the next instruction with its signature (R26, R152, R176). -/
def Counted (s t : State) (w : Warp) (n : Bool) (x : Slot) (i : Instr) : Prop :=
  ∃ v y, findWarp? s w.uid = some w ∧ findWarp? t w.uid = some v ∧ v.slot? n = some y ∧ v.cnt = w.cnt + 1 ∧
    v.seq = w.seq + 1 ∧ v.ctrs = raised w i ∧ v.flags = w.flags ∧ y.pc = x.pc + BitVec.ofNat 32 i.size ∧
    y.sig = countSig w x i ∧ y.mask = x.mask

/-- HBM and host memory hold what they held. -/
def MemoryKept (s t : State) : Prop := t.hbm = s.hbm ∧ t.host = s.host

/-- Store words hold what they held, but for register words of `w` whose results were in its window (R27). -/
def StoreKept (s t : State) (w : Warp) : Prop :=
  ∀ k, (∀ e ∈ w.window, ∀ p ∈ e, k ≠ regBank s w + p.1) → t.store.word k = s.store.word k

/-! ### Results by elements -/

/-- Element `k` of width `w` of a value (R184). -/
def elemAt (w k v : Nat) : Nat := v / 2 ^ (w * k) % 2 ^ w

/-- The value of one or two result words (R185). -/
def wordsNat : List Word → Nat
  | [] => 0
  | a :: rest => a.toNat + 2 ^ 32 * wordsNat rest

/-- A result of a type: as many words as it has, each element as `F` gives it from the elements of A and B, and flags
that are the OR of the elements'. -/
def ElemsAre (w count words : Nat) (F : Nat → Nat → Nat × Word) (a b : Nat) (r : Res) : Prop :=
  r.words.length = words ∧ (∀ k < count, elemAt w k (wordsNat r.words) = (F (elemAt w k a) (elemAt w k b)).1) ∧
    r.flags = (List.range count).foldr (fun k m => (F (elemAt w k a) (elemAt w k b)).2 ||| m) 0

/-- An exact result kept modulo 2^w, without flags. -/
def exactly (ty : IntTy) (F : Int → Int → Int) (a b : Nat) : Nat × Word :=
  (wrap (tyWidth ty) (F (ival ty.isSigned (tyWidth ty) a) (ival ty.isSigned (tyWidth ty) b)), 0)

/-- An exact result held within the type's limits, with IOV where it was not (R207). -/
def saturated (ty : IntTy) (F : Int → Int → Int) (a b : Nat) : Nat × Word :=
  let x := F (ival ty.isSigned (tyWidth ty) a) (ival ty.isSigned (tyWidth ty) b)
  let lo := intLo ty.isSigned (tyWidth ty)
  let hi := intHi ty.isSigned (tyWidth ty)
  (wrap (tyWidth ty) (min (max x lo) hi), if min (max x lo) hi = x then 0 else flIOV)

/-- Quotient and remainder with the edge cases of R209: `edge` is the result by zero, `least` that of the least value
by -1, `other` any other. -/
def divided (ty : IntTy) (zero least other : Int → Int → Int) (a b : Nat) : Nat × Word :=
  let w := tyWidth ty
  let x := ival ty.isSigned w a
  let y := ival ty.isSigned w b
  if y = 0 then (wrap w (zero x y), flIDZ)
  else if ty.isSigned = true ∧ y = -1 ∧ x = intLo true w then (wrap w (least x y), flIOV)
  else (wrap w (other x y), 0)

/-- A bit pattern of a width: bit j is as `p` says. -/
def bitsOf (w : Nat) (p : Nat → Bool) : Nat := (List.range w).foldr (fun j m => (p j).toNat + 2 * m) 0

/-- A result of a type whose elements come from those of A and B. -/
def IntResult (ty : IntTy) (a b : Src) (F : Nat → Nat → Nat × Word) (c : Cx) (l : Nat) (r : Res) : Prop :=
  ElemsAre (tyWidth ty) (tyCount ty) (wideN ty.is64) F (c.opnd ty a l) (c.opnd ty b l) r

/-- A result of a type whose elements come from those of A. -/
def UnaryResult (ty : IntTy) (a : Src) (F : Nat → Nat) (c : Cx) (l : Nat) (r : Res) : Prop :=
  ElemsAre (tyWidth ty) (tyCount ty) (wideN ty.is64) (fun x _ => (F x, 0)) (c.opnd ty a l) 0 r

/-- A result of a type whose elements come from those of A and of a count, a 32-bit word for 64-bit types (R206). -/
def CountResult (ty : IntTy) (a b : Src) (F : Nat → Nat → Nat) (c : Cx) (l : Nat) (r : Res) : Prop :=
  ElemsAre (tyWidth ty) (tyCount ty) (wideN ty.is64) (fun x y => (F x y, 0)) (c.opnd ty a l) (c.src b l).toNat r

/-- A result in one register whose elements come from those of A (R212). -/
def NarrowResult (ty : IntTy) (a : Src) (F : Nat → Nat) (c : Cx) (l : Nat) (r : Res) : Prop :=
  r.flags = 0 ∧ r.words.length = 1 ∧
    if ty.is64 then wordsNat r.words = F (c.opnd ty a l)
    else ∀ k < tyCount ty, elemAt (tyWidth ty) k (wordsNat r.words) = F (elemAt (tyWidth ty) k (c.opnd ty a l))

/-- A result of a type with a value, without flags. -/
def ValueResult (words : Nat) (v : Nat) (r : Res) : Prop := r.flags = 0 ∧ r.words.length = words ∧ wordsNat r.words = v

/-- A floating-point result, element by element of its type. -/
def FpResult (ty : FTy) (a b c3 : Src) (F : Format → Nat → Nat → Nat → Nat × Word) (c : Cx) (l : Nat) (r : Res) : Prop :=
  let f := ftyFormat ty
  let e (v : Word) (k : Nat) : Nat := elemAt f.width k v.toNat
  r.words.length = 1 ∧
    (∀ k < ftyCount ty, elemAt f.width k (wordsNat r.words) =
      (F f (e (c.src a l) k) (e (c.src b l) k) (e (c.src c3 l) k)).1) ∧
    r.flags = (List.range (ftyCount ty)).foldr (fun k m =>
      (F f (e (c.src a l) k) (e (c.src b l) k) (e (c.src c3 l) k)).2 ||| m) 0

/-! ### Compared, combined and converted values -/

/-- `i` gives the results and flags that `P` allows, and nothing else happens; flags that TRAPEN enables trap once the
results are there. -/
def Writes (i : Instr) (P : Cx → List (Nat × Word) → Word → Prop) : Prop :=
  ∀ s w n x, Issues i s w n x → ∃ ws fl, P (finds s w n x i) ws fl ∧
    (fl &&& w.trapen = 0 → exec i s = .next (issued s w n x i ws fl)) ∧
    (fl &&& w.trapen ≠ 0 → mxInFlight s w.uid = false → exec i s = .next (flagTrapped s w n i ws fl))

/-- A condition on two integers (R166). -/
def ordered (c : Cond) (x y : Int) : Bool :=
  match c with
  | .eq => decide (x = y)
  | .ne => decide (x ≠ y)
  | .lt => decide (x < y)
  | .le => decide (x ≤ y)
  | .gt => decide (y < x)
  | .ge => decide (y ≤ x)

/-- A condition on two floating-point values: with a NaN only `ne` holds, and NV is raised by a signalling one or by a
condition of order (R243). -/
def compared (c : Cond) (a b : Fp) : Bool × Word :=
  if a.isNan || b.isNan then
    (decide (c = .ne), if a.isSnan || b.isSnan || !(decide (c = .eq) || decide (c = .ne)) then flNV else 0)
  else (condHolds c (a.cmp b), 0)

/-- `p` if x is below y, -0 being below +0, else `q`; the other operand of a NaN, and NV if one signals (R239). -/
def lesser (f : Format) (x y p q : Nat) : Nat × Word :=
  let a := f.decode x
  let b := f.decode y
  let nv := if a.isSnan || b.isSnan then flNV else 0
  if a.isNan && b.isNan then (f.nan, nv)
  else if a.isNan then (y, nv)
  else if b.isNan then (x, nv)
  else if a.cmp b = .lt ∨ (a.cmp b = .eq ∧ a.neg = true ∧ b.neg = false) then (p, 0)
  else (q, 0)

/-- One combination of two values of a reduction's type, with its flags (R200, R220). -/
def combine (op : RedKind) (ty : RedTy) (x y : Nat) : Nat × Word :=
  let w := if ty.is64 then 64 else 32
  let v (a : Nat) : Int := ival (decide (ty = .i32 ∨ ty = .i64)) w a
  match op with
  | .min => if ty = .f32 then lesser fmtF32 x y x y else (if v x < v y then x else y, 0)
  | .max => if ty = .f32 then lesser fmtF32 x y y x else (if v y < v x then x else y, 0)
  | .add => if ty = .f32 then fmtF32.sum .rne [fmtF32.decode x, fmtF32.decode y] else ((x + y) % 2 ^ w, 0)
  | .and => (bitsOf w (fun j => x.testBit j && y.testBit j), 0)
  | .or => (bitsOf w (fun j => x.testBit j || y.testBit j), 0)
  | .xor => (bitsOf w (fun j => x.testBit j != y.testBit j), 0)

/-- The identity of an empty reduction: the table of R200. -/
def neutral (op : RedKind) (ty : RedTy) : Nat :=
  match op, ty with
  | .add, _ | .or, _ | .xor, _ => 0
  | .and, .i64 | .and, .n64 => 0xFFFFFFFFFFFFFFFF
  | .and, _ => 0xFFFFFFFF
  | .min, .i32 => 0x7FFFFFFF
  | .min, .n32 => 0xFFFFFFFF
  | .min, .i64 => 0x7FFFFFFFFFFFFFFF
  | .min, .n64 => 0xFFFFFFFFFFFFFFFF
  | .min, .f32 => 0x7F800000
  | .max, .i32 => 0x80000000
  | .max, .n32 => 0
  | .max, .i64 => 0x8000000000000000
  | .max, .n64 => 0
  | .max, .f32 => 0xFF800000

/-- FP32 has no bitwise reduction (R220). -/
def redLegal (op : RedKind) (ty : RedTy) : Prop := ty = .f32 → op = .add ∨ op = .min ∨ op = .max

/-- Node i of level k of the tree of R200 over the lanes' values, with the flags of the combinations under it. -/
def treeNode (op : RedKind) (ty : RedTy) (lane : Nat → Option Nat) : Nat → Nat → Option Nat × Word
  | 0, i => (lane i, 0)
  | k + 1, i =>
    let x := treeNode op ty lane k (2 * i)
    let y := treeNode op ty lane k (2 * i + 1)
    match x.1, y.1 with
    | none, v => (v, x.2 ||| y.2)
    | some u, none => (some u, x.2 ||| y.2)
    | some u, some v => (some (combine op ty u v).1, (combine op ty u v).2 ||| x.2 ||| y.2)

/-- Values combined in their order, from the first; the identity if there are none (R200, R201). -/
def combined (op : RedKind) (ty : RedTy) : List Nat → Nat
  | [] => neutral op ty
  | v :: rest => rest.foldl (fun m x => (combine op ty m x).1) v

/-- The result words of a value of a reduction's type. -/
def valueWords (ty : RedTy) (v : Nat) : List Word :=
  if ty.is64 then [lowWord (BitVec.ofNat 64 v), highWord (BitVec.ofNat 64 v)] else [BitVec.ofNat 32 v]

/-- A packed element widened: a float to FP32, an integer to the register (R249). -/
def widened (f : Fmt) (x : Nat) : Nat × Word :=
  match fmtInt? f with
  | some (w, sg) => (wrap 32 (ival sg w x), 0)
  | none => cvtElem .f32 f .rne none x

/-- The word and flags of a half from its immediate and its sources A, B and D (R172). -/
def halfWord (hop : Nat) (imm : BitVec 8) (a b d : Word) : Word × Word :=
  let fp (f : Format) (n : Nat) (g : Nat → Nat → Nat → Nat × Word) : Word × Word :=
    let r := elemMap3 f.width g n a.toNat b.toNat d.toNat
    (BitVec.ofNat 32 r.1, r.2)
  match hop with
  | 0x00 => (a, 0)
  | 0x01 => (imm.signExtend 32, 0)
  | 0x02 => (a + b, 0)
  | 0x03 => (a + imm.signExtend 32, 0)
  | 0x04 => (a - b, 0)
  | 0x05 => (a &&& b, 0)
  | 0x06 => (a ||| b, 0)
  | 0x07 => (a ^^^ b, 0)
  | 0x08 => (a <<< (imm.toNat % 32), 0)
  | 0x09 => (a >>> (imm.toNat % 32), 0)
  | 0x0A => (a.sshiftRight (imm.toNat % 32), 0)
  | 0x0B => (if a.toInt < b.toInt then a else b, 0)
  | 0x0C => (if b.toInt < a.toInt then a else b, 0)
  | 0x0D => (a * b, 0)
  | 0x0E => fp fmtF32 1 (fun x y _ => fmtF32.sum .rne [fmtF32.decode x, fmtF32.decode y])
  | 0x0F => fp fmtF32 1 (fun x y _ => fmtF32.sum .rne [fmtF32.decode x, (fmtF32.decode y).negate])
  | 0x10 => fp fmtF32 1 (fun x y _ => fmtF32.ofFp .rne ((fmtF32.decode x).mul (fmtF32.decode y)))
  | 0x11 => fp fmtF32 1 (fun x y z => fmtF32.sum .rne [(fmtF32.decode x).mul (fmtF32.decode y), fmtF32.decode z])
  | 0x12 => fp fmtF32 1 (fun x y _ => lesser fmtF32 x y x y)
  | 0x13 => fp fmtF32 1 (fun x y _ => lesser fmtF32 x y y x)
  | 0x14 => fp fmtBf16 2 (fun x y _ => fmtBf16.sum .rne [fmtBf16.decode x, fmtBf16.decode y])
  | 0x15 => fp fmtBf16 2 (fun x y _ => fmtBf16.ofFp .rne ((fmtBf16.decode x).mul (fmtBf16.decode y)))
  | 0x16 => fp fmtBf16 2 (fun x y z => fmtBf16.sum .rne [(fmtBf16.decode x).mul (fmtBf16.decode y), fmtBf16.decode z])
  | 0x17 => (BitVec.ofNat 32 (fmtF32.round .rne (decide (a.toInt < 0)) a.toInt.natAbs 0 false).1,
      (fmtF32.round .rne (decide (a.toInt < 0)) a.toInt.natAbs 0 false).2)
  | 0x18 => (BitVec.ofNat 32 (fpToInt .rne true 32 (fmtF32.decode a.toNat)).1,
      (fpToInt .rne true 32 (fmtF32.decode a.toNat)).2)
  | 0x19 => (~~~ a, 0)
  | 0x1A => (if a.toInt < 0 then -a else a, 0)
  | 0x1B => (a &&& 0x7FFFFFFF, 0)
  | 0x1C => (a ^^^ 0x80000000, 0)
  | _ => (0, 0)

/-- Results and flags of a half: nothing for NOP, else D in every active lane. -/
def halfGiven (hop : Nat) (d a b : VReg) (c : Cx) : List (Nat × Word) × Word :=
  let v (l : Nat) : Word × Word :=
    halfWord hop b (c.vec a.toNat l) (c.vec b.toNat l) (c.vec d.toNat l)
  if hop < 0x1D then
    (c.active.map (fun l => (vKey d.toNat l, (v l).1)), c.active.foldl (fun m l => m ||| (v l).2) 0)
  else ([], 0)

/-! ### Rounding, as the real numbers have it -/

/-- The magnitude whose encoding is k, the exponent going on above the largest finite one (R181, R183). -/
noncomputable def Format.magOf (f : Format) (k : Nat) : ℝ :=
  if k < 2 ^ f.mb then (k : ℝ) * 2 ^ ((1 : ℤ) - f.bias - f.mb)
  else ((2 ^ f.mb + k % 2 ^ f.mb : ℕ) : ℝ) * 2 ^ (((k / 2 ^ f.mb : ℕ) : ℤ) - f.bias - f.mb)

/-- The number (-1)^s * m * 2^e. -/
noncomputable def finReal (s : Bool) (m : Nat) (e : ℤ) : ℝ := (if s then -1 else 1) * m * 2 ^ e

/-- k is the magnitude nearest to z, of two as near the one whose last significand bit is 0 (R190). -/
def Format.Nearest (f : Format) (z : ℝ) (k : Nat) : Prop :=
  ∀ j, |z - f.magOf k| < |z - f.magOf j| ∨ (|z - f.magOf k| = |z - f.magOf j| ∧ (j = k ∨ k % 2 = 0))

/-- A mode takes a result of a sign towards zero, or away from it (R190). -/
def roundsDown (m : Rnd) (neg : Bool) : Prop := m = .rz ∨ (m = .ru ∧ neg = true) ∨ (m = .rd ∧ neg = false)
def roundsUp (m : Rnd) (neg : Bool) : Prop := (m = .ru ∧ neg = false) ∨ (m = .rd ∧ neg = true)

/-- The magnitude k that a mode chooses for z (R190). -/
def Format.Chosen (f : Format) (m : Rnd) (neg : Bool) (z : ℝ) (k : Nat) : Prop :=
  (m = .rne → f.Nearest z k) ∧
  (roundsDown m neg → f.magOf k ≤ z ∧ z < f.magOf (k + 1)) ∧
  (roundsUp m neg → z ≤ f.magOf k ∧ (k = 0 ∨ f.magOf (k - 1) < z))

/-- z, rounded as if the exponent had no lower end, is below the smallest normal magnitude (R192). -/
def Format.Tiny (f : Format) (m : Rnd) (neg : Bool) (z : ℝ) : Prop :=
  let least : ℝ := 2 ^ ((1 : ℤ) - f.bias)
  let step : ℝ := 2 ^ (-(f.bias : ℤ) - f.mb)
  z < least ∧ (m = .rne → z < least - step / 2) ∧ (roundsUp m neg → z ≤ least - step)

/-- `v` is a result of magnitude z and sign `neg`, rounded once, with its flags: past the largest finite magnitude the
result of R191, OF and NX, or CVS and NX in a format without infinity; else NX if it differs, and UF if it is tiny too
(R190 to R192). -/
def Format.RoundedTo (f : Format) (m : Rnd) (neg : Bool) (z : ℝ) (v : Nat × Word) : Prop :=
  let sign := if neg then 2 ^ (f.width - 1) else 0
  ∃ k, f.Chosen m neg z k ∧
    (k ≤ f.big → v.1 = sign + k ∧ (f.magOf k = z → v.2 = 0) ∧
      (f.magOf k ≠ z → (f.Tiny m neg z → v.2 = flUF ||| flNX) ∧ (¬ f.Tiny m neg z → v.2 = flNX))) ∧
    (f.big < k → if f.hasInf then
        v.2 = flOF ||| flNX ∧ (m = .rne ∨ roundsUp m neg → v.1 = sign + f.big + 1) ∧ (roundsDown m neg → v.1 = sign + f.big)
      else v = (sign + f.big, flCVS ||| flNX))

/-- `v` is z, of a sign, rounded stochastically with the random word r (R194). -/
def Format.RoundedBy (f : Format) (r : Nat) (neg : Bool) (z : ℝ) (v : Nat × Word) : Prop :=
  let sign := if neg then 2 ^ (f.width - 1) else 0
  ∃ a, f.magOf a ≤ z ∧ z < f.magOf (a + 1) ∧
    let d := ⌊(z - f.magOf a) / (f.magOf (a + 1) - f.magOf a) * 2 ^ 32⌋
    let k := if 2 ^ 32 ≤ (r % 2 ^ 32 : ℕ) + d then a + 1 else a
    (f.magOf f.big ≤ z → v.1 = sign + f.big ∧ (z = f.magOf f.big → v.2 = flCVS) ∧
      (z ≠ f.magOf f.big → v.2 = flCVS ||| flNX)) ∧
    (z < f.magOf f.big → v.1 = sign + k ∧ (z = f.magOf a → v.2 = 0) ∧
      (z ≠ f.magOf a → v.2 = if k < 2 ^ f.mb then flUF ||| flNX else flNX))

/-- `v` is the E8M0 code of a positive z: the power of two that the mode chooses, held within the codes (R193). -/
def E8m0Of (m : Rnd) (z : ℝ) (v : Nat × Word) : Prop :=
  ∃ k : ℤ, (m = .rz ∨ m = .rd → (2 : ℝ) ^ k ≤ z ∧ z < 2 ^ (k + 1)) ∧
    (m = .ru → (2 : ℝ) ^ (k - 1) < z ∧ z ≤ 2 ^ k) ∧
    (m = .rne → 3 * (2 : ℝ) ^ k ≤ 4 * z ∧ 2 * z < 3 * 2 ^ k) ∧
    let h := max (-127) (min 127 k)
    v.1 = (h + 127).toNat ∧ (h ≠ k → v.2 = flCVS ||| flNX) ∧
      (h = k → (z = (2 : ℝ) ^ k → v.2 = 0) ∧ (z ≠ (2 : ℝ) ^ k → v.2 = flNX))

/-- `n` is the integer that a mode chooses for a (R190, R193). -/
def IntChosen (m : Rnd) (a : ℝ) (n : ℤ) : Prop :=
  (m = .rne → |a - n| ≤ 1 / 2 ∧ (|a - n| = 1 / 2 → n % 2 = 0)) ∧
  (m = .rz → |(n : ℝ)| ≤ |a| ∧ |a| < |(n : ℝ)| + 1 ∧ 0 ≤ a * n) ∧
  (m = .ru → a ≤ n ∧ n < a + 1) ∧ (m = .rd → n ≤ a ∧ a < n + 1)

/-! ### The functions of R251 -/

/-- The error function. -/
noncomputable def erfReal (x : ℝ) : ℝ := 2 / √Real.pi * ∫ t in (0 : ℝ)..x, Real.exp (-t ^ 2)

/-- f(x) of the function with an OP: the third column of R251's table. -/
noncomputable def fnReal (op : Nat) (x : ℝ) : ℝ :=
  match op with
  | 0x60 => (2 : ℝ) ^ x
  | 0x61 => Real.logb 2 x
  | 0x62 => 1 / x
  | 0x63 => 1 / √x
  | 0x64 => √x
  | 0x65 => Real.sin (Real.pi * x)
  | 0x66 => Real.cos (Real.pi * x)
  | 0x67 => Real.tanh x
  | 0x68 => 1 / (1 + Real.exp (-x))
  | 0x69 => erfReal x
  | 0x6A => Real.exp x
  | 0x6B => Real.log x
  | 0x6C => x * (1 + erfReal (x / √2)) / 2
  | _ => x / (1 + Real.exp (-x))

/-- Arguments at which a function is computed without error: RCP, RSQ and SQRT everywhere, EXP2 of an integer, LOG2 of a
power of two, SINP and COSP at integers and halves (R252). -/
def FnExact (op : Nat) (x : ℝ) : Prop :=
  op ∈ [0x62, 0x63, 0x64] ∨ (op = 0x60 ∧ ∃ n : ℤ, x = n) ∨ (op = 0x61 ∧ ∃ n : ℤ, x = (2 : ℝ) ^ n) ∨
    (op ∈ [0x65, 0x66] ∧ ∃ n : ℤ, 2 * x = n)

/-- y stands for f(x) when it is rounded: it is f(x) where that is computed without error, within 2^-64 of it elsewhere,
and as far out of every format's range where f(x) is (log 2). -/
def FnNear (op : Nat) (x y : ℝ) : Prop :=
  let r := fnReal op x
  0 < y * r ∧ ((|y - r| ≤ |r| / 2 ^ 64 ∧ (FnExact op x → y = r)) ∨ (|y| < 1 / 2 ^ 160 ∧ |r| < 1 / 2 ^ 160) ∨
    (2 ^ 160 < |y| ∧ 2 ^ 160 < |r|))

/-- `v` is y rounded as R252 says: y itself where it is representable; else, in FP32, one of its two neighbours, the
infinity being the only one from 2^128 on, and in the 16-bit formats the nearest value. NX is raised when it differs,
OF with an infinity, UF with a subnormal or zero. -/
def Format.FnRounded (f : Format) (y : ℝ) (v : Nat × Word) : Prop :=
  ∃ k ≤ f.big + 1, v.1 = (if y < 0 then 2 ^ (f.width - 1) else 0) + k ∧
    ((k ≤ f.big ∧ |y| = f.magOf k ∧ v.2 = 0) ∨
      ((∀ j ≤ f.big, |y| ≠ f.magOf j) ∧
        v.2 = flNX ||| (if k = f.big + 1 then flOF else 0) ||| (if k < 2 ^ f.mb then flUF else 0) ∧
        (f = fmtF32 → (f.magOf k < |y| ∧ |y| < f.magOf (k + 1)) ∨
          (0 < k ∧ f.magOf (k - 1) < |y| ∧ (|y| < f.magOf k ∨ k = f.big + 1))) ∧
        (f ≠ fmtF32 → ∀ j ≤ f.big + 1, |(|y| - f.magOf k)| < |(|y| - f.magOf j)| ∨
          (|(|y| - f.magOf k)| = |(|y| - f.magOf j)| ∧ (j = k ∨ k % 2 = 0)))))

/-- A cell of R251's table: the result and flags for a format, and for the sign of the argument. -/
abbrev FnCell := Format → Bool → Nat × Word
/-- NaN, NV. -/
def FnCell.nanNv : FnCell := fun f _ => (f.nan, flNV)
/-- +0, -0, and a zero with the sign of x. -/
def FnCell.posZero : FnCell := fun _ _ => (0, 0)
def FnCell.negZero : FnCell := fun f _ => (2 ^ (f.width - 1), 0)
def FnCell.signedZero : FnCell := fun f s => (if s then 2 ^ (f.width - 1) else 0, 0)
/-- 0.5, 1.0 and -1.0. -/
def FnCell.half : FnCell := fun f _ => ((f.bias - 1) * 2 ^ f.mb, 0)
def FnCell.posOne : FnCell := fun f _ => (f.bias * 2 ^ f.mb, 0)
def FnCell.negOne : FnCell := fun f _ => (2 ^ (f.width - 1) + f.bias * 2 ^ f.mb, 0)
/-- +infinity; -infinity with DZ; an infinity with the sign of x and DZ. -/
def FnCell.posInf : FnCell := fun f _ => (f.big + 1, 0)
def FnCell.negInfDz : FnCell := fun f _ => (2 ^ (f.width - 1) + f.big + 1, flDZ)
def FnCell.signedInfDz : FnCell := fun f s => ((if s then 2 ^ (f.width - 1) else 0) + f.big + 1, flDZ)

/-- `v` is what function `op` gives for element x: the canonical NaN for a NaN; `neg`, `pos` and `zero` are its cells for
-infinity, +infinity and a zero; then its other cases; and any other value rounded as R252 says (R251, R252). -/
def FnOf (op : Nat) (neg pos zero : FnCell) (f : Format) (x : Nat) (v : Nat × Word) : Prop :=
  match f.decode x with
  | .nan s => v = (f.nan, if s then flNV else 0)
  | .inf s => v = if s then neg f s else pos f s
  | .fin s m e =>
    let a := finReal s m e
    let below : Prop := s = true ∧ op ∈ [0x61, 0x63, 0x64, 0x6B]
    let whole : Prop := op = 0x65 ∧ ∃ n : ℤ, a = n
    let halves : Prop := op = 0x66 ∧ ∃ n : ℤ, a = n + 1 / 2
    let one : Prop := op ∈ [0x61, 0x6B] ∧ a = 1
    (m = 0 → v = zero f s) ∧
    (m ≠ 0 → (below → v = (f.nan, flNV)) ∧ (whole → v = FnCell.signedZero f s) ∧ (halves ∨ one → v = (0, 0)) ∧
      (¬ below → ¬ whole → ¬ halves → ¬ one → ∃ y, FnNear op a y ∧ f.FnRounded y v))

/-- A result whose elements are related to those of A, flags being the OR of the elements'. -/
def FnResult (ty : FTy) (a : Src) (P : Format → Nat → Nat × Word → Prop) (c : Cx) (l : Nat) (r : Res) : Prop :=
  let f := ftyFormat ty
  ∃ v : Nat → Nat × Word, r.words.length = 1 ∧
    (∀ k < ftyCount ty, elemAt f.width k (wordsNat r.words) = (v k).1 ∧
      P f (elemAt f.width k (c.src a l).toNat) (v k)) ∧
    r.flags = (List.range (ftyCount ty)).foldr (fun k m => (v k).2 ||| m) 0

/-- `v` is the integer that a mode chooses for element x, with its sign, and NX if it differs; an infinity is itself and a NaN
the canonical one (R244). -/
def Format.WholeOf (f : Format) (m : Rnd) (x : Nat) (v : Nat × Word) : Prop :=
  match f.decode x with
  | .nan s => v = (f.nan, if s then flNV else 0)
  | .inf s => v = ((if s then 2 ^ (f.width - 1) else 0) + f.big + 1, 0)
  | .fin s k e => ∃ n : ℤ, IntChosen m (finReal s k e) n ∧ (∃ j g, f.decode v.1 = .fin s j g ∧ finReal s j g = n) ∧
      v.2 = if finReal s k e = n then 0 else flNX

/-! ### Matrix results -/

/-- One accumulator element after a pass of products (R198). -/
def passed (f : Format) (a b : List Nat) (acc : Nat) : Nat × Word :=
  let ps := (a.zip b).map (fun p => (f.decode p.1).mul (f.decode p.2))
  let c := fmtF32.decode acc
  let infinite (s : Bool) : Bool := decide (Fp.inf s ∈ c :: ps)
  if ps.any Fp.isNan || (infinite true && infinite false) then (0x7FC00000, flNV)
  else match c with
    | .nan s => (0x7FC00000, if s then flNV else 0)
    | _ => if infinite true then (0xFF800000, 0) else if infinite false then (0x7F800000, 0) else fmtF32.sum .rne (c :: ps)

/-- Slice k of an FP32 value: h, m or l (R199). -/
def bfSlice (k x : Nat) : Nat :=
  let cut (y : Nat) : Nat := (fmtBf16.ofFp .rz (fmtF32.decode y)).1
  let less (y h : Nat) : Nat := (fmtF32.sum .rne [fmtF32.decode y, (fmtBf16.decode h).negate]).1
  match fmtF32.decode x, k with
  | .nan _, 0 => 0x7FC0
  | .inf s, 0 => if s then 0xFF80 else 0x7F80
  | .fin _ _ _, 0 => cut x
  | .fin _ _ _, 1 => cut (less x (cut x))
  | .fin _ _ _, _ => cut (less (less x (cut x)) (cut (less x (cut x))))
  | _, _ => 0

/-- One accumulator element after an MMA: by R198, modulo 2^32 for INT8, and by the passes of R199 for the FP32 forms. -/
def dense (t : MmaTy) (a b : List Nat) (acc : Nat) : Nat × Word :=
  let slices (l : List (Nat × Nat)) : Nat × Word := l.foldl (fun v p =>
    let x := passed fmtBf16 (a.map (bfSlice p.1)) (b.map (bfSlice p.2)) v.1
    (x.1, v.2 ||| x.2)) (acc, 0)
  match t with
  | .bf16 => passed fmtBf16 a b acc
  | .f16 => passed fmtF16 a b acc
  | .e4m3 => passed fmtE4m3 a b acc
  | .e5m2 => passed fmtE5m2 a b acc
  | .i8 => (wrap 32 ((acc : Int) + ((a.zip b).map (fun p => sval 8 p.1 * sval 8 p.2)).sum), 0)
  | .f32x3 => slices [(1, 0), (0, 1), (0, 0)]
  | .f32x6 => slices [(1, 1), (2, 0), (0, 2), (1, 0), (0, 1), (0, 0)]

/-- Then each outlier of the element's column, in list order, by one fused multiply-add (R198, R283). -/
def withOutliers (t : MmaTy) (a : List Nat) (l : List (Nat × Word)) (v : Nat × Word) : Nat × Word :=
  l.foldl (fun v q =>
    let x := fmtF32.sum .rne [(((mmaFormat t).getD fmtBf16).decode (a.getD q.1 0)).mul (fmtF32.decode q.2.toNat),
      fmtF32.decode v.1]
    (x.1, v.2 ||| x.2)) v

/-- An MX block: `el i` is the code and the flags of element i, `scale` the code of the scale (R189). -/
def MxBlock (f : Format) (emax : ℤ) (v : Nat → Nat) (scale : Nat) (el : Nat → Nat × Word) : Prop :=
  let special : Prop := ∃ i < 32, ∀ s m e, fmtF32.decode (v i) ≠ .fin s m e
  let small (p : ℤ) : Prop := ∀ i < 32, ∀ s m e, fmtF32.decode (v i) = .fin s m e → |finReal s m e| < 2 ^ p
  (special → scale = 0xFF ∧ ∀ i < 32, el i = (if f = fmtE4m3 then 0x7F else 0, flNV)) ∧
  (¬ special → (∀ i < 32, ∀ s m e, fmtF32.decode (v i) = .fin s m e → m = 0) →
    scale = 0 ∧ ∀ i < 32, el i = (0, 0)) ∧
  (¬ special → (∃ i < 32, ∀ s e, fmtF32.decode (v i) ≠ .fin s 0 e) →
    ∃ k : ℤ, -127 ≤ k ∧ scale = (k + 127).toNat ∧ small (k + emax + 1) ∧ (-127 < k → ¬ small (k + emax)) ∧
      ∀ i < 32, ∀ s m e, fmtF32.decode (v i) = .fin s m e →
        f.RoundedTo .rne s (|finReal s m e| * 2 ^ (-k)) (el i))

/-- The words that a matrix operation reads: as they are, or, of one written since its issue, as it was (R280). -/
def ReadsOf (s : State) (o : MxOp) (rd : Nat → CWord) : Prop := ∀ k, rd k = s.store.word k ∨ (k, rd k) ∈ o.olds

/-- Element k of row r of a tile in canonical layout (R184, R276). -/
def tileElem (rd : Nat → CWord) (core : Nat) (plane : Bool) (w a bytes r k : Nat) : Nat :=
  elemAt w (k % (32 / w)) (rd (storeKey core plane (a + r * (bytes + 16) + 4 * (k / (32 / w))))).data.toNat

/-- What an accumulator operation does to element n of row m, whose value is `acc`: the result and the flags (R282 to R284,
R286); the exponentials of ACEX are those of R251 and R252. -/
def AccElem (rd : Nat → CWord) (core : Nat) (o : MxOp) (m n : Nat) (acc : Word) (v : Nat × Word) : Prop :=
  match o.kind with
  | .mma t a b out =>
    let w := mmaWidth t
    let row := (List.range (mmaK t)).map (tileElem rd core o.plane w a (rowA t) m)
    let col := (List.range (mmaK t)).map (fun k => tileElem rd core o.plane w b (rowB t) k n)
    v = withOutliers t row ((out.filter (fun q => q.2.1 == n)).map (fun q => (q.1, q.2.2))) (dense t row col acc.toNat)
  | .acz => v = (0, 0)
  | .acld a => v = ((rd (storeKey core o.plane (a + 256 * m + 4 * n))).data.toNat, 0)
  | .acsc _ => v = fmtF32.ofFp .rne ((fmtF32.decode acc.toNat).mul (fmtF32.decode (o.reg.getD m 0).toNat))
  | .acex _ =>
    let d := fmtF32.sum .rne [fmtF32.decode acc.toNat, (fmtF32.decode (o.reg.getD m 0).toNat).negate]
    ∃ e, FnOf 0x60 FnCell.posZero FnCell.posInf FnCell.posOne fmtF32 d.1 e ∧ v = (e.1, d.2 ||| e.2)
  | _ => v = (acc.toNat, 0)

/-! ### What an instruction leaves that changes more than registers -/

/-- The issuing slot with the instruction counted. -/
def countedSlot (w : Warp) (x : Slot) (i : Instr) : Slot :=
  { x with pc := x.pc + BitVec.ofNat 32 i.size, sig := countSig w x i, readySince := none, heldBack := false }

/-- `s` once `i` is counted, its warp then changed by `f`, with the results `ws` in the window. -/
def went (s : State) (w : Warp) (n : Bool) (x : Slot) (i : Instr) (f : Warp → Warp) (ws : List (Nat × Word)) : State :=
  pushWindow (setWarp s (f (countedWarp w n x i))) w.uid ws

/-- `s` once `i` is counted and its slot then changed by `f`. -/
def wentSlot (s : State) (w : Warp) (n : Bool) (x : Slot) (i : Instr) (f : Slot → Slot) (ws : List (Nat × Word)) : State :=
  went s w n x i (fun v => v.setSlot n (some (f (countedSlot w x i)))) ws

/-- A taken branch: the slot goes on at the target, four cycles later (R179, R224). -/
def branched (s : State) (w : Warp) (n : Bool) (x : Slot) (i : Instr) (t : Int) (ws : List (Nat × Word)) : State :=
  wentSlot s w n x i (fun y => { y with pc := BitVec.ofInt 32 t, readyAt := s.cycle + 4 }) ws

/-- The instruction takes an exception and has no other effect (R163, R350). -/
def Traps (s : State) (w : Warp) (n : Bool) (i : Instr) (cause sub : Nat) (tval : Word) : Prop :=
  mxInFlight s w.uid = false → exec i s = .next (enterTrap s w.uid n i.size cause sub tval)

/-- A code address that a target may be (R224). -/
def inCode (t : Int) : Prop := 0 ≤ t ∧ t ≤ 0x3FFFFFFE

/-- Both slots of a warp issue nothing before four cycles from now (R223). -/
def heldFour (s : State) (v : Warp) : Warp :=
  { v with slot0 := v.slot0.map (fun y => { y with readyAt := max y.readyAt (s.cycle + 4) }),
           slot1 := v.slot1.map (fun y => { y with readyAt := max y.readyAt (s.cycle + 4) }) }

/-- What a slot whose lanes have all exited takes up, by the entries of its warp's stack (R15): with no entry it is free;
an entry of KIND 3 traps (log 17); one of KIND 1 is the slot's other path; one of KIND 0 that the other live slot shares
waits for that slot, one without lanes is retired and the next is looked at, any other goes on past its join. -/
inductive AfterExit (n : Bool) : State → Warp → ExitOut → Prop where
  | empty {s w} : topEntry? s w n = none → AfterExit n s w (.free s w)
  | unknown {s w i e} : topEntry? s w n = some (i, e) → e.kind = 3 → AfterExit n s w (.bad (w.stackBase + 16 * i))
  | path {s w i e} : topEntry? s w n = some (i, e) → e.kind = 1 → AfterExit n s w
      (.take (retireEntry s w i).1 (retireEntry s w i).2 e.pc e.lanes (fieldJoin e.jpc) 0x5A5A0001)
  | parked {s w i e} : topEntry? s w n = some (i, e) → e.kind = 0 → e.own = 2 → (w.slot? (!n)).isSome →
      AfterExit n s w (.free s w)
  | gone {s w i e out} : topEntry? s w n = some (i, e) → e.kind = 0 → (e.own ≠ 2 ∨ w.slot? (!n) = none) → e.lanes = 0 →
      AfterExit n (retireEntry s w i).1 (retireEntry s w i).2 out → AfterExit n s w out
  | merged {s w i e} : topEntry? s w n = some (i, e) → e.kind = 0 → (e.own ≠ 2 ∨ w.slot? (!n) = none) → e.lanes ≠ 0 →
      AfterExit n s w
        (.take (retireEntry s w i).1 (retireEntry s w i).2 (e.jpc + 2) e.lanes (fieldJoin e.pc) 0x5A5A0002)

/-! ### What keeps an instruction from executing -/

/-- Slot `n` of warp `w`, which holds `x`, is the one that issues. -/
def AtIssue (s : State) (w : Warp) (n : Bool) (x : Slot) : Prop :=
  s.cur = some (w.uid, n) ∧ findWarp? s w.uid = some w ∧ w.slot? n = some x

/-- `i` is an instruction of a warp, not an event of the device: it has an encoding. -/
def Instruction (i : Instr) : Prop := encode i ≠ []

/-- Every entry of a warp's window names each register word once. -/
def WindowOnce (l : List (List (Nat × Word))) : Prop := ∀ e ∈ l, (e.map (·.1)).Nodup

/-- A register word after some results: the newest of them, or what it was (R27). -/
def newest (ws : List (Nat × Word)) (k : Nat) (old : Word) : Word := ((ws.find? (fun p => p.1 == k)).map (·.2)).getD old

/-- A slot moved past an instruction of `size` parcels. -/
def Slot.past (y : Slot) (size : Nat) : Slot := { y with pc := y.pc + BitVec.ofNat 32 size }

/-! ### What a memory instruction leaves -/

/-- Every register of `w` reads in `t` as in `s`, if the window of `w` is one that issuing leaves (R27). -/
def RegsKept (s t : State) (w : Warp) : Prop :=
  s.store.wf = true → w.window.length ≤ 8 → WindowOnce w.window →
    ∃ v, findWarp? t w.uid = some v ∧ ∀ k, regWord t v (regBank s w) k = regWord s w (regBank s w) k

/-- `i` has been counted and has changed no register, flag, memory, store word, accumulator or other warp. -/
def Quiet (s t : State) (w : Warp) (n : Bool) (x : Slot) (i : Instr) : Prop :=
  Counted s t w n x i ∧ RegsKept s t w ∧ MemoryKept s t ∧ StoreKept s t w ∧ t.acc = s.acc ∧
    ∀ u, u ≠ w.uid → findWarp? t u = findWarp? s u

/-- Lane, word, address, target, policy and data of a word of an access. -/
def OpWord.access (y : OpWord) : Nat × Nat × DWord × Tgt × Policy × CWord := (y.lane, y.j, y.addr, y.tgt, y.pol, y.data)

/-- An operation that has issued: the next identity, the warp, its issue number. -/
def Op.of (q : Op) (s : State) (w : Warp) (kind : OpKind) : Prop :=
  q.id = s.nextId ∧ q.kind = kind ∧ q.warp = w.uid ∧ q.seq = w.seq

/-- The addresses of the lanes of a global access. -/
def laneAddrs (c : Cx) (g : Guard) (f : Nat → DWord) : List (Nat × DWord) := (c.lanes g).map (fun l => (l, f l))

/-- Every line of a domain's L1 is listed once. -/
def LinesOnce (s : State) (dom : Nat) : Prop := ((getL1 s dom).lines.map (·.line)).Nodup

/-- A word of a miss has been asked for: its miss is pending and a request for its line on its way, which names it unless
the domain owns it (R68, R81). -/
def Asked (t : State) (dom : Nat) (y : OpWord) (kind : ReqKind) (pa : Nat) : Prop :=
  ∃ m ∈ t.misses, y.miss = some m.id ∧ m.dom = dom ∧ m.line = pa / 128 ∧ m.kind = kind ∧
    ∃ r ∈ t.reqs, r.miss = m.id ∧ r.line = m.line ∧ r.kind = kind ∧
      (r.mask.getLsbD (pa / 4 % 32) = true ∨ (l1Word? t dom (pa / 128) (pa / 4 % 32)).any (fun e => e.st == .ow) = true)

/-- The same with the words of every line listed in their order. -/
def L1Ok (s : State) (dom : Nat) : Prop := LinesOnce s dom ∧ ∀ q ∈ (getL1 s dom).lines, tsorted q.words = true

/-- No slot waits with a watch entry on one of these store words (R265). -/
def Unwatched (s : State) (keys : List Nat) : Prop :=
  ∀ u ∈ s.warps, ∀ y ∈ u.allSlots, ∀ k, y.block = .waitw k → k.entry = true → k.key ∉ keys

/-- What the translation of a lane's address gives at present (R253). -/
abbrev laneXlat (s : State) (w : Warp) (a : DWord) : Xlat := xlatNow s w.core (partOf s w) (ctxOf s w) a

/-- No lane's address leaves the partition's ranges (R359). -/
def NoFreeze (s : State) (w : Warp) (l : List (Nat × DWord)) : Prop :=
  ∀ p ∈ l, ∀ u v z, laneXlat s w p.2 ≠ .freeze u v z

/-- The words of tables that translations of these addresses read over the fabric from this device itself can be had at once
(R353). -/
def TablesHere (s : State) (w : Warp) (n : Bool) (l : List (Nat × DWord)) : Prop :=
  ∀ p ∈ l, ∀ q ∈ tablePlaces s w.core (partOf s w) (ctxOf s w) p.2, Place.waits s (.warp w.uid n) false q = false

/-- The core freezes at the lowest lane whose address leaves the partition's ranges, and nothing else happens (R359). -/
def Freezes (i : Instr) (s : State) (w : Warp) (x : Slot) (l : List (Nat × DWord)) : Prop :=
  ∀ before p after u v z, l = before ++ p :: after → NoFreeze s w before → laneXlat s w p.2 = .freeze u v z →
    exec i s = .next (xlatFail s w (.freeze u v z) 0 0 p.2 x.pc)

/-- A phase of a barrier is over: every warp that shares it with team `m` may arrive again, and its slots that waited
for the change of `phase` go on as acquires at the level's scope (R262, R263). -/
def Released (s t : State) (m : Team) (level : BarLevel) (n : BitVec 6) (phase : Bool) : Prop :=
  (s.warps.map (·.uid)).Nodup → ∀ u ∈ s.warps, ∀ mu, findTeam? s u.team = some mu →
    (match level with
      | .team => mu.uid = m.uid
      | .gang => mu.gang = m.gang
      | .grid | .pod => mu.grid = m.grid) →
    ∃ v, findWarp? t u.uid = some v ∧ (warpBar v level n).arrived = 0 ∧
      ∀ k y, u.slot? k = some y → y.block = .bar level n phase → v.slot? k = some { y with block := .none } ∧
        ∃ a ∈ v.acquires, a.scope = levelScope m level ∧ a.refSlot = s.slotCount

/-! ### What near-bank, matrix, copy, collective and soft instructions leave -/

/-- An operation with the parts `ps`, of which `P` holds, has been sent for `i`; nothing else has happened (R269). -/
def PartsSent (i : Instr) (s : State) (w : Warp) (n : Bool) (x : Slot) (P : List Part → Prop) : Prop :=
  ∃ t q ps, exec i s = .next t ∧ t.ops = s.ops ++ [q] ∧ Op.of q s w (.plough none) ∧ q.held = false ∧
    t.parts = s.parts ++ ps ∧
    (∀ p ∈ ps, p.op = q.id ∧ p.warp = w.uid ∧ p.accepted = false ∧ p.upc = 0 ∧ p.finished = false ∧ p.frozen = none ∧
      p.err = none) ∧
    P ps ∧ Quiet s t w n x i

/-- Source and destination of the copies of a part. -/
def Part.pairs (p : Part) : List (Nat × Nat) :=
  match p.kind with
  | .nbcp l | .cross l => l
  | _ => []

/-- Numbers that do not fall. -/
def Rising (l : List Nat) : Prop := l.Pairwise (· ≤ ·)

/-- `i` has put a matrix operation into its unit's queue, and its slot may issue again at `ready`; nothing else has
happened (R279). -/
def MxQueued (i : Instr) (s : State) (w : Warp) (n : Bool) (x : Slot) (acc : BitVec 4) (g : Guard) (k : MxKind)
    (ready : Nat) : Prop :=
  ∃ t o v y, exec i s = .next t ∧ t.mx = s.mx ++ [⟨w.core, o⟩] ∧ o.id = s.nextId ∧ o.warp = w.uid ∧
    o.tile = (finds s w n x i).tile acc ∧ o.mask = maskOf ((finds s w n x i).lanes g) ∧
    o.lane = (finds s w n x i).lowest ∧ o.kind = k ∧ o.plane = planeOf s w ∧ o.olds = [] ∧ o.started = none ∧
    o.ended = none ∧
    findWarp? t w.uid = some v ∧ v.slot? n = some y ∧ y.readyAt = ready ∧ Quiet s t w n x i

/-- `t` has one more operation than `s`: a release of the warp that will deliver `kind` (R96). -/
def Releases (s t : State) (w : Warp) (kind : OpKind) : Prop :=
  ∃ q, t.ops = s.ops ++ [q] ∧ q.kind = kind ∧ q.warp = w.uid ∧ q.seq = w.seq ∧ q.held = true

/-- `i` has sent a soft operation of which `P` holds, and changed handle `h` by `f`; nothing else has happened. -/
def SoftSent (i : Instr) (s : State) (w : Warp) (n : Bool) (x : Slot) (dst : Nat) (h : BitVec 4) (f : Handle → Handle)
    (P : SoftOp → Prop) : Prop :=
  ∃ t q y v, exec i s = .next t ∧ t.ops = s.ops ++ [q] ∧ Op.of q s w (.soft y) ∧ q.dst = dst ∧ P y ∧
    findWarp? t w.uid = some v ∧ v.handles = w.handles.set h.toNat (f ((finds s w n x i).handle h)) ∧ Quiet s t w n x i

/-- A soft operation of a kind over a handle's list, with nothing staged. -/
def SoftOver (y : SoftOp) (x : Slot) (kind : SoftKind) (h : BitVec 4) (d : SoftDesc) (l : SoftList) (a : Nat) : Prop :=
  y.kind = kind ∧ y.handle = h ∧ y.desc = d ∧ y.mask = x.mask ∧ y.list = l.ents ∧ y.dense = l.dense ∧ y.inAddr = a ∧
    y.staged = 0 ∧ y.gw = []

/-! ### What an event leaves -/

/-- An event goes on to a state of which `P` holds. -/
def Becomes (i : Instr) (s : State) (P : State → Prop) : Prop := ∃ t, exec i s = .next t ∧ P t

/-- HBM of `t` is that of `s` with words of a line merged; a page that takes no write discards them (R81, R148). -/
def LineMerged (s t : State) (line : Nat) (ws : Tab CWord) (fal : Bool) : Prop :=
  if fal || pageDead s (pageOfLine line) then t.hbm = s.hbm
  else s.hbm.wf = true → (ws.map (·.1)).Nodup → (∀ p ∈ ws, t.hbm.word (32 * line + p.1) = p.2) ∧
    ∀ k, (∀ p ∈ ws, k ≠ 32 * line + p.1) → t.hbm.word k = s.hbm.word k

/-- The request is served, and its domain is sent a fill or a grant with the words of the line that `mask` names (R81,
R85). -/
def Replied (s t : State) (r : Req) (grant wi : Bool) (mask : Word) (slot : Option Word) : Prop :=
  findReq? t r.id = none ∧ ∃ p ∈ t.replies, p.dom = r.src.core ∧ p.line = r.line ∧ p.grant = grant ∧ p.wi = wi ∧
    p.miss = r.miss ∧ p.ownSlot = slot ∧ p.words = (ones mask).map (fun j => (j, homeWord s r.line j r.fal)) ∧
    p.own = ownNow s r.src.core r.line

/-- The home has decided a notice for a line (R77). -/
def Decided (t : State) (line : Nat) (kind : NoticeKind) (mask : Word) (o : Owner) : Prop :=
  ∃ k ∈ (getHome t (channelOf line)).decided, k.kind = kind ∧ k.line = line ∧ k.wmask = mask ∧ k.owner = o

/-- The request, which has arrived, waits while the owner is asked for the words that `mask` names (R81). -/
def Recalls (s t : State) (r : Req) (busy : Busy) (mask : Word) : Prop :=
  Decided t r.line .rcw mask ((entryOf s r.line).owner.getD noOwner) ∧ (entryOf t r.line).busy = busy ∧
    (entryOf t r.line).waiting = r.id ∧ (∃ q, findReq? t r.id = some q ∧ q = { r with arrived := q.arrived }) ∧ MemoryKept s t

/-- Warp `uid` of `t` has one operation fewer outstanding in a counter than that of `s` (R26). -/
def Lowered (s t : State) (uid : Nat) (k : Ctr) : Prop :=
  ∀ w, findWarp? s uid = some w → ∃ v, findWarp? t uid = some v ∧ v.ctrs = w.ctrs.set k (w.ctrs.get k - 1)

/-- Registers of `w` have got the values `ws`, and the others read as before (R178). -/
def RegsGet (s t : State) (w : Warp) (ws : List (Nat × Word)) : Prop :=
  s.store.wf = true → (ws.map (·.1)).Nodup → ∃ v, findWarp? t w.uid = some v ∧
    (∀ p ∈ ws, regWord t v (regBank s w) p.1 = p.2) ∧
    ∀ k, (∀ p ∈ ws, k ≠ p.1) → regWord t v (regBank s w) k = regWord s w (regBank s w) k

/-- An operation of `s` is over in `t`. -/
def Over (t : State) (id : Nat) : Prop := findOp? t id = none

/-- The rank key of a staged entry and its position (R122, R125). -/
def Staged.rank (e : Staged) : ℕ ×ₗ ℕ ×ₗ ℕ ×ₗ ℕ :=
  toLex (e.teamlin.toNat, toLex (e.warpIndex, toLex (e.count.toNat, e.pos)))

/-- Address of word j of record x of a wake buffer, and the words of a record (R126). -/
def wakeVa (d : SoftDesc) (x j : Nat) : DWord := d.wbase + 64 + BitVec.ofNat 64 (x * (32 + 8 * d.p) + 4 * j)
def wakeWords (d : SoftDesc) : Nat := 8 + 2 * d.p

/-- Word j of the record of a store entry that found the slot words `old` (R127). -/
def storeRecord (d : SoftDesc) (e : Staged) (old : Nat → CWord) (j : Nat) : CWord :=
  match j with
  | 0 => good e.teamlin
  | 1 => good ((if e.clamped then 0x20000000 else 0) + BitVec.ofNat 32 (e.warpIndex % 2 ^ 11))
  | 2 => good e.count
  | 3 => good (BitVec.ofNat 32 (e.pos * 2 ^ 16 + e.slot))
  | 4 => good e.weight
  | _ => if 8 ≤ j ∧ j < 8 + d.w then old (j - 8)
    else if 8 + d.p ≤ j ∧ j < 8 + d.p + d.w then e.vals.getD (j - 8 - d.p) (good 0) else good 0

/-- A word passed on by the home's soft unit: a bad one in poisoned form (R128, R141). -/
def passedOn (x : CWord) : CWord := if x.isGood then x else poison (good x.data)

/-- Word j of a frame record (R127, log 109). -/
def frameRecord (prev epoch : CWord) (m j : Nat) : CWord :=
  match j with
  | 0 => passedOn prev
  | 1 => good 0x40000000
  | 2 => passedOn epoch
  | 3 => good (BitVec.ofNat 32 m)
  | _ => good 0

/-- The places of the words of record x: `q j` that of word j, no two the same. -/
def RecordAt (k : Work) (d : SoftDesc) (x : Nat) (q : Nat → Place) : Prop :=
  (∀ j < wakeWords d, softPlace? k.s k.part k.ctx (wakeVa d x j) = some (q j)) ∧ ((List.range (wakeWords d)).map (fun j => (q j).pa)).Nodup

/-- Two states of a commit read alike but at some addresses. -/
def Work.SameBut (k k' : Work) (at_ : List Nat) : Prop :=
  k'.part = k.part ∧ k'.ctx = k.ctx ∧ ∀ p : Place, p.pa ∉ at_ → k'.read p = k.read p

/-- A chain of `n` steps from `a` to `b`. -/
def Steps {α ε : Type} (n : Nat) (f : Nat → α → Except ε α) (a b : α) : Prop :=
  ∃ g : Nat → α, g 0 = a ∧ (∀ i < n, f i (g i) = .ok (g (i + 1))) ∧ g n = b

/-- FP32 results of one step of R272 or R274: product, sum, fused multiply-add and quotient, each rounded once. -/
def mulOnce (a b : Nat) : Nat := (fmtF32.ofFp .rne ((fmtF32.decode a).mul (fmtF32.decode b))).1
def addOnce (a b : Nat) : Nat := (fmtF32.sum .rne [fmtF32.decode a, fmtF32.decode b]).1
def fmaOnce (a b c : Nat) : Nat := (fmtF32.sum .rne [(fmtF32.decode a).mul (fmtF32.decode b), fmtF32.decode c]).1
def divOnce (a b : Nat) : Nat := (fmtF32.div .rne (fmtF32.decode a) (fmtF32.decode b)).1

/-- FP32 multiply-add and difference of words, each rounded once, with the flags (R192, R193). -/
def fusedW (a b c : Word) : Word × Word :=
  let r := fmtF32.sum .rne [(fmtF32.decode a.toNat).mul (fmtF32.decode b.toNat), fmtF32.decode c.toNat]
  (BitVec.ofNat 32 r.1, r.2)
def minusW (a b : Word) : Word := BitVec.ofNat 32 (fmtF32.sum .rne [fmtF32.decode a.toNat, (fmtF32.decode b.toNat).negate]).1

/-- Flags have been raised by an engine of a warp: they are in its FLAGS, and enabled ones are reported by counter `k` (R196,
R281). -/
def Flagged (t : State) (w : Warp) (k : Ctr) (fl : Word) : Prop :=
  ∃ v, findWarp? t w.uid = some v ∧ v.flags = w.flags ||| fl ∧ (fl &&& w.trapen ≠ 0 →
    ∃ r ∈ v.reports, r.ctr = k ∧ r.cause = BitVec.ofNat 8 (flagCause (fl &&& w.trapen)) ∧ r.tval = fl &&& w.trapen)

/-- An order of FP32 words; nothing holds of a NaN (R243). -/
def holdsW (c : Cond) (a b : Word) : Prop := (compared c (fmtF32.decode a.toNat) (fmtF32.decode b.toNat)).1 = true

/-- Slot k of the list `l` satisfies what a mode of SHRD asks for; `u` is sU (R134). -/
def ShrdFits (m : ShrdMode) (l : List (Nat × Word)) (u : Word) (k : Nat) : Prop :=
  let value (x : Word) : Fp := fmtF32.decode x.toNat
  let number (x : Word) : Prop := (value x).isNan = false
  let plus (x : Word) : Nat := if (value x).isNan || (value x).neg then 0 else x.toNat
  let upTo (i : Nat) : Nat := ((((List.range (i + 1)).map (fun j => l.filter (fun e => e.1 == j))).flatten).map
    (fun e => plus e.2)).foldl addOnce 0
  let total := upTo ((l.map (·.1)).foldr max 0)
  let clamped : Nat := if (value u).isNan || ((value u).neg && !(value u).isZero) then 0 else min u.toNat 0x3F800000
  let goal := mulOnce (if (value u).isZero then u.toNat else clamped) total
  match m with
  | .max => ∃ e ∈ l, e.1 = k ∧ number e.2 ∧ ∀ f ∈ l, number f.2 → ¬ holdsW .gt f.2 e.2
  | .smp _ => ∃ e ∈ l, e.1 = k ∧ holdsW .gt (BitVec.ofNat 32 (plus e.2)) 0 ∧ (fmtF32.decode total).isZero = false ∧
      holdsW .ge (BitVec.ofNat 32 (upTo k)) (BitVec.ofNat 32 goal)
  | .thr _ => ∃ e ∈ l, e.1 = k ∧ holdsW .ge e.2 u

/-- SHRD's result: the lowest slot that fits, or none (R134). -/
def ShrdPick (m : ShrdMode) (l : List (Nat × Word)) (u : Word) : Option Nat → Prop
  | some k => ShrdFits m l u k ∧ ∀ j, ShrdFits m l u j → k ≤ j
  | none => ∀ j, ¬ ShrdFits m l u j

/-- SNRM's new weights and flags: quotients by the sum of the weights, or of the exponentials of what they lie below the
largest; all +0 and NV where a weight is NaN or the sum is no finite number but zero (R135). -/
def Normalised (smax : Bool) (ws out : List Word) (fl : Word) : Prop :=
  out.length = ws.length ∧ (ws = [] → fl = 0) ∧ (ws ≠ [] → ∃ es : List Word, es.length = ws.length ∧
    (smax = false → es = ws) ∧
    (smax = true → ∃ m ∈ ws, (∀ x ∈ ws, ¬ holdsW .gt x m) ∧ ∀ i < ws.length, ∃ f,
      FnOf 0x6A FnCell.posZero FnCell.posInf FnCell.posOne fmtF32 (minusW (ws.getD i 0) m).toNat ((es.getD i 0).toNat, f)) ∧
    let sum := (es.map BitVec.toNat).foldl addOnce 0
    let v := fmtF32.decode sum
    if ws.any (fun x => (fmtF32.decode x.toNat).isNan) || v.isNan || v.isInf || v.isZero then
      fl = flNV ∧ ∀ x ∈ out, x = 0
    else fl = 0 ∧ out = es.map (fun e => BitVec.ofNat 32 (divOnce e.toNat sum)))

/-- Words written to places of HBM that take writes, none of them over the fabric to this device itself. -/
def Wrote (s t : State) (ws : List (Place × CWord)) : Prop :=
  s.hbm.wf = true → (ws.map (fun p => p.1.pa / 4)).Nodup → (∀ p ∈ ws, p.1.fal = false ∧ ownFabric p.1.pa = false) →
    ∀ p ∈ ws, p.1.pa < hbmEnd → pageDead s (pageOfLine (p.1.pa / 128)) = false → t.hbm.word (p.1.pa / 4) = p.2

/-- The next `n` words of a part's write to a granule have been written as in `ws`, the others are as before, and the part
has done its step with the last of them; it keeps `acc` (R113, R271 to R274). -/
def Stored (s t : State) (p : Part) (g n : Nat) (ws acc : List CWord) : Prop :=
  let hi := min 512 (p.wpos + max 1 n)
  (s.hbm.wf = true → pageDead s (pageOfLine (16 * g)) = false → p.fals.contains g = false → ws.length = 512 →
    ∀ i < 512, t.hbm.word (512 * g + i) =
      if p.wpos ≤ i ∧ i < hi then ws.getD i (good 0) else s.hbm.word (512 * g + i)) ∧
  ∃ q, findPart? t p.id = some q ∧ q.kind = p.kind ∧ q.acc = acc ∧ q.wpos = hi % 512 ∧
    q.upc = if hi = 512 then p.upc + 1 else p.upc

/-- `r` is the correctly rounded FP32 square root of x (R193, R274). -/
def RootOnce (x r : Nat) : Prop :=
  match fmtF32.decode x with
  | .nan _ => r = fmtF32.nan
  | .inf s => r = if s then fmtF32.nan else fmtF32.big + 1
  | .fin s m e => (m = 0 → r = x) ∧ (m ≠ 0 → s = true → r = fmtF32.nan) ∧
      (m ≠ 0 → s = false → ∃ fl, fmtF32.RoundedTo .rne false (√((m : ℝ) * 2 ^ e)) (r, fl))

/-- What NBOPT gives of one element: m', v' and w' (R274). -/
def OptElem (k : List Word) (w m v g : Nat) (m' v' w' : Nat) : Prop :=
  let q (i : Nat) : Nat := (wordAt k i).toNat
  m' = fmaOnce (q 10) m (mulOnce (q 11) g) ∧ v' = fmaOnce (q 12) v (mulOnce (q 13) (mulOnce g g)) ∧
    ∃ root, RootOnce (mulOnce v' (q 18)) root ∧
      w' = fmaOnce ((q 14) ^^^ 0x80000000) (fmaOnce (q 16) w (divOnce (mulOnce m' (q 17)) (addOnce root (q 15)))) w

/-- `out` is what NBOPT writes over the granule `old`: `pick` of each element's results; where one of the four words read is
bad, the old word in poisoned form (R156, R274). -/
def OptWords (k : List Word) (acc old out : List CWord) (pick : Nat × Nat × Nat → Nat) : Prop :=
  out.length = 512 ∧ ∀ j < 512,
    let word (array : Nat) : CWord := acc.getD (512 * array + j) (good 0)
    let val (array : Nat) : Nat := (word array).data.toNat
    if (List.range 4).all (fun array => (word array).isGood) then
      ∃ m v w, OptElem k (val 0) (val 1) (val 2) (val 3) m v w ∧ out.getD j (good 0) = good (BitVec.ofNat 32 (pick (m, v, w)))
    else out.getD j (good 0) = poison (old.getD j (good 0))

/-- `out` is what a scaled row makes of the accumulators; an element with a bad operand is poisoned (R156, R272). -/
def RowAdded (scale : Word) (row acc out : List CWord) : Prop :=
  out.length = 512 ∧ ∀ j < 512,
    let r := row.getD j (good 0)
    let a := acc.getD j (good 0)
    out.getD j (good 0) = if r.isGood && a.isGood then good (BitVec.ofNat 32 (fmaOnce scale.toNat r.data.toNat a.data.toNat))
      else poison a

/-- The words of a result, a bad one being the old word in poisoned form (R140, R156). -/
def overOld (old ws : List CWord) : List CWord :=
  (List.range 512).map (fun j => let x := ws.getD j (good 0); if x.isGood then x else poison (old.getD j (good 0)))

/-- Steps of a pair of granules of one channel: one where they lie in one bank and one subarray, else a read and a write
(R61, R273). -/
def pairTime (q : Nat × Nat) : Nat :=
  if q.1 / 384 % 64 = q.2 / 384 % 64 ∧ q.1 / 384 / 64 / 512 = q.2 / 384 / 64 / 512 then 1 else 2

/-- Value of a KQ4 code: the codebook in 512ths, codes 0 to 7 the negatives of codes 15 to 8 (R187). -/
def codeValue (c : Nat) : Fp :=
  let up (c : Nat) : Nat := [22, 65, 111, 159, 213, 278, 362, 512].getD (c - 8) 512
  if 8 ≤ c then .fin false (up c) (-9) else .fin true (up (15 - c)) (-9)

/-- An element of a copy in its destination format: unchanged, expanded from KQ4 or from MX, rounded to BF16, or a slice;
`aux` holds the bytes of its scale, or of its block code and superscale (R187, R188, R199, R288). -/
def copiedElem (sf df x : Nat) (aux : List Nat) : Nat :=
  let code := aux.getD 0 0
  let sup := aux.getD 1 0 + 256 * aux.getD 2 0 + 65536 * aux.getD 3 0 + 16777216 * aux.getD 4 0
  if sf = 5 then
    if code = 0 then 0
    else if (fmtF32.decode sup).isNan then 0x7FC0
    else
      let bs := (fmtF32.ofFp .rne ((Fp.fin false code 0).mul (fmtF32.decode sup))).1
      (fmtBf16.ofFp .rne ((codeValue x).mul (fmtF32.decode bs))).1
  else if sf = 6 ∨ sf = 7 then
    let v := (if sf = 6 then fmtE4m3 else fmtE2m1).decode x
    let z := if code = 0xFF then Fp.nan false else v.mul (.fin false 1 ((code : ℤ) - 127))
    if z.isNan then (if df = 3 then 0x7F else 0x7FC0) else ((if df = 3 then fmtE4m3 else fmtBf16).ofFp .rne z).1
  else if sf = df then x
  else if df = 9 ∨ df = 10 ∨ df = 11 then bfSlice (df - 9) x
  else (fmtBf16.ofFp .rne (fmtF32.decode x)).1

/-- Index d, from 1 on, of global row r of a copy (R289). -/
def Copy.index (k : Copy) (r d : Nat) : Nat :=
  r / ((List.range (d - 1)).map (fun e => k.layout.count (e + 1))).prod % k.layout.count d
/-- Element i of row r is no padding (R289). -/
def Copy.inside (k : Copy) (r i : Nat) : Prop :=
  i < k.layout.valid 0 ∧ (k.kind = .cpt → ∀ d < 7, k.index r (d + 1) < k.layout.valid (d + 1))
/-- Its byte offset from the base (R289). -/
def Copy.offset (k : Copy) (r i : Nat) : ℤ :=
  (if k.kind = .cpt then ((List.range 7).map (fun d => (k.index r (d + 1) : ℤ) * (k.layout.stride (d + 1)).toInt)).sum else 0) +
    if k.layout.globalBits = 4 then ((i / 2 : ℕ) : ℤ) else i * (k.layout.stride 0).toInt
/-- Its address in the store: canonical, and with XPOSE at row i of its tile (R276, R289). -/
def Copy.storeAddr (k : Copy) (r i : Nat) : Nat :=
  let l := k.layout
  if l.xpose then k.store + (r / l.count 1 * l.count 0 + i) * (l.rowBytes + 16) + r % l.count 1 * l.storeBits / 8
  else k.store + (if k.kind = .cpt then r else (k.rows.getD r (0, 0)).1) * (l.rowBytes + 16) + i * l.storeBits / 8

/-- `w` is what a word becomes that gets some elements: the one source word that they stand in, unchanged; or their
values, each in its place, the rest as in `old`, and in poisoned form if a bit came from a bad word (R141). An element is
(row, element, place in the word), `whole` the source word of them all if there is one. -/
def WordMade (b : Nat) (es : List (Nat × Nat × Nat)) (val : Nat → Nat → Nat) (bad : Nat → Nat → Prop) (whole : CWord → Prop)
    (old w : CWord) : Prop :=
  let taken : Prop := (∃ x ∈ es, bad x.1 x.2.1) ∨ ((∀ x ∈ es, x.2.2 ≠ 0) ∧ old.isGood = false)
  (∀ c, whole c → w = c) ∧
  ((∀ c, ¬ whole c) → (∀ x ∈ es, elemAt b x.2.2 w.data.toNat = val x.1 x.2.1 % 2 ^ b) ∧
    (∀ i < 32 / b, (∀ x ∈ es, x.2.2 ≠ i) → elemAt b i w.data.toNat = elemAt b i old.data.toNat) ∧
    (taken → w = poison (good w.data)) ∧ (¬ taken → w = good w.data))

/-- The same of a word that a copy writes to the store; `word` gives the words read by their addresses (R141, R288, R289). -/
def Copy.InMade (k : Copy) (word : DWord → CWord) (es : List (Nat × Nat × Nat)) (old w : CWord) : Prop :=
  let l := k.layout
  let at_ (r i : Nat) : Elem := k.elem r i
  let bitsAt (a : DWord) (nib size : Nat) : Nat :=
    (word a).data.toNat / 2 ^ (8 * (a.toNat % 4) + (if size = 4 then 4 * nib else 0)) % 2 ^ size
  ∃ val : Nat → Nat → Nat,
    (∀ r i, k.inside r i → val r i = copiedElem l.sfmt l.dfmt (bitsAt (at_ r i).va (at_ r i).nib l.srcBits)
      ((at_ r i).scale.map (fun a => bitsAt a 0 8))) ∧
    (∀ r i, ¬ k.inside r i → val r i = l.pad.toNat) ∧
    WordMade l.storeBits es val (fun r i => k.inside r i ∧ ∃ a ∈ (at_ r i).va :: (at_ r i).scale, (word a).isGood = false)
      (fun c => l.sfmt = l.dfmt ∧ es.length = 32 / l.storeBits ∧ ∃ va : DWord, va.toNat % 4 = 0 ∧ c = word va ∧
        ∀ x ∈ es, k.inside x.1 x.2.1 ∧ (at_ x.1 x.2.1).va = va + BitVec.ofNat 64 (x.2.2 * l.storeBits / 8)) old w

/-- The same of a word of row r that a copy writes to global memory: its elements are those of the store, whose words
`word` gives (R141, R289). -/
def Copy.OutMade (k : Copy) (word : Nat → CWord) (r j : Nat) (w : CWord) : Prop :=
  let b := k.layout.storeBits
  let es := (List.range (32 / b)).map (fun sub => (r, j * (32 / b) + sub, sub))
  WordMade b es (fun r i => (word (k.storeAddr r i)).data.toNat / 2 ^ (8 * (k.storeAddr r i % 4)))
    (fun r i => (word (k.storeAddr r i)).isGood = false)
    (fun c => (BitVec.ofNat 64 (k.storeAddr r (j * (32 / b)))).toNat % 4 = 0 ∧ c = word (k.storeAddr r (j * (32 / b))) ∧
      ∀ x ∈ es, BitVec.ofNat 64 (k.storeAddr x.1 x.2.1) =
        BitVec.ofNat 64 (k.storeAddr r (j * (32 / b))) + BitVec.ofNat 64 (x.2.2 * b / 8)) (good 0) w

/-- `r` is word j of CARD's sum over the participants' blocks `xs` of n words (R141, R202). -/
def CardWord (xs : List (List CWord)) (n j : Nat) (r : CWord) : Prop :=
  let word (p i : Nat) : CWord := (xs.getD p []).getD i (good 0)
  let val (p i : Nat) : Fp := fmtF32.decode (word p i).data.toNat
  let some_ (P : Fp → Prop) : Prop := ∃ p < xs.length, P (val p j)
  let nan : Prop := some_ (fun v => v.isNan = true) ∨ (some_ (· = .inf true) ∧ some_ (· = .inf false))
  let top (E : ℤ) : Prop := (∃ p < xs.length, ∃ i < n, ∃ s m e, val p i = .fin s m e ∧ m ≠ 0 ∧ 2 ^ E ≤ |finReal s m e|) ∧
    ∀ p < xs.length, ∀ i < n, ∀ s m e, val p i = .fin s m e → |finReal s m e| < 2 ^ (E + 1)
  (nan → r.data = 0x7FC00000) ∧
  (¬ nan → ∀ s, some_ (· = .inf s) → r.data = if s then 0xFF800000 else 0x7F800000) ∧
  (¬ nan → (∀ s, ¬ some_ (· = .inf s)) →
    ((∀ p < xs.length, ∀ i < n, ∀ s m e, val p i = .fin s m e → m = 0) → r.data = 0) ∧
    (∀ E, top E → ∃ q : Nat → ℤ,
      (∀ p < xs.length, ∀ s m e, val p j = .fin s m e → IntChosen .rne (finReal s m e * 2 ^ (40 - E)) (q p)) ∧
      let sum : ℤ := ((List.range xs.length).map q).sum
      ∃ fl, fmtF32.RoundedTo .rne (decide (sum < 0)) (|(sum : ℝ)| * 2 ^ (E - 40)) (r.data.toNat, fl))) ∧
  ((∀ p < xs.length, (word p j).isGood = true) → r = good r.data) ∧
  ((∃ p < xs.length, (word p j).isGood = false) → r = poison (good r.data))

/-- The fields of a launch record, by word and bits (R325). -/
def RecordFields (ws : List Word) (r : LaunchRec) : Prop :=
  let f (i hi lo : Nat) : Nat := (wordAt ws i).toNat / 2 ^ lo % 2 ^ (hi + 1 - lo)
  r.entry = dwordAt ws 0 ∧ r.ntx = f 2 23 0 ∧ r.nty = f 3 23 0 ∧ r.ntz = f 4 23 0 ∧ r.w = f 5 11 0 ∧ r.c = f 5 17 12 ∧
  r.roles = wordAt ws 9 ++ wordAt ws 8 ++ wordAt ws 7 ++ wordAt ws 6 ∧ r.regs = 8 * f 10 5 0 ∧ r.acc = f 10 12 6 ∧
  r.nring = f 10 18 13 ∧ r.nbar = f 10 25 19 ∧ r.nsoft = f 10 30 26 ∧ r.scratch = f 11 13 0 ∧ r.dstk = f 11 24 14 ∧
  r.ringtab = dwordAt ws 12 ∧ (r.relaunch = true ↔ f 14 0 0 = 1) ∧ (r.gridbar = true ↔ f 14 1 1 = 1) ∧
  (r.fusel1 = true ↔ f 14 2 2 = 1) ∧ (r.spread = true ↔ f 14 3 3 = 1) ∧ r.prio = f 14 5 4 ∧ r.dclass = f 14 7 6 ∧
  r.podgrp = f 14 15 8 ∧ (r.cint = true ↔ f 14 16 16 = 1) ∧ r.param = dwordAt ws 15 ∧ r.prod = wordAt ws 17 ∧
  (r.dep = true ↔ f 18 0 0 = 1) ∧ r.map = f 18 2 1 ∧ r.rb = f 18 15 8 ∧ r.tiles = f 19 23 0 ∧ r.compva = dwordAt ws 20 ∧
  r.saveva = dwordAt ws 22

/-- Quads that a partition has on a die. -/
def dieQuads (p : Partition) (die : Nat) : Nat := ((List.range 24).filter (fun q => p.quads.getLsbD (24 * die + q))).length

/-- A record fails check n of R326. -/
def RecordFails (s : State) (part : Nat) (q : Queue) (whole : Bool) (ws : List Word) (ctx : Bool) (n : Nat) : Prop :=
  let p := getPartition s part
  let r := recordOf ws
  let f (i hi lo : Nat) : Nat := (wordAt ws i).toNat / 2 ^ lo % 2 ^ (hi + 1 - lo)
  let cores := if r.spread then r.c else 1
  let per := r.w / cores
  match n with
  | 1 => whole = false ∨ f 31 31 22 ≠ q.lap ∨ f 31 21 0 ≠ q.head ∨ (∃ x ∈ [f 2 31 24, f 3 31 24, f 4 31 24, f 5 31 18,
      f 10 31 31, f 11 31 25, f 14 31 17, f 18 7 3, f 18 31 16, f 19 31 24], x ≠ 0) ∨ ∃ i < 7, wordAt ws (24 + i) ≠ 0
  | 2 => r.entry.toNat % 4 ≠ 0 ∨ r.ntx = 0 ∨ r.nty = 0 ∨ r.ntz = 0 ∨ 2 ^ 32 ≤ r.ntx * r.nty * r.ntz ∨
      (r.spread = true ∧ ¬ (4 ≤ r.w ∧ r.w ≤ 2048 ∧ 4 ≤ r.c ∧ r.c ≤ 32 ∧ r.c % 4 = 0 ∧ r.w % r.c = 0 ∧ per ≤ 64)) ∨
      (r.spread = false ∧ ¬ (1 ≤ r.w ∧ r.w ≤ 64 ∧ r.c = 0)) ∨ r.regs < 8 ∨ 256 < r.regs ∨ 16 < r.acc ∨ 32 < r.nring ∨
      64 < r.nbar ∨ 16 < r.nsoft ∨ 8191 < r.scratch ∨ 1024 < r.dstk ∨ (r.nring = 0 ∧ r.ringtab ≠ 0) ∨ 2 ≤ r.map ∨
      (r.map = 1 ∧ r.rb = 0) ∨ r.compva.toNat % 32 ≠ 0 ∨ r.saveva.toNat % 4096 ≠ 0
  | 3 => ∃ i, per ≤ i ∧ i < 64 ∧ r.roles.toNat / 4 ^ i % 4 ≠ 0
  | 4 => 983040 < per * (256 + 128 * r.regs) + max 128 ((128 * r.scratch + per * r.dstk * 16 + 127) / 128 * 128)
  | 5 => if r.spread then ∀ d < 4, dieQuads p d < r.c / 4 else p.quads = 0
  | 6 => r.gridbar = true ∧ r.saveva = 0 ∧ partRoom p r < r.ntx * r.nty * r.ntz
  | 7 => r.nring ≠ 0 ∧ ∀ l, sowerWords? s part ctx r.ringtab r.nring = some l → ∃ x ∈ l, 2 ^ 15 ≤ x.toNat
  | 8 => r.dep = true ∧ (r.prod.toNat / 2 ^ 28 ≠ part ∨ (∃ g, producerOf s part r.prod = .running g ∧ g.failed.isSome) ∨
      ∃ st, producerOf s part r.prod = .done st ∧ st ≠ 4)
  | 9 => r.podgrp ≠ 0 ∧ podEntry? s part ctx r.podgrp = none
  | _ => False

/-- A queue may give up its head record now: it is enabled and not empty, its own records before have all been placed, or
with SER completed, and no member of the record's pod group is on the device (R323, R340). -/
def QueueReady (s : State) (part qn : Nat) : Prop :=
  let q := getQueue (getPartition s part) qn
  let group := (wordAt ((headRecord s q).map (·.data)) 14).toNat / 2 ^ 8 % 256
  qn < 64 ∧ q.en = true ∧ q.count ≠ 0 ∧
  (∀ g ∈ s.grids, g.part = part → g.queue = qn → q.ser = false ∧ g.allPlaced = true) ∧
  (group ≠ 0 → (∀ g ∈ s.grids, g.part = part → g.r.podgrp ≠ group) ∧ ∀ d ∈ s.pods, ¬ (d.part = part ∧ d.group = group))

/-- An order of two candidates: by priority, relaunches first, by taking, and within a launch by TEAMLIN (R329). -/
def CandBefore (s : State) (a b : Cand) : Prop :=
  b.grid.r.prio < a.grid.r.prio ∨ (b.grid.r.prio = a.grid.r.prio ∧
    ((a.relaunch.isSome = true ∧ b.relaunch = none) ∨ (a.relaunch.isSome = b.relaunch.isSome ∧
      (s.grids.idxOf a.grid < s.grids.idxOf b.grid ∨ (a.grid = b.grid ∧ a.lin ≤ b.lin)))))

/-- The estimator's options for a team and a deadline, each with its cost (R338). -/
def ExitOption (s : State) (t : Team) (d : Nat) (e : Exit) (cost : Nat) : Prop :=
  let r := recOf s t
  let since := s.cycle - t.since
  let waits : Prop := ∃ w ∈ s.warps, w.team = t.uid ∧ ∃ y ∈ w.allSlots, ∃ n ph, y.block = .bar .grid n ph
  match e with
  | .drain => cost = 0 ∧ t.progress ≠ 0 ∧ ¬ waits ∧ ∃ x ≤ d, since * (256 - t.progress) ≤ x * t.progress
  | .save => ∃ x ≤ d, cost = 2 * x ∧ saveTime s t = some x
  | .discard => r.relaunch = true ∧ cost = since

/-- A word of a table as a walk reads it: a request over the fabric to this device itself is imported first (R352, R353). -/
def tableWord (s : State) (pa : Nat) : TableWord :=
  if ownFabric pa then ownTableWord s pa else if targetOk pa then .word (wordNow s pa false) else .bad

/-- A part has done its step, and keeps `acc` (R272 to R274). -/
def Stepped (t : State) (p : Part) (acc : List CWord) : Prop :=
  ∃ q, findPart? t p.id = some q ∧ q.upc = p.upc + 1 ∧ q.acc = acc ∧ q.kind = p.kind

/-- The notification of an engine has been made: a word of the store has a value (R290). -/
def Notified (s t : State) (n : CopyNotify) (v : Word) : Prop :=
  s.store.wf = true → ∀ key, n = .word key → t.store.word key = good v

end Sys2Proof.Machine
end

