-- ==== Sys2Proof/Certificates/Slice0/Obligations.lean ====
section
/-! DEFINITION. The statements about this model, for the provers: each is a proposition under `Obligations`. -/

open Sys2Proof Sys2Proof.Machine

/-! ### The integer group -/

/-- R207, R208: every element of the result of ADD, SUB, MUL, MULH, MIN, MAX, ABS, NEG and MAD is the exact result of
the operands' elements modulo 2^w, MADW's pair is the 64-bit sum; nothing else changes and no flag is raised. -/
def Obligations.IntegerArithmeticIsExactModuloWidth : Prop :=
  (∀ o, GivesLanes (.add o) o.guard o.dst (IntResult o.ty o.a o.b (exactly o.ty (fun a b => a + b)))) ∧
  (∀ o, GivesLanes (.sub o) o.guard o.dst (IntResult o.ty o.a o.b (exactly o.ty (fun a b => a - b)))) ∧
  (∀ o, GivesLanes (.mul o) o.guard o.dst (IntResult o.ty o.a o.b (exactly o.ty (fun a b => a * b)))) ∧
  (∀ o, GivesLanes (.mulh o) o.guard o.dst
    (IntResult o.ty o.a o.b (exactly o.ty (fun a b => a * b / (2 ^ tyWidth o.ty : Nat))))) ∧
  (∀ o, GivesLanes (.min o) o.guard o.dst (IntResult o.ty o.a o.b (exactly o.ty (fun a b => if a < b then a else b)))) ∧
  (∀ o, GivesLanes (.max o) o.guard o.dst (IntResult o.ty o.a o.b (exactly o.ty (fun a b => if b < a then a else b)))) ∧
  (∀ o, GivesLanes (.abs o) o.guard o.dst (UnaryResult o.ty o.a (fun a =>
    let x := sval (tyWidth o.ty) a
    wrap (tyWidth o.ty) (if x < 0 then 0 - x else x)))) ∧
  (∀ o, GivesLanes (.neg o) o.guard o.dst (UnaryResult o.ty o.a (fun a => wrap (tyWidth o.ty) (0 - (a : Int))))) ∧
  (∀ o, GivesLanes (.mad o) o.guard (.v o.dst) (fun c l r =>
    r.flags = 0 ∧ r.words.length = wideN o.ty.is64 ∧ ∀ k < tyCount o.ty,
      let e (x : Src) : Int := ival o.ty.isSigned (tyWidth o.ty) (elemAt (tyWidth o.ty) k (c.opnd o.ty x l))
      elemAt (tyWidth o.ty) k (wordsNat r.words) = wrap (tyWidth o.ty) (e o.a * e o.b + e (.v o.c)))) ∧
  (∀ o, GivesLanes (.madw o) o.guard (.v o.dst) (fun c l r =>
    let e (x : Src) : Int := ival o.ty.isSigned 32 (c.src x l).toNat
    ValueResult 2 (wrap 64 (e o.a * e o.b + (c.src64 false (.v o.c) l).toNat)) r))

/-- R207, R209: ADDS and SUBS hold the exact result within the type's limits and raise IOV where it was not; DIV and
REM truncate, with the results and flags of the table of R209 by zero and for the least value by -1. -/
def Obligations.SaturationAndDivisionHaveTheirEdgeCases : Prop :=
  (∀ o, GivesLanes (.adds o) o.guard o.dst (IntResult o.ty o.a o.b (saturated o.ty (fun a b => a + b)))) ∧
  (∀ o, GivesLanes (.subs o) o.guard o.dst (IntResult o.ty o.a o.b (saturated o.ty (fun a b => a - b)))) ∧
  (∀ o, GivesLanes (.div o) o.guard o.dst (IntResult o.ty o.a o.b (divided o.ty
    (fun x _ => if x < 0 then intLo o.ty.isSigned (tyWidth o.ty) else intHi o.ty.isSigned (tyWidth o.ty))
    (fun x _ => x) (fun x y => x.tdiv y)))) ∧
  (∀ o, GivesLanes (.rem o) o.guard o.dst (IntResult o.ty o.a o.b (divided o.ty
    (fun x _ => x) (fun _ _ => 0) (fun x y => x - x.tdiv y * y))))

/-- R210, R211: the bitwise results and the shifts of every element, by a count taken modulo the width; FUNS is a right
funnel shift of A above C. -/
def Obligations.LogicAndShiftsActOnEveryElement : Prop :=
  (∀ o, GivesLanes (.and o) o.guard o.dst (IntResult o.ty o.a o.b (fun a b =>
    (bitsOf (tyWidth o.ty) (fun j => a.testBit j && b.testBit j), 0)))) ∧
  (∀ o, GivesLanes (.or o) o.guard o.dst (IntResult o.ty o.a o.b (fun a b =>
    (bitsOf (tyWidth o.ty) (fun j => a.testBit j || b.testBit j), 0)))) ∧
  (∀ o, GivesLanes (.xor o) o.guard o.dst (IntResult o.ty o.a o.b (fun a b =>
    (bitsOf (tyWidth o.ty) (fun j => a.testBit j != b.testBit j), 0)))) ∧
  (∀ o, GivesLanes (.andn o) o.guard o.dst (IntResult o.ty o.a o.b (fun a b =>
    (bitsOf (tyWidth o.ty) (fun j => a.testBit j && !b.testBit j), 0)))) ∧
  (∀ o, GivesLanes (.not o) o.guard o.dst (UnaryResult o.ty o.a (fun a =>
    bitsOf (tyWidth o.ty) (fun j => !a.testBit j)))) ∧
  (∀ o, GivesLanes (.mov o) o.guard o.dst (UnaryResult o.ty o.a (fun a => a))) ∧
  (∀ o, GivesLanes (.shl o) o.guard o.dst (CountResult o.ty o.a o.b (fun a b =>
    a * 2 ^ (b % tyWidth o.ty) % 2 ^ tyWidth o.ty))) ∧
  (∀ o, GivesLanes (.shr o) o.guard o.dst (CountResult o.ty o.a o.b (fun a b => a / 2 ^ (b % tyWidth o.ty)))) ∧
  (∀ o, GivesLanes (.sar o) o.guard o.dst (CountResult o.ty o.a o.b (fun a b =>
    wrap (tyWidth o.ty) (sval (tyWidth o.ty) a / (2 ^ (b % tyWidth o.ty) : Nat))))) ∧
  (∀ o, GivesLanes (.rotl o) o.guard o.dst (CountResult o.ty o.a o.b (fun a b =>
    bitsOf (tyWidth o.ty) (fun j => a.testBit ((j + tyWidth o.ty - b % tyWidth o.ty) % tyWidth o.ty))))) ∧
  (∀ o, GivesLanes (.funs o) o.guard (.v o.dst) (fun c l r =>
    ValueResult 1 (((c.src o.a l).toNat * 2 ^ 32 + (c.src (.v o.c) l).toNat) / 2 ^ ((c.src o.b l).toNat % 64) % 2 ^ 32) r))

/-- R212, R213, R214: counts of one bits and of leading and trailing zeros, reversal, fields taken and put in, and
scaled addresses. -/
def Obligations.BitCountsFieldsAndScaledAddresses : Prop :=
  (∀ o, GivesLanes (.popc o) o.guard o.dst (NarrowResult o.ty o.a (fun a =>
    ((List.range (tyWidth o.ty)).filter (fun j => a.testBit j)).length))) ∧
  (∀ o, GivesLanes (.clz o) o.guard o.dst (NarrowResult o.ty o.a (fun a =>
    ((List.range (tyWidth o.ty)).filter (fun j => decide (a < 2 ^ j))).length))) ∧
  (∀ o, GivesLanes (.ctz o) o.guard o.dst (NarrowResult o.ty o.a (fun a =>
    ((List.range (tyWidth o.ty)).filter (fun j => decide (a % 2 ^ (j + 1) = 0))).length))) ∧
  (∀ o, GivesLanes (.brev o) o.guard o.dst (UnaryResult o.ty o.a (fun a =>
    bitsOf (tyWidth o.ty) (fun j => a.testBit (tyWidth o.ty - 1 - j))))) ∧
  (∀ o, GivesLanes (.bfx o) o.guard (.v o.dst) (fun c l r =>
    let w := tyWidth o.ty
    let a := c.opnd o.ty o.a l
    let p := (c.src o.b l).toNat % 256
    let n := min ((c.src (.v o.c) l).toNat % 256) w
    let bit (j : Nat) : Bool := if j < w then a.testBit j else o.ty.isSigned && a.testBit (w - 1)
    ValueResult (wideN o.ty.is64)
      (if n = 0 then 0 else bitsOf w (fun j => if j < n then bit (p + j) else o.ty.isSigned && bit (p + n - 1))) r)) ∧
  (∀ o, GivesLanes (.bfi o) o.guard (.v o.dst) (fun c l r =>
    let w := tyWidth o.ty
    let a := c.opnd o.ty o.a l
    let b := (c.src o.b l).toNat
    let p := b % 256
    let n := min (b / 256 % 256) w
    ValueResult (wideN o.ty.is64) (bitsOf w (fun j =>
      if p ≤ j ∧ j < p + n then a.testBit (j - p) else (c.opnd o.ty (.v o.c) l).testBit j)) r)) ∧
  (∀ o, GivesLanes (.lea o) o.guard (.v o.dst) (fun c l r =>
    let w := tyWidth o.ty
    ValueResult (wideN o.ty.is64) (wrap w ((c.opnd o.ty o.a l : Int) +
      ival o.ty.isSigned 32 (c.src o.b l).toNat * (2 ^ ((c.src (.v o.c) l).toNat % w) : Nat))) r))

/-! ### Compare, select, bits and lanes -/

/-- R215, R243, R216, R217: CMP and FCMP change one bit of DST (FCMP one for each element), FCMP with the flags of an
unordered pair; SEL takes A or B by a bit; BITOP sets, clears, flips or combines one bit. -/
def Obligations.CompareSelectAndBitOps : Prop :=
  (∀ o, GivesLanes (.cmp o) o.guard o.dst (fun c l r => r.flags = 0 ∧ ∃ v, r.words = [v] ∧ ∀ j < 32, v.getLsbD j =
    if j = o.bit.toNat then ordered o.cond (ival o.ty.isSigned (tyWidth o.ty) (c.opnd o.ty o.a l))
      (ival o.ty.isSigned (tyWidth o.ty) (c.opnd o.ty o.b l))
    else (c.dstOld o.dst l).getLsbD j)) ∧
  (∀ o, GivesLanes (.fcmp o) o.guard o.dst (fun c l r =>
    let f := ftyFormat o.ty
    let e (x : Src) (k : Nat) : Fp := f.decode (elemAt f.width k (c.src x l).toNat)
    r.flags = (List.range (ftyCount o.ty)).foldr (fun k m => (compared o.cond (e o.a k) (e o.b k)).2 ||| m) 0 ∧
      ∃ v, r.words = [v] ∧ ∀ j < 32, v.getLsbD j =
        if o.bit.toNat ≤ j ∧ j < o.bit.toNat + ftyCount o.ty then
          (compared o.cond (e o.a (j - o.bit.toNat)) (e o.b (j - o.bit.toNat))).1
        else (c.dstOld o.dst l).getLsbD j)) ∧
  (∀ o, GivesLanes (.sel o) none (.v o.dst) (fun c l r =>
    let x := if (c.vec o.reg.toNat l).getLsbD o.bit.toNat = o.inv then o.b else o.a
    match o.ty with
    | .word => ValueResult 1 (c.src x l).toNat r
    | .i64 => ValueResult 2 (c.src64 true x l).toNat r
    | .n64 => ValueResult 2 (c.src64 false x l).toNat r)) ∧
  (∀ o, GivesLanes (.bitop o) o.guard o.dst (fun c l r =>
    let d := c.dstOld o.dst l
    let x := d.getLsbD o.bit.toNat
    r.flags = 0 ∧ ∃ v, r.words = [v] ∧ ∀ j < 32, v.getLsbD j =
      if j = o.bit.toNat then
        match o.kind with
        | .set => true
        | .clr => false
        | .flip => !x
        | .and y k => x && (c.src y l).getLsbD k.toNat
        | .or y k => x || (c.src y l).getLsbD k.toNat
      else d.getLsbD j))

/-- R218, R219, R221: SHFL reads A in the lane its mode names, its own where there is none; VOTE gathers a bit over the
participating lanes; MATCH gives each lane the participating lanes whose values equal its own. -/
def Obligations.LanesExchangeVoteAndMatch : Prop :=
  (∀ o, GivesLanes (.shfl o) o.guard (.v o.dst) (fun c l r =>
    let k := (c.src o.b l).toNat
    let m := match o.mode with
      | .idx => k % 32
      | .xor => l ^^^ (k % 32)
      | .up => if k ≤ l then l - k else l
      | .down => if l + k ≤ 31 then l + k else l
    r.flags = 0 ∧ r.words = if o.pair then [c.word o.a 0 m, c.word o.a 1 m] else [c.word o.a 0 m])) ∧
  (∀ o, Writes (.vote o) (fun c ws fl =>
    let on (l : Nat) : Bool := (c.src o.a l).getLsbD o.bit.toNat
    fl = 0 ∧ ∃ v, ws = [(sKey o.dst.toNat, v)] ∧
      match o.kind with
      | .any => v = if ∃ l ∈ c.lanes o.guard, on l = true then 1 else 0
      | .all => v = if ∀ l ∈ c.lanes o.guard, on l = true then 1 else 0
      | .ballot => ∀ l < 32, v.getLsbD l = ((c.lanes o.guard).contains l && on l))) ∧
  (∀ o, GivesLanes (.matchLanes o) o.guard (.v o.dst) (fun c l r =>
    let e (m : Nat) : Nat := if o.pair then (c.src64 false o.a m).toNat else (c.src o.a m).toNat
    r.flags = 0 ∧ ∃ v, r.words = [v] ∧ ∀ m < 32, v.getLsbD m = ((c.lanes o.guard).contains m && e m == e l)))

/-- R200, R201, R220: over the participating lanes WRED combines as the tree of R200 does, and an integer type in ascending
order too; WSCAN gives each lane the combination of those up to it, or of those before it for EXCL; without a lane, or
for the first one of EXCL, it is the identity of the table. The flags are those of every combination made; that an
exclusive scan makes that of the last lane too is log 113. -/
def Obligations.ReductionsAndScansCombineLanes : Prop :=
  (∀ o : WredOp, redLegal o.op o.ty → Writes (.wred o) (fun c ws fl =>
    let t := treeNode o.op o.ty
      (fun l => if (c.lanes o.guard).contains l then some (c.redSrc o.ty o.a l) else none) 5 0
    fl = t.2 ∧ ws = dstWords (.s o.dst) 0 (valueWords o.ty (t.1.getD (neutral o.op o.ty))))) ∧
  (∀ o : WredOp, o.ty ≠ .f32 → Writes (.wred o) (fun c ws fl => fl = 0 ∧
    ws = dstWords (.s o.dst) 0 (valueWords o.ty (combined o.op o.ty ((c.lanes o.guard).map (c.redSrc o.ty o.a)))))) ∧
  (∀ o : WscanOp, redLegal o.op o.ty → Writes (.wscan o) (fun c ws fl =>
    let v := c.redSrc o.ty o.a
    let lanes := c.lanes o.guard
    let before (l : Nat) : List Nat := (lanes.filter (fun m => decide (m < l))).map v
    let sum (l : Nat) : Nat := combined o.op o.ty (if o.excl then before l else before l ++ [v l])
    fl = lanes.foldr (fun l m =>
      (if before l = [] then 0 else (combine o.op o.ty (combined o.op o.ty (before l)) (v l)).2) ||| m) 0 ∧
    ws = (lanes.map (fun l => dstWords (.v o.dst) l (valueWords o.ty (sum l)))).flatten))

/-! ### Floating point -/

/-- R237 to R242, R244: each element of the result is the exact result of the operands' elements rounded once, for FRND to an
integer, and the flags are those of the elements. -/
def Obligations.FloatArithmeticRoundsExactResultsOnce : Prop :=
  (∀ o, GivesLanes (.fadd o) o.guard (.v o.dst) (FpResult o.ty o.a o.b (.lit 0) (fun f x y _ =>
    f.sum o.rnd [f.decode x, f.decode y]))) ∧
  (∀ o, GivesLanes (.fsub o) o.guard (.v o.dst) (FpResult o.ty o.a o.b (.lit 0) (fun f x y _ =>
    f.sum o.rnd [f.decode x, (f.decode y).negate]))) ∧
  (∀ o, GivesLanes (.fmul o) o.guard (.v o.dst) (FpResult o.ty o.a o.b (.lit 0) (fun f x y _ =>
    f.ofFp o.rnd ((f.decode x).mul (f.decode y))))) ∧
  (∀ o, GivesLanes (.ffma o) o.guard (.v o.dst) (FpResult o.ty o.a o.b (.v o.c) (fun f x y z =>
    f.sum .rne [(f.decode x).mul (f.decode y), f.decode z]))) ∧
  (∀ o, GivesLanes (.fdiv o) o.guard (.v o.dst) (FpResult o.ty o.a o.b (.lit 0) (fun f x y _ =>
    f.div o.rnd (f.decode x) (f.decode y)))) ∧
  (∀ o, GivesLanes (.fscl o) o.guard (.v o.dst) (FpResult o.ty o.a o.b (.lit 0) (fun f x y _ =>
    match f.decode x with
    | .nan s => f.canon s
    | .inf s => f.infinity s
    | .fin s m e => f.round o.rnd s m (e + max (-1000) (min 1000 (sval f.width y))) false))) ∧
  (∀ o, GivesLanes (.frnd o) o.guard (.v o.dst) (FnResult o.ty o.a (fun f x v => f.WholeOf o.rnd x v))) ∧
  (∀ o, GivesLanes (.fdot2 o) o.guard (.v o.dst) (fun c l r =>
    let f := ftyFormat o.ty
    let e (x : Src) (k : Nat) : Fp := f.decode (elemAt 16 k (c.src x l).toNat)
    let v := fmtF32.sum .rne [(e o.a 0).mul (e o.b 0), (e o.a 1).mul (e o.b 1), fmtF32.decode (c.src (.v o.c) l).toNat]
    r.flags = v.2 ∧ r.words = [BitVec.ofNat 32 v.1]))

/-- R239 to R242: minimum and maximum take the other operand of a NaN and order -0 before +0; sign operations act on bits
and raise nothing; FCLASS sets one bit; FSAT holds a value within 0 and 1; FXTR gives floor(log2). -/
def Obligations.FloatMinMaxSignClassAndRange : Prop :=
  (∀ o, GivesLanes (.fmin o) o.guard (.v o.dst) (FpResult o.ty o.a o.b (.lit 0) (fun f x y _ => lesser f x y x y))) ∧
  (∀ o, GivesLanes (.fmax o) o.guard (.v o.dst) (FpResult o.ty o.a o.b (.lit 0) (fun f x y _ => lesser f x y y x))) ∧
  (∀ o, GivesLanes (.fabs o) o.guard (.v o.dst) (FpResult o.ty o.a (.lit 0) (.lit 0) (fun f x _ _ =>
    (bitsOf f.width (fun j => decide (j ≠ f.width - 1) && x.testBit j), 0)))) ∧
  (∀ o, GivesLanes (.fneg o) o.guard (.v o.dst) (FpResult o.ty o.a (.lit 0) (.lit 0) (fun f x _ _ =>
    (bitsOf f.width (fun j => x.testBit j != decide (j = f.width - 1)), 0)))) ∧
  (∀ o, GivesLanes (.fcps o) o.guard (.v o.dst) (FpResult o.ty o.a o.b (.lit 0) (fun f x y _ =>
    (bitsOf f.width (fun j => if j = f.width - 1 then y.testBit j else x.testBit j), 0)))) ∧
  (∀ o, GivesLanes (.fclass o) o.guard (.v o.dst) (FpResult o.ty o.a (.lit 0) (.lit 0) (fun f x _ _ =>
    (2 ^ (match f.decode x with
      | .inf s => if s then 0 else 7
      | .fin s m _ =>
        if m = 0 then (if s then 3 else 4)
        else if m < 2 ^ f.mb then (if s then 2 else 5)
        else if s then 1 else 6
      | .nan s => if s then 8 else 9), 0)))) ∧
  (∀ o, GivesLanes (.fxtr o) o.guard (.v o.dst) (FpResult o.ty o.a (.lit 0) (.lit 0) (fun f x _ _ =>
    match f.decode x with
    | .nan _ => (2 ^ (f.width - 1), flNV)
    | .inf _ => (2 ^ (f.width - 1) - 1, flNV)
    | .fin _ m e => if m = 0 then (2 ^ (f.width - 1), flNV) else (wrap f.width (e + Nat.log2 m), 0)))) ∧
  (∀ o, GivesLanes (.fsat o) o.guard (.v o.dst) (FpResult o.ty o.a (.lit 0) (.lit 0) (fun f x _ _ =>
    match f.decode x with
    | .nan s => (0, if s then flNV else 0)
    | v => if v.neg then (0, 0) else (min x (f.bias * 2 ^ f.mb), 0))))

/-- R181, R190 to R193: an element's bits give its value, an infinity or a NaN; a representable value rounds to itself
without a flag in every mode, and a NaN to the canonical one with NV if it signals; any other value rounds to its
neighbour by the mode, with the overflow results and the flags of their rules; and so do an exact sum and an exact
quotient, with the signs of zeros and the special values of R193, which products follow too. -/
def Obligations.RepresentableValuesRoundToThemselves : Prop :=
  (∀ f ∈ [fmtF32, fmtBf16, fmtF16, fmtE4m3, fmtE5m2, fmtE2m1], ∀ (m : Rnd), ∀ x < 2 ^ f.width,
    let k := x % 2 ^ (f.width - 1)
    let neg := decide (2 ^ (f.width - 1) ≤ x)
    (∀ s, f.decode x = .nan s → f.ofFp m (f.decode x) = (f.nan, if s then flNV else 0)) ∧
    ((f.decode x).isNan = false → f.ofFp m (f.decode x) = (x, 0)) ∧
    (k ≤ f.big → ∃ n e, f.decode x = .fin neg n e ∧ (n : ℝ) * 2 ^ e = f.magOf k) ∧
    (f.hasInf = true → k = f.big + 1 → f.decode x = .inf neg) ∧
    ((if f.hasInf then f.big + 1 else f.big) < k →
      f.decode x = .nan (f.signals && decide (k % 2 ^ f.mb < 2 ^ (f.mb - 1))))) ∧
  (∀ f ∈ [fmtF32, fmtBf16, fmtF16, fmtE4m3, fmtE5m2, fmtE2m1], ∀ (m : Rnd) neg (n : Nat) (e : Int),
    f.RoundedTo m neg ((n : ℝ) * 2 ^ e) (f.round m neg n e false)) ∧
  (∀ f ∈ [fmtF32, fmtBf16, fmtF16], ∀ (m : Rnd),
    (∀ ts : List (Bool × Nat × Int),
      let v := f.sum m (ts.map (fun t => .fin t.1 t.2.1 t.2.2))
      let z := (ts.map (fun t => finReal t.1 t.2.1 t.2.2)).sum
      (∀ neg : Bool, z ≠ 0 → (neg = true ↔ z < 0) → f.RoundedTo m neg |z| v) ∧
      (z = 0 → ∀ neg : Bool, ts ≠ [] → (∀ t ∈ ts, t.2.1 = 0 ∧ t.1 = neg) →
        v = (if neg then 2 ^ (f.width - 1) else 0, 0)) ∧
      (z = 0 → (¬ ∃ neg, ∀ t ∈ ts, t.2.1 = 0 ∧ t.1 = neg) → v = (if m = .rd then 2 ^ (f.width - 1) else 0, 0))) ∧
    (∀ ts : List Fp,
      let opposed := Fp.inf true ∈ ts ∧ Fp.inf false ∈ ts
      (opposed ∨ (∃ t ∈ ts, t = .nan true) → f.sum m ts = (f.nan, flNV)) ∧
      (¬ opposed → Fp.nan true ∉ ts → Fp.nan false ∈ ts → f.sum m ts = (f.nan, 0)) ∧
      (∀ s, Fp.inf s ∈ ts → ¬ opposed → (∀ q, Fp.nan q ∉ ts) →
        f.sum m ts = ((if s then 2 ^ (f.width - 1) else 0) + f.big + 1, 0))) ∧
    (∀ s t (a b : Nat) (e g : Int),
      (Fp.fin s a e).mul (.fin t b g) = .fin (s != t) (a * b) (e + g) ∧
      (∀ x : Fp, x = .fin t b g ∨ x = .inf t → (x = .fin t b g → b ≠ 0) → (Fp.inf s).mul x = .inf (s != t) ∧
        x.mul (.inf s) = .inf (t != s)) ∧
      (b = 0 → (Fp.inf s).mul (.fin t b g) = .nan true ∧ (Fp.fin t b g).mul (.inf s) = .nan true) ∧
      (∀ x : Fp, (Fp.nan s).mul x = .nan (s || decide (x = .nan true)) ∧ x.mul (.nan s) = .nan (s || decide (x = .nan true))) ∧
      let v := f.div m (.fin s a e) (.fin t b g)
      let sign := if s = t then 0 else 2 ^ (f.width - 1)
      (a ≠ 0 → b ≠ 0 → f.RoundedTo m (s != t) ((a : ℝ) * 2 ^ e / (b * 2 ^ g)) v) ∧
      (a ≠ 0 → b = 0 → v = (sign + f.big + 1, flDZ)) ∧ (a = 0 → b ≠ 0 → v = (sign, 0)) ∧
      (a = 0 → b = 0 → v = (f.nan, flNV)) ∧
      f.div m (.inf s) (.inf t) = (f.nan, flNV) ∧ f.div m (.inf s) (.fin t b g) = (sign + f.big + 1, 0) ∧
      f.div m (.fin s a e) (.inf t) = (sign, 0) ∧
      ∀ x : Fp, f.div m (.nan s) x = (f.nan, if s = true ∨ x = .nan true then flNV else 0) ∧
        f.div m x (.nan s) = (f.nan, if s = true ∨ x = .nan true then flNV else 0)))

/-- R193, R245, R247 to R249: CVT, PACK and UNPK convert their source's low bits or elements. -/
def Obligations.ConversionsFillTheirDestinations : Prop :=
  (∀ o, GivesLanes (.cvt o) o.guard (.v o.dst) (fun c l r =>
    let x := if o.sfmt.is64 then (c.src64 false o.a l).toNat else (c.src o.a l).toNat
    let v := match o.mode with
      | .rnd m => cvtElem o.dfmt o.sfmt m none x
      | .sr q => cvtElem o.dfmt o.sfmt .rne (some (c.src q l).toNat) x
    r.flags = v.2 ∧ r.words.length = wideN o.dfmt.is64 ∧ wordsNat r.words = v.1 % 2 ^ (if o.dfmt.is64 then 64 else 32))) ∧
  (∀ o, GivesLanes (.pack o) o.guard (.v o.dst) (fun c l r =>
    let w := fmtWidth o.fmt
    let e (x : Src) : Nat × Word := cvtElem o.fmt (packSrc o.fmt) o.rnd none (c.src x l).toNat
    r.flags = (e o.a).2 ||| (e o.b).2 ∧ r.words.length = 1 ∧ ∀ k < 32 / w, elemAt w k (wordsNat r.words) =
      if k = 2 * o.pos.toNat then (e o.a).1 % 2 ^ w
      else if k = 2 * o.pos.toNat + 1 then (e o.b).1 % 2 ^ w
      else elemAt w k (c.vec o.dst.toNat l).toNat)) ∧
  (∀ o, GivesLanes (.unpk o) o.guard (.v o.dst) (fun c l r =>
    let e (k : Nat) : Nat × Word :=
      widened o.fmt (elemAt (fmtWidth o.fmt) (2 * o.pos.toNat + k) (c.src o.a l).toNat)
    r.flags = (e 0).2 ||| (e 1).2 ∧ r.words = [BitVec.ofNat 32 (e 0).1, BitVec.ofNat 32 (e 1).1]))

/-- R193, R194, R245, R247: what a conversion gives. To an integer: of a NaN 0 with NV, of a value outside the range its
nearer end with CVS, of any other the integer that the mode chooses with NX if it differs; from an integer the nearer
end with CVS; a narrow signed result fills its register with its sign. To a float: a NaN is canonical (+0 with NV in
E2M1), an infinity that the format lacks is its largest value with CVS, any other value is rounded once. With a random
word it is rounded by that word. To E8M0 it is the power of two that the mode chooses; from E8M0 that power. The model's
readings: with a random word an infinity gives the largest finite value with CVS in every format and every NaN raises NV (log
19), CVS is judged on the rounded value (log 26), and E8M0 of a value below its range raises CVS and NX alone (log 122). -/
def Obligations.ConversionsToIntegersSaturate : Prop :=
  (∀ (dst src : Fmt) (v : Nat) (tg : Bool) (x : Nat) (m : Rnd), fmtInt? dst = some (v, tg) →
    let gives (z : Int) : Prop := (cvtElem dst src m none x).1 % 2 ^ max v 32 = wrap (max v 32) z
    (∀ w sg, fmtInt? src = some (w, sg) →
      let y := ival sg w x
      let z := max (intLo tg v) (min (intHi tg v) y)
      gives z ∧ (cvtElem dst src m none x).2 = if z = y then 0 else flCVS) ∧
    (fmtInt? src = none →
      match srcFp src x with
      | .nan _ => cvtElem dst src m none x = (0, flNV)
      | .inf s => gives (if s then intLo tg v else intHi tg v) ∧ (cvtElem dst src m none x).2 = flCVS
      | .fin s k e => ∃ y, IntChosen m (finReal s k e) y ∧
          let z := max (intLo tg v) (min (intHi tg v) y)
          gives z ∧ (z ≠ y → (cvtElem dst src m none x).2 = flCVS) ∧
            (z = y → (finReal s k e = y → (cvtElem dst src m none x).2 = 0) ∧
              (finReal s k e ≠ y → (cvtElem dst src m none x).2 = flNX)))) ∧
  (∀ (dst src : Fmt) (f : Format) (x : Nat) (m : Rnd), fmtFormat? dst = some f →
    let sign (s : Bool) : Nat := if s then 2 ^ (f.width - 1) else 0
    (∀ w sg, fmtInt? src = some (w, sg) → ∀ neg : Bool, (neg = true ↔ ival sg w x < 0) →
      f.RoundedTo m neg |(ival sg w x : ℝ)| (cvtElem dst src m none x)) ∧
    (fmtInt? src = none →
      match srcFp src x with
      | .nan s => cvtElem dst src m none x = if dst = .e2m1 then (0, flNV) else (f.nan, if s then flNV else 0)
      | .inf s => cvtElem dst src m none x = if f.hasInf then (sign s + f.big + 1, 0) else (sign s + f.big, flCVS)
      | .fin s k e => f.RoundedTo m s ((k : ℝ) * 2 ^ e) (cvtElem dst src m none x)) ∧
    (fmtInt? src = none → ∀ r,
      match srcFp src x with
      | .nan _ => cvtElem dst src m (some r) x = (if dst = .e2m1 then 0 else f.nan, flNV)
      | .inf s => cvtElem dst src m (some r) x = (sign s + f.big, if f.hasInf then flCVS else flCVS ||| flNX)
      | .fin s k e => f.RoundedBy r s ((k : ℝ) * 2 ^ e) (cvtElem dst src m (some r) x))) ∧
  (∀ (src : Fmt) (x : Nat) (m : Rnd), fmtInt? src = none →
    match srcFp src x with
    | .nan _ => cvtElem .e8m0 src m none x = (0xFF, flNV)
    | .inf s => cvtElem .e8m0 src m none x = if s then (0xFF, flNV) else (0xFE, flCVS)
    | .fin s k e => (k = 0 → cvtElem .e8m0 src m none x = (0, flUF ||| flNX)) ∧
        (k ≠ 0 → s = true → cvtElem .e8m0 src m none x = (0xFF, flNV)) ∧
        (k ≠ 0 → s = false → E8m0Of m ((k : ℝ) * 2 ^ e) (cvtElem .e8m0 src m none x))) ∧
  (∀ (x : Nat) (m : Rnd), cvtElem .f32 .e8m0 m none x =
    if x % 256 = 255 then (0x7FC00000, 0) else if x % 256 = 0 then (0x00400000, 0) else (x % 256 * 2 ^ 23, 0))

/-- R250, R251, R252: the fourteen functions act element by element, with the rows of the table of R251; every other
value is that of the function, within what log 2 computes, rounded as R252 says: itself where it is representable, one
of its two neighbours in FP32, the nearest value in a 16-bit type; beyond the largest finite value it is as log 34 says,
and a zero whose row has DZ raises DZ alone (log 114). -/
def Obligations.FunctionsActOnElements : Prop :=
  ∀ o : FUn, ∀ p ∈ [
      (Instr.exp2 o, 0x60, FnCell.posZero, FnCell.posInf, FnCell.posOne),
      (Instr.log2 o, 0x61, FnCell.nanNv, FnCell.posInf, FnCell.negInfDz),
      (Instr.rcp o, 0x62, FnCell.negZero, FnCell.posZero, FnCell.signedInfDz),
      (Instr.rsq o, 0x63, FnCell.nanNv, FnCell.posZero, FnCell.signedInfDz),
      (Instr.sqrt o, 0x64, FnCell.nanNv, FnCell.posInf, FnCell.signedZero),
      (Instr.sinp o, 0x65, FnCell.nanNv, FnCell.nanNv, FnCell.signedZero),
      (Instr.cosp o, 0x66, FnCell.nanNv, FnCell.nanNv, FnCell.posOne),
      (Instr.tanh o, 0x67, FnCell.negOne, FnCell.posOne, FnCell.signedZero),
      (Instr.sigm o, 0x68, FnCell.posZero, FnCell.posOne, FnCell.half),
      (Instr.erf o, 0x69, FnCell.negOne, FnCell.posOne, FnCell.signedZero),
      (Instr.exp o, 0x6A, FnCell.posZero, FnCell.posInf, FnCell.posOne),
      (Instr.loge o, 0x6B, FnCell.nanNv, FnCell.posInf, FnCell.negInfDz),
      (Instr.gelu o, 0x6C, FnCell.negZero, FnCell.posInf, FnCell.signedZero),
      (Instr.silu o, 0x6D, FnCell.negZero, FnCell.posInf, FnCell.signedZero)],
    GivesLanes p.1 o.guard (.v o.dst) (FnResult o.ty o.a (FnOf p.2.1 p.2.2.1 p.2.2.2.1 p.2.2.2.2))

/-! ### Pairs -/

/-- R171, R172, R173: a pair gives every active lane the values of its two halves, each by its HOP and both from the
registers as they were, and the flags of both. -/
def Obligations.PairsDoBothHalvesAtOnce : Prop :=
  ∀ o : HalfOp,
    ∀ p ∈ [(Instr.halfMov o, 0x00), (Instr.halfMovi o, 0x01), (Instr.halfAdd o, 0x02), (Instr.halfAddi o, 0x03),
      (Instr.halfSub o, 0x04), (Instr.halfAnd o, 0x05), (Instr.halfOr o, 0x06), (Instr.halfXor o, 0x07),
      (Instr.halfShli o, 0x08), (Instr.halfShri o, 0x09), (Instr.halfSari o, 0x0A), (Instr.halfMin o, 0x0B),
      (Instr.halfMax o, 0x0C), (Instr.halfMul o, 0x0D), (Instr.halfFadd o, 0x0E), (Instr.halfFsub o, 0x0F),
      (Instr.halfFmul o, 0x10), (Instr.halfFmac o, 0x11), (Instr.halfFmin o, 0x12), (Instr.halfFmax o, 0x13),
      (Instr.halfHadd o, 0x14), (Instr.halfHmul o, 0x15), (Instr.halfHmac o, 0x16), (Instr.halfCvtf o, 0x17),
      (Instr.halfCvti o, 0x18), (Instr.halfNot o, 0x19), (Instr.halfAbs o, 0x1A), (Instr.halfFabs o, 0x1B),
      (Instr.halfFneg o, 0x1C), (Instr.halfNop o, 0x1D)],
      Writes p.1 (fun c ws fl =>
        let h2 := Half.ofWord o.second
        let r1 := halfGiven p.2 o.d o.a o.b c
        let r2 := halfGiven h2.hop.toNat h2.d h2.a h2.b c
        ws = r1.1 ++ r2.1 ∧ fl = r1.2 ||| r2.2)

/-! ### Special registers and integrity -/

/-- R154, R176, R222, R298, R299: MOVSR gives each lane the value of the table, and CLKLO latches CLKHI; SIGRD gives the
signature and the shadow mask; CKGEN gives the check of a word, CKTST its class; SIGCHK with the signature and the mask
as they should be sets SIG to zero, otherwise it contains the gang of the warp, with kind 4 for the signature and 5 for
the mask. The model's choices here: SIGCHK in trap mode (log 32), and MOVSR reading its register before
it is counted (log 100). -/
def Obligations.SpecialRegistersAndChecks : Prop :=
  ((∀ o, o.idx ≠ 21 → GivesLanes (.movsr o) none o.dst (fun c l r => r.flags = 0 ∧ r.words = [specialReg c o.idx.toNat l])) ∧
   (∀ (o : MovsrOp) s w n x, o.idx = 21 → Issues (.movsr o) s w n x →
     exec (.movsr o) s = .next (went s w n x (.movsr o)
       (fun v => { v with clkhi := BitVec.ofNat 32 (s.cycle / 2 ^ 32) })
       ((finds s w n x (.movsr o)).results none o.dst (fun _ => ⟨[BitVec.ofNat 32 s.cycle], 0⟩)).1)) ∧
   (∀ c l, specialReg c 0 l = BitVec.ofNat 32 l ∧ specialReg c 1 l = BitVec.ofNat 32 c.preW.index ∧
     specialReg c 11 l = BitVec.ofNat 32 c.preW.core ∧ specialReg c 13 l = BitVec.ofNat 32 (c.preW.core / 96) ∧
     specialReg c 15 l = (if c.preW.trap = none then c.preW.role.setWidth 32 else 3) ∧
     specialReg c 16 l = (if c.n then 1 else 0) ∧ specialReg c 17 l = c.slot.mask ∧ specialReg c 18 l = c.preW.flags ∧
     specialReg c 19 l = c.preW.lanectl ∧ specialReg c 20 l = c.preW.trapen ∧ specialReg c 22 l = c.preW.clkhi ∧
     specialReg c 23 l = c.slot.sig ∧ specialReg c 24 l = c.preW.cnt ∧ specialReg c 29 l = c.preW.passes ∧
     specialReg c 30 l = c.preW.cause ∧ specialReg c 31 l = c.preW.tval ∧
     specialReg c 12 l = BitVec.ofNat 32 (c.preW.core % 96 / 4) ∧ specialReg c 14 l = Config.device.setWidth 32 ∧
     specialReg c 25 l = c.preW.rowprog) ∧
   (∀ c l m g, findTeam? c.pre c.preW.team = some m → findGrid? c.pre m.grid = some g →
     let r := g.r
     specialReg c 2 l = BitVec.ofNat 32 (m.lin % r.ntx) ∧ specialReg c 3 l = BitVec.ofNat 32 (m.lin / r.ntx % r.nty) ∧
     specialReg c 4 l = BitVec.ofNat 32 (m.lin / r.ntx / r.nty) ∧ specialReg c 5 l = BitVec.ofNat 32 r.ntx ∧
     specialReg c 6 l = BitVec.ofNat 32 r.nty ∧ specialReg c 7 l = BitVec.ofNat 32 r.ntz ∧
     specialReg c 8 l = BitVec.ofNat 32 r.w ∧ specialReg c 9 l = BitVec.ofNat 32 m.lin ∧ specialReg c 10 l = g.launch ∧
     specialReg c 26 l = r.param.extractLsb' 0 32 ∧ specialReg c 27 l = r.param.extractLsb' 32 32 ∧
     ∀ i < m.cores.length, m.cores.getD i 0 = c.preW.core → (∀ j < i, m.cores.getD j 0 ≠ c.preW.core) →
       specialReg c 28 l = BitVec.ofNat 32 (m.spBases.getD i 0)) ∧
   (∀ d, Writes (.sigrd d) (fun c ws fl =>
     fl = 0 ∧ ws = [(sKey d.toNat, c.slot.sig), (sKey (d.toNat + 1), c.slot.shadow)])) ∧
   (∀ o, GivesLanes (.ckgen o) o.guard (.v o.dst) (fun c l r => r.flags = 0 ∧ r.words = [(gck (c.src o.a l)).setWidth 32])) ∧
   (∀ o, GivesLanes (.cktst o) o.guard (.v o.dst) (fun c l r =>
     let good := gck (c.src o.a l)
     let k := (c.src o.b l).setWidth 8
     r.flags = 0 ∧ r.words = [if k = good then 0 else if k = ~~~ good then 1 else 2]))) ∧
  (∀ v s w n x, Issues (.sigchk v) s w n x →
     exec (.sigchk v) s = .next (
       if x.sig ≠ v then contain s w 4 0 0x08 x.pc 0
       else if x.mask ≠ x.shadow then contain s w 5 0 0x08 x.pc 0
       else wentSlot s w n x (.sigchk v) (fun y => { y with sig := if w.trap.isSome then x.sig else 0 }) []))


/-- R30, R176, R177, R195, R223: SETSR writes FLAGS, LANECTL, TRAPEN, CNT and PASSES, and CAUSE and TVAL in trap mode; the
warp then waits four cycles. A reserved bit, a reserved code or a register that may not be written is a reserved
value. -/
def Obligations.SetsrWritesWhatMayBeWritten : Prop :=
  ∀ (o : SetsrOp) s w n x, Issues (.setsr o) s w n x →
    let v := (finds s w n x (.setsr o)).sval o.val
    let gives (f : Warp → Warp) : Prop :=
      exec (.setsr o) s = .next (went s w n x (.setsr o) (fun u => heldFour s (f u)) [])
    let no : Prop := Traps s w n (.setsr o) 0x01 1 (firstParcels (.setsr o)).1
    (o.idx = 18 → if v.toNat < 512 then gives (fun u => { u with flags := v }) else no) ∧
    (o.idx = 19 → if v.toNat < 3 then gives (fun u => { u with lanectl := v }) else no) ∧
    (o.idx = 20 → if v.toNat < 512 then gives (fun u => { u with trapen := v }) else no) ∧
    (o.idx = 24 → gives (fun u => { u with cnt := v })) ∧
    (o.idx = 29 → gives (fun u => { u with passes := v })) ∧
    (o.idx = 30 → if w.trap.isSome ∧ v.toNat < 65536 then gives (fun u => { u with cause := v }) else no) ∧
    (o.idx = 31 → if w.trap.isSome then gives (fun u => { u with tval := v }) else no) ∧
    (o.idx ∉ [18, 19, 20, 24, 29, 30, 31] → no)

/-! ### Control -/

/-- R224, R225, R228, R229: BRA goes on at its target when every active lane's guard is true and at the next instruction
when none is; CALL and LOOP write their register; RET and JMPI go to a register's address; NOP goes on. A taken branch
whose target lies outside the code range is cause 0x01 of subcode 1 with the target in TVAL. -/
def Obligations.BranchesGoWhereTheyShould : Prop :=
  ∀ s w n x,
    (∀ o : BraOp, Issues (.bra o) s w n x →
      let c := finds s w n x (.bra o)
      let t := (x.pc.toNat : Int) + offInt o.target
      ((∀ l ∈ c.active, c.guardOn o.guard l = true) → inCode t →
        exec (.bra o) s = .next (branched s w n x (.bra o) t [])) ∧
      ((∀ l ∈ c.active, c.guardOn o.guard l = true) → ¬ inCode t → Traps s w n (.bra o) 0x01 1 (BitVec.ofInt 32 t)) ∧
      ((∀ l ∈ c.active, c.guardOn o.guard l = false) → c.active ≠ [] →
        exec (.bra o) s = .next (wentSlot s w n x (.bra o) id [])) ∧
      ((∃ l ∈ c.active, c.guardOn o.guard l = true) → (∃ l ∈ c.active, c.guardOn o.guard l = false) →
        Traps s w n (.bra o) 0x01 3 (firstParcels (.bra o)).1)) ∧
    (∀ o : LinkOp, Issues (.call o) s w n x →
      let t := (x.pc.toNat : Int) + offInt o.target
      (inCode t → exec (.call o) s = .next (branched s w n x (.call o) t
        [(sKey o.reg.toNat, x.pc + BitVec.ofNat 32 (Instr.call o).size)])) ∧
      (¬ inCode t → Traps s w n (.call o) 0x01 1 (BitVec.ofInt 32 t))) ∧
    (∀ j : SReg, ∀ i ∈ [Instr.ret j, Instr.jmpi j], Issues i s w n x →
      let t := (finds s w n x i).sca j.toNat
      (t.toNat ≤ 0x3FFFFFFE → exec i s = .next (branched s w n x i t.toNat [])) ∧
      (0x3FFFFFFE < t.toNat → Traps s w n i 0x01 1 t)) ∧
    (∀ o : LinkOp, Issues (.loop o) s w n x →
      let v := (finds s w n x (.loop o)).sca o.reg.toNat - 1
      let t := (x.pc.toNat : Int) + offInt o.target
      (v = 0 → exec (.loop o) s = .next (wentSlot s w n x (.loop o) id [(sKey o.reg.toNat, v)])) ∧
      (v ≠ 0 → inCode t → exec (.loop o) s = .next (branched s w n x (.loop o) t [(sKey o.reg.toNat, v)])) ∧
      (v ≠ 0 → ¬ inCode t → Traps s w n (.loop o) 0x01 1 (BitVec.ofInt 32 t))) ∧
    (Issues .nop s w n x → exec .nop s = .next (wentSlot s w n x .nop id []))

/-- R13, R226, R153: BRC with no lane taken goes on, with every lane taken branches; otherwise it pushes an entry of KIND
0, its slot keeps the lanes not taken, and the others get the free slot or, where there is none, an entry of KIND 1. A
target or a join out of the code range and a full stack trap, in this order (log 112); in trap mode the signatures are
frozen (R152), which log 32 reads so for a split. -/
def Obligations.BrcSplitsItsLanes : Prop :=
  ∀ (o : BrcOp) s w n x, Issues (.brc o) s w n x →
    let c := finds s w n x (.brc o)
    let taken := maskOf (c.lanes o.guard)
    let rest := x.mask &&& ~~~ taken
    let t := (x.pc.toNat : Int) + o.target.toInt
    let j := (x.pc.toNat : Int) + o.join.toNat
    let sig (v : Word) : Word := if w.trap.isSome then countSig w x (.brc o) else v
    let kept (y : Slot) : Slot := { y with mask := rest, shadow := x.shadow &&& ~~~ taken, join := some (BitVec.ofInt 32 j),
                                           sig := sig (y.sig ^^^ 0x5A5A0001) }
    let entry (own : Nat) : DEntry := { kind := 0, pc := joinField x.join, lanes := 0, own := own, jpc := j.toNat,
                                        split := x.mask }
    (taken = 0 → exec (.brc o) s = .next (wentSlot s w n x (.brc o) id [])) ∧
    (taken ≠ 0 → rest = 0 → inCode t → exec (.brc o) s = .next (branched s w n x (.brc o) t [])) ∧
    (taken ≠ 0 → rest ≠ 0 → inCode t → inCode j → w.slot? (!n) = none → w.depth < w.dstk →
      exec (.brc o) s = .next (went (writeEntry s w w.depth (entry 2)) w n x (.brc o) (fun v =>
        ((v.setSlot n (some (kept (countedSlot w x (.brc o))))).setSlot (!n) (some
          { pc := BitVec.ofInt 32 t, mask := taken, join := some (BitVec.ofInt 32 j), sig :=  sig 0x5A5A0001,
            shadow := x.shadow &&& taken, block := .none, readyAt := s.cycle + 4, readySince := none,
            heldBack := false })).withDepth (w.depth + 1)) [])) ∧
    (taken ≠ 0 → rest ≠ 0 → inCode t → inCode j → w.slot? (!n) ≠ none → w.depth + 1 < w.dstk →
      exec (.brc o) s = .next (went (writeEntry (writeEntry s w w.depth (entry n.toNat)) w (w.depth + 1)
          { kind := 1, pc := t.toNat, lanes := taken, own := n.toNat, jpc := j.toNat, split := 0 })
        w n x (.brc o) (fun v => (v.setSlot n (some (kept (countedSlot w x (.brc o))))).withDepth (w.depth + 2)) [])) ∧
    (taken ≠ 0 → ¬ inCode t → Traps s w n (.brc o) 0x01 1 (BitVec.ofInt 32 t)) ∧
    (taken ≠ 0 → rest ≠ 0 → inCode t → ¬ inCode j → Traps s w n (.brc o) 0x01 1 (BitVec.ofInt 32 j)) ∧
    (taken ≠ 0 → rest ≠ 0 → inCode t → inCode j →
      w.dstk < w.depth + (if w.slot? (!n) = none then 1 else 2) → Traps s w n (.brc o) 0x10 0 x.pc)

/-- R14, R227, R153: at its join a slot whose partner is still away leaves its lanes in the entry and becomes free; the
last to arrive takes all lanes and the entry goes; a KIND 1 entry on top gives the slot the other path. A JOIN that is
not the slot's own goes on; one whose entry does not fit is a reserved value. In trap mode the signatures are frozen (R152),
which log 32 reads so for a merge and a take-up; the cases of the entry's fields are log 17. -/
def Obligations.JoinGathersLanes : Prop :=
  ∀ s w n x, Issues .join s w n x →
    let sig (v : Word) : Word := if w.trap.isSome then countSig w x .join else v
    (x.join ≠ some x.pc → exec .join s = .next (wentSlot s w n x .join id [])) ∧
    (x.join = some x.pc → topEntry? s w n = none →
      Traps s w n .join 0x01 1 (BitVec.ofNat 32 (w.stackBase + 16 * w.depth))) ∧
    (∀ k e, x.join = some x.pc → topEntry? s w n = some (k, e) →
      (e.jpc ≠ x.pc.toNat ∨ e.kind = 3 → Traps s w n .join 0x01 1 (BitVec.ofNat 32 (w.stackBase + 16 * k))) ∧
      (e.jpc = x.pc.toNat → e.kind = 0 → e.own = 2 → (w.slot? (!n)).isSome →
        exec .join s = .next (went (writeEntry s w k { e with lanes := e.lanes ||| x.mask }) w n x .join
          (fun v => v.setSlot n none) [])) ∧
      (e.jpc = x.pc.toNat → e.kind = 0 → (e.own ≠ 2 ∨ w.slot? (!n) = none) →
        let r := retireEntry s w k
        exec .join s = .next (went r.1 w n x .join (fun v => { v with depth := r.2.depth }.setSlot n (some
          { countedSlot w x .join with mask := x.mask ||| e.lanes, shadow := x.shadow ||| e.lanes, join := fieldJoin e.pc,
                                       sig := sig 0x5A5A0002 })) [])) ∧
      (e.jpc = x.pc.toNat → e.kind = 1 → ∀ b, b ∈ ownedEntries s w n k →
        (∀ d, d ∈ ownedEntries s w n k → b < d → ¬ ((readEntry s w d).kind = 0 ∧ (readEntry s w d).jpc = x.pc.toNat)) →
        (readEntry s w b).kind = 0 → (readEntry s w b).jpc = x.pc.toNat →
        let s' := writeEntry s w b { readEntry s w b with lanes := (readEntry s w b).lanes ||| x.mask }
        let r := retireEntry s' w k
        exec .join s = .next (went r.1 w n x .join (fun v => { v with depth := r.2.depth }.setSlot n (some
          { countedSlot w x .join with pc := BitVec.ofNat 32 e.pc, mask := e.lanes, shadow := e.lanes,
                                       sig := sig 0x5A5A0001 })) [])))

/-- R15, R230: EXIT takes its lanes out of the slot's mask and of every barrier; with none left the slot takes up what the
stack leaves it, the other path of KIND 1 or what is left of a split past its join, is free while the other slot lives,
or ends the warp, whose team ends with its last warp. The model's choices: the signatures of trap mode (log 32), the EXIT
of a handler (log 129), a deferred report before a plough's error (log 31), arrivals counted at once (log 107), and the trap of
an unknown entry (log 17). -/
def Obligations.ExitLeavesAndEnds : Prop :=
  ∀ (g : Guard) s w n x, Issues (.exit g) s w n x →
    let c := finds s w n x (.exit g)
    let lanes := maskOf (c.lanes g)
    let rest := x.mask &&& ~~~ lanes
    let v := countedWarp w n x (.exit g)
    let y := countedSlot w x (.exit g)
    (rest ≠ 0 → exec (.exit g) s = .next (pushWindow (dropFromBars (setWarp s (v.setSlot n (some
      { y with mask := rest, shadow := x.shadow &&& ~~~ lanes }))) w.uid lanes) w.uid [])) ∧
    (∀ out, rest = 0 → s.store.wf = true → AfterExit n s w out →
      (∀ a, out = .bad a → Traps s w n (.exit g) 0x01 1 (BitVec.ofNat 32 a)) ∧
      (∀ s' u pc mask join sig, out = .take s' u pc mask join sig →
        exec (.exit g) s = .next (pushWindow (dropFromBars (setWarp s' ({ v with depth := u.depth }.setSlot n (some
          { y with pc := BitVec.ofNat 32 pc, mask := mask, shadow := mask, join := join,
                   sig := if w.trap.isSome then countSig w x (.exit g) else sig }))) w.uid lanes) w.uid [])) ∧
      (∀ s' u, out = .free s' u → ((w.slot? (!n)).isSome ∨ u.depth ≠ 0) →
        exec (.exit g) s = .next (pushWindow (dropFromBars (setWarp s' ({ v with depth := u.depth }.setSlot n none)) w.uid
          lanes) w.uid [])) ∧
      (∀ s' u, out = .free s' u → w.slot? (!n) = none → u.depth = 0 →
        (w.ploughError = none → exec (.exit g) s = .next (endTeamIfDone (onWarp (dropFromBars (setWarp s'
          ({ v with depth := 0 }.setSlot n none)) w.uid lanes) w.uid (fun z => { z with trap := none })) w.team)) ∧
        (∀ a, w.ploughError = some a → exec (.exit g) s = .next (contain s w 6 0 0x07 x.pc a))))

/-- R231, R233: SLEEP keeps its slot from issuing for the cycles given, at least one; YIELD keeps it until the other ready
slots of its scheduler have issued, or sixteen cycles have passed. -/
def Obligations.SleepAndYieldPauseTheSlot : Prop :=
  ∀ s w n x,
    (∀ v, Issues (.sleep v) s w n x → exec (.sleep v) s = .next (wentSlot s w n x (.sleep v) (fun y =>
      { y with block := .sleep (s.cycle + max 1 ((finds s w n x (.sleep v)).sval v).toNat + 1) }) [])) ∧
    (Issues .yield s w n x →
      let ready := (readySlots s w.core (w.ws % 4)).map (fun p => (p.1.uid, p.2.1))
      exec .yield s = .next (wentSlot s w n x .yield (fun y =>
        { y with block := .yield (s.cycle + 16) (ready.filter (fun p => p ≠ (w.uid, n))) }) []))

/-! ### Registers, the window and the frame of an instruction -/

/-- R26, R27, R152, R176: after an instruction that gives results and flags, the warp's program counter, signature, CNT,
issue number and counter have moved on and FLAGS has gathered its flags; each register reads its result, or as before;
no other part of the warp, no other warp and no other state changes, but for the store words of results that leave the
window, which are rid of any error of their banks (R54). -/
def Obligations.InstructionsChangeOnlyTheirResults : Prop :=
  ∀ s w n x i ws fl, findWarp? s w.uid = some w → w.slot? n = some x → s.store.wf = true → w.window.length ≤ 8 →
    WindowOnce (ws :: w.window) →
    let t := issued s w n x i ws fl
    (∃ v, findWarp? t w.uid = some v ∧
      v = { w.setSlot n (some (countedSlot w x i)) with cnt := w.cnt + 1, seq := w.seq + 1, ctrs := raised w i,
                                                        flags := w.flags ||| fl, window := v.window } ∧
      ∀ k, regWord t v (regBank s w) k = newest ws k (regWord s w (regBank s w) k)) ∧
    (∀ u, u ≠ w.uid → findWarp? t u = findWarp? s u) ∧
    t = { s with warps := t.warps, store := t.store, upsets := t.upsets } ∧
    (tsorted s.upsets = true → ∀ k, tget? t.upsets k =
      if ∃ p ∈ ((ws :: w.window).drop 8).flatten, k = regBank s w + p.1 ∧ windowGet? ((ws :: w.window).take 8) p.1 = none
      then none else tget? s.upsets k) ∧
    StoreKept s t w

/-- R27: RSYNC and WAIT write the window to the banks, so that every register word is there; WAIT's slot then waits for
its counters (R264). -/
def Obligations.WaitAndRsyncWriteTheWindow : Prop :=
  ∀ s w n x, s.store.wf = true → WindowOnce w.window →
    let written (i : Instr) (b : Block) : Prop := ∃ t v, exec i s = .next t ∧ findWarp? t w.uid = some v ∧
      v.window = [[]] ∧ (∀ k, (t.store.word (regBank s w + k)).data = regWord s w (regBank s w) k) ∧
      v.slot? n = some { countedSlot w x i with block := b } ∧ v.cnt = w.cnt + 1 ∧ v.seq = w.seq + 1 ∧
      v.flags = w.flags ∧ MemoryKept s t
    (Issues .rsync s w n x → written .rsync x.block) ∧ (∀ o, Issues (.wait o) s w n x → written (.wait o) (.wait o))

/-! ### Exceptions -/

/-- R54, R350: a warp outside trap mode takes an exception: its window is written, both slots, the stack depth and s60 to s63
are saved, CAUSE and TVAL are set, s62 holds the program counter of the instruction and s63 the number of its slot and
whether the other lives, and the handler starts at program counter 0 with every lane; in trap mode an exception is a
double trap: the warp halts with its state kept, and a record of type 5 names the cause. That saving s60 to s63 reads them,
so that a single-bit error there is corrected and a double-bit one contains the gang, is log 119. -/
def Obligations.ExceptionsSaveAndEnterOrHalt : Prop :=
  (∀ s w n x size cause sub tval, findWarp? s w.uid = some w → w.slot? n = some x → w.trap = none → s.store.wf = true →
     let f := flushWindow s w
     let t := enterTrap s w.uid n size cause sub tval
     let bank (j : Nat) : Word := (f.store.word (regBank s w + sKey j)).data
     let upset (j : Nat) : Option Bool := tget? f.upsets (regBank s w + sKey j)
     (∀ before j after, [60, 61, 62, 63] = before ++ j :: after → (∀ i ∈ before, upset i ≠ some true) → upset j = some true →
       t = contain f { w with window := [] } 2 ((ones x.mask).headD 0) 0x07 x.pc (BitVec.ofNat 64 (w.regBase + 4 * sKey j))) ∧
     ((∀ j ∈ [60, 61, 62, 63], upset j ≠ some true) → (tsorted f.upsets = true → ∀ k, tget? t.upsets k =
       if k ∈ [60, 61, 62, 63].map (fun j => regBank s w + sKey j) then none else tget? f.upsets k) ∧
     ((∀ j ∈ [60, 61, 62, 63], upset j = none) → t.mgc = s.mgc ∧ t.recorders = s.recorders) ∧
     ∃ v, findWarp? t w.uid = some v ∧ v.window = [] ∧ v.cause = BitVec.ofNat 32 (sub * 256 + cause) ∧ v.tval = tval ∧
       v.trap = some { slot0 := w.slot0, slot1 := w.slot1, depth := w.depth, s60 := bank 60, s61 := bank 61, s62 := bank 62,
                       s63 := bank 63, trapped := n, size := size, cause := v.cause, tval := tval } ∧
       v.slot? (!n) = none ∧
       v.slot? n = some { pc := 0, mask := 0xFFFFFFFF, join := none, sig := x.sig, shadow := 0xFFFFFFFF, block := .none,
                          readyAt := s.cycle, readySince := none, heldBack := false } ∧
       scalar t v 62 = x.pc ∧
       scalar t v 63 = BitVec.ofNat 32 ((if n then 1 else 0) + (if (w.slot? (!n)).isSome then 2 else 0)) ∧
       (∀ j < 62, scalar t v j = bank j) ∧ roleOf v = 3 ∧
       v.flags = w.flags ∧ v.cnt = w.cnt ∧ v.ctrs = w.ctrs ∧ v.depth = w.depth ∧ MemoryKept s t ∧ t.ops = s.ops)) ∧
  (∀ s w n x size cause sub tval, findWarp? s w.uid = some w → w.slot? n = some x → w.trap.isSome →
     let t := enterTrap s w.uid n size cause sub tval
     ∃ v id r, findWarp? t w.uid = some v ∧ v = { w with window := [], stop := .halted id } ∧
       r ∈ (getPartition t (partOf s w)).recs ∧ r.id = id ∧ r.type = 5 ∧
       r.words.getD 2 0 = BitVec.ofNat 32 cause ∧ r.words.getD 6 0 = x.pc ∧ MemoryKept s t)


/-- R158, R163, R173, R300, R303, R304, R305: TRAP and BKPT take their exceptions, with the value, or its low sixteen bits,
in TVAL; a word that is no instruction takes cause 0x02 if it is of form P, else cause 0x01 with subcode 1, and TVAL
holds the word. PRGS sets its team's progress, at most 256; HALT stops the warp after itself with a record of type 3;
TLBI begins an invalidation of what it names and blocks its slot. The model's choices: TLBI takes its walks when its
release wait ends (log 60), and the place that HALT's record names (log 61). -/
def Obligations.SystemInstructionsAct : Prop :=
  (∀ s w n x,
     (∀ v, Issues (.trap v) s w n x → Traps s w n (.trap v) 0x0B 0 ((finds s w n x (.trap v)).sval v)) ∧
     (∀ v, Issues (.bkpt v) s w n x →
       Traps s w n (.bkpt v) 0x0C 0 (BitVec.ofNat 32 (((finds s w n x (.bkpt v)).sval v).toNat % 65536))) ∧
     (∀ p rest, Issues (.illegalInstructionWord ⟨p, rest⟩) s w n x →
       if p.toNat / 2 ^ 30 = 1 then Traps s w n (.illegalInstructionWord ⟨p, rest⟩) 0x02 0 p
       else Traps s w n (.illegalInstructionWord ⟨p, rest⟩) 0x01 1 p)) ∧
  (∀ s w n x,
     (∀ v m, Issues (.prgs v) s w n x → findTeam? s w.team = some m →
       exec (.prgs v) s = .next (went (setTeam s { m with progress := min ((finds s w n x (.prgs v)).sval v).toNat 256 })
         w n x (.prgs v) id [])) ∧
     (Issues .halt s w n x → ∃ t v id r, exec .halt s = .next t ∧ findWarp? t w.uid = some v ∧
       v = { countedWarp w n x .halt with window := [], stop := .halted id } ∧
       r ∈ (getPartition t (partOf s w)).recs ∧ r.id = id ∧ r.type = 3 ∧ r.src = .warp w.uid n ∧
       r.words.getD 6 0 = x.pc ∧ MemoryKept s t) ∧
     (∀ k, Issues (.tlbi k) s w n x →
       let c := finds s w n x (.tlbi k)
       let what : InvKind := match k with
         | .page a => .page (c.sca64 a).toNat (ctxOf s w)
         | .ctx j => .ctx ((c.sca j.toNat).getLsbD 0)
         | .all => .all
       ∃ t v, exec (.tlbi k) s = .next t ∧ findWarp? t w.uid = some v ∧
         v.slot? n = some { countedSlot w x (.tlbi k) with block := .tlbi s.nextId } ∧
         t.invals = s.invals ++ [{ id := s.nextId, part := partOf s w, kind := what, walks := [], byHost := false }] ∧
         (∃ o, t.ops = s.ops ++ [o] ∧ o.kind = .tlbi s.nextId ∧ o.warp = w.uid ∧ o.held = true) ∧ MemoryKept s t))


/-- R301, R350: RETT leaves trap mode: slots, stack depth and s60 to s63 are those saved, the trapped slot being one
instruction further on for `.skip`; CAUSE, TVAL, FLAGS and the counters stay. Taking an exception and returning from it
gives the warp its slots, stack depth and register words back as they were. -/
def Obligations.RettRestoresTheWarp : Prop :=
  (∀ skip s w n x k, Issues (.rett skip) s w n x → w.trap = some k → s.store.wf = true →
     let i := Instr.rett skip
     let moved (m : Bool) (y : Option Slot) : Option Slot :=
       if skip = true ∧ m = k.trapped then y.map (fun z => z.past k.size) else y
     ∃ t v, exec i s = .next t ∧ findWarp? t w.uid = some v ∧ v.trap = none ∧ v.slot0 = moved false k.slot0 ∧
       v.slot1 = moved true k.slot1 ∧ v.depth = k.depth ∧ scalar t v 60 = k.s60 ∧ scalar t v 61 = k.s61 ∧
       scalar t v 62 = k.s62 ∧ scalar t v 63 = k.s63 ∧ v.cause = w.cause ∧ v.tval = w.tval ∧ v.flags = w.flags ∧
       v.ctrs = w.ctrs ∧ MemoryKept s t ∧
       ∀ j, j < 60 ∨ 64 ≤ j → regWord t v (regBank s w) j = ((flushWindow s w).store.word (regBank s w + j)).data) ∧
  (∀ s w n x size cause sub tval, findWarp? s w.uid = some w → w.slot? n = some x → w.trap = none → s.store.wf = true →
     WindowOnce w.window → (∀ j ∈ [60, 61, 62, 63], tget? (flushWindow s w).upsets (regBank s w + sKey j) ≠ some true) →
     let t := leaveTrap (enterTrap s w.uid n size cause sub tval) w.uid false
     ∃ v, findWarp? t w.uid = some v ∧
       v = { w with window := [], cause := BitVec.ofNat 32 (sub * 256 + cause), tval := tval } ∧
       ∀ k, regWord t v (regBank s w) k = regWord s w (regBank s w) k)


/-- R21, R22, R114, R160, R163, R173, R174: a malformed pair, an instruction that names a register, accumulator or handle its
kernel did not declare,
that its warp's role may not issue, or that is privileged where the warp is neither in trap mode nor in a driver
context, takes the exception of that check and has no effect. -/
def Obligations.ChecksTrapBeforeAnyEffect : Prop :=
  ∀ i s w n x, Instruction i → AtIssue s w n x → gated s w i = false → w.reports.find? i.takes = none →
    waitsFirst i (finds s w n x i) = false →
    (beyondLimits s w i = true →
      if i.isPair then Traps s w n i 0x02 0 (firstParcels i).1 else Traps s w n i 0x01 1 (firstParcels i).1) ∧
    (beyondLimits s w i = false → i.role.admits (roleOf w) = false → Traps s w n i 0x01 2 (firstParcels i).1) ∧
    (beyondLimits s w i = false → i.role.admits (roleOf w) = true → i.privileged = true → mayPrivileged s w i = false →
      Traps s w n i 0x03 0 (Config.freeWord s.tick))

/-- R26, R97, R230, R275, R279, R281, R291: an instruction whose counter stands at 63, that an acquire of its warp holds
back, or that waits for drains or for room in a queue does not issue; one that meets a deferred report of its counter takes
that report's exception instead. The model's choices: a full counter and an acquire hold an instruction back before its
checks (log 29), and NBFN and EXIT wait at issue (log 31). -/
def Obligations.CountersAcquiresAndReportsComeFirst : Prop :=
  ∀ i s w n x, Instruction i → AtIssue s w n x →
    (∀ k, i.ctr = some k → 63 ≤ w.ctrs.get k → exec i s = .next (holdSlot s w.uid n)) ∧
    (i.access = true → w.acquires ≠ [] → exec i s = .next (holdSlot s w.uid n)) ∧
    (waitsFirst i (finds s w n x i) = true → exec i s = .next (holdSlot s w.uid n)) ∧
    (∀ r, gated s w i = false → waitsFirst i (finds s w n x i) = false → w.reports.find? i.takes = some r →
      mxInFlight s w.uid = false →
      exec i s = .next (enterTrap (setWarp s { w with reports := w.reports.erase r }) w.uid n i.size r.cause.toNat 0 r.tval))

/-! ### LNCH -/

/-- R302, R323: LNCH of a record of 32 good words of its team's store, for a queue that has room, keeps the record for the
queue until its release wait is over, and blocks its slot; of a full queue it is cause 0x11, of an address that is no
multiple of 128 cause 0x04. -/
def Obligations.LnchQueuesItsRecord : Prop :=
  ∀ (o : LnchOp) s w n x, Issues (.lnch o) s w n x →
    let c := finds s w n x (.lnch o)
    let a := c.sca o.record.toNat
    let q := (c.sval o.q).toNat
    (a.toNat % 128 ≠ 0 → Traps s w n (.lnch o) 0x04 0 a) ∧
    (∀ ws, a.toNat % 128 = 0 → q < 64 → c.storeWords a 32 = some ws →
      (queueFull s (partOf s w) q = true → Traps s w n (.lnch o) 0x11 0 (BitVec.ofNat 32 q)) ∧
      (queueFull s (partOf s w) q = false → (∀ p ∈ ws, p.2.isGood = true) →
        ∃ t v p, exec (.lnch o) s = .next t ∧ findWarp? t w.uid = some v ∧
          v.slot? n = some { countedSlot w x (.lnch o) with block := .lnch s.nextId } ∧
          t.ops = s.ops ++ [p] ∧ p.id = s.nextId ∧ p.kind = .lnch (ws.map (fun p => p.2.data)) q o.idx ∧ p.held = true ∧
          MemoryKept s t))

/-! ### Memory -/

/-- R68, R81, R254, R256: LD and LDCK, when every address translates and no earlier access of the warp to one of the words is
open, become an operation with a word for each lane and offset: a word that hits has the L1's value, every other word of HBM
waits on a request for its line, which names it unless the domain owns it; nothing else changes until the value lands. Which
words of a line are taken together is log 101. -/
def Obligations.LoadsHitOrAsk : Prop :=
  ∀ (o : MemOp) s w n x l, ∀ p ∈ [(Instr.ld o, OpKind.ld), (Instr.ldck o, OpKind.ldck)], Issues p.1 s w n x →
    let c := finds s w n x p.1
    let k := o.width.words
    let dom := domainOf s w.core
    let ws := lanesWords l k (fun lane j va pa a =>
      OpWord.plain lane j va (tgtOf pa) (demote false o.pol pa a) a.fal (good 0) (good 0))
    c.checkAddrs (4 * k) 0 (fun _ _ => false) (laneAddrs c o.guard (c.gaddr o.addr)) = .ok l →
    globalConflict s w.uid ws = false →
    ∃ t q, exec p.1 s = .next t ∧ q ∈ t.ops ∧ Op.of q s w p.2 ∧ q.width = k ∧ q.held = false ∧
      (∀ r, o.data = .v r → q.dst = r.toNat) ∧ q.words.map OpWord.access = ws.map OpWord.access ∧
      (∀ y ∈ q.words, ∀ pa, y.tgt = .hbm pa → y.got = none → Asked t dom y (loadReq y.pol) pa) ∧
      (LinesOnce s dom → ∀ y ∈ q.words, ∀ v, y.got = some v → ∃ line j e, y.line? = some (line, j) ∧
        l1Word? s dom line j = some e ∧ e.val = v ∧ (y.pol = .own → e.st = .ow)) ∧
      (o.ord = true → ∃ v a, findWarp? t w.uid = some v ∧ a ∈ v.acquires ∧ a.op = some q.id ∧ a.scope = o.scope) ∧
      Quiet s t w n x p.1

/-- R68, R89, R96, R254, R256: ST, STNT and STCK become an operation with the words that the lanes write, of several
lanes that name one word the highest; unless a release wait comes first, every word that is not to be owned is on
its way to its home, and a word to be owned is written or asked for; no memory changes at issue. -/
def Obligations.StoresSendTheirWords : Prop :=
  ∀ (o : MemOp) s w n x l, ∀ p ∈ [(Instr.st o, OpKind.st), (Instr.stnt o, OpKind.stnt), (Instr.stck o, OpKind.stck)],
    Issues p.1 s w n x →
    let c := finds s w n x p.1
    let k := if p.2 = .stck then 1 else o.width.words
    let dom := domainOf s w.core
    let ws := lanesWords l k (fun lane j va pa a =>
      OpWord.plain lane j va (tgtOf pa) (if p.2 = .stck then .wt else demote true o.pol pa a) a.fal
        (if p.2 = .stck then CWord.ofCheck (c.dataWord o.data 0 lane) ((c.dataWord o.data 1 lane).setWidth 8)
         else good (c.dataWord o.data j lane)) (good 0))
    c.checkAddrs (4 * k) 1 (fun _ a => a.ro) (laneAddrs c o.guard (c.gaddr o.addr)) = .ok l →
    globalConflict s w.uid (lastWriters ws) = false → (∀ y ∈ ws, ∀ pa, y.tgt = .hbm pa → pa % 128 = y.addr.toNat % 128) →
    ∃ t q, exec p.1 s = .next t ∧ q ∈ t.ops ∧ Op.of q s w p.2 ∧ q.held = o.ord ∧
      q.words.map OpWord.access = (lastWriters ws).map OpWord.access ∧
      (o.ord = false → ∀ y ∈ q.words, ∀ pa, y.tgt = .hbm pa →
        (y.pol ≠ .own → ∃ r ∈ t.reqs, r.kind = .wrh ∧ r.op = q.id ∧ r.line = pa / 128 ∧
          tget? r.words (pa / 4 % 32) = some y.data) ∧
        (y.pol = .own → y.done = true ∨ Asked t dom y .own pa)) ∧
      Quiet s t w n x p.1

/-- R89, R258, R259: ATOM and RED become an operation with each lane's word or pair; unless a release wait comes first, a
request for each lane is on its way to the home; an ATOM that acquires starts its acquire. What each operation leaves in
the word or pair comes from the old value x, the operand B and, for a compare-and-swap, the expected value D. -/
def Obligations.AtomicsGoToTheirHomesAndCompute : Prop :=
  (∀ s w n x l,
     let sent (t : State) (q : Op) (kind : ReqKind) : Prop :=
       ∀ y ∈ q.words, y.j = 0 → ∀ pa, y.tgt = .hbm pa → ∃ r ∈ t.reqs, r.kind = kind ∧ r.op = q.id ∧ r.lane = y.lane ∧
         r.line = pa / 128 ∧ tget? r.words (pa / 4 % 32) = some y.data
     (∀ o : AtomOp, Issues (.atom o) s w n x →
       let c := finds s w n x (.atom o)
       let ws := c.atomWords o.kind o.b (some o.dst) l
       c.checkAddrs (4 * atomCount o.kind) 2 atomBad (laneAddrs c o.guard (fun l => c.base o.base l + offset64 o.off)) =
         .ok l → globalConflict s w.uid ws = false →
       ∃ t q, exec (.atom o) s = .next t ∧ q ∈ t.ops ∧ Op.of q s w (.atom o.kind) ∧ q.dst = o.dst.toNat ∧
         q.width = atomCount o.kind ∧ q.words = ws ∧ q.held = (o.ord == .rel || o.ord == .ar) ∧
         (q.held = false → sent t q (.atomic o.kind)) ∧
         (o.ord = .acq ∨ o.ord = .ar → ∃ v a, findWarp? t w.uid = some v ∧ a ∈ v.acquires ∧ a.op = some q.id ∧
           a.scope = o.scope) ∧ Quiet s t w n x (.atom o)) ∧
     (∀ o : RedOp, Issues (.red o) s w n x →
       let c := finds s w n x (.red o)
       let ws := c.atomWords o.kind o.b none l
       c.checkAddrs (4 * atomCount o.kind) 2 redBad (laneAddrs c o.guard (fun l => c.base o.base l + offset64 o.off)) =
         .ok l → globalConflict s w.uid ws = false →
       ∃ t q, exec (.red o) s = .next t ∧ q ∈ t.ops ∧ Op.of q s w (.red o.kind) ∧ q.words = ws ∧
         q.held = (o.ord == .rel || o.ord == .ar) ∧ (q.held = false → sent t q (.reduce o.kind)) ∧
         Quiet s t w n x (.red o))) ∧
  (∀ (x b d : DWord),
     let lo (v : DWord) : Word := v.extractLsb' 0 32
     let w (v : Word) : DWord × Word := (v.setWidth 64, 0)
     atomOp .addI32 x b d = w (lo x + lo b) ∧ atomOp .addI64 x b d = (x + b, 0) ∧
     atomOp .minI32 x b d = w (if (lo b).toInt < (lo x).toInt then lo b else lo x) ∧
     atomOp .minN32 x b d = w (if (lo b).toNat < (lo x).toNat then lo b else lo x) ∧
     atomOp .maxI32 x b d = w (if (lo x).toInt < (lo b).toInt then lo b else lo x) ∧
     atomOp .maxN32 x b d = w (if (lo x).toNat < (lo b).toNat then lo b else lo x) ∧
     atomOp .and x b d = w (lo x &&& lo b) ∧ atomOp .or x b d = w (lo x ||| lo b) ∧
     atomOp .xor x b d = w (lo x ^^^ lo b) ∧ atomOp .xchg x b d = w (lo b) ∧ atomOp .xchg64 x b d = (b, 0) ∧
     atomOp .cas x b d = w (if lo x = lo d then lo b else lo x) ∧ atomOp .cas64 x b d = (if x = d then b else x, 0) ∧
     atomOp .incw x b d = w (if (lo x).toNat < (lo b).toNat then lo x + 1 else 0) ∧
     atomOp .addF32 x b d = (BitVec.ofNat 64 (fmtF32.sum .rne [fmtF32.decode (lo x).toNat, fmtF32.decode (lo b).toNat]).1,
       (fmtF32.sum .rne [fmtF32.decode (lo x).toNat, fmtF32.decode (lo b).toNat]).2) ∧
     atomOp .minF32 x b d = (BitVec.ofNat 64 (lesser fmtF32 (lo x).toNat (lo b).toNat (lo x).toNat (lo b).toNat).1,
       (lesser fmtF32 (lo x).toNat (lo b).toNat (lo x).toNat (lo b).toNat).2) ∧
     atomOp .maxF32 x b d = (BitVec.ofNat 64 (lesser fmtF32 (lo x).toNat (lo b).toNat (lo b).toNat (lo x).toNat).1,
       (lesser fmtF32 (lo x).toNat (lo b).toNat (lo b).toNat (lo x).toNat).2))


/-- R26, R55, R57, R92, R257, R258: LDS reads its words at the banks, and they land later; STS sends each word that a lane
names to its bank with the value of the highest such lane; ATOMS performs each lane's operation in lane order, every lane
getting the value that the one before it left; PASSES counts the replays. An access to a word that an earlier STS of the
warp has not written waits: that R92's order holds it at issue is the model's reading (log 38). An access without a lane adds
nothing to PASSES (log 106). -/
def Obligations.StoreAccessesActAtTheBanks : Prop :=
  ∀ s w n x ws,
    let key (b : BankWord) : Nat := (b.tgt.place s w).2.2
    let ends (i : Instr) (k : Nat) (s' : State) (q : Op) : Prop :=
      exec i s = .next (went { s' with nextId := s.nextId + 1, ops := s.ops ++ [q] } w n x i
        (fun v => { v with passes := w.passes + BitVec.ofNat 32 ((finds s w n x i).passes k ws - 1) }) [])
    let holds (i : Instr) : Prop := bankConflict s w ws = true → exec i s = .next (holdSlot s w.uid n)
    (∀ o : StoreOp, Issues (.lds o) s w n x →
      let c := finds s w n x (.lds o)
      c.checkBank o.width.words 0 (fun _ => true) ((c.lanes o.guard).map (fun l => (l, c.saddr o l))) = .ok ws →
      holds (.lds o) ∧ (bankConflict s w ws = false →
        ∃ q, ends (.lds o) o.width.words s q ∧ Op.of q s w .lds ∧ q.width = o.width.words ∧
          (∀ r, o.data = .v r → q.dst = r.toNat) ∧ q.words = ws.map (fun b => { b.opWord s w with
            got := some (if b.tgt.isAlias then good (s.store.word (key b)).data else s.store.word (key b)) }))) ∧
    (∀ o : StoreOp, Issues (.sts o) s w n x →
      let c := finds s w n x (.sts o)
      let word (b : BankWord) : OpWord := { b.opWord s w with data := good (c.dataWord o.data b.j b.lane) }
      c.checkBank o.width.words 1 StoreTgt.writable ((c.lanes o.guard).map (fun l => (l, c.saddr o l))) = .ok ws →
      holds (.sts o) ∧ (bankConflict s w ws = false →
        ∃ q, ends (.sts o) o.width.words s q ∧ Op.of q s w .sts ∧ q.held = false ∧ (q.words.map (·.tgt)).Nodup ∧
          (∀ b ∈ ws, ∃ y ∈ q.words, y.tgt = (word b).tgt) ∧
          ∀ y ∈ q.words, ∃ before b after, ws = before ++ b :: after ∧ y = word b ∧ ∀ d ∈ after, (word d).tgt ≠ y.tgt)) ∧
    (∀ o : AtomsOp, Issues (.atoms o) s w n x →
      let c := finds s w n x (.atoms o)
      let res (m : Mem) (b : BankWord) : DWord × Word := atomOp o.kind ((m.word (key b)).data.setWidth 64)
        ((c.word o.b 0 b.lane).setWidth 64) ((c.vec o.dst.toNat b.lane).setWidth 64)
      let after (l : List BankWord) : Mem := l.foldl (fun m b => m.setWord (key b) (good (lowWord (res m b).1))) s.store
      c.checkBank 1 2 (fun t => t.writable && !t.isAlias) ((c.lanes o.guard).map (fun l => (l, c.atomsAddr o l))) =
        .ok ws → holds (.atoms o) ∧ (bankConflict s w ws = false → (∀ b ∈ ws, (s.store.word (key b)).isGood = true) →
      s.store.wf = true → Unwatched s (ws.map key) →
      ∃ xs q, ends (.atoms o) 1 { s with store := after ws, mx := xs } q ∧ Op.of q s w (.atoms o.kind) ∧
        q.dst = o.dst.toNat ∧ q.words.length = ws.length ∧
        ∀ before b rest, ws = before ++ b :: rest → (q.words[before.length]?).map (fun y => (y.lane, y.got, y.flags)) =
          some (b.lane, some ((after before).word (key b)), (res (after before) b).2)))

/-- R71, R82, R103, R104, R255, R260, R261, R359: PREF drops the lanes that are misaligned or do not translate, and for every
word of the others asks for what a load would, without an operation of the warp; of the lines named INVL leaves the L1 its
owned words alone, and WBL the others alone, the owned ones being on their way home in a surrender; an address out of the
partition's ranges freezes the core. FENCE makes its
release wait or its acquire; DRNT and REDF hold back the later instructions. -/
def Obligations.FencesDrainsAndLineOperationsAct : Prop :=
  ∀ s w n x,
    let dom := domainOf s w.core
    (∀ o, Issues (.pref o) s w n x →
      let c := finds s w n x (.pref o)
      let k := o.width.words
      let l := (laneAddrs c o.guard (c.gaddr o.addr)).filter (fun p => decide (p.2.toNat % (4 * k) = 0))
      TablesHere s w n l → Freezes (.pref o) s w x l ∧ (NoFreeze s w l → ∃ t, exec (.pref o) s = .next t ∧ t.ops = s.ops ∧
        Quiet s t w n x (.pref o) ∧
        ∀ p ∈ l, ∀ pa a rng, laneXlat s w p.2 = .ok pa a rng → ∀ j < k,
          let pol := demote false o.pol (pa + 4 * j) a
          let kind := loadReq pol
          ∀ line i, (OpWord.plain p.1 j p.2 (tgtOf (pa + 4 * j)) pol a.fal (good 0) (good 0)).line? = some (line, i) →
            let there : Prop := ∃ e, l1Word? s dom line i = some e ∧ (pol = .own → e.st = .ow)
            let missed (K : ReqKind) (P : Miss → Prop) : Prop :=
              ∃ m ∈ t.misses, m.dom = dom ∧ m.line = line ∧ m.kind = K ∧ P m
            (128 * line < hbmEnd → there ∨ missed kind (fun m => ∃ r ∈ t.reqs, r.miss = m.id ∧ r.line = line ∧
              r.kind = kind ∧ r.mask.getLsbD i = true)) ∧
            (hbmEnd ≤ 128 * line → a.fal = false → there ∨ missed .rsi (fun m => ∃ r ∈ t.replies, r.miss = m.id ∧
              r.line = line ∧ r.dom = dom)))) ∧
    (∀ o, ∀ i ∈ [Instr.invl o, Instr.wbl o], Issues i s w n x →
      let c := finds s w n x i
      let l := laneAddrs c o.guard (fun m => c.base o.base m + offset64 o.off)
      TablesHere s w n l → Freezes i s w x l ∧ (NoFreeze s w l → tsorted s.l1s = true → L1Ok s dom →
        ∃ t, exec i s = .next t ∧ t.ops = s.ops ∧ Quiet s t w n x i ∧
          ∀ p ∈ l, ∀ pa a rng, laneXlat s w p.2 = .ok pa a rng →
            let line := pa / 128
            (∀ j e, l1Word? t dom line j = some e ↔ l1Word? s dom line j = some e ∧ (e.st = .ow ↔ i = .invl o)) ∧
            (i = .wbl o → ownedWords s dom line ≠ [] → ∃ r ∈ t.reqs, r.kind = .sur ∧ r.line = line ∧
              r.src = .dom dom (fusedOf s dom) ∧ r.words = ownedWords s dom line ∧
              ∀ j < 32, r.mask.getLsbD j = true ↔ ∃ v, l1Word? s dom line j = some ⟨.ow, v⟩))) ∧
    (∀ o, Issues (.fence o) s w n x → o.ord = .acq → ∃ t v a, exec (.fence o) s = .next t ∧
      findWarp? t w.uid = some v ∧ v.acquires = w.acquires ++ [a] ∧ a.refSlot = s.slotCount ∧ a.scope = o.scope ∧
      a.loadsBefore = some w.seq ∧ t.ops = s.ops ∧ Quiet s t w n x (.fence o)) ∧
    (∀ o, Issues (.fence o) s w n x → o.ord ≠ .acq → ∃ t q, exec (.fence o) s = .next t ∧
      t.ops = s.ops ++ [q] ∧ Op.of q s w (.fence true (decide (o.ord ≠ .rel)) o.scope) ∧ q.held = true ∧
      Quiet s t w n x (.fence o)) ∧
    (Issues .drnt s w n x → exec .drnt s = .next (went s w n x .drnt (fun v =>
      { v with holds := w.holds ++ [(.drnt, w.seq)] }) [])) ∧
    (∀ sc, Issues (.redf sc) s w n x → exec (.redf sc) s = .next (went s w n x (.redf sc) (fun v =>
      { v with holds := w.holds ++ [(.redf, w.seq)] }) []))

/-- R253, R257 to R259, R265: an address that is no multiple of the access takes the alignment exception, with the address of
the lowest such lane in TVAL, and nothing else happens. -/
def Obligations.MisalignedAddressesTrap : Prop :=
  ∀ s w n x,
    (∀ (o : MemOp), ∀ p ∈ [(Instr.ld o, 4 * o.width.words), (Instr.ldck o, 4 * o.width.words),
        (Instr.st o, 4 * o.width.words), (Instr.stnt o, 4 * o.width.words), (Instr.stck o, 4)], Issues p.1 s w n x →
      let c := finds s w n x p.1
      ∀ a, misaligned? p.2 (laneAddrs c o.guard (c.gaddr o.addr)) = some a → Traps s w n p.1 0x04 0 (lowWord a)) ∧
    (∀ (o : AtomOp), Issues (.atom o) s w n x →
      let c := finds s w n x (.atom o)
      ∀ a, misaligned? (4 * atomCount o.kind) (laneAddrs c o.guard (fun l => c.base o.base l + offset64 o.off)) = some a →
        Traps s w n (.atom o) 0x04 0 (lowWord a)) ∧
    (∀ (o : RedOp), Issues (.red o) s w n x →
      let c := finds s w n x (.red o)
      ∀ a, misaligned? (4 * atomCount o.kind) (laneAddrs c o.guard (fun l => c.base o.base l + offset64 o.off)) = some a →
        Traps s w n (.red o) 0x04 0 (lowWord a)) ∧
    (∀ (o : AtomsOp), Issues (.atoms o) s w n x →
      let c := finds s w n x (.atoms o)
      ∀ before l after, c.lanes o.guard = before ++ l :: after → (∀ m ∈ before, (c.atomsAddr o m).toNat % 4 = 0) →
        (c.atomsAddr o l).toNat % 4 ≠ 0 → Traps s w n (.atoms o) 0x04 0 (c.atomsAddr o l)) ∧
    (∀ o, Issues (.waitw o) s w n x →
      let c := finds s w n x (.waitw o)
      let a := c.sca o.base.toNat + (match o.val with
        | .s _ => 0
        | .lit _ off => BitVec.ofNat 32 (4 * off.toNat))
      a.toNat % 4 ≠ 0 → Traps s w n (.waitw o) 0x04 0 a) ∧
    (∀ (o : StoreOp), ∀ i ∈ [Instr.lds o, Instr.sts o], Issues i s w n x →
      let c := finds s w n x i
      ∀ before l after, c.lanes o.guard = before ++ l :: after →
        (∀ m ∈ before, (c.saddr o m).toNat % (4 * o.width.words) = 0) → (c.saddr o l).toNat % (4 * o.width.words) ≠ 0 →
        Traps s w n i 0x04 0 (c.saddr o l)) ∧
    (∀ o, Issues (.wake o) s w n x →
      let a := (finds s w n x (.wake o)).sca o.base.toNat + o.off.getD 0
      a.toNat % 4 ≠ 0 → Traps s w n (.wake o) 0x04 0 a)

/-! ### Synchronisation -/

/-- R31, R32, R262, R263: BAR marks its active lanes as arrived, and for a drop as dropped, and makes a release that will
deliver them; SYNC also waits for the phase to change; WAIT waits for the phase of its last arrival, or is an acquire
where the warp has not arrived. A barrier not declared, one that is not there, a second arrival in a phase, or a dropped
lane is cause 0x0F. -/
def Obligations.BarriersArriveAndWait : Prop :=
  (∀ (o : BarOp) s w n x, Issues (.bar o) s w n x →
    (∀ m, findTeam? s w.team = some m → findGrid? s m.grid = none ∨ barOf? s m o.level o.n = none) →
    Traps s w n (.bar o) 0x0F 0 (BitVec.ofNat 32 (barKindCode o.kind * 256 + barLevelCode o.level * 64 + o.n.toNat))) ∧
  ∀ (o : BarOp) s w n x g m b, Issues (.bar o) s w n x → gridOf s w = some g → findTeam? s w.team = some m →
    barOf? s m o.level o.n = some b →
    let wb := warpBar w o.level o.n
    let i := Instr.bar o
    let ok := barDeclared g o = true ∧ x.mask &&& wb.dropped = 0
    let sends (f : Warp → Warp) : Prop := ∃ q, Op.of q s w (.bar o.kind o.level o.n x.mask) ∧ q.held = true ∧
      exec i s = .next (went { s with nextId := s.nextId + 1, ops := s.ops ++ [q] } w n x i f [])
    let waits (v : Warp) : Warp := v.setSlot n (some { countedSlot w x i with block := .bar o.level o.n b.phase })
    let mark (v : Warp) : Warp := markBar v o.level o.n b.phase x.mask (decide (o.kind = .drop))
    (ok → o.kind = .arrive ∨ o.kind = .drop → x.mask &&& wb.arrived = 0 → sends mark) ∧
    (ok → o.kind = .sync → x.mask &&& wb.arrived = 0 → (o.level = .grid → g.failed = none) →
      sends (fun v => waits (mark v))) ∧
    (ok → o.kind = .wait → wb.arrived ≠ 0 → (o.level = .grid → g.failed = none) → exec i s = .next (went s w n x i waits [])) ∧
    (ok → o.kind = .wait → wb.arrived = 0 → ∃ t v a, exec i s = .next t ∧ findWarp? t w.uid = some v ∧
      v.acquires = w.acquires ++ [a] ∧ a.scope = levelScope m o.level ∧ a.refSlot = s.slotCount ∧ Quiet s t w n x i) ∧
    (¬ ok ∨ (o.kind ≠ .wait ∧ x.mask &&& wb.arrived ≠ 0) →
      Traps s w n i 0x0F 0 (BitVec.ofNat 32 (barKindCode o.kind * 256 + barLevelCode o.level * 64 + o.n.toNat))) ∧
    warpBar (mark w) o.level o.n = { level := o.level, n := o.n, arrived := wb.arrived ||| x.mask, phase := some b.phase,
                                     dropped := if o.kind = .drop then wb.dropped ||| x.mask else wb.dropped }

/-- R24, R25, R262, R263, R340: an arrival that fills the count of a team's, a gang's or a grid's barrier completes its
phase: the phase bit turns, the count is zero again, the dropped threads leave the registered count and the waiters go
on; an arrival that does not is counted. A pod barrier's arrivals are counted and sent to the CLE, and its phase
completes when the CLE says so. An arrival on an empty chamber that makes the fill count, or on a full one that makes
the drain count, turns its state and starts the count again, the phase turning with the drain; any other arrival is
counted. -/
def Obligations.BarriersAndChambersTurn : Prop :=
  (∀ s (m : Team) level n arrivals drops b, level ≠ .pod → findTeam? s m.uid = some m → barOf? s m level n = some b →
     let t := arriveBar s m level n arrivals drops
     ∃ m' b', findTeam? t m.uid = some m' ∧ barOf? t m' level n = some b' ∧
       if 0 < arrivals ∧ b.arrived + arrivals = b.registered then
         b'.phase = !b.phase ∧ b'.arrived = 0 ∧ b'.leaving = 0 ∧ b'.registered = b.registered - (b.leaving + drops) ∧
           Released s t m level n b.phase
       else b'.phase = b.phase ∧ b'.arrived = b.arrived + arrivals ∧ b'.leaving = b.leaving + drops ∧
         b'.registered = b.registered ∧ t.warps = s.warps) ∧
  (∀ s (m : Team) n arrivals drops p, podOf? s m.grid = some p → findPod? s p.part p.group = some p →
     let t := arriveBar s m .pod n arrivals drops
     let mine (q : Pod) : PodBar := findPodBar q.mine n q.rank
     t.warps = s.warps ∧ ∃ q, findPod? t p.part p.group = some q ∧ q.out = p.out ++ [(n, arrivals, drops)] ∧
       q.phases = p.phases ∧
       mine q = { mine p with arrived := (mine p).arrived + arrivals, leaving := (mine p).leaving + drops }) ∧
  (∀ s part group n p m, findPod? s part group = some p → p.completes n = true →
     s.teams.find? (fun u => u.grid == p.grid) = some m →
     Becomes (.podPhaseCompletion part group n) s (fun t => Released s t m .pod n (tget p.phases n.toNat false))) ∧
  (∀ (k : Chamber) fill drain,
     let full := if k.full then drain else fill
     (k.count + 1 < full → k.arrive fill drain = { k with count := k.count + 1 }) ∧
     (full ≤ k.count + 1 → k.arrive fill drain =
       { full := !k.full, phase := (if k.full then !k.phase else k.phase), count := 0 }))


/-- R265, R266: WAITW goes on when its word compares, and waits otherwise; WAKE makes every slot of the gang that waits on
its word read the word again, and a write to a word every slot that holds a watch entry for it. -/
def Obligations.WaitwAndWakeFollowTheWord : Prop :=
  (∀ s key v by_, v.isGood = true → s.store.wf = true →
    let t := writeStore s key v by_
    t.store = s.store.setWord key v ∧ (
    ∀ u ∈ s.warps, findWarp? s u.uid = some u → isResident s u = true → ∀ m y k, u.slot? m = some y → y.block = .waitw k →
      k.key = key → k.entry = true → ∃ u', findWarp? t u.uid = some u' ∧
        u'.slot? m = some (if waitHolds k v.data then { y with block := .none } else y) ∧
        (waitHolds k v.data = true → k.acq = true → ∃ a ∈ u'.acquires, a.refSlot = s.slotCount))) ∧
  ∀ s w n x key,
    (∀ o, Issues (.waitw o) s w n x →
      let i := Instr.waitw o
      let c := finds s w n x i
      let a := c.sca o.base.toNat + (match o.val with
        | .s _ => 0
        | .lit _ off => BitVec.ofNat 32 (4 * off.toNat))
      let y := match o.val with
        | .s j => c.sca j.toNat
        | .lit v _ => v
      c.checkWord a 0 = .ok key → (s.store.word key).isGood = true →
      let v := (s.store.word key).data
      let holds := if o.signed then ordered o.cond v.toInt y.toInt else ordered o.cond (v.toNat : Int) (y.toNat : Int)
      (holds = true → o.acq = false → exec i s = .next (wentSlot s w n x i id [])) ∧
      (holds = true → o.acq = true → ∃ t u a, exec i s = .next t ∧ findWarp? t w.uid = some u ∧
        u.acquires = w.acquires ++ [a] ∧ a.refSlot = s.slotCount ∧ Quiet s t w n x i) ∧
      (holds = false → ∃ k : WordWait, k.key = key ∧ k.addr = a ∧ k.cond = o.cond ∧ k.signed = o.signed ∧ k.acq = o.acq ∧
        k.value = y ∧ exec i s = .next (wentSlot s w n x i (fun z => { z with block := .waitw k }) []))) ∧
    (∀ o, Issues (.wake o) s w n x →
      (finds s w n x (.wake o)).checkWord ((finds s w n x (.wake o)).sca o.base.toNat + o.off.getD 0) 0 = .ok key →
      (s.store.word key).isGood = true →
      ∃ t, exec (.wake o) s = .next t ∧ MemoryKept s t ∧ Counted s t w n x (.wake o) ∧
        ∀ u ∈ s.warps, findWarp? s u.uid = some u → u.uid ≠ w.uid → isResident s u = true →
          ((findTeam? s u.team).map (·.gang)) = ((findTeam? s w.team).map (·.gang)) → ∀ m y k, u.slot? m = some y →
            y.block = .waitw k → k.key = key → ∃ u', findWarp? t u.uid = some u' ∧
              u'.slot? m = some (if waitHolds k (s.store.word key).data then { y with block := .none } else y))

/-- R24, R25, R267, R268: RARV makes a release that will arrive on its chamber; RWT goes on as an acquire when the chamber
has its state and phase, and waits otherwise; TFLAG makes a release that will set the ready flag of its tile. A ring,
chamber or tile that is not there is cause 0x0E or 0x0F. -/
def Obligations.RingsAndTileFlagsAct : Prop :=
  ∀ s w n x,
    let sends (i : Instr) (k : OpKind) : Prop := ∃ q, Op.of q s w k ∧ q.held = true ∧
      exec i s = .next (went { s with nextId := s.nextId + 1, ops := s.ops ++ [q] } w n x i id [])
    (∀ o, Issues (.rarv o) s w n x →
      let k := (finds s w n x (.rarv o)).chamber? o.at_
      (k = none → Traps s w n (.rarv o) 0x0E 0 (BitVec.ofNat 32 (o.at_.chamber.toNat * 32 + o.at_.ring.toNat))) ∧
      (k.isSome → sends (.rarv o) (.ring o.at_.ring o.at_.chamber))) ∧
    (∀ o, Issues (.rwt o) s w n x →
      let c := finds s w n x (.rwt o)
      let phase := (c.sval o.phase).getLsbD 0
      (c.chamber? o.at_ = none →
        Traps s w n (.rwt o) 0x0E 0 (BitVec.ofNat 32 (o.at_.chamber.toNat * 32 + o.at_.ring.toNat))) ∧
      (∀ k, c.chamber? o.at_ = some k → k.full = o.full → k.phase = phase → ∃ t v a, exec (.rwt o) s = .next t ∧
        findWarp? t w.uid = some v ∧ v.acquires = w.acquires ++ [a] ∧ a.scope = .core ∧ Quiet s t w n x (.rwt o)) ∧
      (∀ k, c.chamber? o.at_ = some k → (k.full ≠ o.full ∨ k.phase ≠ phase) →
        exec (.rwt o) s = .next (wentSlot s w n x (.rwt o) (fun y =>
          { y with block := .ring o.at_.ring o.at_.chamber o.full phase }) []))) ∧
    (∀ v, Issues (.tflag v) s w n x →
      let t := (finds s w n x (.tflag v)).sval v
      let tiles := (gridOf s w).elim 0 (·.r.tiles)
      (tiles ≤ t.toNat → Traps s w n (.tflag v) 0x0F 0 t) ∧ (t.toNat < tiles → sends (.tflag v) (.tflag t)))

/-! ### Near-bank operations -/

/-- R269, R272 to R275: NBSA sends one part to the plough of its granules' channel; NBCP, NBZR and NBOPT send each pair,
granule or block to the part of its channel, a pair of two channels to a part of the home pairs; NBFN leaves no shared
word in its L1 domain, or contains the gang for an error of a plough. -/
def Obligations.PloughInstructionsSendTheirParts : Prop :=
  ∀ s w n x l h,
    let chan (g : Nat) : Nat := granuleChannel g
    (∀ accd d rows, Issues (.nbsa accd d) s w n x →
      let c := finds s w n x (.nbsa accd d)
      let a := c.sca d.toNat
      let m := bits (wordAt h 0) 0 6 + 1
      c.readDesc a 16 4 = .ok h → c.consume (a + 16) (4 * m) = .ok rows → bits (wordAt h 0) 6 26 = 0 →
      wordAt h 1 = 0 → (∀ k < m, wordAt rows (4 * k + 3) = 0) →
      c.granules (⟨dwordAt h 2, true⟩ :: (List.range m).map (fun k => ⟨dwordAt rows (4 * k), false⟩)) = .ok l →
      let g := (l.head?).elim 0 (·.num)
      (∀ p ∈ l, chan p.num = chan g) →
      PartsSent (.nbsa accd d) s w n x (fun ps => ∃ p, ps = [p] ∧ p.channel = chan g ∧ p.va = dwordAt h 2 ∧
        p.kind = .nbsa accd g (((l.map (·.num)).drop 1).zip ((List.range m).map (fun k => wordAt rows (4 * k + 2)))))) ∧
    (∀ d, Issues (.nbcp d) s w n x →
      let c := finds s w n x (.nbcp d)
      let k := (wordAt h 4).toNat
      c.readDesc (c.sca d.toNat) 16 8 = .ok h → 1 ≤ k → k ≤ 512 → wordAt h 5 = 0 → wordAt h 6 = 0 → wordAt h 7 = 0 →
      c.granules (runOf (dwordAt h 0) k false ++ runOf (dwordAt h 2) k true) = .ok l →
      let pairs := ((l.take k).map (·.num)).zip ((l.drop k).map (·.num))
      let fits (p : Part) (q : Nat × Nat) : Prop :=
        q ∈ p.pairs ∧ p.channel = chan q.2 ∧ p.isCross = (chan q.1 != chan q.2)
      PartsSent (.nbcp d) s w n x (fun ps => (∀ q ∈ pairs, ∃ p ∈ ps, fits p q) ∧
        (∀ p ∈ ps, Rising (p.pairs.map (·.2)) ∧ ∀ q ∈ p.pairs, q ∈ pairs ∧ fits p q) ∧
        ((ps.filter (fun p => !p.isCross)).map (·.channel)).Nodup)) ∧
    (∀ d, Issues (.nbzr d) s w n x →
      let c := finds s w n x (.nbzr d)
      let k := (wordAt h 2).toNat
      c.readDesc (c.sca d.toNat) 16 4 = .ok h → 1 ≤ k → k ≤ 512 → wordAt h 3 = 0 →
      c.granules (runOf (dwordAt h 0) k true) = .ok l →
      PartsSent (.nbzr d) s w n x (fun ps => (ps.map (·.channel)).Nodup ∧
        (∀ q ∈ l, ∃ p ∈ ps, ∃ gs, p.kind = .nbzr gs ∧ p.channel = chan q.num ∧ q.num ∈ gs) ∧
        (∀ p ∈ ps, ∃ gs, p.kind = .nbzr gs ∧ Rising gs ∧ ∀ g ∈ gs, g ∈ l.map (·.num) ∧ p.channel = chan g))) ∧
    (∀ d, Issues (.nbopt d) s w n x →
      let c := finds s w n x (.nbopt d)
      let k := (wordAt h 8).toNat
      c.readDesc (c.sca d.toNat) 16 20 = .ok h → 1 ≤ k → k ≤ 512 → wordAt h 9 = 0 → wordAt h 19 = 0 →
      c.granules (runOf (dwordAt h 0) k true ++ runOf (dwordAt h 2) k true ++ runOf (dwordAt h 4) k true ++
        runOf (dwordAt h 6) k false) = .ok l →
      let g (array j : Nat) : Nat := (l[array * k + j]?).elim 0 (·.num)
      let block (j : Nat) : Nat × Nat × Nat × Nat × Nat := (g 0 j, g 1 j, g 2 j, g 3 j, j)
      (∀ j < k, chan (g 1 j) = chan (g 0 j) ∧ chan (g 2 j) = chan (g 0 j) ∧ chan (g 3 j) = chan (g 0 j)) →
      PartsSent (.nbopt d) s w n x (fun ps => (ps.map (·.channel)).Nodup ∧
        (∀ j < k, ∃ p ∈ ps, ∃ bs, p.kind = .nbopt bs h ∧ p.channel = chan (g 0 j) ∧ block j ∈ bs) ∧
        (∀ p ∈ ps, ∃ bs, p.kind = .nbopt bs h ∧ ∀ b ∈ bs, ∃ j < k, b = block j ∧ p.channel = chan (g 0 j)))) ∧
    (Issues .nbfn s w n x →
      (w.ploughError = none → exec .nbfn s = .next (went (dropSi s (domainOf s w.core)) w n x .nbfn id [])) ∧
      (∀ a, w.ploughError = some a → exec .nbfn s = .next (contain s w 6 0 0x07 x.pc a)))

/-! ### Matrices, copies and collectives -/

/-- R278, R279, R283: a matrix instruction whose extents are aligned and lie in a scratchpad of its gang joins the queue
of its unit with the lanes, tile and addresses that it names, and nothing else happens; MMAO takes its outliers with it
and holds its slot; a list of more than 256 outliers is cause 0x01, a misaligned image cause 0x04. -/
def Obligations.MatrixOperationsJoinTheirQueues : Prop :=
  ∀ s w n x,
    (∀ o, Issues (.mma o) s w n x →
      let c := finds s w n x (.mma o)
      let a := c.sca o.a.toNat
      let b := c.sca o.b.toNat
      c.checkExtents 0 [(a, 16, tileA o.ty), (b, 16, tileB o.ty)] = none →
      MxQueued (.mma o) s w n x o.acc o.guard (.mma o.ty (bits a 0 20) (bits b 0 20) []) x.readyAt) ∧
    (∀ o l, Issues (.mmao o) s w n x →
      let c := finds s w n x (.mmao o)
      let a := c.sca o.a.toNat
      let b := c.sca o.b.toNat
      let e := c.sca o.list.toNat
      let k := (c.sca (o.list.toNat + 1)).toNat
      (256 < k → Traps s w n (.mmao o) 0x01 1 e) ∧
      (k ≤ 256 → c.checkExtents 0 [(a, 16, tileA o.ty), (b, 16, tileB o.ty), (e, 8, 8 * k)] = none →
        (∀ q ∈ s.ops, q.warp = w.uid → q.kind ≠ .sts) → c.outliers o.ty e k = .ok l →
        MxQueued (.mmao o) s w n x o.acc o.guard (.mma o.ty (bits a 0 20) (bits b 0 20) l)
          (s.cycle + 20 + (k + 3) / 4))) ∧
    (∀ o, Issues (.acz o) s w n x → MxQueued (.acz o) s w n x o.acc o.guard .acz x.readyAt) ∧
    (∀ (o : AccMemOp), ∀ p ∈ [(Instr.acld o, 0, MxKind.acld (bits ((finds s w n x (.acld o)).sca o.addr.toNat) 0 20)),
        (Instr.acst o, 1, MxKind.acst (bits ((finds s w n x (.acst o)).sca o.addr.toNat) 0 20))], Issues p.1 s w n x →
      let c := finds s w n x p.1
      let a := c.sca o.addr.toNat
      (a.toNat % 256 ≠ 0 → Traps s w n p.1 0x04 0 a) ∧
      (c.checkExtents p.2.1 [(a, 256, 8192)] = none → MxQueued p.1 s w n x o.acc o.guard p.2.2 x.readyAt)) ∧
    (∀ o, Issues (.tdrn o) s w n x →
      let c := finds s w n x (.tdrn o)
      let d := c.sca o.dst.toNat
      let e := o.scales.elim 0 (fun j => c.sca j.toNat)
      c.checkExtents 1 ((d, 16, drainTile o.fmt) :: (if o.scales.isSome then [(e, 4, 128)] else [])) = none →
      MxQueued (.tdrn o) s w n x o.acc o.guard (.tdrn o.fmt (bits d 0 20) (bits e 0 20)) x.readyAt) ∧
    (∀ (o : AccVecOp), ∀ p ∈ [(Instr.acsc o, MxKind.acsc (accReg o.reg)), (Instr.acmx o, MxKind.acmx (accReg o.reg)),
        (Instr.acex o, MxKind.acex (accReg o.reg))], Issues p.1 s w n x →
      MxQueued p.1 s w n x o.acc o.guard p.2 x.readyAt)

/-- R287 to R292: CPT, CPG and CPS, of a record that keeps its rules and of aligned addresses in a scratchpad of the
gang, join their quad's copies behind a release wait; ROWPROG starts, and the slot is held 24 cycles. A record that does
not keep its rules is cause 0x01. CPQ reads the progress of the warp's latest copy. The model's choice: a record
of the other direction or of the wrong NDIM, and the alignment of the store side (log 125). -/
def Obligations.CopiesAreQueuedAndRead : Prop :=
  (∀ (o : CopyOp) s w n x ws, ∀ p ∈ [(Instr.cpt o, CopyKind.cpt), (Instr.cpg o, CopyKind.cpg), (Instr.cps o, CopyKind.cps)],
    Issues p.1 s w n x →
    let c := finds s w n x p.1
    let a := c.sca o.layout.toNat
    let l := layoutOf ws
    let rows := c.copyRows p.2 o
    let base := c.base o.g c.lowest
    let store := c.sca o.store.toNat
    c.readDesc a 16 32 = .ok ws →
    (layoutOk ws p.2.dir = false → Traps s w n p.1 0x01 1 a) ∧
    (∀ core addr nf, layoutOk ws p.2.dir = true →
      (∀ b ∈ (if p.2 = .cpt then [base] else rows.map (·.2)), alignedFor l b = true) → store.toNat % 4 = 0 →
      (∀ m, c.notifyAddr o.notify = some m → m.toNat % 4 = 0) →
      c.copyStore? store (copyExtent p.2 l rows) (!l.toGlobal) = some (core, addr) → c.notify o.notify = .ok nf →
      ∃ t k v y, exec p.1 s = .next t ∧ t.copies = s.copies ++ [k] ∧
        k.id = s.nextId ∧ k.warp = w.uid ∧ k.seq = w.seq ∧ k.quad = w.core / 4 ∧ k.kind = p.2 ∧ k.layout = l ∧
        k.base = base ∧ k.rows = rows ∧ k.core = core ∧ k.store = addr ∧ k.notify = nf ∧ k.done = 0 ∧
        k.total = (if p.2 = .cpt then l.rows else rows.length) ∧ k.state = .running ∧ k.held = true ∧
        Releases s t w (.copy k.id) ∧ findWarp? t w.uid = some v ∧ v.latestCopy = k.id ∧ v.rowprog = 0x40000000 ∧
        v.copyRows = BitVec.ofNat 32 k.total ∧ v.slot? n = some y ∧ y.readyAt = s.cycle + 24 ∧ Quiet s t w n x p.1)) ∧
  (∀ d, Writes (.cpq d) (fun c ws fl => fl = 0 ∧
    ws = [(sKey d.toNat, c.preW.rowprog), (sKey (d.toNat + 1), c.preW.copyRows)]))

/-- R294, R296, R358: CARD, CAGT, CATA and CBCT, of a descriptor that keeps its rules and of a group whose table names
this device at the entry's rank, join the CLE's instances behind a release wait. A descriptor that does not keep its
rules is cause 0x01, a buffer's address that is no multiple of 4 cause 0x04. The model's choices: the release wait, COUNT and
ROOT as reserved values and the look-up at DLIST[RANK] (log 53); that cause 0x04 is meant for SRCVA and DSTVA is an
inference from R294 and R177, not a word of theirs. -/
def Obligations.CollectivesJoinTheirGroups : Prop :=
  ∀ (o : CollOp) s w n x ws, ∀ p ∈ [(Instr.card o, 0), (Instr.cagt o, 1), (Instr.cata o, 2), (Instr.cbct o, 3)],
    Issues p.1 s w n x →
    let c := finds s w n x p.1
    let a := c.sca o.desc.toNat
    let group := bits (wordAt ws 0) 24 8
    let e := (getPartition s (partOf s w)).cgbase + BitVec.ofNat 64 (16 * group)
    c.readDesc a 32 8 = .ok ws →
    (collOk p.2 ws = false → Traps s w n p.1 0x01 1 (firstParcels p.1).1) ∧
    (collOk p.2 ws = true → (dwordAt ws 2).toNat % 4 ≠ 0 → Traps s w n p.1 0x04 0 (wordAt ws 2)) ∧
    (collOk p.2 ws = true → (dwordAt ws 2).toNat % 4 = 0 → (dwordAt ws 4).toNat % 4 ≠ 0 →
      Traps s w n p.1 0x04 0 (wordAt ws 4)) ∧
    (∀ g d nf c1 c2, collOk p.2 ws = true → (dwordAt ws 2).toNat % 4 = 0 → (dwordAt ws 4).toNat % 4 = 0 →
      (∀ m, c.notifyAddr o.notify = some m → m.toNat % 4 = 0) → c.readGlobal [e, e + 4, e + 8] = .ok c1 g →
      let rank := bits (wordAt g 0) 16 11
      let np := bits (wordAt g 0) 0 11
      let at_ := dwordAt g 1 + BitVec.ofNat 64 (2 * rank)
      (wordAt g 0).getLsbD 31 = true → c1.readGlobal [wordVa at_] = .ok c2 d → rank < np →
      bits (wordAt d 0) (8 * (at_.toNat % 4)) 16 % 1024 = Config.device.toNat →
      (p.2 = 3 → bits (wordAt ws 0) 0 16 < np) → c2.notify o.notify = .ok nf →
      ∃ t k, exec p.1 s = .next t ∧ t.colls = s.colls ++ [k] ∧ k.id = c2.s.nextId ∧ k.warp = w.uid ∧ k.kind = p.2 ∧
        k.group = group ∧ k.tag = wordAt ws 1 ∧ k.root = bits (wordAt ws 0) 0 16 ∧ k.count = (wordAt ws 6).toNat ∧
        k.rank = rank ∧ k.np = np ∧ k.src = dwordAt ws 2 ∧ k.dst = dwordAt ws 4 ∧ k.notify = nf ∧ k.block = 0 ∧
        k.mismatch = false ∧ k.failed = false ∧ k.state = .running ∧ Releases s t w (.copy k.id) ∧ Quiet s t w n x p.1)

/-! ### Soft memory -/

/-- R114 to R136: SREG binds its handle; SLD, SST, SLDA, SSTA, SHRD, SCMT and SNRM send their operation over the list as
read, with the values of their registers, count their handle's stores, loads or epochs, and SST gathers the flags of its
clamped weights. A handle that is not bound is cause 0x0D of kind 5. The model's choices (log 57): SREG of an address that is
no multiple of 32 is cause 0x04, and the entries of SLDA are staged at the home of the gradient word. -/
def Obligations.SoftInstructionsBegin : Prop :=
  ∀ s w n x,
    let unbound (i : Instr) (h : BitVec 4) : Prop := ((finds s w n x i).handle h).desc = none →
      Traps s w n i 0x0D 0 (BitVec.ofNat 32 (5 * 2 ^ 28 + h.toNat))
    let bound (i : Instr) (h : BitVec 4) (p : SReg) (out : Option Word) (d : SoftDesc) (l : SoftList) : Prop :=
      ((finds s w n x i).handle h).desc = some d ∧ (finds s w n x i).readList h (some d.n) p out = .ok l
    (∀ o ws l, Issues (.sreg o) s w n x →
      let c := finds s w n x (.sreg o)
      let a := c.sca o.d.toNat
      let d := softDescOf ws
      let pages := pagesOf d.base d.bytes ++ pagesOf d.wbase 64 ++ (if d.gbase == 0 then [] else pagesOf d.gbase d.bytes)
      (a.toNat % 32 ≠ 0 → Traps s w n (.sreg o) 0x04 0 a) ∧
      (a.toNat % 32 = 0 → c.readOwn a 8 = .ok ws → softDescOk ws d = true →
        warpXlats c.pre c.preW softBad (pages.map (fun p => (0, p))) = .ok l →
        let k : Handle := { desc := some { d with region := (l.head?).elim 0 (·.2.2.1) }, sq := 0, ew := 0, lq := 0 }
        exec (.sreg o) s = .next (went s w n x (.sreg o) (fun v => { v with handles := w.handles.set o.h.toNat k }) []))) ∧
    (∀ o, Issues (.sld o) s w n x → unbound (.sld o) o.h ∧
      ∀ d l ps, bound (.sld o) o.h o.p none d l →
        (finds s w n x (.sld o)).softXlat softReadBad 0 (l.ents.map (fun e => d.slotVa e.1 0)) = .ok ps →
        SoftSent (.sld o) s w n x o.dst.toNat o.h id (fun y =>
          SoftOver y x .sld o.h d l ((finds s w n x (.sld o)).addrOf o.p) ∧ y.places = ps.map (fun p => (p.1, p.2.fal)))) ∧
    (∀ o, Issues (.sst o) s w n x → unbound (.sst o) o.h ∧
      ∀ d l ps, bound (.sst o) o.h o.p none d l →
        let c := finds s w n x (.sst o)
        let fl := l.ents.foldl (fun m e => m ||| (clampWeight e.2).2) 0
        c.softXlat softBad 1 (l.ents.map (fun e => d.slotVa e.1 0)) = .ok ps → fl &&& w.trapen = 0 →
        ∃ t q y v, exec (.sst o) s = .next t ∧ t.ops = s.ops ++ [q] ∧ Op.of q s w (.soft y) ∧
          SoftOver y x .sst o.h d l (c.addrOf o.p) ∧ y.homes = ps.map (fun p => channelOf (p.1 / 128)) ∧
          y.vals = (List.range d.w).map (c.vec o.src.toNat) ∧ y.count = (c.handle o.h).sq ∧ y.epoch = (c.handle o.h).ew ∧
          findWarp? t w.uid = some v ∧ v.flags = w.flags ||| fl ∧
          v.handles = w.handles.set o.h.toNat { c.handle o.h with sq := (c.handle o.h).sq + 1 } ∧ MemoryKept s t) ∧
    (∀ o, Issues (.slda o) s w n x → unbound (.slda o) o.h ∧
      ∀ d l ps gs, let c := finds s w n x (.slda o)
        bound (.slda o) o.h o.p (some (c.sca o.o.toNat)) d l → d.gbase ≠ 0 →
        c.softXlat softReadBad 0 (l.ents.map (fun e => d.slotVa e.1 0)) = .ok ps →
        c.softXlat softBad 1 (l.ents.map (fun e => d.gradVa e.1 0)) = .ok gs →
        SoftSent (.slda o) s w n x 0 o.h (fun h => { h with lq := h.lq + 1 }) (fun y =>
          SoftOver y x .slda o.h d l (c.addrOf o.p) ∧ y.places = ps.map (fun p => (p.1, p.2.fal)) ∧
          y.homes = gs.map (fun p => channelOf (p.1 / 128)) ∧ y.outAddr = c.addrOf o.o ∧
          y.vals = (List.range d.w).map (c.vec o.g.toNat) ∧ y.count = (c.handle o.h).lq ∧ y.epoch = (c.handle o.h).ew)) ∧
    (∀ o, Issues (.ssta o) s w n x → unbound (.ssta o) o.h ∧
      ∀ d l ps, let c := finds s w n x (.ssta o)
        bound (.ssta o) o.h o.p (some (c.sca o.o.toNat)) d l → (c.handle o.h).sq ≠ 0 →
        c.softXlat softReadBad 0 (l.ents.map (fun e => d.slotVa e.1 0)) = .ok ps →
        SoftSent (.ssta o) s w n x o.dst.toNat o.h (fun h => { h with sq := h.sq - 1 }) (fun y =>
          SoftOver y x .ssta o.h d l (c.addrOf o.p) ∧ y.homes = ps.map (fun p => channelOf (p.1 / 128)) ∧
          y.outAddr = c.addrOf o.o ∧ y.count = (c.handle o.h).sq - 1 ∧ y.epoch = (c.handle o.h).ew)) ∧
    (∀ o, Issues (.shrd o) s w n x → unbound (.shrd o) o.h ∧
      ∀ d l, bound (.shrd o) o.h o.p none d l →
        SoftSent (.shrd o) s w n x o.dst.toNat o.h id (fun y =>
          SoftOver y x (.shrd o.mode o.addr) o.h d l ((finds s w n x (.shrd o)).addrOf o.p) ∧
          ∀ j, o.mode = .smp j ∨ o.mode = .thr j → y.u = (finds s w n x (.shrd o)).sca j.toNat)) ∧
    (∀ o, Issues (.scmt o) s w n x → unbound (.scmt o) o.h ∧
      ∀ d, ((finds s w n x (.scmt o)).handle o.h).desc = some d →
        SoftSent (.scmt o) s w n x 0 o.h (fun h => { h with ew := h.ew + 1 }) (fun y =>
          SoftOver y x (.scmt o.rev) o.h d ⟨false, []⟩ 0 ∧ y.epoch = ((finds s w n x (.scmt o)).handle o.h).ew)) ∧
    (∀ o l, Issues (.snrm o) s w n x →
      let c := finds s w n x (.snrm o)
      c.readList 0 none o.p (some (c.sca o.p.toNat)) = .ok l →
      ∃ t q y, exec (.snrm o) s = .next t ∧ t.ops = s.ops ++ [q] ∧ Op.of q s w (.soft y) ∧ y.kind = .snrm o.smax ∧
        y.list = l.ents ∧ y.dense = l.dense ∧ y.inAddr = c.addrOf o.p ∧ Quiet s t w n x (.snrm o))

/-! ### Events of the homes and of the L1 domains -/

/-- R70, R73, R81, R82, R84, R144, R258: a request that has its turn is served at its home: R-SI and R-WI by a fill, OWN by a
grant, a write by a merge, a surrender by a merge that ends the ownership of its words, an atomic by its operation on the
home's word, or, of a bad word or operand, by the word's poisoned form; where another domain owns a word that it names, and
for an atomic any domain, the owner is asked for it first, and so it is for a request of an engine (log 118). A write of the
owner is also written in its copy (log 103); what a reply tells of the domain's own words is log 101. An entry that cannot be
read makes the home recall everything. -/
def Obligations.HomesServeTheirRequests : Prop :=
  ∀ s id r, findReq? s id = some r → homeDue s r = true → tsorted s.homes = true →
    let e := entryOf s r.line
    let home := getHome s (channelOf r.line)
    let x := r.mask &&& e.owm
    let mine := ownsEntry e r = true ∨ x = 0
    let room := (dirEntry? home r.line).isSome ∨ victimOf home r.line = none
    (r.src.isEngine = true → x ≠ 0 → surrendering s r.line = false →
      let asked (t : State) (b : Busy) : Prop := if Config.dirError r.line s.tick then
        Decided t r.line .rca 0xFFFFFFFF noOwner ∧ (entryOf t r.line).busy = .recallAll else Recalls s t r b x
      (r.kind = .rsi → Becomes (.homeRSi id false) s (fun t => asked t .rsi)) ∧
      (r.kind = .wrh → Becomes (.homeWrh id false) s (fun t => asked t .wrh))) ∧
    (r.kind = .rsi → r.src.isEngine = false →
      (mine → Becomes (.homeRSi id false) s (fun t => Replied s t r false false (fillMask e r) none ∧ MemoryKept s t)) ∧
      (¬ mine → Becomes (.homeRSi id false) s (fun t => Recalls s t r .rsi x))) ∧
    (r.kind = .rwi → r.src.isEngine = false → room →
      (mine → Becomes (.homeRWi id false) s (fun t => Replied s t r false true (fillMask e r) none ∧
        (entryOf t r.line).shr = e.shr ||| quadBit r.src.core ∧ MemoryKept s t)) ∧
      (¬ mine → Becomes (.homeRWi id false) s (fun t => Recalls s t r .rwi x))) ∧
    (∀ d f, r.kind = .own → r.src = .dom d f → r.mask ≠ 0 → room →
      (e.owner = none ∨ e.owner = some ⟨f, d⟩ → Becomes (.homeOwn id false) s (fun t =>
        Replied s t r true false r.mask none ∧ (entryOf t r.line).owner = some ⟨f, d⟩ ∧ (entryOf t r.line).shr = 0 ∧
        (entryOf t r.line).owm = (if e.owner = none then r.mask else e.owm ||| r.mask) ∧
        (e.shr ≠ 0 → Decided t r.line .inv 0xFFFFFFFF noOwner) ∧ MemoryKept s t)) ∧
      (e.owner ≠ none → e.owner ≠ some ⟨f, d⟩ → Becomes (.homeOwn id false) s (fun t => Recalls s t r .own e.owm))) ∧
    (r.kind = .wrh → r.src.isEngine = false →
      (mine → Becomes (.homeWrh id false) s (fun t => LineMerged s t r.line r.words r.fal ∧ findReq? t id = none ∧
        (e.shr ≠ 0 → Decided t r.line .inv 0xFFFFFFFF noOwner) ∧
        ∀ d f, r.src = .dom d f → r.fal = false → tsorted s.l1s = true → ∀ j v u, tget? r.words j = some v →
          l1Word? s d r.line j = some ⟨.ow, u⟩ → l1Word? t d r.line j = some ⟨.ow, v⟩)) ∧
      (¬ mine → Becomes (.homeWrh id false) s (fun t => Recalls s t r .wrh x))) ∧
    (r.kind = .sur → r.src.isEngine = false → Becomes (.homeSur ⟨id, false⟩) s (fun t => LineMerged s t r.line r.words r.fal
      ∧ findReq? t id = none ∧
      ∀ j, r.mask.getLsbD j = true → (entryOf t r.line).owm.getLsbD j = false)) ∧
    (∀ k, r.kind = .atomic k ∨ r.kind = .reduce k → r.src.isEngine = false →
      let old := r.words.map (fun p => (p.1, homeWord s r.line p.1 r.fal))
      let val (l : Tab CWord) : DWord := wordsVal (l.map (fun p => p.2.data))
      let res := (atomOp k (val old) (val r.words) (val r.expect)).1
      let dead := r.fal = true ∨ pageDead s (pageOfLine r.line) = true
      let does (P : State → Prop) : Prop := Becomes (.homeAtomic ⟨id, false⟩) s P
      let answers (t : State) (got : Nat → Option CWord) : Prop := findReq? t id = none ∧
        ∀ o, r.kind = .atomic k → findOp? s r.op = some o → (∀ a, o.kind ≠ .red a) →
          ∀ y ∈ o.words, ∀ pa, y.lane = r.lane →
          y.done = false → y.tgt = .hbm pa → pa / 128 = r.line → ∃ o' z, findOp? t r.op = some o' ∧ z ∈ o'.words ∧
            z.addr = y.addr ∧ z.done = true ∧ z.got = got ((r.words.headD (0, good 0)).1 + y.j)
      (x ≠ 0 → does (fun t => Recalls s t r .wrh x)) ∧
      (x = 0 → dead → does (fun t => MemoryKept s t ∧ answers t (fun j => tget? old j))) ∧
      (x = 0 → ¬ dead → (∃ p ∈ old ++ r.words, p.2.isGood = false) → does (fun t =>
        answers t (fun j => (tget? old j).map poison) ∧ (s.hbm.wf = true → ∀ j, t.hbm.word (32 * r.line + j) =
          if ∃ p ∈ r.words, p.1 = j then poison (s.hbm.word (32 * r.line + j)) else s.hbm.word (32 * r.line + j)) ∧
        let die := channelDie (channelOf r.line)
        (r.kind = .reduce k → r.words ≠ [] → (getRecorder s die).frz = false →
          (getRecorder t die).entries.head?.map (·.code) = some 0x09))) ∧
      (x = 0 → ¬ dead → (∀ p ∈ old ++ r.words, p.2.isGood = true) → does (fun t => answers t (fun j => tget? old j) ∧
        LineMerged s t r.line (r.words.zipIdx.map (fun p =>
          (p.1.1, good (if p.2 = 0 then lowWord res else highWord res)))) false))) ∧
    (∀ k, ∀ i ∈ [(Instr.homeRSi id true, ReqKind.rsi), (.homeRWi id true, .rwi), (.homeOwn id true, .own),
        (.homeWrh id true, .wrh), (.homeSur ⟨id, true⟩, .sur), (.homeAtomic ⟨id, true⟩, .atomic k),
        (.homeAtomic ⟨id, true⟩, .reduce k)], r.kind = i.2 → (dirEntry? home r.line).isSome →
      Becomes i.1 s (fun t => Decided t r.line .rca 0xFFFFFFFF noOwner ∧ (entryOf t r.line).busy = .recallAll ∧
        (entryOf t r.line).waiting = id ∧ MemoryKept s t))

/-- R76 to R79, R81, R85, R371: a notice injected gets the next slot number and releases what waited for it; delivered, it
leaves no shared copy of its line, its RCW brings back the named words of the owner and its RCA the owned words of every
domain, the other owned words staying; a write-back is merged and the request that waited is answered, performed, or has its
turn again, or asks for more; a fill or a grant gives the waiting loads their words, those that the domain owned when its
home was served from its own copy, and is installed unless its notices forbid it. Which words of a line a load takes
together, and what a fill leaves of the line, is log 101; a grant that finds words given up since is log 102. -/
def Obligations.NoticesWriteBacksAndFillsArrive : Prop :=
  ∀ s,
    (∀ ch k rest, tsorted s.homes = true → (getHome s ch).decided = k :: rest → s.cycle % 8 = ch % 8 →
      (∀ f ∈ s.flying, f.cycle = s.cycle → channelOf f.notice.line < ch) →
      Becomes (.noticeInjection ch) s (fun t => t.slotCount = s.slotCount + 1 ∧
        t.flying = s.flying ++ [⟨k, s.slotCount, s.cycle⟩] ∧ (getHome t ch).decided = rest ∧ MemoryKept s t ∧
        (∀ r ∈ s.replies, r.ownNotice = some k.id →
          { r with ownNotice := none, ownSlot := some s.slotCount, sent := s.cycle } ∈ t.replies) ∧
        ∀ r ∈ s.wrhReplies, r.notice = some k.id → { r with notice := none, sent := s.cycle } ∈ t.wrhReplies)) ∧
    (∀ f rest, s.flying = f :: rest → f.cycle + 64 ≤ s.cycle → tsorted s.l1s = true →
      let line := f.notice.line
      let dom := f.notice.owner.dom
      let noted (t : State) : Prop := t.flying = rest ∧ MemoryKept s t ∧ ∀ m ∈ s.misses, m.line = line →
        ∃ m' ∈ t.misses, m'.id = m.id ∧ m'.notices = min 2 (m.notices + 1)
      let sent (t : State) (d : Nat) (all : Bool) (ws : Tab CWord) : Prop :=
        ∃ b ∈ t.writebacks, b.dom = d ∧ b.line = line ∧ b.slot = f.slot ∧ b.all = all ∧ b.words = ws
      let onlyOwned (t : State) : Prop := ∀ d j e, l1Word? t d line j = some e → e.st = .ow
      let keeps (t : State) (mask : Word) : Prop := ∀ d j v, l1Word? s d line j = some ⟨.ow, v⟩ →
        (d = dom → mask.getLsbD j = false) → l1Word? t d line j = some ⟨.ow, v⟩
      (f.notice.kind = .inv → Becomes .towpathInv s (fun t => noted t ∧ onlyOwned t ∧ keeps t 0)) ∧
      (f.notice.kind = .rcw → LinesOnce s dom → Becomes .towpathRcw s (fun t => noted t ∧ onlyOwned t ∧
        keeps t f.notice.wmask ∧
        sent t dom false ((ownedWords s dom line).filter (fun p => f.notice.wmask.getLsbD p.1)) ∧
        ∀ j, f.notice.wmask.getLsbD j = true → l1Word? t dom line j = none)) ∧
      (f.notice.kind = .rca → (∀ d, LinesOnce s d) → Becomes .towpathRca s (fun t => noted t ∧
        (tsorted s.homes = true → (entryOf s line).busy = .recallAll →
          (entryOf t line).pending = ((List.range 384).filter (isDomain s)).length) ∧
        ∀ d < 384, isDomain s d = true → l1Line? t d line = none ∧ sent t d true (ownedWords s d line)))) ∧
    (∀ id b, s.writebacks.find? (fun v => v.id == id) = some b → tsorted s.homes = true →
      (∀ q ∈ s.reqs, q.kind = .sur → q.line = b.line → q.src.core = b.dom → b.id ≤ q.id) →
      let e := entryOf s b.line
      let left := e.owm &&& ~~~ b.mask
      let comes (P : State → Prop) : Prop := Becomes (.recallWriteback id false) s (fun t =>
        t.writebacks.find? (fun v => v.id == id) = none ∧ P t)
      let merged (t : State) : Prop := LineMerged s t b.line b.words false
      let replied (t : State) (r : Req) (grant wi : Bool) (slot : Option Word) : Prop := findReq? t r.id = none ∧
        ∃ p ∈ t.replies, p.dom = r.src.core ∧ p.line = r.line ∧ p.miss = r.miss ∧ p.grant = grant ∧ p.wi = wi ∧
          p.ownSlot = slot ∧ p.words = (ones (if grant then r.mask else fillMask (entryOf t r.line) r)).map (fun j =>
            (j, homeWord t r.line j r.fal))
      (e.busy = .idle → comes merged) ∧
      (∀ r, findReq? s e.waiting = some r → r.line = b.line → r.src.isEngine = false →
        (e.busy = .rsi ∨ e.busy = .rwi → (r.mask &&& left = 0 → comes (fun t => merged t ∧ (entryOf t b.line).busy = .idle ∧
            replied t r false (decide (e.busy = .rwi)) (some b.slot) ∧
            (entryOf t b.line).shr = if e.busy = .rwi then e.shr ||| quadBit r.src.core else e.shr)) ∧
          (r.mask &&& left ≠ 0 → e.owner ≠ r.src.owner? → comes (fun t => merged t ∧
            Decided t b.line .rcw (r.mask &&& left) (e.owner.getD noOwner) ∧ (entryOf t b.line).busy = e.busy ∧
            (entryOf t b.line).waiting = r.id))) ∧
        (e.busy = .own → left = 0 → r.mask ≠ 0 → comes (fun t => merged t ∧ replied t r true false (some b.slot) ∧
          (entryOf t b.line).busy = .idle ∧ (entryOf t b.line).owner = r.src.owner? ∧ (entryOf t b.line).owm = r.mask)) ∧
        (e.busy = .wrh → r.kind = .wrh → comes (fun t => (∃ u, LineMerged s u b.line b.words false ∧
          LineMerged u t r.line r.words r.fal) ∧ (entryOf t b.line).busy = .idle ∧ findReq? t r.id = none ∧
          ∀ o, findOp? s r.op = some o → ⟨r.id, r.op, none, s.cycle⟩ ∈ t.wrhReplies)) ∧
        (∀ k, e.busy = .wrh → r.kind = .atomic k ∨ r.kind = .reduce k → comes (fun t => (entryOf t b.line).busy = .idle ∧
          findReq? t r.id = none))) ∧
      (∀ r, findReq? s e.waiting = some r → r.src.isEngine = true → e.busy = .rsi ∨ e.busy = .wrh →
        comes (fun t => merged t ∧ (entryOf t b.line).busy = .idle ∧ findReq? t r.id = some r)) ∧
      (e.busy = .victim → comes (fun t => merged t ∧ findReq? t e.waiting = findReq? s e.waiting ∧
        (left = 0 → dirEntry? (getHome t (channelOf b.line)) b.line = none))) ∧
      (e.busy = .recallAll → b.all = true → 1 < e.pending → comes (fun t => merged t ∧
        (entryOf t b.line).busy = .recallAll ∧ (entryOf t b.line).pending = e.pending - 1)) ∧
      (e.busy = .recallAll → b.all = true → e.pending ≤ 1 →
        (findReq? s e.waiting = none → comes (fun t => merged t ∧ entryOf t b.line = DirEntry.untracked b.line ∧
          t.mgc.direrr = sat32 s.mgc.direrr)) ∧
        (∀ r, findReq? s e.waiting = some r → r.line = b.line → r.kind = .rsi → r.src.isEngine = false → comes (fun t =>
          merged t ∧ entryOf t b.line = DirEntry.untracked b.line ∧ replied t r false false none)))) ∧
    (∀ id r m, s.replies.find? (fun q => q.id == id) = some r → replyDue s r = true → findMiss? s r.miss = some m →
      tsorted s.l1s = true →
      let value (j : Nat) : Option CWord := match tget? r.own j with
        | some v => some v
        | none => tget? r.words j
      let fed (t : State) : Prop := ∀ o ∈ s.ops, o.kind = .ld ∨ o.kind = .ldck → ∃ o' ∈ t.ops, o'.id = o.id ∧
        o'.words = o.words.map (fun y => if y.miss = some m.id ∧ y.got = none then
          { y with got := y.hbm?.bind (fun p => value p.2) } else y)
      let word (t : State) (j : Nat) : Option L1Word := l1Word? t r.dom r.line j
      let kept (p : Nat × CWord) : Prop := p ∈ r.words ∧ r.gone.getLsbD p.1 = false
      let here := isDomain s r.dom = true
      let holds (t : State) (P : L1Word → CWord → Prop) : Prop := here → (r.words.map (·.1)).Nodup →
        ∀ p, kept p → ∃ e, word t p.1 = some e ∧ (P e p.2 ∨ e.st = .ow)
      (r.grant = false → 128 * r.line < hbmEnd → Becomes (.fillArrives id) s (fun t => fed t ∧ findMiss? t m.id = none ∧
        (installs m r = false → here → L1Ok s r.dom → ∀ j e, word t j = some e ↔ word s j = some e ∧
          (e.st = .si → ¬ ∃ o ∈ s.ops, (o.kind = .ld ∨ o.kind = .ldck) ∧ ∃ y ∈ o.words, y.miss = some m.id ∧ y.got = none ∧
            y.hbm? = some (r.line, j))) ∧
        (installs m r = true → holds t (fun e v => e.val = v ∧ e.st = if r.wi then .wi else .si) ∧
          (here → ∀ j e, word t j = some e → e.st = .ow ∨ ∃ p, kept p ∧ p.1 = j)))) ∧
      (r.grant = true → (s.ops.map (·.id)).Nodup → Becomes (.grantArrives id) s (fun t => fed t ∧
        (installs m r = true → holds t (fun e _ => e.st = .ow)))))

/-! ### Events of warps -/

/-- R26, R45, R46, R96 to R99, R142, R178, R231, R233, R256, R258, R265, R372: a value lands in its registers once all of it is
there, with its flags, unless a word of it is bad, which contains the gang, but for LDCK, which gives the check as well; a
store that its homes have answered is over, and one to a bank whose plane is not active waits (log 120); an acquire completes when no
earlier notice is on its way; a release delivers what it waited for; a slot that waits on a word goes on when the word
compares; a sleep or a yield ends at its time. The model's choices: TLBI takes its walks when its release wait ends (log
60), the index and the room of LNCH are those of its append (log 59), and the two moments of FENCE.acq (log 35). -/
def Obligations.ValuesLandAndWaitsEnd : Prop :=
  (∀ s id o w, findOp? s id = some o → findWarp? s o.warp = some w → o.held = false →
    o.kind = .ld ∨ o.kind = .lds ∨ o.kind = .ldck ∨ (∃ k, o.kind = .atom k) ∨ (∃ k, o.kind = .atoms k) →
    (∀ x ∈ o.words, x.got.isSome) → (∀ x ∈ o.words, ∀ a, x.tgt ≠ .host a ∧ x.tgt ≠ .fabric a) →
    homesAnswered s id = true →
    let fl := o.words.foldl (fun m x => m ||| x.flags) 0
    let flagged (t : State) : Prop := ∃ v, findWarp? t w.uid = some v ∧ v.flags = w.flags ||| fl ∧ (fl &&& w.trapen ≠ 0 →
      ∃ r ∈ v.reports, r.ctr = .ld ∧ r.cause = BitVec.ofNat 8 (flagCause (fl &&& w.trapen)) ∧ r.tval = fl &&& w.trapen)
    (o.kind = .ldck → Becomes (.loadValueLands id []) s (fun t => Over t id ∧ Lowered s t o.warp .ld ∧ MemoryKept s t ∧
      RegsGet s t w ((o.words.map (fun x => let v := x.got.getD (good 0)
        [(vKey o.dst x.lane, v.data), (vKey (o.dst + 1) x.lane, v.check.setWidth 32)])).flatten))) ∧
    (o.kind ≠ .ldck → (∀ x ∈ o.words, ∀ v, x.got = some v → v.isGood = true) → Becomes (.loadValueLands id []) s (fun t =>
      Over t id ∧ Lowered s t o.warp .ld ∧ MemoryKept s t ∧ flagged t ∧
      RegsGet s t w (o.words.map (fun x => (vKey (o.dst + x.j) x.lane, (x.got.getD (good 0)).data))))) ∧
    (∀ before x after v, o.kind ≠ .ldck → o.words = before ++ x :: after → x.got = some v → v.isGood = false →
      (∀ y ∈ before, ∀ u, y.got = some u → u.isGood = true) →
      let u := dropReplies s id
      exec (.loadValueLands id []) s = .next (containFrom u w v x.lane o.pc x.addr (x.pa?.bind (realPa? u))))) ∧
  (∀ s id o, findOp? s id = some o → o.held = false →
    (o.kind = .sts → o.words.any (OpWord.bankShut s) = true → exec (.storeAcknowledged id) s = .next s) ∧
    (∀ key : OpWord → Nat, o.kind = .sts → o.words.any (OpWord.bankShut s) = false → s.store.wf = true →
        (∀ y ∈ o.words, y.data.isGood = true ∧ (y.tgt = .store (key y) ∨
        ∃ u k, y.tgt = .reg u.uid k ∧ findWarp? s u.uid = some u ∧ key y = regBank s u + k)) →
      Becomes (.storeAcknowledged id) s (fun t => Over t id ∧ Lowered s t o.warp .st ∧ MemoryKept s t ∧
        ((o.words.map key).Nodup → ∀ y ∈ o.words, t.store.word (key y) = y.data))) ∧
    (o.kind = .st ∨ o.kind = .stck → ownedDone o = true → homesAnswered s id = true → o.ownLeft = [] →
      Becomes (.storeAcknowledged id) s (fun t => Over t id ∧ Lowered s t o.warp .st ∧ t.hbm = s.hbm)) ∧
    (∀ k, o.kind = .stnt ∧ k = Ctr.st ∨ (∃ a, o.kind = .red a) ∧ k = .nm → o.accepted = false →
      Becomes (.storeAcknowledged id) s (fun t => findOp? t id = some { o with accepted := true } ∧
        Lowered s t o.warp k ∧ MemoryKept s t))) ∧
  (∀ s id w a, s.warps.find? (fun w => w.acquires.any (fun a => a.id == id)) = some w → findWarp? s w.uid = some w →
    w.acquires.find? (fun a => a.id == id) = some a → tsorted s.l1s = true →
    let dropped (t : State) : Prop := MemoryKept s t ∧ (scopeDrops s w.core a.scope = true →
      ∀ line j e, l1Word? t (domainOf s w.core) line j = some e → e.st ≠ .si)
    (a.loadsBefore = none → (∀ o, a.op = some o → Over s o) →
      (∀ f ∈ s.flying, slotBefore f.slot a.refSlot = false ∧ a.bound ≤ f.notice.id) →
      (∀ h ∈ s.homes, ∀ k ∈ h.2.decided, a.bound ≤ k.id) → Becomes (.acquireCompletes id) s (fun t => dropped t ∧
        findWarp? t w.uid =
        some { w with acquires := w.acquires.filter (fun b => b.id != id) })) ∧
    (∀ k, a.loadsBefore = some k → (∀ o ∈ s.ops, o.warp = w.uid → o.seq < k → o.kind.isRead = false) →
      Becomes (.acquireCompletes id) s (fun t => dropped t ∧ ∃ v b, findWarp? t w.uid = some v ∧ b ∈ v.acquires ∧
        b.id = id ∧ b.refSlot = s.slotCount ∧ b.bound = s.nextId ∧ b.loadsBefore = none))) ∧
  (∀ s id o w, findOp? s id = some o → findWarp? s o.warp = some w → o.held = true → isResident s w = true →
    releaseOver s o = true →
    (o.kind = .st ∨ o.kind = .stnt ∨ o.kind = .stck ∨ (∃ k, o.kind = .atom k) ∨ (∃ k, o.kind = .red k) →
      Becomes (.releaseWaitEnds id) s (fun t => ∃ q, findOp? t id = some q ∧ q.held = false ∧ MemoryKept s t)) ∧
    (∀ k level n lanes m, o.kind = .bar k level n lanes → findTeam? s w.team = some m →
      exec (.releaseWaitEnds id) s = .next (arriveBar (dropOp s id) m level n (popcount lanes)
        (if k = .drop then popcount lanes else 0))) ∧
    (∀ r k, o.kind = .ring r k → exec (.releaseWaitEnds id) s = .next (arriveRing (dropOp s id) w.team w.core r k)) ∧
    (∀ k, o.kind = .copy k → Becomes (.releaseWaitEnds id) s (fun t => Over t id ∧
      t.copies = s.copies.map (fun y => if y.id = k then { y with held := false } else y))) ∧
    (∀ v g, o.kind = .tflag v → gridOf s w = some g → Becomes (.releaseWaitEnds id) s (fun t => Over t id ∧
      ∃ h, findGrid? t g.uid = some h ∧ v.toNat ∈ h.tiles)) ∧
    (∀ k v, o.kind = .tlbi k → v ∈ s.invals → v.id = k → Becomes (.releaseWaitEnds id) s (fun t => Over t id ∧
      { v with walks := openWalks s v.part } ∈ t.invals)) ∧
    (∀ rel sc, o.kind = .fence rel true sc → Becomes (.releaseWaitEnds id) s (fun t => Over t id ∧ ∃ v a,
      findWarp? t w.uid = some v ∧ v.acquires = w.acquires ++ [a] ∧ a.scope = sc ∧ a.refSlot = s.slotCount)) ∧
    (∀ ws q d, o.kind = .lnch ws q d →
      let part := partOf s w
      let y := getQueue (getPartition s part) q
      let idx := y.tail.toNat % 2 ^ y.log
      let places := (ws.set 31 (recordTag y idx)).zipIdx.map (fun x => ((⟨y.recordAt idx + 4 * x.2, false⟩ : Place), good x.1))
      y.count + 1 < 2 ^ y.log → placesBusy s (.engine id) true (places.map (·.1)) = false →
      tsorted s.partitions = true → tsorted (getPartition s part).queues = true →
      Becomes (.releaseWaitEnds id) s (fun t => Over t id ∧ Wrote s t places ∧
        (getQueue (getPartition t part) q).tail = BitVec.ofNat 32 ((idx + 1) % 2 ^ y.log) ∧
        RegsGet s t w [(sKey d.toNat, BitVec.ofNat 32 idx)]))) ∧
  (∀ s uid n w x k, findWarp? s uid = some w → isResident s w = true → w.slot? n = some x → x.block = .waitw k →
    k.acq = false → (s.store.word k.key).isGood = true →
    let after (k' : WordWait) : Slot := { x with block := if waitHolds k (s.store.word k.key).data then .none else .waitw k' }
    let rereads (i : Instr) (k' : WordWait) : Prop := exec i s = .next (setWarp s (w.setSlot n (some (after k'))))
    (k.entry = true → rereads (.waitwReevaluation uid n) k) ∧
    (k.entry = false → k.polled + 256 ≤ s.cycle → rereads (.waitwPoll uid n) { k with polled := s.cycle }) ∧
    (k.entry = false → entriesUsed s w.core < 16 → rereads (.watchEntryTaken uid n) { k with entry := true })) ∧
  (∀ s uid n w x time, findWarp? s uid = some w → isActive s w = true → w.slot? n = some x → time ≤ s.cycle →
    let goes (i : Instr) : Prop := Becomes i s (fun t =>
      findWarp? t uid = some (w.setSlot n (some { x with block := .none })) ∧ MemoryKept s t)
    (x.block = .sleep time → goes (.sleepExpiry uid n)) ∧ (∀ m, x.block = .yield time m → goes (.yieldTimeout uid n)))

/-! ### Events of the engines -/

/-- R113, R156, R269 to R274: a part is accepted, its operation with its last part; a step reads or writes a granule that its
requests may have and that lies in its partition's ranges, a write word by word in ascending order: NBSA adds its scaled rows
into the accumulators and writes them, NBZR writes zeros, NBCP and the home pairs copy, NBOPT reads a block's four granules
and writes the three results; it waits for a granule that it may not have and freezes at one outside the ranges; a part that
is over leaves, and tells its warp of an error with its operation's last part. The model's choices: the data bits of a
poisoned result (log 41), the freeze of a part (log 42), the address of an error (log 43), a part that runs while the one
before waits for its notices (log 124), and an engine's place at the homes (logs 95, 118). -/
def Obligations.PloughsWorkThroughTheirParts : Prop :=
  (∀ s id p, findPart? s id = some p → partAcceptable s p = true →
    Becomes (.ploughPartAccepted id) s (fun t => findPart? t id = some { p with accepted := true } ∧ MemoryKept s t ∧
      ∀ o, findOp? s p.op = some o → o.accepted = false → (∀ q ∈ s.parts, q.op = p.op → q.id ≠ id → q.accepted = true) →
        findOp? t p.op = some { o with accepted := true } ∧ Lowered s t o.warp .nm)) ∧
  ((good 0).data = 0 ∧ (good 0).check = 0xED ∧ ∀ s p i n, findPart? s p.id = some p →
    (∃ ch, i = .ploughRowStep ⟨ch, n⟩ ∧ runningPart? s ch = some p) ∨
      (i = .crossChannelGranule ⟨p.id, n⟩ ∧ p.isCross = true ∧ p.accepted = true ∧ p.finished = false ∧ p.frozen = none ∧
        pairTaken s p = false) →
    let ranges (g : Nat) : Prop := inRanges (getPartition s p.issuer.part) (2048 * g) = true
    let waits (g : Nat) : Bool := (p.asks g).any (askWaits s (.engine p.id))
    let words (g : Nat) : List CWord := granuleWords s p g
    let reads (g : Nat) (P : List CWord → Prop) : Prop := p.wpos = 0 → ranges g → waits g = false →
      Becomes i s (fun t => ∃ acc, Stepped t p acc ∧ P acc)
    let writes (g : Nat) (P : List CWord → Prop) : Prop := ranges g → waits g = false →
      Becomes i s (fun t => ∃ ws, P ws ∧ Stored s t p g n ws p.acc)
    let copies (q : Nat × Nat) : Prop := (p.wpos = 0 → ranges q.1 ∧ waits q.1 = false) → ranges q.2 → waits q.2 = false →
      let ws := if p.wpos = 0 then words q.1 else p.acc
      Becomes i s (fun t => Stored s t p q.2 n ws ws)
    (∀ accd dst rows, p.kind = .nbsa accd dst rows →
      let first := if accd then 1 else 0
      (p.upc < first → reads dst (fun acc => acc = words dst)) ∧
      (∀ k r, rows[k]? = some r → p.upc = first + k → reads r.1 (fun acc =>
        let sums := if p.acc = [] then List.replicate 512 (good 0) else p.acc
        sums.length = 512 → RowAdded r.2 (words r.1) sums acc)) ∧
      (p.upc = first + rows.length → writes dst (fun ws => p.acc.length = 512 → ws = overOld (words dst) p.acc))) ∧
    (∀ dsts g, p.kind = .nbzr dsts → dsts[p.upc]? = some g → writes g (fun ws => ws = List.replicate 512 (good 0))) ∧
    (∀ before pair after, p.kind = .nbcp (before ++ pair :: after) →
      let at_ := (before.map pairTime).sum
      (p.upc = at_ → pairTime pair = 1 → copies pair) ∧
      (p.upc = at_ → pairTime pair = 2 → reads pair.1 (fun acc => acc = words pair.1)) ∧
      (p.upc = at_ + 1 → pairTime pair = 2 → writes pair.2 (fun ws => ws = p.acc))) ∧
    (∀ pairs pair, p.kind = .cross pairs → pairs[p.upc]? = some pair → copies pair) ∧
    (∀ blocks k w m v g b, p.kind = .nbopt blocks k → blocks[p.upc / 7]? = some (w, m, v, g, b) →
      let gives (x : Nat) (pick : Nat × Nat × Nat → Nat) : Prop :=
        writes x (fun ws => p.acc.length = 2048 → OptWords k p.acc (words x) ws pick)
      (p.upc % 7 = 0 → reads w (fun acc => acc = words w)) ∧ (p.upc % 7 = 1 → reads m (fun acc => acc = p.acc ++ words m)) ∧
      (p.upc % 7 = 2 → reads v (fun acc => acc = p.acc ++ words v)) ∧
      (p.upc % 7 = 3 → reads g (fun acc => acc = p.acc ++ words g)) ∧
      (p.upc % 7 = 4 → gives m (fun r => r.1)) ∧ (p.upc % 7 = 5 → gives v (fun r => r.2.1)) ∧
      (p.upc % 7 = 6 → gives w (fun r => r.2.2))) ∧
    (p.wpos = 0 → (∀ g ∈ p.step.granules, ranges g) → (∃ g ∈ p.step.granules, waits g = true) →
      Becomes i s (fun t => MemoryKept s t ∧ findPart? t p.id = some p)) ∧
    (∀ g, p.wpos = 0 →
      p.step.granules.find? (fun g => !inRanges (getPartition s p.issuer.part) (2048 * g)) = some g →
      Becomes i s (fun t => MemoryKept s t ∧ ∃ q, findPart? t p.id = some q ∧ q.frozen.isSome ∧ q.upc = p.upc))) ∧
  (∀ s id p, findPart? s id = some p → p.finished = true → delivered s p.notices = true →
    Becomes (.ploughPartCompletes id) s (fun t => (∀ q ∈ t.parts, q.id ≠ id) ∧ MemoryKept s t ∧
      ∀ o e, findOp? s p.op = some o → o.kind = .plough e → (∀ q ∈ s.parts, q.op = p.op → q.id = id) → Over t p.op ∧
        ∀ w a, findWarp? s o.warp = some w → w.ploughError = none → (e = some a ∨ e = none ∧ p.err = some a) →
          ∃ v, findWarp? t o.warp = some v ∧ v.ploughError = some a))

/-- R189, R198, R199, R279, R280, R282 to R286, R333: a unit starts its next operation when it and its tile are free, an
idle array in the cycle of its quad; an operation whose cycles are over writes the rows of its lanes, their image, their
drained rows and scales, or their registers, and no other row, with the flags of its elements; its counter falls eight
cycles later. The model's choices: the words that an operation reads, one written since its issue as it was (log 111); of
ACSC and ACEX the value where the register names a neighbour (log 15), of ACEX the exponential (log 2) and its overflow
(log 34); and of MMA the NV of a NaN operand (log 30). -/
def Obligations.MatrixUnitsRunTheirQueues : Prop :=
  (∀ s core side o, nextMx? s core side = some o → unitBusy s core side = false → tileBusy s core o = false →
    (∀ q ∈ s.ops, q.warp = o.warp → q.kind ≠ .sts) → quadRuns s (core / 4) = true → s.upsets = [] →
    let starts (i : Instr) : Prop := Becomes i s (fun t => MemoryKept s t ∧ ∃ e ∈ t.mx, e.op.id = o.id ∧
      e.op.kind = o.kind ∧ e.op.started = some s.cycle ∧ ∀ r w, o.kind = .acsc r ∨ o.kind = .acex r →
        findWarp? s o.warp = some w → e.op.reg = (List.range 32).map (fun m =>
          (if r < 256 then some m else neighbour w.lanectl m (decide (512 ≤ r))).elim 0 (fun l =>
            regWord s w (regBank s w) (vKey (r % 256) l))))
    (side = true ∨ arrayIdle s core = false → starts (.matrixOperationStart core side)) ∧
    (side = false → arrayIdle s core = true → s.cycle / 8 % 24 = core / 4 % 24 → starts (.arrayStaggeredStart core))) ∧
  (∀ s core side e w, s.mx.find? (fun e => e.core == core && e.op.kind.side == side && e.op.started.isSome &&
      e.op.ended.isNone) = some e → e.op.started.getD 0 + e.op.kind.cycles ≤ s.cycle → findWarp? s e.op.warp = some w →
    s.accUpsets = [] → tsorted s.acc = true → s.store.wf = true → quadRuns s (core / 4) = true →
    mxBad? s core e.op = none →
    let o := e.op
    let key (a : Nat) : Nat := storeKey core o.plane a
    let row (m n : Nat) : Word := (accRow s core o.tile m).getD n 0
    Becomes (.matrixOperationFinishes core side) s (fun t =>
      (∃ d ∈ t.mx, d.op.id = o.id ∧ d.op.ended = some s.cycle) ∧ MemoryKept s t ∧
      (∀ m, m < 32 → o.mask.getLsbD m = false → accRow t core o.tile m = accRow s core o.tile m) ∧
      ∃ (rd : Nat → CWord) (F : Nat → Nat → Nat × Word) (v : Warp), ReadsOf s o rd ∧ findWarp? t o.warp = some v ∧
        ((∀ r, o.kind ≠ .acmx r) → v.flags = w.flags ||| (ones o.mask).foldr (fun m x =>
          (List.range 64).foldr (fun n y => (F m n).2 ||| y) x) 0) ∧
        ((∀ f d b, o.kind ≠ .tdrn f d b) → ∀ m ∈ ones o.mask, ∀ n < 64, AccElem rd core o m n (row m n) (F m n) ∧
          (accRow t core o.tile m).getD n 0 = BitVec.ofNat 32 (F m n).1) ∧
        (∀ a, o.kind = .acst a → ∀ m ∈ ones o.mask, ∀ n < 64, t.store.word (key (a + 256 * m) + n) = good (row m n)) ∧
        (∀ r, o.kind = .acmx r →
          let top (m : Nat) : Nat × Word := (List.range 63).foldl (fun x n =>
            let y := lesser fmtF32 x.1 (row m (n + 1)).toNat (row m (n + 1)).toNat x.1
            (y.1, x.2 ||| y.2)) ((row m 0).toNat, 0)
          v.flags = w.flags ||| (ones o.mask).foldr (fun m x => (top m).2 ||| x) 0 ∧
          RegsGet s t w ((ones o.mask).map (fun m => (vKey (r % 256) m, BitVec.ofNat 32 (top m).1)))) ∧
        (∀ f d b, o.kind = .tdrn f d b →
          let width := drainRow f / 8
          let place (m j : Nat) : Nat := key (d + m * (drainRow f + 16)) + j
          let got (m n : Nat) : Nat := elemAt width (n % (32 / width)) (t.store.word (place m (n / (32 / width)))).data.toNat
          let plain (fmt : Fmt) : Prop := ∀ m ∈ ones o.mask, ∀ n < 64, F m n = cvtElem fmt .f32 .rne none (row m n).toNat
          let blocks (fmt : Format) (emax : ℤ) : Prop := ∀ m ∈ ones o.mask, ∀ h < 2,
            let scale := (t.store.word (key (b + 4 * m))).data.toNat
            scale < 65536 ∧ MxBlock fmt emax (fun i => (row m (32 * h + i)).toNat) (elemAt 8 h scale)
              (fun i => F m (32 * h + i))
          (∀ m j i, m < 32 → j < drainRow f / 4 → i < 32 → f.isMx = true → place m j ≠ key (b + 4 * i)) →
          (∀ m ∈ ones o.mask, ∀ n < 64, got m n = (F m n).1 % 2 ^ width ∧ (accRow t core o.tile m).getD n 0 = row m n) ∧
          (f = .f32 → ∀ m ∈ ones o.mask, ∀ n < 64, F m n = ((row m n).toNat, 0)) ∧
          (f = .bf16 → plain .bf16) ∧ (f = .f16 → plain .f16) ∧ (f = .e4m3 → plain .e4m3) ∧
          (f = .mxe4m3 → blocks fmtE4m3 8) ∧ (f = .mxe2m1 → blocks fmtE2m1 2)))) ∧
  (∀ s id e last, s.mx.find? (fun e => e.op.id == id) = some e → e.op.ended = some last → last + 8 ≤ s.cycle →
    Becomes (.mxCounterFall id) s (fun t => (∀ d ∈ t.mx, d.op.id ≠ id) ∧ Lowered s t e.op.warp .mx ∧ MemoryKept s t))

/-- R25, R108, R109, R141, R186 to R188, R199, R202, R276, R287 to R292, R295, R296, R348: a copy moves words of its next
rows, one by one or with XPOSE in bands, and they are finished with the last word. A word holds its elements as they are,
expanded, converted or split, and padding, is carried unchanged where it is one source word, and is poisoned where a bit came
from a bad one; an address that does not translate stops the copy, or ends it, with a record. A copy or collective that is
over notifies and lowers its counter. A collective moves a block that all its peers supply, CARD the sums, and fails or
waits for its end when one has failed or differs, or is lost. The model's choices: the order in which words move (log 48),
the participants' words as an input (logs 49, 53), the counter's fall (log 54), a mismatch without a notification (log 126),
and an engine's requests (log 118). -/
def Obligations.CopiesAndCollectivesMoveTheirData : Prop :=
  (∀ (k : Copy) r i, let l := k.layout
    let at_ (o : ℤ) : DWord := (if k.kind = .cpt then k.base else (k.rows.getD r (0, 0)).2) + BitVec.ofInt 64 o
    let ix : ℤ := if l.globalBits = 4 then 2 * k.offset r i + (i % 2 : ℕ) else k.offset r i
    (k.elem r i).va = at_ (k.offset r i) ∧ (k.elem r i).nib = i % 2 ∧
    (k.elem r i).scale = if l.toGlobal then [] else match l.sfmt with
      | 5 => at_ (l.aux1.toInt + ix / 64) :: (List.range 4).map (fun n => at_ (l.aux2.toInt + 4 * (ix / 16384) + (n : ℤ)))
      | 6 | 7 => [at_ (l.aux1.toInt + ix / 32)]
      | _ => []) ∧
  (∀ (k : Copy) seg, let l := k.layout
    let b := l.storeBits
    (l.toGlobal = false → l.rowElems * b % 32 = 0 →
      (l.xpose = false ∧ seg = 1) ∨ (l.xpose = true ∧ 0 < seg ∧ k.done % l.count 1 + seg ≤ l.count 1) →
      (∀ p ∈ k.pieces seg, ∀ x ∈ k.pieceElems seg p, k.done ≤ x.1 ∧ x.1 < k.done + seg ∧ x.2.1 < l.count 0 ∧
        x.2.2 < 32 / b ∧ k.pieceAddr seg p + x.2.2 * b / 8 = k.storeAddr x.1 x.2.1) ∧
      ∀ r i, k.done ≤ r → r < k.done + seg → i < l.count 0 →
        ∃ p ∈ k.pieces seg, ∃ x ∈ k.pieceElems seg p, x.1 = r ∧ x.2.1 = i) ∧
    (l.toGlobal = true → 0 < seg → ∀ p, p ∈ k.pieces seg ↔ p / seg < k.outWords (k.done + p % seg)) ∧
    ∀ r, (∀ i, k.inside r i ↔ i < k.validElems r) ∧ k.outWords r = k.validElems r * b / 32) ∧
  (∀ s id k w ws, findCopy? s id = some k → findWarp? s k.warp = some w → copyRuns s k = true → k.done < k.total →
    let l := k.layout
    let seg := segmentOf s k w
    let rest := (k.pieces seg).filter (fun p => !k.moved.contains p)
    let now := if ws = [] then rest else rest.filter (ws.contains ·)
    let key (p : Nat) : Nat := storeKey k.core (planeAt s w k.core) (k.pieceAddr seg p)
    let sources := ((now.map (fun p => (k.pieceElems seg p).filterMap (fun x =>
      if x.2.1 < k.validElems x.1 then some ((k.elem x.1 x.2.1).va :: (k.elem x.1 x.2.1).scale) else none))).flatten).flatten
    let outs := now.map (fun p => k.outVa (k.done + p % seg) (p / seg))
    let named := if l.toGlobal then outs else sources
    let places (vas : List DWord) : Places := placesOf s (384 + k.quad) (partOf s w) (ctxOf s w) l.toGlobal vas
    let free (ps : List Place) : Prop := placesBusy s (.engine k.id) false (copyTables s k w named) = false ∧
      placesBusy s (.engine k.id) l.toGlobal ps = false
    let fails (i : Nat) : Prop := ∃ va x, places (k.rowAddrs (k.done + i)) = .fail va x
    let height := if l.srcBits = 32 then 4 else if l.srcBits = 16 then 8 else 16
    let moved (t : State) : Prop :=
      (now.length = rest.length → (∃ k', findCopy? t id = some k' ∧ k'.done = k.done + seg ∧ k'.seg = 0 ∧ k'.moved = []) ∧
        (w.latestCopy = id → ∃ v, findWarp? t w.uid = some v ∧
          v.rowprog = BitVec.ofNat 32 (2 ^ 30 + (k.done + seg) % 2 ^ 24))) ∧
      (now.length ≠ rest.length → ∃ k', findCopy? t id = some k' ∧ k'.done = k.done ∧ k'.seg = seg ∧
        k'.moved = k.moved ++ now)
    (k.seg ≠ 0 → seg = k.seg) ∧
    (k.seg = 0 → (l.xpose = false → seg = 1) ∧ (l.xpose = true → (fails 0 → seg = 1) ∧
      (¬ fails 0 → 1 ≤ seg ∧ seg ≤ height - k.done % height ∧ (∀ i < seg, ¬ fails i) ∧
        (seg < height - k.done % height → fails seg)))) ∧
    ((now ≠ [] ∨ rest = []) →
      (∀ ps, l.toGlobal = false → places sources = .ok ps →
        let words := (ps.map (fun p => (wordVa p.1, { p.2 with pa := p.2.pa / 4 * 4 }))).eraseDups
        let got : Got := words.map (fun p => (p.1, p.2, placeRead s p.2))
        free (words.map (·.2)) → Unwatched s (now.map key) → (now.map key).Nodup →
        Becomes (.copyRow ⟨id, ws⟩) s (fun t => moved t ∧ (s.store.wf = true → ∀ p ∈ now,
          k.InMade (gotWord got) (k.pieceElems seg p) (s.store.word (key p)) (t.store.word (key p))))) ∧
      (∀ ps, l.toGlobal = true → places outs = .ok ps → free (ps.map (·.2)) →
        Becomes (.copyRow ⟨id, ws⟩) s (fun t => moved t ∧ ∃ f : Nat → CWord,
          (∀ p ∈ now, k.OutMade (fun a => s.store.word (storeKey k.core (planeAt s w k.core) a)) (k.done + p % seg) (p / seg)
            (f p)) ∧ Wrote s t ((ps.map (·.2)).zip (now.map f)))) ∧
      (∀ va x, places named = .fail va x →
        let ran (P : State → Copy → Prop) : Prop :=
          Becomes (.copyRow ⟨id, ws⟩) s (fun t => MemoryKept s t ∧ ∃ k', findCopy? t id = some k' ∧ k'.done = k.done ∧
            k'.seg = 0 ∧ k'.moved = [] ∧ P t k')
        let recorded (t : State) (r : FaultRec) (type : Nat) : Prop := r ∈ (getPartition t (partOf s w)).recs ∧ r.type = type
        (seg ≠ 1 → ran (fun _ k' => k'.state = .running)) ∧
        (seg = 1 → (∀ lv, x = .fault lv ∨ x = .bad lv → ran (fun t k' => ∃ r, k'.state = .suspended r.id ∧ recorded t r 1 ∧
            r.src = .copy id)) ∧
          (∀ pa a g, x = .freeze pa a g →
            Becomes (.copyRow ⟨id, ws⟩) s (fun t => MemoryKept s t ∧ ∃ k' r, findCopy? t id = some k' ∧ k'.state = .frozen r.id ∧
              recorded t r 4 ∧ r.src = .copy id)) ∧
          (∀ g, x = .prot g → Becomes (.copyRow ⟨id, ws⟩) s (fun t => MemoryKept s t ∧ findCopy? t id = none ∧
            Lowered s t w.uid .cp ∧ (∃ r, recorded t r 2) ∧ ∃ v, findWarp? t w.uid = some v ∧
              (⟨.cp, 0x06, BitVec.ofNat 32 k.done, none⟩ : Report) ∈ v.reports ∧
              (w.latestCopy = id → v.rowprog = BitVec.ofNat 32 (3 * 2 ^ 30 + k.done % 2 ^ 24)))))))) ∧
  (∀ s id k, findCopy? s id = some k → copyRuns s k = true → k.total ≤ k.done →
    injected s k.notices = true → notifyHere s k.warp k.notify = true →
    Becomes (.copyCompletes id) s (fun t => findCopy? t id = none ∧ Lowered s t k.warp .cp ∧ Notified s t k.notify 1 ∧
      MemoryKept s t)) ∧
  (∀ s id k peers, findColl? s id = some k → collRuns s k = true → 256 * k.block < k.count → peersComplete k peers = true →
    k.kind ≤ 3 →
    let i := k.issuer
    let n := min 256 (k.count - 256 * k.block)
    let run (base : DWord) (block : Nat) : List DWord :=
      (List.range n).map (fun j => base + BitVec.ofNat 64 (4 * (block * k.count + 256 * k.block + j)))
    let srcs := if k.kind = 2 then ((List.range k.np).map (run k.src)).flatten
      else if k.kind = 3 ∧ k.rank ≠ k.root then [] else run k.src 0
    let dsts := if k.kind = 1 ∨ k.kind = 2 then ((List.range k.np).map (run k.dst)).flatten else run k.dst 0
    let tables := (((srcs ++ dsts).map (tablePlaces s (480 + k.group % 2) i.part i.ctx)).flatten).eraseDups
    let ran (P : State → Prop) : Prop := Becomes (.collectiveBlock id peers) s P
    ((∃ p ∈ peers, 3 < p.op) → ran (fun t => findColl? t id = none ∧ Lowered s t k.warp .cp ∧
      Notified s t k.notify 0xFFFFFFFF ∧ ∀ w, findWarp? s k.warp = some w → ∃ v, findWarp? t k.warp = some v ∧
        (⟨.cp, 0x06, k.tag, none⟩ : Report) ∈ v.reports)) ∧
    ((∀ p ∈ peers, p.op ≤ 3) → (∃ p ∈ peers, p.op ≠ k.kind ∨ p.count ≠ k.count ∨ p.root ≠ k.root) → k.block = 0 →
      ran (fun t => findColl? t id = some { k with mismatch := true } ∧ MemoryKept s t)) ∧
    ((∀ p ∈ peers, p.op = k.kind ∧ p.count = k.count ∧ p.root = k.root ∧ p.words.length = n) →
      (∀ ps qs, placesOf s (480 + k.group % 2) i.part i.ctx false srcs = .ok ps →
        placesOf s (480 + k.group % 2) i.part i.ctx true dsts = .ok qs →
        placesBusy s (.engine k.id) false tables = false → placesBusy s (.engine k.id) false (ps.map (·.2)) = false →
        placesBusy s (.engine k.id) true (qs.map (·.2)) = false →
        let got := ps.map (fun p => placeRead s p.2)
        let own := if k.kind = 2 then (got.drop (k.rank * n)).take n else got
        let of (r : Nat) : List CWord := if r = k.rank then own else (peers.find? (·.rank == r)).elim [] (·.words)
        ran (fun t => (∃ k', findColl? t id = some k' ∧ k'.block = k.block + 1 ∧ k'.mismatch = k.mismatch) ∧
          ∃ out : List CWord, Wrote s t ((qs.map (·.2)).zip out) ∧
            (k.kind = 0 → out.length = n ∧ ∀ j < n, CardWord ((List.range k.np).map of) n j (out.getD j (good 0))) ∧
            (k.kind = 1 ∨ k.kind = 2 → out = ((List.range k.np).map of).flatten) ∧
            (k.kind = 3 → k.root < k.np → out = of k.root))) ∧
      (∀ va lv, placesOf s (480 + k.group % 2) i.part i.ctx false srcs = .fail va (.fault lv) →
        ran (fun t => MemoryKept s t ∧ ∃ k' r, findColl? t id = some k' ∧ k'.state = .suspended r.id ∧ k'.block = k.block ∧
          r ∈ (getPartition t i.part).recs ∧ r.type = 1 ∧ r.src = .coll id)))) ∧
  (∀ s id k, findColl? s id = some k → notifyHere s k.warp k.notify = true →
    let ended (v : Word) : Prop := Becomes (.collectiveCompletes id) s (fun t => findColl? t id = none ∧
      Lowered s t k.warp .cp ∧ Notified s t k.notify v ∧ MemoryKept s t)
    (collLost s k = true ∨ k.mismatch = true → ended 0xFFFFFFFF) ∧
    (collLost s k = false → k.mismatch = false → k.state = .running → k.count ≤ 256 * k.block →
      delivered s k.notices = true → ended 1))

/-- R120 to R136, R138: an entry of a soft operation is staged at its home, with its clamped weight; an
arrival joins its region until the parties are there, and the last begins the commit of the entries due, whose slot words
are then written one by one. A forward commit pushes a frame and applies its store entries in rank order, each moving its
slot by its weight and leaving its wake record; an adjoint one adds its SLDA entries and undoes the top frame's records in
descending order, giving each SSTA its gradients. The end of a commit lowers the counter of its warp, gathers its flags
and reports a failure, and an SSTA it answered gets its list and its lanes; the result of SLD is the sum of the products in
the order of the list, SLDA writes the weights' gradients, SHRD the slot it picks, SNRM the normalised weights, each with its
flags. The model's choices: those of logs 57 and 108, the moments at which a commit's words are written (log 56), a frame's
count of more than 65,535 (log 109), header words that are not good (log 110), and an engine's requests (log 118). -/
def Obligations.SoftOperationsStageAndCommit : Prop :=
  (∀ s id o y w, findOp? s id = some o → o.kind = .soft y → findWarp? s o.warp = some w → y.kind.stages = true →
    y.staged < y.list.length → (findRegion? s y.desc.region).isSome →
    (s.staged.filter (fun e => e.home == y.homes.getD y.staged 0)).length < 4096 →
    let ent := y.list.getD y.staged (0, 0)
    Becomes (.softEntryStaged id) s (fun t => MemoryKept s t ∧ (∃ e, t.staged = s.staged ++ [e] ∧ e.region = y.desc.region ∧
      e.home = y.homes.getD y.staged 0 ∧ e.kind = y.kind ∧ e.slot = ent.1 ∧ e.pos = y.staged ∧ e.count = y.count ∧
      e.epoch = y.epoch ∧ e.op = id ∧ e.vals = y.vals.map good ∧ e.teamlin = y.issuer.teamlin ∧ e.warpIndex = y.issuer.index ∧
      e.weight = if y.kind = .sst then (clampWeight ent.2).1 else ent.2) ∧
      (y.kind = .sst → y.staged + 1 = y.list.length → Over t id ∧ Lowered s t o.warp .sf))) ∧
  (∀ s id o y r, findOp? s id = some o → o.kind = .soft y → y.kind.stages = true → y.staged < y.list.length →
    findRegion? s y.desc.region = some r → 4096 ≤ (s.staged.filter (fun e => e.home == y.homes.getD y.staged 0)).length →
    Becomes (.softEntryStaged id) s (fun t => MemoryKept s t ∧ t.staged = s.staged ∧ findRegion? t y.desc.region =
      some { r with overflows := (if y.epoch.toNat < r.epoch.toNat then r.epoch else y.epoch) :: r.overflows })) ∧
  (∀ s id o y w rev r, findOp? s id = some o → o.kind = .soft y → findWarp? s o.warp = some w → y.kind = .scmt rev →
    o.accepted = false → (∀ q ∈ s.regions, ∀ b ∈ q.arrivals, b.op ≠ id) → scmtWaits s o y = false →
    findRegion? s y.desc.region = some r →
    let a : Arrival := { op := id, warp := w.uid, epoch := y.epoch, rev := rev, desc := y.desc, handle := y.handle }
    let r' := { r with arrivals := r.arrivals ++ [a] }
    let s' := setRegion (setOp s { o with accepted := true }) r'
    let arr := r'.arrivals.filter (fun a => decide (a.epoch.toNat ≤ r.epoch.toNat))
    let due (e : Staged) : Bool := e.region == r.base && decide (e.epoch.toNat ≤ r.epoch.toNat)
    ((∀ b ∈ arr.head?, arr.length < b.desc.parts) →
      Becomes (.commitArrival id) s (fun t => findRegion? t y.desc.region = some r' ∧
        findOp? t id = some { o with accepted := true } ∧ MemoryKept s t)) ∧
    (∀ b, arr.head? = some b → b.desc.parts ≤ arr.length → (∀ c ∈ s.commits, c.region = r.base → c.todo = []) →
      let k := commitWork s' r' (arr.take b.desc.parts) b (rankSort (s.staged.filter due))
      placesBusy s' (.engine b.op) false k.1.tables.eraseDups = false →
      placesBusy s' (.engine b.op) true (k.1.cur.map (·.1)) = false →
      Becomes (.commitArrival id) s (fun t => Wrote s t k.1.wake ∧ t.staged = s.staged.filter (fun e => !due e) ∧
        (∀ v, findRegion? t r.base = some v → v.epoch = r.epoch + 1) ∧
        ∃ c ∈ t.commits, c.region = r.base ∧ c.arrivals = arr.take b.desc.parts ∧ c.failed = k.2 ∧ c.flags = k.1.flags ∧
          c.todo = (k.1.cur.reverse.filter (fun p => k.1.slots.contains p.1.pa)).map (fun p => (p.1.pa, p.1.fal, p.2))))) ∧
  (∀ (k : Work) p w, (p, w) ∈ k.wake ↔ p.pa ∉ k.slots ∧ ∃ before after, k.cur = before ++ (p, w) :: after ∧
    ∀ x ∈ before, x.1.pa ≠ p.pa) ∧
  (∀ s (r : Region) (a : Arrival) arr es,
    let k0 : Work := { s := s, part := r.part, ctx := r.ctx, cur := [], slots := [], flags := [], poisoned := [], corrupt := [],
                       tables := [] }
    let k := commitWork s r (a :: arr) a es
    let differs := ∃ b ∈ arr, b.rev ≠ a.rev ∨ b.desc ≠ a.desc
    let mixed := ∃ e ∈ es, e.kind = .sst ↔ a.rev = true
    let applied := if a.rev then adjointCommit k0 a.desc (es.filter (fun e => e.kind == .slda)) (es.filter (fun e => e.kind == .ssta))
      else forwardCommit k0 a.desc (if r.bad then poison (good r.epoch) else good r.epoch) es
    (r.epoch ∈ r.overflows → k.2 = some 1 ∧ k.1.slots = []) ∧
    (r.epoch ∉ r.overflows → differs ∨ mixed → k.2 = some 3 ∧ k.1.slots = []) ∧
    (r.epoch ∉ r.overflows → ¬ differs → ¬ mixed → (∃ v, applied = .error v) → k.2 = some 2 ∧ k.1.slots = []) ∧
    (∀ v, r.epoch ∉ r.overflows → ¬ differs → ¬ mixed → applied = .ok v → k.2 = none ∧ k.1.slots = v.slots ∧
      ∀ h, softPlace? v.s v.part v.ctx (a.desc.wbase + 12) = some h →
        k.1.read h = (if r.bad then poison (good (r.epoch + 1)) else good (r.epoch + 1)) ∧ v.SameBut k.1 [h.pa])) ∧
  (∀ l : List Staged, (rankSort l).Perm l ∧ (rankSort l).Pairwise (fun a b => a.rank ≤ b.rank) ∧
    ∀ e : Staged, (rankSort l).filter (fun x => decide (x.rank = e.rank)) = l.filter (fun x => decide (x.rank = e.rank))) ∧
  (∀ (k : Work) (e : Staged) (p : Place) (v : CWord),
    let old := (k.read p).data
    let new := if e.weight = 0 then old else (fusedW e.weight (minusW v.data old) old).1
    (storeWord k e p v).read p =
      if (k.read p).isGood && (e.weight == 0 || v.isGood) then good new else poison (good new)) ∧
  (∀ k d x e p0 q, 1 ≤ d.w → d.w ≤ 32 → e.vals.length = d.w →
    softPlace? k.s k.part k.ctx (d.slotVa e.slot 0) = some p0 → RecordAt k d x q →
    let at_ (j : Nat) : Place := { p0 with pa := p0.pa + 4 * j }
    let old (j : Nat) : CWord := k.read (at_ j)
    let val (j : Nat) : CWord := e.vals.getD j (good 0)
    let sum (j : Nat) : Word × Word := fusedW e.weight (minusW (val j).data (old j).data) (old j).data
    (∀ j < d.w, (old j).isGood = true ∧ (val j).isGood = true) →
    (∀ i < d.w, ∀ j < wakeWords d, (at_ i).pa ≠ (q j).pa) →
    ∃ k', applyStore k d x e = .ok k' ∧
      k.SameBut k' ((List.range d.w).map (fun j => (at_ j).pa) ++ (List.range (wakeWords d)).map (fun j => (q j).pa)) ∧
      (∀ j < d.w, k'.read (at_ j) = if e.weight = 0 then old j else good (sum j).1) ∧
      (∀ j < wakeWords d, k'.read (q j) = storeRecord d e old j) ∧
      ∀ u, flagsFor k'.flags u = flagsFor k.flags u |||
        if u = e.warp ∧ e.weight ≠ 0 then (List.range d.w).foldl (fun m j => m ||| (sum j).2) 0 else 0) ∧
  (∀ k d epoch es p0 p1 p2 q, softPlace? k.s k.part k.ctx d.wbase = some p0 →
    softPlace? k.s k.part k.ctx (d.wbase + 4) = some p1 → softPlace? k.s k.part k.ctx (d.wbase + 8) = some p2 → p0.pa ≠ p1.pa →
      RecordAt k d (k.read p0).data.toNat q →
    let top := (k.read p0).data
    (top.toNat + es.length + 1 > (k.read p2).data.toNat → ∃ k', forwardCommit k d epoch es = .error k') ∧
    (∀ k', forwardCommit k d epoch es = .ok k' → ∃ f g : Work, k.SameBut f ((List.range (wakeWords d)).map (fun j => (q j).pa)) ∧
      (∀ j < wakeWords d, f.read (q j) = frameRecord (k.read p1) epoch es.length j) ∧
      Steps es.length (fun i v => es[i]?.elim (.error v) (applyStore v d (top.toNat + 1 + i))) f g ∧
      g.SameBut k' [p0.pa, p1.pa] ∧
      if (k.read p0).isGood then k'.read p1 = good top ∧ k'.read p0 = good (top + BitVec.ofNat 32 (es.length + 1))
      else k'.read p1 = poison (good top) ∧ k'.read p0 = poison (good (top + BitVec.ofNat 32 (es.length + 1))))) ∧
  (∀ k d slda ssta k', adjointCommit k d slda ssta = .ok k' →
    ∃ f, Steps slda.length (fun i v => slda[i]?.elim (.error v) (applySlda v d)) k f ∧
      ∀ p0 p1, softPlace? f.s f.part f.ctx d.wbase = some p0 → softPlace? f.s f.part f.ctx (d.wbase + 4) = some p1 → p0.pa ≠ p1.pa →
        let top := (f.read p1).data
        (top = 0xFFFFFFFF → f.SameBut k' []) ∧
        (top ≠ 0xFFFFFFFF → ∀ q, RecordAt f d top.toNat q → d.gbase ≠ 0 ∧
          let m := (f.read (q 3)).data.toNat
          ∃ g h, f.SameBut g [] ∧ Steps m (fun i v => undoAt v d ssta (top.toNat + m - i)) g h ∧ h.SameBut k' [p0.pa, p1.pa] ∧
            k'.read p0 = passedOn (f.read p1) ∧ k'.read p1 =
              if (f.read p1).isGood then passedOn (f.read (q 0)) else poison (good (f.read (q 0)).data))) ∧
  (∀ (k : Work) d (e : Staged) (gp : Nat → Place), (∀ j < d.w, softPlace? k.s k.part k.ctx (d.gradVa e.slot j) = some (gp j) ∧ (k.read (gp j)).isGood = true) →
    ((List.range d.w).map (fun j => (gp j).pa)).Nodup →
    let x (j : Nat) : Word × Word := fusedW e.weight (e.vals.getD j (good 0)).data (k.read (gp j)).data
    ∃ k', applySlda k d e = .ok k' ∧ (∀ j < d.w, k'.read (gp j) = good (x j).1) ∧
      k.SameBut k' ((List.range d.w).map (fun j => (gp j).pa)) ∧
      ∀ u, flagsFor k'.flags u = flagsFor k.flags u |||
        if u = e.warp then (List.range d.w).foldl (fun m j => m ||| (x j).2) 0 else 0) ∧
  (∀ u d slot j w old v gp sp, softPlace? u.k.s u.k.part u.k.ctx (d.gradVa slot j) = some gp →
    softPlace? u.k.s u.k.part u.k.ctx (d.slotVa slot j) = some sp → gp.pa ≠ sp.pa → (u.k.read gp).isGood = true → w.isGood = true → old.isGood = true → v.isGood = true → u.gwBad = false →
    let g := (u.k.read gp).data
    let x := fusedW (minusW v.data old.data) g u.gw
    let y := fusedW (w.data ^^^ 0x80000000) g g
    ∃ u', undoWord u d slot j w old v = .ok u' ∧ u'.gw = x.1 ∧ u'.gwBad = false ∧
      u'.gpre = u.gpre ++ [(good g, d.gradVa slot j)] ∧ u'.flags = u.flags ||| x.2 ||| y.2 ∧
      u'.k.read gp = good y.1 ∧ u'.k.read sp = old ∧ u.k.SameBut u'.k [gp.pa, sp.pa]) ∧
  (∀ k d es x q ws k', RecordAt k d x q → ws = (List.range (wakeWords d)).map (fun j => k.read (q j)) →
    undoAt k d es x = .ok k' →
    let word (j : Nat) : CWord := ws.getD j (good 0)
    let slot := bits (word 3).data 0 16
    ∃ k1 u, k.SameBut k1 [] ∧ Steps d.w (fun j u => undoWord u d slot j (word 4) (word (8 + j)) (word (8 + d.p + j)))
        { k := k1, gw := 0, gwBad := false, gpre := [], flags := 0 } u ∧ u.k.SameBut k' [] ∧
      ∀ id, sstaFor? k.s es (word 0).data (bits (word 1).data 0 11) (word 2).data = some id →
        ∀ o y, findOp? u.k.s id = some o → o.kind = .soft y → tsorted y.gw = true → ∃ o' y', findOp? k'.s id = some o' ∧ o'.kind = .soft y' ∧
          tget y'.gw (bits (word 3).data 16 16) (good 0) =
            (if (word 1).data.getLsbD 29 then good 0 else if u.gwBad then poison (good u.gw) else good u.gw) ∧
          y'.gv = u.gpre.zipIdx.map (fun p => (fusedW (word 4).data p.1.1.data (wordAt y.gv p.2)).1)) ∧
  (∀ s id c pa x, s.commits.find? (fun c => c.id == id) = some c →
    c.todo.find? (fun y => y.1 / c.stride == pa / c.stride) = some x →
    placesBusy s (.engine c.id) false [⟨x.1, x.2.1⟩] = false →
    Becomes (.scmtCompletes ⟨id, pa⟩) s (fun t => Wrote s t [(⟨x.1, x.2.1⟩, x.2.2)] ∧
      ∃ d ∈ t.commits, d.id = id ∧ d.todo = c.todo.erase x)) ∧
  (∀ s id pa c a w, s.commits.find? (fun c => c.id == id) = some c → c.todo = [] → delivered s c.notices = true →
    c.results = [] → c.arrivals = [a] → findWarp? s a.warp = some w →
    Becomes (.scmtCompletes ⟨id, pa⟩) s (fun t => (∀ d ∈ t.commits, d.id ≠ id) ∧ Over t a.op ∧ Lowered s t a.warp .sf ∧
      MemoryKept s t ∧ ∃ v, findWarp? t a.warp = some v ∧ v.flags = w.flags ||| flagsFor c.flags w.uid ∧
        ∀ f, c.failed = some f → ∃ r ∈ v.reports, r.cause = 0x0D ∧
          r.tval = BitVec.ofNat 32 (f * 2 ^ 28 + a.handle.toNat))) ∧
  (∀ s id pa c u o y w, s.commits.find? (fun c => c.id == id) = some c → c.todo = [] → delivered s c.notices = true →
    c.results = [u] → findOp? s u = some o → o.kind = .soft y → findWarp? s o.warp = some w → teamHere s o.warp = true →
    y.gvBad = none → s.store.wf = true →
    let key (off : Nat) : Nat := storeKey w.core (planeOf s w) (y.outAddr + off)
    (∀ j ∈ y.lanes, ∀ off < 8 * y.list.length, key off ≠ regBank s w + vKey o.dst j) →
    Becomes (.scmtCompletes ⟨id, pa⟩) s (fun t =>
      (∀ i < y.list.length, (y.dense = false → t.store.word (key (8 * i)) = good (BitVec.ofNat 32 (y.list.getD i (0, 0)).1)) ∧
        t.store.word (key (if y.dense then 4 * i else 8 * i + 4)) = tget y.gw i (good 0)) ∧
      ∃ v, findWarp? t o.warp = some v ∧ ∀ j ∈ y.lanes, regWord t v (regBank s w) (vKey o.dst j) = wordAt y.gv j)) ∧
  (∀ s id o y w, findOp? s id = some o → o.kind = .soft y → findWarp? s o.warp = some w →
    let lands (P : State → Prop) : Prop := Becomes (.loadValueLands id []) s P
    let ended (t : State) : Prop := Over t id ∧ Lowered s t o.warp .sf
    let sum (n : Nat) (a b : Nat → Word) : Word × Word := (List.range n).foldl (fun r i =>
      let x := fusedW (a i) (b i) r.1
      (x.1, r.2 ||| x.2)) (0, 0)
    let weight (i : Nat) : Word := (y.list.getD i (0, 0)).2
    let n := y.list.length
    let key (a off : Nat) : Nat := storeKey w.core (planeOf s w) (a + off)
    let value (i : Nat) : Nat := if y.dense then 4 * i else 8 * i + 4
    (y.kind = .sld → placesBusy s (.engine id) false y.slotPlaces = false →
      (∀ j ∈ y.lanes, ∀ i < n, (y.slotWord s i j).isGood = true) →
      let lane (j : Nat) : Word × Word := sum n weight (fun i => (y.slotWord s i j).data)
      lands (fun t => ended t ∧ Flagged t w .sf (y.lanes.foldl (fun m j => m ||| (lane j).2) 0) ∧
        RegsGet s t w (y.lanes.map (fun j => (vKey o.dst j, (lane j).1))))) ∧
    (∀ j i x, y.kind = .sld → placesBusy s (.engine id) false y.slotPlaces = false → sldBad? s y = some (j, i, x) →
      let c := containFrom s w x j o.pc (y.desc.slotVa (y.list.getD i (0, 0)).1 j) (some ((y.places.getD i (0, false)).1 + 4 * j))
      lands (fun t => t.warps = c.warps ∧ t.teams = c.teams ∧ t.gangs = c.gangs ∧ t.grids = c.grids ∧ t.ops = c.ops ∧
        t.store = c.store ∧ t.hbm = c.hbm ∧ t.recorders = c.recorders)) ∧
    (y.kind = .slda → o.accepted = false → placesBusy s (.engine id) false y.slotPlaces = false →
      (∀ i < n, ∀ j < y.desc.w, (y.slotWord s i j).isGood = true) →
      let grad (i : Nat) : Word × Word := sum y.desc.w (wordAt y.vals) (fun j => (y.slotWord s i j).data)
      lands (fun t => Lowered s t o.warp .sf ∧ Flagged t w .sf ((List.range n).foldl (fun m i => m ||| (grad i).2) 0) ∧
        (n ≤ y.staged → Over t id) ∧ (y.staged < n → findOp? t id = some { o with accepted := true }) ∧
        (s.store.wf = true → ∀ i < n, t.store.word (key y.outAddr (value i)) = good (grad i).1 ∧
          (y.dense = false → t.store.word (key y.outAddr (8 * i)) = good (BitVec.ofNat 32 (y.list.getD i (0, 0)).1))))) ∧
    (∀ m a, y.kind = .shrd m a → ∃ k, ShrdPick m y.list y.u k ∧
      let addr : DWord := y.desc.base + BitVec.ofNat 64 (4 * y.desc.p * k.getD 0)
      let value := fmtF32.decode y.u.toNat
      let kept : Prop := value.isNan = false ∧ (value.isZero = true ∨ value.neg = false ∧ y.u.toNat ≤ 0x3F800000)
      ∃ fl, ((∃ j, m = .smp j) → (kept → fl = 0) ∧ (¬ kept → fl = flSCL)) ∧ ((∀ j, m ≠ .smp j) → fl = 0) ∧
        lands (fun t => ended t ∧ Flagged t w .sf fl ∧ RegsGet s t w (match k, a with
          | none, false => [(sKey o.dst, 0xFFFFFFFF)]
          | none, true => [(sKey o.dst, 0xFFFFFFFF), (sKey (o.dst + 1), 0xFFFFFFFF)]
          | some k, false => [(sKey o.dst, BitVec.ofNat 32 k)]
          | some _, true => [(sKey o.dst, addr.setWidth 32), (sKey (o.dst + 1), (addr >>> 32).setWidth 32)]))) ∧
    (∀ smax, y.kind = .snrm smax → ∃ out fl, Normalised smax (y.list.map (·.2)) out fl ∧
      lands (fun t => ended t ∧ Flagged t w .sf fl ∧ (s.store.wf = true → (∀ i < n,
          t.store.word (key y.inAddr (value i)) = good (wordAt out i)) ∧
        ∀ k, (∀ i < n, k ≠ key y.inAddr (value i)) → t.store.word k = s.store.word k))))


/-! ### Events of the Sower -/

/-- R47, R59, R63, R322 to R342: the Sower takes the record of the queue whose turn it is, and rejects it with the first check
that it fails; it places the next team where R329 says, every warp at its entry point with all lanes; an L1 grows into free units, or shrinks for a team that
waits; planes swap once the active one is quiet; teams are named by a late launch, leave as the estimator says, are saved, restored, compacted and rotated;
a completed grid leaves its record, its interrupt and its status; the members of a pod group register, send their arrivals
and see their phases complete. The model's choices: the order and room of the reasons (log 63), the first queue served
(log 64), where a team goes on a core (log 66), the swap of an empty or quiet plane (log 68), the images, of which the save
area gets no stated word (log 69), the times of restores, rotations and namings (log 70), the instances of a pod group (log
74) and the scratch image as an input (log 115). -/
def Obligations.TheSowerTakesPlacesAndMoves : Prop :=
  (∀ s part image qn, (getPartition s part).en = true → chooseQueue s part = some qn → tsorted s.partitions = true →
    tsorted (getPartition s part).queues = true →
    (∀ p ∈ headOwn s part qn, Place.waits s (.engine 0) false p = false) →
    let q := getQueue (getPartition s part) qn
    let words := (headRecord s q).map (·.data)
    let reason := recordReason s part q ((headRecord s q).all CWord.isGood) words (launchCtx s part)
    Becomes (.launchRecordTaken part image) s (fun t => (∃ g, t.grids = s.grids ++ [g] ∧ g.r = recordOf words ∧
      g.launch = BitVec.ofNat 32 (part * 2 ^ 28 + qn * 2 ^ 22 + q.head) ∧ g.part = part ∧ g.queue = qn ∧
      g.reason = reason ∧ g.failed = (if reason = 0 then none else some 1) ∧ g.nextTeam = 0) ∧
      getQueue (getPartition t part) qn = q.advance ∧ MemoryKept s t)) ∧
  (∀ s part, (chooseQueue s part = none → ∀ q, ¬ QueueReady s part q) ∧ ∀ q, chooseQueue s part = some q →
    let turn (q : Nat) : Nat := (q + 63 - (getPartition s part).lastQueue) % 64
    QueueReady s part q ∧ ∀ j, QueueReady s part j → headPrio s part j < headPrio s part q ∨
      (headPrio s part j = headPrio s part q ∧ turn q ≤ turn j)) ∧
  (∀ (ws : List Word), RecordFields ws (recordOf ws)) ∧
  (∀ s part q whole ws ctx, let n := recordReason s part q whole ws ctx
    let fails := RecordFails s part q whole ws ctx
    n ≤ 9 ∧ (n = 0 → ∀ i, ¬ fails i) ∧ (n ≠ 0 → fails n ∧ ∀ i < n, ¬ fails i)) ∧
  (∀ p r, recordLimits r = true →
    let fits (n : Nat) : Prop := n * LaunchRec.perCore r ≤ 64 ∧ n * r.acc ≤ 32 ∧ n * r.nring ≤ 32 ∧ storeRoom [] r n = n
    (fits (coreRoom r) ∧ ¬ fits (coreRoom r + 1)) ∧
    partRoom p r = ((List.range 4).map (fun d => (if r.spread then dieQuads p d / (r.c / 4) else dieQuads p d) *
      let n := if r.spread then coreRoom r else 4 * coreRoom r
      if r.nbar = 0 then n else min n (64 / r.nbar))).sum) ∧
  (∀ s part ctx g rank np, podEntry? s part ctx g = some (rank, np) ↔ ∃ ws d,
    sowerWords? s part ctx ((getPartition s part).pgbase + BitVec.ofNat 64 (16 * g)) 3 = some ws ∧
    let va := dwordAt ws 1 + BitVec.ofNat 64 (2 * rank)
    (wordAt ws 0).getLsbD 31 = true ∧ rank = (wordAt ws 0).toNat / 2 ^ 16 % 2 ^ 11 ∧ np = (wordAt ws 0).toNat % 2 ^ 11 ∧
    rank < np ∧ va.toNat % 2 = 0 ∧ sowerWord? s part ctx (wordVa va) = some d ∧
    d.toNat / 2 ^ (8 * (va.toNat % 4)) % 2 ^ 16 = part * 1024 + Config.device.toNat) ∧
  (∀ s part c p, choosePlacement s part = some (c, p) → (∀ v ∈ s.warps, v.uid < s.nextId) →
    let placed (t : State) : Prop := ∃ m ∈ t.teams, m.grid = c.grid.uid ∧ m.lin = c.lin ∧ m.cores = p.cores ∧
      m.planes = p.planes ∧ m.place = .resident ∧ ∀ i < c.grid.r.w, ∃ v ∈ t.warps, ∃ y, v.team = m.uid ∧ v.index = i ∧
        v.slot0 = some y ∧ y.pc = 0 ∧ y.mask = 0xFFFFFFFF ∧ v.slot1 = none ∧ v.depth = 0 ∧ v.flags = 0 ∧ v.trap = none ∧
        v.acquires.length = 1
    (c.relaunch = none ∨ (∃ x, c.relaunch = some x ∧ x.gang = 0) → Becomes (.teamPlacement part) s placed) ∧
    (∀ x g, c.relaunch = some x → x.gang ≠ 0 → s.grids.find? (fun g => g.relaunches.any (fun y => y.gang == x.gang)) =
      some g → g.part = part → Becomes (.gangRelaunch x.gang) s placed)) ∧
  (∀ s part, let cs := candidates s part
    (∀ c, c ∈ cs ↔ c.grid ∈ s.grids ∧ c.grid.part = part ∧ c.grid.failed = none ∧ c.grid.r.prio ≤ 3 ∧
      nextIn s c.grid c.lin = true ∧ match c.relaunch with
        | some x => x ∈ c.grid.relaunches ∧ c.lin ∈ x.teams
        | none => nextReady s c.grid = some c.lin) ∧
    ((s.grids.map (·.uid)).Nodup → cs.Pairwise (CandBefore s)) ∧
    (∀ c p, choosePlacement s part = some (c, p) → (getPartition s part).en = true ∧ ∃ before after allowed,
      cs = before ++ c :: after ∧ spotFor s c.grid allowed = some p ∧
      (∀ x, x ∈ allowed ↔ x ∈ partCores (getPartition s part) ∧ ∀ b ∈ before, x ∉ couldUse s b.grid) ∧
      ∀ l b r, before = l ++ b :: r → spotFor s b.grid ((partCores (getPartition s part)).filter (fun x =>
        l.all (fun e => !(couldUse s e.grid).contains x))) = none)) ∧
  (∀ s (g : Grid) allowed p, spotFor s g allowed = some p →
    let fits (cores : List Nat) : Prop := (spotOn s g.part g.ctx g.r cores).isSome = true
    let free (c : Nat) : Nat := (freeSlots s c).length
    let onDie (d : Nat) : List Nat := ((List.range 24).map (24 * d + ·)).filter (fun q =>
      (coresOfQuad q).all allowed.contains && (spotOn s g.part g.ctx g.r (coresOfQuad q)).isSome)
    (g.r.spread = false → ∃ c ∈ allowed, spotOn s g.part g.ctx g.r [c] = some p ∧
      ∀ d ∈ allowed, fits [d] → free d < free c ∨ (free d = free c ∧ c ≤ d)) ∧
    (g.r.spread = true → allowed.Nodup → ∃ die < 4, g.r.c / 4 ≤ (onDie die).length ∧
      (let slots (d : Nat) : Nat := ((allowed.filter (fun c => dieOf c == d)).map free).sum
       ∀ d < 4, slots die < slots d ∨ (slots d = slots die ∧ d < die) → (onDie d).length < g.r.c / 4) ∧
      spotOn s g.part g.ctx g.r (((onDie die).take (g.r.c / 4)).map coresOfQuad).flatten = some p)) ∧
  (∀ s part ctx r core, (coreSpot s part ctx r core).isSome = true ↔ ∃ plane, planeSuits s part ctx core plane = true ∧
    (residentOn s core).foldl (fun k t => k + (recOf s t).nring) r.nring ≤ 32 ∧ quadSuits s part r (quadOf core) = true ∧
    LaunchRec.perCore r ≤ (freeSlots s core).length ∧ (fitTiles s core r.acc).isSome = true ∧
    (storeFit (regionsOn s core plane) r).isSome = true) ∧
  (∀ s (t : Team) d, let choice := estimate s t d
    let order (e : Exit) : Nat := match e with
      | .drain => 0
      | .save => 1
      | .discard => 2
    let r := recOf s t
    let raw := r.w * LaunchRec.regBytes r + LaunchRec.cores r * (LaunchRec.blockBytes r + 8192 * r.acc) + 512
    ((∃ e c, ExitOption s t d e c) → ∃ c, ExitOption s t d choice c ∧
      ∀ e' c', ExitOption s t d e' c' → c < c' ∨ (c = c' ∧ order choice ≤ order e')) ∧
    ((∀ e c, ¬ ExitOption s t d e c) → choice = if (saveTime s t).isSome then .save else if r.relaunch then .discard else .drain) ∧
    (saveTime s t = none ↔ shadowFree s t = false ∧ r.saveva = 0) ∧
    (shadowFree s t = true → saveTime s t = some (nominal s 1600)) ∧
    (shadowFree s t = false → r.saveva ≠ 0 → ∃ b c, raw ≤ b ∧ b < raw + 4096 ∧ b % 4096 = 0 ∧ b ≤ 160 * c ∧ 160 * c < b + 160 ∧
      saveTime s t = some (nominal s (max 1600 c)))) ∧
  (∀ s core units, core < 384 → 2 ≤ units → units ≤ freeUnits (regionsOn s core (getCore s core).active) →
    (getCore s core).l1Units < units ∨ (units < (getCore s core).l1Units ∧
      ∃ g ∈ s.grids, g.failed = none ∧ (g.relaunches ≠ [] ∨ (nextReady s g).isSome = true)) → tsorted s.cores = true →
    Becomes (.l1Resize core units) s (fun t => (getCore t core).l1Units = units ∧ MemoryKept s t)) ∧
  (∀ s core m, (residentOn s core).find? (·.compacting) = some m → teamFrozen s m = false → findTeam? s m.uid = some m →
    (∀ w ∈ s.warps, w.team = m.uid → w.ctrs.ld = 0 ∧ w.ctrs.mx = 0 ∧ w.ctrs.sf = 0) →
    Becomes (.registerCompaction core) s (fun t => findTeam? t m.uid = some { m with compacting := false } ∧ MemoryKept s t ∧
      (tsorted s.cores = true → ∀ c ∈ m.cores,
        (getCore t c).l1Units ≤ freeUnits (regionsOn t c (getCore t c).active)))) ∧
  (∀ s core, let x := getCore s core
    (x.swapping = false → swapDue s core = true → Becomes (.planeSwap core) s (fun t =>
      getCore t core = { x with swapping := true } ∧ MemoryKept s t)) ∧
    (x.swapping = true → tsorted s.cores = true → (∀ w ∈ s.warps, w.core = core →
        w.team ∈ (planeTeams s core x.active).map (·.uid) → quietSave w = true) →
      (∀ k ∈ s.copies, k.state = .running → copyOn s core x.active k = true → k.seg = 0) →
      (∀ m ∈ residentOn s core, m.halting = false ∧ (m.planeOn core = x.active → m.compacting = false)) →
      Becomes (.planeSwap core) s (fun t => (getCore t core).active = !x.active ∧ (getCore t core).swapping = false ∧
        (getCore t core).swapped = s.cycle ∧ MemoryKept s t))) ∧
  (∀ s part before g after,
    let late (g : Grid) : Prop := g.part = part ∧ g.failed = none ∧ g.requested = false ∧ ∃ c n,
      classTimes g.r.dclass = some c ∧ waitsSince s g = some n ∧ n + micros s c.1 < s.cycle
    s.grids = before ++ g :: after → (∀ h ∈ before, ¬ late h) → late g →
    Becomes (.deadlinePreemption part) s (fun t => ∃ h ∈ t.grids, h.uid = g.uid ∧ h.requested = true)) ∧
  (∀ s m, findTeam? s m.uid = some m →
    (m.place = .resident → m.decision = .save → m.compacting = false → teamFrozen s m = false →
      (∀ w ∈ s.warps, w.team = m.uid → quietSave w = true) → copiesAtRow s (copyInTeam s m) = true →
      let saved (memory : Bool) (t : State) : Prop := (∃ m', findTeam? t m.uid = some m' ∧ m'.place = .saved memory ∧
        m'.halting = false ∧ m'.decision = .none ∧ m'.images.map (·.core) = m.cores) ∧
        ∀ g ∈ t.gangs, g.uid = m.gang → g.open_ = false
      (shadowFree s m = true → Becomes (.teamSave m.uid) s (fun t => saved false t ∧ MemoryKept s t)) ∧
      (shadowFree s m = false → (recOf s m).saveva ≠ 0 → placesBusy s (.engine m.uid) false (saveTables s m) = false →
        placesBusy s (.engine m.uid) true (savePlaces s m) = false →
        Becomes (.teamSave m.uid) s (fun t => saved true t ∧
          (s.hbm.wf = true → (∀ q ∈ savePlaces s m, ownFabric q.pa = false) →
            ∀ k, (∀ q ∈ savePlaces s m, q.pa / 4 ≠ k) → t.hbm.word k = s.hbm.word k)))) ∧
    (m.place ≠ .resident → turnOf s m = true → restorable s m = true →
      Becomes (.teamRestore m.uid) s (fun t => MemoryKept s t ∧ (∃ m', findTeam? t m.uid = some m' ∧
        m'.place = .resident ∧ m'.images = [] ∧ m'.since = s.cycle) ∧
        (tsorted s.quads = true → ∀ c ∈ m.cores, (getQuad t (quadOf c)).fused = (recOf s m).fusel1)))) ∧
  (∀ s id g b m, findGrid? s id = some g → g.r.gridbar = true → g.r.saveva ≠ 0 → g.failed = none →
    (rotationBars g).find? (fun b => rotates s g b.1 b.2) = some b → roomNow s g b.1 b.2 = false →
    let here := s.teams.filter (fun t => t.grid == g.uid && t.place == .resident)
    (∀ u ∈ here, u.halting = false ∧ u.compacting = false) → m ∈ here → (∀ u ∈ here, u.lin ≤ m.lin) →
    (here.map (·.lin)).Nodup → findTeam? s m.uid = some m → (∀ u ∈ here, u.lin < 2 ^ 32) →
    Becomes (.gridBarrierRotation id) s (fun t => findTeam? t m.uid =
      some { m with decision := .save, halting := true, reserve := shadowFree s m, rotated := true })) ∧
  (∀ s part group p, findPod? s part group = some p → p.gone = false →
    let becomes (i : Instr) (P : Pod → Prop) : Prop := Becomes i s (fun t => ∃ p', findPod? t part group = some p' ∧ P p')
    (p.sent = false → becomes (.podRegistration part group p.rank p.threads) (fun p' => p'.sent = true)) ∧
    (∀ rank count, p.rank = 0 → rank ≠ 0 → rank < p.np → tget? p.ranks rank = none →
      becomes (.podRegistration part group rank count) (fun p' => tget? p'.ranks rank = some count)) ∧
    (∀ n a d rest, p.out = (n, a, d) :: rest → p.sent = true →
      becomes (.podBarrierMessage part group p.rank n a d) (fun p' => p'.out = rest)) ∧
    (∀ n, p.completes n = true → becomes (.podPhaseCompletion part group n) (fun p' =>
      tget? p'.phases n.toNat = some (!tget p.phases n.toNat false)))) ∧
  (∀ (p : Pod) n, p.complete = true → sumOf ((p.barsOf n).map (·.arrived)) ≠ 0 →
    sumOf ((p.barsOf n).map (·.arrived)) + sumOf ((p.barsOf n).map (·.dropped)) = sumOf (p.ranks.map (·.2)) →
    (p.phase n).completions = p.completions ++ [n] ∧ ∀ b ∈ (p.phase n).bars, b.n = n → b.arrived = 0 ∧ b.leaving = 0) ∧
  (∀ s id g, findGrid? s id = some g → gridOver s g = true →
    placesBusy s (.engine 0) false (((completionVas g).map (tablePlaces s (sowerWho g.part) g.part g.ctx)).flatten.eraseDups) = false →
    placesBusy s (.engine 0) true (completionPlaces s g) = false →
    let status := g.failed.getD 4
    let record : List Word := [BitVec.ofNat 32 (status * 2 ^ 24 + if status = 1 then g.reason else 0), g.launch,
      BitVec.ofNat 32 s.cycle, BitVec.ofNat 32 (s.cycle / 2 ^ 32), BitVec.ofNat 32 g.relaunchCount, 0, 0, 0]
    Becomes (.gridCompletes id) s (fun t => (∀ h ∈ t.grids, h.uid ≠ id) ∧
      Wrote s t ((completionPlaces s g).zip (record.map good)) ∧
      (getPartition t g.part).completed.head? = some (g.launch, status) ∧
      (g.r.cint = true → tget? t.interrupts g.part = some (tget s.interrupts g.part 0 + 1))))

/-! ### Events of the driver, the host and the fleet -/

/-- R304, R335, R345 to R348, R351 to R355, R357, R370: a walk reads an entry of each level's table, stops at a bad or absent
one, and ends in a translation or in its fault; the oldest record
is written to the fault queue; the driver's answers let a warp go on, make it trap or discard its gang; a request names
teams; an invalidation drops what it names once its walks are over; a request of another device is performed or gets
the error outcome. The model's choices: the order of the records (log 78), the details of RESUME, whose answer waits where
it cannot act (log 77), records that nothing waits for (log 52), the requests of other devices as an input (log 82), the
data bits of an error outcome (log 6), what the TLB keeps (log 25), and an engine's requests (logs 95, 118). -/
def Obligations.TheDriverTranslatesAndAnswers : Prop :=
  (∀ s id k, s.walks.find? (fun k => k.id == id && k.result.isNone) = some k →
    let c := getCtx (getPartition s k.part) k.ctx
    let out := walkTables s c k.va
    (∀ a ∈ walkOwn s (ownTableWord s) k.va 4 (c.ptroot.toNat / 4096 * 4096),
      Place.waits s (.walk k.id) false ⟨a, false⟩ = false) →
    (∀ va size pa attr, out = .page va size pa attr → Becomes (.pageWalk id) s (fun t => MemoryKept s t ∧
      t.tlb = ⟨k.who, k.part, k.ctx, va, size, pa, attr⟩ :: s.tlb ∧ ∀ j ∈ t.walks, j.id ≠ k.id)) ∧
    (∀ l, out = .fault l ∨ out = .bad l → Becomes (.pageWalk id) s (fun t => MemoryKept s t ∧ t.tlb = s.tlb ∧
      ∃ j ∈ t.walks, j.id = k.id ∧ j.result = some (if out = .fault l then .fault l else .bad l)))) ∧
  (∀ s (c : Ctx) va, walkTables s c va = walkFrom s (ownTableWord s) va 4 (c.ptroot.toNat / 4096 * 4096)) ∧
  (∀ s va level table, level ≤ 4 →
    let out := walkFrom s (ownTableWord s) va level table
    let row := [(16, 32), (21, 512), (30, 512), (39, 512), (48, 512)].getD level (0, 1)
    let size := 2 ^ row.1
    let pa := table + 8 * (va / size % row.2)
    let good (x : TableWord) : Prop := ∃ w, x = .word w ∧ w.isGood = true
    (tableWord s pa ≠ .wait → tableWord s (pa + 4) ≠ .wait → ¬ (good (tableWord s pa) ∧ good (tableWord s (pa + 4))) →
      out = .bad level) ∧
    ∀ lo hi, tableWord s pa = .word lo → tableWord s (pa + 4) = .word hi → lo.isGood = true → hi.isGood = true →
      let e : Nat := lo.data.toNat + 2 ^ 32 * hi.data.toNat
      let f (top low : Nat) : Nat := e / 2 ^ low % 2 ^ (top + 1 - low)
      let adr := 256 * f 51 8
      let set_ : Prop := f 63 52 ≠ 0 ∨ f 7 7 ≠ 0 ∨ f 2 2 ≠ 0
      let leafOk : Prop := level ≤ 2 ∧ adr % size = 0
      let pointerOk : Prop := level ≠ 0 ∧ f 6 3 = 0 ∧ (level = 1 ∨ f 11 8 = 0)
      (set_ → out = .bad level) ∧
      (¬ set_ → f 0 0 = 0 → out = .fault level) ∧
      (¬ set_ → f 0 0 = 1 → f 1 1 = 1 → (leafOk → ∃ a, out = .page (va / size * size) size adr a ∧ a.pa = decide (f 6 6 = 1) ∧
          a.fal = decide (f 5 5 = 1) ∧ a.ms = decide (f 4 4 = 1) ∧ a.ro = decide (f 3 3 = 1)) ∧
        (¬ leafOk → out = .bad level)) ∧
      (¬ set_ → f 0 0 = 1 → f 1 1 = 0 → (pointerOk → out = walkFrom s (ownTableWord s) va (level - 1) adr) ∧
        (¬ pointerOk → out = .bad level))) ∧
  (∀ s part r rest, tsorted s.partitions = true →
    let p := getPartition s part
    p.recs = r :: rest → p.fqen = true → p.fqFull = false → placesBusy s (.engine 0) true (recordPlaces p) = false →
    Becomes (.faultRecordWrite part) s (fun t => (getPartition t part).recs = rest ∧
      (getPartition t part).fqtail = (p.fqtail + 1) % 2 ^ p.fqLog ∧
      Wrote s t ((recordPlaces p).zip ((r.written (freeToken p)).map good)) ∧
      (r.answered = true → ∃ o ∈ (getPartition t part).outstanding, o.token = freeToken p ∧ o.rec_ = r) ∧
      (p.fqie = true → p.fqtail = p.fqhead.toNat % 2 ^ p.fqLog →
        tget? t.interrupts part = some (tget s.interrupts part 0 + 1)))) ∧
  (∀ s part v, deviceReady s = true → tsorted s.partitions = true →
    let p := getPartition s part
    Becomes (.fqhead part v) s (fun t => (getPartition t part).fqhead = v ∧ MemoryKept s t) ∧
    (∀ r uid n w, outstanding? s part v = some r → bits v 24 6 = 0 → r.src = .warp uid n → findWarp? s uid = some w →
      stoppedBy w r.id = true →
      let answered (t : State) : Prop := ∀ o ∈ (getPartition t part).outstanding, o.rec_.id ≠ r.id
      (bits v 30 2 = 0 → r.type ≠ 5 → Becomes (.resumeRetry part v) s (fun t => answered t ∧ MemoryKept s t ∧
        findWarp? t uid = some { w with stop := .running })) ∧
      (∀ y, bits v 30 2 = 1 → r.type ≠ 3 → r.type ≠ 5 → isResident s w = true → mxInFlight s uid = false →
        w.slot? n = some y → w.trap = none →
        (∀ j ∈ [60, 61, 62, 63], tget? (flushWindow s w).upsets (regBank s w + sKey j) ≠ some true) →
        Becomes (.resumeError part v) s (fun t => answered t ∧ MemoryKept s t ∧
          ∃ u, findWarp? t uid = some u ∧ u.stop = .running ∧ u.trap.isSome ∧ u.cause = 6 ∧ u.tval = r.words.getD 2 0)) ∧
      (bits v 30 2 = 1 → r.type ≠ 3 → r.type ≠ 5 → isResident s w = false ∨ mxInFlight s uid = true →
        Becomes (.resumeError part v) s (fun t => MemoryKept s t ∧ ∃ o ∈ (getPartition t part).outstanding, o.rec_ = r ∧
          o.act = some 1)) ∧
      (bits v 30 2 = 2 → exec (.resumeDiscard part v) s = .next (dropRecord (discardGang s w.team) part r.id))) ∧
    (∀ m, s.teams.filter (fun t => t.place == .resident && (findGrid? s t.grid).elim false (fun g => g.part == part &&
        g.launch == p.prlaunch) && (p.prteam == 0xFFFFFFFF || t.lin == p.prteam.toNat)) = [m] →
      findTeam? s m.uid = some m → m.decision = .none → teamFrozen s m = false →
      estimate s m (nominal s v.toNat) = .save → Becomes (.prdead part v) s (fun t => findTeam? t m.uid =
        some { m with decision := .save, deadline := v.toNat, halting := true, reserve := shadowFree s m })) ∧
    (p.invbusy = false → ∀ i ∈ [(Instr.invctlPage part v, 0, InvKind.page p.invva.toNat (v.getLsbD 3)),
        (.invctlContext part v, 1, .ctx (v.getLsbD 3)), (.invctlAll part v, 2, .all)], bits v 0 2 = i.2.1 →
      Becomes i.1 s (fun t => (getPartition t part).invbusy = true ∧ MemoryKept s t ∧ t.invals = s.invals ++
        [{ id := s.nextId, part := part, kind := i.2.2, walks := openWalks s part, byHost := true }]))) ∧
  (∀ s id v, s.invals.find? (fun v => v.id == id) = some v → invalDue s v = true → tsorted s.partitions = true →
    Becomes (.invalidationCompletes id) s (fun t => (∀ e ∈ t.tlb, e ∈ s.tlb ∧ ¬ (e.part = v.part ∧
        v.kind.names e.ctx e.va e.size = true)) ∧ MemoryKept s t ∧
      (∀ w ∈ t.warps, ∀ n y, w.slot? n = some y → y.block ≠ .tlbi id) ∧
      (v.byHost = true → (getPartition t v.part).invbusy = false))) ∧
  (∀ s r, FabReq.wellFormed r = true → (∀ f ∈ s.fabFrozen, f.1 ≠ r.src) →
    let failed (t : State) : Prop := ∃ a, t.fabReplies = s.fabReplies ++ [a] ∧ a.device = r.src ∧
      (∀ n, r.kind = .read n → a.words.length = n ∧ ∀ w ∈ a.words, w.isPoisoned = true) ∧
      (∀ ws, r.kind = .write ws → a.words = [] ∧ MemoryKept s t)
    (r.src ∈ s.lost ∨ importCtx? (getPartition s (FabReq.part r)) = none → Becomes (.fabricRequest r) s failed) ∧
    (∀ ctx l, r.src ∉ s.lost → importCtx? (getPartition s (FabReq.part r)) = some ctx →
      placesOf s (656 + FabReq.part r) (FabReq.part r) ctx (FabReq.writes r) (fabVas s r) = .ok l →
      placesBusy s (.fabric r.src) false (fabTables s r ctx) = false →
      placesBusy s (.fabric r.src) (FabReq.writes r) (l.map (·.2)) = false →
      (∀ n, r.kind = .read n → Becomes (.fabricRequest r) s (fun t => ∃ a, t.fabReplies = s.fabReplies ++ [a] ∧
        a.device = r.src ∧ a.words = l.map (fun p => placeRead s p.2))) ∧
      (∀ ws, r.kind = .write ws → Becomes (.fabricRequest r) s (fun t => Wrote s t ((l.map (·.2)).zip ws) ∧
        ∃ a, t.fabReplies = s.fabReplies ++ [a] ∧ a.device = r.src ∧ a.words = []))))

/-- R344, R356, R360 to R370: a register takes and returns what is written, the MGC's only with management rights; the host
writes and reads device memory within its ranges and freezes the stream outside them; a lost link marks what includes
its device; pages are retired; recorders are read and lost with standby power; reports and images are made and staged;
the clock steps with power; a trip removes the supply; a reset starts the device again and its quads come up one after
another. The model's choices: the keys and images of the factory (log 4), registers before READY and the details of the
windows (logs 79, 80), the SZL's freeze (log 81), links and their ports (log 83), what a lost device ends (log 84), the
details of reports and of staging, and what the operator commands (log 85), what a reset keeps (log 86), a retirement in
one step (log 87), and an engine's recalls before its access (log 95). -/
def Obligations.TheHostAndTheFleetManage : Prop :=
  (∀ s mgmt part v, part < 16 → deviceReady s = true → tsorted s.partitions = true →
    ∀ o ∈ [0x40, 0x44, 0x4C, 0x58, 0x64, 0x68, 0x78, 0x7C, 0x80, 0x84, 0x90, 0x94, 0x98, 0x9C],
      Becomes (.registerWrite mgmt (BitVec.ofNat 24 (part * 0x10000 + o)) v) s (fun t =>
        registerRead t mgmt (part * 0x10000 + o) = v ∧ MemoryKept s t)) ∧
  (∀ s off v, 0x100000 ≤ off.toNat → exec (.registerWrite false off v) s = .next s ∧ registerRead s false off.toNat = 0) ∧
  (∀ s pa ws, s.szl = .open_ → pa % 4 = 0 → 1 ≤ ws.length → pa + 4 * ws.length ≤ hbmEnd →
    let places := (List.range ws.length).map (fun j => (⟨pa + 4 * j, false⟩ : Place))
    ((∀ j < ws.length, hostAllowed s true (pa + 4 * j) = true) → placesBusy s .host true places = false →
      Becomes (.hostWrite pa ws) s (fun t => t.szl = .open_ ∧ Wrote s t (places.zip (ws.map good)))) ∧
    ((∃ j < ws.length, hostAllowed s true (pa + 4 * j) = false) →
      Becomes (.hostWrite pa ws) s (fun t => t.szl ≠ .open_ ∧ MemoryKept s t))) ∧
  (∀ s pa n, s.szl = .open_ → pa % 4 = 0 → 1 ≤ n → pa + 4 * n ≤ hbmEnd →
    let places := (List.range n).map (fun j => (⟨pa + 4 * j, false⟩ : Place))
    (∀ j < n, hostAllowed s false (pa + 4 * j) = true) → placesBusy s .host false places = false →
    Becomes (.hostRead pa n) s (fun t => t.hostReply = places.map (fun p =>
      if (placeRead s p).isGood then placeRead s p else poison (placeRead s p)))) ∧
  (∀ s port peer, port < 16 → peer < 1024 → Becomes (.thilosLinkDown port peer) s (fun t => MemoryKept s t ∧
    (peer ∉ s.lost → t.lost = s.lost ++ [peer] ∧ ∀ k ∈ s.colls, collNames s k peer = true →
      { k with failed := true } ∈ t.colls) ∧
    (peer ∈ s.lost → t.lost = s.lost ∧ t.colls = s.colls ∧ t.pods = s.pods) ∧
    ((getRecorder s (4 + port % 2)).frz = false → (getRecorder t (4 + port % 2)).entries.head? =
      some ⟨0x0F, port, s.cycle, BitVec.ofNat 32 peer⟩))) ∧
  (∀ s v, bits v 24 8 = 0 → s.mgc.retiring = none → bits v 0 24 < 9830400 → bits v 0 24 ∉ s.mgc.retired →
    s.mgc.retired.length < 8192 → Becomes (.retire true v) s (fun t => t.mgc.retiring = some (bits v 0 24) ∧
      MemoryKept s t)) ∧
  (∀ s page, s.mgc.retiring = some page → s.mgc.retireQueue = [] → Becomes .retirementCompletes s (fun t =>
    t.mgc.retired = s.mgc.retired ++ [page] ∧ t.mgc.retiring = none ∧ page ∉ t.mgc.fallow ∧ MemoryKept s t)) ∧
  (∀ s v, Becomes (.eridx true v) s (fun t => t.mgc.eridx = v ∧ t.mgc.erdata =
    if s.mgc.ersel.toNat < 6 then entryWords s s.mgc.ersel.toNat v.toNat else [0, 0, 0, 0])) ∧
  (∀ s, exec .standbyPowerLoss s = .next { s with recorders := [] }) ∧
  (∀ s v, s.mgc.attbusy = false → v.getLsbD 0 = true → Becomes (.attestationGo true v) s (fun t =>
    t.mgc.attbusy = true ∧ t.mgc.attdone = false ∧ t.mgc.attfail = false ∧ MemoryKept s t)) ∧
  (∀ s, s.mgc.attbusy = true → let base := s.mgc.attva.toNat
    (base % 4096 ≠ 0 ∨ hbmEnd ≤ base → Becomes .attestationDone s (fun t => t.mgc.attbusy = false ∧
      t.mgc.attfail = true ∧ MemoryKept s t)) ∧
    (base % 4096 = 0 → base < hbmEnd → placesBusy s (.engine 0) true (placesAt base 161) = false → Becomes .attestationDone s (fun t =>
      t.mgc.attbusy = false ∧ t.mgc.attdone = true ∧ (s.hbm.wf = true → pageDead s (pageOfLine (base / 128)) = false →
        ∀ j < 16, t.hbm.word (base / 4 + 32 + j) = good (digestWord Config.identityDigest j))))) ∧
  (∀ s v, s.mgc.fwbusy = false → v.getLsbD 0 = true → Becomes (.firmwareStage true v) s (fun t =>
    t.mgc.fwbusy = true ∧ t.mgc.fwtype = v.extractLsb' 4 4 ∧ t.mgc.fwdone = false ∧ t.mgc.fwfail = false)) ∧
  (∀ s, s.mgc.fwbusy = true → stageable s.mgc = true →
    let m := s.mgc
    let ps := placesAt m.fwva.toNat ((m.fwlen.toNat + 3) / 4)
    let out := Config.imageVerdict m.fwtype.toNat (trimImage m.fwlen.toNat (ps.map (placeRead s)))
    placesBusy s (.engine 0) false ps = false →
    (tsorted m.fusedMin = true → ∀ n < 4, fusedMinimum m n ≤ fusedMinimum (raiseFused s).mgc n) ∧
    (∀ x, out = some x → fusedMinimum (raiseFused s).mgc m.fwtype.toNat ≤ x.1 → Becomes .firmwareStagingDone s (fun t =>
      t.mgc.fwbusy = false ∧ t.mgc.fwdone = true ∧ tget? t.mgc.staged m.fwtype.toNat = some x)) ∧
    (out = none ∨ (∃ x, out = some x ∧ x.1 < fusedMinimum (raiseFused s).mgc m.fwtype.toNat) → Becomes .firmwareStagingDone s (fun t => t.mgc.fwbusy = false ∧ t.mgc.fwfail = true ∧
      t.mgc.staged = m.staged))) ∧
  (∀ s, s.szl = .frozenNoRange → exec (.szlrel true 1) s = .next { s with szl := .open_ }) ∧
  (∀ s watts temp, s.mgc.lastCheck + micros s 1000 ≤ s.cycle →
    (powerLimit s.mgc < watts ∨ 105 < temp → s.mgc.clockStep < 8 → Becomes (.powerCheck watts temp) s (fun t =>
      t.mgc.clockStep = s.mgc.clockStep + 1 ∧ t.mgc.calm = 0 ∧ t.mgc.lastCheck = s.cycle ∧ MemoryKept s t)) ∧
    (100 * watts < 95 * powerLimit s.mgc → temp < 100 → s.mgc.calm = 9 → s.mgc.clockStep ≠ 0 →
      Becomes (.powerCheck watts temp) s (fun t => t.mgc.clockStep = s.mgc.clockStep - 1 ∧ t.mgc.calm = 0))) ∧
  (∀ s thermal v, s.mgc.trip = false → (if thermal then 115 < v else v < 655 ∨ 695 < v) →
    Becomes (.trip thermal v) s (fun t => t.mgc.trip = true ∧ (∀ q, (getQuad t q).powered = false) ∧ MemoryKept s t)) ∧
  (∀ s cause, cause < 4 → Becomes (.reset cause) s (fun t => t.cycle = 0 ∧ t.warps = [] ∧ t.teams = [] ∧ t.grids = [] ∧
    t.ops = [] ∧ t.quads = [] ∧ t.partitions = [] ∧ t.mgc.retired = s.mgc.retired ∧ t.host = s.host ∧
    t.hbm = if cause = 0 then Mem.empty else s.hbm)) ∧
  (∀ s quad, quad < 96 → (∀ q < quad, (getQuad s q).powered = true) → micros s (2 * quad) ≤ s.cycle → s.mgc.trip = false →
    Becomes (.quadPowerUp quad) s (fun t => (getQuad t quad).powered = true ∧ MemoryKept s t))


/-! ### Encoding, steps and reset -/

/-- R157 to R172: the decoder reads from the encoding of a well-formed instruction, whatever bytes follow it, that very
instruction; and what it reads from bytes has its encoding at their head. -/
def Obligations.DecodingUndoesEncoding : Prop :=
  (∀ i rest, i.wf = true → Instruction i → decode ((encode i).flatMap bytesOfWord ++ rest) = .ok i) ∧
  (∀ bytes i, decode bytes = .ok i → Instruction i ∧ ∃ rest, parcelsOfBytes bytes = encode i ++ rest)

/-- R159, R165, R171, and the words that the spec writes out: eleven of them decode to the instructions they stand for. -/
def Obligations.WordsOfTheSpecDecode : Prop :=
  ∀ p ∈ ([([0x00000C01, 0x00800306], .add ⟨.i32, some ⟨12, 3, false⟩, .v 3, .v 1, .v 2⟩),
    ([0x84C80C01, 0, 2], .shl ⟨.n32, none, .v 3, .v 1, .lit 2⟩),
    ([0x08003001, 0x0090C000], .cmp ⟨.lt, .i32, none, .v 12, 3, .v 1, .v 2⟩),
    ([0x9C400000, 0x00024300, 7], .brc ⟨some ⟨12, 0, false⟩, 7, 9⟩),
    ([0x1D800105, 0xFFFF8000], .loop ⟨5, .short 0x3FFFE⟩),
    ([0x42080102, 0x50110304], .halfAdd ⟨8, 1, 2, 0x50110304⟩),
    ([0x10C05015, 0x05850000], .ffma ⟨.f32, none, 20, .v 21, .v 22, 20⟩),
    ([0x2843FFFF, 0xFC0FC000], .wait ⟨63, 0, 63, 63, 63, 63⟩),
    ([0x3000010B, 0x43400000], .mma ⟨.bf16, 0, none, 11, 13⟩),
    ([0x38400D06, 0], .sld ⟨0, 6, 3⟩),
    ([0xBA000000, 0, 0x0060CC11], .sigchk 0x0060CC11)] : List (List Word × Instr)),
    decode (p.1.flatMap bytesOfWord) = .ok p.2

/-- R12, R157, R158, R163, R334: a step of a scheduler makes the slot that R334 picks issue the instruction that stands
at its program counter: the parcels that translate and lie there, read by the decoder, or the illegal word that they
are; where none of them is read over the fabric from the device itself, nothing else happens first. A step of an event makes
that event happen. Of warps placed in one cycle the one of the lowest slot is picked (log 127). -/
def Obligations.AStepRunsTheDecodedInstruction : Prop :=
  ∀ s rest,
    (∀ dt core sched, nextMove s = (.issue dt core sched, rest) → s.mgc.trip = false →
      let u := advance { s with tick := s.tick + 1, agenda := rest, cur := none } dt
      (pickSlot u core sched = none → step s = afterMove (.next u)) ∧
      (∀ w n x v, pickSlot u core sched = some (w, n, x) → findWarp? (startIssue u w n x) w.uid = some v →
        let t := startIssue u w n x
        let va (k : Nat) : Nat × DWord := (k, codeBase t v + 4 * (x.pc.setWidth 64 + BitVec.ofNat 64 k))
        ∀ a b, warpXlats t v (fun _ _ => false) [va 0, va 1] = .ok [a, b] →
          let p0 := fetchWord t a.2.2.1
          let runs (l : List (Nat × DWord × Nat × Attr)) : Prop :=
            let ps := l.map (fun p => fetchWord t p.2.2.1)
            let at_ : List Place := l.map (fun p => ⟨p.2.2.1, false⟩)
            let u := ownDone t (.warp v.uid n) (.read 1) at_ t
            (∀ p ∈ at_, Place.waits t (.warp v.uid n) false p = false) →
            (∀ i, decodeParcels ps = .ok i → step s = afterMove (exec i u)) ∧
            (∀ e, decodeParcels ps = .error e → step s = afterMove (exec (.illegalInstructionWord ⟨p0, ps.drop 1⟩) u)) ∧
            ((∀ p ∈ at_, ownFabric p.pa = false) → u = t)
          (formParcels p0 = 2 → runs [a, b]) ∧
          (formParcels p0 = 3 → ∀ d e f, warpXlats t v (fun _ _ => false) [va 0, va 1, va 2] = .ok [d, e, f] →
            fetchWord t d.2.2.1 = p0 → (∀ p ∈ [a, b], Place.waits t (.warp v.uid n) false ⟨p.2.2.1, false⟩ = false) →
            runs [d, e, f]))) ∧
    (∀ dt e, nextMove s = (.event dt e, rest) → s.mgc.trip = false →
      step s = afterMove (exec e (advance { s with tick := s.tick + 1, agenda := rest, cur := none } dt)))

/-- Between steps no slot is issuing, and a slot has a time since which it is ready exactly while it is ready: every
step leaves it so, from any state (R33, R334; the field `readySince` is the model's). -/
def Obligations.StepsKeepReadyTimes : Prop := ∀ s t, step s = .next t → t.settled

/-- HBM, host memory and the banked store stay in canonical form, so that equal memories are equal data: every step
keeps it (R4, R139; the form is the model's). -/
def Obligations.StepsKeepMemoriesCanonical : Prop := ∀ s t, s.memWf = true → step s = .next t → t.memWf = true

/-- R323, R344, R351, R360, R361, R365, R366: after reset every register of every partition's window and of the MGC that has a
reset value reads it: 0, and 0x960 for PLIM; the memories list nothing, no warp, team, grid, operation or message is there, no
quad is up, and the invariants hold that every step keeps. -/
def Obligations.ResetGivesValuesAndMeetsTheInvariants : Prop :=
  (∀ part < 16, ∀ o ∈ [0x40, 0x44, 0x48, 0x4C, 0x50, 0x58, 0x64, 0x68, 0x70, 0x78, 0x7C, 0x80, 0x84, 0x90, 0x94, 0x98,
      0x9C, 0x200, 0x208, 0x20C, 0x210, 0x214, 0x600, 0x608, 0x60C, 0x610, 0x614],
    registerRead State.reset true (part * 0x10000 + o) = 0) ∧
  (∀ part < 16, ∀ q < 64, registerRead State.reset true (part * 0x10000 + 0x1008 + 32 * q) = 0) ∧
  (∀ part < 16, ∀ c < 2, ∀ i < 16, ∀ j < 8,
    registerRead State.reset true (part * 0x10000 + 0x400 + 0x400 * c + 32 * i + 4 * j) = 0) ∧
  (∀ o ∈ [0x100010, 0x100014, 0x100020, 0x100024, 0x100028, 0x100034, 0x100040, 0x100044, 0x100048, 0x10004C, 0x100050,
      0x100054, 0x100080, 0x100084, 0x100088, 0x100090, 0x100094, 0x100098, 0x10009C, 0x1000A0, 0x1000C4, 0x100100,
      0x100108, 0x10010C, 0x100110, 0x100114, 0x100118, 0x10011C, 0x100200, 0x100204, 0x100208, 0x10020C, 0x100210],
    registerRead State.reset true o = 0) ∧
  (∀ i < 8, ∀ o ∈ [0x100220, 0x100224, 0x100228, 0x100300, 0x100304, 0x100308],
    registerRead State.reset true (o + 16 * i) = 0) ∧
  registerRead State.reset true 0x1000C0 = 0x960 ∧
  State.reset.memWf = true ∧ State.reset.settled ∧ State.reset.hbm = Mem.empty ∧ State.reset.store = Mem.empty ∧
  State.reset.host = Mem.empty ∧ State.reset.warps = [] ∧ State.reset.teams = [] ∧ State.reset.grids = [] ∧
  State.reset.ops = [] ∧ State.reset.flying = [] ∧ (∀ q < 96, (getQuad State.reset q).powered = false) ∧
  deviceReady State.reset = false
end

