-- ==== Sys2Proof/Laws/Issue.lean ====
section
/-! SUPPORT. What issuing an instruction gives (Machine/Issue.lean), said once. -/

namespace Sys2Proof.Machine

open Sys2Proof

/-- With no error in the banks nothing is found or corrected there. -/
theorem doubleError_none {c : Cx} (h : c.pre.upsets = []) : c.doubleError? = none := by
  simp [Cx.doubleError?, h]

theorem correctErrors_none {c : Cx} (h : c.pre.upsets = []) : c.correctErrors = c.pre := by
  simp [Cx.correctErrors, h]

/-- An instruction that nothing keeps from executing has its effect. -/
theorem issueWith_issues {i : Instr} {s : State} {w : Warp} {n : Bool} {x : Slot} (h : Issues i s w n x)
    {early : Cx → Bool} (he : early (finds s w n x i) = false) (body : Cx → Eff) :
    issueWith early i body s = .next ((body (finds s w n x i)).finish (finds s w n x i)) := by
  have hd : (Cx.make s w n x i).doubleError? = none := doubleError_none h.noUpset
  have hc : (Cx.make s w n x i).correctErrors = s := correctErrors_none h.noUpset
  simp only [issueWith, h.cur, h.warp, h.slot]
  rw [h.free, he]
  simp only [Bool.or_self, h.noReport, issueChecked, h.limits, h.role, h.privilege, hd, hc]
  simp

theorem issue_issues {i : Instr} {s : State} {w : Warp} {n : Bool} {x : Slot} (h : Issues i s w n x) (body : Cx → Eff) :
    issue i body s = .next ((body (finds s w n x i)).finish (finds s w n x i)) :=
  issueWith_issues h rfl body

/-- Results and flags that no enabled trap meets enter the state. -/
theorem finish_write (s : State) (w : Warp) (n : Bool) (x : Slot) (i : Instr) (ws : List (Nat × Word)) (fl : Word)
    (h : fl &&& w.trapen = 0) :
    (Eff.write ws fl).finish (finds s w n x i) = issued s w n x i ws fl := by
  have e : (fl &&& (finds s w n x i).preW.trapen != 0) = false := by simp [Cx.make, h]
  rw [Eff.finish, e]
  simp only [Bool.false_eq_true, if_false, issued]
  have hw : (finds s w n x i).w = countedWarp w n x i := rfl
  have hs : (finds s w n x i).s = setWarp s (countedWarp w n x i) := rfl
  have hu : (countedWarp w n x i).uid = w.uid := by
    cases n <;> simp [countedWarp, Warp.setSlot] 
  rw [hw, hs, hu]
  congr 1
  simp only [setWarp, List.map_map]
  congr 1
  apply List.map_congr_left
  intro a _
  simp only [Function.comp, hu]
  by_cases ha : a.uid == w.uid <;> simp [ha, hu]

/-- Results and flags that an enabled trap meets: the trap follows the results. -/
theorem finish_write_trap (s : State) (w : Warp) (n : Bool) (x : Slot) (i : Instr) (ws : List (Nat × Word)) (fl : Word)
    (h : fl &&& w.trapen ≠ 0) (hm : mxInFlight s w.uid = false) :
    (Eff.write ws fl).finish (finds s w n x i) = flagTrapped s w n i ws fl := by
  have e : (fl &&& (finds s w n x i).preW.trapen != 0) = true := by simpa [Cx.make] using h
  have m : mxInFlight (finds s w n x i).pre (finds s w n x i).preW.uid = false := hm
  rw [Eff.finish, e, m]
  rfl

/-- An instruction that acts lane by lane gives its lanes what its function says. -/
theorem givesLanes {i : Instr} {g : Guard} {d : Dst} {P : Cx → Nat → Res → Prop} {body : Cx → Eff} (f : Cx → Nat → Res)
    (hb : ∀ c, body c = c.lanewise g d (f c)) (he : ∀ s, exec i s = issue i body s)
    (hf : ∀ s w n x, Issues i s w n x → ∀ l, P (finds s w n x i) l (f (finds s w n x i) l)) : GivesLanes i g d P := by
  intro s w n x h
  refine ⟨f (finds s w n x i), hf s w n x h, ?_, ?_⟩
  · intro h0
    rw [he, issue_issues h, hb]
    exact congrArg _ (finish_write s w n x i _ _ h0)
  · intro h0 hm
    rw [he, issue_issues h, hb]
    exact congrArg _ (finish_write_trap s w n x i _ _ h0 hm)

end Sys2Proof.Machine
end

