-- ==== Sys2Proof/Laws/Elements.lean ====
section
/-! SUPPORT. Elements of packed values (09 R184) and the functions that act on them. -/

namespace Sys2Proof.Machine

open Sys2Proof

theorem elemAt_zero (w v : Nat) : elemAt w 0 v = v % 2 ^ w := by simp [elemAt]

theorem elemAt_succ (w k v : Nat) : elemAt w (k + 1) v = elemAt w k (v / 2 ^ w) := by
  simp only [elemAt, Nat.div_div_eq_div_mul, ← pow_add]
  congr 3
  ring

theorem elemAt_mod (w k v : Nat) : elemAt w k v % 2 ^ w = elemAt w k v := by simp [elemAt]

theorem elemAt_lt (w k v : Nat) : elemAt w k v < 2 ^ w := Nat.mod_lt _ (by positivity)

theorem elemMap_lt (w : Nat) (f : Nat → Nat → Nat × Word) (n a b : Nat) : (elemMap w f n a b).1 < 2 ^ (w * n) := by
  induction n generalizing a b with
  | zero => simp [elemMap]
  | succ n ih =>
    have h := ih (a / 2 ^ w) (b / 2 ^ w)
    have h0 := Nat.mod_lt (f (a % 2 ^ w) (b % 2 ^ w)).1 (show 0 < 2 ^ w by positivity)
    have e : 2 ^ (w * (n + 1)) = 2 ^ w * 2 ^ (w * n) := by rw [← pow_add]; congr 1; ring
    have h1 := Nat.mul_le_mul_left (2 ^ w) (Nat.succ_le_of_lt h)
    simp only [elemMap, e]
    rw [Nat.mul_succ] at h1
    omega

theorem elemMap_elem (w : Nat) (f : Nat → Nat → Nat × Word) (n a b k : Nat) (hk : k < n) :
    elemAt w k (elemMap w f n a b).1 = (f (elemAt w k a) (elemAt w k b)).1 % 2 ^ w := by
  induction n generalizing a b k with
  | zero => omega
  | succ n ih =>
    have h0 := Nat.mod_lt (f (a % 2 ^ w) (b % 2 ^ w)).1 (show 0 < 2 ^ w by positivity)
    cases k with
    | zero => simp [elemMap, elemAt_zero, Nat.add_mod]
    | succ k =>
      have := ih (a / 2 ^ w) (b / 2 ^ w) k (by omega)
      rw [elemAt_succ, elemAt_succ, elemAt_succ, ← this]
      congr 1
      simp only [elemMap]
      rw [Nat.add_mul_div_left _ _ (by positivity), Nat.div_eq_of_lt h0, Nat.zero_add]

theorem elemMap_flags (w : Nat) (f : Nat → Nat → Nat × Word) (n a b : Nat) :
    (elemMap w f n a b).2 = (List.range n).foldr (fun k m => (f (elemAt w k a) (elemAt w k b)).2 ||| m) 0 := by
  induction n generalizing a b with
  | zero => rfl
  | succ n ih =>
    rw [List.range_succ_eq_map, List.foldr_cons, List.foldr_map]
    simp only [elemMap, ih, elemAt_zero, Nat.succ_eq_add_one, elemAt_succ]

theorem wordsNat_d (v : Nat) (fl : Word) : wordsNat (Res.d (BitVec.ofNat 64 v) fl).words = v % 2 ^ 64 := by
  simp only [Res.d, lowWord, highWord, wordsNat, BitVec.extractLsb'_toNat, BitVec.toNat_ofNat]
  simp only [Nat.shiftRight_eq_div_pow]
  omega

theorem wordsNat_w (v : Nat) (fl : Word) : wordsNat (Res.w (BitVec.ofNat 32 v) fl).words = v % 2 ^ 32 := by
  simp [Res.w, wordsNat]

theorem tyBits (ty : IntTy) : tyWidth ty * tyCount ty = if ty.is64 then 64 else 32 := by cases ty <;> rfl

/-- The result of a type made from a value that fits it. -/
theorem tyRes_words (ty : IntTy) (x : Nat × Word) (h : x.1 < 2 ^ (tyWidth ty * tyCount ty)) :
    (tyRes ty x).words.length = wideN ty.is64 ∧ wordsNat (tyRes ty x).words = x.1 ∧ (tyRes ty x).flags = x.2 := by
  rw [tyBits] at h
  unfold tyRes wideN
  split <;> rename_i e <;> simp only [e] at h ⊢
  · exact ⟨rfl, by rw [wordsNat_d]; exact Nat.mod_eq_of_lt h, rfl⟩
  · exact ⟨rfl, by rw [wordsNat_w]; exact Nat.mod_eq_of_lt h, rfl⟩

/-- A result built element by element is what its elements' function says. -/
theorem elemsAre (ty : IntTy) (f F : Nat → Nat → Nat × Word) (a b : Nat)
    (h : ∀ x y, x < 2 ^ tyWidth ty → y < 2 ^ tyWidth ty → (f x y).1 % 2 ^ tyWidth ty = (F x y).1 ∧ (f x y).2 = (F x y).2) :
    ElemsAre (tyWidth ty) (tyCount ty) (wideN ty.is64) F a b (tyRes ty (elemMap (tyWidth ty) f (tyCount ty) a b)) := by
  obtain ⟨h1, h2, h3⟩ := tyRes_words ty _ (elemMap_lt (tyWidth ty) f (tyCount ty) a b)
  refine ⟨h1, fun k hk => ?_, ?_⟩
  · rw [h2, elemMap_elem _ _ _ _ _ _ hk]
    exact (h _ _ (elemAt_lt ..) (elemAt_lt ..)).1
  · rw [h3, elemMap_flags]
    congr 1
    funext k m
    rw [(h _ _ (elemAt_lt ..) (elemAt_lt ..)).2]

end Sys2Proof.Machine
end

