-- ==== Sys2Proof/Laws/Encoding.lean ====
section
/-! SUPPORT. Fields of an encoding read back: registers, guards, codes and whole words. -/

namespace Sys2Proof

/-! ### Bits of joined fields -/

theorem extract_low {a b : Nat} (x : BitVec a) (y : BitVec b) : (x ++ y).extractLsb' 0 b = y := by
  apply BitVec.eq_of_getLsbD_eq
  intro i hi
  simp only [BitVec.getLsbD_extractLsb', hi, decide_true, Bool.true_and, Nat.zero_add, BitVec.getLsbD_append, if_true]

theorem extract_high {a b : Nat} (x : BitVec a) (y : BitVec b) : (x ++ y).extractLsb' b a = x := by
  apply BitVec.eq_of_getLsbD_eq
  intro i hi
  simp only [BitVec.getLsbD_extractLsb', hi, decide_true, Bool.true_and, BitVec.getLsbD_append]
  rw [if_neg (by omega), Nat.add_sub_cancel_left]

/-- A field of the lower part of a join. -/
theorem extract_append_low {a b : Nat} (x : BitVec a) (y : BitVec b) (i n : Nat) (h : i + n ≤ b) :
    (x ++ y).extractLsb' i n = y.extractLsb' i n := by
  apply BitVec.eq_of_getLsbD_eq
  intro j hj
  simp only [BitVec.getLsbD_extractLsb', hj, decide_true, Bool.true_and, BitVec.getLsbD_append]
  rw [if_pos (by omega)]

/-- A field of the upper part of a join. -/
theorem extract_append_high {a b : Nat} (x : BitVec a) (y : BitVec b) (i n : Nat) (h : b ≤ i) :
    (x ++ y).extractLsb' i n = x.extractLsb' (i - b) n := by
  apply BitVec.eq_of_getLsbD_eq
  intro j hj
  simp only [BitVec.getLsbD_extractLsb', hj, decide_true, Bool.true_and, BitVec.getLsbD_append]
  rw [if_neg (by omega)]
  congr 1
  omega

theorem extract_all {n : Nat} (x : BitVec n) : x.extractLsb' 0 n = x := by
  apply BitVec.eq_of_getLsbD_eq
  intro i hi
  simp [hi]

/-! ### Registers and guards -/

theorem decS_encS : ∀ j : SReg, decS (encS j) = j := by decide
theorem decSD_encSD : ∀ j : SReg, decSD (encSD j) = j := by decide
theorem decV_encV (k : VReg) : decV (encV k) = k := extract_low 0#2 k
theorem decVD_encVD (k : VReg) : decVD (encVD k) = k := extract_low 0#1 k

theorem Src.dec_enc (a : Src) (h : a.isLit = false) : Src.dec a.enc = a := by
  cases a with
  | lit w => cases h
  | v k => simp only [Src.enc, Src.dec, extract_low, extract_high]; rfl
  | left k => simp only [Src.enc, Src.dec, extract_low, extract_high]; rfl
  | right k => simp only [Src.enc, Src.dec, extract_low, extract_high]; rfl
  | s j =>
    have e : (1#2 ++ (0#2 ++ j)).extractLsb' 0 6 = j := by
      rw [extract_append_low _ _ _ _ (by omega)]; exact extract_low 0#2 j
    simp only [Src.enc, Src.dec, e, extract_high]; rfl

theorem Dst.dec_enc (d : Dst) : Dst.dec d.enc = d := by
  cases d with
  | v k =>
    have e : (0#1 ++ k).getLsbD 8 = false := by rw [BitVec.getLsbD_append, if_neg (by omega)]; rfl
    simp only [Dst.enc, Dst.dec, e, extract_low]; rfl
  | s j =>
    have e : (1#1 ++ (0#2 ++ j)).getLsbD 8 = true := by rw [BitVec.getLsbD_append, if_neg (by omega)]; rfl
    have f : (1#1 ++ (0#2 ++ j)).extractLsb' 0 6 = j := by
      rw [extract_append_low _ _ _ _ (by omega)]; exact extract_low 0#2 j
    simp only [Dst.enc, Dst.dec, e, f]; rfl

theorem Dst.dec10_enc10 (d : Dst) : Dst.dec10 d.enc10 = d := by
  cases d with
  | v k =>
    have e : (0#2 ++ k).getLsbD 8 = false := by rw [BitVec.getLsbD_append, if_neg (by omega)]; rfl
    simp only [Dst.enc10, Dst.dec10, e, extract_low]; rfl
  | s j =>
    have e : (1#2 ++ (0#2 ++ j)).getLsbD 8 = true := by rw [BitVec.getLsbD_append, if_neg (by omega)]; rfl
    have f : (1#2 ++ (0#2 ++ j)).extractLsb' 0 6 = j := by
      rw [extract_append_low _ _ _ _ (by omega)]; exact extract_low 0#2 j
    simp only [Dst.enc10, Dst.dec10, e, f]; rfl

theorem Base.dec_enc (d : Base) : Base.dec d.enc = d := by
  cases d with
  | v k =>
    have e : (0#2 ++ k).getLsbD 8 = false := by rw [BitVec.getLsbD_append, if_neg (by omega)]; rfl
    simp only [Base.enc, Base.dec, e, extract_low]; rfl
  | s j =>
    have e : (1#2 ++ (0#2 ++ j)).getLsbD 8 = true := by rw [BitVec.getLsbD_append, if_neg (by omega)]; rfl
    have f : (1#2 ++ (0#2 ++ j)).extractLsb' 0 6 = j := by
      rw [extract_append_low _ _ _ _ (by omega)]; exact extract_low 0#2 j
    simp only [Base.enc, Base.dec, e, f]; rfl

theorem append_eq_zero {a b : Nat} {x : BitVec a} {y : BitVec b} (h : x ++ y = 0#(a + b)) : x = 0#a ∧ y = 0#b := by
  have h1 := congrArg (fun z => z.extractLsb' 0 b) h
  have h2 := congrArg (fun z => z.extractLsb' b a) h
  simp only [extract_low, extract_high] at h1 h2
  exact ⟨h2.trans (by simp), h1.trans (by simp)⟩

theorem decGuard_encGuard (g : Guard) (h : guardOk g = true) : decGuard (encGuard g) = g := by
  cases g with
  | none => rfl
  | some g =>
    obtain ⟨r, b, n⟩ := g
    have e1 : (r ++ b ++ BitVec.ofBool n).extractLsb' 6 8 = r := by
      rw [extract_append_high _ _ _ _ (by omega)]; exact extract_high r b
    have e2 : (r ++ b ++ BitVec.ofBool n).extractLsb' 1 5 = b := by
      rw [extract_append_high _ _ _ _ (by omega)]; exact extract_low r b
    have e3 : (r ++ b ++ BitVec.ofBool n).getLsbD 0 = n := by rw [BitVec.getLsbD_append]; cases n <;> rfl
    have e4 : (r ++ b ++ BitVec.ofBool n == 0#14) = false := by
      rw [beq_eq_false_iff_ne]
      intro h0
      have h1 := append_eq_zero (a := 13) (b := 1) h0
      have h2 := append_eq_zero (a := 8) (b := 5) h1.1
      cases n with
      | true => exact absurd h1.2 (by decide)
      | false => obtain ⟨rfl, rfl⟩ := h2; exact absurd h (by decide)
    simp only [encGuard, decGuard, e1, e2, e3]
    rw [if_neg (by rw [show ((r ++ b ++ BitVec.ofBool n == 0) = false) from e4]; decide)]

/-! ### Codes -/

theorem IntTy.ofCode_code (t : IntTy) : IntTy.ofCode t.code = t := by cases t <;> rfl
theorem FTy.ofCode_code (t : FTy) : FTy.ofCode t.code = t := by cases t <;> rfl
theorem Rnd.ofCode_code (t : Rnd) : Rnd.ofCode t.code = t := by cases t <;> rfl
theorem Fmt.ofCode_code (t : Fmt) : Fmt.ofCode t.code = t := by cases t <;> rfl
theorem Cond.ofCode_code (t : Cond) : Cond.ofCode t.code = t := by cases t <;> rfl
theorem Scope.ofCode_code (t : Scope) : Scope.ofCode t.code = t := by cases t <;> rfl
theorem Policy.ofCode_code (t : Policy) : Policy.ofCode t.code = t := by cases t <;> rfl
theorem Width.ofCode_code (t : Width) : Width.ofCode t.code = t := by cases t <;> rfl
theorem Order.ofCode_code (t : Order) : Order.ofCode t.code = t := by cases t <;> rfl
theorem Scale.ofCode_code (t : Scale) : Scale.ofCode t.code = t := by cases t <;> rfl
theorem AtomKind.ofCode_code (t : AtomKind) : AtomKind.ofCode t.code = t := by cases t <;> rfl
theorem MmaTy.ofCode_code (t : MmaTy) : MmaTy.ofCode t.code = t := by cases t <;> rfl
theorem DrainFmt.ofCode_code (t : DrainFmt) : DrainFmt.ofCode t.code = t := by cases t <;> rfl
theorem RedKind.ofCode_code (t : RedKind) : RedKind.ofCode t.code = t := by cases t <;> rfl
theorem BarKind.ofCode_code (t : BarKind) : BarKind.ofCode t.code = t := by cases t <;> rfl
theorem BarLevel.ofCode_code (t : BarLevel) : BarLevel.ofCode t.code = t := by cases t <;> rfl
theorem ShflMode.ofCode_code (t : ShflMode) : ShflMode.ofCode t.code = t := by cases t <;> rfl
theorem VoteKind.ofCode_code (t : VoteKind) : VoteKind.ofCode t.code = t := by cases t <;> rfl
theorem SelTy.ofCode_code (t : SelTy) : SelTy.ofCode t.code = t := by cases t <;> rfl

/-! ### Words and bytes -/

theorem wordOfBytes_bytesOfWord (w : Word) :
    wordOfBytes (w.extractLsb' 0 8) (w.extractLsb' 8 8) (w.extractLsb' 16 8) (w.extractLsb' 24 8) = w := by
  apply BitVec.eq_of_getLsbD_eq
  intro i hi
  simp only [wordOfBytes, BitVec.getLsbD_append, BitVec.getLsbD_extractLsb']
  split
  · simp_all
  · split
    · rw [show 8 + (i - 8) = i by omega]; simp_all
    · split
      · rw [show 16 + (i - 8 - 8) = i by omega]; simp_all
      · rw [show 24 + (i - 8 - 8 - 8) = i by omega]; simp_all; omega

/-- The parcels of the bytes of some words are those words. -/
theorem parcelsOfBytes_words (ps : List Word) (rest : List Byte) :
    parcelsOfBytes (ps.flatMap bytesOfWord ++ rest) = ps ++ parcelsOfBytes rest := by
  induction ps with
  | nil => rfl
  | cons p ps ih =>
    rw [List.flatMap_cons, List.append_assoc]
    simp only [bytesOfWord, List.cons_append, List.nil_append, parcelsOfBytes, wordOfBytes_bytesOfWord]
    rw [← ih]

/-- The form of a first parcel. -/
theorem Raw.form_p0 (r : Raw) : r.p0.extractLsb' 30 2 = if r.long then 2#2 else 0#2 := by
  simp only [Raw.p0]
  rw [extract_append_high _ _ _ _ (by omega), extract_append_high _ _ _ _ (by omega),
    extract_append_high _ _ _ _ (by omega), extract_append_high _ _ _ _ (by omega)]
  exact extract_all _

/-- A word's fields are read back from its parcels. -/
theorem Raw.ofParcels_parcels (r : Raw) (h : r.long = true ∨ r.lit = 0) :
    Raw.ofParcels r.p0 r.p1 (if r.long then some r.lit else none) = r := by
  obtain ⟨long, op, mod, dst, srca, srcb, x8, guard, lit⟩ := r
  have e1 : ∀ f : BitVec 2, (f ++ op ++ mod ++ dst ++ srca).extractLsb' 22 8 = op := fun f => by
    rw [extract_append_high _ _ _ _ (by omega), extract_append_high _ _ _ _ (by omega),
      extract_append_high _ _ _ _ (by omega)]
    exact extract_low f op
  have e2 : ∀ f : BitVec 2, (f ++ op ++ mod ++ dst ++ srca).extractLsb' 19 3 = mod := fun f => by
    rw [extract_append_high _ _ _ _ (by omega), extract_append_high _ _ _ _ (by omega)]
    exact extract_low (f ++ op) mod
  have e3 : ∀ f : BitVec 2, (f ++ op ++ mod ++ dst ++ srca).extractLsb' 10 9 = dst := fun f => by
    rw [extract_append_high _ _ _ _ (by omega)]
    exact extract_low (f ++ op ++ mod) dst
  have e4 : ∀ f : BitVec 2, (f ++ op ++ mod ++ dst ++ srca).extractLsb' 0 10 = srca := fun f =>
    extract_low (f ++ op ++ mod ++ dst) srca
  have e5 : (srcb ++ x8 ++ guard).extractLsb' 22 10 = srcb := by
    rw [extract_append_high _ _ _ _ (by omega)]; exact extract_high srcb x8
  have e6 : (srcb ++ x8 ++ guard).extractLsb' 14 8 = x8 := by
    rw [extract_append_high _ _ _ _ (by omega)]; exact extract_low srcb x8
  have e7 : (srcb ++ x8 ++ guard).extractLsb' 0 14 = guard := extract_low (srcb ++ x8) guard
  simp only [Raw.ofParcels, Raw.p0, Raw.p1, e1, e2, e3, e4, e5, e6, e7]
  cases long
  · simp_all
  · rfl

/-- The decoder reads from the parcels of a word, whatever follows them, the instruction whose word it is. -/
theorem decodeParcels_raw (r : Raw) (i : Instr) (rest : List Word) (hl : r.long = true ∨ r.lit = 0)
    (hr : r.read = some i) (hw : i.wf = true) (ht : i.toRaw = some r) : decodeParcels (r.parcels ++ rest) = .ok i := by
  have hd : decodeRaw r = .ok i := by simp [decodeRaw, hr, hw, ht]
  have hf := r.form_p0
  have hp := r.ofParcels_parcels hl
  cases hlong : r.long <;> rw [hlong] at hf hp <;>
    simp only [Raw.parcels, hlong, List.cons_append, List.nil_append, decodeParcels, hf, Bool.false_eq_true, if_false,
      if_true, BitVec.toNat_ofNat] <;> simp only [Bool.false_eq_true, if_false, if_true] at hp <;> simpa [hp] using hd

end Sys2Proof
end

