-- ==== Sys2Proof/Laws/Memory.lean ====
section
/-! SUPPORT. Tables and memories: reading after writing, and the canonical form that every memory operation keeps. -/

namespace Sys2Proof.Machine

open Sys2Proof

/-! ### Tables -/

theorem tget?_tset_self {α : Type} (t : Tab α) (k : Nat) (v : α) : tget? (tset t k v) k = some v := by
  induction t with
  | nil => simp [tset, tget?]
  | cons h t ih =>
    obtain ⟨j, w⟩ := h
    simp only [tset]
    split
    · simp [tget?]
    · split
      · simp [tget?]
      · rename_i h1 h2
        simp [tget?, h1, h2, ih]

theorem tget?_tset_ne {α : Type} (t : Tab α) {k l : Nat} (v : α) (h : l ≠ k) : tget? (tset t k v) l = tget? t l := by
  induction t with
  | nil => simp only [tset, tget?, Ne.symm h, if_false]; split <;> rfl
  | cons e t ih =>
    obtain ⟨j, w⟩ := e
    simp only [tset]
    split
    · simp only [tget?, Ne.symm h, if_false]
      split
      · rw [if_neg (by omega), if_pos (by omega)]
      · rfl
    · split
      · subst_vars; simp [tget?, Ne.symm h]
      · simp [tget?, ih]

theorem tsortedFrom_mono {α : Type} {t : Tab α} {a b : Nat} (h : tsortedFrom b t = true) (hab : a ≤ b) :
    tsortedFrom a t = true := by
  cases t with
  | nil => rfl
  | cons e t => simp_all [tsortedFrom]; omega

theorem tget?_none_of_sorted {α : Type} {t : Tab α} {lo k : Nat} (h : tsortedFrom lo t = true) (hk : k < lo) :
    tget? t k = none := by
  cases t with
  | nil => rfl
  | cons e t =>
    simp only [tsortedFrom, Bool.and_eq_true, decide_eq_true_eq] at h
    simp only [tget?]
    rw [if_neg (by omega), if_pos (by omega)]

theorem tget?_terase_self {α : Type} {t : Tab α} {lo : Nat} (h : tsortedFrom lo t = true) (k : Nat) :
    tget? (terase t k) k = none := by
  induction t generalizing lo with
  | nil => rfl
  | cons e t ih =>
    obtain ⟨j, w⟩ := e
    simp only [tsortedFrom, Bool.and_eq_true, decide_eq_true_eq] at h
    simp only [terase]
    split
    · simp only [tget?]; rw [if_neg (by omega), if_pos (by omega)]
    · split
      · subst_vars; exact tget?_none_of_sorted h.2 (by omega)
      · rename_i h1 h2; simp only [tget?, h2, if_false, h1]; exact ih h.2

theorem tget?_terase_ne {α : Type} {t : Tab α} {lo : Nat} (h : tsortedFrom lo t = true) {k l : Nat} (hl : l ≠ k) :
    tget? (terase t k) l = tget? t l := by
  induction t generalizing lo with
  | nil => rfl
  | cons e t ih =>
    obtain ⟨j, w⟩ := e
    simp only [tsortedFrom, Bool.and_eq_true, decide_eq_true_eq] at h
    simp only [terase]
    split
    · rfl
    · split
      · subst_vars
        simp only [tget?, Ne.symm hl, if_false]
        split
        · exact tget?_none_of_sorted h.2 (by omega)
        · rfl
      · simp only [tget?, ih h.2]

theorem tsortedFrom_tset {α : Type} {t : Tab α} {lo : Nat} (h : tsortedFrom lo t = true) {k : Nat} (hk : lo ≤ k) (v : α) :
    tsortedFrom lo (tset t k v) = true := by
  induction t generalizing lo with
  | nil => simp [tset, tsortedFrom, hk]
  | cons e t ih =>
    obtain ⟨j, w⟩ := e
    simp only [tsortedFrom, Bool.and_eq_true, decide_eq_true_eq] at h
    simp only [tset]
    split
    · simp only [tsortedFrom, Bool.and_eq_true, decide_eq_true_eq]; exact ⟨hk, by omega, h.2⟩
    · split
      · subst_vars; simp only [tsortedFrom, Bool.and_eq_true, decide_eq_true_eq]; exact ⟨hk, h.2⟩
      · simp only [tsortedFrom, Bool.and_eq_true, decide_eq_true_eq]; exact ⟨h.1, ih h.2 (by omega)⟩

theorem tsortedFrom_terase {α : Type} {t : Tab α} {lo : Nat} (h : tsortedFrom lo t = true) (k : Nat) :
    tsortedFrom lo (terase t k) = true := by
  induction t generalizing lo with
  | nil => rfl
  | cons e t ih =>
    obtain ⟨j, w⟩ := e
    have h' := h
    simp only [tsortedFrom, Bool.and_eq_true, decide_eq_true_eq] at h
    simp only [terase]
    split
    · exact h'
    · split
      · exact tsortedFrom_mono h.2 (by omega)
      · simp only [tsortedFrom, Bool.and_eq_true, decide_eq_true_eq]; exact ⟨h.1, ih h.2⟩

theorem tsorted_tput {α : Type} [DecidableEq α] {t : Tab α} (h : tsorted t = true) (k : Nat) (v d : α) :
    tsorted (tput t k v d) = true := by
  unfold tput tsorted at *
  split
  · exact tsortedFrom_terase h k
  · exact tsortedFrom_tset h (Nat.zero_le k) v

theorem tget_tput_self {α : Type} [DecidableEq α] {t : Tab α} (h : tsorted t = true) (k : Nat) (v d : α) :
    tget (tput t k v d) k d = v := by
  unfold tget tput
  split
  · rename_i e; rw [tget?_terase_self h]; exact e.symm
  · rw [tget?_tset_self]; rfl

theorem tget_tput_ne {α : Type} [DecidableEq α] {t : Tab α} (h : tsorted t = true) {k l : Nat} (v d e : α) (hl : l ≠ k) :
    tget (tput t k v d) l e = tget t l e := by
  unfold tget tput
  split
  · rw [tget?_terase_ne h hl]
  · rw [tget?_tset_ne _ _ hl]

theorem mem_terase {α : Type} {t : Tab α} {k : Nat} {x : Nat × α} (h : x ∈ terase t k) : x ∈ t := by
  induction t with
  | nil => exact h
  | cons e t ih =>
    obtain ⟨j, w⟩ := e
    simp only [terase] at h
    split at h
    · exact h
    · split at h
      · exact List.mem_cons_of_mem _ h
      · rcases List.mem_cons.mp h with h | h
        · exact h ▸ List.mem_cons_self
        · exact List.mem_cons_of_mem _ (ih h)

theorem mem_tset {α : Type} {t : Tab α} {k : Nat} {v : α} {x : Nat × α} (h : x ∈ tset t k v) : x = (k, v) ∨ x ∈ t := by
  induction t with
  | nil => simp_all [tset]
  | cons e t ih =>
    obtain ⟨j, w⟩ := e
    simp only [tset] at h
    split at h
    · simpa using h
    · split at h
      · rcases List.mem_cons.mp h with h | h
        · exact .inl h
        · exact .inr (List.mem_cons_of_mem _ h)
      · rcases List.mem_cons.mp h with h | h
        · exact .inr (h ▸ List.mem_cons_self)
        · rcases ih h with h | h
          · exact .inl h
          · exact .inr (List.mem_cons_of_mem _ h)

/-- No entry of the default. -/
theorem all_tput {α : Type} [DecidableEq α] {t : Tab α} {d : α} (h : ∀ x ∈ t, x.2 ≠ d) (k : Nat) (v : α) :
    ∀ x ∈ tput t k v d, x.2 ≠ d := by
  intro x hx
  unfold tput at hx
  split at hx
  · exact h x (mem_terase hx)
  · rcases mem_tset hx with rfl | hx
    · assumption
    · exact h x hx

/-! ### The canonical form of a memory -/

theorem Mem.wf_iff (m : Mem) : m.wf = true ↔
    tsorted m.data = true ∧ (∀ x ∈ m.data, x.2 ≠ unlistedByte) ∧ tsorted m.syn = true ∧ ∀ x ∈ m.syn, x.2 ≠ 0 := by
  simp [Mem.wf, List.all_eq_true, and_assoc]

theorem Mem.empty_wf : Mem.empty.wf = true := rfl

theorem Mem.setByte_wf {m : Mem} (h : m.wf = true) (a : Nat) (b : Byte) : (m.setByte a b).wf = true := by
  rw [Mem.wf_iff] at *
  exact ⟨tsorted_tput h.1 _ _ _, all_tput h.2.1 _ _, h.2.2.1, h.2.2.2⟩

theorem Mem.setWord_wf {m : Mem} (h : m.wf = true) (i : Nat) (w : CWord) : (m.setWord i w).wf = true := by
  have h4 := Mem.setByte_wf (Mem.setByte_wf (Mem.setByte_wf (Mem.setByte_wf h (4 * i) (w.data.extractLsb' 0 8)) (4 * i + 1)
    (w.data.extractLsb' 8 8)) (4 * i + 2) (w.data.extractLsb' 16 8)) (4 * i + 3) (w.data.extractLsb' 24 8)
  rw [Mem.wf_iff] at h4 ⊢
  exact ⟨h4.1, h4.2.1, tsorted_tput h4.2.2.1 _ _ _, all_tput h4.2.2.2 _ _⟩

theorem Mem.setWords_wf {m : Mem} (h : m.wf = true) (i : Nat) (ws : List CWord) : (m.setWords i ws).wf = true := by
  induction ws generalizing m i with
  | nil => exact h
  | cons w ws ih => exact ih (Mem.setWord_wf h i w) (i + 1)

/-! ### Reading after writing -/

theorem Mem.byte_setByte {m : Mem} (h : m.wf = true) (a b : Nat) (x : Byte) :
    (m.setByte a x).byte b = if b = a then x else m.byte b := by
  rw [Mem.wf_iff] at h
  simp only [Mem.byte, Mem.setByte]
  split
  · subst_vars; exact tget_tput_self h.1 _ _ _
  · exact tget_tput_ne h.1 _ _ _ ‹_›

theorem Mem.byte_setWord {m : Mem} (h : m.wf = true) (i : Nat) (w : CWord) (b : Nat) :
    (m.setWord i w).byte b =
      if b = 4 * i + 3 then w.data.extractLsb' 24 8 else if b = 4 * i + 2 then w.data.extractLsb' 16 8
      else if b = 4 * i + 1 then w.data.extractLsb' 8 8 else if b = 4 * i then w.data.extractLsb' 0 8 else m.byte b := by
  have h1 := Mem.setByte_wf h (4 * i) (w.data.extractLsb' 0 8)
  have h2 := Mem.setByte_wf h1 (4 * i + 1) (w.data.extractLsb' 8 8)
  have h3 := Mem.setByte_wf h2 (4 * i + 2) (w.data.extractLsb' 16 8)
  have e : ∀ (m : Mem) (s : Tab Byte), ({ m with syn := s } : Mem).byte b = m.byte b := fun _ _ => rfl
  simp only [Mem.setWord, e, Mem.byte_setByte h3, Mem.byte_setByte h2, Mem.byte_setByte h1, Mem.byte_setByte h]

theorem Mem.synOf_setWord {m : Mem} (h : m.wf = true) (i j : Nat) (w : CWord) :
    (m.setWord i w).synOf j = if j = i then w.syn else m.synOf j := by
  rw [Mem.wf_iff] at h
  simp only [Mem.synOf, Mem.setWord, Mem.setByte]
  split
  · subst_vars; exact tget_tput_self h.2.2.1 _ _ _
  · exact tget_tput_ne h.2.2.1 _ _ _ ‹_›

theorem packWord_bytes (d : Word) :
    packWord (d.extractLsb' 0 8) (d.extractLsb' 8 8) (d.extractLsb' 16 8) (d.extractLsb' 24 8) = d := by
  apply BitVec.eq_of_getLsbD_eq
  intro i hi
  simp only [packWord, BitVec.getLsbD_append, BitVec.getLsbD_extractLsb']
  split
  · simp_all
  · split
    · rw [show 8 + (i - 8) = i by omega]; simp_all
    · split
      · rw [show 16 + (i - 8 - 8) = i by omega]; simp_all
      · rw [show 24 + (i - 8 - 8 - 8) = i by omega]; simp_all; omega

/-- A word read after a word is written: the word written, or the word that was there. -/
theorem Mem.word_setWord {m : Mem} (h : m.wf = true) (i j : Nat) (w : CWord) :
    (m.setWord i w).word j = if j = i then w else m.word j := by
  by_cases hj : j = i
  · subst hj; simp [Mem.word, Mem.byte_setWord h, Mem.synOf_setWord h, packWord_bytes]
  · have hb : ∀ b, b / 4 = j → (m.setWord i w).byte b = m.byte b := fun b hb => by
      rw [Mem.byte_setWord h, if_neg (by omega), if_neg (by omega), if_neg (by omega), if_neg (by omega)]
    simp only [Mem.word, Mem.synOf_setWord h, if_neg hj]
    rw [hb _ (by omega), hb _ (by omega), hb _ (by omega), hb _ (by omega)]

/-- A word read after consecutive words are written. -/
theorem Mem.word_setWords {m : Mem} (h : m.wf = true) (i j : Nat) (ws : List CWord) :
    (m.setWords i ws).word j = if i ≤ j ∧ j < i + ws.length then ws.getD (j - i) (good 0) else m.word j := by
  induction ws generalizing m i with
  | nil => exact (if_neg (fun q => absurd q.1 (Nat.not_le.mpr q.2))).symm
  | cons w ws ih =>
    rw [Mem.setWords, ih (Mem.setWord_wf h i w), Mem.word_setWord h]
    by_cases hj : j = i
    · subst hj
      rw [if_neg (by omega), if_pos rfl, if_pos (by simp), Nat.sub_self]; rfl
    · by_cases hr : i + 1 ≤ j ∧ j < i + 1 + ws.length
      · rw [if_pos hr, if_pos ⟨by omega, by simp; omega⟩, show j - i = j - (i + 1) + 1 by omega]; rfl
      · rw [if_neg hr, if_neg hj, if_neg (by simp; omega)]

end Sys2Proof.Machine
end

