-- ==== Sys2Proof/Laws/State.lean ====
section
/-! SUPPORT. What each update of the state leaves in each field: one lemma per update and field. -/

namespace Sys2Proof.Machine

open Sys2Proof

/-! ### setWarp -/

@[simp] theorem setWarp_cycle (s : State) (w : Warp) : (setWarp s w).cycle = s.cycle := rfl
@[simp] theorem setWarp_tick (s : State) (w : Warp) : (setWarp s w).tick = s.tick := rfl
@[simp] theorem setWarp_agenda (s : State) (w : Warp) : (setWarp s w).agenda = s.agenda := rfl
@[simp] theorem setWarp_cur (s : State) (w : Warp) : (setWarp s w).cur = s.cur := rfl
@[simp] theorem setWarp_nextId (s : State) (w : Warp) : (setWarp s w).nextId = s.nextId := rfl
@[simp] theorem setWarp_cores (s : State) (w : Warp) : (setWarp s w).cores = s.cores := rfl
@[simp] theorem setWarp_quads (s : State) (w : Warp) : (setWarp s w).quads = s.quads := rfl
@[simp] theorem setWarp_teams (s : State) (w : Warp) : (setWarp s w).teams = s.teams := rfl
@[simp] theorem setWarp_gangs (s : State) (w : Warp) : (setWarp s w).gangs = s.gangs := rfl
@[simp] theorem setWarp_grids (s : State) (w : Warp) : (setWarp s w).grids = s.grids := rfl
@[simp] theorem setWarp_store (s : State) (w : Warp) : (setWarp s w).store = s.store := rfl
@[simp] theorem setWarp_upsets (s : State) (w : Warp) : (setWarp s w).upsets = s.upsets := rfl
@[simp] theorem setWarp_acc (s : State) (w : Warp) : (setWarp s w).acc = s.acc := rfl
@[simp] theorem setWarp_accUpsets (s : State) (w : Warp) : (setWarp s w).accUpsets = s.accUpsets := rfl
@[simp] theorem setWarp_hbm (s : State) (w : Warp) : (setWarp s w).hbm = s.hbm := rfl
@[simp] theorem setWarp_host (s : State) (w : Warp) : (setWarp s w).host = s.host := rfl
@[simp] theorem setWarp_l1s (s : State) (w : Warp) : (setWarp s w).l1s = s.l1s := rfl
@[simp] theorem setWarp_homes (s : State) (w : Warp) : (setWarp s w).homes = s.homes := rfl
@[simp] theorem setWarp_slotCount (s : State) (w : Warp) : (setWarp s w).slotCount = s.slotCount := rfl
@[simp] theorem setWarp_flying (s : State) (w : Warp) : (setWarp s w).flying = s.flying := rfl
@[simp] theorem setWarp_reqs (s : State) (w : Warp) : (setWarp s w).reqs = s.reqs := rfl
@[simp] theorem setWarp_misses (s : State) (w : Warp) : (setWarp s w).misses = s.misses := rfl
@[simp] theorem setWarp_replies (s : State) (w : Warp) : (setWarp s w).replies = s.replies := rfl
@[simp] theorem setWarp_wrhReplies (s : State) (w : Warp) : (setWarp s w).wrhReplies = s.wrhReplies := rfl
@[simp] theorem setWarp_writebacks (s : State) (w : Warp) : (setWarp s w).writebacks = s.writebacks := rfl
@[simp] theorem setWarp_ops (s : State) (w : Warp) : (setWarp s w).ops = s.ops := rfl
@[simp] theorem setWarp_staged (s : State) (w : Warp) : (setWarp s w).staged = s.staged := rfl
@[simp] theorem setWarp_regions (s : State) (w : Warp) : (setWarp s w).regions = s.regions := rfl
@[simp] theorem setWarp_commits (s : State) (w : Warp) : (setWarp s w).commits = s.commits := rfl
@[simp] theorem setWarp_mx (s : State) (w : Warp) : (setWarp s w).mx = s.mx := rfl
@[simp] theorem setWarp_copies (s : State) (w : Warp) : (setWarp s w).copies = s.copies := rfl
@[simp] theorem setWarp_colls (s : State) (w : Warp) : (setWarp s w).colls = s.colls := rfl
@[simp] theorem setWarp_parts (s : State) (w : Warp) : (setWarp s w).parts = s.parts := rfl
@[simp] theorem setWarp_tlb (s : State) (w : Warp) : (setWarp s w).tlb = s.tlb := rfl
@[simp] theorem setWarp_walks (s : State) (w : Warp) : (setWarp s w).walks = s.walks := rfl
@[simp] theorem setWarp_invals (s : State) (w : Warp) : (setWarp s w).invals = s.invals := rfl
@[simp] theorem setWarp_partitions (s : State) (w : Warp) : (setWarp s w).partitions = s.partitions := rfl
@[simp] theorem setWarp_pods (s : State) (w : Warp) : (setWarp s w).pods = s.pods := rfl
@[simp] theorem setWarp_recorders (s : State) (w : Warp) : (setWarp s w).recorders = s.recorders := rfl
@[simp] theorem setWarp_mgc (s : State) (w : Warp) : (setWarp s w).mgc = s.mgc := rfl
@[simp] theorem setWarp_szl (s : State) (w : Warp) : (setWarp s w).szl = s.szl := rfl
@[simp] theorem setWarp_fabFrozen (s : State) (w : Warp) : (setWarp s w).fabFrozen = s.fabFrozen := rfl
@[simp] theorem setWarp_fabHeld (s : State) (w : Warp) : (setWarp s w).fabHeld = s.fabHeld := rfl
@[simp] theorem setWarp_fabReplies (s : State) (w : Warp) : (setWarp s w).fabReplies = s.fabReplies := rfl
@[simp] theorem setWarp_lost (s : State) (w : Warp) : (setWarp s w).lost = s.lost := rfl
@[simp] theorem setWarp_hostReply (s : State) (w : Warp) : (setWarp s w).hostReply = s.hostReply := rfl
@[simp] theorem setWarp_interrupts (s : State) (w : Warp) : (setWarp s w).interrupts = s.interrupts := rfl

/-! ### setTeam -/

@[simp] theorem setTeam_cycle (s : State) (x : Team) : (setTeam s x).cycle = s.cycle := rfl
@[simp] theorem setTeam_tick (s : State) (x : Team) : (setTeam s x).tick = s.tick := rfl
@[simp] theorem setTeam_agenda (s : State) (x : Team) : (setTeam s x).agenda = s.agenda := rfl
@[simp] theorem setTeam_cur (s : State) (x : Team) : (setTeam s x).cur = s.cur := rfl
@[simp] theorem setTeam_nextId (s : State) (x : Team) : (setTeam s x).nextId = s.nextId := rfl
@[simp] theorem setTeam_cores (s : State) (x : Team) : (setTeam s x).cores = s.cores := rfl
@[simp] theorem setTeam_quads (s : State) (x : Team) : (setTeam s x).quads = s.quads := rfl
@[simp] theorem setTeam_warps (s : State) (x : Team) : (setTeam s x).warps = s.warps := rfl
@[simp] theorem setTeam_gangs (s : State) (x : Team) : (setTeam s x).gangs = s.gangs := rfl
@[simp] theorem setTeam_grids (s : State) (x : Team) : (setTeam s x).grids = s.grids := rfl
@[simp] theorem setTeam_store (s : State) (x : Team) : (setTeam s x).store = s.store := rfl
@[simp] theorem setTeam_upsets (s : State) (x : Team) : (setTeam s x).upsets = s.upsets := rfl
@[simp] theorem setTeam_acc (s : State) (x : Team) : (setTeam s x).acc = s.acc := rfl
@[simp] theorem setTeam_accUpsets (s : State) (x : Team) : (setTeam s x).accUpsets = s.accUpsets := rfl
@[simp] theorem setTeam_hbm (s : State) (x : Team) : (setTeam s x).hbm = s.hbm := rfl
@[simp] theorem setTeam_host (s : State) (x : Team) : (setTeam s x).host = s.host := rfl
@[simp] theorem setTeam_l1s (s : State) (x : Team) : (setTeam s x).l1s = s.l1s := rfl
@[simp] theorem setTeam_homes (s : State) (x : Team) : (setTeam s x).homes = s.homes := rfl
@[simp] theorem setTeam_slotCount (s : State) (x : Team) : (setTeam s x).slotCount = s.slotCount := rfl
@[simp] theorem setTeam_flying (s : State) (x : Team) : (setTeam s x).flying = s.flying := rfl
@[simp] theorem setTeam_reqs (s : State) (x : Team) : (setTeam s x).reqs = s.reqs := rfl
@[simp] theorem setTeam_misses (s : State) (x : Team) : (setTeam s x).misses = s.misses := rfl
@[simp] theorem setTeam_replies (s : State) (x : Team) : (setTeam s x).replies = s.replies := rfl
@[simp] theorem setTeam_wrhReplies (s : State) (x : Team) : (setTeam s x).wrhReplies = s.wrhReplies := rfl
@[simp] theorem setTeam_writebacks (s : State) (x : Team) : (setTeam s x).writebacks = s.writebacks := rfl
@[simp] theorem setTeam_ops (s : State) (x : Team) : (setTeam s x).ops = s.ops := rfl
@[simp] theorem setTeam_staged (s : State) (x : Team) : (setTeam s x).staged = s.staged := rfl
@[simp] theorem setTeam_regions (s : State) (x : Team) : (setTeam s x).regions = s.regions := rfl
@[simp] theorem setTeam_commits (s : State) (x : Team) : (setTeam s x).commits = s.commits := rfl
@[simp] theorem setTeam_mx (s : State) (x : Team) : (setTeam s x).mx = s.mx := rfl
@[simp] theorem setTeam_copies (s : State) (x : Team) : (setTeam s x).copies = s.copies := rfl
@[simp] theorem setTeam_colls (s : State) (x : Team) : (setTeam s x).colls = s.colls := rfl
@[simp] theorem setTeam_parts (s : State) (x : Team) : (setTeam s x).parts = s.parts := rfl
@[simp] theorem setTeam_tlb (s : State) (x : Team) : (setTeam s x).tlb = s.tlb := rfl
@[simp] theorem setTeam_walks (s : State) (x : Team) : (setTeam s x).walks = s.walks := rfl
@[simp] theorem setTeam_invals (s : State) (x : Team) : (setTeam s x).invals = s.invals := rfl
@[simp] theorem setTeam_partitions (s : State) (x : Team) : (setTeam s x).partitions = s.partitions := rfl
@[simp] theorem setTeam_pods (s : State) (x : Team) : (setTeam s x).pods = s.pods := rfl
@[simp] theorem setTeam_recorders (s : State) (x : Team) : (setTeam s x).recorders = s.recorders := rfl
@[simp] theorem setTeam_mgc (s : State) (x : Team) : (setTeam s x).mgc = s.mgc := rfl
@[simp] theorem setTeam_szl (s : State) (x : Team) : (setTeam s x).szl = s.szl := rfl
@[simp] theorem setTeam_fabFrozen (s : State) (x : Team) : (setTeam s x).fabFrozen = s.fabFrozen := rfl
@[simp] theorem setTeam_fabHeld (s : State) (x : Team) : (setTeam s x).fabHeld = s.fabHeld := rfl
@[simp] theorem setTeam_fabReplies (s : State) (x : Team) : (setTeam s x).fabReplies = s.fabReplies := rfl
@[simp] theorem setTeam_lost (s : State) (x : Team) : (setTeam s x).lost = s.lost := rfl
@[simp] theorem setTeam_hostReply (s : State) (x : Team) : (setTeam s x).hostReply = s.hostReply := rfl
@[simp] theorem setTeam_interrupts (s : State) (x : Team) : (setTeam s x).interrupts = s.interrupts := rfl

/-! ### setGang -/

@[simp] theorem setGang_cycle (s : State) (x : Gang) : (setGang s x).cycle = s.cycle := rfl
@[simp] theorem setGang_tick (s : State) (x : Gang) : (setGang s x).tick = s.tick := rfl
@[simp] theorem setGang_agenda (s : State) (x : Gang) : (setGang s x).agenda = s.agenda := rfl
@[simp] theorem setGang_cur (s : State) (x : Gang) : (setGang s x).cur = s.cur := rfl
@[simp] theorem setGang_nextId (s : State) (x : Gang) : (setGang s x).nextId = s.nextId := rfl
@[simp] theorem setGang_cores (s : State) (x : Gang) : (setGang s x).cores = s.cores := rfl
@[simp] theorem setGang_quads (s : State) (x : Gang) : (setGang s x).quads = s.quads := rfl
@[simp] theorem setGang_warps (s : State) (x : Gang) : (setGang s x).warps = s.warps := rfl
@[simp] theorem setGang_teams (s : State) (x : Gang) : (setGang s x).teams = s.teams := rfl
@[simp] theorem setGang_grids (s : State) (x : Gang) : (setGang s x).grids = s.grids := rfl
@[simp] theorem setGang_store (s : State) (x : Gang) : (setGang s x).store = s.store := rfl
@[simp] theorem setGang_upsets (s : State) (x : Gang) : (setGang s x).upsets = s.upsets := rfl
@[simp] theorem setGang_acc (s : State) (x : Gang) : (setGang s x).acc = s.acc := rfl
@[simp] theorem setGang_accUpsets (s : State) (x : Gang) : (setGang s x).accUpsets = s.accUpsets := rfl
@[simp] theorem setGang_hbm (s : State) (x : Gang) : (setGang s x).hbm = s.hbm := rfl
@[simp] theorem setGang_host (s : State) (x : Gang) : (setGang s x).host = s.host := rfl
@[simp] theorem setGang_l1s (s : State) (x : Gang) : (setGang s x).l1s = s.l1s := rfl
@[simp] theorem setGang_homes (s : State) (x : Gang) : (setGang s x).homes = s.homes := rfl
@[simp] theorem setGang_slotCount (s : State) (x : Gang) : (setGang s x).slotCount = s.slotCount := rfl
@[simp] theorem setGang_flying (s : State) (x : Gang) : (setGang s x).flying = s.flying := rfl
@[simp] theorem setGang_reqs (s : State) (x : Gang) : (setGang s x).reqs = s.reqs := rfl
@[simp] theorem setGang_misses (s : State) (x : Gang) : (setGang s x).misses = s.misses := rfl
@[simp] theorem setGang_replies (s : State) (x : Gang) : (setGang s x).replies = s.replies := rfl
@[simp] theorem setGang_wrhReplies (s : State) (x : Gang) : (setGang s x).wrhReplies = s.wrhReplies := rfl
@[simp] theorem setGang_writebacks (s : State) (x : Gang) : (setGang s x).writebacks = s.writebacks := rfl
@[simp] theorem setGang_ops (s : State) (x : Gang) : (setGang s x).ops = s.ops := rfl
@[simp] theorem setGang_staged (s : State) (x : Gang) : (setGang s x).staged = s.staged := rfl
@[simp] theorem setGang_regions (s : State) (x : Gang) : (setGang s x).regions = s.regions := rfl
@[simp] theorem setGang_commits (s : State) (x : Gang) : (setGang s x).commits = s.commits := rfl
@[simp] theorem setGang_mx (s : State) (x : Gang) : (setGang s x).mx = s.mx := rfl
@[simp] theorem setGang_copies (s : State) (x : Gang) : (setGang s x).copies = s.copies := rfl
@[simp] theorem setGang_colls (s : State) (x : Gang) : (setGang s x).colls = s.colls := rfl
@[simp] theorem setGang_parts (s : State) (x : Gang) : (setGang s x).parts = s.parts := rfl
@[simp] theorem setGang_tlb (s : State) (x : Gang) : (setGang s x).tlb = s.tlb := rfl
@[simp] theorem setGang_walks (s : State) (x : Gang) : (setGang s x).walks = s.walks := rfl
@[simp] theorem setGang_invals (s : State) (x : Gang) : (setGang s x).invals = s.invals := rfl
@[simp] theorem setGang_partitions (s : State) (x : Gang) : (setGang s x).partitions = s.partitions := rfl
@[simp] theorem setGang_pods (s : State) (x : Gang) : (setGang s x).pods = s.pods := rfl
@[simp] theorem setGang_recorders (s : State) (x : Gang) : (setGang s x).recorders = s.recorders := rfl
@[simp] theorem setGang_mgc (s : State) (x : Gang) : (setGang s x).mgc = s.mgc := rfl
@[simp] theorem setGang_szl (s : State) (x : Gang) : (setGang s x).szl = s.szl := rfl
@[simp] theorem setGang_fabFrozen (s : State) (x : Gang) : (setGang s x).fabFrozen = s.fabFrozen := rfl
@[simp] theorem setGang_fabHeld (s : State) (x : Gang) : (setGang s x).fabHeld = s.fabHeld := rfl
@[simp] theorem setGang_fabReplies (s : State) (x : Gang) : (setGang s x).fabReplies = s.fabReplies := rfl
@[simp] theorem setGang_lost (s : State) (x : Gang) : (setGang s x).lost = s.lost := rfl
@[simp] theorem setGang_hostReply (s : State) (x : Gang) : (setGang s x).hostReply = s.hostReply := rfl
@[simp] theorem setGang_interrupts (s : State) (x : Gang) : (setGang s x).interrupts = s.interrupts := rfl

/-! ### setGrid -/

@[simp] theorem setGrid_cycle (s : State) (x : Grid) : (setGrid s x).cycle = s.cycle := rfl
@[simp] theorem setGrid_tick (s : State) (x : Grid) : (setGrid s x).tick = s.tick := rfl
@[simp] theorem setGrid_agenda (s : State) (x : Grid) : (setGrid s x).agenda = s.agenda := rfl
@[simp] theorem setGrid_cur (s : State) (x : Grid) : (setGrid s x).cur = s.cur := rfl
@[simp] theorem setGrid_nextId (s : State) (x : Grid) : (setGrid s x).nextId = s.nextId := rfl
@[simp] theorem setGrid_cores (s : State) (x : Grid) : (setGrid s x).cores = s.cores := rfl
@[simp] theorem setGrid_quads (s : State) (x : Grid) : (setGrid s x).quads = s.quads := rfl
@[simp] theorem setGrid_warps (s : State) (x : Grid) : (setGrid s x).warps = s.warps := rfl
@[simp] theorem setGrid_teams (s : State) (x : Grid) : (setGrid s x).teams = s.teams := rfl
@[simp] theorem setGrid_gangs (s : State) (x : Grid) : (setGrid s x).gangs = s.gangs := rfl
@[simp] theorem setGrid_store (s : State) (x : Grid) : (setGrid s x).store = s.store := rfl
@[simp] theorem setGrid_upsets (s : State) (x : Grid) : (setGrid s x).upsets = s.upsets := rfl
@[simp] theorem setGrid_acc (s : State) (x : Grid) : (setGrid s x).acc = s.acc := rfl
@[simp] theorem setGrid_accUpsets (s : State) (x : Grid) : (setGrid s x).accUpsets = s.accUpsets := rfl
@[simp] theorem setGrid_hbm (s : State) (x : Grid) : (setGrid s x).hbm = s.hbm := rfl
@[simp] theorem setGrid_host (s : State) (x : Grid) : (setGrid s x).host = s.host := rfl
@[simp] theorem setGrid_l1s (s : State) (x : Grid) : (setGrid s x).l1s = s.l1s := rfl
@[simp] theorem setGrid_homes (s : State) (x : Grid) : (setGrid s x).homes = s.homes := rfl
@[simp] theorem setGrid_slotCount (s : State) (x : Grid) : (setGrid s x).slotCount = s.slotCount := rfl
@[simp] theorem setGrid_flying (s : State) (x : Grid) : (setGrid s x).flying = s.flying := rfl
@[simp] theorem setGrid_reqs (s : State) (x : Grid) : (setGrid s x).reqs = s.reqs := rfl
@[simp] theorem setGrid_misses (s : State) (x : Grid) : (setGrid s x).misses = s.misses := rfl
@[simp] theorem setGrid_replies (s : State) (x : Grid) : (setGrid s x).replies = s.replies := rfl
@[simp] theorem setGrid_wrhReplies (s : State) (x : Grid) : (setGrid s x).wrhReplies = s.wrhReplies := rfl
@[simp] theorem setGrid_writebacks (s : State) (x : Grid) : (setGrid s x).writebacks = s.writebacks := rfl
@[simp] theorem setGrid_ops (s : State) (x : Grid) : (setGrid s x).ops = s.ops := rfl
@[simp] theorem setGrid_staged (s : State) (x : Grid) : (setGrid s x).staged = s.staged := rfl
@[simp] theorem setGrid_regions (s : State) (x : Grid) : (setGrid s x).regions = s.regions := rfl
@[simp] theorem setGrid_commits (s : State) (x : Grid) : (setGrid s x).commits = s.commits := rfl
@[simp] theorem setGrid_mx (s : State) (x : Grid) : (setGrid s x).mx = s.mx := rfl
@[simp] theorem setGrid_copies (s : State) (x : Grid) : (setGrid s x).copies = s.copies := rfl
@[simp] theorem setGrid_colls (s : State) (x : Grid) : (setGrid s x).colls = s.colls := rfl
@[simp] theorem setGrid_parts (s : State) (x : Grid) : (setGrid s x).parts = s.parts := rfl
@[simp] theorem setGrid_tlb (s : State) (x : Grid) : (setGrid s x).tlb = s.tlb := rfl
@[simp] theorem setGrid_walks (s : State) (x : Grid) : (setGrid s x).walks = s.walks := rfl
@[simp] theorem setGrid_invals (s : State) (x : Grid) : (setGrid s x).invals = s.invals := rfl
@[simp] theorem setGrid_partitions (s : State) (x : Grid) : (setGrid s x).partitions = s.partitions := rfl
@[simp] theorem setGrid_pods (s : State) (x : Grid) : (setGrid s x).pods = s.pods := rfl
@[simp] theorem setGrid_recorders (s : State) (x : Grid) : (setGrid s x).recorders = s.recorders := rfl
@[simp] theorem setGrid_mgc (s : State) (x : Grid) : (setGrid s x).mgc = s.mgc := rfl
@[simp] theorem setGrid_szl (s : State) (x : Grid) : (setGrid s x).szl = s.szl := rfl
@[simp] theorem setGrid_fabFrozen (s : State) (x : Grid) : (setGrid s x).fabFrozen = s.fabFrozen := rfl
@[simp] theorem setGrid_fabHeld (s : State) (x : Grid) : (setGrid s x).fabHeld = s.fabHeld := rfl
@[simp] theorem setGrid_fabReplies (s : State) (x : Grid) : (setGrid s x).fabReplies = s.fabReplies := rfl
@[simp] theorem setGrid_lost (s : State) (x : Grid) : (setGrid s x).lost = s.lost := rfl
@[simp] theorem setGrid_hostReply (s : State) (x : Grid) : (setGrid s x).hostReply = s.hostReply := rfl
@[simp] theorem setGrid_interrupts (s : State) (x : Grid) : (setGrid s x).interrupts = s.interrupts := rfl

/-! ### setOp -/

@[simp] theorem setOp_cycle (s : State) (x : Op) : (setOp s x).cycle = s.cycle := rfl
@[simp] theorem setOp_tick (s : State) (x : Op) : (setOp s x).tick = s.tick := rfl
@[simp] theorem setOp_agenda (s : State) (x : Op) : (setOp s x).agenda = s.agenda := rfl
@[simp] theorem setOp_cur (s : State) (x : Op) : (setOp s x).cur = s.cur := rfl
@[simp] theorem setOp_nextId (s : State) (x : Op) : (setOp s x).nextId = s.nextId := rfl
@[simp] theorem setOp_cores (s : State) (x : Op) : (setOp s x).cores = s.cores := rfl
@[simp] theorem setOp_quads (s : State) (x : Op) : (setOp s x).quads = s.quads := rfl
@[simp] theorem setOp_warps (s : State) (x : Op) : (setOp s x).warps = s.warps := rfl
@[simp] theorem setOp_teams (s : State) (x : Op) : (setOp s x).teams = s.teams := rfl
@[simp] theorem setOp_gangs (s : State) (x : Op) : (setOp s x).gangs = s.gangs := rfl
@[simp] theorem setOp_grids (s : State) (x : Op) : (setOp s x).grids = s.grids := rfl
@[simp] theorem setOp_store (s : State) (x : Op) : (setOp s x).store = s.store := rfl
@[simp] theorem setOp_upsets (s : State) (x : Op) : (setOp s x).upsets = s.upsets := rfl
@[simp] theorem setOp_acc (s : State) (x : Op) : (setOp s x).acc = s.acc := rfl
@[simp] theorem setOp_accUpsets (s : State) (x : Op) : (setOp s x).accUpsets = s.accUpsets := rfl
@[simp] theorem setOp_hbm (s : State) (x : Op) : (setOp s x).hbm = s.hbm := rfl
@[simp] theorem setOp_host (s : State) (x : Op) : (setOp s x).host = s.host := rfl
@[simp] theorem setOp_l1s (s : State) (x : Op) : (setOp s x).l1s = s.l1s := rfl
@[simp] theorem setOp_homes (s : State) (x : Op) : (setOp s x).homes = s.homes := rfl
@[simp] theorem setOp_slotCount (s : State) (x : Op) : (setOp s x).slotCount = s.slotCount := rfl
@[simp] theorem setOp_flying (s : State) (x : Op) : (setOp s x).flying = s.flying := rfl
@[simp] theorem setOp_reqs (s : State) (x : Op) : (setOp s x).reqs = s.reqs := rfl
@[simp] theorem setOp_misses (s : State) (x : Op) : (setOp s x).misses = s.misses := rfl
@[simp] theorem setOp_replies (s : State) (x : Op) : (setOp s x).replies = s.replies := rfl
@[simp] theorem setOp_wrhReplies (s : State) (x : Op) : (setOp s x).wrhReplies = s.wrhReplies := rfl
@[simp] theorem setOp_writebacks (s : State) (x : Op) : (setOp s x).writebacks = s.writebacks := rfl
@[simp] theorem setOp_staged (s : State) (x : Op) : (setOp s x).staged = s.staged := rfl
@[simp] theorem setOp_regions (s : State) (x : Op) : (setOp s x).regions = s.regions := rfl
@[simp] theorem setOp_commits (s : State) (x : Op) : (setOp s x).commits = s.commits := rfl
@[simp] theorem setOp_mx (s : State) (x : Op) : (setOp s x).mx = s.mx := rfl
@[simp] theorem setOp_copies (s : State) (x : Op) : (setOp s x).copies = s.copies := rfl
@[simp] theorem setOp_colls (s : State) (x : Op) : (setOp s x).colls = s.colls := rfl
@[simp] theorem setOp_parts (s : State) (x : Op) : (setOp s x).parts = s.parts := rfl
@[simp] theorem setOp_tlb (s : State) (x : Op) : (setOp s x).tlb = s.tlb := rfl
@[simp] theorem setOp_walks (s : State) (x : Op) : (setOp s x).walks = s.walks := rfl
@[simp] theorem setOp_invals (s : State) (x : Op) : (setOp s x).invals = s.invals := rfl
@[simp] theorem setOp_partitions (s : State) (x : Op) : (setOp s x).partitions = s.partitions := rfl
@[simp] theorem setOp_pods (s : State) (x : Op) : (setOp s x).pods = s.pods := rfl
@[simp] theorem setOp_recorders (s : State) (x : Op) : (setOp s x).recorders = s.recorders := rfl
@[simp] theorem setOp_mgc (s : State) (x : Op) : (setOp s x).mgc = s.mgc := rfl
@[simp] theorem setOp_szl (s : State) (x : Op) : (setOp s x).szl = s.szl := rfl
@[simp] theorem setOp_fabFrozen (s : State) (x : Op) : (setOp s x).fabFrozen = s.fabFrozen := rfl
@[simp] theorem setOp_fabHeld (s : State) (x : Op) : (setOp s x).fabHeld = s.fabHeld := rfl
@[simp] theorem setOp_fabReplies (s : State) (x : Op) : (setOp s x).fabReplies = s.fabReplies := rfl
@[simp] theorem setOp_lost (s : State) (x : Op) : (setOp s x).lost = s.lost := rfl
@[simp] theorem setOp_hostReply (s : State) (x : Op) : (setOp s x).hostReply = s.hostReply := rfl
@[simp] theorem setOp_interrupts (s : State) (x : Op) : (setOp s x).interrupts = s.interrupts := rfl

/-! ### setCopy -/

@[simp] theorem setCopy_cycle (s : State) (x : Copy) : (setCopy s x).cycle = s.cycle := rfl
@[simp] theorem setCopy_tick (s : State) (x : Copy) : (setCopy s x).tick = s.tick := rfl
@[simp] theorem setCopy_agenda (s : State) (x : Copy) : (setCopy s x).agenda = s.agenda := rfl
@[simp] theorem setCopy_cur (s : State) (x : Copy) : (setCopy s x).cur = s.cur := rfl
@[simp] theorem setCopy_nextId (s : State) (x : Copy) : (setCopy s x).nextId = s.nextId := rfl
@[simp] theorem setCopy_cores (s : State) (x : Copy) : (setCopy s x).cores = s.cores := rfl
@[simp] theorem setCopy_quads (s : State) (x : Copy) : (setCopy s x).quads = s.quads := rfl
@[simp] theorem setCopy_warps (s : State) (x : Copy) : (setCopy s x).warps = s.warps := rfl
@[simp] theorem setCopy_teams (s : State) (x : Copy) : (setCopy s x).teams = s.teams := rfl
@[simp] theorem setCopy_gangs (s : State) (x : Copy) : (setCopy s x).gangs = s.gangs := rfl
@[simp] theorem setCopy_grids (s : State) (x : Copy) : (setCopy s x).grids = s.grids := rfl
@[simp] theorem setCopy_store (s : State) (x : Copy) : (setCopy s x).store = s.store := rfl
@[simp] theorem setCopy_upsets (s : State) (x : Copy) : (setCopy s x).upsets = s.upsets := rfl
@[simp] theorem setCopy_acc (s : State) (x : Copy) : (setCopy s x).acc = s.acc := rfl
@[simp] theorem setCopy_accUpsets (s : State) (x : Copy) : (setCopy s x).accUpsets = s.accUpsets := rfl
@[simp] theorem setCopy_hbm (s : State) (x : Copy) : (setCopy s x).hbm = s.hbm := rfl
@[simp] theorem setCopy_host (s : State) (x : Copy) : (setCopy s x).host = s.host := rfl
@[simp] theorem setCopy_l1s (s : State) (x : Copy) : (setCopy s x).l1s = s.l1s := rfl
@[simp] theorem setCopy_homes (s : State) (x : Copy) : (setCopy s x).homes = s.homes := rfl
@[simp] theorem setCopy_slotCount (s : State) (x : Copy) : (setCopy s x).slotCount = s.slotCount := rfl
@[simp] theorem setCopy_flying (s : State) (x : Copy) : (setCopy s x).flying = s.flying := rfl
@[simp] theorem setCopy_reqs (s : State) (x : Copy) : (setCopy s x).reqs = s.reqs := rfl
@[simp] theorem setCopy_misses (s : State) (x : Copy) : (setCopy s x).misses = s.misses := rfl
@[simp] theorem setCopy_replies (s : State) (x : Copy) : (setCopy s x).replies = s.replies := rfl
@[simp] theorem setCopy_wrhReplies (s : State) (x : Copy) : (setCopy s x).wrhReplies = s.wrhReplies := rfl
@[simp] theorem setCopy_writebacks (s : State) (x : Copy) : (setCopy s x).writebacks = s.writebacks := rfl
@[simp] theorem setCopy_ops (s : State) (x : Copy) : (setCopy s x).ops = s.ops := rfl
@[simp] theorem setCopy_staged (s : State) (x : Copy) : (setCopy s x).staged = s.staged := rfl
@[simp] theorem setCopy_regions (s : State) (x : Copy) : (setCopy s x).regions = s.regions := rfl
@[simp] theorem setCopy_commits (s : State) (x : Copy) : (setCopy s x).commits = s.commits := rfl
@[simp] theorem setCopy_mx (s : State) (x : Copy) : (setCopy s x).mx = s.mx := rfl
@[simp] theorem setCopy_colls (s : State) (x : Copy) : (setCopy s x).colls = s.colls := rfl
@[simp] theorem setCopy_parts (s : State) (x : Copy) : (setCopy s x).parts = s.parts := rfl
@[simp] theorem setCopy_tlb (s : State) (x : Copy) : (setCopy s x).tlb = s.tlb := rfl
@[simp] theorem setCopy_walks (s : State) (x : Copy) : (setCopy s x).walks = s.walks := rfl
@[simp] theorem setCopy_invals (s : State) (x : Copy) : (setCopy s x).invals = s.invals := rfl
@[simp] theorem setCopy_partitions (s : State) (x : Copy) : (setCopy s x).partitions = s.partitions := rfl
@[simp] theorem setCopy_pods (s : State) (x : Copy) : (setCopy s x).pods = s.pods := rfl
@[simp] theorem setCopy_recorders (s : State) (x : Copy) : (setCopy s x).recorders = s.recorders := rfl
@[simp] theorem setCopy_mgc (s : State) (x : Copy) : (setCopy s x).mgc = s.mgc := rfl
@[simp] theorem setCopy_szl (s : State) (x : Copy) : (setCopy s x).szl = s.szl := rfl
@[simp] theorem setCopy_fabFrozen (s : State) (x : Copy) : (setCopy s x).fabFrozen = s.fabFrozen := rfl
@[simp] theorem setCopy_fabHeld (s : State) (x : Copy) : (setCopy s x).fabHeld = s.fabHeld := rfl
@[simp] theorem setCopy_fabReplies (s : State) (x : Copy) : (setCopy s x).fabReplies = s.fabReplies := rfl
@[simp] theorem setCopy_lost (s : State) (x : Copy) : (setCopy s x).lost = s.lost := rfl
@[simp] theorem setCopy_hostReply (s : State) (x : Copy) : (setCopy s x).hostReply = s.hostReply := rfl
@[simp] theorem setCopy_interrupts (s : State) (x : Copy) : (setCopy s x).interrupts = s.interrupts := rfl

/-! ### setColl -/

@[simp] theorem setColl_cycle (s : State) (x : Coll) : (setColl s x).cycle = s.cycle := rfl
@[simp] theorem setColl_tick (s : State) (x : Coll) : (setColl s x).tick = s.tick := rfl
@[simp] theorem setColl_agenda (s : State) (x : Coll) : (setColl s x).agenda = s.agenda := rfl
@[simp] theorem setColl_cur (s : State) (x : Coll) : (setColl s x).cur = s.cur := rfl
@[simp] theorem setColl_nextId (s : State) (x : Coll) : (setColl s x).nextId = s.nextId := rfl
@[simp] theorem setColl_cores (s : State) (x : Coll) : (setColl s x).cores = s.cores := rfl
@[simp] theorem setColl_quads (s : State) (x : Coll) : (setColl s x).quads = s.quads := rfl
@[simp] theorem setColl_warps (s : State) (x : Coll) : (setColl s x).warps = s.warps := rfl
@[simp] theorem setColl_teams (s : State) (x : Coll) : (setColl s x).teams = s.teams := rfl
@[simp] theorem setColl_gangs (s : State) (x : Coll) : (setColl s x).gangs = s.gangs := rfl
@[simp] theorem setColl_grids (s : State) (x : Coll) : (setColl s x).grids = s.grids := rfl
@[simp] theorem setColl_store (s : State) (x : Coll) : (setColl s x).store = s.store := rfl
@[simp] theorem setColl_upsets (s : State) (x : Coll) : (setColl s x).upsets = s.upsets := rfl
@[simp] theorem setColl_acc (s : State) (x : Coll) : (setColl s x).acc = s.acc := rfl
@[simp] theorem setColl_accUpsets (s : State) (x : Coll) : (setColl s x).accUpsets = s.accUpsets := rfl
@[simp] theorem setColl_hbm (s : State) (x : Coll) : (setColl s x).hbm = s.hbm := rfl
@[simp] theorem setColl_host (s : State) (x : Coll) : (setColl s x).host = s.host := rfl
@[simp] theorem setColl_l1s (s : State) (x : Coll) : (setColl s x).l1s = s.l1s := rfl
@[simp] theorem setColl_homes (s : State) (x : Coll) : (setColl s x).homes = s.homes := rfl
@[simp] theorem setColl_slotCount (s : State) (x : Coll) : (setColl s x).slotCount = s.slotCount := rfl
@[simp] theorem setColl_flying (s : State) (x : Coll) : (setColl s x).flying = s.flying := rfl
@[simp] theorem setColl_reqs (s : State) (x : Coll) : (setColl s x).reqs = s.reqs := rfl
@[simp] theorem setColl_misses (s : State) (x : Coll) : (setColl s x).misses = s.misses := rfl
@[simp] theorem setColl_replies (s : State) (x : Coll) : (setColl s x).replies = s.replies := rfl
@[simp] theorem setColl_wrhReplies (s : State) (x : Coll) : (setColl s x).wrhReplies = s.wrhReplies := rfl
@[simp] theorem setColl_writebacks (s : State) (x : Coll) : (setColl s x).writebacks = s.writebacks := rfl
@[simp] theorem setColl_ops (s : State) (x : Coll) : (setColl s x).ops = s.ops := rfl
@[simp] theorem setColl_staged (s : State) (x : Coll) : (setColl s x).staged = s.staged := rfl
@[simp] theorem setColl_regions (s : State) (x : Coll) : (setColl s x).regions = s.regions := rfl
@[simp] theorem setColl_commits (s : State) (x : Coll) : (setColl s x).commits = s.commits := rfl
@[simp] theorem setColl_mx (s : State) (x : Coll) : (setColl s x).mx = s.mx := rfl
@[simp] theorem setColl_copies (s : State) (x : Coll) : (setColl s x).copies = s.copies := rfl
@[simp] theorem setColl_parts (s : State) (x : Coll) : (setColl s x).parts = s.parts := rfl
@[simp] theorem setColl_tlb (s : State) (x : Coll) : (setColl s x).tlb = s.tlb := rfl
@[simp] theorem setColl_walks (s : State) (x : Coll) : (setColl s x).walks = s.walks := rfl
@[simp] theorem setColl_invals (s : State) (x : Coll) : (setColl s x).invals = s.invals := rfl
@[simp] theorem setColl_partitions (s : State) (x : Coll) : (setColl s x).partitions = s.partitions := rfl
@[simp] theorem setColl_pods (s : State) (x : Coll) : (setColl s x).pods = s.pods := rfl
@[simp] theorem setColl_recorders (s : State) (x : Coll) : (setColl s x).recorders = s.recorders := rfl
@[simp] theorem setColl_mgc (s : State) (x : Coll) : (setColl s x).mgc = s.mgc := rfl
@[simp] theorem setColl_szl (s : State) (x : Coll) : (setColl s x).szl = s.szl := rfl
@[simp] theorem setColl_fabFrozen (s : State) (x : Coll) : (setColl s x).fabFrozen = s.fabFrozen := rfl
@[simp] theorem setColl_fabHeld (s : State) (x : Coll) : (setColl s x).fabHeld = s.fabHeld := rfl
@[simp] theorem setColl_fabReplies (s : State) (x : Coll) : (setColl s x).fabReplies = s.fabReplies := rfl
@[simp] theorem setColl_lost (s : State) (x : Coll) : (setColl s x).lost = s.lost := rfl
@[simp] theorem setColl_hostReply (s : State) (x : Coll) : (setColl s x).hostReply = s.hostReply := rfl
@[simp] theorem setColl_interrupts (s : State) (x : Coll) : (setColl s x).interrupts = s.interrupts := rfl

/-! ### setPart -/

@[simp] theorem setPart_cycle (s : State) (x : Part) : (setPart s x).cycle = s.cycle := rfl
@[simp] theorem setPart_tick (s : State) (x : Part) : (setPart s x).tick = s.tick := rfl
@[simp] theorem setPart_agenda (s : State) (x : Part) : (setPart s x).agenda = s.agenda := rfl
@[simp] theorem setPart_cur (s : State) (x : Part) : (setPart s x).cur = s.cur := rfl
@[simp] theorem setPart_nextId (s : State) (x : Part) : (setPart s x).nextId = s.nextId := rfl
@[simp] theorem setPart_cores (s : State) (x : Part) : (setPart s x).cores = s.cores := rfl
@[simp] theorem setPart_quads (s : State) (x : Part) : (setPart s x).quads = s.quads := rfl
@[simp] theorem setPart_warps (s : State) (x : Part) : (setPart s x).warps = s.warps := rfl
@[simp] theorem setPart_teams (s : State) (x : Part) : (setPart s x).teams = s.teams := rfl
@[simp] theorem setPart_gangs (s : State) (x : Part) : (setPart s x).gangs = s.gangs := rfl
@[simp] theorem setPart_grids (s : State) (x : Part) : (setPart s x).grids = s.grids := rfl
@[simp] theorem setPart_store (s : State) (x : Part) : (setPart s x).store = s.store := rfl
@[simp] theorem setPart_upsets (s : State) (x : Part) : (setPart s x).upsets = s.upsets := rfl
@[simp] theorem setPart_acc (s : State) (x : Part) : (setPart s x).acc = s.acc := rfl
@[simp] theorem setPart_accUpsets (s : State) (x : Part) : (setPart s x).accUpsets = s.accUpsets := rfl
@[simp] theorem setPart_hbm (s : State) (x : Part) : (setPart s x).hbm = s.hbm := rfl
@[simp] theorem setPart_host (s : State) (x : Part) : (setPart s x).host = s.host := rfl
@[simp] theorem setPart_l1s (s : State) (x : Part) : (setPart s x).l1s = s.l1s := rfl
@[simp] theorem setPart_homes (s : State) (x : Part) : (setPart s x).homes = s.homes := rfl
@[simp] theorem setPart_slotCount (s : State) (x : Part) : (setPart s x).slotCount = s.slotCount := rfl
@[simp] theorem setPart_flying (s : State) (x : Part) : (setPart s x).flying = s.flying := rfl
@[simp] theorem setPart_reqs (s : State) (x : Part) : (setPart s x).reqs = s.reqs := rfl
@[simp] theorem setPart_misses (s : State) (x : Part) : (setPart s x).misses = s.misses := rfl
@[simp] theorem setPart_replies (s : State) (x : Part) : (setPart s x).replies = s.replies := rfl
@[simp] theorem setPart_wrhReplies (s : State) (x : Part) : (setPart s x).wrhReplies = s.wrhReplies := rfl
@[simp] theorem setPart_writebacks (s : State) (x : Part) : (setPart s x).writebacks = s.writebacks := rfl
@[simp] theorem setPart_ops (s : State) (x : Part) : (setPart s x).ops = s.ops := rfl
@[simp] theorem setPart_staged (s : State) (x : Part) : (setPart s x).staged = s.staged := rfl
@[simp] theorem setPart_regions (s : State) (x : Part) : (setPart s x).regions = s.regions := rfl
@[simp] theorem setPart_commits (s : State) (x : Part) : (setPart s x).commits = s.commits := rfl
@[simp] theorem setPart_mx (s : State) (x : Part) : (setPart s x).mx = s.mx := rfl
@[simp] theorem setPart_copies (s : State) (x : Part) : (setPart s x).copies = s.copies := rfl
@[simp] theorem setPart_colls (s : State) (x : Part) : (setPart s x).colls = s.colls := rfl
@[simp] theorem setPart_tlb (s : State) (x : Part) : (setPart s x).tlb = s.tlb := rfl
@[simp] theorem setPart_walks (s : State) (x : Part) : (setPart s x).walks = s.walks := rfl
@[simp] theorem setPart_invals (s : State) (x : Part) : (setPart s x).invals = s.invals := rfl
@[simp] theorem setPart_partitions (s : State) (x : Part) : (setPart s x).partitions = s.partitions := rfl
@[simp] theorem setPart_pods (s : State) (x : Part) : (setPart s x).pods = s.pods := rfl
@[simp] theorem setPart_recorders (s : State) (x : Part) : (setPart s x).recorders = s.recorders := rfl
@[simp] theorem setPart_mgc (s : State) (x : Part) : (setPart s x).mgc = s.mgc := rfl
@[simp] theorem setPart_szl (s : State) (x : Part) : (setPart s x).szl = s.szl := rfl
@[simp] theorem setPart_fabFrozen (s : State) (x : Part) : (setPart s x).fabFrozen = s.fabFrozen := rfl
@[simp] theorem setPart_fabHeld (s : State) (x : Part) : (setPart s x).fabHeld = s.fabHeld := rfl
@[simp] theorem setPart_fabReplies (s : State) (x : Part) : (setPart s x).fabReplies = s.fabReplies := rfl
@[simp] theorem setPart_lost (s : State) (x : Part) : (setPart s x).lost = s.lost := rfl
@[simp] theorem setPart_hostReply (s : State) (x : Part) : (setPart s x).hostReply = s.hostReply := rfl
@[simp] theorem setPart_interrupts (s : State) (x : Part) : (setPart s x).interrupts = s.interrupts := rfl

/-! ### setMiss -/

@[simp] theorem setMiss_cycle (s : State) (x : Miss) : (setMiss s x).cycle = s.cycle := rfl
@[simp] theorem setMiss_tick (s : State) (x : Miss) : (setMiss s x).tick = s.tick := rfl
@[simp] theorem setMiss_agenda (s : State) (x : Miss) : (setMiss s x).agenda = s.agenda := rfl
@[simp] theorem setMiss_cur (s : State) (x : Miss) : (setMiss s x).cur = s.cur := rfl
@[simp] theorem setMiss_nextId (s : State) (x : Miss) : (setMiss s x).nextId = s.nextId := rfl
@[simp] theorem setMiss_cores (s : State) (x : Miss) : (setMiss s x).cores = s.cores := rfl
@[simp] theorem setMiss_quads (s : State) (x : Miss) : (setMiss s x).quads = s.quads := rfl
@[simp] theorem setMiss_warps (s : State) (x : Miss) : (setMiss s x).warps = s.warps := rfl
@[simp] theorem setMiss_teams (s : State) (x : Miss) : (setMiss s x).teams = s.teams := rfl
@[simp] theorem setMiss_gangs (s : State) (x : Miss) : (setMiss s x).gangs = s.gangs := rfl
@[simp] theorem setMiss_grids (s : State) (x : Miss) : (setMiss s x).grids = s.grids := rfl
@[simp] theorem setMiss_store (s : State) (x : Miss) : (setMiss s x).store = s.store := rfl
@[simp] theorem setMiss_upsets (s : State) (x : Miss) : (setMiss s x).upsets = s.upsets := rfl
@[simp] theorem setMiss_acc (s : State) (x : Miss) : (setMiss s x).acc = s.acc := rfl
@[simp] theorem setMiss_accUpsets (s : State) (x : Miss) : (setMiss s x).accUpsets = s.accUpsets := rfl
@[simp] theorem setMiss_hbm (s : State) (x : Miss) : (setMiss s x).hbm = s.hbm := rfl
@[simp] theorem setMiss_host (s : State) (x : Miss) : (setMiss s x).host = s.host := rfl
@[simp] theorem setMiss_l1s (s : State) (x : Miss) : (setMiss s x).l1s = s.l1s := rfl
@[simp] theorem setMiss_homes (s : State) (x : Miss) : (setMiss s x).homes = s.homes := rfl
@[simp] theorem setMiss_slotCount (s : State) (x : Miss) : (setMiss s x).slotCount = s.slotCount := rfl
@[simp] theorem setMiss_flying (s : State) (x : Miss) : (setMiss s x).flying = s.flying := rfl
@[simp] theorem setMiss_reqs (s : State) (x : Miss) : (setMiss s x).reqs = s.reqs := rfl
@[simp] theorem setMiss_replies (s : State) (x : Miss) : (setMiss s x).replies = s.replies := rfl
@[simp] theorem setMiss_wrhReplies (s : State) (x : Miss) : (setMiss s x).wrhReplies = s.wrhReplies := rfl
@[simp] theorem setMiss_writebacks (s : State) (x : Miss) : (setMiss s x).writebacks = s.writebacks := rfl
@[simp] theorem setMiss_ops (s : State) (x : Miss) : (setMiss s x).ops = s.ops := rfl
@[simp] theorem setMiss_staged (s : State) (x : Miss) : (setMiss s x).staged = s.staged := rfl
@[simp] theorem setMiss_regions (s : State) (x : Miss) : (setMiss s x).regions = s.regions := rfl
@[simp] theorem setMiss_commits (s : State) (x : Miss) : (setMiss s x).commits = s.commits := rfl
@[simp] theorem setMiss_mx (s : State) (x : Miss) : (setMiss s x).mx = s.mx := rfl
@[simp] theorem setMiss_copies (s : State) (x : Miss) : (setMiss s x).copies = s.copies := rfl
@[simp] theorem setMiss_colls (s : State) (x : Miss) : (setMiss s x).colls = s.colls := rfl
@[simp] theorem setMiss_parts (s : State) (x : Miss) : (setMiss s x).parts = s.parts := rfl
@[simp] theorem setMiss_tlb (s : State) (x : Miss) : (setMiss s x).tlb = s.tlb := rfl
@[simp] theorem setMiss_walks (s : State) (x : Miss) : (setMiss s x).walks = s.walks := rfl
@[simp] theorem setMiss_invals (s : State) (x : Miss) : (setMiss s x).invals = s.invals := rfl
@[simp] theorem setMiss_partitions (s : State) (x : Miss) : (setMiss s x).partitions = s.partitions := rfl
@[simp] theorem setMiss_pods (s : State) (x : Miss) : (setMiss s x).pods = s.pods := rfl
@[simp] theorem setMiss_recorders (s : State) (x : Miss) : (setMiss s x).recorders = s.recorders := rfl
@[simp] theorem setMiss_mgc (s : State) (x : Miss) : (setMiss s x).mgc = s.mgc := rfl
@[simp] theorem setMiss_szl (s : State) (x : Miss) : (setMiss s x).szl = s.szl := rfl
@[simp] theorem setMiss_fabFrozen (s : State) (x : Miss) : (setMiss s x).fabFrozen = s.fabFrozen := rfl
@[simp] theorem setMiss_fabHeld (s : State) (x : Miss) : (setMiss s x).fabHeld = s.fabHeld := rfl
@[simp] theorem setMiss_fabReplies (s : State) (x : Miss) : (setMiss s x).fabReplies = s.fabReplies := rfl
@[simp] theorem setMiss_lost (s : State) (x : Miss) : (setMiss s x).lost = s.lost := rfl
@[simp] theorem setMiss_hostReply (s : State) (x : Miss) : (setMiss s x).hostReply = s.hostReply := rfl
@[simp] theorem setMiss_interrupts (s : State) (x : Miss) : (setMiss s x).interrupts = s.interrupts := rfl

/-! ### dropOp -/

@[simp] theorem dropOp_cycle (s : State) (i : Nat) : (dropOp s i).cycle = s.cycle := rfl
@[simp] theorem dropOp_tick (s : State) (i : Nat) : (dropOp s i).tick = s.tick := rfl
@[simp] theorem dropOp_agenda (s : State) (i : Nat) : (dropOp s i).agenda = s.agenda := rfl
@[simp] theorem dropOp_cur (s : State) (i : Nat) : (dropOp s i).cur = s.cur := rfl
@[simp] theorem dropOp_nextId (s : State) (i : Nat) : (dropOp s i).nextId = s.nextId := rfl
@[simp] theorem dropOp_cores (s : State) (i : Nat) : (dropOp s i).cores = s.cores := rfl
@[simp] theorem dropOp_quads (s : State) (i : Nat) : (dropOp s i).quads = s.quads := rfl
@[simp] theorem dropOp_warps (s : State) (i : Nat) : (dropOp s i).warps = s.warps := rfl
@[simp] theorem dropOp_teams (s : State) (i : Nat) : (dropOp s i).teams = s.teams := rfl
@[simp] theorem dropOp_gangs (s : State) (i : Nat) : (dropOp s i).gangs = s.gangs := rfl
@[simp] theorem dropOp_grids (s : State) (i : Nat) : (dropOp s i).grids = s.grids := rfl
@[simp] theorem dropOp_store (s : State) (i : Nat) : (dropOp s i).store = s.store := rfl
@[simp] theorem dropOp_upsets (s : State) (i : Nat) : (dropOp s i).upsets = s.upsets := rfl
@[simp] theorem dropOp_acc (s : State) (i : Nat) : (dropOp s i).acc = s.acc := rfl
@[simp] theorem dropOp_accUpsets (s : State) (i : Nat) : (dropOp s i).accUpsets = s.accUpsets := rfl
@[simp] theorem dropOp_hbm (s : State) (i : Nat) : (dropOp s i).hbm = s.hbm := rfl
@[simp] theorem dropOp_host (s : State) (i : Nat) : (dropOp s i).host = s.host := rfl
@[simp] theorem dropOp_l1s (s : State) (i : Nat) : (dropOp s i).l1s = s.l1s := rfl
@[simp] theorem dropOp_homes (s : State) (i : Nat) : (dropOp s i).homes = s.homes := rfl
@[simp] theorem dropOp_slotCount (s : State) (i : Nat) : (dropOp s i).slotCount = s.slotCount := rfl
@[simp] theorem dropOp_flying (s : State) (i : Nat) : (dropOp s i).flying = s.flying := rfl
@[simp] theorem dropOp_reqs (s : State) (i : Nat) : (dropOp s i).reqs = s.reqs := rfl
@[simp] theorem dropOp_misses (s : State) (i : Nat) : (dropOp s i).misses = s.misses := rfl
@[simp] theorem dropOp_replies (s : State) (i : Nat) : (dropOp s i).replies = s.replies := rfl
@[simp] theorem dropOp_wrhReplies (s : State) (i : Nat) : (dropOp s i).wrhReplies = s.wrhReplies := rfl
@[simp] theorem dropOp_writebacks (s : State) (i : Nat) : (dropOp s i).writebacks = s.writebacks := rfl
@[simp] theorem dropOp_staged (s : State) (i : Nat) : (dropOp s i).staged = s.staged := rfl
@[simp] theorem dropOp_regions (s : State) (i : Nat) : (dropOp s i).regions = s.regions := rfl
@[simp] theorem dropOp_commits (s : State) (i : Nat) : (dropOp s i).commits = s.commits := rfl
@[simp] theorem dropOp_mx (s : State) (i : Nat) : (dropOp s i).mx = s.mx := rfl
@[simp] theorem dropOp_copies (s : State) (i : Nat) : (dropOp s i).copies = s.copies := rfl
@[simp] theorem dropOp_colls (s : State) (i : Nat) : (dropOp s i).colls = s.colls := rfl
@[simp] theorem dropOp_parts (s : State) (i : Nat) : (dropOp s i).parts = s.parts := rfl
@[simp] theorem dropOp_tlb (s : State) (i : Nat) : (dropOp s i).tlb = s.tlb := rfl
@[simp] theorem dropOp_walks (s : State) (i : Nat) : (dropOp s i).walks = s.walks := rfl
@[simp] theorem dropOp_invals (s : State) (i : Nat) : (dropOp s i).invals = s.invals := rfl
@[simp] theorem dropOp_partitions (s : State) (i : Nat) : (dropOp s i).partitions = s.partitions := rfl
@[simp] theorem dropOp_pods (s : State) (i : Nat) : (dropOp s i).pods = s.pods := rfl
@[simp] theorem dropOp_recorders (s : State) (i : Nat) : (dropOp s i).recorders = s.recorders := rfl
@[simp] theorem dropOp_mgc (s : State) (i : Nat) : (dropOp s i).mgc = s.mgc := rfl
@[simp] theorem dropOp_szl (s : State) (i : Nat) : (dropOp s i).szl = s.szl := rfl
@[simp] theorem dropOp_fabFrozen (s : State) (i : Nat) : (dropOp s i).fabFrozen = s.fabFrozen := rfl
@[simp] theorem dropOp_fabHeld (s : State) (i : Nat) : (dropOp s i).fabHeld = s.fabHeld := rfl
@[simp] theorem dropOp_fabReplies (s : State) (i : Nat) : (dropOp s i).fabReplies = s.fabReplies := rfl
@[simp] theorem dropOp_lost (s : State) (i : Nat) : (dropOp s i).lost = s.lost := rfl
@[simp] theorem dropOp_hostReply (s : State) (i : Nat) : (dropOp s i).hostReply = s.hostReply := rfl
@[simp] theorem dropOp_interrupts (s : State) (i : Nat) : (dropOp s i).interrupts = s.interrupts := rfl

/-! ### dropReq -/

@[simp] theorem dropReq_cycle (s : State) (i : Nat) : (dropReq s i).cycle = s.cycle := rfl
@[simp] theorem dropReq_tick (s : State) (i : Nat) : (dropReq s i).tick = s.tick := rfl
@[simp] theorem dropReq_agenda (s : State) (i : Nat) : (dropReq s i).agenda = s.agenda := rfl
@[simp] theorem dropReq_cur (s : State) (i : Nat) : (dropReq s i).cur = s.cur := rfl
@[simp] theorem dropReq_nextId (s : State) (i : Nat) : (dropReq s i).nextId = s.nextId := rfl
@[simp] theorem dropReq_cores (s : State) (i : Nat) : (dropReq s i).cores = s.cores := rfl
@[simp] theorem dropReq_quads (s : State) (i : Nat) : (dropReq s i).quads = s.quads := rfl
@[simp] theorem dropReq_warps (s : State) (i : Nat) : (dropReq s i).warps = s.warps := rfl
@[simp] theorem dropReq_teams (s : State) (i : Nat) : (dropReq s i).teams = s.teams := rfl
@[simp] theorem dropReq_gangs (s : State) (i : Nat) : (dropReq s i).gangs = s.gangs := rfl
@[simp] theorem dropReq_grids (s : State) (i : Nat) : (dropReq s i).grids = s.grids := rfl
@[simp] theorem dropReq_store (s : State) (i : Nat) : (dropReq s i).store = s.store := rfl
@[simp] theorem dropReq_upsets (s : State) (i : Nat) : (dropReq s i).upsets = s.upsets := rfl
@[simp] theorem dropReq_acc (s : State) (i : Nat) : (dropReq s i).acc = s.acc := rfl
@[simp] theorem dropReq_accUpsets (s : State) (i : Nat) : (dropReq s i).accUpsets = s.accUpsets := rfl
@[simp] theorem dropReq_hbm (s : State) (i : Nat) : (dropReq s i).hbm = s.hbm := rfl
@[simp] theorem dropReq_host (s : State) (i : Nat) : (dropReq s i).host = s.host := rfl
@[simp] theorem dropReq_l1s (s : State) (i : Nat) : (dropReq s i).l1s = s.l1s := rfl
@[simp] theorem dropReq_homes (s : State) (i : Nat) : (dropReq s i).homes = s.homes := rfl
@[simp] theorem dropReq_slotCount (s : State) (i : Nat) : (dropReq s i).slotCount = s.slotCount := rfl
@[simp] theorem dropReq_flying (s : State) (i : Nat) : (dropReq s i).flying = s.flying := rfl
@[simp] theorem dropReq_misses (s : State) (i : Nat) : (dropReq s i).misses = s.misses := rfl
@[simp] theorem dropReq_replies (s : State) (i : Nat) : (dropReq s i).replies = s.replies := rfl
@[simp] theorem dropReq_wrhReplies (s : State) (i : Nat) : (dropReq s i).wrhReplies = s.wrhReplies := rfl
@[simp] theorem dropReq_writebacks (s : State) (i : Nat) : (dropReq s i).writebacks = s.writebacks := rfl
@[simp] theorem dropReq_ops (s : State) (i : Nat) : (dropReq s i).ops = s.ops := rfl
@[simp] theorem dropReq_staged (s : State) (i : Nat) : (dropReq s i).staged = s.staged := rfl
@[simp] theorem dropReq_regions (s : State) (i : Nat) : (dropReq s i).regions = s.regions := rfl
@[simp] theorem dropReq_commits (s : State) (i : Nat) : (dropReq s i).commits = s.commits := rfl
@[simp] theorem dropReq_mx (s : State) (i : Nat) : (dropReq s i).mx = s.mx := rfl
@[simp] theorem dropReq_copies (s : State) (i : Nat) : (dropReq s i).copies = s.copies := rfl
@[simp] theorem dropReq_colls (s : State) (i : Nat) : (dropReq s i).colls = s.colls := rfl
@[simp] theorem dropReq_parts (s : State) (i : Nat) : (dropReq s i).parts = s.parts := rfl
@[simp] theorem dropReq_tlb (s : State) (i : Nat) : (dropReq s i).tlb = s.tlb := rfl
@[simp] theorem dropReq_walks (s : State) (i : Nat) : (dropReq s i).walks = s.walks := rfl
@[simp] theorem dropReq_invals (s : State) (i : Nat) : (dropReq s i).invals = s.invals := rfl
@[simp] theorem dropReq_partitions (s : State) (i : Nat) : (dropReq s i).partitions = s.partitions := rfl
@[simp] theorem dropReq_pods (s : State) (i : Nat) : (dropReq s i).pods = s.pods := rfl
@[simp] theorem dropReq_recorders (s : State) (i : Nat) : (dropReq s i).recorders = s.recorders := rfl
@[simp] theorem dropReq_mgc (s : State) (i : Nat) : (dropReq s i).mgc = s.mgc := rfl
@[simp] theorem dropReq_szl (s : State) (i : Nat) : (dropReq s i).szl = s.szl := rfl
@[simp] theorem dropReq_fabFrozen (s : State) (i : Nat) : (dropReq s i).fabFrozen = s.fabFrozen := rfl
@[simp] theorem dropReq_fabHeld (s : State) (i : Nat) : (dropReq s i).fabHeld = s.fabHeld := rfl
@[simp] theorem dropReq_fabReplies (s : State) (i : Nat) : (dropReq s i).fabReplies = s.fabReplies := rfl
@[simp] theorem dropReq_lost (s : State) (i : Nat) : (dropReq s i).lost = s.lost := rfl
@[simp] theorem dropReq_hostReply (s : State) (i : Nat) : (dropReq s i).hostReply = s.hostReply := rfl
@[simp] theorem dropReq_interrupts (s : State) (i : Nat) : (dropReq s i).interrupts = s.interrupts := rfl

/-! ### dropMiss -/

@[simp] theorem dropMiss_cycle (s : State) (i : Nat) : (dropMiss s i).cycle = s.cycle := rfl
@[simp] theorem dropMiss_tick (s : State) (i : Nat) : (dropMiss s i).tick = s.tick := rfl
@[simp] theorem dropMiss_agenda (s : State) (i : Nat) : (dropMiss s i).agenda = s.agenda := rfl
@[simp] theorem dropMiss_cur (s : State) (i : Nat) : (dropMiss s i).cur = s.cur := rfl
@[simp] theorem dropMiss_nextId (s : State) (i : Nat) : (dropMiss s i).nextId = s.nextId := rfl
@[simp] theorem dropMiss_cores (s : State) (i : Nat) : (dropMiss s i).cores = s.cores := rfl
@[simp] theorem dropMiss_quads (s : State) (i : Nat) : (dropMiss s i).quads = s.quads := rfl
@[simp] theorem dropMiss_warps (s : State) (i : Nat) : (dropMiss s i).warps = s.warps := rfl
@[simp] theorem dropMiss_teams (s : State) (i : Nat) : (dropMiss s i).teams = s.teams := rfl
@[simp] theorem dropMiss_gangs (s : State) (i : Nat) : (dropMiss s i).gangs = s.gangs := rfl
@[simp] theorem dropMiss_grids (s : State) (i : Nat) : (dropMiss s i).grids = s.grids := rfl
@[simp] theorem dropMiss_store (s : State) (i : Nat) : (dropMiss s i).store = s.store := rfl
@[simp] theorem dropMiss_upsets (s : State) (i : Nat) : (dropMiss s i).upsets = s.upsets := rfl
@[simp] theorem dropMiss_acc (s : State) (i : Nat) : (dropMiss s i).acc = s.acc := rfl
@[simp] theorem dropMiss_accUpsets (s : State) (i : Nat) : (dropMiss s i).accUpsets = s.accUpsets := rfl
@[simp] theorem dropMiss_hbm (s : State) (i : Nat) : (dropMiss s i).hbm = s.hbm := rfl
@[simp] theorem dropMiss_host (s : State) (i : Nat) : (dropMiss s i).host = s.host := rfl
@[simp] theorem dropMiss_l1s (s : State) (i : Nat) : (dropMiss s i).l1s = s.l1s := rfl
@[simp] theorem dropMiss_homes (s : State) (i : Nat) : (dropMiss s i).homes = s.homes := rfl
@[simp] theorem dropMiss_slotCount (s : State) (i : Nat) : (dropMiss s i).slotCount = s.slotCount := rfl
@[simp] theorem dropMiss_flying (s : State) (i : Nat) : (dropMiss s i).flying = s.flying := rfl
@[simp] theorem dropMiss_reqs (s : State) (i : Nat) : (dropMiss s i).reqs = s.reqs := rfl
@[simp] theorem dropMiss_replies (s : State) (i : Nat) : (dropMiss s i).replies = s.replies := rfl
@[simp] theorem dropMiss_wrhReplies (s : State) (i : Nat) : (dropMiss s i).wrhReplies = s.wrhReplies := rfl
@[simp] theorem dropMiss_writebacks (s : State) (i : Nat) : (dropMiss s i).writebacks = s.writebacks := rfl
@[simp] theorem dropMiss_ops (s : State) (i : Nat) : (dropMiss s i).ops = s.ops := rfl
@[simp] theorem dropMiss_staged (s : State) (i : Nat) : (dropMiss s i).staged = s.staged := rfl
@[simp] theorem dropMiss_regions (s : State) (i : Nat) : (dropMiss s i).regions = s.regions := rfl
@[simp] theorem dropMiss_commits (s : State) (i : Nat) : (dropMiss s i).commits = s.commits := rfl
@[simp] theorem dropMiss_mx (s : State) (i : Nat) : (dropMiss s i).mx = s.mx := rfl
@[simp] theorem dropMiss_copies (s : State) (i : Nat) : (dropMiss s i).copies = s.copies := rfl
@[simp] theorem dropMiss_colls (s : State) (i : Nat) : (dropMiss s i).colls = s.colls := rfl
@[simp] theorem dropMiss_parts (s : State) (i : Nat) : (dropMiss s i).parts = s.parts := rfl
@[simp] theorem dropMiss_tlb (s : State) (i : Nat) : (dropMiss s i).tlb = s.tlb := rfl
@[simp] theorem dropMiss_walks (s : State) (i : Nat) : (dropMiss s i).walks = s.walks := rfl
@[simp] theorem dropMiss_invals (s : State) (i : Nat) : (dropMiss s i).invals = s.invals := rfl
@[simp] theorem dropMiss_partitions (s : State) (i : Nat) : (dropMiss s i).partitions = s.partitions := rfl
@[simp] theorem dropMiss_pods (s : State) (i : Nat) : (dropMiss s i).pods = s.pods := rfl
@[simp] theorem dropMiss_recorders (s : State) (i : Nat) : (dropMiss s i).recorders = s.recorders := rfl
@[simp] theorem dropMiss_mgc (s : State) (i : Nat) : (dropMiss s i).mgc = s.mgc := rfl
@[simp] theorem dropMiss_szl (s : State) (i : Nat) : (dropMiss s i).szl = s.szl := rfl
@[simp] theorem dropMiss_fabFrozen (s : State) (i : Nat) : (dropMiss s i).fabFrozen = s.fabFrozen := rfl
@[simp] theorem dropMiss_fabHeld (s : State) (i : Nat) : (dropMiss s i).fabHeld = s.fabHeld := rfl
@[simp] theorem dropMiss_fabReplies (s : State) (i : Nat) : (dropMiss s i).fabReplies = s.fabReplies := rfl
@[simp] theorem dropMiss_lost (s : State) (i : Nat) : (dropMiss s i).lost = s.lost := rfl
@[simp] theorem dropMiss_hostReply (s : State) (i : Nat) : (dropMiss s i).hostReply = s.hostReply := rfl
@[simp] theorem dropMiss_interrupts (s : State) (i : Nat) : (dropMiss s i).interrupts = s.interrupts := rfl

/-! ### dropCopy -/

@[simp] theorem dropCopy_cycle (s : State) (i : Nat) : (dropCopy s i).cycle = s.cycle := rfl
@[simp] theorem dropCopy_tick (s : State) (i : Nat) : (dropCopy s i).tick = s.tick := rfl
@[simp] theorem dropCopy_agenda (s : State) (i : Nat) : (dropCopy s i).agenda = s.agenda := rfl
@[simp] theorem dropCopy_cur (s : State) (i : Nat) : (dropCopy s i).cur = s.cur := rfl
@[simp] theorem dropCopy_nextId (s : State) (i : Nat) : (dropCopy s i).nextId = s.nextId := rfl
@[simp] theorem dropCopy_cores (s : State) (i : Nat) : (dropCopy s i).cores = s.cores := rfl
@[simp] theorem dropCopy_quads (s : State) (i : Nat) : (dropCopy s i).quads = s.quads := rfl
@[simp] theorem dropCopy_warps (s : State) (i : Nat) : (dropCopy s i).warps = s.warps := rfl
@[simp] theorem dropCopy_teams (s : State) (i : Nat) : (dropCopy s i).teams = s.teams := rfl
@[simp] theorem dropCopy_gangs (s : State) (i : Nat) : (dropCopy s i).gangs = s.gangs := rfl
@[simp] theorem dropCopy_grids (s : State) (i : Nat) : (dropCopy s i).grids = s.grids := rfl
@[simp] theorem dropCopy_store (s : State) (i : Nat) : (dropCopy s i).store = s.store := rfl
@[simp] theorem dropCopy_upsets (s : State) (i : Nat) : (dropCopy s i).upsets = s.upsets := rfl
@[simp] theorem dropCopy_acc (s : State) (i : Nat) : (dropCopy s i).acc = s.acc := rfl
@[simp] theorem dropCopy_accUpsets (s : State) (i : Nat) : (dropCopy s i).accUpsets = s.accUpsets := rfl
@[simp] theorem dropCopy_hbm (s : State) (i : Nat) : (dropCopy s i).hbm = s.hbm := rfl
@[simp] theorem dropCopy_host (s : State) (i : Nat) : (dropCopy s i).host = s.host := rfl
@[simp] theorem dropCopy_l1s (s : State) (i : Nat) : (dropCopy s i).l1s = s.l1s := rfl
@[simp] theorem dropCopy_homes (s : State) (i : Nat) : (dropCopy s i).homes = s.homes := rfl
@[simp] theorem dropCopy_slotCount (s : State) (i : Nat) : (dropCopy s i).slotCount = s.slotCount := rfl
@[simp] theorem dropCopy_flying (s : State) (i : Nat) : (dropCopy s i).flying = s.flying := rfl
@[simp] theorem dropCopy_reqs (s : State) (i : Nat) : (dropCopy s i).reqs = s.reqs := rfl
@[simp] theorem dropCopy_misses (s : State) (i : Nat) : (dropCopy s i).misses = s.misses := rfl
@[simp] theorem dropCopy_replies (s : State) (i : Nat) : (dropCopy s i).replies = s.replies := rfl
@[simp] theorem dropCopy_wrhReplies (s : State) (i : Nat) : (dropCopy s i).wrhReplies = s.wrhReplies := rfl
@[simp] theorem dropCopy_writebacks (s : State) (i : Nat) : (dropCopy s i).writebacks = s.writebacks := rfl
@[simp] theorem dropCopy_ops (s : State) (i : Nat) : (dropCopy s i).ops = s.ops := rfl
@[simp] theorem dropCopy_staged (s : State) (i : Nat) : (dropCopy s i).staged = s.staged := rfl
@[simp] theorem dropCopy_regions (s : State) (i : Nat) : (dropCopy s i).regions = s.regions := rfl
@[simp] theorem dropCopy_commits (s : State) (i : Nat) : (dropCopy s i).commits = s.commits := rfl
@[simp] theorem dropCopy_mx (s : State) (i : Nat) : (dropCopy s i).mx = s.mx := rfl
@[simp] theorem dropCopy_colls (s : State) (i : Nat) : (dropCopy s i).colls = s.colls := rfl
@[simp] theorem dropCopy_parts (s : State) (i : Nat) : (dropCopy s i).parts = s.parts := rfl
@[simp] theorem dropCopy_tlb (s : State) (i : Nat) : (dropCopy s i).tlb = s.tlb := rfl
@[simp] theorem dropCopy_walks (s : State) (i : Nat) : (dropCopy s i).walks = s.walks := rfl
@[simp] theorem dropCopy_invals (s : State) (i : Nat) : (dropCopy s i).invals = s.invals := rfl
@[simp] theorem dropCopy_partitions (s : State) (i : Nat) : (dropCopy s i).partitions = s.partitions := rfl
@[simp] theorem dropCopy_pods (s : State) (i : Nat) : (dropCopy s i).pods = s.pods := rfl
@[simp] theorem dropCopy_recorders (s : State) (i : Nat) : (dropCopy s i).recorders = s.recorders := rfl
@[simp] theorem dropCopy_mgc (s : State) (i : Nat) : (dropCopy s i).mgc = s.mgc := rfl
@[simp] theorem dropCopy_szl (s : State) (i : Nat) : (dropCopy s i).szl = s.szl := rfl
@[simp] theorem dropCopy_fabFrozen (s : State) (i : Nat) : (dropCopy s i).fabFrozen = s.fabFrozen := rfl
@[simp] theorem dropCopy_fabHeld (s : State) (i : Nat) : (dropCopy s i).fabHeld = s.fabHeld := rfl
@[simp] theorem dropCopy_fabReplies (s : State) (i : Nat) : (dropCopy s i).fabReplies = s.fabReplies := rfl
@[simp] theorem dropCopy_lost (s : State) (i : Nat) : (dropCopy s i).lost = s.lost := rfl
@[simp] theorem dropCopy_hostReply (s : State) (i : Nat) : (dropCopy s i).hostReply = s.hostReply := rfl
@[simp] theorem dropCopy_interrupts (s : State) (i : Nat) : (dropCopy s i).interrupts = s.interrupts := rfl

/-! ### dropColl -/

@[simp] theorem dropColl_cycle (s : State) (i : Nat) : (dropColl s i).cycle = s.cycle := rfl
@[simp] theorem dropColl_tick (s : State) (i : Nat) : (dropColl s i).tick = s.tick := rfl
@[simp] theorem dropColl_agenda (s : State) (i : Nat) : (dropColl s i).agenda = s.agenda := rfl
@[simp] theorem dropColl_cur (s : State) (i : Nat) : (dropColl s i).cur = s.cur := rfl
@[simp] theorem dropColl_nextId (s : State) (i : Nat) : (dropColl s i).nextId = s.nextId := rfl
@[simp] theorem dropColl_cores (s : State) (i : Nat) : (dropColl s i).cores = s.cores := rfl
@[simp] theorem dropColl_quads (s : State) (i : Nat) : (dropColl s i).quads = s.quads := rfl
@[simp] theorem dropColl_warps (s : State) (i : Nat) : (dropColl s i).warps = s.warps := rfl
@[simp] theorem dropColl_teams (s : State) (i : Nat) : (dropColl s i).teams = s.teams := rfl
@[simp] theorem dropColl_gangs (s : State) (i : Nat) : (dropColl s i).gangs = s.gangs := rfl
@[simp] theorem dropColl_grids (s : State) (i : Nat) : (dropColl s i).grids = s.grids := rfl
@[simp] theorem dropColl_store (s : State) (i : Nat) : (dropColl s i).store = s.store := rfl
@[simp] theorem dropColl_upsets (s : State) (i : Nat) : (dropColl s i).upsets = s.upsets := rfl
@[simp] theorem dropColl_acc (s : State) (i : Nat) : (dropColl s i).acc = s.acc := rfl
@[simp] theorem dropColl_accUpsets (s : State) (i : Nat) : (dropColl s i).accUpsets = s.accUpsets := rfl
@[simp] theorem dropColl_hbm (s : State) (i : Nat) : (dropColl s i).hbm = s.hbm := rfl
@[simp] theorem dropColl_host (s : State) (i : Nat) : (dropColl s i).host = s.host := rfl
@[simp] theorem dropColl_l1s (s : State) (i : Nat) : (dropColl s i).l1s = s.l1s := rfl
@[simp] theorem dropColl_homes (s : State) (i : Nat) : (dropColl s i).homes = s.homes := rfl
@[simp] theorem dropColl_slotCount (s : State) (i : Nat) : (dropColl s i).slotCount = s.slotCount := rfl
@[simp] theorem dropColl_flying (s : State) (i : Nat) : (dropColl s i).flying = s.flying := rfl
@[simp] theorem dropColl_reqs (s : State) (i : Nat) : (dropColl s i).reqs = s.reqs := rfl
@[simp] theorem dropColl_misses (s : State) (i : Nat) : (dropColl s i).misses = s.misses := rfl
@[simp] theorem dropColl_replies (s : State) (i : Nat) : (dropColl s i).replies = s.replies := rfl
@[simp] theorem dropColl_wrhReplies (s : State) (i : Nat) : (dropColl s i).wrhReplies = s.wrhReplies := rfl
@[simp] theorem dropColl_writebacks (s : State) (i : Nat) : (dropColl s i).writebacks = s.writebacks := rfl
@[simp] theorem dropColl_ops (s : State) (i : Nat) : (dropColl s i).ops = s.ops := rfl
@[simp] theorem dropColl_staged (s : State) (i : Nat) : (dropColl s i).staged = s.staged := rfl
@[simp] theorem dropColl_regions (s : State) (i : Nat) : (dropColl s i).regions = s.regions := rfl
@[simp] theorem dropColl_commits (s : State) (i : Nat) : (dropColl s i).commits = s.commits := rfl
@[simp] theorem dropColl_mx (s : State) (i : Nat) : (dropColl s i).mx = s.mx := rfl
@[simp] theorem dropColl_copies (s : State) (i : Nat) : (dropColl s i).copies = s.copies := rfl
@[simp] theorem dropColl_parts (s : State) (i : Nat) : (dropColl s i).parts = s.parts := rfl
@[simp] theorem dropColl_tlb (s : State) (i : Nat) : (dropColl s i).tlb = s.tlb := rfl
@[simp] theorem dropColl_walks (s : State) (i : Nat) : (dropColl s i).walks = s.walks := rfl
@[simp] theorem dropColl_invals (s : State) (i : Nat) : (dropColl s i).invals = s.invals := rfl
@[simp] theorem dropColl_partitions (s : State) (i : Nat) : (dropColl s i).partitions = s.partitions := rfl
@[simp] theorem dropColl_pods (s : State) (i : Nat) : (dropColl s i).pods = s.pods := rfl
@[simp] theorem dropColl_recorders (s : State) (i : Nat) : (dropColl s i).recorders = s.recorders := rfl
@[simp] theorem dropColl_mgc (s : State) (i : Nat) : (dropColl s i).mgc = s.mgc := rfl
@[simp] theorem dropColl_szl (s : State) (i : Nat) : (dropColl s i).szl = s.szl := rfl
@[simp] theorem dropColl_fabFrozen (s : State) (i : Nat) : (dropColl s i).fabFrozen = s.fabFrozen := rfl
@[simp] theorem dropColl_fabHeld (s : State) (i : Nat) : (dropColl s i).fabHeld = s.fabHeld := rfl
@[simp] theorem dropColl_fabReplies (s : State) (i : Nat) : (dropColl s i).fabReplies = s.fabReplies := rfl
@[simp] theorem dropColl_lost (s : State) (i : Nat) : (dropColl s i).lost = s.lost := rfl
@[simp] theorem dropColl_hostReply (s : State) (i : Nat) : (dropColl s i).hostReply = s.hostReply := rfl
@[simp] theorem dropColl_interrupts (s : State) (i : Nat) : (dropColl s i).interrupts = s.interrupts := rfl

/-! ### dropPart -/

@[simp] theorem dropPart_cycle (s : State) (i : Nat) : (dropPart s i).cycle = s.cycle := rfl
@[simp] theorem dropPart_tick (s : State) (i : Nat) : (dropPart s i).tick = s.tick := rfl
@[simp] theorem dropPart_agenda (s : State) (i : Nat) : (dropPart s i).agenda = s.agenda := rfl
@[simp] theorem dropPart_cur (s : State) (i : Nat) : (dropPart s i).cur = s.cur := rfl
@[simp] theorem dropPart_nextId (s : State) (i : Nat) : (dropPart s i).nextId = s.nextId := rfl
@[simp] theorem dropPart_cores (s : State) (i : Nat) : (dropPart s i).cores = s.cores := rfl
@[simp] theorem dropPart_quads (s : State) (i : Nat) : (dropPart s i).quads = s.quads := rfl
@[simp] theorem dropPart_warps (s : State) (i : Nat) : (dropPart s i).warps = s.warps := rfl
@[simp] theorem dropPart_teams (s : State) (i : Nat) : (dropPart s i).teams = s.teams := rfl
@[simp] theorem dropPart_gangs (s : State) (i : Nat) : (dropPart s i).gangs = s.gangs := rfl
@[simp] theorem dropPart_grids (s : State) (i : Nat) : (dropPart s i).grids = s.grids := rfl
@[simp] theorem dropPart_store (s : State) (i : Nat) : (dropPart s i).store = s.store := rfl
@[simp] theorem dropPart_upsets (s : State) (i : Nat) : (dropPart s i).upsets = s.upsets := rfl
@[simp] theorem dropPart_acc (s : State) (i : Nat) : (dropPart s i).acc = s.acc := rfl
@[simp] theorem dropPart_accUpsets (s : State) (i : Nat) : (dropPart s i).accUpsets = s.accUpsets := rfl
@[simp] theorem dropPart_hbm (s : State) (i : Nat) : (dropPart s i).hbm = s.hbm := rfl
@[simp] theorem dropPart_host (s : State) (i : Nat) : (dropPart s i).host = s.host := rfl
@[simp] theorem dropPart_l1s (s : State) (i : Nat) : (dropPart s i).l1s = s.l1s := rfl
@[simp] theorem dropPart_homes (s : State) (i : Nat) : (dropPart s i).homes = s.homes := rfl
@[simp] theorem dropPart_slotCount (s : State) (i : Nat) : (dropPart s i).slotCount = s.slotCount := rfl
@[simp] theorem dropPart_flying (s : State) (i : Nat) : (dropPart s i).flying = s.flying := rfl
@[simp] theorem dropPart_reqs (s : State) (i : Nat) : (dropPart s i).reqs = s.reqs := rfl
@[simp] theorem dropPart_misses (s : State) (i : Nat) : (dropPart s i).misses = s.misses := rfl
@[simp] theorem dropPart_replies (s : State) (i : Nat) : (dropPart s i).replies = s.replies := rfl
@[simp] theorem dropPart_wrhReplies (s : State) (i : Nat) : (dropPart s i).wrhReplies = s.wrhReplies := rfl
@[simp] theorem dropPart_writebacks (s : State) (i : Nat) : (dropPart s i).writebacks = s.writebacks := rfl
@[simp] theorem dropPart_ops (s : State) (i : Nat) : (dropPart s i).ops = s.ops := rfl
@[simp] theorem dropPart_staged (s : State) (i : Nat) : (dropPart s i).staged = s.staged := rfl
@[simp] theorem dropPart_regions (s : State) (i : Nat) : (dropPart s i).regions = s.regions := rfl
@[simp] theorem dropPart_commits (s : State) (i : Nat) : (dropPart s i).commits = s.commits := rfl
@[simp] theorem dropPart_mx (s : State) (i : Nat) : (dropPart s i).mx = s.mx := rfl
@[simp] theorem dropPart_copies (s : State) (i : Nat) : (dropPart s i).copies = s.copies := rfl
@[simp] theorem dropPart_colls (s : State) (i : Nat) : (dropPart s i).colls = s.colls := rfl
@[simp] theorem dropPart_tlb (s : State) (i : Nat) : (dropPart s i).tlb = s.tlb := rfl
@[simp] theorem dropPart_walks (s : State) (i : Nat) : (dropPart s i).walks = s.walks := rfl
@[simp] theorem dropPart_invals (s : State) (i : Nat) : (dropPart s i).invals = s.invals := rfl
@[simp] theorem dropPart_partitions (s : State) (i : Nat) : (dropPart s i).partitions = s.partitions := rfl
@[simp] theorem dropPart_pods (s : State) (i : Nat) : (dropPart s i).pods = s.pods := rfl
@[simp] theorem dropPart_recorders (s : State) (i : Nat) : (dropPart s i).recorders = s.recorders := rfl
@[simp] theorem dropPart_mgc (s : State) (i : Nat) : (dropPart s i).mgc = s.mgc := rfl
@[simp] theorem dropPart_szl (s : State) (i : Nat) : (dropPart s i).szl = s.szl := rfl
@[simp] theorem dropPart_fabFrozen (s : State) (i : Nat) : (dropPart s i).fabFrozen = s.fabFrozen := rfl
@[simp] theorem dropPart_fabHeld (s : State) (i : Nat) : (dropPart s i).fabHeld = s.fabHeld := rfl
@[simp] theorem dropPart_fabReplies (s : State) (i : Nat) : (dropPart s i).fabReplies = s.fabReplies := rfl
@[simp] theorem dropPart_lost (s : State) (i : Nat) : (dropPart s i).lost = s.lost := rfl
@[simp] theorem dropPart_hostReply (s : State) (i : Nat) : (dropPart s i).hostReply = s.hostReply := rfl
@[simp] theorem dropPart_interrupts (s : State) (i : Nat) : (dropPart s i).interrupts = s.interrupts := rfl

/-! ### setCore -/

@[simp] theorem setCore_cycle (s : State) (c : Nat) (x : CoreSt) : (setCore s c x).cycle = s.cycle := rfl
@[simp] theorem setCore_tick (s : State) (c : Nat) (x : CoreSt) : (setCore s c x).tick = s.tick := rfl
@[simp] theorem setCore_agenda (s : State) (c : Nat) (x : CoreSt) : (setCore s c x).agenda = s.agenda := rfl
@[simp] theorem setCore_cur (s : State) (c : Nat) (x : CoreSt) : (setCore s c x).cur = s.cur := rfl
@[simp] theorem setCore_nextId (s : State) (c : Nat) (x : CoreSt) : (setCore s c x).nextId = s.nextId := rfl
@[simp] theorem setCore_quads (s : State) (c : Nat) (x : CoreSt) : (setCore s c x).quads = s.quads := rfl
@[simp] theorem setCore_warps (s : State) (c : Nat) (x : CoreSt) : (setCore s c x).warps = s.warps := rfl
@[simp] theorem setCore_teams (s : State) (c : Nat) (x : CoreSt) : (setCore s c x).teams = s.teams := rfl
@[simp] theorem setCore_gangs (s : State) (c : Nat) (x : CoreSt) : (setCore s c x).gangs = s.gangs := rfl
@[simp] theorem setCore_grids (s : State) (c : Nat) (x : CoreSt) : (setCore s c x).grids = s.grids := rfl
@[simp] theorem setCore_store (s : State) (c : Nat) (x : CoreSt) : (setCore s c x).store = s.store := rfl
@[simp] theorem setCore_upsets (s : State) (c : Nat) (x : CoreSt) : (setCore s c x).upsets = s.upsets := rfl
@[simp] theorem setCore_acc (s : State) (c : Nat) (x : CoreSt) : (setCore s c x).acc = s.acc := rfl
@[simp] theorem setCore_accUpsets (s : State) (c : Nat) (x : CoreSt) : (setCore s c x).accUpsets = s.accUpsets := rfl
@[simp] theorem setCore_hbm (s : State) (c : Nat) (x : CoreSt) : (setCore s c x).hbm = s.hbm := rfl
@[simp] theorem setCore_host (s : State) (c : Nat) (x : CoreSt) : (setCore s c x).host = s.host := rfl
@[simp] theorem setCore_l1s (s : State) (c : Nat) (x : CoreSt) : (setCore s c x).l1s = s.l1s := rfl
@[simp] theorem setCore_homes (s : State) (c : Nat) (x : CoreSt) : (setCore s c x).homes = s.homes := rfl
@[simp] theorem setCore_slotCount (s : State) (c : Nat) (x : CoreSt) : (setCore s c x).slotCount = s.slotCount := rfl
@[simp] theorem setCore_flying (s : State) (c : Nat) (x : CoreSt) : (setCore s c x).flying = s.flying := rfl
@[simp] theorem setCore_reqs (s : State) (c : Nat) (x : CoreSt) : (setCore s c x).reqs = s.reqs := rfl
@[simp] theorem setCore_misses (s : State) (c : Nat) (x : CoreSt) : (setCore s c x).misses = s.misses := rfl
@[simp] theorem setCore_replies (s : State) (c : Nat) (x : CoreSt) : (setCore s c x).replies = s.replies := rfl
@[simp] theorem setCore_wrhReplies (s : State) (c : Nat) (x : CoreSt) : (setCore s c x).wrhReplies = s.wrhReplies := rfl
@[simp] theorem setCore_writebacks (s : State) (c : Nat) (x : CoreSt) : (setCore s c x).writebacks = s.writebacks := rfl
@[simp] theorem setCore_ops (s : State) (c : Nat) (x : CoreSt) : (setCore s c x).ops = s.ops := rfl
@[simp] theorem setCore_staged (s : State) (c : Nat) (x : CoreSt) : (setCore s c x).staged = s.staged := rfl
@[simp] theorem setCore_regions (s : State) (c : Nat) (x : CoreSt) : (setCore s c x).regions = s.regions := rfl
@[simp] theorem setCore_commits (s : State) (c : Nat) (x : CoreSt) : (setCore s c x).commits = s.commits := rfl
@[simp] theorem setCore_mx (s : State) (c : Nat) (x : CoreSt) : (setCore s c x).mx = s.mx := rfl
@[simp] theorem setCore_copies (s : State) (c : Nat) (x : CoreSt) : (setCore s c x).copies = s.copies := rfl
@[simp] theorem setCore_colls (s : State) (c : Nat) (x : CoreSt) : (setCore s c x).colls = s.colls := rfl
@[simp] theorem setCore_parts (s : State) (c : Nat) (x : CoreSt) : (setCore s c x).parts = s.parts := rfl
@[simp] theorem setCore_tlb (s : State) (c : Nat) (x : CoreSt) : (setCore s c x).tlb = s.tlb := rfl
@[simp] theorem setCore_walks (s : State) (c : Nat) (x : CoreSt) : (setCore s c x).walks = s.walks := rfl
@[simp] theorem setCore_invals (s : State) (c : Nat) (x : CoreSt) : (setCore s c x).invals = s.invals := rfl
@[simp] theorem setCore_partitions (s : State) (c : Nat) (x : CoreSt) : (setCore s c x).partitions = s.partitions := rfl
@[simp] theorem setCore_pods (s : State) (c : Nat) (x : CoreSt) : (setCore s c x).pods = s.pods := rfl
@[simp] theorem setCore_recorders (s : State) (c : Nat) (x : CoreSt) : (setCore s c x).recorders = s.recorders := rfl
@[simp] theorem setCore_mgc (s : State) (c : Nat) (x : CoreSt) : (setCore s c x).mgc = s.mgc := rfl
@[simp] theorem setCore_szl (s : State) (c : Nat) (x : CoreSt) : (setCore s c x).szl = s.szl := rfl
@[simp] theorem setCore_fabFrozen (s : State) (c : Nat) (x : CoreSt) : (setCore s c x).fabFrozen = s.fabFrozen := rfl
@[simp] theorem setCore_fabHeld (s : State) (c : Nat) (x : CoreSt) : (setCore s c x).fabHeld = s.fabHeld := rfl
@[simp] theorem setCore_fabReplies (s : State) (c : Nat) (x : CoreSt) : (setCore s c x).fabReplies = s.fabReplies := rfl
@[simp] theorem setCore_lost (s : State) (c : Nat) (x : CoreSt) : (setCore s c x).lost = s.lost := rfl
@[simp] theorem setCore_hostReply (s : State) (c : Nat) (x : CoreSt) : (setCore s c x).hostReply = s.hostReply := rfl
@[simp] theorem setCore_interrupts (s : State) (c : Nat) (x : CoreSt) : (setCore s c x).interrupts = s.interrupts := rfl

/-! ### setQuad -/

@[simp] theorem setQuad_cycle (s : State) (q : Nat) (x : Quad) : (setQuad s q x).cycle = s.cycle := rfl
@[simp] theorem setQuad_tick (s : State) (q : Nat) (x : Quad) : (setQuad s q x).tick = s.tick := rfl
@[simp] theorem setQuad_agenda (s : State) (q : Nat) (x : Quad) : (setQuad s q x).agenda = s.agenda := rfl
@[simp] theorem setQuad_cur (s : State) (q : Nat) (x : Quad) : (setQuad s q x).cur = s.cur := rfl
@[simp] theorem setQuad_nextId (s : State) (q : Nat) (x : Quad) : (setQuad s q x).nextId = s.nextId := rfl
@[simp] theorem setQuad_cores (s : State) (q : Nat) (x : Quad) : (setQuad s q x).cores = s.cores := rfl
@[simp] theorem setQuad_warps (s : State) (q : Nat) (x : Quad) : (setQuad s q x).warps = s.warps := rfl
@[simp] theorem setQuad_teams (s : State) (q : Nat) (x : Quad) : (setQuad s q x).teams = s.teams := rfl
@[simp] theorem setQuad_gangs (s : State) (q : Nat) (x : Quad) : (setQuad s q x).gangs = s.gangs := rfl
@[simp] theorem setQuad_grids (s : State) (q : Nat) (x : Quad) : (setQuad s q x).grids = s.grids := rfl
@[simp] theorem setQuad_store (s : State) (q : Nat) (x : Quad) : (setQuad s q x).store = s.store := rfl
@[simp] theorem setQuad_upsets (s : State) (q : Nat) (x : Quad) : (setQuad s q x).upsets = s.upsets := rfl
@[simp] theorem setQuad_acc (s : State) (q : Nat) (x : Quad) : (setQuad s q x).acc = s.acc := rfl
@[simp] theorem setQuad_accUpsets (s : State) (q : Nat) (x : Quad) : (setQuad s q x).accUpsets = s.accUpsets := rfl
@[simp] theorem setQuad_hbm (s : State) (q : Nat) (x : Quad) : (setQuad s q x).hbm = s.hbm := rfl
@[simp] theorem setQuad_host (s : State) (q : Nat) (x : Quad) : (setQuad s q x).host = s.host := rfl
@[simp] theorem setQuad_l1s (s : State) (q : Nat) (x : Quad) : (setQuad s q x).l1s = s.l1s := rfl
@[simp] theorem setQuad_homes (s : State) (q : Nat) (x : Quad) : (setQuad s q x).homes = s.homes := rfl
@[simp] theorem setQuad_slotCount (s : State) (q : Nat) (x : Quad) : (setQuad s q x).slotCount = s.slotCount := rfl
@[simp] theorem setQuad_flying (s : State) (q : Nat) (x : Quad) : (setQuad s q x).flying = s.flying := rfl
@[simp] theorem setQuad_reqs (s : State) (q : Nat) (x : Quad) : (setQuad s q x).reqs = s.reqs := rfl
@[simp] theorem setQuad_misses (s : State) (q : Nat) (x : Quad) : (setQuad s q x).misses = s.misses := rfl
@[simp] theorem setQuad_replies (s : State) (q : Nat) (x : Quad) : (setQuad s q x).replies = s.replies := rfl
@[simp] theorem setQuad_wrhReplies (s : State) (q : Nat) (x : Quad) : (setQuad s q x).wrhReplies = s.wrhReplies := rfl
@[simp] theorem setQuad_writebacks (s : State) (q : Nat) (x : Quad) : (setQuad s q x).writebacks = s.writebacks := rfl
@[simp] theorem setQuad_ops (s : State) (q : Nat) (x : Quad) : (setQuad s q x).ops = s.ops := rfl
@[simp] theorem setQuad_staged (s : State) (q : Nat) (x : Quad) : (setQuad s q x).staged = s.staged := rfl
@[simp] theorem setQuad_regions (s : State) (q : Nat) (x : Quad) : (setQuad s q x).regions = s.regions := rfl
@[simp] theorem setQuad_commits (s : State) (q : Nat) (x : Quad) : (setQuad s q x).commits = s.commits := rfl
@[simp] theorem setQuad_mx (s : State) (q : Nat) (x : Quad) : (setQuad s q x).mx = s.mx := rfl
@[simp] theorem setQuad_copies (s : State) (q : Nat) (x : Quad) : (setQuad s q x).copies = s.copies := rfl
@[simp] theorem setQuad_colls (s : State) (q : Nat) (x : Quad) : (setQuad s q x).colls = s.colls := rfl
@[simp] theorem setQuad_parts (s : State) (q : Nat) (x : Quad) : (setQuad s q x).parts = s.parts := rfl
@[simp] theorem setQuad_tlb (s : State) (q : Nat) (x : Quad) : (setQuad s q x).tlb = s.tlb := rfl
@[simp] theorem setQuad_walks (s : State) (q : Nat) (x : Quad) : (setQuad s q x).walks = s.walks := rfl
@[simp] theorem setQuad_invals (s : State) (q : Nat) (x : Quad) : (setQuad s q x).invals = s.invals := rfl
@[simp] theorem setQuad_partitions (s : State) (q : Nat) (x : Quad) : (setQuad s q x).partitions = s.partitions := rfl
@[simp] theorem setQuad_pods (s : State) (q : Nat) (x : Quad) : (setQuad s q x).pods = s.pods := rfl
@[simp] theorem setQuad_recorders (s : State) (q : Nat) (x : Quad) : (setQuad s q x).recorders = s.recorders := rfl
@[simp] theorem setQuad_mgc (s : State) (q : Nat) (x : Quad) : (setQuad s q x).mgc = s.mgc := rfl
@[simp] theorem setQuad_szl (s : State) (q : Nat) (x : Quad) : (setQuad s q x).szl = s.szl := rfl
@[simp] theorem setQuad_fabFrozen (s : State) (q : Nat) (x : Quad) : (setQuad s q x).fabFrozen = s.fabFrozen := rfl
@[simp] theorem setQuad_fabHeld (s : State) (q : Nat) (x : Quad) : (setQuad s q x).fabHeld = s.fabHeld := rfl
@[simp] theorem setQuad_fabReplies (s : State) (q : Nat) (x : Quad) : (setQuad s q x).fabReplies = s.fabReplies := rfl
@[simp] theorem setQuad_lost (s : State) (q : Nat) (x : Quad) : (setQuad s q x).lost = s.lost := rfl
@[simp] theorem setQuad_hostReply (s : State) (q : Nat) (x : Quad) : (setQuad s q x).hostReply = s.hostReply := rfl
@[simp] theorem setQuad_interrupts (s : State) (q : Nat) (x : Quad) : (setQuad s q x).interrupts = s.interrupts := rfl

/-! ### setL1 -/

@[simp] theorem setL1_cycle (s : State) (d : Nat) (x : L1) : (setL1 s d x).cycle = s.cycle := rfl
@[simp] theorem setL1_tick (s : State) (d : Nat) (x : L1) : (setL1 s d x).tick = s.tick := rfl
@[simp] theorem setL1_agenda (s : State) (d : Nat) (x : L1) : (setL1 s d x).agenda = s.agenda := rfl
@[simp] theorem setL1_cur (s : State) (d : Nat) (x : L1) : (setL1 s d x).cur = s.cur := rfl
@[simp] theorem setL1_nextId (s : State) (d : Nat) (x : L1) : (setL1 s d x).nextId = s.nextId := rfl
@[simp] theorem setL1_cores (s : State) (d : Nat) (x : L1) : (setL1 s d x).cores = s.cores := rfl
@[simp] theorem setL1_quads (s : State) (d : Nat) (x : L1) : (setL1 s d x).quads = s.quads := rfl
@[simp] theorem setL1_warps (s : State) (d : Nat) (x : L1) : (setL1 s d x).warps = s.warps := rfl
@[simp] theorem setL1_teams (s : State) (d : Nat) (x : L1) : (setL1 s d x).teams = s.teams := rfl
@[simp] theorem setL1_gangs (s : State) (d : Nat) (x : L1) : (setL1 s d x).gangs = s.gangs := rfl
@[simp] theorem setL1_grids (s : State) (d : Nat) (x : L1) : (setL1 s d x).grids = s.grids := rfl
@[simp] theorem setL1_store (s : State) (d : Nat) (x : L1) : (setL1 s d x).store = s.store := rfl
@[simp] theorem setL1_upsets (s : State) (d : Nat) (x : L1) : (setL1 s d x).upsets = s.upsets := rfl
@[simp] theorem setL1_acc (s : State) (d : Nat) (x : L1) : (setL1 s d x).acc = s.acc := rfl
@[simp] theorem setL1_accUpsets (s : State) (d : Nat) (x : L1) : (setL1 s d x).accUpsets = s.accUpsets := rfl
@[simp] theorem setL1_hbm (s : State) (d : Nat) (x : L1) : (setL1 s d x).hbm = s.hbm := rfl
@[simp] theorem setL1_host (s : State) (d : Nat) (x : L1) : (setL1 s d x).host = s.host := rfl
@[simp] theorem setL1_homes (s : State) (d : Nat) (x : L1) : (setL1 s d x).homes = s.homes := rfl
@[simp] theorem setL1_slotCount (s : State) (d : Nat) (x : L1) : (setL1 s d x).slotCount = s.slotCount := rfl
@[simp] theorem setL1_flying (s : State) (d : Nat) (x : L1) : (setL1 s d x).flying = s.flying := rfl
@[simp] theorem setL1_reqs (s : State) (d : Nat) (x : L1) : (setL1 s d x).reqs = s.reqs := rfl
@[simp] theorem setL1_misses (s : State) (d : Nat) (x : L1) : (setL1 s d x).misses = s.misses := rfl
@[simp] theorem setL1_replies (s : State) (d : Nat) (x : L1) : (setL1 s d x).replies = s.replies := rfl
@[simp] theorem setL1_wrhReplies (s : State) (d : Nat) (x : L1) : (setL1 s d x).wrhReplies = s.wrhReplies := rfl
@[simp] theorem setL1_writebacks (s : State) (d : Nat) (x : L1) : (setL1 s d x).writebacks = s.writebacks := rfl
@[simp] theorem setL1_ops (s : State) (d : Nat) (x : L1) : (setL1 s d x).ops = s.ops := rfl
@[simp] theorem setL1_staged (s : State) (d : Nat) (x : L1) : (setL1 s d x).staged = s.staged := rfl
@[simp] theorem setL1_regions (s : State) (d : Nat) (x : L1) : (setL1 s d x).regions = s.regions := rfl
@[simp] theorem setL1_commits (s : State) (d : Nat) (x : L1) : (setL1 s d x).commits = s.commits := rfl
@[simp] theorem setL1_mx (s : State) (d : Nat) (x : L1) : (setL1 s d x).mx = s.mx := rfl
@[simp] theorem setL1_copies (s : State) (d : Nat) (x : L1) : (setL1 s d x).copies = s.copies := rfl
@[simp] theorem setL1_colls (s : State) (d : Nat) (x : L1) : (setL1 s d x).colls = s.colls := rfl
@[simp] theorem setL1_parts (s : State) (d : Nat) (x : L1) : (setL1 s d x).parts = s.parts := rfl
@[simp] theorem setL1_tlb (s : State) (d : Nat) (x : L1) : (setL1 s d x).tlb = s.tlb := rfl
@[simp] theorem setL1_walks (s : State) (d : Nat) (x : L1) : (setL1 s d x).walks = s.walks := rfl
@[simp] theorem setL1_invals (s : State) (d : Nat) (x : L1) : (setL1 s d x).invals = s.invals := rfl
@[simp] theorem setL1_partitions (s : State) (d : Nat) (x : L1) : (setL1 s d x).partitions = s.partitions := rfl
@[simp] theorem setL1_pods (s : State) (d : Nat) (x : L1) : (setL1 s d x).pods = s.pods := rfl
@[simp] theorem setL1_recorders (s : State) (d : Nat) (x : L1) : (setL1 s d x).recorders = s.recorders := rfl
@[simp] theorem setL1_mgc (s : State) (d : Nat) (x : L1) : (setL1 s d x).mgc = s.mgc := rfl
@[simp] theorem setL1_szl (s : State) (d : Nat) (x : L1) : (setL1 s d x).szl = s.szl := rfl
@[simp] theorem setL1_fabFrozen (s : State) (d : Nat) (x : L1) : (setL1 s d x).fabFrozen = s.fabFrozen := rfl
@[simp] theorem setL1_fabHeld (s : State) (d : Nat) (x : L1) : (setL1 s d x).fabHeld = s.fabHeld := rfl
@[simp] theorem setL1_fabReplies (s : State) (d : Nat) (x : L1) : (setL1 s d x).fabReplies = s.fabReplies := rfl
@[simp] theorem setL1_lost (s : State) (d : Nat) (x : L1) : (setL1 s d x).lost = s.lost := rfl
@[simp] theorem setL1_hostReply (s : State) (d : Nat) (x : L1) : (setL1 s d x).hostReply = s.hostReply := rfl
@[simp] theorem setL1_interrupts (s : State) (d : Nat) (x : L1) : (setL1 s d x).interrupts = s.interrupts := rfl

/-! ### setHome -/

@[simp] theorem setHome_cycle (s : State) (c : Nat) (x : Home) : (setHome s c x).cycle = s.cycle := rfl
@[simp] theorem setHome_tick (s : State) (c : Nat) (x : Home) : (setHome s c x).tick = s.tick := rfl
@[simp] theorem setHome_agenda (s : State) (c : Nat) (x : Home) : (setHome s c x).agenda = s.agenda := rfl
@[simp] theorem setHome_cur (s : State) (c : Nat) (x : Home) : (setHome s c x).cur = s.cur := rfl
@[simp] theorem setHome_nextId (s : State) (c : Nat) (x : Home) : (setHome s c x).nextId = s.nextId := rfl
@[simp] theorem setHome_cores (s : State) (c : Nat) (x : Home) : (setHome s c x).cores = s.cores := rfl
@[simp] theorem setHome_quads (s : State) (c : Nat) (x : Home) : (setHome s c x).quads = s.quads := rfl
@[simp] theorem setHome_warps (s : State) (c : Nat) (x : Home) : (setHome s c x).warps = s.warps := rfl
@[simp] theorem setHome_teams (s : State) (c : Nat) (x : Home) : (setHome s c x).teams = s.teams := rfl
@[simp] theorem setHome_gangs (s : State) (c : Nat) (x : Home) : (setHome s c x).gangs = s.gangs := rfl
@[simp] theorem setHome_grids (s : State) (c : Nat) (x : Home) : (setHome s c x).grids = s.grids := rfl
@[simp] theorem setHome_store (s : State) (c : Nat) (x : Home) : (setHome s c x).store = s.store := rfl
@[simp] theorem setHome_upsets (s : State) (c : Nat) (x : Home) : (setHome s c x).upsets = s.upsets := rfl
@[simp] theorem setHome_acc (s : State) (c : Nat) (x : Home) : (setHome s c x).acc = s.acc := rfl
@[simp] theorem setHome_accUpsets (s : State) (c : Nat) (x : Home) : (setHome s c x).accUpsets = s.accUpsets := rfl
@[simp] theorem setHome_hbm (s : State) (c : Nat) (x : Home) : (setHome s c x).hbm = s.hbm := rfl
@[simp] theorem setHome_host (s : State) (c : Nat) (x : Home) : (setHome s c x).host = s.host := rfl
@[simp] theorem setHome_l1s (s : State) (c : Nat) (x : Home) : (setHome s c x).l1s = s.l1s := rfl
@[simp] theorem setHome_slotCount (s : State) (c : Nat) (x : Home) : (setHome s c x).slotCount = s.slotCount := rfl
@[simp] theorem setHome_flying (s : State) (c : Nat) (x : Home) : (setHome s c x).flying = s.flying := rfl
@[simp] theorem setHome_reqs (s : State) (c : Nat) (x : Home) : (setHome s c x).reqs = s.reqs := rfl
@[simp] theorem setHome_misses (s : State) (c : Nat) (x : Home) : (setHome s c x).misses = s.misses := rfl
@[simp] theorem setHome_replies (s : State) (c : Nat) (x : Home) : (setHome s c x).replies = s.replies := rfl
@[simp] theorem setHome_wrhReplies (s : State) (c : Nat) (x : Home) : (setHome s c x).wrhReplies = s.wrhReplies := rfl
@[simp] theorem setHome_writebacks (s : State) (c : Nat) (x : Home) : (setHome s c x).writebacks = s.writebacks := rfl
@[simp] theorem setHome_ops (s : State) (c : Nat) (x : Home) : (setHome s c x).ops = s.ops := rfl
@[simp] theorem setHome_staged (s : State) (c : Nat) (x : Home) : (setHome s c x).staged = s.staged := rfl
@[simp] theorem setHome_regions (s : State) (c : Nat) (x : Home) : (setHome s c x).regions = s.regions := rfl
@[simp] theorem setHome_commits (s : State) (c : Nat) (x : Home) : (setHome s c x).commits = s.commits := rfl
@[simp] theorem setHome_mx (s : State) (c : Nat) (x : Home) : (setHome s c x).mx = s.mx := rfl
@[simp] theorem setHome_copies (s : State) (c : Nat) (x : Home) : (setHome s c x).copies = s.copies := rfl
@[simp] theorem setHome_colls (s : State) (c : Nat) (x : Home) : (setHome s c x).colls = s.colls := rfl
@[simp] theorem setHome_parts (s : State) (c : Nat) (x : Home) : (setHome s c x).parts = s.parts := rfl
@[simp] theorem setHome_tlb (s : State) (c : Nat) (x : Home) : (setHome s c x).tlb = s.tlb := rfl
@[simp] theorem setHome_walks (s : State) (c : Nat) (x : Home) : (setHome s c x).walks = s.walks := rfl
@[simp] theorem setHome_invals (s : State) (c : Nat) (x : Home) : (setHome s c x).invals = s.invals := rfl
@[simp] theorem setHome_partitions (s : State) (c : Nat) (x : Home) : (setHome s c x).partitions = s.partitions := rfl
@[simp] theorem setHome_pods (s : State) (c : Nat) (x : Home) : (setHome s c x).pods = s.pods := rfl
@[simp] theorem setHome_recorders (s : State) (c : Nat) (x : Home) : (setHome s c x).recorders = s.recorders := rfl
@[simp] theorem setHome_mgc (s : State) (c : Nat) (x : Home) : (setHome s c x).mgc = s.mgc := rfl
@[simp] theorem setHome_szl (s : State) (c : Nat) (x : Home) : (setHome s c x).szl = s.szl := rfl
@[simp] theorem setHome_fabFrozen (s : State) (c : Nat) (x : Home) : (setHome s c x).fabFrozen = s.fabFrozen := rfl
@[simp] theorem setHome_fabHeld (s : State) (c : Nat) (x : Home) : (setHome s c x).fabHeld = s.fabHeld := rfl
@[simp] theorem setHome_fabReplies (s : State) (c : Nat) (x : Home) : (setHome s c x).fabReplies = s.fabReplies := rfl
@[simp] theorem setHome_lost (s : State) (c : Nat) (x : Home) : (setHome s c x).lost = s.lost := rfl
@[simp] theorem setHome_hostReply (s : State) (c : Nat) (x : Home) : (setHome s c x).hostReply = s.hostReply := rfl
@[simp] theorem setHome_interrupts (s : State) (c : Nat) (x : Home) : (setHome s c x).interrupts = s.interrupts := rfl

/-! ### setRecorder -/

@[simp] theorem setRecorder_cycle (s : State) (d : Nat) (x : Recorder) : (setRecorder s d x).cycle = s.cycle := rfl
@[simp] theorem setRecorder_tick (s : State) (d : Nat) (x : Recorder) : (setRecorder s d x).tick = s.tick := rfl
@[simp] theorem setRecorder_agenda (s : State) (d : Nat) (x : Recorder) : (setRecorder s d x).agenda = s.agenda := rfl
@[simp] theorem setRecorder_cur (s : State) (d : Nat) (x : Recorder) : (setRecorder s d x).cur = s.cur := rfl
@[simp] theorem setRecorder_nextId (s : State) (d : Nat) (x : Recorder) : (setRecorder s d x).nextId = s.nextId := rfl
@[simp] theorem setRecorder_cores (s : State) (d : Nat) (x : Recorder) : (setRecorder s d x).cores = s.cores := rfl
@[simp] theorem setRecorder_quads (s : State) (d : Nat) (x : Recorder) : (setRecorder s d x).quads = s.quads := rfl
@[simp] theorem setRecorder_warps (s : State) (d : Nat) (x : Recorder) : (setRecorder s d x).warps = s.warps := rfl
@[simp] theorem setRecorder_teams (s : State) (d : Nat) (x : Recorder) : (setRecorder s d x).teams = s.teams := rfl
@[simp] theorem setRecorder_gangs (s : State) (d : Nat) (x : Recorder) : (setRecorder s d x).gangs = s.gangs := rfl
@[simp] theorem setRecorder_grids (s : State) (d : Nat) (x : Recorder) : (setRecorder s d x).grids = s.grids := rfl
@[simp] theorem setRecorder_store (s : State) (d : Nat) (x : Recorder) : (setRecorder s d x).store = s.store := rfl
@[simp] theorem setRecorder_upsets (s : State) (d : Nat) (x : Recorder) : (setRecorder s d x).upsets = s.upsets := rfl
@[simp] theorem setRecorder_acc (s : State) (d : Nat) (x : Recorder) : (setRecorder s d x).acc = s.acc := rfl
@[simp] theorem setRecorder_accUpsets (s : State) (d : Nat) (x : Recorder) : (setRecorder s d x).accUpsets = s.accUpsets := rfl
@[simp] theorem setRecorder_hbm (s : State) (d : Nat) (x : Recorder) : (setRecorder s d x).hbm = s.hbm := rfl
@[simp] theorem setRecorder_host (s : State) (d : Nat) (x : Recorder) : (setRecorder s d x).host = s.host := rfl
@[simp] theorem setRecorder_l1s (s : State) (d : Nat) (x : Recorder) : (setRecorder s d x).l1s = s.l1s := rfl
@[simp] theorem setRecorder_homes (s : State) (d : Nat) (x : Recorder) : (setRecorder s d x).homes = s.homes := rfl
@[simp] theorem setRecorder_slotCount (s : State) (d : Nat) (x : Recorder) : (setRecorder s d x).slotCount = s.slotCount := rfl
@[simp] theorem setRecorder_flying (s : State) (d : Nat) (x : Recorder) : (setRecorder s d x).flying = s.flying := rfl
@[simp] theorem setRecorder_reqs (s : State) (d : Nat) (x : Recorder) : (setRecorder s d x).reqs = s.reqs := rfl
@[simp] theorem setRecorder_misses (s : State) (d : Nat) (x : Recorder) : (setRecorder s d x).misses = s.misses := rfl
@[simp] theorem setRecorder_replies (s : State) (d : Nat) (x : Recorder) : (setRecorder s d x).replies = s.replies := rfl
@[simp] theorem setRecorder_wrhReplies (s : State) (d : Nat) (x : Recorder) : (setRecorder s d x).wrhReplies = s.wrhReplies := rfl
@[simp] theorem setRecorder_writebacks (s : State) (d : Nat) (x : Recorder) : (setRecorder s d x).writebacks = s.writebacks := rfl
@[simp] theorem setRecorder_ops (s : State) (d : Nat) (x : Recorder) : (setRecorder s d x).ops = s.ops := rfl
@[simp] theorem setRecorder_staged (s : State) (d : Nat) (x : Recorder) : (setRecorder s d x).staged = s.staged := rfl
@[simp] theorem setRecorder_regions (s : State) (d : Nat) (x : Recorder) : (setRecorder s d x).regions = s.regions := rfl
@[simp] theorem setRecorder_commits (s : State) (d : Nat) (x : Recorder) : (setRecorder s d x).commits = s.commits := rfl
@[simp] theorem setRecorder_mx (s : State) (d : Nat) (x : Recorder) : (setRecorder s d x).mx = s.mx := rfl
@[simp] theorem setRecorder_copies (s : State) (d : Nat) (x : Recorder) : (setRecorder s d x).copies = s.copies := rfl
@[simp] theorem setRecorder_colls (s : State) (d : Nat) (x : Recorder) : (setRecorder s d x).colls = s.colls := rfl
@[simp] theorem setRecorder_parts (s : State) (d : Nat) (x : Recorder) : (setRecorder s d x).parts = s.parts := rfl
@[simp] theorem setRecorder_tlb (s : State) (d : Nat) (x : Recorder) : (setRecorder s d x).tlb = s.tlb := rfl
@[simp] theorem setRecorder_walks (s : State) (d : Nat) (x : Recorder) : (setRecorder s d x).walks = s.walks := rfl
@[simp] theorem setRecorder_invals (s : State) (d : Nat) (x : Recorder) : (setRecorder s d x).invals = s.invals := rfl
@[simp] theorem setRecorder_partitions (s : State) (d : Nat) (x : Recorder) : (setRecorder s d x).partitions = s.partitions := rfl
@[simp] theorem setRecorder_pods (s : State) (d : Nat) (x : Recorder) : (setRecorder s d x).pods = s.pods := rfl
@[simp] theorem setRecorder_mgc (s : State) (d : Nat) (x : Recorder) : (setRecorder s d x).mgc = s.mgc := rfl
@[simp] theorem setRecorder_szl (s : State) (d : Nat) (x : Recorder) : (setRecorder s d x).szl = s.szl := rfl
@[simp] theorem setRecorder_fabFrozen (s : State) (d : Nat) (x : Recorder) : (setRecorder s d x).fabFrozen = s.fabFrozen := rfl
@[simp] theorem setRecorder_fabHeld (s : State) (d : Nat) (x : Recorder) : (setRecorder s d x).fabHeld = s.fabHeld := rfl
@[simp] theorem setRecorder_fabReplies (s : State) (d : Nat) (x : Recorder) : (setRecorder s d x).fabReplies = s.fabReplies := rfl
@[simp] theorem setRecorder_lost (s : State) (d : Nat) (x : Recorder) : (setRecorder s d x).lost = s.lost := rfl
@[simp] theorem setRecorder_hostReply (s : State) (d : Nat) (x : Recorder) : (setRecorder s d x).hostReply = s.hostReply := rfl
@[simp] theorem setRecorder_interrupts (s : State) (d : Nat) (x : Recorder) : (setRecorder s d x).interrupts = s.interrupts := rfl

/-! ### setPartition -/

@[simp] theorem setPartition_cycle (s : State) (p : Nat) (x : Partition) : (setPartition s p x).cycle = s.cycle := rfl
@[simp] theorem setPartition_tick (s : State) (p : Nat) (x : Partition) : (setPartition s p x).tick = s.tick := rfl
@[simp] theorem setPartition_agenda (s : State) (p : Nat) (x : Partition) : (setPartition s p x).agenda = s.agenda := rfl
@[simp] theorem setPartition_cur (s : State) (p : Nat) (x : Partition) : (setPartition s p x).cur = s.cur := rfl
@[simp] theorem setPartition_nextId (s : State) (p : Nat) (x : Partition) : (setPartition s p x).nextId = s.nextId := rfl
@[simp] theorem setPartition_cores (s : State) (p : Nat) (x : Partition) : (setPartition s p x).cores = s.cores := rfl
@[simp] theorem setPartition_quads (s : State) (p : Nat) (x : Partition) : (setPartition s p x).quads = s.quads := rfl
@[simp] theorem setPartition_warps (s : State) (p : Nat) (x : Partition) : (setPartition s p x).warps = s.warps := rfl
@[simp] theorem setPartition_teams (s : State) (p : Nat) (x : Partition) : (setPartition s p x).teams = s.teams := rfl
@[simp] theorem setPartition_gangs (s : State) (p : Nat) (x : Partition) : (setPartition s p x).gangs = s.gangs := rfl
@[simp] theorem setPartition_grids (s : State) (p : Nat) (x : Partition) : (setPartition s p x).grids = s.grids := rfl
@[simp] theorem setPartition_store (s : State) (p : Nat) (x : Partition) : (setPartition s p x).store = s.store := rfl
@[simp] theorem setPartition_upsets (s : State) (p : Nat) (x : Partition) : (setPartition s p x).upsets = s.upsets := rfl
@[simp] theorem setPartition_acc (s : State) (p : Nat) (x : Partition) : (setPartition s p x).acc = s.acc := rfl
@[simp] theorem setPartition_accUpsets (s : State) (p : Nat) (x : Partition) : (setPartition s p x).accUpsets = s.accUpsets := rfl
@[simp] theorem setPartition_hbm (s : State) (p : Nat) (x : Partition) : (setPartition s p x).hbm = s.hbm := rfl
@[simp] theorem setPartition_host (s : State) (p : Nat) (x : Partition) : (setPartition s p x).host = s.host := rfl
@[simp] theorem setPartition_l1s (s : State) (p : Nat) (x : Partition) : (setPartition s p x).l1s = s.l1s := rfl
@[simp] theorem setPartition_homes (s : State) (p : Nat) (x : Partition) : (setPartition s p x).homes = s.homes := rfl
@[simp] theorem setPartition_slotCount (s : State) (p : Nat) (x : Partition) : (setPartition s p x).slotCount = s.slotCount := rfl
@[simp] theorem setPartition_flying (s : State) (p : Nat) (x : Partition) : (setPartition s p x).flying = s.flying := rfl
@[simp] theorem setPartition_reqs (s : State) (p : Nat) (x : Partition) : (setPartition s p x).reqs = s.reqs := rfl
@[simp] theorem setPartition_misses (s : State) (p : Nat) (x : Partition) : (setPartition s p x).misses = s.misses := rfl
@[simp] theorem setPartition_replies (s : State) (p : Nat) (x : Partition) : (setPartition s p x).replies = s.replies := rfl
@[simp] theorem setPartition_wrhReplies (s : State) (p : Nat) (x : Partition) : (setPartition s p x).wrhReplies = s.wrhReplies := rfl
@[simp] theorem setPartition_writebacks (s : State) (p : Nat) (x : Partition) : (setPartition s p x).writebacks = s.writebacks := rfl
@[simp] theorem setPartition_ops (s : State) (p : Nat) (x : Partition) : (setPartition s p x).ops = s.ops := rfl
@[simp] theorem setPartition_staged (s : State) (p : Nat) (x : Partition) : (setPartition s p x).staged = s.staged := rfl
@[simp] theorem setPartition_regions (s : State) (p : Nat) (x : Partition) : (setPartition s p x).regions = s.regions := rfl
@[simp] theorem setPartition_commits (s : State) (p : Nat) (x : Partition) : (setPartition s p x).commits = s.commits := rfl
@[simp] theorem setPartition_mx (s : State) (p : Nat) (x : Partition) : (setPartition s p x).mx = s.mx := rfl
@[simp] theorem setPartition_copies (s : State) (p : Nat) (x : Partition) : (setPartition s p x).copies = s.copies := rfl
@[simp] theorem setPartition_colls (s : State) (p : Nat) (x : Partition) : (setPartition s p x).colls = s.colls := rfl
@[simp] theorem setPartition_parts (s : State) (p : Nat) (x : Partition) : (setPartition s p x).parts = s.parts := rfl
@[simp] theorem setPartition_tlb (s : State) (p : Nat) (x : Partition) : (setPartition s p x).tlb = s.tlb := rfl
@[simp] theorem setPartition_walks (s : State) (p : Nat) (x : Partition) : (setPartition s p x).walks = s.walks := rfl
@[simp] theorem setPartition_invals (s : State) (p : Nat) (x : Partition) : (setPartition s p x).invals = s.invals := rfl
@[simp] theorem setPartition_pods (s : State) (p : Nat) (x : Partition) : (setPartition s p x).pods = s.pods := rfl
@[simp] theorem setPartition_recorders (s : State) (p : Nat) (x : Partition) : (setPartition s p x).recorders = s.recorders := rfl
@[simp] theorem setPartition_mgc (s : State) (p : Nat) (x : Partition) : (setPartition s p x).mgc = s.mgc := rfl
@[simp] theorem setPartition_szl (s : State) (p : Nat) (x : Partition) : (setPartition s p x).szl = s.szl := rfl
@[simp] theorem setPartition_fabFrozen (s : State) (p : Nat) (x : Partition) : (setPartition s p x).fabFrozen = s.fabFrozen := rfl
@[simp] theorem setPartition_fabHeld (s : State) (p : Nat) (x : Partition) : (setPartition s p x).fabHeld = s.fabHeld := rfl
@[simp] theorem setPartition_fabReplies (s : State) (p : Nat) (x : Partition) : (setPartition s p x).fabReplies = s.fabReplies := rfl
@[simp] theorem setPartition_lost (s : State) (p : Nat) (x : Partition) : (setPartition s p x).lost = s.lost := rfl
@[simp] theorem setPartition_hostReply (s : State) (p : Nat) (x : Partition) : (setPartition s p x).hostReply = s.hostReply := rfl
@[simp] theorem setPartition_interrupts (s : State) (p : Nat) (x : Partition) : (setPartition s p x).interrupts = s.interrupts := rfl

/-! ### onWarp -/

@[simp] theorem onWarp_cycle (s : State) (u : Nat) (f : Warp → Warp) : (onWarp s u f).cycle = s.cycle := rfl
@[simp] theorem onWarp_tick (s : State) (u : Nat) (f : Warp → Warp) : (onWarp s u f).tick = s.tick := rfl
@[simp] theorem onWarp_agenda (s : State) (u : Nat) (f : Warp → Warp) : (onWarp s u f).agenda = s.agenda := rfl
@[simp] theorem onWarp_cur (s : State) (u : Nat) (f : Warp → Warp) : (onWarp s u f).cur = s.cur := rfl
@[simp] theorem onWarp_nextId (s : State) (u : Nat) (f : Warp → Warp) : (onWarp s u f).nextId = s.nextId := rfl
@[simp] theorem onWarp_cores (s : State) (u : Nat) (f : Warp → Warp) : (onWarp s u f).cores = s.cores := rfl
@[simp] theorem onWarp_quads (s : State) (u : Nat) (f : Warp → Warp) : (onWarp s u f).quads = s.quads := rfl
@[simp] theorem onWarp_teams (s : State) (u : Nat) (f : Warp → Warp) : (onWarp s u f).teams = s.teams := rfl
@[simp] theorem onWarp_gangs (s : State) (u : Nat) (f : Warp → Warp) : (onWarp s u f).gangs = s.gangs := rfl
@[simp] theorem onWarp_grids (s : State) (u : Nat) (f : Warp → Warp) : (onWarp s u f).grids = s.grids := rfl
@[simp] theorem onWarp_store (s : State) (u : Nat) (f : Warp → Warp) : (onWarp s u f).store = s.store := rfl
@[simp] theorem onWarp_upsets (s : State) (u : Nat) (f : Warp → Warp) : (onWarp s u f).upsets = s.upsets := rfl
@[simp] theorem onWarp_acc (s : State) (u : Nat) (f : Warp → Warp) : (onWarp s u f).acc = s.acc := rfl
@[simp] theorem onWarp_accUpsets (s : State) (u : Nat) (f : Warp → Warp) : (onWarp s u f).accUpsets = s.accUpsets := rfl
@[simp] theorem onWarp_hbm (s : State) (u : Nat) (f : Warp → Warp) : (onWarp s u f).hbm = s.hbm := rfl
@[simp] theorem onWarp_host (s : State) (u : Nat) (f : Warp → Warp) : (onWarp s u f).host = s.host := rfl
@[simp] theorem onWarp_l1s (s : State) (u : Nat) (f : Warp → Warp) : (onWarp s u f).l1s = s.l1s := rfl
@[simp] theorem onWarp_homes (s : State) (u : Nat) (f : Warp → Warp) : (onWarp s u f).homes = s.homes := rfl
@[simp] theorem onWarp_slotCount (s : State) (u : Nat) (f : Warp → Warp) : (onWarp s u f).slotCount = s.slotCount := rfl
@[simp] theorem onWarp_flying (s : State) (u : Nat) (f : Warp → Warp) : (onWarp s u f).flying = s.flying := rfl
@[simp] theorem onWarp_reqs (s : State) (u : Nat) (f : Warp → Warp) : (onWarp s u f).reqs = s.reqs := rfl
@[simp] theorem onWarp_misses (s : State) (u : Nat) (f : Warp → Warp) : (onWarp s u f).misses = s.misses := rfl
@[simp] theorem onWarp_replies (s : State) (u : Nat) (f : Warp → Warp) : (onWarp s u f).replies = s.replies := rfl
@[simp] theorem onWarp_wrhReplies (s : State) (u : Nat) (f : Warp → Warp) : (onWarp s u f).wrhReplies = s.wrhReplies := rfl
@[simp] theorem onWarp_writebacks (s : State) (u : Nat) (f : Warp → Warp) : (onWarp s u f).writebacks = s.writebacks := rfl
@[simp] theorem onWarp_ops (s : State) (u : Nat) (f : Warp → Warp) : (onWarp s u f).ops = s.ops := rfl
@[simp] theorem onWarp_staged (s : State) (u : Nat) (f : Warp → Warp) : (onWarp s u f).staged = s.staged := rfl
@[simp] theorem onWarp_regions (s : State) (u : Nat) (f : Warp → Warp) : (onWarp s u f).regions = s.regions := rfl
@[simp] theorem onWarp_commits (s : State) (u : Nat) (f : Warp → Warp) : (onWarp s u f).commits = s.commits := rfl
@[simp] theorem onWarp_mx (s : State) (u : Nat) (f : Warp → Warp) : (onWarp s u f).mx = s.mx := rfl
@[simp] theorem onWarp_copies (s : State) (u : Nat) (f : Warp → Warp) : (onWarp s u f).copies = s.copies := rfl
@[simp] theorem onWarp_colls (s : State) (u : Nat) (f : Warp → Warp) : (onWarp s u f).colls = s.colls := rfl
@[simp] theorem onWarp_parts (s : State) (u : Nat) (f : Warp → Warp) : (onWarp s u f).parts = s.parts := rfl
@[simp] theorem onWarp_tlb (s : State) (u : Nat) (f : Warp → Warp) : (onWarp s u f).tlb = s.tlb := rfl
@[simp] theorem onWarp_walks (s : State) (u : Nat) (f : Warp → Warp) : (onWarp s u f).walks = s.walks := rfl
@[simp] theorem onWarp_invals (s : State) (u : Nat) (f : Warp → Warp) : (onWarp s u f).invals = s.invals := rfl
@[simp] theorem onWarp_partitions (s : State) (u : Nat) (f : Warp → Warp) : (onWarp s u f).partitions = s.partitions := rfl
@[simp] theorem onWarp_pods (s : State) (u : Nat) (f : Warp → Warp) : (onWarp s u f).pods = s.pods := rfl
@[simp] theorem onWarp_recorders (s : State) (u : Nat) (f : Warp → Warp) : (onWarp s u f).recorders = s.recorders := rfl
@[simp] theorem onWarp_mgc (s : State) (u : Nat) (f : Warp → Warp) : (onWarp s u f).mgc = s.mgc := rfl
@[simp] theorem onWarp_szl (s : State) (u : Nat) (f : Warp → Warp) : (onWarp s u f).szl = s.szl := rfl
@[simp] theorem onWarp_fabFrozen (s : State) (u : Nat) (f : Warp → Warp) : (onWarp s u f).fabFrozen = s.fabFrozen := rfl
@[simp] theorem onWarp_fabHeld (s : State) (u : Nat) (f : Warp → Warp) : (onWarp s u f).fabHeld = s.fabHeld := rfl
@[simp] theorem onWarp_fabReplies (s : State) (u : Nat) (f : Warp → Warp) : (onWarp s u f).fabReplies = s.fabReplies := rfl
@[simp] theorem onWarp_lost (s : State) (u : Nat) (f : Warp → Warp) : (onWarp s u f).lost = s.lost := rfl
@[simp] theorem onWarp_hostReply (s : State) (u : Nat) (f : Warp → Warp) : (onWarp s u f).hostReply = s.hostReply := rfl
@[simp] theorem onWarp_interrupts (s : State) (u : Nat) (f : Warp → Warp) : (onWarp s u f).interrupts = s.interrupts := rfl

/-! ### The slots of a warp -/

@[simp] theorem setSlot_uid (w : Warp) (n : Bool) (y : Option Slot) : (w.setSlot n y).uid = w.uid := by cases n <;> rfl
@[simp] theorem setSlot_team (w : Warp) (n : Bool) (y : Option Slot) : (w.setSlot n y).team = w.team := by cases n <;> rfl
@[simp] theorem setSlot_index (w : Warp) (n : Bool) (y : Option Slot) : (w.setSlot n y).index = w.index := by cases n <;> rfl
@[simp] theorem setSlot_core (w : Warp) (n : Bool) (y : Option Slot) : (w.setSlot n y).core = w.core := by cases n <;> rfl
@[simp] theorem setSlot_ws (w : Warp) (n : Bool) (y : Option Slot) : (w.setSlot n y).ws = w.ws := by cases n <;> rfl
@[simp] theorem setSlot_regs (w : Warp) (n : Bool) (y : Option Slot) : (w.setSlot n y).regs = w.regs := by cases n <;> rfl
@[simp] theorem setSlot_regBase (w : Warp) (n : Bool) (y : Option Slot) : (w.setSlot n y).regBase = w.regBase := by cases n <;> rfl
@[simp] theorem setSlot_stackBase (w : Warp) (n : Bool) (y : Option Slot) : (w.setSlot n y).stackBase = w.stackBase := by cases n <;> rfl
@[simp] theorem setSlot_dstk (w : Warp) (n : Bool) (y : Option Slot) : (w.setSlot n y).dstk = w.dstk := by cases n <;> rfl
@[simp] theorem setSlot_role (w : Warp) (n : Bool) (y : Option Slot) : (w.setSlot n y).role = w.role := by cases n <;> rfl
@[simp] theorem setSlot_depth (w : Warp) (n : Bool) (y : Option Slot) : (w.setSlot n y).depth = w.depth := by cases n <;> rfl
@[simp] theorem setSlot_ctrs (w : Warp) (n : Bool) (y : Option Slot) : (w.setSlot n y).ctrs = w.ctrs := by cases n <;> rfl
@[simp] theorem setSlot_flags (w : Warp) (n : Bool) (y : Option Slot) : (w.setSlot n y).flags = w.flags := by cases n <;> rfl
@[simp] theorem setSlot_lanectl (w : Warp) (n : Bool) (y : Option Slot) : (w.setSlot n y).lanectl = w.lanectl := by cases n <;> rfl
@[simp] theorem setSlot_trapen (w : Warp) (n : Bool) (y : Option Slot) : (w.setSlot n y).trapen = w.trapen := by cases n <;> rfl
@[simp] theorem setSlot_cnt (w : Warp) (n : Bool) (y : Option Slot) : (w.setSlot n y).cnt = w.cnt := by cases n <;> rfl
@[simp] theorem setSlot_passes (w : Warp) (n : Bool) (y : Option Slot) : (w.setSlot n y).passes = w.passes := by cases n <;> rfl
@[simp] theorem setSlot_cause (w : Warp) (n : Bool) (y : Option Slot) : (w.setSlot n y).cause = w.cause := by cases n <;> rfl
@[simp] theorem setSlot_tval (w : Warp) (n : Bool) (y : Option Slot) : (w.setSlot n y).tval = w.tval := by cases n <;> rfl
@[simp] theorem setSlot_clkhi (w : Warp) (n : Bool) (y : Option Slot) : (w.setSlot n y).clkhi = w.clkhi := by cases n <;> rfl
@[simp] theorem setSlot_latestCopy (w : Warp) (n : Bool) (y : Option Slot) : (w.setSlot n y).latestCopy = w.latestCopy := by cases n <;> rfl
@[simp] theorem setSlot_rowprog (w : Warp) (n : Bool) (y : Option Slot) : (w.setSlot n y).rowprog = w.rowprog := by cases n <;> rfl
@[simp] theorem setSlot_copyRows (w : Warp) (n : Bool) (y : Option Slot) : (w.setSlot n y).copyRows = w.copyRows := by cases n <;> rfl
@[simp] theorem setSlot_window (w : Warp) (n : Bool) (y : Option Slot) : (w.setSlot n y).window = w.window := by cases n <;> rfl
@[simp] theorem setSlot_seq (w : Warp) (n : Bool) (y : Option Slot) : (w.setSlot n y).seq = w.seq := by cases n <;> rfl
@[simp] theorem setSlot_trap (w : Warp) (n : Bool) (y : Option Slot) : (w.setSlot n y).trap = w.trap := by cases n <;> rfl
@[simp] theorem setSlot_reports (w : Warp) (n : Bool) (y : Option Slot) : (w.setSlot n y).reports = w.reports := by cases n <;> rfl
@[simp] theorem setSlot_handles (w : Warp) (n : Bool) (y : Option Slot) : (w.setSlot n y).handles = w.handles := by cases n <;> rfl
@[simp] theorem setSlot_bars (w : Warp) (n : Bool) (y : Option Slot) : (w.setSlot n y).bars = w.bars := by cases n <;> rfl
@[simp] theorem setSlot_acquires (w : Warp) (n : Bool) (y : Option Slot) : (w.setSlot n y).acquires = w.acquires := by cases n <;> rfl
@[simp] theorem setSlot_holds (w : Warp) (n : Bool) (y : Option Slot) : (w.setSlot n y).holds = w.holds := by cases n <;> rfl
@[simp] theorem setSlot_ploughError (w : Warp) (n : Bool) (y : Option Slot) : (w.setSlot n y).ploughError = w.ploughError := by cases n <;> rfl
@[simp] theorem setSlot_stop (w : Warp) (n : Bool) (y : Option Slot) : (w.setSlot n y).stop = w.stop := by cases n <;> rfl
@[simp] theorem setSlot_placed (w : Warp) (n : Bool) (y : Option Slot) : (w.setSlot n y).placed = w.placed := by cases n <;> rfl
@[simp] theorem setSlot_slot (w : Warp) (n : Bool) (y : Option Slot) : (w.setSlot n y).slot? n = y := by cases n <;> rfl
@[simp] theorem setSlot_other (w : Warp) (n : Bool) (y : Option Slot) : (w.setSlot n y).slot? (!n) = w.slot? (!n) := by cases n <;> rfl

end Sys2Proof.Machine
end

