-- ==== Sys2Proof/Laws/Warps.lean ====
section
/-! SUPPORT. Finding a warp after an update; what the shared operations over warps can change, said once for each. -/

namespace Sys2Proof.Machine

open Sys2Proof

/-! ### Finding warps -/

theorem findWarp?_uid {s : State} {u : Nat} {w : Warp} (h : findWarp? s u = some w) : w.uid = u := by
  simpa using List.find?_some h

/-- A warp changed by its identity is found changed. -/
theorem findWarp?_onWarp {s : State} {u : Nat} {f : Warp → Warp} (hf : ∀ w, (f w).uid = w.uid) (v : Nat) :
    findWarp? (onWarp s u f) v = (findWarp? s v).map (fun w => if w.uid == u then f w else w) := by
  simp only [findWarp?, onWarp]
  induction s.warps with
  | nil => rfl
  | cons a l ih =>
    have e : (if a.uid == u then f a else a).uid = a.uid := by split <;> simp [hf]
    simp only [List.map_cons, List.find?_cons, e]
    by_cases h : a.uid == v
    · simp only [h, Option.map_some]
    · simp only [h, ih]

theorem findWarp?_onWarp_ne {s : State} {u v : Nat} {f : Warp → Warp} (hf : ∀ w, (f w).uid = w.uid) (h : v ≠ u) :
    findWarp? (onWarp s u f) v = findWarp? s v := by
  rw [findWarp?_onWarp hf]
  cases e : findWarp? s v with
  | none => rfl
  | some w => have := findWarp?_uid e; simp [this, h]

theorem setWarp_eq_onWarp (s : State) (w : Warp) : setWarp s w = onWarp s w.uid (fun _ => w) := by
  simp only [setWarp, onWarp]

theorem findWarp?_setWarp (s : State) (w : Warp) (v : Nat) :
    findWarp? (setWarp s w) v = (findWarp? s v).map (fun x => if x.uid == w.uid then w else x) := by
  simp only [findWarp?, setWarp]
  induction s.warps with
  | nil => rfl
  | cons a l ih =>
    have e : ((if a.uid == w.uid then w else a).uid == v) = (a.uid == v) := by
      split
      · rename_i h; rw [beq_iff_eq.mp h]
      · rfl
    simp only [List.map_cons, List.find?_cons, e]
    by_cases h : a.uid == v
    · simp only [h, Option.map_some]
    · simp only [h, ih]

/-- A warp that replaces one of its identity is found there. -/
theorem findWarp?_setWarp_self {s : State} {w v : Warp} (h : findWarp? s w.uid = some v) :
    findWarp? (setWarp s w) w.uid = some w := by
  rw [findWarp?_setWarp, h]; simp [findWarp?_uid h]

theorem findWarp?_setWarp_ne {s : State} {w : Warp} {v : Nat} (h : v ≠ w.uid) :
    findWarp? (setWarp s w) v = findWarp? s v := by
  rw [findWarp?_setWarp]
  cases e : findWarp? s v with
  | none => rfl
  | some x => have := findWarp?_uid e; simp [this, h]

/-! ### Frames of the shared operations -/

/-- Nothing but warps, banked stores and their errors, records and identities has changed. -/
def WarpsOnly (s t : State) : Prop :=
  t = { s with warps := t.warps, store := t.store, upsets := t.upsets, nextId := t.nextId, partitions := t.partitions }

theorem WarpsOnly.refl (s : State) : WarpsOnly s s := rfl

theorem WarpsOnly.trans {s t u : State} (h : WarpsOnly s t) (k : WarpsOnly t u) : WarpsOnly s u := by
  unfold WarpsOnly at *
  rw [k, h]

theorem setWarp_only (s : State) (w : Warp) : WarpsOnly s (setWarp s w) := rfl
theorem onWarp_only (s : State) (u : Nat) (f : Warp → Warp) : WarpsOnly s (onWarp s u f) := rfl
theorem bankWrite_only (s : State) (b : Nat) (ws : List (Nat × Word)) : WarpsOnly s (bankWrite s b ws) := rfl
theorem setPartition_only (s : State) (p : Nat) (x : Partition) : WarpsOnly s (setPartition s p x) := rfl
theorem postRec_only (s : State) (p type : Nat) (src : RecSrc) (ws : List Word) :
    WarpsOnly s (postRec s p type src ws).2 := rfl

theorem pushWindow_only (s : State) (u : Nat) (ws : List (Nat × Word)) : WarpsOnly s (pushWindow s u ws) := by
  unfold pushWindow
  split
  · exact .refl s
  · simp only []
    split
    · exact setWarp_only ..
    · exact (bankWrite_only ..).trans (setWarp_only ..)

theorem flushWindow_only (s : State) (w : Warp) : WarpsOnly s (flushWindow s w) :=
  (bankWrite_only ..).trans (setWarp_only ..)

theorem landRegs_only (s : State) (u : Nat) (ws : List (Nat × Word)) : WarpsOnly s (landRegs s u ws) := by
  unfold landRegs
  split
  · exact .refl s
  · exact (bankWrite_only ..).trans (setWarp_only ..)

theorem stopWarp_only (s : State) (w : Warp) (type : Nat) (halted : Bool) (ws : List Word) :
    WarpsOnly s (stopWarp s w type halted ws) :=
  ((flushWindow_only ..).trans (postRec_only ..)).trans (onWarp_only ..)

/-- Nothing but what `WarpsOnly` allows, and the count and the events of corrected errors, has changed. -/
def TrapOnly (s t : State) : Prop :=
  t = { s with warps := t.warps, store := t.store, upsets := t.upsets, nextId := t.nextId, partitions := t.partitions,
               mgc := t.mgc, recorders := t.recorders }

theorem WarpsOnly.trap {s t : State} (h : WarpsOnly s t) : TrapOnly s t := by
  unfold WarpsOnly at h; unfold TrapOnly; rw [h]

theorem TrapOnly.trans {s t u : State} (h : TrapOnly s t) (k : TrapOnly t u) : TrapOnly s u := by
  unfold TrapOnly at *
  rw [k, h]

theorem recordEvent_only (s : State) (die : Nat) (code : Byte) (unit : Nat) (detail : Word) :
    TrapOnly s (recordEvent s die code unit detail) := by
  unfold recordEvent
  simp only []
  split <;> rfl

/-- Correcting errors of the banks changes them, their count and the recorder. -/
theorem correctWords_only (s : State) (w : Warp) (l : List Nat) : TrapOnly s (correctWords s w l) := by
  unfold correctWords
  induction l generalizing s with
  | nil => rfl
  | cons k l ih =>
    rw [List.foldl_cons]
    refine TrapOnly.trans ?_ (ih _)
    split
    · exact TrapOnly.trans (t := { s with upsets := terase s.upsets (regBank s w + k), mgc := { s.mgc with seccnt := sat32 s.mgc.seccnt } })
        rfl (recordEvent_only ..)
    · rfl

/-- Taking an exception contains the gang for a double-bit error among the words it saves; else it changes the warp, the banks
with its window and s62 and s63, what errors it corrected, and on a double trap the records; nothing else. -/
theorem enterTrap_only (s : State) (u : Nat) (n : Bool) (size cause sub : Nat) (tval : Word) :
    TrapOnly s (enterTrap s u n size cause sub tval) ∨
    ∃ w x k, findWarp? s u = some w ∧ w.slot? n = some x ∧ w.trap = none ∧
      enterTrap s u n size cause sub tval = contain (flushWindow s w) { w with window := [] } 2 ((ones x.mask).headD 0) 0x07 x.pc
        (BitVec.ofNat 64 (blockAddr w k)) := by
  unfold enterTrap
  split
  · exact .inl rfl
  · rename_i w0 hw
    split
    · exact .inl rfl
    · rename_i x hx
      simp only []
      split
      · exact .inl ((flushWindow_only ..).trans (stopWarp_only ..)).trap
      · rename_i ht
        split
        · exact .inr ⟨w0, x, _, hw, hx, by simpa using ht, rfl⟩
        · exact .inl ((((flushWindow_only ..).trap.trans (correctWords_only ..)).trans (setWarp_only ..).trap).trans
            (bankWrite_only ..).trap)

/-- Returning from an exception changes the warp and the banks, nothing else. -/
theorem leaveTrap_only (s : State) (u : Nat) (skip : Bool) : WarpsOnly s (leaveTrap s u skip) := by
  unfold leaveTrap
  split
  · exact .refl s
  · split
    · exact .refl s
    · exact ((flushWindow_only ..).trans (setWarp_only ..)).trans (bankWrite_only ..)

theorem lowerCtr_only (s : State) (u : Nat) (k : Ctr) : WarpsOnly s (lowerCtr s u k) := onWarp_only ..

theorem landFlags_only (s : State) (u : Nat) (k : Ctr) (fl : Word) : WarpsOnly s (landFlags s u k fl) := by
  unfold landFlags
  split
  · exact .refl s
  · exact onWarp_only ..

theorem holdSlot_only (s : State) (u : Nat) (n : Bool) : WarpsOnly s (holdSlot s u n) := onWarp_only ..

/-! ### The canonical form of the banked stores -/

theorem foldl_setWord_wf {α : Type} (f : α → Nat) (g : α → CWord) (l : List α) {m : Mem} (h : m.wf = true) :
    (l.foldl (fun m p => m.setWord (f p) (g p)) m).wf = true := by
  induction l generalizing m with
  | nil => exact h
  | cons a l ih => exact ih (Mem.setWord_wf h _ _)

theorem bankWrite_wf {s : State} (h : s.store.wf = true) (b : Nat) (ws : List (Nat × Word)) :
    (bankWrite s b ws).store.wf = true :=
  foldl_setWord_wf (fun p : Nat × Word => b + p.1) (fun p => good p.2) ws h

theorem pushWindow_wf {s : State} (h : s.store.wf = true) (u : Nat) (ws : List (Nat × Word)) :
    (pushWindow s u ws).store.wf = true := by
  unfold pushWindow
  split
  · exact h
  · simp only [setWarp_store]
    split
    · exact h
    · exact bankWrite_wf h _ _

theorem flushWindow_wf {s : State} (h : s.store.wf = true) (w : Warp) : (flushWindow s w).store.wf = true :=
  bankWrite_wf h _ _

theorem landRegs_wf {s : State} (h : s.store.wf = true) (u : Nat) (ws : List (Nat × Word)) :
    (landRegs s u ws).store.wf = true := by
  unfold landRegs
  split
  · exact h
  · exact bankWrite_wf h _ _

theorem stopWarp_wf {s : State} (h : s.store.wf = true) (w : Warp) (type : Nat) (halted : Bool) (ws : List Word) :
    (stopWarp s w type halted ws).store.wf = true := by
  have e : (stopWarp s w type halted ws).store = (flushWindow s w).store := rfl
  rw [e]; exact flushWindow_wf h w

/-- What goes off the device with teams leaves the banked stores as they are. -/
theorem setBarOf_store (s : State) (t : Team) (level : BarLevel) (b : Bar) : (setBarOf s t level b).store = s.store := by
  unfold setBarOf
  split
  · rfl
  · cases findGang? s t.gang <;> rfl
  · cases findGrid? s t.grid <;> rfl
  all_goals rfl

theorem foldl_store {α : Type} {f : State → α → State} (h : ∀ s a, (f s a).store = s.store) :
    ∀ (l : List α) (s : State), (l.foldl f s).store = s.store
  | [], _ => rfl
  | a :: l, s => by rw [List.foldl_cons, foldl_store h l, h]

theorem withdrawBar_store (s : State) (w : Warp) (t : Team) (level : BarLevel) (b : WarpBar) :
    (withdrawBar s w t level b).store = s.store := by
  unfold withdrawBar
  split
  · rfl
  · exact setBarOf_store ..

theorem removeTeams_store (s : State) (uids : List Nat) : (removeTeams s uids).store = s.store := by
  unfold removeTeams
  simp only [dropHeldOf]
  refine foldl_store (fun s w => ?_) _ _
  split
  · rfl
  · refine foldl_store (fun s b => ?_) _ _
    split
    · exact withdrawBar_store ..
    · rfl

theorem discardWaiters_store (s : State) (g : Nat) : (discardWaiters s g).store = s.store := by
  unfold discardWaiters
  split
  · rfl
  · split
    · rfl
    · exact removeTeams_store ..

theorem failGrid_store (s : State) (g st : Nat) : (failGrid s g st).store = s.store := by
  unfold failGrid
  split
  · rfl
  · exact discardWaiters_store ..

theorem endGang_store (s : State) (g st : Nat) (r : Bool) : (endGang s g st r).store = s.store := by
  unfold endGang
  split
  · rfl
  · simp only []
    split
    · exact removeTeams_store ..
    · split
      · exact removeTeams_store ..
      · rw [failGrid_store]; exact removeTeams_store ..

/-- Containment leaves the banked stores as they are. -/
theorem contain_store (s : State) (w : Warp) (kind lane cause : Nat) (pc : Word) (addr : DWord) :
    (contain s w kind lane cause pc addr).store = s.store := by
  unfold contain
  split
  · rfl
  · simp only []
    rw [endGang_store]
    unfold recordEvent
    simp only []
    split <;> rfl

theorem correctWords_store (s : State) (w : Warp) (l : List Nat) : (correctWords s w l).store = s.store := by
  unfold correctWords
  refine foldl_store (fun s k => ?_) _ _
  split
  · unfold recordEvent
    simp only []
    split <;> rfl
  · rfl

theorem enterTrap_wf {s : State} (h : s.store.wf = true) (u : Nat) (n : Bool) (size cause sub : Nat) (tval : Word) :
    (enterTrap s u n size cause sub tval).store.wf = true := by
  unfold enterTrap
  split
  · exact h
  · split
    · exact h
    · simp only []
      split
      · exact stopWarp_wf (flushWindow_wf h _) _ _ _ _
      · split
        · rw [contain_store]; exact flushWindow_wf h _
        · refine bankWrite_wf (s := setWarp _ _) ?_ _ _
          rw [setWarp_store, correctWords_store]
          exact flushWindow_wf h _

theorem leaveTrap_wf {s : State} (h : s.store.wf = true) (u : Nat) (skip : Bool) :
    (leaveTrap s u skip).store.wf = true := by
  unfold leaveTrap
  split
  · exact h
  · split
    · exact h
    · exact bankWrite_wf (s := setWarp _ _) (flushWindow_wf h _) _ _

end Sys2Proof.Machine
end

