-- ==== Sys2Proof/Laws/Step.lean ====
section
/-! SUPPORT. The parts of a step: what time, the choice of a slot and the bookkeeping after a move change. -/

namespace Sys2Proof.Machine

open Sys2Proof

/-- A step that goes on is a move that goes on, and its bookkeeping. -/
theorem step_next {s t : State} (h : step s = .next t) : ∃ u, t = settle (serveAnswers u) (wasHeld u) ∧
    stepMove (nextMove s).1 { s with tick := s.tick + 1, agenda := (nextMove s).2, cur := none } = .next u := by
  simp only [step] at h
  generalize stepMove _ _ = o at h ⊢
  cases o with
  | next u => exact ⟨u, (Host.Outcome.next.inj h).symm, rfl⟩
  | fault f => cases h
  | refused r => cases h

/-- The bookkeeping changes warps only, and ends the issue. -/
theorem settle_frame (s : State) (keep : Bool) : settle s keep = { s with cur := none, warps := (settle s keep).warps } := rfl

/-- No answer to a record waits. -/
def State.noAnswers (s : State) : Prop := ∀ p ∈ s.partitions, ∀ o ∈ p.2.outstanding, o.act = none

theorem foldl_id {α β : Type} {f : β → α → β} : ∀ {l : List α} {b : β}, (∀ a ∈ l, ∀ b, f b a = b) → l.foldl f b = b
  | [], _, _ => rfl
  | a :: l, b, h => by
    rw [List.foldl_cons, h a (List.mem_cons_self ..)]
    exact foldl_id (fun x hx => h x (List.mem_cons_of_mem _ hx))

/-- Where no answer waits, the bookkeeping serves none. -/
theorem serveAnswers_none {s : State} (h : s.noAnswers) : serveAnswers s = s := by
  unfold serveAnswers
  refine foldl_id (fun p hp t => foldl_id (fun o ho u => ?_))
  rw [h p hp o ho]
  rfl

/-- A walk does not depend on the warps. -/
theorem walkFrom_frame (s : State) (c : Option (Nat × Bool)) (ws : List Warp) (own : Nat → TableWord) (va level table : Nat) :
    walkFrom { s with cur := c, warps := ws } own va level table = walkFrom s own va level table := by
  induction level generalizing table with
  | zero =>
    unfold walkFrom
    rfl
  | succ n ih =>
    unfold walkFrom
    simp only [ih]
    rfl

theorem xlatVia_frame (s : State) (c : Option (Nat × Bool)) (ws : List Warp) (own : Nat → TableWord) :
    xlatVia { s with cur := c, warps := ws } own = xlatVia s own := by
  funext who part ctx va
  simp only [xlatVia, walkVia, walkFrom_frame]
  rfl

theorem importOf_frame (s : State) (c : Option (Nat × Bool)) (ws : List Warp) :
    importOf { s with cur := c, warps := ws } = importOf s := by
  have h : ownTableWord { s with cur := c, warps := ws } = ownTableWord s := by
    funext pa
    simp only [ownTableWord, importVia, xlatVia_frame]
    rfl
  funext write pa
  simp only [importOf, importVia, h, xlatVia_frame]
  rfl

/-- Whether a slot is ready does not depend on the issuing slot, on the other warps, or on ready times. -/
theorem slotReady_frame (s : State) (w : Warp) (x : Slot) (c : Option (Nat × Bool)) (ws : List Warp) (a b : Option Slot)
    (r : Option Nat) : slotReady { s with cur := c, warps := ws } { w with slot0 := a, slot1 := b } { x with readySince := r } =
      slotReady s w x := by
  have h : nextParcels? { s with cur := c, warps := ws } { w with slot0 := a, slot1 := b } = nextParcels? s w := by
    funext pc
    simp only [nextParcels?, fetchWord, placeNow, Place.here?, importOf_frame]
    rfl
  simp only [slotReady, heldAtIssue, h]
  rfl
/-- Time passes and nothing else changes. -/
theorem advance_frame (s : State) (dt : Nat) : advance s dt = { s with cycle := (advance s dt).cycle } := rfl

/-- The chosen slot starts; nothing but warps and the issuing slot has changed. -/
theorem startIssue_frame (s : State) (w : Warp) (n : Bool) (x : Slot) :
    startIssue s w n x = { s with cur := some (w.uid, n), warps := (startIssue s w n x).warps } := rfl

/-- What an instruction can answer: no next state without an issuing slot; else it waits, takes the exception of a
deferred report, or goes through its checks. -/
theorem issueWith_cases {early : Cx → Bool} {i : Instr} {body : Cx → Eff} {s t : State}
    (h : issueWith early i body s = .next t) : ∃ uid n w x, s.cur = some (uid, n) ∧ findWarp? s uid = some w ∧
      w.slot? n = some x ∧ (t = holdSlot s uid n ∨
        (∃ r, w.reports.find? i.takes = some r ∧ t = enterTrap (setWarp s { w with reports := w.reports.erase r }) uid n
          i.size r.cause.toNat 0 r.tval) ∨
        gated s w i = false ∧ w.reports.find? i.takes = none ∧ t = issueChecked s w n x i body) := by
  unfold issueWith at h
  split at h
  · cases h
  · rename_i uid n hc
    split at h
    · cases h
    · rename_i w hw
      split at h
      · cases h
      · rename_i x hx
        refine ⟨uid, n, w, x, hc, hw, hx, ?_⟩
        split at h
        · exact .inl (Host.Outcome.next.inj h).symm
        · rename_i hg
          simp only [Bool.or_eq_true, not_or, Bool.not_eq_true] at hg
          split at h
          · rename_i r hr
            split at h
            · exact .inl (Host.Outcome.next.inj h).symm
            · exact .inr (.inl ⟨r, hr, (Host.Outcome.next.inj h).symm⟩)
          · rename_i hr
            exact .inr (.inr ⟨hg.1, hr, (Host.Outcome.next.inj h).symm⟩)

/-- What the checks lead to: the exception of one of them, the containment of a bank's error, or the effect. -/
theorem issueChecked_cases (s : State) (w : Warp) (n : Bool) (x : Slot) (i : Instr) (body : Cx → Eff) :
    let t := issueChecked s w n x i body
    (∃ cause sub tval, t = takeTrap s w n i.size cause sub tval) ∨
    (∃ p, t = contain s w 2 p 0x07 x.pc ((Cx.make s w n x i).doubleError?.elim 0 (fun q =>
      BitVec.ofNat 64 (blockAddr w q.2)))) ∨
    (∃ u, u = (Cx.make s w n x i).correctErrors ∧ t = (body (Cx.make u w n x i)).finish (Cx.make u w n x i)) := by
  simp only [issueChecked]
  split
  · exact .inl ⟨_, _, _, rfl⟩
  · split
    · exact .inl ⟨_, _, _, rfl⟩
    · split
      · exact .inl ⟨_, _, _, rfl⟩
      · split
        · rename_i p hp
          exact .inr (.inl ⟨p.1, by simp [hp]⟩)
        · exact .inr (.inr ⟨_, rfl, rfl⟩)

end Sys2Proof.Machine
end

