-- ==== Sys2Proof/Tests/Slice0.lean ====
section
/-! SUPPORT. Tests: ill-formed terms, words written out from the spec's encodings, single steps with values worked out from
the spec, and for every statement a state that meets its hypotheses. -/

namespace Sys2Proof.Tests

set_option Elab.async false

open Sys2Proof Sys2Proof.Machine

/-! ### Words, field by field (R159, R171) -/

/-- A form-F word. -/
def fw (op mod dst srca srcb x8 guard : Nat) : List Word :=
  [BitVec.ofNat 32 (op * 2 ^ 22 + mod * 2 ^ 19 + dst * 2 ^ 10 + srca),
   BitVec.ofNat 32 (srcb * 2 ^ 22 + x8 * 2 ^ 14 + guard)]

/-- A form-L word. -/
def lw (op mod dst srca xb x8 guard lit : Nat) : List Word :=
  [BitVec.ofNat 32 (2 * 2 ^ 30 + op * 2 ^ 22 + mod * 2 ^ 19 + dst * 2 ^ 10 + srca),
   BitVec.ofNat 32 (xb * 2 ^ 22 + x8 * 2 ^ 14 + guard), BitVec.ofNat 32 lit]

/-- A half of a form-P word. -/
def hw (hop d a b : Nat) : Word := BitVec.ofNat 32 (2 ^ 30 + hop * 2 ^ 24 + d * 2 ^ 16 + a * 2 ^ 8 + b)

/-- The decoder reads the instruction from the word. -/
def reads (p : List Word × Instr) : Bool :=
  match decode (p.1.flatMap bytesOfWord) with
  | .ok i => i == p.2
  | .error _ => false

/-- The decoder refuses the word. -/
def refuses (ps : List Word) : Bool :=
  match decode (ps.flatMap bytesOfWord) with
  | .ok _ => false
  | .error _ => true

/-- `?v12.3`: GUARD 12 << 6 | 3 << 1. -/
def g12 : Guard := some ⟨12, 3, false⟩

def integerWords : List (List Word × Instr) := [
    (fw 0x00 0 3 1 2 0 0x306, .add ⟨.i32, g12, .v 3, .v 1, .v 2⟩),
    (fw 0x01 1 0x103 0x101 0x102 0 0, .sub ⟨.n32, none, .s 3, .s 1, .s 2⟩),
    (lw 0x02 4 3 0x201 0 0 0x307 7, .adds ⟨.i16x2, some ⟨12, 3, true⟩, .v 3, .left 1, .lit 7⟩),
    (fw 0x03 7 3 0x301 0x102 0 0, .subs ⟨.n8x4, none, .v 3, .right 1, .s 2⟩),
    (fw 0x04 2 4 2 6 0 0, .mul ⟨.i64, none, .v 4, .v 2, .v 6⟩),
    (fw 0x05 3 4 2 6 0 0, .mulh ⟨.n64, none, .v 4, .v 2, .v 6⟩),
    (fw 0x06 0 3 1 2 9 0, .mad ⟨.i32, none, 3, .v 1, .v 2, 9⟩),
    (fw 0x07 1 4 1 2 8 0, .madw ⟨.n32, none, 4, .v 1, .v 2, 8⟩),
    (fw 0x08 0 3 1 2 0 0, .div ⟨.i32, none, .v 3, .v 1, .v 2⟩),
    (fw 0x09 1 3 1 2 0 0, .rem ⟨.n32, none, .v 3, .v 1, .v 2⟩),
    (fw 0x0A 5 3 1 2 0 0, .min ⟨.n16x2, none, .v 3, .v 1, .v 2⟩),
    (fw 0x0B 6 3 1 2 0 0, .max ⟨.i8x4, none, .v 3, .v 1, .v 2⟩),
    (fw 0x0C 0 3 1 0 0 0, .abs ⟨.i32, none, .v 3, .v 1⟩),
    (lw 0x0D 0 3 0 0 0 0 5, .neg ⟨.i32, none, .v 3, .lit 5⟩),
    (fw 0x0E 1 3 1 2 0 0, .and ⟨.n32, none, .v 3, .v 1, .v 2⟩),
    (fw 0x0F 1 3 1 2 0 0, .or ⟨.n32, none, .v 3, .v 1, .v 2⟩)]

theorem test_decode_integer : integerWords.all reads = true := by decide +kernel

def integerWords2 : List (List Word × Instr) := [
    (fw 0x10 1 3 1 2 0 0, .xor ⟨.n32, none, .v 3, .v 1, .v 2⟩),
    (fw 0x11 1 3 1 2 0 0, .andn ⟨.n32, none, .v 3, .v 1, .v 2⟩),
    (fw 0x12 1 3 1 0 0 0, .not ⟨.n32, none, .v 3, .v 1⟩),
    (lw 0x13 1 3 1 0 0 0 2, .shl ⟨.n32, none, .v 3, .v 1, .lit 2⟩),
    (fw 0x14 1 3 1 2 0 0, .shr ⟨.n32, none, .v 3, .v 1, .v 2⟩),
    (fw 0x15 0 3 1 2 0 0, .sar ⟨.i32, none, .v 3, .v 1, .v 2⟩),
    (fw 0x16 1 3 1 2 0 0, .rotl ⟨.n32, none, .v 3, .v 1, .v 2⟩),
    (fw 0x17 1 3 1 2 9 0, .funs ⟨.n32, none, 3, .v 1, .v 2, 9⟩),
    (fw 0x18 1 3 1 0 0 0, .popc ⟨.n32, none, .v 3, .v 1⟩),
    (fw 0x19 3 3 2 0 0 0, .clz ⟨.n64, none, .v 3, .v 2⟩),
    (fw 0x1A 1 3 1 0 0 0, .ctz ⟨.n32, none, .v 3, .v 1⟩),
    (fw 0x1B 1 0x103 0x101 0 0 0, .brev ⟨.n32, none, .s 3, .s 1⟩),
    (fw 0x1C 0 3 1 2 9 0, .bfx ⟨.i32, none, 3, .v 1, .v 2, 9⟩),
    (fw 0x1D 1 3 1 2 9 0, .bfi ⟨.n32, none, 3, .v 1, .v 2, 9⟩),
    (fw 0x1E 2 4 2 1 9 0, .lea ⟨.i64, none, 4, .v 2, .v 1, 9⟩),
    (lw 0x1F 1 0x103 0 0 0 0 0xABCD1234, .mov ⟨.n32, none, .s 3, .lit 0xABCD1234⟩)]

theorem test_decode_integer_rest : integerWords2.all reads = true := by decide +kernel

def laneWords : List (List Word × Instr) := [
    (fw 0x20 0 12 1 2 0x43 0, .cmp ⟨.lt, .i32, none, .v 12, 3, .v 1, .v 2⟩),
    (fw 0x21 0 12 1 2 0x40 0, .fcmp ⟨.lt, .f32, none, .v 12, 0, .v 1, .v 2⟩),
    (fw 0x22 0 1 5 4 0 0x500, .sel ⟨.word, 20, 0, false, 1, .v 5, .v 4⟩),
    (fw 0x23 0 12 1 7 0x63 0, .bitop ⟨.and (.v 1) 7, none, .v 12, 3⟩),
    (fw 0x24 0 8 1 0x105 0 0, .shfl ⟨.idx, false, none, 8, .v 1, .s 5⟩),
    (fw 0x25 0 0x105 1 0 0x0E 0, .vote ⟨.ballot, 3, none, 5, .v 1⟩),
    (fw 0x26 1 0x105 1 0 0x02 0, .wred ⟨.max, .n32, none, 5, .v 1⟩),
    (fw 0x27 0 5 1 0 0x18 0, .wscan ⟨.add, .f32, true, none, 5, .v 1⟩),
    (fw 0x28 0 7 1 0 0 0, .matchLanes ⟨false, none, 7, .v 1⟩),
    (fw 0x2A 1 5 3 0 0x03 0, .cvt ⟨.e4m3, .f32, .rnd .rz, none, 5, .v 3⟩),
    (fw 0x2A 4 6 2 9 0x01 0, .cvt ⟨.bf16, .f32, .sr (.v 9), none, 6, .v 2⟩),
    (fw 0x2B 0 7 1 2 0x13 0, .pack ⟨.e4m3, 1, .rne, none, 7, .v 1, .v 2⟩),
    (fw 0x2C 0 8 7 0 0x13 0, .unpk ⟨.e4m3, 1, none, 8, .v 7⟩),
    (fw 0x2D 0 8 7 0 1 0, .frnd ⟨.f32, .rz, none, 8, .v 7⟩),
    (fw 0x2E 0 0x108 11 0 0 0, .movsr ⟨11, .s 8⟩),
    (lw 0x2F 0 19 0 0 0 0 2, .setsr ⟨19, .lit 2⟩)]

theorem test_decode_compare_and_lanes : laneWords.all reads = true := by decide +kernel

def floatWords : List (List Word × Instr) := [
    (fw 0x40 0 3 1 2 1 0, .fadd ⟨.f32, .rz, none, 3, .v 1, .v 2⟩),
    (fw 0x41 1 3 1 2 0 0, .fsub ⟨.bf16x2, .rne, none, 3, .v 1, .v 2⟩),
    (fw 0x42 2 3 1 2 0 0, .fmul ⟨.f16x2, .rne, none, 3, .v 1, .v 2⟩),
    (fw 0x43 0 20 21 22 20 0, .ffma ⟨.f32, none, 20, .v 21, .v 22, 20⟩),
    (fw 0x44 0 3 1 2 0 0, .fmin ⟨.f32, none, 3, .v 1, .v 2⟩), (fw 0x45 0 3 1 2 0 0, .fmax ⟨.f32, none, 3, .v 1, .v 2⟩),
    (fw 0x46 0 3 1 0 0 0, .fabs ⟨.f32, none, 3, .v 1⟩), (fw 0x47 0 3 1 0 0 0, .fneg ⟨.f32, none, 3, .v 1⟩),
    (fw 0x48 0 3 1 2 0 0, .fcps ⟨.f32, none, 3, .v 1, .v 2⟩), (fw 0x49 0 3 1 0 0 0, .fclass ⟨.f32, none, 3, .v 1⟩),
    (fw 0x4A 0 3 1 2 3 0, .fdiv ⟨.f32, .rd, none, 3, .v 1, .v 2⟩),
    (fw 0x4B 0 3 1 2 2 0, .fscl ⟨.f32, .ru, none, 3, .v 1, .v 2⟩),
    (fw 0x4C 0 3 1 0 0 0, .fxtr ⟨.f32, none, 3, .v 1⟩), (fw 0x4D 1 3 1 2 9 0, .fdot2 ⟨.bf16x2, none, 3, .v 1, .v 2, 9⟩),
    (fw 0x4E 0 3 1 0 0 0, .fsat ⟨.f32, none, 3, .v 1⟩),
    (fw 0x60 0 3 1 0 0 0, .exp2 ⟨.f32, none, 3, .v 1⟩), (fw 0x61 0 3 1 0 0 0, .log2 ⟨.f32, none, 3, .v 1⟩),
    (fw 0x62 0 3 1 0 0 0, .rcp ⟨.f32, none, 3, .v 1⟩), (fw 0x63 0 3 1 0 0 0, .rsq ⟨.f32, none, 3, .v 1⟩),
    (fw 0x64 0 3 1 0 0 0, .sqrt ⟨.f32, none, 3, .v 1⟩), (fw 0x65 0 3 1 0 0 0, .sinp ⟨.f32, none, 3, .v 1⟩),
    (fw 0x66 0 3 1 0 0 0, .cosp ⟨.f32, none, 3, .v 1⟩), (fw 0x67 0 3 1 0 0 0, .tanh ⟨.f32, none, 3, .v 1⟩),
    (fw 0x68 1 3 1 0 0 0, .sigm ⟨.bf16x2, none, 3, .v 1⟩), (fw 0x69 0 3 1 0 0 0, .erf ⟨.f32, none, 3, .v 1⟩),
    (fw 0x6A 0 3 1 0 0 0, .exp ⟨.f32, none, 3, .v 1⟩), (fw 0x6B 0 3 1 0 0 0, .loge ⟨.f32, none, 3, .v 1⟩),
    (fw 0x6C 0 3 1 0 0 0, .gelu ⟨.f32, none, 3, .v 1⟩), (fw 0x6D 2 3 1 0 0 0, .silu ⟨.f16x2, none, 3, .v 1⟩)]

theorem test_decode_float : floatWords.all reads = true := by decide +kernel

def controlWords : List (List Word × Instr) := [
    (fw 0x70 0 0 0 0 4 0, .bra ⟨none, .short 4⟩), (lw 0x70 0 0 0 0 0 0 100, .bra ⟨none, .long 100⟩),
    (lw 0x71 0 0 0 0 9 0x300 7, .brc ⟨some ⟨12, 0, false⟩, 7, 9⟩), (fw 0x72 0 0 0 0 0 0, .join),
    (fw 0x73 0 0x13F 0 0 4 0, .call ⟨63, .short 4⟩), (fw 0x74 0 0 0x13F 0 0 0, .ret 63),
    (fw 0x75 0 0 0x105 0 0 0, .jmpi 5), (fw 0x76 0 0 0x105 0x3FF 0xFE 0, .loop ⟨5, .short 0x3FFFE⟩),
    (fw 0x77 0 0 0 0 0 0, .exit none), (fw 0x78 0 0 0 0 0 0, .yield), (fw 0x79 0 0 0 0 0 0, .nop),
    (lw 0x7A 0 0 0 0 0 0 100, .sleep (.lit 100)),
    (fw 0xA0 1 0 0 0 0x43 0, .bar ⟨.arrive, .gang, 3⟩), (fw 0xA0 0 0 0 0 0 0, .bar ⟨.sync, .team, 0⟩),
    (fw 0xA1 0 0xFF 0x3FF 0x3F0 0x3F 0, .wait ⟨63, 0, 63, 63, 63, 63⟩),
    (lw 0xA2 4 0 0x102 252 1 0 0, .waitw ⟨true, false, .ne, 2, .lit 0 252⟩),
    (fw 0xA3 0 0 0 0 0x21 0, .rarv ⟨⟨1, 1⟩, false⟩), (fw 0xA4 1 0 0x103 0 0x20 0, .rwt ⟨⟨0, 1⟩, true, .s 3⟩),
    (fw 0xA5 0 0 0x107 0 0 0, .tflag (.s 7)), (fw 0xA6 0 0 0x107 0 0 0, .wake ⟨7, none⟩)]

theorem test_decode_control_and_sync : controlWords.all reads = true := by decide +kernel

def memoryWords : List (List Word × Instr) := [
    (lw 0x80 1 20 0x108 6 0xC3 0 0x40, .ld ⟨.wi, .core, false, .w8, none, ⟨.s 8, some (.v 6), .x8, some 0x40⟩, .v 20⟩),
    (fw 0x81 2 8 4 0 0x0C 0, .st ⟨.own, .pkg, false, .w16, none, ⟨.v 4, none, .x1, none⟩, .v 8⟩),
    (fw 0x82 0 8 4 0 0x0D 0, .stnt ⟨.wt, .pkg, false, .w4, none, ⟨.v 4, none, .x1, none⟩, .v 8⟩),
    (fw 0x83 0 2 0x101 3 0 0, .lds ⟨.w4, none, 1, some (.v 3), none, .v 2⟩),
    (fw 0x84 0 2 0x101 3 0 0, .sts ⟨.w4, none, 1, some (.v 3), none, .v 2⟩),
    (fw 0x85 4 8 4 0 0x0F 0, .ldck ⟨.wi, .pkg, true, .w4, none, ⟨.v 4, none, .x1, none⟩, .v 8⟩),
    (fw 0x86 0 8 4 0 0x0D 0, .stck ⟨.wt, .pkg, false, .w4, none, ⟨.v 4, none, .x1, none⟩, .v 8⟩),
    (fw 0x87 0 0 4 0 0x0E 0, .pref ⟨.si, .pkg, false, .w4, none, ⟨.v 4, none, .x1, none⟩, .v 0⟩),
    (fw 0x88 0 10 4 11 0x6E 0, .atom ⟨.cas, .pkg, .none, none, .v 4, none, .v 11, 10⟩),
    (fw 0x89 0 0 4 6 0x62 0, .red ⟨.addF32, .pkg, .none, none, .v 4, none, .v 6⟩),
    (lw 0x8A 1 5 0x103 4 0x00 0 0x06000010, .atoms ⟨.addI32, none, 3, .added 6 0x10, .v 4, 5⟩),
    (fw 0x8B 2 0 0 0 0x0C 0, .fence ⟨.rel, .pkg⟩), (fw 0x8C 0 0 0 0 0 0, .drnt), (fw 0x8D 0 0 0 0 0x0C 0, .redf .pkg),
    (lw 0x8E 0 0 4 0 0 0 0x80, .invl ⟨none, .v 4, some 0x80⟩), (fw 0x8F 0 0 0x104 0 0 0, .wbl ⟨none, .s 4, none⟩),
    (fw 0x90 0 0 0 0 0 0, .rsync),
    (fw 0xB0 1 0 0x104 0 0 0, .nbsa true 4), (fw 0xB1 0 0 0x104 0 0 0, .nbcp 4), (fw 0xB2 0 0 0x104 0 0 0, .nbzr 4),
    (fw 0xB3 0 0 0x104 0 0 0, .nbopt 4), (fw 0xB4 0 0 0 0 0 0, .nbfn)]

theorem test_decode_memory : memoryWords.all reads = true := by decide +kernel

def systemWords : List (List Word × Instr) := [
    (fw 0xC0 0 0 0x10B 0x10D 0 0, .mma ⟨.bf16, 0, none, 11, 13⟩),
    (fw 0xC1 0 0x114 0x10B 0x10D 0 0, .mmao ⟨.bf16, 0, none, 11, 13, 20⟩),
    (fw 0xC2 0 0 0 0 3 0, .acz ⟨3, none⟩), (fw 0xC3 0 0 0x106 0 2 0, .acld ⟨2, none, 6⟩),
    (fw 0xC4 0 0 0x106 0 2 0, .acst ⟨2, none, 6⟩),
    (fw 0xC5 4 0 0x106 0x107 2 0, .tdrn ⟨.mxe4m3, 2, none, 6, some 7⟩),
    (fw 0xC6 0 0 40 0 0 0, .acsc ⟨0, none, .v 40⟩), (fw 0xC7 0 40 0 0 0 0, .acmx ⟨0, none, .v 40⟩),
    (fw 0xC8 0 0 40 0 0 0, .acex ⟨0, none, .v 40⟩),
    (lw 0xD0 1 0x10B 0x10A 4 2 0 0x3F0, .cpt ⟨10, .v 4, 11, .word 2 (some 0x3F0), none⟩),
    (fw 0xD1 0 0x10B 0x10A 4 0 0, .cpg ⟨10, .v 4, 11, .none, none⟩),
    (fw 0xD2 2 0x10B 0x10A 4 0 0, .cps ⟨10, .v 4, 11, .ring 0 0, none⟩), (fw 0xD3 0 0x104 0 0 0 0, .cpq 4),
    (fw 0xD4 0 0 0x104 0 0 0, .card ⟨4, .none⟩), (fw 0xD5 0 0 0x104 0 0 0, .cagt ⟨4, .none⟩),
    (fw 0xD6 0 0 0x104 0 0 0, .cata ⟨4, .none⟩), (fw 0xD7 0 0 0x104 0 0 0, .cbct ⟨4, .none⟩),
    (fw 0xE0 0 0 0x101 0 0 0, .sreg ⟨0, 1⟩), (fw 0xE1 0 3 0x106 0 0 0, .sld ⟨0, 6, 3⟩),
    (fw 0xE2 0 0 0x104 2 0 0, .sst ⟨0, 4, 2⟩), (fw 0xE3 0 0x108 0x106 0x109 0x41 0, .shrd ⟨1, .thr 9, false, 8, 6⟩),
    (fw 0xE4 0 0x10A 0x106 8 0 0, .slda ⟨0, 10, 6, 8⟩), (fw 0xE5 0 9 0x104 0x10C 0 0, .ssta ⟨0, 9, 4, 12⟩),
    (fw 0xE6 0 0 0 0 0x13 0, .scmt ⟨3, true⟩), (fw 0xE7 0 0 0x106 0 0x10 0, .snrm ⟨true, 6⟩),
    (lw 0xE8 0 0 0 0 0 0 0x0060CC11, .sigchk 0x0060CC11), (fw 0xE9 0 0x104 0 0 0 0, .sigrd 4),
    (fw 0xEA 0 3 1 0 0 0, .ckgen ⟨none, 3, .v 1⟩), (fw 0xEB 0 3 1 2 0 0, .cktst ⟨none, 3, .v 1, .v 2⟩),
    (fw 0xF0 0 0 0x101 0 0 0, .trap (.s 1)), (fw 0xF1 1 0 0 0 0 0, .rett true),
    (lw 0xF2 0 0x101 0x102 0 0 0 5, .lnch ⟨1, 2, .lit 5⟩), (fw 0xF3 0 0 0x101 0 0 0, .prgs (.s 1)),
    (lw 0xF4 0 0 0 0 0 0 7, .bkpt (.lit 7)), (fw 0xF5 0 0 0x102 0 0 0, .tlbi (.page 2)), (fw 0xF5 2 0 0 0 0 0, .tlbi .all),
    (fw 0xF6 0 0 0 0 0 0, .halt)]

theorem test_decode_matrix_copy_soft_system : systemWords.all reads = true := by decide +kernel

def pairWords : List (List Word × Instr) := [
    ([hw 0x00 8 1 0, hw 0x1D 0 0 0], .halfMov ⟨8, 1, 0, hw 0x1D 0 0 0⟩),
    ([hw 0x01 8 0 0xFF, hw 0x1D 0 0 0], .halfMovi ⟨8, 0, 0xFF, hw 0x1D 0 0 0⟩),
    ([hw 0x02 8 1 2, hw 0x10 17 3 4], .halfAdd ⟨8, 1, 2, hw 0x10 17 3 4⟩),
    ([hw 0x03 8 1 5, hw 0x1D 0 0 0], .halfAddi ⟨8, 1, 5, hw 0x1D 0 0 0⟩),
    ([hw 0x04 8 1 2, hw 0x1D 0 0 0], .halfSub ⟨8, 1, 2, hw 0x1D 0 0 0⟩),
    ([hw 0x05 8 1 2, hw 0x1D 0 0 0], .halfAnd ⟨8, 1, 2, hw 0x1D 0 0 0⟩),
    ([hw 0x06 8 1 2, hw 0x1D 0 0 0], .halfOr ⟨8, 1, 2, hw 0x1D 0 0 0⟩),
    ([hw 0x07 8 1 2, hw 0x1D 0 0 0], .halfXor ⟨8, 1, 2, hw 0x1D 0 0 0⟩),
    ([hw 0x08 8 1 31, hw 0x1D 0 0 0], .halfShli ⟨8, 1, 31, hw 0x1D 0 0 0⟩),
    ([hw 0x09 8 1 31, hw 0x1D 0 0 0], .halfShri ⟨8, 1, 31, hw 0x1D 0 0 0⟩),
    ([hw 0x0A 8 1 31, hw 0x1D 0 0 0], .halfSari ⟨8, 1, 31, hw 0x1D 0 0 0⟩),
    ([hw 0x0B 8 1 2, hw 0x1D 0 0 0], .halfMin ⟨8, 1, 2, hw 0x1D 0 0 0⟩),
    ([hw 0x0C 8 1 2, hw 0x1D 0 0 0], .halfMax ⟨8, 1, 2, hw 0x1D 0 0 0⟩),
    ([hw 0x0D 8 1 2, hw 0x1D 0 0 0], .halfMul ⟨8, 1, 2, hw 0x1D 0 0 0⟩),
    ([hw 0x0E 8 1 2, hw 0x1D 0 0 0], .halfFadd ⟨8, 1, 2, hw 0x1D 0 0 0⟩),
    ([hw 0x0F 8 1 2, hw 0x1D 0 0 0], .halfFsub ⟨8, 1, 2, hw 0x1D 0 0 0⟩),
    ([hw 0x10 8 1 2, hw 0x1D 0 0 0], .halfFmul ⟨8, 1, 2, hw 0x1D 0 0 0⟩),
    ([hw 0x11 8 1 2, hw 0x1D 0 0 0], .halfFmac ⟨8, 1, 2, hw 0x1D 0 0 0⟩),
    ([hw 0x12 8 1 2, hw 0x1D 0 0 0], .halfFmin ⟨8, 1, 2, hw 0x1D 0 0 0⟩),
    ([hw 0x13 8 1 2, hw 0x1D 0 0 0], .halfFmax ⟨8, 1, 2, hw 0x1D 0 0 0⟩),
    ([hw 0x14 8 1 2, hw 0x1D 0 0 0], .halfHadd ⟨8, 1, 2, hw 0x1D 0 0 0⟩),
    ([hw 0x15 8 1 2, hw 0x1D 0 0 0], .halfHmul ⟨8, 1, 2, hw 0x1D 0 0 0⟩),
    ([hw 0x16 8 1 2, hw 0x1D 0 0 0], .halfHmac ⟨8, 1, 2, hw 0x1D 0 0 0⟩),
    ([hw 0x17 8 1 0, hw 0x1D 0 0 0], .halfCvtf ⟨8, 1, 0, hw 0x1D 0 0 0⟩),
    ([hw 0x18 8 1 0, hw 0x1D 0 0 0], .halfCvti ⟨8, 1, 0, hw 0x1D 0 0 0⟩),
    ([hw 0x19 8 1 0, hw 0x1D 0 0 0], .halfNot ⟨8, 1, 0, hw 0x1D 0 0 0⟩),
    ([hw 0x1A 8 1 0, hw 0x1D 0 0 0], .halfAbs ⟨8, 1, 0, hw 0x1D 0 0 0⟩),
    ([hw 0x1B 8 1 0, hw 0x1D 0 0 0], .halfFabs ⟨8, 1, 0, hw 0x1D 0 0 0⟩),
    ([hw 0x1C 8 1 0, hw 0x1D 0 0 0], .halfFneg ⟨8, 1, 0, hw 0x1D 0 0 0⟩),
    ([hw 0x1D 0 0 0, hw 0x01 3 0 1], .halfNop ⟨0, 0, 0, hw 0x01 3 0 1⟩)]

theorem test_decode_pairs : pairWords.all reads = true := by decide +kernel

/-- Words the spec prints: two parcels of R240's and R245's lines, and the SREG of the soft program. -/
def printedWords : List (List Word × Instr) := [
    ([0x08403001, 0x00900000], .fcmp ⟨.lt, .f32, none, .v 12, 0, .v 1, .v 2⟩),
    ([0x0AA01802, 0x02404000], .cvt ⟨.bf16, .f32, .sr (.v 9), none, 6, .v 2⟩),
    ([0x38000101, 0], .sreg ⟨0, 1⟩), ([0x2843FFC0, 0xFFFFC000], .wait ⟨63, 63, 63, 63, 63, 0⟩),
    ([0xA0085108, 0x01B0C000, 0x40],
      .ld ⟨.wi, .core, false, .w8, none, ⟨.s 8, some (.v 6), .x8, some 0x40⟩, .v 20⟩)]

theorem test_decode_printed_words : printedWords.all reads = true := by decide +kernel

/-- R158, R162, R174: a word of form 0b11, a reserved OP, a set unused field, a reserved type, form L where none is taken. -/
theorem test_decode_refuses : ([[0xC0000000, 0], fw 0x29 0 0 0 0 0 0, fw 0x2B 0 0 0 0 0x17 0, fw 0x79 0 1 0 0 0 0,
    fw 0x21 3 12 1 2 0x40 0, lw 0x72 0 0 0 0 0 0 0, fw 0x88 0 10 4 11 0x71 0, fw 0x26 0 0x105 1 0 0x06 0, [0x79 * 2 ^ 22],
    fw 0x71 0 0 0 0 9 0x300] : List (List Word)).all refuses = true := by
  decide +kernel

/-! ### Ill-formed terms -/

/-- One term for each check of WellFormed, which refuses it: odd pairs, a literal in A, a guarded scalar form, a vector
source of a scalar form, `?v0.0`, types and kinds that an instruction does not take, reserved pairs and positions. -/
theorem test_ill_formed : ([
    .mul ⟨.i64, none, .v 3, .v 2, .v 6⟩, .mul ⟨.i64, none, .v 4, .v 2, .v 5⟩, .add ⟨.i32, none, .v 3, .lit 1, .v 2⟩,
    .add ⟨.i32, g12, .s 3, .s 1, .s 2⟩, .add ⟨.i32, none, .s 3, .v 1, .s 2⟩,
    .add ⟨.i32, some ⟨0, 0, false⟩, .v 3, .v 1, .v 2⟩, .mulh ⟨.i16x2, none, .v 3, .v 1, .v 2⟩,
    .abs ⟨.n32, none, .v 3, .v 1⟩, .neg ⟨.i64, none, .v 3, .v 2⟩, .madw ⟨.i64, none, 4, .v 1, .v 2, 8⟩,
    .madw ⟨.i32, none, 5, .v 1, .v 2, 8⟩, .bfx ⟨.i64, none, 4, .v 3, .v 1, 9⟩, .cmp ⟨.eq, .i16x2, none, .v 1, 0, .v 1, .v 2⟩,
    .fcmp ⟨.eq, .f16x2, none, .v 1, 1, .v 1, .v 2⟩, .sel ⟨.i64, 20, 0, false, 1, .v 4, .v 6⟩,
    .bitop ⟨.and (.lit 1) 0, none, .v 1, 0⟩, .shfl ⟨.idx, true, none, 3, .v 2, .v 1⟩, .vote ⟨.any, 0, none, 1, .s 2⟩,
    .wred ⟨.and, .f32, none, 1, .v 2⟩, .wscan ⟨.add, .i64, false, none, 3, .v 2⟩, .matchLanes ⟨true, none, 3, .v 1⟩,
    .cvt ⟨.f32, .f32, .rnd .rne, none, 3, .v 1⟩, .cvt ⟨.i32, .f32, .sr (.v 1), none, 3, .v 1⟩,
    .cvt ⟨.i64, .f32, .rnd .rne, none, 3, .v 1⟩, .pack ⟨.f32, 0, .rne, none, 3, .v 1, .v 2⟩,
    .pack ⟨.bf16, 1, .rne, none, 3, .v 1, .v 2⟩, .unpk ⟨.bf16, 0, none, 3, .v 1⟩, .movsr ⟨0, .s 1⟩, .setsr ⟨0, .s 1⟩,
    .fadd ⟨.f32, .rne, none, 3, .lit 1, .v 2⟩, .fdot2 ⟨.f32, none, 3, .v 1, .v 2, 3⟩, .fmin ⟨.f32, none, 3, .lit 0, .v 2⟩,
    .fabs ⟨.f32, none, 3, .lit 0⟩, .frnd ⟨.f32, .rne, none, 3, .lit 0⟩, .brc ⟨none, 7, 2⟩, .exit (some ⟨0, 0, false⟩),
    .bra ⟨some ⟨0, 0, false⟩, .short 1⟩] : List Instr).all (fun i => !i.wf) = true := by
  decide +kernel

theorem test_ill_formed_rest : ([
    .ld ⟨.wi, .pkg, false, .w4, none, ⟨.v 5, none, .x1, none⟩, .v 8⟩, .ld ⟨.wi, .pkg, false, .w4, none, ⟨.v 4, none, .x1, none⟩, .s 8⟩,
    .ld ⟨.wi, .pkg, false, .w16, none, ⟨.v 4, none, .x1, none⟩, .v 6⟩,
    .stnt ⟨.own, .pkg, false, .w4, none, ⟨.v 4, none, .x1, none⟩, .v 8⟩,
    .ldck ⟨.wi, .pkg, false, .w8, none, ⟨.v 4, none, .x1, none⟩, .v 8⟩,
    .stck ⟨.own, .pkg, false, .w4, none, ⟨.v 4, none, .x1, none⟩, .v 8⟩,
    .pref ⟨.si, .pkg, true, .w4, none, ⟨.v 4, none, .x1, none⟩, .v 0⟩, .lds ⟨.w4, none, 1, none, none, .v 2⟩,
    .sts ⟨.w4, none, 1, some (.v 0), some 4, .v 2⟩, .atom ⟨.addI64, .pkg, .none, none, .v 4, none, .v 6, 9⟩,
    .red ⟨.cas, .pkg, .none, none, .v 4, none, .v 6⟩, .red ⟨.addI32, .pkg, .acq, none, .v 4, none, .v 6⟩,
    .atoms ⟨.cas64, none, 3, .plain, .v 4, 6⟩, .invl ⟨none, .v 5, none⟩, .mmao ⟨.i8, 0, none, 11, 13, 20⟩,
    .mmao ⟨.bf16, 0, none, 11, 13, 21⟩, .mma ⟨.bf16, 0, some ⟨0, 0, false⟩, 11, 13⟩, .tdrn ⟨.mxe4m3, 0, none, 6, none⟩,
    .acsc ⟨0, none, .s 4⟩, .acmx ⟨0, none, .left 4⟩, .cpt ⟨10, .v 4, 11, .none, g12⟩, .cpg ⟨10, .s 4, 11, .none, none⟩,
    .cpq 3, .sld ⟨0, 5, 3⟩, .sst ⟨0, 5, 2⟩, .shrd ⟨0, .max, true, 9, 6⟩, .slda ⟨0, 10, 5, 8⟩, .ssta ⟨0, 9, 5, 12⟩,
    .snrm ⟨false, 5⟩, .sigrd 3, .ckgen ⟨none, 3, .lit 1⟩, .cktst ⟨none, 3, .v 1, .lit 1⟩, .tlbi (.page 3),
    .halfShli ⟨8, 1, 32, hw 0x1D 0 0 0⟩, .halfMov ⟨8, 1, 1, hw 0x1D 0 0 0⟩, .halfAdd ⟨8, 1, 2, hw 0x10 17 9 4⟩,
    .halfAdd ⟨8, 1, 2, hw 0x10 8 3 4⟩, .halfAdd ⟨8, 1, 2, hw 0x1E 17 3 4⟩, .halfAdd ⟨8, 1, 2, 0x10110304⟩]
      : List Instr).all (fun i => !i.wf) = true := by
  decide +kernel

/-! ### A warp that issues -/

/-- The team, warp and context of Machine/Place.lean, at cycle 1000, with a warp's slot 0 issuing. -/
def base : State := { placeProgram State.reset [] with agenda := [], cur := some (4, false), cycle := 1000, nextId := 100 }

def labWarp : Warp := programWarp

def labSlot : Slot :=
  { pc := 0, mask := 0xFFFFFFFF, join := none, sig := 0, shadow := 0xFFFFFFFF, block := .none, readyAt := 0, readySince := none,
    heldBack := false }

/-- The device with that warp. -/
def lab (w : Warp) : State := { base with warps := [w] }

/-- Register words of the window: scalars, and vectors with one value in every lane. -/
def sr (j : Nat) (v : Word) : List (Nat × Word) := [(sKey j, v)]
def vr (k : Nat) (v : Word) : List (Nat × Word) := (List.range 32).map (fun l => (vKey k l, v))

/-- The warp with some register words. -/
def holding (l : List (List (Nat × Word))) : Warp := { labWarp with window := [l.flatten] }

/-- The warp in trap mode, its slot the handler's. -/
def trapped (w : Warp) : Warp :=
  { w with trap := some { slot0 := some { labSlot with pc := 10 }, slot1 := none, depth := 0, s60 := 60, s61 := 61, s62 := 62,
                          s63 := 63, trapped := false, size := 2, cause := 0x0B, tval := 5 } }

/-- What `Issues` asks, as a test. -/
def issuesB (i : Instr) (s : State) (w : Warp) (n : Bool) (x : Slot) : Bool :=
  decide (s.cur = some (w.uid, n)) && decide (findWarp? s w.uid = some w) && decide (w.slot? n = some x) &&
  (gated s w i == false) && decide (w.reports.find? i.takes = none) && (beyondLimits s w i == false) &&
  (i.role.admits (roleOf w) == true) && ((i.privileged && !mayPrivileged s w i) == false) && decide (s.upsets = []) &&
  (waitsFirst i (finds s w n x i) == false)

theorem issues_of {i : Instr} {s : State} {w : Warp} {n : Bool} {x : Slot} (h : issuesB i s w n x = true) :
    Issues i s w n x := by
  simp only [issuesB, Bool.and_eq_true, decide_eq_true_eq, beq_iff_eq] at h
  obtain ⟨⟨⟨⟨⟨⟨⟨⟨⟨h1, h2⟩, h3⟩, h4⟩, h5⟩, h6⟩, h7⟩, h8⟩, h9⟩, h10⟩ := h
  exact ⟨h1, h2, h3, h4, h5, h6, h7, h8, h9, h10⟩

/-- An instruction issues from the warp: `Issues` holds. -/
def goes (w : Warp) (i : Instr) : Bool := issuesB i (lab w) w false labSlot

/-- Every instruction of the words above issues, RETT, STCK, TLBI and HALT in trap mode: the hypothesis of every
statement about one instruction. -/
theorem witness_issues :
    (((integerWords ++ integerWords2 ++ laneWords ++ floatWords ++ controlWords ++ memoryWords ++ systemWords ++
        pairWords).filter (fun p => !p.2.privileged)).all (fun p => goes labWarp p.2) &&
      ((memoryWords ++ systemWords).filter (fun p => p.2.privileged)).all (fun p => goes (trapped labWarp) p.2)) = true := by
  decide +kernel

theorem witness_issues_add : Issues (.add ⟨.i32, none, .v 3, .v 1, .v 2⟩) (lab labWarp) labWarp false labSlot :=
  issues_of (by decide +kernel)

/-! ### One step of an instruction -/

/-- The state after an instruction of the warp. -/
def after? (w : Warp) (i : Instr) : Option State :=
  match exec i (lab w) with
  | .next t => some t
  | _ => none

def warpAfter (w : Warp) (i : Instr) : Warp := ((after? w i).bind (fun t => findWarp? t 4)).getD labWarp

/-- A register word after an instruction. -/
def word (w : Warp) (i : Instr) (key : Nat) : Word :=
  ((after? w i).bind (fun t => (findWarp? t 4).map (fun v => regWord t v (regBank t v) key))).getD 0xDEAD

/-- Values of v1 and v2, and of v9. -/
def two (a b : Word) : Warp := holding [vr 1 a, vr 2 b]
def three (a b c : Word) : Warp := holding [vr 1 a, vr 2 b, vr 9 c]

/-- v3 lane 5 after an instruction, and FLAGS. -/
def gives (w : Warp) (i : Instr) (v fl : Word) : Bool := word w i (vKey 3 5) == v && (warpAfter w i).flags == fl

/-- R207 to R209: wrap modulo 2^w, saturation with IOV (256), division by zero with IDZ (32). Flags as in R194. -/
theorem test_integer_results :
    (gives (two 0xFFFFFFFF 2) (.add ⟨.i32, none, .v 3, .v 1, .v 2⟩) 1 0 &&
     gives (two 0x7FFF8000 0x00018000) (.adds ⟨.i16x2, none, .v 3, .v 1, .v 2⟩) 0x7FFF8000 flIOV &&
     gives (two 0 1) (.sub ⟨.n32, none, .v 3, .v 1, .v 2⟩) 0xFFFFFFFF 0 &&
     gives (two 0 1) (.subs ⟨.n32, none, .v 3, .v 1, .v 2⟩) 0 flIOV &&
     gives (two 0xFF02FF02 0x02030203) (.mul ⟨.n8x4, none, .v 3, .v 1, .v 2⟩) 0xFE06FE06 0 &&
     gives (two 0x80000000 0x80000000) (.mulh ⟨.i32, none, .v 3, .v 1, .v 2⟩) 0x40000000 0 &&
     gives (two 7 0) (.div ⟨.i32, none, .v 3, .v 1, .v 2⟩) 0x7FFFFFFF flIDZ &&
     gives (two 0x80000000 0xFFFFFFFF) (.div ⟨.i32, none, .v 3, .v 1, .v 2⟩) 0x80000000 flIOV &&
     gives (two 0xFFFFFFF9 2) (.rem ⟨.i32, none, .v 3, .v 1, .v 2⟩) 0xFFFFFFFF 0 &&
     gives (two 0xFFFF0001 0x00020002) (.min ⟨.i16x2, none, .v 3, .v 1, .v 2⟩) 0xFFFF0001 0 &&
     gives (two 0xFFFF0001 0x00020002) (.max ⟨.n16x2, none, .v 3, .v 1, .v 2⟩) 0xFFFF0002 0 &&
     gives (two 0x80000000 0) (.abs ⟨.i32, none, .v 3, .v 1⟩) 0x80000000 0 &&
     gives (two 1 0) (.neg ⟨.i32, none, .v 3, .v 1⟩) 0xFFFFFFFF 0 &&
     gives (three 3 5 0xFFFFFFFF) (.mad ⟨.i32, none, 3, .v 1, .v 2, 9⟩) 14 0) = true := by
  decide +kernel

/-- R210 to R214: shifts count modulo the width, counts of zeros of 0, fields, scaled addresses. -/
theorem test_bit_results :
    (gives (two 0xF0F0F0F0 0xFF00FF00) (.and ⟨.n32, none, .v 3, .v 1, .v 2⟩) 0xF000F000 0 &&
     gives (two 0xF0F0F0F0 0xFF00FF00) (.or ⟨.n32, none, .v 3, .v 1, .v 2⟩) 0xFFF0FFF0 0 &&
     gives (two 0xF0F0F0F0 0xFF00FF00) (.xor ⟨.n32, none, .v 3, .v 1, .v 2⟩) 0x0FF00FF0 0 &&
     gives (two 0xF0F0F0F0 0xFF00FF00) (.andn ⟨.n32, none, .v 3, .v 1, .v 2⟩) 0x00F000F0 0 &&
     gives (two 0xF0F0F0F0 0) (.not ⟨.n32, none, .v 3, .v 1⟩) 0x0F0F0F0F 0 &&
     gives (two 1 33) (.shl ⟨.n32, none, .v 3, .v 1, .v 2⟩) 2 0 &&
     gives (two 0x80000000 31) (.shr ⟨.n32, none, .v 3, .v 1, .v 2⟩) 1 0 &&
     gives (two 0x80000000 31) (.sar ⟨.i32, none, .v 3, .v 1, .v 2⟩) 0xFFFFFFFF 0 &&
     gives (two 0x80000001 4) (.rotl ⟨.n32, none, .v 3, .v 1, .v 2⟩) 0x18 0 &&
     gives (three 1 4 0x20) (.funs ⟨.n32, none, 3, .v 1, .v 2, 9⟩) 0x10000002 0 &&
     gives (two 0xFF00FF01 0) (.popc ⟨.n32, none, .v 3, .v 1⟩) 17 0 &&
     gives (two 0 0) (.clz ⟨.n32, none, .v 3, .v 1⟩) 32 0 && gives (two 8 0) (.ctz ⟨.n32, none, .v 3, .v 1⟩) 3 0 &&
     gives (two 1 0) (.brev ⟨.n32, none, .v 3, .v 1⟩) 0x80000000 0 &&
     gives (three 0x00000F80 7 4) (.bfx ⟨.n32, none, 3, .v 1, .v 2, 9⟩) 15 0 &&
     gives (three 0x00000780 7 4) (.bfx ⟨.i32, none, 3, .v 1, .v 2, 9⟩) 0xFFFFFFFF 0 &&
     gives (three 0xF 0x0408 0xAAAAAAAA) (.bfi ⟨.n32, none, 3, .v 1, .v 2, 9⟩) 0xAAAAAFAA 0 &&
     gives (three 100 3 3) (.lea ⟨.i32, none, 3, .v 1, .v 2, 9⟩) 124 0 &&
     gives (two 77 0) (.mov ⟨.n32, none, .v 3, .v 1⟩) 77 0) = true := by
  decide +kernel

/-- R237 to R244: one rounding, FP32 1.0 = 0x3F800000; NaN operands, -0, infinities; R243 flags of unordered pairs. -/
theorem test_float_results :
    (gives (two 0x3F800000 0x33800000) (.fadd ⟨.f32, .rne, none, 3, .v 1, .v 2⟩) 0x3F800000 flNX &&
     gives (two 0x3F800000 0x33800000) (.fadd ⟨.f32, .ru, none, 3, .v 1, .v 2⟩) 0x3F800001 flNX &&
     gives (two 0x3F800000 0x3F800000) (.fsub ⟨.f32, .rd, none, 3, .v 1, .v 2⟩) 0x80000000 0 &&
     gives (two 0x7F800000 0) (.fmul ⟨.f32, .rne, none, 3, .v 1, .v 2⟩) 0x7FC00000 flNV &&
     gives (three 0x3F800001 0x3F800001 0xBF800002) (.ffma ⟨.f32, none, 3, .v 1, .v 2, 9⟩) 0x28800000 0 &&
     gives (two 0x7FC00000 0x40000000) (.fmin ⟨.f32, none, 3, .v 1, .v 2⟩) 0x40000000 0 &&
     gives (two 0x80000000 0) (.fmax ⟨.f32, none, 3, .v 1, .v 2⟩) 0 0 &&
     gives (two 0x80003C00 0) (.fabs ⟨.f16x2, none, 3, .v 1⟩) 0x00003C00 0 &&
     gives (two 0x3F800000 0) (.fneg ⟨.f32, none, 3, .v 1⟩) 0xBF800000 0 &&
     gives (two 0x3F800000 0x80000000) (.fcps ⟨.f32, none, 3, .v 1, .v 2⟩) 0xBF800000 0 &&
     gives (two 0x3F800000 0) (.fdiv ⟨.f32, .rne, none, 3, .v 1, .v 2⟩) 0x7F800000 flDZ &&
     gives (two 0x3F800000 3) (.fscl ⟨.f32, .rne, none, 3, .v 1, .v 2⟩) 0x41000000 0 &&
     gives (two 0x41000000 0) (.fxtr ⟨.f32, none, 3, .v 1⟩) 3 0 &&
     gives (three 0x3F803F80 0x40004000 0x3F800000) (.fdot2 ⟨.bf16x2, none, 3, .v 1, .v 2, 9⟩) 0x40A00000 0 &&
     gives (two 0x40000000 0) (.fsat ⟨.f32, none, 3, .v 1⟩) 0x3F800000 0 &&
     gives (two 0x3FC00000 0) (.frnd ⟨.f32, .rz, none, 3, .v 1⟩) 0x3F800000 flNX) = true := by
  decide +kernel

/-- R245 to R249, with the worked examples of R246 and of chapter 11's program; R250: values of the table. -/
theorem test_conversion_results :
    (gives (three 0x3F808000 0 0x80000000) (.cvt ⟨.bf16, .f32, .sr (.v 9), none, 3, .v 1⟩) 0x3F81 flNX &&
     gives (three 0x3F808000 0 0x7FFFFFFF) (.cvt ⟨.bf16, .f32, .sr (.v 9), none, 3, .v 1⟩) 0x3F80 flNX &&
     gives (two 0xCF000001 0) (.cvt ⟨.i32, .f32, .rnd .rne, none, 3, .v 1⟩) 0x80000000 flCVS &&
     gives (two 0x7FC00000 0) (.cvt ⟨.i32, .f32, .rnd .rne, none, 3, .v 1⟩) 0 flNV &&
     gives (holding [vr 1 0x3F880000, vr 2 0x43FA0000, vr 3 0xAABBCCDD]) (.pack ⟨.e4m3, 1, .rne, none, 3, .v 1, .v 2⟩)
       0x7E38CCDD (flCVS ||| flNX) &&
     word (two 0x7E38CCDD 0) (.unpk ⟨.e4m3, 1, none, 8, .v 1⟩) (vKey 8 5) == 0x3F800000 &&
     word (two 0x7E38CCDD 0) (.unpk ⟨.e4m3, 1, none, 8, .v 1⟩) (vKey 9 5) == 0x43E00000 &&
     gives (two 0 0) (.rcp ⟨.f32, none, 3, .v 1⟩) 0x7F800000 flDZ && gives (two 0x80000000 0) (.sqrt ⟨.f32, none, 3, .v 1⟩) 0x80000000 0 &&
     gives (two 0xBF800000 0) (.loge ⟨.f32, none, 3, .v 1⟩) 0x7FC00000 flNV && gives (two 0xFF800000 0) (.exp2 ⟨.f32, none, 3, .v 1⟩) 0 0) = true := by
  decide +kernel

/-- R251: the rows of the table: -infinity, +infinity, +0 and -0 of each function. -/
theorem test_function_table :
    (let u : FUn := ⟨.f32, none, 3, .v 1⟩
     ([
      (Instr.exp2 u, [(0, 0), (0x7F800000, 0), (0x3F800000, 0), (0x3F800000, 0)]),
      (Instr.log2 u, [(0x7FC00000, flNV), (0x7F800000, 0), (0xFF800000, flDZ), (0xFF800000, flDZ)]),
      (Instr.rcp u, [(0x80000000, 0), (0, 0), (0x7F800000, flDZ), (0xFF800000, flDZ)]),
      (Instr.rsq u, [(0x7FC00000, flNV), (0, 0), (0x7F800000, flDZ), (0xFF800000, flDZ)]),
      (Instr.sqrt u, [(0x7FC00000, flNV), (0x7F800000, 0), (0, 0), (0x80000000, 0)]),
      (Instr.sinp u, [(0x7FC00000, flNV), (0x7FC00000, flNV), (0, 0), (0x80000000, 0)]),
      (Instr.cosp u, [(0x7FC00000, flNV), (0x7FC00000, flNV), (0x3F800000, 0), (0x3F800000, 0)]),
      (Instr.tanh u, [(0xBF800000, 0), (0x3F800000, 0), (0, 0), (0x80000000, 0)]),
      (Instr.sigm u, [(0, 0), (0x3F800000, 0), (0x3F000000, 0), (0x3F000000, 0)]),
      (Instr.erf u, [(0xBF800000, 0), (0x3F800000, 0), (0, 0), (0x80000000, 0)]),
      (Instr.exp u, [(0, 0), (0x7F800000, 0), (0x3F800000, 0), (0x3F800000, 0)]),
      (Instr.loge u, [(0x7FC00000, flNV), (0x7F800000, 0), (0xFF800000, flDZ), (0xFF800000, flDZ)]),
      (Instr.gelu u, [(0x80000000, 0), (0x7F800000, 0), (0, 0), (0x80000000, 0)]),
      (Instr.silu u, [(0x80000000, 0), (0x7F800000, 0), (0, 0), (0x80000000, 0)])] : List (Instr × List (Word × Word))).all (fun p =>
       ([0xFF800000, 0x7F800000, 0, 0x80000000].zip p.2).all (fun q => gives (two q.1 0) p.1 q.2.1 q.2.2))) = true := by
  decide +kernel

/-- R251, R252: the other cases, and values that are representable. -/
theorem test_function_values :
    (let u : FUn := ⟨.f32, none, 3, .v 1⟩
     gives (two 0xBF800000 0) (.log2 u) 0x7FC00000 flNV && gives (two 0x3F800000 0) (.log2 u) 0 0 &&
     gives (two 0x40000000 0) (.sinp u) 0 0 && gives (two 0xBF800000 0) (.sinp u) 0x80000000 0 && gives (two 0x3F000000 0) (.cosp u) 0 0 &&
     gives (two 0x40400000 0) (.exp2 u) 0x41000000 0 && gives (two 0x41800000 0) (.log2 u) 0x40800000 0 && gives (two 0x41100000 0) (.sqrt u) 0x40400000 0 &&
     gives (two 0x40800000 0) (.rsq u) 0x3F000000 0 && gives (two 0x7F800001 0) (.erf u) 0x7FC00000 flNV &&
     gives (two 0x3F003F00 0) (.exp2 ⟨.bf16x2, none, 3, .v 1⟩) 0x3FB53FB5 flNX && gives (two 0x44000000 0) (.exp2 u) 0x7F800000 (flOF ||| flNX)) = true := by
  decide +kernel

/-- R215 to R221: one bit of DST, a select, an exchange, a vote, a reduction in the order of R200, a scan, a match. -/
theorem test_lane_results :
    (word (two 1 2) (.cmp ⟨.lt, .i32, none, .v 3, 3, .v 1, .v 2⟩) (vKey 3 5) == 8 &&
     word (two 0x7FC00000 0) (.fcmp ⟨.ne, .f32, none, .v 3, 0, .v 1, .v 2⟩) (vKey 3 5) == 1 &&
     word (holding [vr 20 1, vr 1 7, vr 2 9]) (.sel ⟨.word, 20, 0, false, 3, .v 1, .v 2⟩) (vKey 3 5) == 7 &&
     word (holding [vr 3 8]) (.bitop ⟨.flip, none, .v 3, 3⟩) (vKey 3 5) == 0 &&
     word (holding [(List.range 32).map (fun l => (vKey 1 l, BitVec.ofNat 32 l))])
       (.shfl ⟨.down, false, none, 3, .v 1, .lit 2⟩) (vKey 3 5) == 7 &&
     word (holding [(List.range 32).map (fun l => (vKey 1 l, BitVec.ofNat 32 (l % 2)))]) (.vote ⟨.ballot, 0, none, 5, .v 1⟩)
       (sKey 5) == 0xAAAAAAAA &&
     word (holding [(List.range 32).map (fun l => (vKey 1 l, BitVec.ofNat 32 l))]) (.wred ⟨.add, .n32, none, 5, .v 1⟩)
       (sKey 5) == 496 &&
     word (holding [(List.range 32).map (fun l => (vKey 1 l, BitVec.ofNat 32 l))]) (.wscan ⟨.add, .n32, true, none, 3, .v 1⟩)
       (vKey 3 5) == 10 &&
     word (holding [(List.range 32).map (fun l => (vKey 1 l, BitVec.ofNat 32 (l % 2)))]) (.matchLanes ⟨false, none, 3, .v 1⟩)
       (vKey 3 5) == 0xAAAAAAAA) = true := by
  decide +kernel

/-- R172, R173: both halves read before either writes. -/
theorem test_pair_results :
    (let i := Instr.halfAdd ⟨1, 1, 2, hw 0x00 8 3 0⟩
     word (holding [vr 1 10, vr 2 5, vr 3 77]) i (vKey 1 5) == 15 && word (holding [vr 1 10, vr 2 5, vr 3 77]) i (vKey 8 5) == 77 &&
     word (holding [vr 1 10]) (.halfAddi ⟨8, 1, 0xFF, hw 0x1D 0 0 0⟩) (vKey 8 5) == 9 &&
     word (holding [vr 1 0x80000000]) (.halfSari ⟨8, 1, 31, hw 0x1D 0 0 0⟩) (vKey 8 5) == 0xFFFFFFFF &&
     word (holding [vr 1 0xFFFFFFFF]) (.halfCvtf ⟨8, 1, 0, hw 0x1D 0 0 0⟩) (vKey 8 5) == 0xBF800000 &&
     (warpAfter labWarp (.halfAdd ⟨8, 1, 2, hw 0x10 8 3 4⟩)).cause == 0x02) = true := by
  decide +kernel

/-- R152, R154: the worked signature of R152; R299: the check of 0 is 0xED. -/
theorem test_integrity_results :
    (((warpAfter labWarp (.add ⟨.i32, g12, .v 3, .v 1, .v 2⟩)).slot? false).map (·.sig) == some 0x0060CC11 &&
     word labWarp (.ckgen ⟨none, 3, .s 1⟩) (vKey 3 5) == 0xED &&
     word (two 0 0x12) (.cktst ⟨none, 3, .v 1, .v 2⟩) (vKey 3 5) == 1 &&
     word labWarp (.movsr ⟨17, .s 9⟩) (sKey 9) == 0xFFFFFFFF && word labWarp (.movsr ⟨0, .v 3⟩) (vKey 3 7) == 7) = true := by
  decide +kernel

/-! ### Hypotheses of the statements about control, registers and exceptions, with what follows from them -/

/-- The outcome is this next state. -/
def nexts (o : Host.Outcome State Fault Refusal) (t : State) : Bool :=
  match o with
  | .next u => decide (u = t)
  | _ => false

/-- The instruction takes an exception, no matrix operation being in flight. -/
def trapsB (s : State) (w : Warp) (n : Bool) (i : Instr) (cause sub : Nat) (tval : Word) : Bool :=
  !mxInFlight s w.uid && nexts (exec i s) (enterTrap s w.uid n i.size cause sub tval)

/-- It issues from the warp and takes the exception. -/
def trapB (w : Warp) (i : Instr) (cause sub : Nat) (tval : Word) : Bool :=
  goes w i && trapsB (lab w) w false i cause sub tval

/-- It issues from the warp and leaves the state given by the statement. -/
def endB (w : Warp) (i : Instr) (t : State) : Bool := goes w i && nexts (exec i (lab w)) t

def slotB (w : Warp) (i : Instr) (f : Slot → Slot) (ws : List (Nat × Word)) : Bool :=
  endB w i (wentSlot (lab w) w false labSlot i f ws)

def warpB (w : Warp) (i : Instr) (f : Warp → Warp) (ws : List (Nat × Word)) : Bool :=
  endB w i (went (lab w) w false labSlot i f ws)

def jumpB (w : Warp) (i : Instr) (t : Int) (ws : List (Nat × Word)) : Bool :=
  endB w i (branched (lab w) w false labSlot i t ws)

/-- GivesLanes and Writes: a flag that TRAPEN enables, and one that it does not. -/
theorem witness_enabled_flag :
    (let i := Instr.div ⟨.i32, none, .v 3, .v 1, .v 2⟩
     let r := fun w => (finds (lab w) w false labSlot i).results none (.v 3) (fun _ => ⟨[0x7FFFFFFF], flIDZ⟩)
     let on := { two 7 0 with trapen := flIDZ }
     goes (two 7 0) i && nexts (exec i (lab (two 7 0))) (issued (lab (two 7 0)) (two 7 0) false labSlot i (r (two 7 0)).1 flIDZ) &&
       goes on i && !mxInFlight (lab on) 4 &&
       nexts (exec i (lab on)) (flagTrapped (lab on) on false i (r on).1 flIDZ)) = true := by
  decide +kernel

/-- R223: each register that may be written, at the largest value it takes and the first it does not. -/
theorem witness_setsr :
    (let set (k : BitVec 5) (v : Word) : Instr := .setsr ⟨k, .lit v⟩
     let gives (w : Warp) (k : BitVec 5) (v : Word) (f : Warp → Warp) : Bool :=
       warpB w (set k v) (fun u => heldFour (lab w) (f u)) []
     let no (w : Warp) (k : BitVec 5) (v : Word) : Bool := trapB w (set k v) 1 1 (firstParcels (set k v)).1
     gives labWarp 18 511 (fun u => { u with flags := 511 }) && no labWarp 18 512 &&
     gives labWarp 19 2 (fun u => { u with lanectl := 2 }) && no labWarp 19 3 &&
     gives labWarp 20 511 (fun u => { u with trapen := 511 }) && no labWarp 20 512 &&
     gives labWarp 24 0xFFFFFFFF (fun u => { u with cnt := 0xFFFFFFFF }) && gives labWarp 29 7 (fun u => { u with passes := 7 }) &&
     gives (trapped labWarp) 30 65535 (fun u => { u with cause := 65535 }) && goes (trapped labWarp) (set 30 65536) &&
     no labWarp 30 0 && gives (trapped labWarp) 31 9 (fun u => { u with tval := 9 }) && no labWarp 31 0 && no labWarp 1 0) = true := by
  decide +kernel

/-- R154, R176: SIGCHK with the right value and mask, with another value, with lanes gone; CLKLO latches CLKHI. -/
theorem witness_sigchk :
    (slotB labWarp (.sigchk 0) (fun y => { y with sig := 0 }) [] &&
     endB labWarp (.sigchk 1) (contain (lab labWarp) labWarp 4 0 0x08 0 0) &&
     (let x := { labSlot with mask := 1 }
      let w := { labWarp with slot0 := some x }
      issuesB (.sigchk 0) (lab w) w false x && nexts (exec (.sigchk 0) (lab w)) (contain (lab w) w 5 0 0x08 0 0)) &&
     goes labWarp (.movsr ⟨21, .v 3⟩) &&
     (let c := finds (lab labWarp) labWarp false labSlot (.movsr ⟨28, .v 3⟩)
      findTeam? c.pre c.preW.team == some programTeam && findGrid? c.pre 1 == some programGrid && goes labWarp (.movsr ⟨28, .v 3⟩) &&
        [(2, 0), (5, 1), (8, 1), (9, 0), (10, 0), (28, 0xDFF80)].all (fun p => specialReg c p.1 7 == p.2))) = true := by
  decide +kernel

/-- R224, R225, R228, R229: guards all true, all false and mixed; targets at the ends of the code and beyond them. -/
theorem witness_branches :
    (let g : Guard := some ⟨12, 0, false⟩
     let mixed := holding [[(vKey 12 3, 1)]]
     jumpB labWarp (.bra ⟨none, .short 4⟩) 4 [] && trapB labWarp (.bra ⟨none, .short 0x3FFFF⟩) 1 1 0xFFFFFFFF &&
     jumpB labWarp (.bra ⟨none, .long 0x3FFFFFFE⟩) 0x3FFFFFFE [] && trapB labWarp (.bra ⟨none, .long 0x3FFFFFFF⟩) 1 1 0x3FFFFFFF &&
     trapB (holding [sr 5 0]) (.loop ⟨5, .short 0x3FFFF⟩) 1 1 0xFFFFFFFF && slotB labWarp (.bra ⟨g, .short 4⟩) id [] &&
     trapB mixed (.bra ⟨g, .short 4⟩) 1 3 (firstParcels (.bra ⟨g, .short 4⟩)).1 &&
     jumpB labWarp (.call ⟨63, .long 0x3FFFFFFE⟩) 0x3FFFFFFE [(sKey 63, 3)] &&
     trapB labWarp (.call ⟨63, .long 0x3FFFFFFF⟩) 1 1 0x3FFFFFFF && trapB labWarp (.call ⟨63, .short 0x3FFFF⟩) 1 1 0xFFFFFFFF &&
     jumpB (holding [sr 5 0x3FFFFFFE]) (.ret 5) 0x3FFFFFFE [] && trapB (holding [sr 5 0x3FFFFFFF]) (.ret 5) 1 1 0x3FFFFFFF &&
     jumpB (holding [sr 5 0]) (.jmpi 5) 0 [] && slotB (holding [sr 5 1]) (.loop ⟨5, .short 0⟩) id [(sKey 5, 0)] &&
     jumpB (holding [sr 5 0]) (.loop ⟨5, .short 8⟩) 8 [(sKey 5, 0xFFFFFFFF)] && slotB labWarp .nop id []) = true := by
  decide +kernel

/-- A guard true in lanes 0 to 15. -/
def half12 : Warp := holding [(List.range 16).map (fun l => (vKey 12 l, 1))]

/-- R226: no lane taken, every lane, a split with the other slot free and with it busy, a full stack. -/
theorem witness_brc :
    (let b : Instr := .brc ⟨some ⟨12, 0, false⟩, 20, 9⟩
     let busy := { half12 with slot1 := some { labSlot with pc := 40 } }
     slotB labWarp b id [] && jumpB (holding [vr 12 1]) b 20 [] && goes half12 b && half12.slot? true == none &&
     (warpAfter half12 b).depth == 1 && ((warpAfter half12 b).slot? true).map (·.pc) == some 20 &&
     ((warpAfter half12 b).slot? false).map (·.mask) == some 0xFFFF0000 && goes busy b &&
     (warpAfter busy b).depth == 2 && ((warpAfter busy b).slot? true).map (·.pc) == some 40 &&
     trapB half12 (.brc ⟨some ⟨12, 0, false⟩, 0xFFFFFFFF, 9⟩) 1 1 0xFFFFFFFF &&
     (let x := { labSlot with pc := 0x3FFFFFFE }
      let w := { half12 with slot0 := some x }
      let c : Instr := .brc ⟨some ⟨12, 0, false⟩, 0xFFFFFFFF, 9⟩
      issuesB c (lab w) w false x && trapsB (lab w) w false c 1 1 0x40000007) &&
     trapB { half12 with depth := 8 } b 0x10 0 0 && trapB { busy with depth := 7 } b 0x10 0 0) = true := by
  decide +kernel

/-- The state and warp after a BRC of lanes 0 to 15 whose join is at `j`, slot `n` then at its join. -/
def split (j : Nat) (n : Bool) (own : Bool) : State × Warp × Slot :=
  let b : Instr := .brc ⟨some ⟨12, 0, false⟩, 20, BitVec.ofNat 18 j⟩
  let w0 := if own then { half12 with slot1 := some { labSlot with pc := 40 } } else half12
  match exec b (lab w0) with
  | .next t =>
    match findWarp? t 4 with
    | some v =>
      let x := { (v.slot? n).getD labSlot with pc := BitVec.ofNat 32 j }
      let w := v.setSlot n (some x)
      ({ setWarp t w with cur := some (4, n) }, w, x)
    | none => (t, labWarp, labSlot)
  | _ => (base, labWarp, labSlot)

/-- R227: JOIN of no join, of the shared record with the partner away, of a record that is met last, of a KIND 1
entry, and of an entry that does not fit. -/
theorem witness_join :
    (let st := split 9 false false
     let own := split 9 false true
     let last := { st.2.1 with slot1 := none }
     let none_ := { labWarp with slot0 := some { labSlot with join := some 0 } }
     let odd := { st.2.1 with slot0 := some { st.2.2 with pc := 10, join := some 10 } }
     slotB labWarp .join id [] &&
     issuesB .join (lab none_) none_ false { labSlot with join := some 0 } && (topEntry? (lab none_) none_ false).isNone &&
     nexts (exec .join (lab none_)) (enterTrap (lab none_) 4 false 2 1 1 0xFFF80) &&
     issuesB .join st.1 st.2.1 false st.2.2 && st.2.2.join == some st.2.2.pc &&
     (topEntry? st.1 st.2.1 false).map (fun p => (p.1, p.2.kind, p.2.own, p.2.jpc)) == some (0, 0, 2, 9) &&
     issuesB .join (setWarp st.1 last) last false st.2.2 &&
     (match exec .join (setWarp st.1 last) with
      | .next t => (findWarp? t 4).elim false (fun v => v.depth == 0 && (v.slot? false).map (·.join) == some none)
      | _ => false) &&
     issuesB .join own.1 own.2.1 false own.2.2 &&
     (topEntry? own.1 own.2.1 false).map (fun p => (p.1, p.2.kind, p.2.jpc)) == some (1, 1, 9) &&
     ownedEntries own.1 own.2.1 false 1 == [0] && (readEntry own.1 own.2.1 0).jpc == 9 &&
     (match exec .join own.1 with
      | .next t => (findWarp? t 4).elim false (fun v => v.depth == 1 && (v.slot? false).map (·.pc) == some 20)
      | _ => false) &&
     issuesB .join (setWarp st.1 odd) odd false { st.2.2 with pc := 10, join := some 10 }) = true := by
  decide +kernel

/-- R15, R230: EXIT of some lanes, of all with the other slot live, of all with a KIND 1 entry on top, of the last warp. -/
theorem witness_exit :
    (let e : Instr := .exit (some ⟨12, 0, false⟩)
     let both := { holding [vr 12 1] with slot1 := some { labSlot with pc := 40 } }
     let own := split 9 false true
     goes half12 e && ((warpAfter half12 e).slot? false).map (·.mask) == some 0xFFFF0000 &&
     goes both e && (topEntry? (lab both) both false).isNone && (both.slot? true).isSome &&
     (warpAfter both e).slot0 == none && (warpAfter both e).slot1.isSome &&
     issuesB (.exit none) own.1 own.2.1 false own.2.2 && own.2.2.mask == 0xFFFF0000 &&
     (topEntry? own.1 own.2.1 false).map (fun p => p.2.kind) == some 1 &&
     (match exec (.exit none) own.1 with
      | .next t => (findWarp? t 4).elim false (fun v => (v.slot? false).map (·.pc) == some 20 && v.depth == 1)
      | _ => false) &&
     goes labWarp (.exit none) && labWarp.depth == 0 && labWarp.slot? true == none &&
     labWarp.ctrs == ⟨0, 0, 0, 0, 0, 0⟩ && labWarp.ploughError == none &&
     ([HoldKind.drnt, .redf, .nbfn].all (fun h => holdDone (lab labWarp) 4 (h, labWarp.seq))) &&
     (match exec (.exit none) (lab labWarp) with
      | .next t => t.teams.isEmpty && t.warps.isEmpty
      | _ => false)) = true := by
  decide +kernel

/-- The state of `split 9 false false`, its entry of KIND `k` holding `lanes`, the other slot live or not. -/
def stack (k : Nat) (lanes : Word) (other : Bool) : State × Warp × Slot :=
  let st := split 9 false false
  let w := if other then st.2.1 else { st.2.1 with slot1 := none }
  (writeEntry (setWarp st.1 w) w 0 { readEntry st.1 w 0 with kind := k, lanes := lanes }, w, st.2.2)

/-- The entry on top of that stack. -/
def onTop (k : Nat) (lanes : Word) (other : Bool) : DEntry := readEntry (stack k lanes other).1 (stack k lanes other).2.1 0

/-- R15: every case of what a slot without lanes takes up. -/
theorem witness_after_exit :
    AfterExit false (lab labWarp) labWarp (.free (lab labWarp) labWarp) ∧
    AfterExit false (stack 3 0 true).1 (stack 3 0 true).2.1 (.bad (stack 3 0 true).2.1.stackBase) ∧
    AfterExit false (stack 1 7 true).1 (stack 1 7 true).2.1
      (.take (retireEntry (stack 1 7 true).1 (stack 1 7 true).2.1 0).1 (retireEntry (stack 1 7 true).1 (stack 1 7 true).2.1 0).2
        (onTop 1 7 true).pc 7 (fieldJoin 9) 0x5A5A0001) ∧
    AfterExit false (stack 0 0 true).1 (stack 0 0 true).2.1 (.free (stack 0 0 true).1 (stack 0 0 true).2.1) ∧
    AfterExit false (stack 0 0 false).1 (stack 0 0 false).2.1 (.free (retireEntry (stack 0 0 false).1 (stack 0 0 false).2.1 0).1
      (retireEntry (stack 0 0 false).1 (stack 0 0 false).2.1 0).2) ∧
    AfterExit false (stack 0 7 false).1 (stack 0 7 false).2.1
      (.take (retireEntry (stack 0 7 false).1 (stack 0 7 false).2.1 0).1 (retireEntry (stack 0 7 false).1 (stack 0 7 false).2.1 0).2
        11 7 (fieldJoin (onTop 0 7 false).pc) 0x5A5A0002) :=
  ⟨.empty (by decide +kernel), .unknown (i := 0) (e := onTop 3 0 true) (by decide +kernel) (by decide +kernel),
   .path (i := 0) (e := onTop 1 7 true) (by decide +kernel) (by decide +kernel),
   .parked (i := 0) (e := onTop 0 0 true) (by decide +kernel) (by decide +kernel) (by decide +kernel) (by decide +kernel),
   .gone (i := 0) (e := onTop 0 0 false) (by decide +kernel) (by decide +kernel) (by decide +kernel) (by decide +kernel)
     (.empty (by decide +kernel)),
   .merged (i := 0) (e := onTop 0 7 false) (by decide +kernel) (by decide +kernel) (by decide +kernel) (by decide +kernel)⟩

/-- R15, R230: what EXIT then does in each of those cases. -/
theorem witness_exit_takes_up :
    (let slots (k : Nat) (lanes : Word) (other : Bool) : Option (Nat × Option (Nat × Word × Option Word)) :=
       match exec (.exit none) (stack k lanes other).1 with
       | .next t => (findWarp? t 4).map (fun v => (v.depth, (v.slot? false).map (fun y => (y.pc.toNat, y.mask, y.join))))
       | _ => none
     [(3, 0, true), (1, 7, true), (0, 0, true), (0, 0, false), (0, 7, false)].all (fun p =>
       issuesB (.exit none) (stack p.1 p.2.1 p.2.2).1 (stack p.1 p.2.1 p.2.2).2.1 false (stack p.1 p.2.1 p.2.2).2.2 &&
         (stack p.1 p.2.1 p.2.2).1.store.wf) &&
     trapsB (stack 3 0 true).1 (stack 3 0 true).2.1 false (.exit none) 1 1 0xFFF80 &&
     slots 1 7 true == some (0, some ((onTop 1 7 true).pc, 7, some 9)) && slots 0 0 true == some (1, none) &&
     slots 0 0 false == none && slots 0 7 false == some (0, some (11, 7, none))) = true := by
  decide +kernel

/-- R231, R233: SLEEP of 0 cycles acts as of 1; YIELD with no other slot ready. -/
theorem witness_sleep_yield :
    (slotB labWarp (.sleep (.lit 0)) (fun y => { y with block := .sleep 1002 }) [] &&
     slotB labWarp (.sleep (.lit 100)) (fun y => { y with block := .sleep 1101 }) [] && goes labWarp .yield) = true := by
  decide +kernel

/-- R27: what a window allows: at most eight entries, each naming a word once. -/
theorem witness_window : findWarp? (lab (two 1 2)) 4 = some (two 1 2) ∧ (two 1 2).slot? false = some labSlot ∧
    (lab (two 1 2)).store.wf = true ∧ (two 1 2).window.length ≤ 8 ∧ WindowOnce ((two 1 2).window) ∧
    WindowOnce (sr 3 7 :: (two 1 2).window) := by
  refine ⟨by decide +kernel, by decide +kernel, by decide +kernel, by decide +kernel, ?_, ?_⟩ <;> unfold WindowOnce <;>
    decide +kernel

theorem witness_rsync : Issues .rsync (lab (two 1 2)) (two 1 2) false labSlot ∧
    Issues (.wait ⟨63, 0, 63, 63, 63, 63⟩) (lab (two 1 2)) (two 1 2) false labSlot :=
  ⟨issues_of (by decide +kernel), issues_of (by decide +kernel)⟩

/-- R350: an exception of a warp outside trap mode saves and enters, in trap mode it halts the warp. -/
theorem witness_exception :
    (findWarp? (lab (two 1 2)) 4 == some (two 1 2) && (two 1 2).trap == none && (lab (two 1 2)).store.wf &&
     (findWarp? (enterTrap (lab (two 1 2)) 4 false 2 0x0B 0 5) 4).elim false (fun v => v.cause == 0x0B && v.tval == 5 &&
       v.window == [] && (v.slot? false).map (·.pc) == some 0 && v.trap.map (·.slot0) == some (some labSlot)) &&
     findWarp? (lab (trapped labWarp)) 4 == some (trapped labWarp) && (trapped labWarp).trap.isSome &&
     (findWarp? (enterTrap (lab (trapped labWarp)) 4 false 2 0x0B 0 5) 4).elim false (fun v => v.stop == .halted 100)) = true := by
  decide +kernel

/-- R54: the save of s60 to s63 corrects a single error in s61, and contains the gang for a double one in s62; an instruction
whose window pushes a word of s9 out writes that word anew. -/
theorem witness_exception_upsets :
    (let w := two 1 2
     let key (j : Nat) : Nat := regBank (lab w) w + sKey j
     let s (j : Nat) (two : Bool) : State := { lab w with upsets := [(key j, two)] }
     let t (j : Nat) (two : Bool) : State := enterTrap (s j two) 4 false 2 0x0B 0 5
     let full := { labWarp with window := List.replicate 7 [] ++ [sr 9 1] }
     let u := issued { lab full with upsets := [(key 9, true)] } full false labSlot .nop [] 0
     tsorted (flushWindow (s 61 false) w).upsets && tget? (flushWindow (s 61 false) w).upsets (key 61) == some false &&
     (t 61 false).upsets == [] && ((findWarp? (t 61 false) 4).map (·.trap.isSome)) == some true &&
     tget? (flushWindow (s 62 true) w).upsets (key 62) == some true && (findTeam? (t 62 true) 2).isNone &&
     u.upsets == [] && u.store.word (key 9) == good 1) = true := by
  decide +kernel

theorem witness_trap_bkpt_illegal :
    (trapB (holding [sr 1 7]) (.trap (.s 1)) 0x0B 0 7 && trapB labWarp (.bkpt (.lit 0x12345)) 0x0C 0 0x2345 &&
     trapB labWarp (.illegalInstructionWord ⟨0x7F000000, []⟩) 0x02 0 0x7F000000 &&
     trapB labWarp (.illegalInstructionWord ⟨0xC0000000, []⟩) 0x01 1 0xC0000000) = true := by
  decide +kernel

/-- R301: RETT and RETT.skip in trap mode. -/
theorem witness_rett :
    (goes (trapped labWarp) (.rett false) && goes (trapped labWarp) (.rett true) && (trapped labWarp).trap.isSome &&
     (lab (trapped labWarp)).store.wf &&
     ((warpAfter (trapped labWarp) (.rett false)).slot? false).map (·.pc) == some 10 &&
     ((warpAfter (trapped labWarp) (.rett true)).slot? false).map (·.pc) == some 12 &&
     word (trapped labWarp) (.rett true) (sKey 62) == 62) = true := by
  decide +kernel

theorem witness_return : WindowOnce labWarp.window := by unfold WindowOnce; decide

/-- R163: the checks in their order: a register beyond `.regs`, a malformed pair, a role, a privilege. -/
theorem witness_checks :
    (let few := { labWarp with regs := 8 }
     let store := { labWarp with role := 0 }
     let i : Instr := .add ⟨.i32, none, .v 8, .v 1, .v 2⟩
     let pair : Instr := .halfAdd ⟨8, 1, 2, hw 0x10 8 3 4⟩
     let free (w : Warp) (i : Instr) : Bool := encode i ≠ [] && !gated (lab w) w i && (w.reports.find? i.takes).isNone &&
       !waitsFirst i (finds (lab w) w false labSlot i)
     free few i && beyondLimits (lab few) few i && trapsB (lab few) few false i 1 1 (firstParcels i).1 &&
     free labWarp pair && beyondLimits (lab labWarp) labWarp pair && trapsB (lab labWarp) labWarp false pair 2 0 0x42080102 &&
     ([(0 : BitVec 2), 1, 2].any (fun r =>
       let w := { store with role := r }
       let i : Instr := .mma ⟨.bf16, 0, none, 11, 13⟩
       free w i && !beyondLimits (lab w) w i && !i.role.admits (roleOf w) && trapsB (lab w) w false i 1 2 (firstParcels i).1)) &&
     free labWarp .halt && !beyondLimits (lab labWarp) labWarp .halt && (Instr.role .halt).admits (roleOf labWarp) &&
     Instr.privileged .halt && !mayPrivileged (lab labWarp) labWarp .halt && !mxInFlight (lab labWarp) 4) = true := by
  decide +kernel

/-- R26, R97, R281: a counter at 63, an acquire, a wait before the checks, a deferred report. -/
theorem witness_counters :
    (let i : Instr := .ld ⟨.wi, .pkg, false, .w4, none, ⟨.s 4, none, .x1, none⟩, .v 8⟩
     let held (w : Warp) (i : Instr) : Bool := encode i ≠ [] && nexts (exec i (lab w)) (holdSlot (lab w) 4 false)
     let full := { labWarp with ctrs := ⟨63, 0, 0, 0, 0, 0⟩ }
     let acq := { labWarp with acquires := [{ id := 50, refSlot := 0, bound := 0, op := none, scope := .pkg, loadsBefore := none }] }
     let busy := { labWarp with ctrs := ⟨1, 0, 0, 0, 0, 0⟩ }
     let rep := { labWarp with reports := [⟨.ld, 0x0A, 1, none⟩] }
     i.ctr == some .ld && held full i && i.access && !acq.acquires.isEmpty && held acq i &&
     waitsFirst (.exit none) (finds (lab busy) busy false labSlot (.exit none)) && held busy (.exit none) &&
     !gated (lab rep) rep i && !waitsFirst i (finds (lab rep) rep false labSlot i) &&
     rep.reports.find? i.takes == some ⟨.ld, 0x0A, 1, none⟩ && !mxInFlight (lab rep) 4 &&
     nexts (exec i (lab rep)) (enterTrap (lab labWarp) 4 false 2 0x0A 0 1)) = true := by
  decide +kernel

/-- R303 to R305: PRGS of more than 256, HALT and the three kinds of TLBI, in trap mode. -/
theorem witness_system :
    (goes labWarp (.prgs (.lit 300)) && (findTeam? (lab labWarp) 2).isSome &&
     ((after? labWarp (.prgs (.lit 300))).bind (fun t => findTeam? t 2)).map (·.progress) == some 256 &&
     goes (trapped labWarp) .halt && (warpAfter (trapped labWarp) .halt).stop == .halted 100 &&
     [Instr.tlbi (.page 2), .tlbi (.ctx 2), .tlbi .all].all (fun i => goes (trapped labWarp) i &&
       ((after? (trapped labWarp) i).map (fun t => t.invals.length)) == some 1)) = true := by
  decide +kernel

/-- R302: a record of the team's store, a misaligned one, a full queue; the queue has room for its first record. -/
theorem witness_lnch :
    (let l := fun a => holding [sr 2 a]
     let i : Instr := .lnch ⟨1, 2, .lit 0⟩
     let q : Queue := { Queue.dflt with en := true, logn := 4 }
     let room := fun w => { lab w with partitions := [(0, { programPartition with queues := [(0, q)] })] }
     let f : Queue := { q with tail := BitVec.ofNat 32 (2 ^ q.log - 1) }
     let full := fun w => { lab w with partitions := [(0, { programPartition with queues := [(0, f)] })] }
     let c := fun w => finds (room w) w false labSlot i
     trapB (l 0xDFF81) i 0x04 0 0xDFF81 && issuesB i (room (l 0xDFF80)) (l 0xDFF80) false labSlot &&
     ((c (l 0xDFF80)).storeWords 0xDFF80 32).elim false (fun ws => ws.all (fun p => p.2.isGood)) &&
     !queueFull (room (l 0xDFF80)) 0 0 &&
     (match exec i (room (l 0xDFF80)) with
      | .next t => t.ops.map (fun o => o.held) == [true]
      | _ => false) &&
     issuesB i (full (l 0xDFF80)) (l 0xDFF80) false labSlot && queueFull (full (l 0xDFF80)) 0 0 &&
     trapsB (full (l 0xDFF80)) (l 0xDFF80) false i 0x11 0 0) = true := by
  decide +kernel

/-! ### Memory and synchronisation: hypotheses of the statements and one effect of each -/

/-- The words of a check that passed hold as tested. -/
def passed (k : Checked) (f : List (Nat × DWord × Nat × Attr) → Bool) : Bool :=
  match k with
  | .ok l => f l
  | .eff _ => false

def banks (k : BankChecked) (f : List BankWord → Bool) : Bool :=
  match k with
  | .ok l => f l
  | .eff _ => false

/-- A next state tested. -/
def then_ (s : State) (i : Instr) (f : State → Bool) : Bool :=
  match exec i s with
  | .next t => f t
  | _ => false

/-- s4 and s5 hold the address 0x200000. -/
def at20 : List (Nat × Word) := sr 4 0x200000

/-- Line 0x4000 (address 0x200000), word 0, in the L1 of core 0. -/
def cached (st : WState) : State := { lab (holding [at20]) with l1s := [(0, { lines := [⟨0x4000, [(0, ⟨st, good 7⟩)]⟩] })] }

def mem (p : Policy) (ord : Bool) (k : Width) : MemOp := ⟨p, .quad, ord, k, none, ⟨.s 4, none, .x1, none⟩, .v 8⟩

/-- R68, R254: an L1 hit of a load, a miss, an acquire; R-SI for `.si`, R-WI for `.wi`, OWN for `.own`. -/
theorem witness_loads :
    ((passed ((finds (cached .si) (holding [at20]) false labSlot (.ld (mem .si false .w4))).checkAddrs 4 0 (fun _ _ => false)
        (laneAddrs (finds (cached .si) (holding [at20]) false labSlot (.ld (mem .si false .w4))) none (fun _ => 0x200000)))
        (fun l => l.length == 32)) &&
     (cached .si).ops.isEmpty && ((getL1 (cached .si) 0).lines.map (·.line)) == [0x4000] &&
     issuesB (.ld (mem .si false .w4)) (cached .si) (holding [at20]) false labSlot &&
     then_ (cached .si) (.ld (mem .si false .w4)) (fun t => t.misses.isEmpty && t.ops.all (fun o => o.words.all (fun y => y.got == some (good 7)))) &&
     then_ (cached .si) (.ld (mem .own false .w4)) (fun t => t.reqs.map (fun r => (r.kind, r.line, r.mask)) == [(.own, 0x4000, 1)]) &&
     then_ (lab (holding [at20])) (.ldck (mem .wi true .w16)) (fun t => t.reqs.map (fun r => (r.kind, r.mask)) == [(.rwi, 15)] &&
       (findWarp? t 4).elim false (fun v => v.acquires.map (fun a => (a.op, a.scope)) == [(some 100, .quad)]))) = true := by
  decide +kernel

/-- R68, R81: a line with an owned word and one that is not there: the load takes both from a fill, which its request names
but for the owned one. -/
theorem witness_mixed_line :
    (let s := cached .ow
     let w := holding [at20]
     let i := Instr.ld (mem .si false .w8)
     let c := finds s w false labSlot i
     issuesB i s w false labSlot &&
     passed (c.checkAddrs 8 0 (fun _ _ => false) (laneAddrs c none (fun _ => 0x200000))) (fun l => l.length == 32 &&
       !globalConflict s 4 (lanesWords l 2 (fun lane j va pa a => OpWord.plain lane j va (tgtOf pa) (demote false .si pa a) a.fal (good 0) (good 0)))) &&
     then_ s i (fun t => t.reqs.map (fun r => (r.kind, r.line, r.mask)) == [(.rsi, 0x4000, 2)] &&
       t.ops.all (fun o => o.words.all (fun y => y.got == none && y.miss.isSome)))) = true := by
  decide +kernel

/-- R68, R89, R96: 32 lanes at one word: the highest writes; a release sends nothing at issue; an owned word. -/
theorem witness_stores :
    (let w := holding [at20, [(vKey 8 31, 0x1F)], vr 8 1, vr 9 0]
     let st := fun p => Instr.st (mem p false .w4)
     let ow := { cached .ow with warps := [w] }
     let c := finds (lab w) w false labSlot (st .wt)
     passed (c.checkAddrs 4 1 (fun _ a => a.ro) (laneAddrs c none (c.gaddr (mem .wt false .w4).addr))) (fun l => l.length == 32 &&
       l.all (fun p => p.2.2.1 % 128 == p.2.1.toNat % 128)) &&
     goes w (st .wt) && goes w (.stnt (mem .wt true .w4)) && goes (trapped w) (.stck (mem .wt false .w4)) &&
     then_ (lab w) (st .wt) (fun t => t.reqs.map (fun r => (r.kind, r.line, r.words)) == [(.wrh, 0x4000, [(0, good 0x1F)])] &&
       t.hbm == (lab w).hbm) &&
     then_ (lab w) (.stnt (mem .wt true .w4)) (fun t => t.reqs.isEmpty && t.ops.map (·.held) == [true]) &&
     then_ (lab (trapped w)) (.stck (mem .wt false .w4)) (fun t => t.reqs.map (fun r => r.words) == [[(0, CWord.ofCheck 0x1F 0)]]) &&
     then_ (lab w) (st .own) (fun t => t.reqs.map (·.kind) == [.own]) &&
     then_ ow (st .own) (fun t => t.reqs.isEmpty && l1Word? t 0 0x4000 0 == some ⟨.ow, good 0x1F⟩)) = true := by
  decide +kernel

/-- R258, R259: a compare-and-swap that acquires, a 64-bit reduction, and a reduction that releases. -/
theorem witness_atomics :
    (let w := { holding [at20, vr 8 1, vr 9 2] with slot0 := some { labSlot with mask := 0x10 } }
     let x := { labSlot with mask := 0x10 }
     let a : AtomOp := ⟨.cas, .pkg, .acq, none, .s 4, none, .v 8, 9⟩
     let r : RedOp := ⟨.addI64, .pkg, .none, none, .s 4, some 8, .v 8⟩
     let c := finds (lab w) w false x (.atom a)
     let d := finds (lab w) w false x (.red r)
     issuesB (.atom a) (lab w) w false x && issuesB (.red r) (lab w) w false x &&
     passed (c.checkAddrs 4 2 atomBad (laneAddrs c none (fun l => c.base a.base l + offset64 a.off)))
       (fun l => !globalConflict (lab w) 4 (c.atomWords .cas a.b (some a.dst) l)) &&
     passed (d.checkAddrs 8 2 redBad (laneAddrs d none (fun l => d.base r.base l + offset64 r.off)))
       (fun l => !globalConflict (lab w) 4 (d.atomWords .addI64 r.b none l)) &&
     then_ (lab w) (.atom a) (fun t => t.reqs.map (fun q => (q.kind, q.lane, q.words, q.expect)) ==
       [(.atomic .cas, 4, [(0, good 1)], [(0, good 2)])]) &&
     then_ (lab w) (.red r) (fun t => t.reqs.map (fun q => (q.kind, q.line, q.words)) ==
       [(.reduce .addI64, 0x4000, [(2, good 1), (3, good 2)])]) &&
     then_ (lab w) (.red { r with ord := .rel }) (fun t => t.reqs.isEmpty && t.ops.map (·.held) == [true])) = true := by
  decide +kernel

/-- The scratchpad word at 0xDFF80 holds 5, and s1 names it. -/
def inPad (l : List (List (Nat × Word))) : Warp := holding (sr 1 0xDFF80 :: l)
def pad (w : Warp) : State := { lab w with store := (lab w).store.setWord (storeKey 0 false 0xDFF80) (good 5) }

/-- R26, R55, R57, R92, R257: lanes four words apart, all lanes at one word. -/
theorem witness_banks :
    (let w := inPad [(List.range 32).map (fun l => (vKey 3 l, BitVec.ofNat 32 (16 * l))), [(vKey 8 31, 0x1F)], vr 8 1]
     let at_ : StoreOp := ⟨.w4, none, 1, some (.v 3), none, .v 8⟩
     let c (i : Instr) := finds (pad w) w false labSlot i
     let free (w : Warp) (l : List BankWord) : Bool := !bankConflict (pad w) w l
     issuesB (.lds at_) (pad w) w false labSlot && issuesB (.sts at_) (pad w) w false labSlot &&
     banks ((c (.lds at_)).checkBank 1 0 (fun _ => true) (((c (.lds at_)).lanes none).map (fun l => (l, (c (.lds at_)).saddr at_ l))))
       (fun l => l.length == 32 && free w l) &&
     banks ((c (.sts at_)).checkBank 1 1 StoreTgt.writable (((c (.sts at_)).lanes none).map (fun l => (l, (c (.sts at_)).saddr at_ l))))
       (fun l => l.length == 32 && free w l) &&
     then_ (pad w) (.lds at_) (fun t => (findWarp? t 4).elim false (fun v => v.passes == 0) &&
       t.ops.map (fun o => (o.words.map (·.got)).head?) == [some (some (good 5))])) = true := by
  decide +kernel

/-- R258: a fold over lanes 0 and 1. -/
theorem witness_atoms :
    (let x := { labSlot with mask := 3 }
     let one := { inPad [[(vKey 2 0, 4), (vKey 2 1, 9)], vr 5 5] with slot0 := some x }
     let a : AtomsOp := ⟨.addI32, none, 1, .plain, .v 2, 5⟩
     let d := finds (pad one) one false x (.atoms a)
     issuesB (.atoms a) (pad one) one false x && (pad one).store.wf &&
     banks (d.checkBank 1 2 (fun t => t.writable && !t.isAlias) ((d.lanes none).map (fun l => (l, d.atomsAddr a l))))
       (fun l => l.map (fun b => ((b.tgt.place (pad one) one).2.2 == storeKey 0 false 0xDFF80)) == [true, true] &&
         !bankConflict (pad one) one l) &&
     then_ (pad one) (.atoms a) (fun t => t.store.word (storeKey 0 false 0xDFF80) == good 18 &&
       t.ops.map (fun o => o.words.map (fun y => (y.lane, y.got, y.flags))) == [[(0, some (good 5), 0), (1, some (good 9), 0)]])) = true := by
  decide +kernel

/-- An STS of two lanes to one word, which has not reached its bank. -/
def sameSts : StoreOp := ⟨.w4, none, 1, none, some 0, .v 8⟩
def twoLanes : Warp := { inPad [[(vKey 8 0, 1), (vKey 8 1, 0x1F)]] with slot0 := some { labSlot with mask := 3 } }
def stsSent : State := { (after? twoLanes (.sts sameSts)).getD base with cur := some (4, false) }
def stsWarp : Warp := (findWarp? stsSent 4).getD labWarp
def stsSlot : Slot := (stsWarp.slot? false).getD labSlot

/-- R257: the word of the highest lane goes to the bank. -/
theorem witness_sts_words :
    then_ (pad twoLanes) (.sts sameSts) (fun t => t.store.word (storeKey 0 false 0xDFF80) == good 5 &&
      t.ops.map (fun o => o.words.map (fun y => (y.lane, y.data))) == [[(1, good 0x1F)]]) = true := by
  decide +kernel

/-- R92: it holds a later access of that word back. -/
theorem witness_bank_conflict :
    (let c := finds stsSent stsWarp false stsSlot (.lds sameSts)
     issuesB (.lds sameSts) stsSent stsWarp false stsSlot &&
     banks (c.checkBank 1 0 (fun _ => true) ((c.lanes none).map (fun l => (l, c.saddr sameSts l)))) (fun l => bankConflict stsSent stsWarp l) &&
     nexts (exec (.lds sameSts) stsSent) (holdSlot stsSent 4 false)) = true := by
  decide +kernel

/-- R265: with no slot that waits, no word is watched. -/
theorem witness_unwatched : Unwatched (pad (inPad [])) [storeKey 0 false 0xDFF80] := by
  intro u hu y hy k hk
  have h : u = inPad [] := by simpa [pad, lab] using hu
  subst h
  have : y = labSlot := by simpa [Warp.allSlots, inPad, holding, labWarp, programWarp, labSlot] using hy
  subst this
  simp [labSlot] at hk

/-- R103, R104, R255, R260, R261, R359. -/
theorem witness_fences :
    (let w := holding [at20]
     let line : LineOp := ⟨none, .s 4, some 0⟩
     let s := cached .ow
     let out : State := { s with partitions := [(0, { programPartition with pranges := [] })] }
     let host := holding [sr 4 0x40]
     let far : State := { lab host with partitions := [(0, { programPartition with pranges := [(0, (0x100000, 1, true))], ctx0 := { programCtx with
       ranges := [(0, { base := 0, limit := 0x10000, pbase := 0x4000000000000, ctl := 0x51 })] } })] }
     let xlat (s : State) (i : Instr) : Xlat := laneXlat s w ((finds s w false labSlot i).base (.s 4) 0)
     issuesB (.pref (mem .si false .w4)) s w false labSlot && issuesB (.invl line) (cached .si) w false labSlot &&
     tsorted s.l1s && (getL1 s 0).lines.all (fun q => tsorted q.words) && issuesB (.wbl line) s w false labSlot &&
     tablePlaces s 0 0 false 0x200000 == [] && ownedWords s 0 0x4000 == [(0, good 7)] &&
     then_ s (.invl line) (fun t => l1Word? t 0 0x4000 0 == some ⟨.ow, good 7⟩) &&
     [Order.acq, .rel, .ar, .none].all (fun o => issuesB (.fence ⟨o, .pkg⟩) s w false labSlot) && issuesB .drnt s w false labSlot &&
     issuesB (.redf .pkg) s w false labSlot &&
     (match xlat s (.wbl line) with
      | .ok pa _ _ => pa == 0x200000
      | _ => false) &&
     (match xlat out (.wbl line) with
      | .freeze u v z => [Instr.pref (mem .si false .w4), .invl line, .wbl line].all (fun i => issuesB i out w false labSlot &&
          nexts (exec i out) (xlatFail out w (.freeze u v z) 0 0 0x200000 0))
      | _ => false) &&
     then_ (cached .si) (.invl line) (fun t => l1Word? t 0 0x4000 0 == none) &&
     then_ s (.wbl line) (fun t => l1Word? t 0 0x4000 0 != some ⟨.ow, good 7⟩ && t.reqs.map (fun r => (r.kind, r.line, r.mask, r.words)) == [(.sur, 0x4000, 1, [(0, good 7)])]) &&
     then_ s (.fence ⟨.acq, .pkg⟩) (fun t => (findWarp? t 4).elim false (fun v => v.acquires.map (·.loadsBefore) == [some 0])) &&
     [(Order.rel, false), (.ar, true), (.none, true)].all (fun p => then_ s (.fence ⟨p.1, .pkg⟩) (fun t =>
       t.ops.map (fun o => (o.kind, o.held)) == [(.fence true p.2 .pkg, true)])) &&
     then_ (lab w) (.pref (mem .wi false .w8)) (fun t => t.reqs.map (fun r => (r.kind, r.mask)) == [(.rwi, 3)] && t.ops.isEmpty) &&
     issuesB (.pref (mem .wi false .w4)) far host false labSlot &&
     then_ far (.pref (mem .wi false .w4)) (fun t => t.reqs.isEmpty && t.misses.map (fun m => (m.kind, 128 * m.line)) == [(.rsi, 0x4000000000000)] &&
       t.replies.map (fun r => 128 * r.line) == [0x4000000000000])) = true := by
  decide +kernel

/-- R253, R257, R265: the lowest lane whose address is no multiple of the access, among lanes where others are. -/
theorem witness_misaligned :
    (let odd := (List.range 32).map (fun l => (vKey 4 l, if l < 7 then (0x200000 : Word) else 0x200002))
     let w := holding [odd, sr 1 0xDFF82, [(vKey 3 2, 1)]]
     let m : MemOp := ⟨.wi, .pkg, false, .w4, none, ⟨.v 4, none, .x1, none⟩, .v 8⟩
     let a : AtomOp := ⟨.addI32, .pkg, .none, none, .v 4, none, .v 8, 9⟩
     let b : StoreOp := ⟨.w4, none, 2, some (.v 3), none, .v 8⟩
     let c := finds (lab w) w false labSlot (.ld m)
     [Instr.ld m, .ldck m, .st m, .stnt m].all (fun i => trapB w i 0x04 0 0x200002) && trapB (trapped w) (.stck m) 0x04 0 0x200002 &&
     misaligned? 4 (laneAddrs c none (c.gaddr m.addr)) == some 0x200002 &&
     trapB w (.atom a) 0x04 0 0x200002 && trapB w (.lds b) 0x04 0 1 && trapB w (.sts b) 0x04 0 1 &&
     trapB w (.wake ⟨1, none⟩) 0x04 0 0xDFF82 && trapB w (.red ⟨.addI32, .pkg, .none, none, .v 4, none, .v 8⟩) 0x04 0 0x200002 &&
     trapB w (.atoms ⟨.addI32, none, 2, .added 3 0, .v 8, 5⟩) 0x04 0 1 && trapB w (.waitw ⟨false, false, .eq, 1, .lit 0 1⟩) 0x04 0 0xDFF86) = true := by
  decide +kernel

/-- R31, R32, R262, R263: barrier 0 of the team has 32 threads; the warp has not arrived, has arrived, has dropped. -/
theorem witness_barriers :
    (let bar (k : BarKind) : Instr := .bar ⟨k, .team, 0⟩
     let arr := markBar labWarp .team 0 false 0xFFFF false
     let gone := markBar labWarp .team 0 false 1 true
     let m := programTeam
     gridOf (lab labWarp) labWarp == some programGrid && findTeam? (lab labWarp) 2 == some m &&
     barOf? (lab labWarp) m .team 0 == some ⟨0, false, 32, 0, 0⟩ && barDeclared programGrid ⟨.sync, .team, 0⟩ &&
     [BarKind.sync, .arrive, .wait, .drop].all (fun k => goes labWarp (bar k)) && (warpBar labWarp .team 0).arrived == 0 &&
     then_ (lab labWarp) (bar .arrive) (fun t => t.ops.map (fun o => (o.kind, o.held)) == [(.bar .arrive .team 0 0xFFFFFFFF, true)]) &&
     ((warpAfter labWarp (bar .sync)).slot? false).map (·.block) == some (.bar .team 0 false) &&
     (warpBar (warpAfter labWarp (bar .drop)) .team 0).dropped == 0xFFFFFFFF &&
     goes arr (bar .wait) && (warpBar arr .team 0).arrived != 0 &&
     ((warpAfter arr (bar .wait)).slot? false).map (·.block) == some (.bar .team 0 false) &&
     (warpAfter labWarp (bar .wait)).acquires.map (·.scope) == [levelScope m .team] &&
     trapB arr (bar .arrive) 0x0F 0 (BitVec.ofNat 32 (barKindCode .arrive * 256)) && trapB gone (bar .sync) 0x0F 0 (BitVec.ofNat 32 (barKindCode .sync * 256)) &&
     (barOf? (lab labWarp) m .team 1).isNone && trapB labWarp (.bar ⟨.sync, .team, 1⟩) 0x0F 0 (BitVec.ofNat 32 (barKindCode .sync * 256 + 1))) = true := by
  decide +kernel

/-- R24, R25, R262: the last arrival and one before it; a chamber filled, drained and in between. -/
theorem witness_barriers_and_chambers :
    (let bars (t : State) : List Bar := (findTeam? t 2).elim [] (·.bars)
     findTeam? (lab labWarp) 2 == some programTeam &&
     [BarLevel.team, .gang, .grid].all (fun l => barOf? (lab labWarp) programTeam l 0 == some ⟨0, false, 32, 0, 0⟩ &&
       (let t := arriveBar (lab labWarp) programTeam l 0 32 4
        (findTeam? t 2).elim false (fun m => barOf? t m l 0 == some ⟨0, true, 28, 0, 0⟩))) &&
     bars (arriveBar (lab labWarp) programTeam .team 0 32 4) == [⟨0, true, 28, 0, 0⟩] &&
     bars (arriveBar (lab labWarp) programTeam .team 0 3 1) == [⟨0, false, 32, 3, 1⟩] &&
     Chamber.arrive ⟨false, false, 0⟩ 2 3 == ⟨false, false, 1⟩ && Chamber.arrive ⟨false, false, 1⟩ 2 3 == ⟨true, false, 0⟩ &&
     Chamber.arrive ⟨true, false, 2⟩ 2 3 == ⟨false, true, 0⟩) = true := by
  decide +kernel

/-- R262, R263: a warp that waits for each level's phase is released by the arrival that completes it. -/
theorem witness_releases_of_barriers :
    ([BarLevel.team, .gang, .grid].all (fun l =>
      let u := { markBar labWarp l 0 false 0xFFFFFFFF false with slot0 := some { labSlot with block := .bar l 0 false } }
      let s := lab u
      let t := arriveBar s programTeam l 0 32 0
      (s.warps.map (·.uid)) == [4] && findTeam? s 2 == some programTeam &&
      (findWarp? t 4).elim false (fun v => (warpBar v l 0).arrived == 0 && (v.slot? false).map (·.block) == some .none &&
        v.acquires.map (fun a => (a.scope, a.refSlot)) == [(levelScope programTeam l, s.slotCount)]))) = true := by
  decide +kernel

/-- R265, R266: the word is 5; a comparison that holds, one with an acquire, one that does not; a wake of another warp's
slot that waits on it. -/
theorem witness_waitw :
    (let w := inPad [sr 2 5]
     let ww (acq : Bool) (k : Cond) : Instr := .waitw ⟨acq, true, k, 1, .lit 5 0⟩
     let wait (k : Cond) : WordWait := ⟨storeKey 0 false 0xDFF80, 0xDFF80, k, true, false, 5, true, 0, 0⟩
     let u (k : Cond) : Warp := { labWarp with uid := 9, ws := 1, slot0 := some { labSlot with block := .waitw (wait k) } }
     let two (k : Cond) : State := { pad w with warps := [w, u k] }
     [(false, Cond.eq), (true, .eq), (false, .gt)].all (fun p => issuesB (ww p.1 p.2) (pad w) w false labSlot) &&
     (match (finds (pad w) w false labSlot (ww false .eq)).checkWord 0xDFF80 0 with
      | .ok k => k == storeKey 0 false 0xDFF80 && ((pad w).store.word k).isGood
      | _ => false) &&
     nexts (exec (ww false .eq) (pad w)) (wentSlot (pad w) w false labSlot (ww false .eq) id []) &&
     then_ (pad w) (ww true .eq) (fun t => (findWarp? t 4).elim false (fun v => v.acquires.length == 1)) &&
     then_ (pad w) (ww false .gt) (fun t => (findWarp? t 4).elim false (fun v => (v.slot? false).elim false (fun y => y.block != .none))) &&
     issuesB (.wake ⟨1, none⟩) (two .eq) w false labSlot && isResident (two .eq) (u .eq) &&
     then_ (two .eq) (.wake ⟨1, none⟩) (fun t => ((findWarp? t 9).bind (·.slot0)).map (·.block) == some .none) &&
     then_ (two .gt) (.wake ⟨1, none⟩) (fun t => ((findWarp? t 9).bind (·.slot0)).map (·.block == .none) == some false)) = true := by
  decide +kernel

/-- R265: a write of 5 to the word, for a slot that holds a watch entry for it. -/
theorem witness_write_watched :
    (let u (v : Word) : Warp := { labWarp with slot0 := some { labSlot with block := .waitw ⟨storeKey 0 false 0xDFF80, 0xDFF80, .eq, false, true, v, true, 0, 0⟩ } }
     let t (v : Word) : State := writeStore (pad (u v)) (storeKey 0 false 0xDFF80) (good 5) none
     (pad (u 5)).store.wf && isResident (pad (u 5)) (u 5) &&
     (findWarp? (t 5) 4).elim false (fun v => (v.slot? false).map (·.block) == some .none && v.acquires.length == 1) &&
     (findWarp? (t 6) 4).elim false (fun v => (v.slot? false).map (·.block) != some .none)) = true := by
  decide +kernel

/-- R24, R25, R267, R268: the chamber that is there and one that is not; RWT for its state and another; the last tile and
one beyond. -/
theorem witness_rings :
    (let r (c : BitVec 3) : Instr := .rarv ⟨⟨0, c⟩, false⟩
     let t (f : Bool) : Instr := .rwt ⟨⟨0, 0⟩, f, .lit 0⟩
     goes labWarp (r 0) && trapB labWarp (r 1) 0x0E 0 32 && goes labWarp (t false) && goes labWarp (t true) &&
     trapB labWarp (.rwt ⟨⟨1, 0⟩, true, .lit 0⟩) 0x0E 0 1 &&
     then_ (lab labWarp) (r 0) (fun u => u.ops.map (fun o => (o.kind, o.held)) == [(.ring 0 0, true)]) &&
     (warpAfter labWarp (t false)).acquires.length == 1 &&
     ((warpAfter labWarp (t true)).slot? false).map (·.block) == some (.ring 0 0 true false) &&
     goes labWarp (.tflag (.lit 0)) && trapB labWarp (.tflag (.lit 1)) 0x0F 0 1 &&
     then_ (lab labWarp) (.tflag (.lit 0)) (fun u => u.ops.map (·.kind) == [.tflag 0])) = true := by
  decide +kernel

/-! ### Near-bank, matrix, copy, collective and soft instructions -/

/-- The device with words of the scratchpad from 0xDFF80 on, which s1 names. -/
def scratch (w : Warp) (l : List Word) : State :=
  { lab w with store := (lab w).store.setWords (storeKey 0 false 0xDFF80) (l.map good) }

def read? (r : ReadWords) : Option (List Word) :=
  match r with
  | .ok ws => some ws
  | .eff _ => none

def globals? (r : GlobalWords) : Option (Cx × List Word) :=
  match r with
  | .ok c ws => some (c, ws)
  | .eff _ => none

def granules? (r : Granules) : Option (List Nat) :=
  match r with
  | .ok l => some (l.map (·.num))
  | .eff _ => none

/-- Granules 1024 and 1408 are of channel 256, granule 1025 of channel 257. -/
theorem witness_ploughs :
    (let w := inPad []
     let sa : List Word := [0, 0, 0x200000, 0, 0x2C0000, 0, 0x3F800000, 0]
     let cp : List Word := [0x2C0000, 0, 0x200000, 0, 2, 0, 0, 0]
     let cross : List Word := [0x200800, 0, 0x200000, 0, 1, 0, 0, 0]
     let zr : List Word := [0x200000, 0, 2, 0]
     let opt : List Word := [0x200000, 0, 0x2C0000, 0, 0x380000, 0, 0x440000, 0, 1] ++ List.replicate 11 0
     let parts (l : List Word) (i : Instr) : List (Nat × PartKind × Bool) :=
       match exec i (scratch w l) with
       | .next t => t.parts.map (fun p => (p.channel, p.kind, p.isCross))
       | _ => []
     let ok (l : List Word) (i : Instr) (n : Nat) : Bool :=
       issuesB i (scratch w l) w false labSlot &&
         read? ((finds (scratch w l) w false labSlot i).readDesc 0xDFF80 16 n) == some (l.take n)
     let c := fun l => finds (scratch w l) w false labSlot (.nbcp 1)
     ok sa (.nbsa false 1) 4 && read? ((c sa).consume (0xDFF80 + 16) 4) == some (sa.drop 4) &&
     granules? ((c sa).granules [⟨0x200000, true⟩, ⟨0x2C0000, false⟩]) == some [1024, 1408] &&
     parts sa (.nbsa false 1) == [(256, .nbsa false 1024 [(1408, 0x3F800000)], false)] &&
     ok cp (.nbcp 1) 8 && granules? ((c cp).granules (runOf 0x2C0000 2 false ++ runOf 0x200000 2 true)) == some [1408, 1409, 1024, 1025] &&
     parts cp (.nbcp 1) == [(256, .nbcp [(1408, 1024)], false), (257, .nbcp [(1409, 1025)], false)] &&
     ok cross (.nbcp 1) 8 && parts cross (.nbcp 1) == [(256, .cross [(1025, 1024)], true)] &&
     ok zr (.nbzr 1) 4 && granules? ((c zr).granules (runOf 0x200000 2 true)) == some [1024, 1025] &&
     parts zr (.nbzr 1) == [(256, .nbzr [1024], false), (257, .nbzr [1025], false)] &&
     ok opt (.nbopt 1) 20 &&
     granules? ((c opt).granules (runOf 0x200000 1 true ++ runOf 0x2C0000 1 true ++ runOf 0x380000 1 true ++ runOf 0x440000 1 false)) ==
       some [1024, 1408, 1792, 2176] &&
     parts opt (.nbopt 1) == [(256, .nbopt [(1024, 1408, 1792, 2176, 0)] opt, false)] &&
     goes labWarp .nbfn && goes { labWarp with ploughError := some 0x200000 } .nbfn) = true := by
  decide +kernel

/-- The checks of extents pass, and the operation is queued with these fields. -/
def queued (w : Warp) (s : State) (i : Instr) (acc : Nat) (l : List Extent) (side tile : Nat) (k : MxKind) : Bool :=
  issuesB i s w false labSlot && ((finds s w false labSlot i).checkExtents acc l).isNone &&
    then_ s i (fun t => t.mx.map (fun e => (e.core, e.op.tile, e.op.mask, e.op.kind)) == [(side, tile, 0xFFFFFFFF, k)])

/-- R278, R279, R283: images at 0xE0000 and 0xE4000, one outlier at 0xDFF80; 257 outliers; a misaligned image. -/
theorem witness_matrices :
    (let w := holding [sr 11 0xE0000, sr 13 0xE4000, sr 20 0xDFF80, sr 21 1, sr 6 0xE0000, sr 7 0xE8000]
     let many := holding [sr 11 0xE0000, sr 13 0xE4000, sr 20 0xDFF80, sr 21 257]
     let odd := holding [sr 6 0xE0080]
     let o : MmaOp := ⟨.bf16, 3, none, 11, 13⟩
     let oo : MmaoOp := ⟨.bf16, 3, none, 11, 13, 20⟩
     let s := scratch w [0x0201, 0x40000000]
     let e : List Extent := [(0xE0000, 16, tileA .bf16), (0xE4000, 16, tileB .bf16)]
     queued w s (.mma o) 0 e 0 3 (.mma .bf16 0xE0000 0xE4000 []) &&
     queued w s (.mmao oo) 0 (e ++ [(0xDFF80, 8, 8)]) 0 3 (.mma .bf16 0xE0000 0xE4000 [(1, 2, 0x40000000)]) &&
     then_ s (.mmao oo) (fun t => (findWarp? t 4).elim false (fun v => (v.slot? false).map (·.readyAt) == some 1021)) &&
     trapB many (.mmao oo) 1 1 0xDFF80 &&
     queued w s (.acz ⟨15, none⟩) 0 [] 0 15 .acz &&
     queued w s (.acld ⟨0, none, 6⟩) 0 [(0xE0000, 256, 8192)] 0 0 (.acld 0xE0000) && trapB odd (.acld ⟨0, none, 6⟩) 4 0 0xE0080 &&
     queued w s (.acst ⟨0, none, 6⟩) 1 [(0xE0000, 256, 8192)] 0 0 (.acst 0xE0000) && trapB odd (.acst ⟨0, none, 6⟩) 4 0 0xE0080 &&
     queued w s (.tdrn ⟨.mxe4m3, 2, none, 6, some 7⟩) 1 [(0xE0000, 16, drainTile .mxe4m3), (0xE8000, 4, 128)] 0 2
       (.tdrn .mxe4m3 0xE0000 0xE8000) &&
     queued w s (.acsc ⟨1, none, .v 40⟩) 0 [] 0 1 (.acsc (accReg (.v 40))) &&
     queued w s (.acmx ⟨1, none, .v 40⟩) 0 [] 0 1 (.acmx (accReg (.v 40))) &&
     queued w s (.acex ⟨1, none, .v 40⟩) 0 [] 0 1 (.acex (accReg (.v 40)))) = true := by
  decide +kernel

def notified? (r : NotifyArg) : Option CopyNotify :=
  match r with
  | .ok n => some n
  | .eff _ => none

/-- A layout of rows of four FP32 elements: two rows for CPT, one for CPG and CPS. -/
def rows2 : List Word := [0x4000, 0, 0, 0, 0, 0, 0x40004, 4, 0, 0x20002, 16, 0] ++ List.replicate 20 0
def rowIn : List Word := [0, 0, 0, 0, 0, 0, 0x40004, 4, 0] ++ List.replicate 23 0
def rowOut : List Word := [0x10000000, 0, 0, 0, 0, 0, 0x40004, 4, 0] ++ List.replicate 23 0

/-- R287 to R292: the three copies, with each notification; a reserved bit in the record; CPQ. -/
theorem witness_copies :
    (let w := holding [sr 1 0xDFF80, sr 2 0xE1000, sr 10 0xDFF80, sr 4 0x200000, sr 11 0xE0000]
     let o (n : Notify) : CopyOp := ⟨10, .s 4, 11, n, none⟩
     let c (l : List Word) (i : Instr) := finds (scratch w l) w false labSlot i
     let ok (l : List Word) (i : Instr) (k : CopyKind) (n : Notify) (nf : CopyNotify) : Bool :=
       issuesB i (scratch w l) w false labSlot && read? ((c l i).readDesc 0xDFF80 16 32) == some l && layoutOk l k.dir &&
         alignedFor (layoutOf l) 0x200000 &&
         (c l i).copyStore? 0xE0000 (copyExtent k (layoutOf l) ((c l i).copyRows k (o n))) (!(layoutOf l).toGlobal) == some (0, 0xE0000) &&
         ((c l i).notifyAddr n).all (fun a => a.toNat % 4 == 0) && notified? ((c l i).notify n) == some nf &&
         then_ (scratch w l) i (fun t => t.copies.map (fun x => (x.kind, x.base, x.store, x.notify, x.total)) ==
           [(k, 0x200000, 0xE0000, nf, if k == .cpt then 2 else 32)] && t.ops.map (·.held) == [true])
     let bad := rows2.set 31 1
     ok rows2 (.cpt (o .none)) .cpt .none .none &&
     ok rowIn (.cpg (o (.word 2 (some 0x10)))) .cpg (.word 2 (some 0x10)) (.word (storeKey 0 false 0xE1010)) &&
     ok rowOut (.cps (o (.ring 0 0))) .cps (.ring 0 0) (.ring 0 0) &&
     issuesB (.cpt (o .none)) (scratch w bad) w false labSlot && !layoutOk bad none &&
     trapsB (scratch w bad) w false (.cpt (o .none)) 1 1 0xDFF80 && goes labWarp (.cpq 4)) = true := by
  decide +kernel

/-- Group 0 at address 0: valid, rank 1 of 2, its list at 0x40, where entry 1 names device `d`. -/
def grouped (d : BitVec 10) (w : Warp) (l : List Word) : State :=
  { scratch w l with hbm := ((lab w).hbm.setWords 0 [good 0x80010002, good 0x40]).setWords 16 [good (d.setWidth 32 <<< 16)] }

def card8 : List Word := [0, 7, 0x200000, 0, 0x280000, 0, 32, 0]

/-- The table's conditions of the statement for a device number. -/
def names (d : BitVec 10) : Bool :=
  let c := finds (grouped d (inPad []) card8) (inPad []) false labSlot (.card ⟨1, .none⟩)
  (globals? (c.readGlobal [0, 4, 8])).elim false (fun p => (wordAt p.2 0).getLsbD 31 && bits (wordAt p.2 0) 16 11 == 1 &&
    bits (wordAt p.2 0) 0 11 == 2 && dwordAt p.2 1 == 0x40 &&
    (globals? (p.1.readGlobal [wordVa 0x42])).elim false (fun l => bits (wordAt l.2 0) 16 16 % 1024 == d.toNat))

/-- R294, R296, R358: whatever the device's number, a table that names it meets them. -/
theorem witness_collective_member : names Config.device = true := by
  have h : (List.range 1024).all (fun k => names (BitVec.ofNat 10 k)) = true := by decide +kernel
  have k := List.all_eq_true.mp h Config.device.toNat (List.mem_range.mpr Config.device.isLt)
  simpa using k

/-- The other conditions: the descriptor, its buffers, its notification; a count of 0; a misaligned buffer; a root. -/
theorem witness_collective :
    (let w := inPad []
     let all := [(Instr.card ⟨1, .none⟩, 0), (.cagt ⟨1, .none⟩, 1), (.cata ⟨1, .none⟩, 2), (.cbct ⟨1, .none⟩, 3)]
     all.all (fun p => issuesB p.1 (grouped 0 w card8) w false labSlot && collOk p.2 card8 &&
       read? ((finds (grouped 0 w card8) w false labSlot p.1).readDesc 0xDFF80 32 8) == some card8 &&
       trapsB (grouped 0 w (card8.set 6 0)) w false p.1 1 1 (firstParcels p.1).1 && !collOk p.2 (card8.set 6 0) &&
       trapsB (grouped 0 w (card8.set 2 0x200002)) w false p.1 4 0 0x200002 && collOk p.2 (card8.set 4 0x280001) &&
       trapsB (grouped 0 w (card8.set 4 0x280001)) w false p.1 4 0 0x280001) &&
     notified? ((finds (grouped 0 w card8) w false labSlot (.card ⟨1, .none⟩)).notify .none) == some .none &&
     (getPartition (grouped 0 w card8) 0).cgbase == 0 && partOf (grouped 0 w card8) w == 0) = true := by
  decide +kernel

/-- A region of 16 slots of 4 words at 0x200000, with gradients at 0x210000; handle 0 bound to it, one store made. -/
def soft4 : SoftDesc := { region := 0x200000, base := 0x200000, w := 4, n := 16, parts := 1, wbase := 0x220000, gbase := 0x210000 }
def bound (w : Warp) : Warp := { w with handles := w.handles.set 0 { desc := some soft4, sq := 1, ew := 0, lq := 0 } }

def list? (r : ReadList) : Option (Bool × List (Nat × Word)) :=
  match r with
  | .ok l => some (l.dense, l.ents)
  | .eff _ => none

def places? (r : SoftXlats) : Option (List Nat) :=
  match r with
  | .ok l => some (l.map (·.1))
  | .eff _ => none

/-- R114 to R136: a list of slots 3 and 5 at 0xDFF80, with the instructions over it; the handle unbound. -/
theorem witness_soft :
    (let w := bound (inPad [sr 6 0xDFF80, sr 7 2, sr 10 0xE0000, sr 9 0])
     let s := scratch w [3, 0x3F000000, 5, 0x40000000]
     let d : List Word := [0x200000, 0, 0x3000F, 1, 0x220000, 0, 0x210000, 0]
     let c (i : Instr) := finds s w false labSlot i
     let l : List (Nat × Word) := [(3, 0x3F000000), (5, 0x40000000)]
     let sld : Instr := .sld ⟨0, 6, 3⟩
     let sst : Instr := .sst ⟨0, 6, 2⟩
     let slda : Instr := .slda ⟨0, 10, 6, 8⟩
     let ssta : Instr := .ssta ⟨0, 9, 6, 10⟩
     let shrd : Instr := .shrd ⟨0, .thr 9, false, 8, 6⟩
     let scmt : Instr := .scmt ⟨0, true⟩
     let all := [sld, sst, slda, ssta, shrd, scmt, .snrm ⟨true, 6⟩]
     all.all (fun i => issuesB i s w false labSlot) &&
     list? ((c sld).readList 0 (some 16) 6 none) == some (false, l) &&
     list? ((c slda).readList 0 (some 16) 6 (some 0xE0000)) == some (false, l) &&
     list? ((c (.snrm ⟨true, 6⟩)).readList 0 none 6 (some 0xDFF80)) == some (false, l) &&
     places? ((c sld).softXlat softReadBad 0 (l.map (fun e => soft4.slotVa e.1 0))) == some [0x200030, 0x200050] &&
     places? ((c slda).softXlat softBad 1 (l.map (fun e => soft4.gradVa e.1 0))) == some [0x210030, 0x210050] &&
     l.foldl (fun m e => m ||| (clampWeight e.2).2) 0 == flSCL &&
     all.all (fun i => then_ s i (fun t => t.ops.map (fun o => match o.kind with
       | .soft y => (i == scmt && y.epoch == 0) || y.list == l
       | _ => false) == [true])) &&
     then_ s sst (fun t => (findWarp? t 4).elim false (fun v => v.flags == flSCL && (v.handles.getD 0 Handle.unbound).sq == 2)) &&
     [sld, sst, slda, ssta, shrd, scmt].all (fun i => trapB (inPad [sr 6 0xDFF80, sr 7 2]) i 0x0D 0 0x50000000) &&
     (let i : Instr := .sreg ⟨0, 1⟩
      let u := inPad []
      let k := finds (scratch u d) u false labSlot i
      issuesB i (scratch u d) u false labSlot && read? (k.readOwn 0xDFF80 8) == some d && softDescOk d (softDescOf d) &&
        then_ (scratch u d) i (fun t => (findWarp? t 4).elim false (fun v => (v.handles.getD 0 Handle.unbound).desc == some soft4)) &&
        trapB (holding [sr 1 0xDFF84]) i 4 0 0xDFF84)) = true := by
  decide +kernel

/-! ### Events of the homes, the Towpath and the L1 domains -/

/-- A request of core 0 for line 0x4000 at its home, channel 256. -/
def ask (k : ReqKind) (mask : Word) : Req := { Req.plain (.dom 0 false) k 0x4000 mask with id := 50, miss := 60 }

def atHome (r : Req) (l : List DirEntry) : State :=
  { base with reqs := [r], homes := [(256, { Home.dflt with dir := l })], hbm := base.hbm.setWords 0x80000 [good 5, good 6] }

/-- Word 0 of the line is owned by core 8; the line has a sharer in quad 3. -/
def ownedBy8 : DirEntry := { DirEntry.untracked 0x4000 with owm := 1, owner := some ⟨false, 8⟩ }
def shared3 : DirEntry := { DirEntry.untracked 0x4000 with shr := 8 }

/-- The request is there and has its turn, at a home in order. -/
def asks (s : State) (r : Req) : Bool :=
  findReq? s 50 == some r && homeDue s r && tsorted s.homes && s.reqs.all (fun q => q.id == 50)

/-- One fill or grant: its kind, its words 0 and 1, and its slot number. -/
def replied (t : State) (grant wi : Bool) (n : Nat) : Bool :=
  t.reqs.isEmpty && t.replies.map (fun p => (p.dom, p.line, p.grant, p.wi, p.miss, p.words.length)) == [(0, 0x4000, grant, wi, 60, n)]

/-- The owner of the entry is asked for words. -/
def recalls (t : State) (b : Busy) (mask : Word) : Bool :=
  (getHome t 256).decided.map (fun k => (k.kind, k.line, k.wmask, k.owner)) == [(.rcw, 0x4000, mask, ⟨false, 8⟩)] &&
    (entryOf t 0x4000).busy == b && (entryOf t 0x4000).waiting == 50 && t.reqs.length == 1 && t.hbm == (atHome (ask .rsi 1) []).hbm

def invalidates (t : State) : Bool :=
  (getHome t 256).decided.map (fun k => (k.kind, k.line, k.wmask, k.owner)) == [(.inv, 0x4000, 0xFFFFFFFF, noOwner)]

/-- R73, R81, R82, R84: each kind of request with the line untracked, shared and owned by another. -/
theorem witness_home :
    (let at_ (k : ReqKind) (l : List DirEntry) (i : Instr) (f : State → Bool) : Bool :=
       let r := { ask k 3 with words := [(0, good 9), (1, good 8)] }
       asks (atHome r l) r && then_ (atHome r l) i f
     at_ .rsi [] (.homeRSi 50 false) (fun t => replied t false false 32) &&
     at_ .rsi [ownedBy8] (.homeRSi 50 false) (fun t => recalls t .rsi 1) &&
     at_ .rwi [] (.homeRWi 50 false) (fun t => replied t false true 32 && (entryOf t 0x4000).shr == 1) &&
     at_ .rwi [ownedBy8] (.homeRWi 50 false) (fun t => recalls t .rwi 1) &&
     at_ .own [] (.homeOwn 50 false) (fun t => replied t true false 2 && (entryOf t 0x4000).owm == 3) &&
     at_ .own [{ ownedBy8 with owner := some ⟨false, 0⟩ }] (.homeOwn 50 false) (fun t => replied t true false 2 && (entryOf t 0x4000).owm == 3) &&
     at_ .own [shared3] (.homeOwn 50 false) (fun t => replied t true false 2 && invalidates t && (entryOf t 0x4000).shr == 0) &&
     at_ .own [ownedBy8] (.homeOwn 50 false) (fun t => recalls t .own 1) &&
     at_ .wrh [shared3] (.homeWrh 50 false) (fun t => t.reqs.isEmpty && invalidates t && t.hbm.word 0x80000 == good 9 && t.hbm.word 0x80001 == good 8) &&
     at_ .wrh [ownedBy8] (.homeWrh 50 false) (fun t => recalls t .wrh 1) &&
     (let r := { ask .wrh 3 with words := [(0, good 9), (1, good 8)] }
      let s := { atHome r [{ ownedBy8 with owner := some ⟨false, 0⟩ }] with l1s := [(0, { lines := [⟨0x4000, [(0, ⟨.ow, good 7⟩)]⟩] })] }
      asks s r && tsorted s.l1s && then_ s (.homeWrh 50 false) (fun t => l1Word? t 0 0x4000 0 == some ⟨.ow, good 9⟩)) &&
     at_ .sur [{ ownedBy8 with owm := 5 }] (.homeSur ⟨50, false⟩) (fun t => t.reqs.isEmpty && (entryOf t 0x4000).owm == 4 && t.hbm.word 0x80000 == good 9) &&
     [(ReqKind.rsi, Instr.homeRSi 50 true), (.rwi, .homeRWi 50 true), (.own, .homeOwn 50 true), (.wrh, .homeWrh 50 true),
         (.sur, .homeSur ⟨50, true⟩), (.atomic .addI64, .homeAtomic ⟨50, true⟩), (.reduce .addI64, .homeAtomic ⟨50, true⟩)].all (fun p =>
       at_ p.1 [ownedBy8] p.2 (fun t => (entryOf t 0x4000).busy == .recallAll && (entryOf t 0x4000).waiting == 50 &&
         (getHome t 256).decided.map (fun k => (k.kind, k.wmask)) == [(.rca, 0xFFFFFFFF)]))) = true := by
  decide +kernel

/-- R144, R258: a fetch-and-add of 9 to the word 5, and the same reduction. -/
theorem witness_home_atomic :
    (let w : OpWord := OpWord.plain 2 0 0x200000 (.hbm 0x200000) .wt false (good 9) (good 0)
     let o (k : OpKind) : Op := { id := 70, warp := 4, slot := false, pc := 0, seq := 0, kind := k, ctr := some .ld, dst := 0, width := 1,
                                  words := [w], held := false, accepted := true }
     let r (k : ReqKind) : Req := { ask k 1 with words := [(0, good 9)], op := 70, lane := 2 }
     let s (k : ReqKind) (u : OpKind) : State := { atHome (r k) [shared3] with ops := [o u] }
     asks (s (.atomic .addI32) (.atom .addI32)) (r (.atomic .addI32)) && (r (.atomic .addI32)).mask &&& (entryOf (s (.atomic .addI32) (.atom .addI32)) 0x4000).owm == 0 &&
     !pageDead (s (.atomic .addI32) (.atom .addI32)) (pageOfLine 0x4000) && homeWord (s (.atomic .addI32) (.atom .addI32)) 0x4000 0 false == good 5 &&
     then_ (s (.atomic .addI32) (.atom .addI32)) (.homeAtomic ⟨50, false⟩) (fun t => t.reqs.isEmpty && t.hbm.word 0x80000 == good 14 && invalidates t &&
       t.ops.map (fun o => o.words.map (fun y => (y.done, y.got))) == [[(true, some (good 5))]]) &&
     then_ (s (.reduce .addI32) (.red .addI32)) (.homeAtomic ⟨50, false⟩) (fun t => t.hbm.word 0x80000 == good 14 && t.ops.length == 1 && t.wrhReplies.length == 1)) = true := by
  decide +kernel

/-- R70, R81, R144: an atomic on an owned word, on a fallow page and with a bad operand; an engine's requests for an owned word. -/
theorem witness_home_more :
    (let red : Req := { ask (.reduce .addI32) 1 with words := [(0, good 9)], op := 70, lane := 2 }
     let bad := { red with words := [(0, poison (good 9))] }
     let fal := { red with kind := .atomic .addI32, fal := true }
     let mine (k : ReqKind) : Req := { ask k 1 with src := .engine 9, miss := 0, arrived := 3 }
     asks (atHome red [ownedBy8]) red && then_ (atHome red [ownedBy8]) (.homeAtomic ⟨50, false⟩) (fun t => recalls t .wrh 1) &&
     asks (atHome fal []) fal && then_ (atHome fal []) (.homeAtomic ⟨50, false⟩) (fun t => t.reqs == [] && t.hbm == (atHome fal []).hbm) &&
     asks (atHome bad []) bad && (atHome bad []).hbm.wf && !(getRecorder (atHome bad []) (channelDie (channelOf 0x4000))).frz &&
     then_ (atHome bad []) (.homeAtomic ⟨50, false⟩) (fun t => t.reqs == [] && t.hbm.word 0x80000 == poison (good 5) &&
       t.hbm.word 0x80001 == good 6 && (getRecorder t (channelDie (channelOf 0x4000))).entries.head?.map (·.code) == some 9) &&
     [ReqKind.rsi, .wrh].all (fun k => asks (atHome (mine k) [ownedBy8]) (mine k) && (mine k).mask &&& ownedBy8.owm != 0 &&
       !surrendering (atHome (mine k) [ownedBy8]) 0x4000)) = true := by
  decide +kernel

/-- A notice on its way, injected 64 cycles ago in slot 7. -/
def flying (k : NoticeKind) (mask : Word) : Flying := ⟨⟨30, k, 0x4000, mask, ⟨false, 0⟩⟩, 7, 936⟩

/-- R76 to R79: an injection in the cycle of its channel; a notice that has come round, at a domain with owned words 0, 1. -/
theorem witness_notices :
    (let e (st : WState) : L1Line := ⟨0x4000, [(0, ⟨st, good 7⟩), (1, ⟨st, good 8⟩)]⟩
     let miss : Miss := { id := 60, dom := 3, line := 0x4000, kind := .rsi, firstSlot := 0, notices := 0 }
     let s (k : NoticeKind) (mask : Word) (st : WState) : State :=
       { base with flying := [flying k mask], l1s := [(0, { lines := [e st] })], misses := [miss] }
     let n : Notice := ⟨30, .inv, 0x4000, 0xFFFFFFFF, noOwner⟩
     let p : Reply := { id := 31, dom := 0, line := 0x4000, grant := true, wi := false, words := [], own := [], gone := 0, miss := 60, ownNotice := some 30, ownSlot := none, sent := 0 }
     let inj : State := { base with homes := [(256, { Home.dflt with decided := [n] })], replies := [p], slotCount := 41 }
     inj.cycle % 8 == 256 % 8 && tsorted inj.homes &&
     then_ inj (.noticeInjection 256) (fun t => t.slotCount == 42 && t.flying == [⟨n, 41, 1000⟩] && (getHome t 256).decided == [] &&
       t.replies == [{ p with ownNotice := none, ownSlot := some 41, sent := 1000 }]) &&
     tsorted (s .inv 0 .si).l1s &&
     then_ (s .inv 0 .si) .towpathInv (fun t => t.flying == [] && l1Word? t 0 0x4000 0 == none && t.misses.map (·.notices) == [1]) &&
     then_ (s .inv 0 .ow) .towpathInv (fun t => l1Word? t 0 0x4000 0 == some ⟨.ow, good 7⟩) &&
     then_ (s .rcw 1 .ow) .towpathRcw (fun t => t.writebacks.map (fun b => (b.dom, b.line, b.slot, b.all, b.words)) == [(0, 0x4000, 7, false, [(0, good 7)])] &&
       l1Word? t 0 0x4000 0 == none && l1Word? t 0 0x4000 1 == some ⟨.ow, good 8⟩) &&
     (let r : State := { s .rca 0 .ow with homes := [(256, { Home.dflt with dir := [{ ownedBy8 with busy := .recallAll }] })] }
      tsorted r.homes && then_ r .towpathRca (fun t => (entryOf t 0x4000).pending == 384)) &&
     ((s .rca 0 .ow).flying.map (fun f => (f.notice.kind, decide (f.cycle + 64 ≤ (s .rca 0 .ow).cycle)))) == [(.rca, true)] &&
     ((getL1 (s .rca 0 .ow) 0).lines.map (·.line)) == [0x4000] && isDomain (s .rca 0 .ow) 0 &&
     ownedWords (s .rca 0 .ow) 0 0x4000 == [(0, good 7), (1, good 8)]) = true := by
  decide +kernel

/-- R81, R85, R371: a write-back to an idle entry and to one that an R-SI waits for; a fill and a grant, installed and used once. -/
theorem witness_fills :
    (let b : Writeback := { id := 40, slot := 7, dom := 8, line := 0x4000, mask := 1, words := [(0, good 9)], all := false }
     let r := ask .rsi 1
     let s (l : List DirEntry) : State := { atHome r l with writebacks := [b] }
     let miss (n : Nat) : Miss := { id := 60, dom := 0, line := 0x4000, kind := .rsi, firstSlot := 3, notices := n }
     let p (g wi : Bool) : Reply := { id := 31, dom := 0, line := 0x4000, grant := g, wi := wi, words := [(0, good 5), (1, good 6)], own := [], gone := 2, miss := 60, ownNotice := none, ownSlot := none, sent := 840 }
     let w : OpWord := { OpWord.plain 0 0 0x200000 (.hbm 0x200000) .si false (good 0) (good 0) with miss := some 60 }
     let o : Op := { id := 70, warp := 4, slot := false, pc := 0, seq := 0, kind := .ld, ctr := some .ld, dst := 8, width := 1, words := [w], held := false, accepted := false }
     let f (g wi : Bool) (n : Nat) : State := { base with replies := [p g wi], misses := [miss n], ops := [o] }
     tsorted (s []).homes &&
     then_ (s []) (.recallWriteback 40 false) (fun t => t.writebacks == [] && t.hbm.word 0x80000 == good 9) &&
     findReq? (s []) 50 == some r &&
     then_ (s [{ ownedBy8 with busy := .rsi, waiting := 50 }]) (.recallWriteback 40 false) (fun t => t.writebacks == [] && t.hbm.word 0x80000 == good 9 &&
       (entryOf t 0x4000).busy == .idle && t.reqs == [] && t.replies.map (fun q => (q.dom, q.grant, q.ownSlot)) == [(0, false, some 7)]) &&
     replyDue (f false true 0) (p false true) && isDomain (f false true 0) 0 && installs (miss 0) (p false true) && !installs (miss 1) (p false true) &&
     then_ (f false true 0) (.fillArrives 31) (fun t => t.ops.map (fun o => o.words.map (·.got)) == [[some (good 5)]] && t.misses == [] &&
       l1Word? t 0 0x4000 0 == some ⟨.wi, good 5⟩ && l1Word? t 0 0x4000 1 == none) &&
     then_ (f false false 1) (.fillArrives 31) (fun t => t.l1s == [] && t.misses == []) &&
     then_ (f true false 0) (.grantArrives 31) (fun t => l1Word? t 0 0x4000 0 == some ⟨.ow, good 5⟩ && t.misses == [])) = true := by
  decide +kernel

/-- R84, R90: write-backs of a recall of everything, one awaited beside it and the last; a grant whose waiting load takes a
word that the domain owned all along from its own copy. -/
theorem witness_recalls_and_held :
    (let b : Writeback := { id := 40, slot := 7, dom := 8, line := 0x4000, mask := 1, words := [(0, good 9)], all := true }
     let s (n : Nat) : State := { atHome (ask .rsi 1) [{ DirEntry.untracked 0x4000 with busy := .recallAll, pending := n }] with writebacks := [b] }
     let m : Miss := { id := 60, dom := 0, line := 0x4000, kind := .own, firstSlot := 0, notices := 0 }
     let w : OpWord := { OpWord.plain 0 0 0x200000 (.hbm 0x200000) .own false (good 0) (good 0) with miss := some 60 }
     let o : Op := { id := 70, warp := 4, slot := false, pc := 0, seq := 0, kind := .ld, ctr := some .ld, dst := 8, width := 1, words := [w], held := false, accepted := false }
     let p : Reply := { id := 31, dom := 0, line := 0x4000, grant := true, wi := false, words := [(0, good 5), (1, good 6)], own := [(0, good 7)], gone := 0, miss := 60, ownNotice := none, ownSlot := none, sent := 840 }
     let f : State := { base with replies := [p], misses := [m], ops := [o], l1s := [(0, { lines := [⟨0x4000, [(0, ⟨.ow, good 7⟩)]⟩] })] }
     (s 2).reqs.all (fun q => q.kind != .sur) && findReq? (s 1) 0 == none && tsorted (s 1).homes &&
     then_ (s 2) (.recallWriteback 40 false) (fun t => t.writebacks == [] && t.hbm.word 0x80000 == good 9 &&
       ((entryOf t 0x4000).busy, (entryOf t 0x4000).pending) == (.recallAll, 1)) &&
     then_ (s 1) (.recallWriteback 40 false) (fun t => entryOf t 0x4000 == DirEntry.untracked 0x4000 && t.mgc.direrr == 1) &&
     replyDue f p && findMiss? f 60 == some m &&
     then_ f (.grantArrives 31) (fun t => t.ops.map (fun o => o.words.map (·.got)) == [[some (good 7)]] &&
       l1Word? t 0 0x4000 0 == some ⟨.ow, good 7⟩ && l1Word? t 0 0x4000 1 == some ⟨.ow, good 6⟩)) = true := by
  decide +kernel

/-- R81: what the write-back of the last named word does for each request that waited, and one that leaves a word out. -/
theorem witness_write_backs :
    (let b : Writeback := { id := 40, slot := 7, dom := 8, line := 0x4000, mask := 1, words := [(0, good 9)], all := false }
     let wait (r : Req) (y : Busy) (owm : Word) (f : State → Bool) : Bool :=
       let s : State := { atHome r [{ ownedBy8 with owm := owm, busy := y, waiting := 50 }] with writebacks := [b] }
       findReq? s 50 == some r && tsorted s.homes && s.hbm.wf &&
         then_ s (.recallWriteback 40 false) (fun t => t.writebacks == [] && t.hbm.word 0x80000 != good 5 && f t)
     let grown (t : State) : Bool := (entryOf t 0x4000).busy == .idle && t.reqs == []
     let data (k : ReqKind) : Req := { ask k 3 with words := [(0, good 1), (1, good 2)] }
     let mine : Req := { ask .rsi 1 with src := .engine 9, miss := 0, arrived := 3 }
     wait (ask .rwi 1) .rwi 1 (fun t => grown t && t.replies.map (fun q => (q.wi, q.ownSlot)) == [(true, some 7)] && (entryOf t 0x4000).shr == 1) &&
     wait (ask .rsi 3) .rsi 3 (fun t => (entryOf t 0x4000).busy == .rsi && (getHome t 256).decided.map (·.wmask) == [2] && t.replies == []) &&
     wait (ask .own 3) .own 1 (fun t => grown t && t.replies.map (·.grant) == [true] && (entryOf t 0x4000).owner == some ⟨false, 0⟩) &&
     wait (data .wrh) .wrh 1 (fun t => grown t && t.hbm.word 0x80000 == good 1 && t.hbm.word 0x80001 == good 2) &&
     wait (data (.atomic .addI64)) .wrh 1 (fun t => grown t && t.hbm.word 0x80000 == good 10) &&
     wait mine .rsi 1 (fun t => (entryOf t 0x4000).busy == .idle && t.reqs == [mine]) &&
     wait (ask .rsi 1) .victim 1 (fun t => t.reqs.length == 1 && dirEntry? (getHome t 256) 0x4000 == none)) = true := by
  decide +kernel

/-- R84: the last write-back of a recall of everything, and the R-SI that waited. -/
theorem witness_recalled_all :
    (let b : Writeback := { id := 40, slot := 7, dom := 8, line := 0x4000, mask := 1, words := [(0, good 9)], all := true }
     let s : State := { atHome (ask .rsi 1) [{ ownedBy8 with busy := .recallAll, waiting := 50, pending := 1 }] with writebacks := [b] }
     findReq? s 50 == some (ask .rsi 1) && tsorted s.homes &&
     then_ s (.recallWriteback 40 false) (fun t => entryOf t 0x4000 == DirEntry.untracked 0x4000 && t.reqs == [] &&
       t.replies.map (fun q => (q.grant, q.words.headD (0, good 0))) == [(false, (0, good 9))])) = true := by
  decide +kernel

/-! ### Events of warps -/

/-- An operation of the warp with one word of lane 5. -/
def inFlight (k : OpKind) (ctr : Option Ctr) (got : Option CWord) (held : Bool) : Op :=
  { id := 70, warp := 4, slot := false, pc := 0, seq := 0, kind := k, ctr := ctr, dst := 8, width := 1,
    words := [{ OpWord.plain 5 0 0x200000 (.hbm 0x200000) .wt false (good 9) (good 0) with got := got }], held := held, accepted := false }

/-- The warp with one operation of each counter outstanding. -/
def waiting : Warp := { labWarp with ctrs := ⟨1, 1, 1, 1, 1, 1⟩, slot0 := none }
def with1 (o : Op) : State := { lab waiting with ops := [o] }

def warpOf (t : State) : Warp := (findWarp? t 4).getD labWarp

/-- R26, R142, R178: values of a load, a store load, an atomic and a store atomic land; a bad word contains the gang. -/
theorem witness_values_land :
    (let ks : List OpKind := [.ld, .lds, .atom .cas, .atoms .cas]
     let s (k : OpKind) (v : CWord) : State := with1 (inFlight k (some .ld) (some v) false)
     ks.all (fun k => findOp? (s k (good 7)) 70 == some (inFlight k (some .ld) (some (good 7)) false) && homesAnswered (s k (good 7)) 70 &&
       (s k (good 7)).store.wf &&
       then_ (s k (good 7)) (.loadValueLands 70 []) (fun t => t.ops == [] && (warpOf t).ctrs.ld == 0 &&
         regWord t (warpOf t) (regBank t (warpOf t)) (vKey 8 5) == 7) &&
       !(poison (good 7)).isGood && then_ (s k (poison (good 7))) (.loadValueLands 70 []) (fun t => (findGang? t 3).isNone || t.teams.isEmpty))) = true := by
  decide +kernel

/-- R178, R196, R256: LDCK lands a word, good or not, with its check; an atomic lands its flags, an enabled one in a report; a
bad word consumed. -/
theorem witness_values_more :
    (let v := CWord.ofCheck 7 0x12
     let s := with1 (inFlight .ldck (some .ld) (some v) false)
     let o := inFlight (.atom .addF32) (some .ld) (some (good 7)) false
     let on := { waiting with trapen := flNX }
     let f : State := { lab on with ops := [{ o with words := o.words.map (fun x => { x with flags := flNX }) }] }
     let b := with1 (inFlight .ld (some .ld) (some v) false)
     !v.isGood && homesAnswered s 70 && homesAnswered f 70 && s.store.wf &&
     then_ s (.loadValueLands 70 []) (fun t => t.ops == [] && [8, 9].map (fun k => regWord t (warpOf t) (regBank t (warpOf t)) (vKey k 5)) == [7, 0x12]) &&
     then_ f (.loadValueLands 70 []) (fun t => (warpOf t).flags == flNX &&
       (warpOf t).reports.map (fun r => (r.ctr, r.tval)) == [(.ld, flNX)]) &&
     nexts (exec (.loadValueLands 70 []) b) (containFrom (dropReplies b 70) waiting v 5 0 0x200000 (some 0x200000))) = true := by
  decide +kernel

/-- R26: STS, ST and STCK that the homes have answered, STNT and RED once accepted. -/
theorem witness_stores_end :
    (let s (k : OpKind) : State := with1 (inFlight k none none false)
     (let key := storeKey 0 false 0xDFF80
      let o := inFlight .sts none none false
      let own := regBank (lab waiting) waiting + vKey 9 5
      let y (t : Tgt) : OpWord := { OpWord.plain 5 0 0 t .wt false (good 9) (good 0) with got := none }
      let s := with1 { o with words := [y (.store key), y (.reg 4 (vKey 9 5))] }
      s.store.wf && findWarp? s 4 == some waiting && decide (key ≠ own) &&
        then_ s (.storeAcknowledged 70) (fun t => t.ops == [] && (warpOf t).ctrs.st == 0 && t.store.word key == good 9 && t.store.word own == good 9)) &&
     [OpKind.st, .stck].all (fun k => ownedDone (inFlight k none none false) && (inFlight k none none false).ownLeft.isEmpty && homesAnswered (s k) 70 &&
       then_ (s k) (.storeAcknowledged 70) (fun t => t.ops == [] && (warpOf t).ctrs.st == 0)) &&
     then_ (s .stnt) (.storeAcknowledged 70) (fun t => t.ops.map (·.accepted) == [true] && (warpOf t).ctrs.st == 0) &&
     then_ (s (.red .or)) (.storeAcknowledged 70) (fun t => t.ops.map (·.accepted) == [true] && (warpOf t).ctrs.nm == 0)) = true := by
  decide +kernel

/-- R46, R54: a word of an STS for a plane that is not active waits. -/
theorem witness_store_waits :
    (let o : Op := { inFlight .sts none none false with words := [OpWord.plain 5 0 0 (.store (storeKey 0 false 0xDFF80)) .wt false (good 9) (good 0)] }
     let s : State := { with1 o with cores := [(0, { CoreSt.dflt with active := true })] }
     o.words.any (OpWord.bankShut s) && nexts (exec (.storeAcknowledged 70) s) s) = true := by
  decide +kernel

/-- R80, R97, R99: an acquire whose notices have gone by, one that an earlier notice holds, and FENCE.acq without loads. -/
theorem witness_acquire_completes :
    (let a : Acquire := { id := 50, refSlot := 7, bound := 0, op := some 99, scope := .pkg, loadsBefore := none }
     let s (a : Acquire) : State := { lab { labWarp with acquires := [a] } with flying := [flying .inv 0], l1s := [(0, { lines := [⟨9, [(0, ⟨.si, good 1⟩)]⟩] })] }
     tsorted (s a).l1s && scopeDrops (s a) 0 .pkg && findOp? (s a) 99 == none && !slotBefore 7 a.refSlot && slotBefore 7 8 &&
     then_ (s a) (.acquireCompletes 50) (fun t => (warpOf t).acquires == [] && l1Word? t 0 9 0 == none) &&
     then_ (s { a with loadsBefore := some 1 }) (.acquireCompletes 50) (fun t => (warpOf t).acquires == [{ a with refSlot := 0, bound := 100 }])) = true := by
  decide +kernel

/-- R96 to R99, R302, R372: every release whose wait is over, for a resident warp. -/
theorem witness_releases :
    (let s (k : OpKind) : State := with1 (inFlight k none none true)
     let ends (s : State) (f : State → Bool) : Bool :=
       (findOp? s 70).elim false (fun o => o.held && releaseOver s o) && isResident s waiting && then_ s (.releaseWaitEnds 70) f
     let k : Copy := { id := 71, warp := 4, seq := 0, quad := 0, kind := .cpt, layout := layoutOf rows2, base := 0x200000, rows := [], core := 0,
                       store := 0xE0000, notify := .none, done := 0, total := 2, seg := 0, moved := [], state := .running, held := true, notices := [] }
     let q : Queue := { Queue.dflt with en := true, logn := 4, base := 0x300000 }
     let lnch : OpKind := .lnch (List.replicate 32 5) 0 9
     let room : State := { s lnch with partitions := [(0, { programPartition with queues := [(0, q)] })] }
     [OpKind.st, .stnt, .stck, .atom .or, .red .or].all (fun k => ends (s k) (fun t => t.ops.map (·.held) == [false])) &&
     (findTeam? (lab waiting) 2).isSome &&
     ends (s (.bar .drop .team 0 3)) (fun t => (findTeam? t 2).elim false (fun m => m.bars == [⟨0, false, 32, 2, 2⟩])) &&
     ends (s (.ring 0 0)) (fun t => (findTeam? t 2).elim false (fun m => (m.rings.flatten.map (·.chambers)).flatten.map (·.full) == [true])) &&
     ends { s (.copy 71) with copies := [k] } (fun t => t.ops == [] && t.copies == [{ k with held := false }]) &&
     ends (s (.tflag 0)) (fun t => (findGrid? t 1).elim false (fun g => g.tiles == [0])) &&
     ends { s (.tlbi 71) with invals := [⟨71, 0, .all, [], false⟩], walks := [⟨9, 0, 0, false, 0, none⟩] } (fun t => t.invals.map (·.walks) == [[9]]) &&
     ends (s (.fence true true .quad)) (fun t => (warpOf t).acquires.map (fun a => (a.scope, a.refSlot)) == [(.quad, 0)]) &&
     q.count + 1 < 2 ^ q.log && tsorted room.partitions && tsorted (getPartition room 0).queues &&
     ends room (fun t => t.ops == [] && t.hbm.word (0x300000 / 4) == good 5 && t.hbm.word (0x300000 / 4 + 31) == good (recordTag q 0) &&
       (getQueue (getPartition t 0) 0).tail == 1)) = true := by
  decide +kernel

/-- R231, R233, R265: a WAITW with an entry, one polled, one that takes an entry; SLEEP and YIELD at their time. -/
theorem witness_pauses :
    (let wait (e : Bool) (v : Word) : WordWait := ⟨storeKey 0 false 0xDFF80, 0xDFF80, .eq, false, false, v, e, 744, 0⟩
     let s (b : Block) : State := { pad labWarp with warps := [{ labWarp with slot0 := some { labSlot with block := b } }] }
     let block (t : State) : Option Block := (warpOf t).slot0.map (·.block)
     isResident (s .none) labWarp && isActive (s .none) labWarp && (((s .none).store.word (storeKey 0 false 0xDFF80)).isGood) &&
     then_ (s (.waitw (wait true 5))) (.waitwReevaluation 4 false) (fun t => block t == some .none) &&
     then_ (s (.waitw (wait true 6))) (.waitwReevaluation 4 false) (fun t => block t == some (.waitw (wait true 6))) &&
     then_ (s (.waitw (wait false 6))) (.waitwPoll 4 false) (fun t => block t == some (.waitw { wait false 6 with polled := 1000 })) &&
     entriesUsed (s (.waitw (wait false 6))) 0 == 0 &&
     then_ (s (.waitw (wait false 6))) (.watchEntryTaken 4 false) (fun t => block t == some (.waitw (wait true 6))) &&
     then_ (s (.sleep 1000)) (.sleepExpiry 4 false) (fun t => block t == some .none) &&
     then_ (s (.yield 1000 [])) (.yieldTimeout 4 false) (fun t => block t == some .none)) = true := by
  decide +kernel

/-! ### Events of the engines -/

/-- A part of an operation of the warp at channel 256, all of whose granules lie in the partition's ranges. -/
def part (k : PartKind) (upc : Nat) (acc : List CWord) : Part :=
  { id := 80, op := 70, warp := 4, channel := 256, kind := k, accepted := true, upc := upc, wpos := 0, target := 0, acc := acc, err := none, finished := false,
    notices := [], frozen := none, va := 0x200000, fals := [], rngs := [], issuer := issuerOf base labWarp }

def ploughing (p : Part) : State :=
  { lab waiting with parts := [p], ops := [{ inFlight (.plough none) (some .nm) none false with accepted := false }],
                     hbm := base.hbm.setWords (512 * 1408) [good 0x40000000, good 0x40400000] }

/-- A table that holds no page: any granule lies outside the ranges. -/
def outside (p : Part) : State := { ploughing p with partitions := [(0, { programPartition with pranges := [] })] }

def aims (p : Part) (gs : List Nat) : Bool :=
  gs.all (fun g => inRanges (getPartition (ploughing p) 0) (2048 * g) && !(p.asks g).any (askWaits (ploughing p) (.engine 80))) &&
    p.step.granules == gs

/-- R156, R269 to R274: acceptance; a row, a load, stores, copies and a freeze; completion with an error. -/
theorem witness_plough_events :
    (let rows : PartKind := .nbsa false 1024 [(1408, 0x3F800000)]
     let go (p : Part) (gs : List Nat) (f : State → Part → Bool) : Bool :=
       runningPart? (ploughing p) 256 == some p && aims p gs &&
         then_ (ploughing p) (.ploughRowStep ⟨256, 512⟩) (fun t => (findPart? t 80).elim false (fun q => q.upc == p.upc + 1 && f t q))
     let cross := part (.cross [(1025, 1408)]) 0 []
     let done := { part rows 2 [] with finished := true, err := some 0x200004 }
     let late := { part rows 0 [] with accepted := false }
     partAcceptable (ploughing late) late &&
     then_ (ploughing late) (.ploughPartAccepted 80) (fun t => t.parts.map (·.accepted) == [true] && t.ops.map (·.accepted) == [true] && (warpOf t).ctrs.nm == 0) &&
     go (part rows 0 []) [1408] (fun _ q => q.acc.take 2 == [good 0x40000000, good 0x40400000]) &&
     go (part (.nbsa true 1408 []) 0 []) [1408] (fun _ q => q.acc.take 2 == [good 0x40000000, good 0x40400000]) &&
     go (part rows 1 (good 7 :: List.replicate 511 (good 0))) [1024] (fun _ q => q.finished) &&
     go (part (.nbzr [1408]) 0 []) [1408] (fun _ q => q.finished) &&
     go (part (.nbcp [(1408, 25984)]) 0 []) [1408, 25984] (fun _ q => q.finished) &&
     go (part (.nbcp [(1408, 1024)]) 0 []) [1408] (fun _ q => !q.finished && q.acc.take 2 == [good 0x40000000, good 0x40400000]) &&
     go (part (.nbcp [(1408, 1024)]) 1 (List.replicate 512 (good 9))) [1024] (fun _ q => q.finished) &&
     !inRanges (getPartition (outside (part rows 0 [])) 0) (2048 * 1408) &&
     then_ (outside (part rows 0 [])) (.ploughRowStep ⟨256, 512⟩) (fun t => t.parts.map (fun q => (q.frozen.isSome, q.upc)) == [(true, 0)]) &&
     findPart? (ploughing cross) 80 == some cross && cross.isCross && aims cross [1025, 1408] &&
     then_ (ploughing cross) (.crossChannelGranule ⟨80, 512⟩) (fun t => t.parts.map (·.finished) == [true]) &&
     delivered (ploughing done) done.notices &&
     then_ (ploughing done) (.ploughPartCompletes 80) (fun t => t.parts == [] && t.ops == [] && (warpOf t).ploughError == some 0x200004)) = true := by
  decide +kernel

/-- R113: a write of three words, and one of the next; a granule that a recall keeps busy. -/
theorem witness_plough_words :
    (let rows : PartKind := .nbsa false 1024 [(1408, 0x3F800000)]
     let p (wpos : Nat) : Part := { part rows 1 (good 7 :: List.replicate 511 (good 3)) with wpos := wpos }
     let c (wpos : Nat) : Part := { part (.nbcp [(1408, 25984)]) 0 (if wpos == 0 then [] else List.replicate 512 (good 9)) with wpos := wpos }
     let written (t : State) (g : Nat) : List CWord := (List.range 4).map (fun i => t.hbm.word (512 * g + i))
     let old := written (ploughing (p 0)) 1024
     let busy : State := { ploughing (part rows 0 []) with homes := [(channelOf (16 * 1408), { Home.dflt with dir :=
       [{ DirEntry.untracked (16 * 1408) with owm := 1, owner := some ⟨false, 8⟩, busy := .rsi, waiting := 9 }] })] }
     (ploughing (p 0)).hbm.wf && (p 0).step.granules == [1024] &&
     then_ (ploughing (p 0)) (.ploughRowStep ⟨256, 3⟩) (fun t => written t 1024 == [good 7, good 3, good 3] ++ old.drop 3 &&
       (findPart? t 80).elim false (fun q => q.wpos == 3 && q.upc == 1)) &&
     then_ (ploughing (p 3)) (.ploughRowStep ⟨256, 0⟩) (fun t => written t 1024 == old.take 3 ++ [good 3] &&
       (findPart? t 80).elim false (fun q => q.wpos == 4 && q.upc == 1)) &&
     then_ (ploughing (c 0)) (.ploughRowStep ⟨256, 2⟩) (fun t => (written t 25984).take 2 == [good 0x40000000, good 0x40400000] &&
       (findPart? t 80).elim false (fun q => q.wpos == 2)) &&
     then_ (ploughing (c 2)) (.ploughRowStep ⟨256, 1⟩) (fun t => (written t 25984).drop 2 == [good 9] ++ (written (ploughing (c 2)) 25984).drop 3 &&
       (findPart? t 80).elim false (fun q => q.wpos == 3 && q.upc == 0)) &&
     runningPart? busy 256 == some (part rows 0 []) && ((part rows 0 []).asks 1408).any (askWaits busy (.engine 80)) &&
     then_ busy (.ploughRowStep ⟨256, 1⟩) (fun t => findPart? t 80 == some (part rows 0 []) && t.hbm == busy.hbm)) = true := by
  decide +kernel

/-- R274's example, w = 1.0, m = v = 0, g = 0.5, as the first element of a block: its reads, then the first words of m', v', w'. -/
theorem witness_nbopt :
    (let k : List Word := List.replicate 10 0 ++ [0x3F000000, 0x3F000000, 0x3F400000, 0x3E800000, 0x3E000000, 0, 0, 0x40000000, 0x40800000, 0]
     let blocks := [(1024, 1408, 1792, 2176, 0)]
     let zeros := List.replicate 511 (good 0)
     let acc := good 0x3F800000 :: zeros ++ (good 0 :: zeros) ++ (good 0 :: zeros) ++ (good 0x3F000000 :: zeros)
     let p (upc : Nat) : Part := part (.nbopt blocks k) upc (acc.take (512 * upc))
     let go (upc g : Nat) (f : State → Part → Bool) : Bool :=
       runningPart? (ploughing (p upc)) 256 == some (p upc) && aims (p upc) [g] &&
         then_ (ploughing (p upc)) (.ploughRowStep ⟨256, 1⟩) (fun t => (findPart? t 80).elim false (f t))
     acc.length == 2048 &&
     [(1, 1408), (2, 1792), (3, 2176)].all (fun x => go x.1 x.2 (fun _ q => q.upc == x.1 + 1 && q.acc.length == 512 * (x.1 + 1))) &&
     go 0 1024 (fun _ q => q.upc == 1 && q.acc.length == 512) &&
     go 4 1408 (fun t q => q.wpos == 1 && t.hbm.word (512 * 1408) == good 0x3E800000) &&
     go 5 1792 (fun t _ => t.hbm.word (512 * 1792) == good 0x3D800000) &&
     go 6 1024 (fun t _ => t.hbm.word (512 * 1024) == good 0x3F600000)) = true := by
  decide +kernel

/-- R141, R156, R272: a scaled row added, an element with a bad operand; an accumulated sum starts from the row it finds. -/
theorem witness_rows :
    (let row := [good 0x40000000, poison (good 1)] ++ List.replicate 510 (good 0)
     let out := nbsaRow 0x3F000000 row (List.replicate 512 (good 0x3F800000))
     out.length == 512 && out.take 2 == [good 0x40000000, poison (good 0x3F800000)] && out.getD 511 (good 0) == good 0x3F800000 &&
     pairTime (1408, 25984) == 1 && pairTime (1408, 1024) == 2 && (good 0).check == 0xED &&
     (let q := { part (.cross [(1025, 1408)]) 0 [] with id := 81, wpos := 3 }
      pairTaken { ploughing (part (.cross [(1025, 1408)]) 0 []) with parts := [part (.cross [(1025, 1408)]) 0 [], q] } (part (.cross [(1025, 1408)]) 0 []) &&
        !pairTaken (ploughing (part (.cross [(1025, 1408)]) 0 [])) (part (.cross [(1025, 1408)]) 0 []))) = true := by
  decide +kernel

/-- A matrix operation of lane 0 on tile 0. -/
def mxOp (k : MxKind) (start end_ : Option Nat) : MxOp :=
  { id := 90, warp := 4, pc := 0, order := 0, tile := 0, mask := 1, lane := 0, kind := k,
    plane := false, spans := [], olds := [], reg := List.replicate 32 0x40000000, started := start, ended := end_ }

def matrix (o : MxOp) (core : CoreSt) : State :=
  { lab waiting with mx := [⟨0, o⟩], cores := [(0, core)], acc := [(0, 0x3F800000), (1, 0x40000000)],
                     store := base.store.setWords (storeKey 0 false 0xE0000) [good 5, good 6] }

/-- R198, R279, R283 to R286, R333: starts of both units, warm and idle; the end of each operation; the counter's fall. -/
theorem witness_matrix_events :
    (let warm : CoreSt := { CoreSt.dflt with arrayRan := some 900 }
     let fresh (k : MxKind) : MxOp := mxOp k none none
     let starts (s : State) (side : Bool) (i : Instr) : Bool :=
       (nextMx? s 0 side).elim false (fun o => !tileBusy s 0 o) && !unitBusy s 0 side &&
         then_ s i (fun t => t.mx.map (fun e => e.op.started) == [some s.cycle])
     let idle : State := { matrix (fresh .acz) CoreSt.dflt with cycle := 8 * 24 * 5 }
     let s (k : MxKind) : State := { matrix (mxOp k (some 0) none) CoreSt.dflt with cycle := 100000 }
     let ends (k : MxKind) (f : State → List Word → Bool) : Bool :=
       (s k).store.wf && tsorted (s k).acc && (mxBad? (s k) 0 (mxOp k (some 0) none)).isNone && decide (k.cycles ≤ (s k).cycle) &&
         then_ (s k) (.matrixOperationFinishes 0 k.side) (fun t => t.mx.map (fun e => e.op.ended) == [some 100000] && f t (accRow t 0 0 0))
     starts (matrix (fresh .acz) warm) false (.matrixOperationStart 0 false) &&
     starts (matrix (fresh (.acsc 3)) CoreSt.dflt) true (.matrixOperationStart 0 true) &&
     arrayIdle idle 0 && idle.cycle / 8 % 24 == 0 && starts idle false (.arrayStaggeredStart 0) &&
     ends .acz (fun _ r => r == List.replicate 64 0) &&
     ends (.acld 0xE0000) (fun _ r => r.take 3 == [5, 6, 0]) &&
     ends (.acst 0xE1000) (fun t _ => t.store.word (storeKey 0 false 0xE1000) == good 0x3F800000) &&
     ends (.tdrn .f32 0xE1000 0) (fun t _ => t.store.word (storeKey 0 false 0xE1004) == good 0x40000000) &&
     ends (.acmx 8) (fun t _ => regWord t (warpOf t) (regBank t (warpOf t)) (vKey 8 0) == 0x40000000) &&
     ends (.acsc 3) (fun _ r => r.take 3 == [0x40000000, 0x40800000, 0]) &&
     (let k : MxKind := .mma .bf16 0xE0000 0xE4000 []
      (mxBad? (s k) 0 (mxOp k (some 0) none)).isNone && decide (k.cycles ≤ (s k).cycle)) &&
     (let k : MxKind := .acex 3
      (mxBad? (s k) 0 (mxOp k (some 0) none)).isNone && decide (k.cycles ≤ (s k).cycle)) &&
     then_ (matrix (mxOp .acz (some 900) (some 992)) warm) (.mxCounterFall 90) (fun t => t.mx == [] && (warpOf t).ctrs.mx == 0)) = true := by
  decide +kernel

/-- One BF16 product of tile 0, and a drain of its row 0 to MXE4M3. -/
def mmaKind : MxKind := .mma .bf16 0xE0000 0xE4000 []
def drainKind : MxKind := .tdrn .mxe4m3 0xE1000 0xE8000
def matrixRun (k : MxKind) : State := { matrix (mxOp k (some 0) none) CoreSt.dflt with
  cycle := 100000, store := (base.store.setWord (storeKey 0 false 0xE0000) (good 0x3F80)).setWord (storeKey 0 false 0xE4000) (good 0x4000) }

theorem witness_matrix_runs : [mmaKind, drainKind].all (fun k => (matrixRun k).store.wf && tsorted (matrixRun k).acc &&
    (matrixRun k).accUpsets.isEmpty && quadRuns (matrixRun k) 0 && (mxBad? (matrixRun k) 0 (mxOp k (some 0) none)).isNone &&
    decide (k.cycles ≤ (matrixRun k).cycle)) = true := by
  decide +kernel

/-- R198, R280: 1.0 + 1.0 * 2.0. -/
theorem witness_mma_result : then_ (matrixRun mmaKind) (.matrixOperationFinishes 0 mmaKind.side) (fun t =>
    (accRow t 0 0 0).take 3 == [0x40400000, 0x40000000, 0]) = true := by
  decide +kernel

/-- R189: the codes 0x70 and 0x78 and the scale 2^-7 of 1.0 and 2.0. -/
theorem witness_drain_result : then_ (matrixRun drainKind) (.matrixOperationFinishes 0 drainKind.side) (fun t =>
    t.store.word (storeKey 0 false 0xE1000) == good 0x7870 && t.store.word (storeKey 0 false 0xE8000) == good 0x78 &&
      (accRow t 0 0 0).take 2 == [0x3F800000, 0x40000000]) = true := by
  decide +kernel

def copy4 (ws : List Word) (done : Nat) : Copy :=
  { id := 71, warp := 4, seq := 0, quad := 0, kind := .cpt, layout := layoutOf ws, base := 0x200000, rows := [], core := 0, store := 0xE0000,
    notify := .word (storeKey 0 false 0xE1000), done := done, total := 2, seg := 0, moved := [], state := .running, held := false, notices := [] }

def copying (k : Copy) : State :=
  { lab { waiting with latestCopy := 71 } with copies := [k], hbm := base.hbm.setWords 0x80000 [good 5, good 6],
                                                store := base.store.setWords (storeKey 0 false 0xE0000) [good 8, good 9] }

def placed? (r : Places) : Option (List Nat) :=
  match r with
  | .ok l => some (l.map (fun p => p.2.pa))
  | .fail _ _ | .wait => none

/-- R289 to R292: rows in both directions, an address without a page, completion. -/
theorem witness_copy_events :
    (let out := rowOut.set 0 0x10004000 |>.set 9 0x20002 |>.set 10 16
     let k := copy4 rows2 0
     let o := copy4 out 0
     let at_ (k : Copy) : List DWord := (((List.range 4).map (k.elem 0)).map Elem.addrs).flatten
     let gone : State := { copying k with partitions := [(0, { programPartition with ctx0 := { programCtx with ranges := [] } })] }
     findCopy? (copying k) 71 == some k && k.layout.valid 0 == 4 && !k.padRow 0 &&
     placed? (placesOf (copying k) 384 0 false false (at_ k)) == some [0x200000, 0x200004, 0x200008, 0x20000C] &&
     then_ (copying k) (.copyRow ⟨71, []⟩) (fun t => t.copies.map (·.done) == [1] && (warpOf t).rowprog == 0x40000001 &&
       t.store.word (storeKey 0 false 0xE0000) == good 5 && t.store.word (storeKey 0 false 0xE0004) == good 6) &&
     o.layout.toGlobal && placed? (placesOf (copying o) 384 0 false true (at_ o)) == some [0x200000, 0x200004, 0x200008, 0x20000C] &&
     then_ (copying o) (.copyRow ⟨71, []⟩) (fun t => t.copies.map (·.done) == [1] && t.hbm.word 0x80000 == good 8 && t.hbm.word 0x80001 == good 9) &&
     (match placesOf gone 384 0 false false (at_ k) with
      | .fail _ (.fault _) => true
      | _ => false) &&
     then_ gone (.copyRow ⟨71, []⟩) (fun t => t.copies.map (fun k => (k.done, k.state == .running)) == [(0, false)] && (getPartition t 0).recs.map (·.type) == [1]) &&
     injected (copying (copy4 rows2 2)) [] && notifyHere (copying k) 4 k.notify &&
     then_ (copying (copy4 rows2 2)) (.copyCompletes 71) (fun t => t.copies == [] && (warpOf t).ctrs.cp == 0 && t.store.word (storeKey 0 false 0xE1000) == good 1)) = true := by
  decide +kernel

/-- R289, R292: the second word of a row alone, then what is left of the row; one word of a row to global memory. -/
theorem witness_copy_words :
    (let k := copy4 rows2 0
     let half := { k with seg := 1, moved := [1] }
     let o := copy4 (rowOut.set 0 0x10004000 |>.set 9 0x20002 |>.set 10 16) 0
     let pad (t : State) : List CWord := [t.store.word (storeKey 0 false 0xE0000), t.store.word (storeKey 0 false 0xE0004)]
     copyRuns (copying k) k && k.layout.xpose == false && (copying k).store.wf &&
     !placesBusy (copying k) (.engine 71) false [⟨0x200000, false⟩] && !placesBusy (copying o) (.engine 71) true [⟨0x200000, false⟩] &&
     then_ (copying k) (.copyRow ⟨71, [1]⟩) (fun t => t.copies.map (fun k => (k.done, k.seg, k.moved)) == [(0, 1, [1])] && pad t == [good 8, good 6]) &&
     then_ (copying half) (.copyRow ⟨71, []⟩) (fun t => t.copies.map (fun k => (k.done, k.seg, k.moved)) == [(1, 0, [])] && pad t == [good 5, good 9] &&
       (warpOf t).rowprog == 0x40000001) &&
     then_ (copying o) (.copyRow ⟨71, [0]⟩) (fun t => t.copies.map (fun k => (k.done, k.seg, k.moved)) == [(0, 1, [0])] &&
       t.hbm.word 0x80000 == good 8 && t.hbm.word 0x80001 == good 6)) = true := by
  decide +kernel

/-- R187, R188, R199, R288: an element of each kind: the same, KQ4 of code 15 with block code 4 and superscale 1.0, MX at scale 2
to BF16 and to E4M3, the slices of 1.0, and a tie to BF16. -/
theorem witness_copied_elements :
    ([(0, 0, 0x12345678, [], 0x12345678), (5, 1, 15, [4, 0, 0, 0x80, 0x3F], 0x4080), (5, 1, 0, [4, 0, 0, 0x80, 0x3F], 0xC080),
      (6, 1, 0x38, [128], 0x4000), (7, 3, 2, [128], 0x40), (7, 1, 2, [255], 0x7FC0), (0, 9, 0x3F800000, [], 0x3F80),
      (0, 10, 0x3F800000, [], 0), (0, 1, 0x3F808000, [], 0x3F80)] : List (Nat × Nat × Nat × List Nat × Nat)).all (fun p =>
        copyElem p.1 p.2.1 p.2.2.1 p.2.2.2.1 == p.2.2.2.2 && copiedElem p.1 p.2.1 p.2.2.1 p.2.2.2.1 == p.2.2.2.2) = true := by
  decide +kernel

/-- R276, R289: four rows of four elements, transposed; of two bands the last row is not there. -/
theorem witness_transposed_copy :
    (let k := { copy4 (rowIn.set 0 0x6000 |>.set 9 0x40004 |>.set 10 16) 0 with total := 4 }
     let s (k : Copy) : State := { copying k with hbm := base.hbm.setWords 0x80000 ((List.range 16).map (fun i => good (BitVec.ofNat 32 (i + 1)))) }
     let short : State := { s k with partitions := [(0, { programPartition with ctx0 := { programCtx with
       ranges := [(0, { base := 0x1F0000, limit := 0x210000, pbase := 0x1F0000, ctl := 0x51 })] } })] }
     let at_ (t : State) (i r : Nat) : CWord := t.store.word (storeKey 0 false (0xE0000 + 32 * i + 4 * r))
     copyRuns (s k) k && k.layout.xpose && k.layout.rowElems == 4 && segmentOf (s k) k waiting == 4 && k.pieces 4 == List.range 16 &&
     k.pieceElems 4 6 == [(2, 1, 0)] && k.pieceAddr 4 6 == k.storeAddr 2 1 && (k.elem 2 1).va == 0x200024 &&
     segmentOf short { k with base := 0x20FFD0 } waiting == 3 &&
     (match placesOf short 384 0 false false ({ k with base := 0x20FFD0 }.rowAddrs 3) with
      | .fail _ _ => true
      | _ => false) &&
     then_ (s k) (.copyRow ⟨71, []⟩) (fun t => t.copies.map (·.done) == [4] && (List.range 4).all (fun i => (List.range 4).all (fun r =>
       at_ t i r == good (BitVec.ofNat 32 (4 * r + i + 1))))) &&
     then_ { short with copies := [{ k with base := 0x20FFD0, seg := 4, moved := [0] }] } (.copyRow ⟨71, []⟩) (fun t =>
       t.copies.map (fun k => (k.done, k.seg, k.moved, k.state)) == [(0, 0, [], .running)]) &&
     then_ (s k) (.copyRow ⟨71, [6]⟩) (fun t => t.copies.map (fun k => (k.done, k.seg, k.moved)) == [(0, 4, [6])] && at_ t 1 2 == good 10)) = true := by
  decide +kernel

/-- R292, R347, R359: a row whose page may not be written, one outside the partition's ranges. -/
theorem witness_copy_stops :
    (let k := copy4 (rowOut.set 0 0x10004000 |>.set 9 0x20002 |>.set 10 16) 0
     let s (ranges : Tab (Word × Word × Bool)) (ctl : Word) : State := { copying k with partitions := [(0, { programPartition with
       pranges := ranges, ctx0 := { programCtx with ranges := [(0, { base := 0, limit := BitVec.ofNat 64 hbmEnd, pbase := 0, ctl := ctl })] } })] }
     let ro := s programPartition.pranges 0x59
     let out := s [] 0x51
     (match placesOf ro 384 0 false true [0x200000], placesOf out 384 0 false true [0x200000] with
      | .fail _ (.prot _), .fail _ (.freeze _ _ _) => true
      | _, _ => false) &&
     then_ ro (.copyRow ⟨71, []⟩) (fun t => t.copies == [] && (warpOf t).ctrs.cp == 0 && (warpOf t).rowprog == 0xC0000000 &&
       (warpOf t).reports == [⟨.cp, 0x06, 0, none⟩] && (getPartition t 0).recs.map (·.type) == [2]) &&
     then_ out (.copyRow ⟨71, []⟩) (fun t => t.copies.map (fun k => (k.done, k.state == .running)) == [(0, false)] &&
       (getPartition t 0).recs.map (·.type) == [4])) = true := by
  decide +kernel

def coll2 (kind : Nat) : Coll :=
  { id := 72, warp := 4, seq := 0, kind := kind, group := 0, tag := 7, root := 0, count := 2, rank := 0, np := 2, src := 0x200000, dst := 0x280000,
    notify := .word (storeKey 0 false 0xE1000), block := 0, mismatch := false, failed := false, state := .running, issuer := issuerOf base labWarp, notices := [] }

/-- R202, R294 to R296: a sum of two ranks, a failed peer, a peer that differs, the ends. -/
theorem witness_collective_events :
    (let s (k : Coll) : State := { lab waiting with colls := [k], hbm := base.hbm.setWords 0x80000 [good 0x3F800000, good 0x40000000] }
     let p : CollPeer := ⟨1, 0, 2, 0, [good 0x40000000, good 0x40000000]⟩
     let k := coll2 0
     let ended : Coll := { k with block := 1 }
     collRuns (s k) k && peersComplete k [p] && !peerDiffers k p &&
     placed? (placesOf (s k) 480 0 false false ((k.srcOffs.map (k.run k.src)).flatten)) == some [0x200000, 0x200004] &&
     placed? (placesOf (s k) 480 0 false true ((k.dstOffs.map (k.run k.dst)).flatten)) == some [0x280000, 0x280004] &&
     then_ (s k) (.collectiveBlock 72 [p]) (fun t => t.colls.map (·.block) == [1] && t.hbm.word 0xA0000 == good 0x40400000 && t.hbm.word 0xA0001 == good 0x40800000) &&
     then_ (s k) (.collectiveBlock 72 [{ p with op := 4 }]) (fun t => t.colls == [] && (warpOf t).ctrs.cp == 0 && t.store.word (storeKey 0 false 0xE1000) == good 0xFFFFFFFF) &&
     peerDiffers k { p with count := 3 } &&
     then_ (s k) (.collectiveBlock 72 [{ p with count := 3 }]) (fun t => t.colls.map (·.mismatch) == [true]) &&
     notifyHere (s k) 4 k.notify &&
     then_ (s { k with failed := true }) (.collectiveCompletes 72) (fun t => t.colls == [] && t.store.word (storeKey 0 false 0xE1000) == good 0xFFFFFFFF) &&
     then_ (s { k with mismatch := true }) (.collectiveCompletes 72) (fun t => t.colls == [] && (warpOf t).ctrs.cp == 0) &&
     collLost (s { k with failed := true }) { k with failed := true } && !collLost (s ended) ended && delivered (s ended) [] && then_ (s ended) (.collectiveCompletes 72) (fun t => t.colls == [] && t.store.word (storeKey 0 false 0xE1000) == good 1)) = true := by
  decide +kernel

/-- R202, R295: sums with a NaN, with infinities, with a poisoned word and of a small word beside a large one; the blocks of the
other collectives; a source without a page. -/
theorem witness_collective_blocks :
    (let s (k : Coll) : State := { lab waiting with colls := [k], hbm := base.hbm.setWords 0x80000 [good 1, good 2, good 3, good 4] }
     let k := { coll2 1 with notify := .none }
     let gone : State := { s k with partitions := [(0, { programPartition with ctx0 := { programCtx with ranges := [] } })] }
     let moved (kind root op : Nat) (f : List CWord → Bool) : Bool :=
       let k := { k with kind := kind, root := root }
       let p : CollPeer := ⟨1, op, 2, root, [good 8, good 9]⟩
       peersComplete k [p] && !peerDiffers k p && then_ (s k) (.collectiveBlock 72 [p]) (fun t =>
         t.colls.map (·.block) == [1] && f ((List.range 4).map (fun i => t.hbm.word (0xA0000 + i))))
     let one (xs : List CWord) : List CWord := cardBlock 1 (xs.map (fun x => [x]))
     one [good 0x7FC00000, good 0] == [good 0x7FC00000] && one [good 0xFF800000, good 0x7F800000] == [good 0x7FC00000] &&
     one [good 0xFF800000, good 0x40000000] == [good 0xFF800000] && one [good 0x3F800000, poison (good 0x3F800000)] == [poison (good 0x40000000)] &&
     one [good 0, good 0x80000000] == [good 0] && one [good 0x3F800000, good 0x2B000000, good 0xBF800000] == [good 0] &&
     moved 1 0 1 (· == [good 1, good 2, good 8, good 9]) && moved 2 0 2 (· == [good 1, good 2, good 8, good 9]) &&
     moved 3 0 3 (fun l => l.take 2 == [good 1, good 2]) && moved 3 1 3 (fun l => l.take 2 == [good 8, good 9]) &&
     (match placesOf gone 480 0 false false [0x200000] with
      | .fail _ (.fault _) => true
      | _ => false) &&
     then_ gone (.collectiveBlock 72 [⟨1, 1, 2, 0, [good 8, good 9]⟩]) (fun t => t.colls.map (fun k => (k.block, k.state == .running)) == [(0, false)] &&
       (getPartition t 0).recs.map (·.type) == [1])) = true := by
  decide +kernel

/-- A soft operation of the warp over slot 3, and its region. -/
def softY (k : SoftKind) : SoftOp :=
  { kind := k, issuer := issuerOf base labWarp, handle := 2, desc := soft4, mask := 0xFFFFFFFF, list := [(3, 0x40000000)], dense := false,
    places := [(0x200030, false)], homes := [256], inAddr := 0xDFF80, outAddr := 0, vals := [1, 2, 3, 4], u := 0, count := 6, epoch := 0,
    staged := 0, gw := [], gv := [], gvFlags := 0, gvBad := none }

def region1 : Region := { base := 0x200000, part := 0, ctx := false, epoch := 0, bad := false, arrivals := [], overflows := [] }

/-- Slot 3 holds 2.0 and 1.0; the wake buffer has the header of a region before its first commit. -/
def softState (k : SoftKind) (d : SoftDesc) : State :=
  { lab waiting with ops := [{ inFlight (.soft { softY k with desc := d }) (some .sf) none false with words := [] }], regions := [region1],
                     hbm := (base.hbm.setWords 0x8000C [good 0x40000000, good 0x3F800000]).setWords 0x88000 [good 0, good 0xFFFFFFFF, good 64, good 0] }

def arrival1 : Arrival := { op := 70, warp := 4, epoch := 0, rev := false, desc := soft4, handle := 2 }

/-- R120 to R124, R129, R136: a staged entry, an arrival that waits for a second party, the words of a commit and its end, SLD. -/
theorem witness_soft_events :
    (let c (todo : List (Nat × Bool × CWord)) : Commit :=
       { id := 75, arrivals := [arrival1], failed := some 3, flags := [(4, flNX)], results := [], notices := [], region := 0x200000, stride := 16, todo := todo, lines := [0x4000] }
     let st (todo : List (Nat × Bool × CWord)) : State := { softState (.scmt false) soft4 with commits := [c todo] }
     let two : List (Nat × Bool × CWord) := [(0x200030, false, good 9), (0x200034, false, good 8), (0x200040, false, good 7)]
     SoftKind.stages .sst && (findRegion? (softState .sst soft4) 0x200000).isSome &&
     then_ (softState .sst soft4) (.softEntryStaged 70) (fun t => t.staged.map (fun e => (e.slot, e.weight, e.vals, e.count, e.home)) ==
       [(3, 0x3F800000, [good 1, good 2, good 3, good 4], 6, 256)] && t.ops == [] && (warpOf t).ctrs.sf == 0) &&
     !scmtWaits (softState (.scmt false) { soft4 with parts := 2 }) (inFlight (.soft (softY (.scmt false))) none none false) (softY (.scmt false)) &&
     then_ (softState (.scmt false) { soft4 with parts := 2 }) (.commitArrival 70) (fun t => t.regions.map (fun r => r.arrivals.map (·.warp)) == [[4]] && t.ops.map (·.accepted) == [true]) &&
     (c two).next? 0x200040 == some (0x200040, false, good 7) && !placesBusy (st two) (.engine 75) false [⟨0x200040, false⟩] &&
     then_ (st two) (.scmtCompletes ⟨75, 0x200040⟩) (fun t => t.hbm.word 0x80010 == good 7 && t.commits.map (fun c => c.todo.map (·.1)) == [[0x200030, 0x200034]]) &&
     then_ (st two) (.scmtCompletes ⟨75, 0x200034⟩) (fun t => t.hbm.word 0x8000C == good 9 && t.commits.map (fun c => c.todo.map (·.1)) == [[0x200034, 0x200040]]) &&
     delivered (st []) [] && then_ (st []) (.scmtCompletes ⟨75, 0⟩) (fun t => t.commits == [] && t.ops == [] && (warpOf t).ctrs.sf == 0 && (warpOf t).flags == flNX &&
       (warpOf t).reports.map (fun r => (r.cause, r.tval)) == [(0x0D, 0x30000002)]) &&
     !placesBusy (softState .sld soft4) (.engine 70) false (softY .sld).slotPlaces && (sldBad? (softState .sld soft4) (softY .sld)).isNone &&
     then_ (softState .sld soft4) (.loadValueLands 70 []) (fun t => t.ops == [] && (warpOf t).ctrs.sf == 0 &&
       regWord t (warpOf t) (regBank t (warpOf t)) (vKey 8 0) == 0x40800000 && regWord t (warpOf t) (regBank t (warpOf t)) (vKey 8 1) == 0x40000000)) = true := by
  decide +kernel

/-- A store of 3.0, 1.0, 0, 0 into slot 3 with weight 0.5, of the warp's key with SQ 0. -/
def entry1 (k : SoftKind) : Staged :=
  { region := 0x200000, home := 256, kind := k, teamlin := 0, warpIndex := 0, count := 0, pos := 0, slot := 3, weight := 0x3F000000, clamped := false,
    vals := [good 0x40400000, good 0x3F800000, good 0, good 0], epoch := 0, op := 70, warp := 4 }

def work1 (s : State) : Work := { s := s, part := 0, ctx := false, cur := [], slots := [], flags := [], poisoned := [], corrupt := [], tables := [] }

/-- The state once that store has been committed: its frame and record, the slot at 2.5 and 1.0, a gradient of 1.0. -/
def softAfter (k : SoftKind) : State :=
  let old (j : Nat) : CWord := [good 0x40000000, good 0x3F800000].getD j (good 0)
  let h := ((softState k soft4).hbm.setWords 0x88000 [good 2, good 0, good 64, good 1]).setWords 0x8000C [good 0x40200000, good 0x3F800000]
  { softState k soft4 with
    hbm := ((h.setWords 0x88010 ((List.range 16).map (frameRecord (good 0xFFFFFFFF) (good 0) 1))).setWords 0x88020
      ((List.range 16).map (storeRecord soft4 (entry1 .sst) old))).setWords 0x8400C [good 0x3F800000] }

/-- Where record x of the wake buffer stands, every address being its own translation. -/
def wakeAt (x j : Nat) : Place := ⟨(wakeVa soft4 x j).toNat, false⟩

/-- R126: the records of the wake buffer. -/
theorem witness_records : RecordAt (work1 (softState .sst soft4)) soft4 0 (wakeAt 0) ∧
    RecordAt (work1 (softState .sst soft4)) soft4 1 (wakeAt 1) ∧ RecordAt (work1 (softAfter .ssta)) soft4 0 (wakeAt 0) ∧
    RecordAt (work1 (softAfter .ssta)) soft4 1 (wakeAt 1) := by
  refine ⟨⟨?_, ?_⟩, ⟨?_, ?_⟩, ⟨?_, ?_⟩, ⟨?_, ?_⟩⟩ <;> decide +kernel

/-- R124 to R127: the last arrival begins the commit: 2.0 + 0.5 * (3.0 - 2.0) = 2.5, the frame, the record, the header. -/
theorem witness_commit_begins :
    (let s : State := { softState (.scmt false) soft4 with staged := [entry1 .sst] }
     let k := commitWork s region1 [arrival1] arrival1 [entry1 .sst]
     let word (p : Place) : CWord := k.1.read p
     k.2 == none && k.1.read ⟨0x200030, false⟩ == good 0x40200000 && k.1.read ⟨0x200034, false⟩ == good 0x3F800000 &&
     (List.range 16).all (fun j => word (wakeAt 0 j) == frameRecord (good 0xFFFFFFFF) (good 0) 1 j) &&
     (List.range 16).all (fun j => word (wakeAt 1 j) == storeRecord soft4 (entry1 .sst) (fun i => [good 0x40000000, good 0x3F800000].getD i (good 0)) j) &&
     word ⟨0x220000, false⟩ == good 2 && word ⟨0x220004, false⟩ == good 0 && word ⟨0x22000C, false⟩ == good 1 &&
     !scmtWaits s (inFlight (.soft (softY (.scmt false))) none none false) (softY (.scmt false)) &&
     !placesBusy (setRegion s { region1 with arrivals := [arrival1] }) (.engine 70) true (k.1.cur.map (·.1)) &&
     then_ s (.commitArrival 70) (fun t => t.staged == [] && t.hbm.word 0x8000C == good 0x40000000 && t.hbm.word 0x88000 == good 2 &&
       t.commits.map (fun c => (c.failed, c.todo.map (fun x => (x.1, x.2.2)))) ==
         [(none, [(0x200030, good 0x40200000), (0x200034, good 0x3F800000), (0x200038, good 0), (0x20003C, good 0)])])) = true := by
  decide +kernel

/-- R132: an adjoint commit: SLDA adds 0.5 * 3.0 to the gradient; the record gives the slot its old words, 1.0 - 0.5 * 1.0 stays of
the gradient, and the SSTA of its key gets the sum of (v - s) * g, 1.0, and 0.5 * g. -/
theorem witness_adjoint_commit :
    (let s := softAfter .ssta
     let k := work1 s
     let grad : Place := ⟨0x210030, false⟩
     let given (t : State) : Option (CWord × Word) := (findOp? t 70).bind (fun o => match o.kind with
       | .soft y => some (tget y.gw 0 (good 0), wordAt y.gv 0)
       | _ => none)
     ((applySlda k soft4 (entry1 .slda)).toOption.map (fun v => v.read grad)) == some (good 0x40200000) &&
     (match adjointCommit k soft4 [] [entry1 .ssta] with
      | .ok v => v.read grad == good 0x3F000000 && v.read ⟨0x200030, false⟩ == good 0x40000000 && v.read ⟨0x200034, false⟩ == good 0x3F800000 &&
          v.read ⟨0x220000, false⟩ == good 0 && v.read ⟨0x220004, false⟩ == good 0xFFFFFFFF && given v.s == some (good 0x3F800000, 0x3F000000)
      | .error _ => false) &&
     (match adjointCommit (work1 (softState .ssta soft4)) soft4 [] [entry1 .ssta] with
      | .ok v => v.cur == []
      | .error _ => false) &&
     sstaFor? s [entry1 .ssta] 0 0 0 == some 70 && tsorted (softY .ssta).gw &&
     (forwardCommit k { soft4 with wbase := 0x220000 } (good 1) (List.replicate 62 (entry1 .sst))).toOption.isNone) = true := by
  decide +kernel

/-- R133, R136: what makes a commit fail: an overflow, a forward commit with an adjoint's entry, no room. -/
theorem witness_commit_fails :
    (let k (r : Region) (es : List Staged) : Option Nat := (commitWork (softState (.scmt false) soft4) r [arrival1] arrival1 es).2
     k { region1 with overflows := [0] } [] == some 1 && k region1 [entry1 .slda] == some 3 && k region1 (List.replicate 64 (entry1 .sst)) == some 2 &&
       k region1 [] == none) = true := by
  decide +kernel

/-- R120, R130, R134, R135: SLD with flags and with a bad word, SLDA's gradient, SHRD in its modes, SNRM. -/
theorem witness_soft_landings :
    (let with_ (k : SoftKind) (f : SoftOp → SoftOp) (words : List CWord) : State :=
       { lab waiting with ops := [{ inFlight (.soft (f (softY k))) (some .sf) none false with words := [] }], regions := [region1],
                          hbm := base.hbm.setWords 0x8000C words }
     let ends (s : State) (f : State → Bool) : Bool := then_ s (.loadValueLands 70 []) (fun t => t.ops == [] && (warpOf t).ctrs.sf == 0 && f t)
     let sReg (t : State) (k : Nat) : Word := regWord t (warpOf t) (regBank t (warpOf t)) (sKey k)
     let three := [good 0x40400000, good 0x3F800000]
     let tenth (y : SoftOp) : SoftOp := { y with list := [(3, 0x3DCCCCCD)] }
     let many (l : List (Nat × Word)) (u : Word) (y : SoftOp) : SoftOp := { y with list := l, u := u, places := l.map (fun _ => (0x200030, false)) }
     let picks (m : ShrdMode) (a : Bool) (l : List (Nat × Word)) (u : Word) (fl : Word) (v : List Word) : Bool :=
       ends (with_ (.shrd m a) (many l u) three) (fun t => (warpOf t).flags == fl && v.zipIdx.all (fun p => sReg t (8 + p.2) == p.1))
     let l3 : List (Nat × Word) := [(5, 0x3F800000), (2, 0x3F800000), (4, 0x7FC00000)]
     let weights (x : Bool) (l : List Word) (fl : Word) (v : List Word) : Bool :=
       ends (with_ (.snrm x) (many (l.map (fun w => (3, w))) 0) three) (fun t => (warpOf t).flags == fl &&
         v.zipIdx.all (fun p => t.store.word (storeKey 0 false (0xDFF80 + 8 * p.2 + 4)) == good p.1))
     !placesBusy (with_ .sld tenth three) (.engine 70) false (tenth (softY .sld)).slotPlaces &&
     (sldBad? (with_ .sld tenth three) (tenth (softY .sld))).isNone &&
     ends (with_ .sld tenth three) (fun t => (warpOf t).flags == flNX) &&
     (sldBad? (with_ .sld id [good 1, poison (good 2)]) (softY .sld)).map (fun x => (x.1, x.2.1)) == some (1, 0) &&
     then_ (with_ .sld id [good 1, poison (good 2)]) (.loadValueLands 70 []) (fun t => t.teams == [] && t.ops == []) &&
     !placesBusy (with_ .slda id three) (.engine 70) false (softY .slda).slotPlaces && (with_ .slda id three).store.wf &&
     then_ (with_ .slda (fun y => { y with vals := [0x40000000, 0x3F800000, 0, 0], outAddr := 0xDFF80 }) three) (.loadValueLands 70 []) (fun t =>
       (warpOf t).ctrs.sf == 0 && t.ops.map (·.accepted) == [true] && t.store.word (storeKey 0 false 0xDFF84) == good 0x40E00000 &&
       t.store.word (storeKey 0 false 0xDFF80) == good 3) &&
     picks .max false l3 0 0 [2] && picks .max true l3 0 0 [0x200020, 0] && picks .max false [(4, 0x7FC00000)] 0 0 [0xFFFFFFFF] &&
     picks (.smp 0) false l3 0x3F000000 0 [2] && picks (.smp 0) false l3 0x3F400000 0 [5] && picks (.smp 0) false l3 0x40000000 flSCL [5] &&
     picks (.smp 0) true [(4, 0xBF800000)] 0 0 [0xFFFFFFFF, 0xFFFFFFFF] &&
     picks (.thr 0) false l3 0x3F800000 0 [2] && picks (.thr 0) false l3 0x40000000 0 [0xFFFFFFFF] &&
     weights false [0x3F800000, 0x40400000] 0 [0x3E800000, 0x3F400000] && weights true [0x40000000, 0x40000000] 0 [0x3F000000, 0x3F000000] &&
     weights false [0x3F800000, 0x7FC00000] flNV [0, 0] && weights false [0, 0] flNV [0, 0]) = true := by
  decide +kernel

/-- R129, R132, R136: a full home's staging, the gradients that a commit gives an SSTA. -/
theorem witness_soft_results :
    (let s := softState .sst soft4
     let full : State := { s with staged := List.replicate 4096 (entry1 .sst) }
     let y : SoftOp := { softY .ssta with outAddr := 0xDFF80, gw := [(0, good 5)], gv := [7, 8, 9, 10] }
     let c : Commit := { id := 75, arrivals := [], failed := none, flags := [], results := [70], notices := [], region := 0x200000, stride := 16, todo := [], lines := [] }
     let r : State := { lab waiting with ops := [{ inFlight (.soft y) (some .sf) none false with words := [] }], regions := [region1], commits := [c] }
     let key (off : Nat) : Nat := storeKey 0 false (0xDFF80 + off)
     4096 ≤ (full.staged.filter (fun e => e.home == 256)).length && s.regions.all (fun q => q.arrivals == []) &&
     then_ full (.softEntryStaged 70) (fun t => t.staged.length == 4096 && t.regions.map (·.overflows) == [[0]]) &&
     teamHere r 4 && delivered r [] && r.store.wf && y.lanes.all (fun j => (List.range 8).all (fun off => key off != regBank r waiting + vKey 8 j)) &&
     then_ r (.scmtCompletes ⟨75, 0⟩) (fun t => t.store.word (key 0) == good 3 && t.store.word (key 4) == good 5 &&
       (List.range 4).all (fun j => regWord t (warpOf t) (regBank t (warpOf t)) (vKey 8 j) == BitVec.ofNat 32 (7 + j)))) = true := by
  decide +kernel

/-! ### Events of the Sower -/

/-- A launch record of one team of one warp whose completion record goes to 0x500000, with an interrupt. -/
def record1 : List Word :=
  [0x10000, 0, 1, 1, 1, 1, 3, 0, 0, 0, 1, 0, 0, 0, 0x10000, 0, 0, 0, 0, 0, 0x500000, 0, 0, 0, 0, 0, 0, 0, 0, 0, 0, 0]

/-- The device with a queue of one record at 0x300000. -/
def queue1 (ws : List Word) : State :=
  let q : Queue := { Queue.dflt with base := 0x300000, en := true, logn := 4, tail := 1 }
  { base with partitions := [(0, { programPartition with queues := [(0, q)] })], hbm := base.hbm.setWords (0x300000 / 4) (ws.map good) }

/-- R323 to R326: a record in order and one with a must-be-zero bit set. -/
theorem witness_take :
    (let s := queue1 record1
     let bad := queue1 (record1.set 24 1)
     (getPartition s 0).en && chooseQueue s 0 == some 0 && tsorted s.partitions && tsorted (getPartition s 0).queues &&
     chooseQueue bad 0 == some 0 &&
     then_ s (.launchRecordTaken 0 []) (fun t => (getQueue (getPartition t 0) 0).head == 1 &&
       (t.grids.getLast?.map (fun g => (g.launch, g.reason, g.failed, g.r.regs, g.r.compva))) == some (0, 0, none, 8, 0x500000)) &&
     then_ bad (.launchRecordTaken 0 []) (fun t => (t.grids.getLast?.map (fun g => (g.reason, g.failed))) == some (1, some 1))) = true := by
  decide +kernel

/-- The grid of the tests with nothing placed. -/
def unplaced (f : Grid → Grid) : State := { base with warps := [], teams := [], gangs := [], grids := [f { programGrid with nextTeam := 0 }] }

/-- R329, R151: the first team of a grid, and a team of a contained gang. -/
theorem witness_placement :
    (let s := unplaced id
     let x (gang : Nat) : Relaunch := ⟨gang, [0], 1, 0, false⟩
     let r (gang : Nat) : State := unplaced (fun g => { g with nextTeam := 1, relaunches := [x gang] })
     let started (t : State) : Bool :=
       t.teams.map (fun m => (m.grid, m.lin, m.cores, m.place)) == [(1, 0, [0], .resident)] &&
         t.warps.map (fun v => (v.index, v.slot0.map (fun y => (y.pc, y.mask)), v.acquires.length)) == [(0, some (0, 0xFFFFFFFF), 1)]
     (choosePlacement s 0).map (fun p => (p.1.lin, p.1.relaunch)) == some (0, none) && s.warps.all (fun v => decide (v.uid < s.nextId)) &&
     then_ s (.teamPlacement 0) started &&
     [0, 9].all (fun k => (choosePlacement (r k) 0).map (fun p => (p.1.lin, p.1.relaunch)) == some (0, some (x k))) &&
     then_ (r 9) (.gangRelaunch 9) started && then_ (r 0) (.teamPlacement 0) started) = true := by
  decide +kernel

/-- R324 to R326: the queue whose turn it is; each reason; teams that one core holds (15 warps of 248 registers, a block of 10 KiB). -/
theorem witness_sower_choices :
    (let q (b : Nat) : Queue := { Queue.dflt with base := BitVec.ofNat 64 b, en := true, logn := 4, tail := 1 }
     let two (ws : List Word) (last : Nat) : State :=
       { base with partitions := [(0, { programPartition with lastQueue := last, queues := [(3, q 0x300000), (5, q 0x301000)] })],
                   hbm := (base.hbm.setWords (0x300000 / 4) (ws.map good)).setWords (0x301000 / 4) (record1.map good) }
     let why (ws : List Word) : Nat := recordReason (queue1 ws) 0 (q 0x300000) true ws false
     let big : LaunchRec := { programRecord with w := 15, regs := 248, scratch := 80, acc := 0, nring := 0, dstk := 0 }
     chooseQueue (two record1 3) 0 == some 5 && chooseQueue (two record1 5) 0 == some 3 && chooseQueue (two (record1.set 14 0x10010) 3) 0 == some 3 &&
     chooseQueue base 0 == none && recordReason (queue1 record1) 0 (q 0x300000) false record1 false == 1 && why record1 == 0 &&
     why (record1.set 31 1) == 1 && why (record1.set 2 0) == 2 && why (record1.set 6 7) == 3 && why ((record1.set 5 64).set 10 32) == 4 &&
     why ((record1.set 5 0x8008).set 14 8) == 5 && why ((record1.set 2 0x1000).set 14 2) == 6 &&
     why ((record1.set 10 0x2001).set 12 0x300000) == 7 && why ((record1.set 17 0x10000000).set 18 1) == 8 && why (record1.set 14 0x100) == 9 &&
     recordLimits big && coreRoom big == 1 && partRoom programPartition big == 4) = true := by
  decide +kernel

/-- R329, R335, R338: relaunches by TEAMLIN, a team of four cores, the estimator's choices. -/
theorem witness_sower_places :
    (let x (l : Nat) : Relaunch := ⟨0, [l], 0, 0, false⟩
     let g : Grid := { programGrid with nextTeam := 0, r := { programRecord with spread := true, w := 4, c := 4 } }
     let s := unplaced id
     let m (p : Nat) : Team := { programTeam with progress := p }
     let r : State := { lab labWarp with grids := [{ programGrid with r := { programRecord with relaunch := true } }] }
     (candidates (unplaced (fun g => { g with nextTeam := 1, relaunches := [x 5, x 3] })) 0).map (·.lin) == [3, 5] &&
     (spotFor s g [0, 1, 2, 3]).map (·.cores) == some [0, 1, 2, 3] && (spotFor s programGrid [1, 0]).map (·.cores) == some [0] &&
     (coreSpot s 0 false programRecord 0).isSome && shadowFree (lab labWarp) (m 128) && saveTime (lab labWarp) (m 0) == some 1600 &&
     estimate (lab labWarp) (m 128) 1000 == .drain && estimate (lab labWarp) (m 128) 999 == .save && estimate (lab labWarp) (m 0) 1600 == .save &&
     estimate r (m 0) 1600 == .discard && (residentOn (lab labWarp) 0).all (fun m => !m.halting && !m.compacting)) = true := by
  decide +kernel

def core0 (x : CoreSt) (m : Team) : State := { lab labWarp with cores := [(0, x)], teams := [m] }

/-- R51, R63, R322: a larger L1, a compaction, the two halves of a plane swap. -/
theorem witness_cores :
    (let small : CoreSt := { CoreSt.dflt with l1Units := 4 }
     let compact := { programTeam with compacting := true }
     let other := { programTeam with planes := [true] }
     let waits : State := { core0 { CoreSt.dflt with l1Units := 8 } programTeam with grids := [{ programGrid with relaunches := [⟨9, [0], 1, 0, false⟩] }] }
     let swap : CoreSt := { CoreSt.dflt with swapping := true }
     4 < 8 && 8 ≤ freeUnits (regionsOn (core0 small programTeam) 0 false) && tsorted (core0 small programTeam).cores &&
     then_ (core0 small programTeam) (.l1Resize 0 8) (fun t => (getCore t 0).l1Units == 8) &&
     then_ waits (.l1Resize 0 4) (fun t => (getCore t 0).l1Units == 4) &&
     (residentOn (core0 CoreSt.dflt compact) 0).find? (·.compacting) == some compact && !teamFrozen (core0 CoreSt.dflt compact) compact &&
     then_ (core0 CoreSt.dflt compact) (.registerCompaction 0) (fun t => t.teams == [programTeam] &&
       (getCore t 0).l1Units ≤ freeUnits (regionsOn t 0 false)) &&
     swapDue (core0 CoreSt.dflt other) 0 && then_ (core0 CoreSt.dflt other) (.planeSwap 0) (fun t => (getCore t 0).swapping) &&
     (core0 swap programTeam).warps.all quietSave && tsorted (core0 swap programTeam).cores &&
     then_ (core0 swap programTeam) (.planeSwap 0) (fun t => (getCore t 0).active && !(getCore t 0).swapping && (getCore t 0).swapped == 1000)) = true := by
  decide +kernel

/-- R335 to R339: a late launch, a save into the shadow plane, a restore, a rotation of two teams. -/
theorem witness_teams_move :
    (let late : State := { unplaced (fun g => { g with r := { g.r with dclass := 3 } }) with cycle := 10000 }
     let save := { programTeam with decision := .save, halting := true }
     let image := (imageOf (lab labWarp) programTeam 0)
     let away := { programTeam with place := .saved false, images := [image], since := 10 }
     let inBar := { labWarp with slot0 := some { labSlot with block := .bar .grid 0 false } }
     let full : State := { lab inBar with grids := [{ programGrid with r := { programRecord with ntx := 2, saveva := 0x300000 } }],
                                          partitions := [(0, { programPartition with quads := 0 })] }
     let g : Grid := { programGrid with r := { programRecord with ntx := 2, saveva := 0x300000 } }
     (late.grids.head?).elim false (fun g => g.part == 0 && g.failed.isNone && !g.requested &&
        (classTimes g.r.dclass).elim false (fun c => (waitsSince late g).elim false (fun n => decide (n + micros late c.1 < late.cycle)))) &&
     then_ late (.deadlinePreemption 0) (fun t => t.grids.map (·.requested) == [true]) &&
     shadowFree (core0 CoreSt.dflt save) save && quietSave labWarp &&
     then_ (core0 CoreSt.dflt save) (.teamSave 2) (fun t => t.teams.map (fun m => (m.place, m.halting, m.decision, m.images.map (·.core))) ==
       [(.saved false, false, .none, [0])] && t.gangs.map (·.open_) == [false]) &&
     turnOf (core0 CoreSt.dflt away) away && restorable (core0 CoreSt.dflt away) away &&
     then_ (core0 CoreSt.dflt away) (.teamRestore 2) (fun t => t.teams.map (fun m => (m.place, m.images.length, m.since)) == [(.resident, 0, 1000)]) &&
     (rotationBars g).find? (fun b => rotates full g b.1 b.2) == some (.grid, 0) && !roomNow full g .grid 0 &&
     then_ full (.gridBarrierRotation 1) (fun t => t.teams == [{ programTeam with decision := .save, halting := true, reserve := true, rotated := true }]) &&
     shadowFree full programTeam) = true := by
  decide +kernel

/-- R59, R336: a save into memory, for want of a free shadow plane; a restore that fuses an empty quad. -/
theorem witness_save_and_fuse :
    (let small : LaunchRec := { programRecord with regs := 8, acc := 0, scratch := 0, dstk := 1, saveva := 0x30FFC0 }
     let save := { programTeam with decision := .save, halting := true }
     let other := { programTeam with uid := 9, planes := [true] }
     let ctx := { programCtx with ranges := [(0, { base := 0, limit := 0x310000, pbase := 0, ctl := 0x51 })] }
     let s : State := { lab labWarp with teams := [save, other], grids := [{ programGrid with r := small }], partitions := [(0, { programPartition with ctx0 := ctx })] }
     let away := { programTeam with place := .saved false, images := [imageOf (lab labWarp) programTeam 0], since := 10 }
     let f : State := { lab labWarp with teams := [away], grids := [{ programGrid with r := { programRecord with fusel1 := true } }] }
     imageSize small == 4096 && !shadowFree s save && !teamFrozen s save && copiesAtRow s (copyInTeam s save) && s.hbm.wf &&
     !placesBusy s (.engine 2) true (savePlaces s save) && (savePlaces s save).length == 16 && (savePlaces s save).all (fun q => !ownFabric q.pa) &&
     then_ s (.teamSave 2) (fun t => (findTeam? t 2).elim false (fun m => m.place == .saved true && m.images.length == 1)) &&
     turnOf f away && restorable f away && tsorted f.quads &&
     then_ f (.teamRestore 2) (fun t => (findTeam? t 2).elim false (fun m => m.place == .resident) && (getQuad t 0).fused)) = true := by
  decide +kernel

def pod1 : Pod :=
  { part := 0, group := 5, grid := 1, rank := 0, np := 2, threads := 32, mine := [], phases := [], out := [], sent := false, gone := false,
    ranks := [], bars := [], completions := [] }

/-- R340: this member's registration, another's, a message, a completion, a phase of 48 threads. -/
theorem witness_pods :
    (let s (p : Pod) : State := { base with pods := [p] }
     let with_ (p : Pod) (i : Instr) (f : Pod → Bool) : Bool := then_ (s p) i (fun t => (findPod? t 0 5).elim false f)
     let msg := { pod1 with sent := true, out := [(2, 32, 0)], ranks := [(0, 32)] }
     let done_ := { pod1 with completions := [2] }
     let full := { pod1 with ranks := [(0, 32), (1, 16)], bars := [⟨2, 0, 32, 4, 0⟩, ⟨2, 1, 16, 0, 0⟩] }
     findPod? (s pod1) 0 5 == some pod1 && with_ pod1 (.podRegistration 0 5 0 32) (·.sent) &&
     with_ pod1 (.podRegistration 0 5 1 16) (fun p => tget? p.ranks 1 == some 16) &&
     with_ msg (.podBarrierMessage 0 5 0 2 32 0) (fun p => p.out == []) &&
     done_.completes 2 && with_ done_ (.podPhaseCompletion 0 5 2) (fun p => tget? p.phases 2 == some true) &&
     full.complete && sumOf ((full.barsOf 2).map (·.arrived)) == 48 &&
     (full.phase 2).completions == [2] && (full.phase 2).bars.all (fun b => b.arrived == 0 && b.leaving == 0)) = true := by
  decide +kernel

/-- R262, R263, R340: an arrival on a pod barrier is counted and sent; the completion releases the member's warps. -/
theorem witness_pod_barriers :
    (let u := { markBar labWarp .pod 2 false 0xFFFFFFFF false with slot0 := some { labSlot with block := .bar .pod 2 false } }
     let s (p : Pod) : State := { lab u with pods := [p] }
     let p := { pod1 with completions := [2] }
     podOf? (s pod1) 1 == some pod1 && findPod? (s pod1) 0 5 == some pod1 &&
     (findPod? (arriveBar (s pod1) programTeam .pod 2 3 1) 0 5).elim false (fun q => q.out == [(2, 3, 1)] &&
       (findPodBar q.mine 2 0).arrived == 3 && (findPodBar q.mine 2 0).leaving == 1) &&
     findPod? (s p) 0 5 == some p && p.completes 2 && (s p).teams.find? (fun u => u.grid == p.grid) == some programTeam &&
     then_ (s p) (.podPhaseCompletion 0 5 2) (fun t => (findWarp? t 4).elim false (fun v => (warpBar v .pod 2).arrived == 0 &&
       (v.slot? false).map (·.block) == some .none && v.acquires.length == 1))) = true := by
  decide +kernel

/-- R327, R356: a grid of which nothing is left, with its record at 0x500000 and an interrupt. -/
theorem witness_grid_completes :
    (let g : Grid := { programGrid with r := { programRecord with cint := true, compva := 0x500000 } }
     let s : State := { base with warps := [], teams := [], gangs := [], grids := [g] }
     gridOver s g && !placesBusy s (.engine 0) true (completionPlaces s g) && (completionPlaces s g).length == 8 &&
     then_ s (.gridCompletes 1) (fun t => t.grids == [] && t.hbm.word (0x500000 / 4) == good 0x04000000 && t.hbm.word (0x500000 / 4 + 2) == good 1000 &&
       (getPartition t 0).completed == [(0, 4)] && tget? t.interrupts 0 == some 1)) = true := by
  decide +kernel

/-! ### Events of the driver, the host and the fleet -/

/-- All quads are up. -/
def up (p : Partition) : State := { lab labWarp with quads := (List.range 96).map (fun q => (q, { powered := true, fused := false })), partitions := [(0, p)] }

/-- R351: a walk to a 2 MiB leaf at level 1 of tables at 0x400000, and one that meets an entry with V = 0 at level 4. -/
theorem witness_walks :
    (let p := { programPartition with ctx0 := { programCtx with ranges := [], ptroot := 0x400000 } }
     let table (k : Nat) : CWord := good (BitVec.ofNat 32 (0x400001 + 0x1000 * k))
     let s : State :=
       { lab labWarp with
         partitions := [(0, p)], walks := [⟨9, 0, 0, false, 0x10000, none⟩],
         hbm := (((base.hbm.setWord (0x400000 / 4) (table 1)).setWord (0x401000 / 4) (table 2)).setWord (0x402000 / 4) (table 3)).setWord (0x403000 / 4) (good 0x600013) }
     let none_ : State := { s with walks := [⟨9, 0, 0, false, 2 ^ 48, none⟩] }
     walkTables s p.ctx0 0x10000 == .page 0 (2 ^ 21) 0x600000 ⟨false, false, true, false⟩ &&
     then_ s (.pageWalk 9) (fun t => t.walks == [] && t.tlb == [⟨0, 0, false, 0, 2 ^ 21, 0x600000, ⟨false, false, true, false⟩⟩]) &&
     walkTables none_ p.ctx0 (2 ^ 48) == .fault 4 &&
     then_ none_ (.pageWalk 9) (fun t => t.walks.map (·.result) == [some (.fault 4)])) = true := by
  decide +kernel

/-- R351, R352: entries that a walk takes for bad, a 64 KiB leaf, a table at a multiple of 256. -/
theorem witness_walk_entries :
    (let s (w : CWord) (a : Nat) : State := { base with hbm := (((((base.hbm.setWord (0x400000 / 4) (good 0x401001)).setWord (0x401000 / 4) (good 0x402001)).setWord
       (0x402000 / 4) (good 0x403001)).setWord (0x403000 / 4) (good 0x404001)).setWord (0x404000 / 4) (good 0x50003)).setWord (a / 4) w }
     let walk (w : CWord) (a : Nat) : WalkOut := walkTables (s w a) { programCtx with ranges := [], ptroot := 0x400000 } 0x1234
     walk (good 0x401001) 0x400000 == .page 0 65536 0x50000 ⟨false, false, false, false⟩ && walk (good 0x401005) 0x400000 == .bad 4 &&
     walk (good 0x403) 0x400000 == .bad 4 && walk (good 0x401009) 0x400000 == .bad 4 && walk (good 0x401101) 0x400000 == .bad 4 &&
     walk (poison (good 0x401001)) 0x400000 == .bad 4 && walk (good 0x610003) 0x403000 == .bad 1 && walk (good 0x404000) 0x403000 == .fault 1 &&
     walk (good 0x404101) 0x403000 == .fault 0 && walk (good 0x404001) 0x404000 == .bad 0) = true := by
  decide +kernel

def rec1 : FaultRec := { id := 50, type := 1, src := .warp 4 false, words := [0, 0, 0x1234, 0, 0, 0, 0] }

/-- R345 to R348: a record for an empty queue with FQIE; each answer to it; a request that saves; the three invalidations. -/
theorem witness_driver :
    (let p := { programPartition with fqen := true, fqie := true, fqlogn := 4, fqbase := 0x700000, recs := [rec1] }
     let out := { programPartition with outstanding := [⟨3, rec1, none⟩] }
     let stopped := { labWarp with stop := .suspended 50 }
     let s : State := { up out with warps := [stopped] }
     let pre : State := up { programPartition with prteam := 0xFFFFFFFF }
     tsorted (up p).partitions && !p.fqFull && !placesBusy (up p) (.engine 0) true (recordPlaces p) && rec1.answered &&
     then_ (up p) (.faultRecordWrite 0) (fun t => (getPartition t 0).recs == [] && (getPartition t 0).fqtail == 1 && tget? t.interrupts 0 == some 1 &&
       t.hbm.word (0x700008 / 4) == good 0x1234 && t.hbm.word (0x70001C / 4) == good 0x01000000 && (getPartition t 0).outstanding == [⟨0, rec1, none⟩]) &&
     deviceReady s && then_ s (.fqhead 0 7) (fun t => (getPartition t 0).fqhead == 7) &&
     outstanding? s 0 3 == some rec1 && stoppedBy stopped 50 && isResident s stopped && !mxInFlight s 4 && stopped.trap.isNone &&
     [60, 61, 62, 63].all (fun j => tget? (flushWindow s stopped).upsets (regBank s stopped + sKey j) != some true) &&
     then_ s (.resumeRetry 0 3) (fun t => (getPartition t 0).outstanding == [] && findWarp? t 4 == some labWarp) &&
     then_ s (.resumeError 0 0x40000003) (fun t => (findWarp? t 4).elim false (fun u => u.stop == .running && u.trap.isSome && u.cause == 6 && u.tval == 0x1234)) &&
     then_ s (.resumeDiscard 0 0x80000003) (fun t => t.teams == [] && (getPartition t 0).outstanding == []) &&
     estimate pre programTeam (nominal pre 2000) == .save &&
     then_ pre (.prdead 0 2000) (fun t => t.teams == [{ programTeam with decision := .save, deadline := 2000, halting := true, reserve := true }]) && !teamFrozen pre programTeam && shadowFree pre programTeam &&
     [(Instr.invctlPage 0 8, InvKind.page 0 true), (.invctlContext 0 9, .ctx true), (.invctlAll 0 10, .all)].all (fun i =>
       then_ pre i.1 (fun t => (getPartition t 0).invbusy && t.invals.map (fun v => (v.kind, v.byHost)) == [(i.2, true)]))) = true := by
  decide +kernel

/-- R348: ERROR for a warp whose team is saved is kept until the warp is there again. -/
theorem witness_answer_kept :
    (let out := { programPartition with outstanding := [⟨3, rec1, none⟩] }
     let stopped := { labWarp with stop := .suspended 50 }
     let s : State := { up out with warps := [stopped], teams := [{ programTeam with place := .saved false }] }
     deviceReady s && tsorted s.partitions && outstanding? s 0 0x40000003 == some rec1 && stoppedBy stopped 50 && !isResident s stopped &&
     then_ s (.resumeError 0 0x40000003) (fun t => (getPartition t 0).outstanding == [⟨3, rec1, some 1⟩] && findWarp? t 4 == some stopped)) = true := by
  decide +kernel

/-- R304, R355, R357, R370: an invalidation of all; requests of device 3: unmapped, read, write. -/
theorem witness_driver_more :
    (let v : Inval := ⟨71, 0, .all, [], true⟩
     let s : State := { up { programPartition with invbusy := true } with invals := [v], tlb := [⟨0, 0, false, 0, 65536, 0, ⟨true, false, true, false⟩⟩] }
     let rd : FabReq := { src := 3, port := 0, addr := 0x200000, kind := .read 2 }
     let wr : FabReq := { src := 3, port := 0, addr := 0x200000, kind := .write [good 1, good 2] }
     let imp : State := { lab labWarp with partitions := [(0, { programPartition with ctx0 := { programCtx with fimp := true } })], hbm := base.hbm.setWords 0x80000 [good 5, good 6] }
     let served (s : State) (r : FabReq) (f : State → Bool) : Bool := f (fabServe s r)
     let failed (s : State) (r : FabReq) (f : State → Bool) : Bool := f (fabError s r)
     invalDue s v && then_ s (.invalidationCompletes 71) (fun t => t.tlb == [] && t.invals == [] && !(getPartition t 0).invbusy) &&
     importCtx? (getPartition (lab labWarp) 0) == none &&
     served (lab labWarp) rd (fun t => t.fabReplies.map (fun a => (a.device, a.words.length)) == [(3, 2)]) &&
     failed imp wr (fun t => t.fabReplies.map (·.words) == [[]] && t.hbm == imp.hbm) &&
     importCtx? (getPartition imp 0) == some false && !placesBusy imp (.fabric 3) false [⟨0x200000, false⟩, ⟨0x200004, false⟩] && placed? (placesOf imp 656 0 false true (fabVas imp wr)) == some [0x200000, 0x200004] &&
     served imp rd (fun t => t.fabReplies.map (·.words) == [[good 5, good 6]]) &&
     served imp wr (fun t => t.hbm.word 0x80000 == good 1 && t.fabReplies.map (·.device) == [3])) = true := by
  decide +kernel

/-- R354, R357: of devices 3 and 4 one is another device, and the event serves its requests. -/
theorem witness_fabric_requests (k : FabKind) (h : k ∈ [FabKind.read 2, .write [good 1, good 2]]) :
    ∃ src ∈ [3, 4], FabReq.wellFormed { src := src, port := 0, addr := 0x200000, kind := k } = true ∧
      ∀ s : State, s.fabFrozen = [] → s.lost = [] → exec (.fabricRequest { src := src, port := 0, addr := 0x200000, kind := k }) s =
        .next (fabServe s { src := src, port := 0, addr := 0x200000, kind := k }) := by
  have good_ (src : Nat) (hl : src < 1024) (hs : src ≠ Config.device.toNat) : FabReq.wellFormed { src := src, port := 0, addr := 0x200000, kind := k } = true := by
    simp only [List.mem_cons, List.not_mem_nil, or_false] at h
    rcases h with rfl | rfl <;> simp [FabReq.wellFormed, FabReq.count, hs, hl]
  have serves (src : Nat) (hb : src < 1024) (hs : src ≠ Config.device.toNat) (s : State) (hf : s.fabFrozen = []) (hl : s.lost = []) :
      exec (.fabricRequest { src := src, port := 0, addr := 0x200000, kind := k }) s =
        .next (fabServe s { src := src, port := 0, addr := 0x200000, kind := k }) := by
    show Host.Outcome.next (fabricRequest s _) = _
    rw [fabricRequest, good_ src hb hs]
    simp [hf, hl]
  by_cases hd : 3 = Config.device.toNat
  · exact ⟨4, by simp, good_ 4 (by omega) (by omega), serves 4 (by omega) (by omega)⟩
  · exact ⟨3, by simp, good_ 3 (by omega) hd, serves 3 (by omega) hd⟩

/-- R344, R356, R361: registers at both ends of the partitions, the host's writes and reads inside and outside its ranges. -/
theorem witness_host :
    (let s := up programPartition
     let h (wr : Bool) : State := { lab labWarp with partitions := [(0, { programPartition with hranges := [(0, (0, 1, true, wr))] })], hbm := base.hbm.setWords 0x80000 [good 5, poison (good 6)] }
     deviceReady s && tsorted s.partitions &&
     [0, 15].all (fun part => [0x40, 0x4C, 0x9C].all (fun o =>
       then_ s (.registerWrite true (BitVec.ofNat 24 (part * 0x10000 + o)) 0x12345678) (fun t => registerRead t true (part * 0x10000 + o) == 0x12345678))) &&
     nexts (exec (.registerWrite false 0x100000 1) s) s &&
     hostAllowed (h true) true 0x200000 && hostAllowed (h true) true 0x200004 && !hostAllowed (h false) true 0x200000 &&
     then_ (h true) (.hostWrite 0x200000 [8, 9]) (fun t => t.szl == .open_ && t.hbm.word 0x80000 == good 8 && t.hbm.word 0x80001 == good 9) &&
     then_ (h false) (.hostWrite 0x200000 [8]) (fun t => t.szl != .open_ && t.hbm == (h false).hbm) &&
     then_ (h false) (.hostRead 0x200000 2) (fun t => t.hostReply == [good 5, poison (good 6)]) &&
     then_ (lab labWarp) (.thilosLinkDown 0 7) (fun t => t.lost == [7])) = true := by
  decide +kernel

/-- R360 to R369: the registers and events of the fleet. -/
theorem witness_fleet :
    (let m (f : Mgc → Mgc) : State := { lab labWarp with mgc := f Mgc.reset }
     let fw := m (fun m => { m with fwbusy := true, fwva := 0x1000, fwlen := 1 })
     then_ base (.retire true 5) (fun t => t.mgc.retiring == some 5) &&
     then_ (m (fun m => { m with retiring := some 5, fallow := [5] })) .retirementCompletes (fun t => t.mgc.retired == [5] && t.mgc.retiring == none && t.mgc.fallow == []) &&
     then_ base (.eridx true 0) (fun t => t.mgc.erdata == [0, 0, 0, 0]) && nexts (exec .standbyPowerLoss base) { base with recorders := [] } &&
     then_ base (.attestationGo true 1) (fun t => t.mgc.attbusy) &&
     then_ (m (fun m => { m with attbusy := true, attva := 0x1001 })) .attestationDone (fun t => t.mgc.attfail && !t.mgc.attbusy) &&
     !placesBusy (m (fun m => { m with attbusy := true, attva := 0x1000 })) (.engine 0) true (placesAt 0x1000 161) &&
     then_ base (.firmwareStage true 0x31) (fun t => t.mgc.fwbusy && t.mgc.fwtype == 3) &&
     stageable fw.mgc && !placesBusy fw (.engine 0) false (placesAt 0x1000 1) && tsorted fw.mgc.fusedMin &&
     then_ { base with szl := .frozenNoRange } (.szlrel true 1) (fun t => t.szl == .open_) &&
     (let hot : State := { base with cycle := 1600000 }
      let calm : State := { m (fun m => { m with calm := 9, clockStep := 2 }) with cycle := 1600000 }
      0 + micros hot 1000 ≤ hot.cycle && then_ hot (.powerCheck 2401 50) (fun t => t.mgc.clockStep == 1 && t.mgc.lastCheck == 1600000) &&
      then_ hot (.powerCheck 0 106) (fun t => t.mgc.clockStep == 1) && micros calm 1000 ≤ calm.cycle && then_ calm (.powerCheck 0 99) (fun t => t.mgc.clockStep == 1 && t.mgc.calm == 0)) &&
     then_ base (.trip true 116) (fun t => t.mgc.trip && !(getQuad t 0).powered) && then_ base (.trip false 654) (fun t => t.mgc.trip) && then_ base (.trip false 696) (fun t => t.mgc.trip) &&
     [0, 1, 2, 3].all (fun c => then_ base (.reset c) (fun t => t.cycle == 0 && t.warps == [] && t.quads == [] && t.hbm == if c == 0 then Mem.empty else base.hbm)) &&
     then_ { base with cycle := 304000, quads := (List.range 95).map (fun q => (q, { powered := true, fused := false })) } (.quadPowerUp 95) (fun t => (getQuad t 95).powered)) = true := by
  decide +kernel

/-- R368: whatever the KRT's verdict and the fused minimum, one of the cases of the statement is there. -/
theorem witness_verdict (s : State) (ws : List CWord) :
    Config.imageVerdict 0 ws = none ∨ (∃ x, Config.imageVerdict 0 ws = some x ∧ x.1 < fusedMinimum (raiseFused s).mgc 0) ∨
      ∃ x, Config.imageVerdict 0 ws = some x ∧ fusedMinimum (raiseFused s).mgc 0 ≤ x.1 := by
  cases Config.imageVerdict 0 ws with
  | none => exact .inl rfl
  | some x => exact .inr ((lt_or_ge x.1 (fusedMinimum (raiseFused s).mgc 0)).imp (fun h => ⟨x, rfl, h⟩) (fun h => ⟨x, rfl, h⟩))

/-! ### Conversions, encodings, steps and invariants -/

/-- R193, R247: integer and float sources of a conversion to i8: beyond both ends, a NaN, an infinity, an inexact value;
a format whose every value, a NaN among them, is a hypothesis of the rounding statement. -/
theorem witness_conversions :
    (fmtInt? .i8 == some (8, true) && fmtInt? .n16 == some (16, false) && fmtInt? .f32 == none &&
     cvtElem .i8 .n16 .rne none 200 == (127, flCVS) && cvtElem .i8 .n16 .rne none 127 == (127, 0) &&
     srcFp .f32 0x7FC00000 == .nan false && (cvtElem .i8 .f32 .rne none 0x7FC00000) == (0, flNV) &&
     srcFp .f32 0xFF800000 == .inf true && (cvtElem .i8 .f32 .rne none 0xFF800000) == (0xFFFFFF80, flCVS) &&
     (cvtElem .i8 .f32 .rne none 0x40200000) == (2, flNX) && (cvtElem .i8 .f32 .ru none 0x40200000) == (3, flNX) &&
     fmtE2m1.ofFp .rne (fmtE2m1.decode 7) == (7, 0) && fmtE5m2.decode 0x7D == .nan false && fmtE5m2.ofFp .rz (.nan true) == (fmtE5m2.nan, flNV)) = true := by
  decide +kernel

/-- R190 to R194: a sum that is a tie, overflows, underflows and cancels; infinities, NaNs and zeros; quotients; a conversion
by a random word; E8M0 by two modes. -/
theorem witness_rounding :
    (let one : Fp := .fin false 1 0
     let sum (m : Rnd) (l : List Fp) : Nat × Word := fmtF32.sum m l
     sum .rne [.fin false 1 24, one] == (0x4B800000, flNX) && sum .ru [.fin false 1 24, one] == (0x4B800001, flNX) &&
     sum .rne [.fin false 1 127, .fin false 1 127] == (0x7F800000, flOF ||| flNX) && sum .rz [.fin false 1 127, .fin false 1 127] == (0x7F7FFFFF, flOF ||| flNX) &&
     fmtF32.round .rne false 1 (-150) false == (0, flUF ||| flNX) && fmtF32.round .rne false 1 (-149) false == (1, 0) &&
     fmtE4m3.round .rne false 1 9 false == (0x7E, flCVS ||| flNX) &&
     sum .rne [one, .fin true 1 0] == (0, 0) && sum .rd [one, .fin true 1 0] == (0x80000000, 0) && sum .rne [.fin true 0 0, .fin true 0 3] == (0x80000000, 0) &&
     sum .rne [.inf true, .inf false] == (fmtF32.nan, flNV) && sum .rne [.nan false, one] == (fmtF32.nan, 0) && sum .rne [.inf true, one] == (0xFF800000, 0) &&
     (Fp.inf true).mul (.fin true 0 0) == .nan true && (Fp.inf true).mul (.fin true 1 0) == .inf false &&
     fmtF32.div .rne one (.fin true 0 0) == (0xFF800000, flDZ) && fmtF32.div .rne (.fin true 0 0) one == (0x80000000, 0) &&
     fmtF32.div .rne (.inf true) (.inf false) == (fmtF32.nan, flNV) && fmtF32.div .rne (.inf true) one == (0xFF800000, 0) &&
     fmtF32.div .rne one (.inf true) == (0x80000000, 0) && fmtF32.div .rne (.nan true) one == (fmtF32.nan, flNV) &&
     fmtF32.div .rne (.inf false) (.nan false) == (fmtF32.nan, 0) && cvtElem .e8m0 .f32 .rne none 1 == (0, flCVS ||| flNX) &&
     fmtF32.div .rne (.fin false 0 0) (.fin false 0 0) == (fmtF32.nan, flNV) && fmtF32.div .rne one (.fin false 3 0) == (0x3EAAAAAB, flNX) &&
     cvtElem .e4m3 .f32 .rne (some 0) 0x7F800000 == (0x7E, flCVS ||| flNX) && cvtElem .e2m1 .f32 .rne (some 0) 0x7FC00000 == (0, flNV) &&
     cvtElem .e8m0 .f32 .rz none 0x40400000 == (128, flNX) && cvtElem .e8m0 .f32 .ru none 0x40400000 == (129, flNX) &&
     cvtElem .e8m0 .f32 .rz none 0xBF800000 == (0xFF, flNV) && cvtElem .f32 .e8m0 .rne none 0 == (0x00400000, 0)) = true := by
  decide +kernel

/-- R157 to R172: an instruction that has an encoding, and bytes that have an instruction. -/
theorem witness_encoding :
    (let i : Instr := .add ⟨.i32, some ⟨12, 3, false⟩, .v 3, .v 1, .v 2⟩
     i.wf && decide (encode i ≠ []) && encode i == [0x00000C01, 0x00800306] &&
     (match decode ([0x00000C01, 0x00800306].flatMap bytesOfWord) with
      | .ok j => j == i
      | .error _ => false)) = true := by
  decide +kernel

/-- The state that a placed ADD and a placed three-parcel SHL are fetched from, and what fetches them. -/
def placedAdd : State := State.reset.withFetchWord 64 0x0080030600000C01
def placedShl : State := { placeProgram State.reset [0x84C80C01, 0, 2] with cycle := 5 }

/-- R334, R157: the scheduler picks the slot, the parcels translate, and the step counts the instruction. -/
theorem witness_step :
    (let at_ (s : State) (n : Nat) : Bool :=
       let u := advance { s with tick := 1, agenda := [], cur := none } 0
       (nextMove s == (.issue 0 0 0, [])) && !s.mgc.trip &&
         (pickSlot u 0 0).elim false (fun p =>
           let t := startIssue u p.1 p.2.1 p.2.2
           (findWarp? t p.1.uid).elim false (fun v =>
             let va (k : Nat) : Nat × DWord := (k, codeBase t v + 4 * (p.2.2.pc.setWidth 64 + BitVec.ofNat 64 k))
             (match warpXlats t v (fun _ _ => false) ((List.range n).map va) with
              | .ok l => l.map (·.2.2.1) == (List.range n).map (fun k => programBase + 4 * k) &&
                  formParcels (fetchWord t programBase) == n
              | _ => false)))
     at_ placedAdd 2 && at_ placedShl 3 &&
     (match step placedAdd with
      | .next t => (warpOf t).cnt == 1 && ((warpOf t).slot? false).map (·.pc) == some 2
      | _ => false) &&
     (match step placedShl with
      | .next t => (warpOf t).cnt == 1 && ((warpOf t).slot? false).map (·.pc) == some 3
      | _ => false) &&
     (pickSlot base 1 0).isNone && nextMove { base with agenda := [.issue 0 1 0] } == (.issue 0 1 0, []) &&
     nextMove { base with agenda := [.event 1 .towpathInv] } == (.event 1 .towpathInv, []) && !base.mgc.trip) = true := by
  decide +kernel

/-- Steps of a state with a canonical memory that go on. -/
theorem witness_steps : base.memWf = true ∧ ∃ t, step { base with agenda := [.event 1 .towpathInv] } = .next t :=
  ⟨by decide +kernel, _, rfl⟩

/-- R370: a collective whose group names the lost device. -/
theorem witness_link_down :
    (let s : State := { grouped 7 (inPad []) card8 with colls := [coll2 0] }
     collNames s (coll2 0) 7 && then_ s (.thilosLinkDown 0 7) (fun t => t.colls == [{ coll2 0 with failed := true }])) = true := by
  decide +kernel

/-- R370: the second port of a lost peer records an event of its own; an end whose group names a lost device fails. -/
theorem witness_link_down_again :
    (let s : State := { grouped 7 (inPad []) card8 with colls := [coll2 0], lost := [7] }
     collLost s (coll2 0) && then_ s (.thilosLinkDown 15 7) (fun t => t.lost == [7] && t.colls == s.colls &&
       (getRecorder t 5).entries.head? == some ⟨0x0F, 15, s.cycle, 7⟩)) = true := by
  decide +kernel

end Sys2Proof.Tests
end

section
/-! PROOF. O59: every step keeps the canonical form of every memory.

A canonical memory is one that `Mem.wf` accepts. The model changes a memory only by `Mem.setWord`, `Mem.setWords`, a
filter of its bytes and checks or a reset that empties it, and each of these keeps the form. The lemmas below carry this
upwards, one `_memWf` lemma per operation of the model that gives a state, in the order in which the model defines them:
an operation that writes no memory keeps the form by its frame, and one made of others keeps it by their lemmas.
`Eff.memWf` and its like say the same of a carrier of states, and `KeepsMem` of an outcome. -/

namespace Sys2Proof.Machine

open Sys2Proof

/-! ### Memories in canonical form -/

theorem State.memWf_iff {s : State} : s.memWf ↔ s.hbm.wf ∧ s.host.wf ∧ s.store.wf := by
  simp [State.memWf, and_assoc]

theorem hbm_wf {s : State} (h : s.memWf) : s.hbm.wf := (State.memWf_iff.mp h).1
theorem host_wf {s : State} (h : s.memWf) : s.host.wf := (State.memWf_iff.mp h).2.1
theorem store_wf {s : State} (h : s.memWf) : s.store.wf := (State.memWf_iff.mp h).2.2

theorem withHbm_memWf {s : State} {m : Mem} (h : s.memWf) (hm : m.wf) : ({ s with hbm := m } : State).memWf :=
  State.memWf_iff.mpr ⟨hm, host_wf (s := s) h, store_wf (s := s) h⟩

theorem withHost_memWf {s : State} {m : Mem} (h : s.memWf) (hm : m.wf) : ({ s with host := m } : State).memWf :=
  State.memWf_iff.mpr ⟨hbm_wf (s := s) h, hm, store_wf (s := s) h⟩

theorem withStore_memWf {s : State} {m : Mem} (h : s.memWf) (hm : m.wf) : ({ s with store := m } : State).memWf :=
  State.memWf_iff.mpr ⟨hbm_wf (s := s) h, host_wf (s := s) h, hm⟩

theorem withMgc_memWf {s : State} {m : Mgc} (h : s.memWf) : ({ s with mgc := m } : State).memWf := h

/-- What changes warps, banked stores and records alone leaves the other memories as they were. -/
theorem WarpsOnly.memWf {s t : State} (k : WarpsOnly s t) (ht : t.store.wf) (h : s.memWf) : t.memWf := by
  rw [k]; exact withStore_memWf h ht

theorem TrapOnly.memWf {s t : State} (k : TrapOnly s t) (ht : t.store.wf) (h : s.memWf) : t.memWf := by
  rw [k]; exact withStore_memWf h ht

/-! Each way to put states together keeps the form if its parts do. -/

theorem ite_memWf {s t : State} {c : Prop} [Decidable c] (h : s.memWf) (k : t.memWf) : (if c then s else t).memWf := by
  split
  · exact h
  · exact k

theorem elim_memWf {α : Type} {o : Option α} {s : State} {f : α → State} (h : s.memWf) (hf : ∀ a, (f a).memWf) :
    (o.elim s f).memWf := by
  cases o with
  | none => exact h
  | some a => exact hf a

theorem foldl_memWf {α : Type} {f : State → α → State} (hf : ∀ s a, s.memWf → (f s a).memWf) {l : List α} {s : State}
    (h : s.memWf) : (l.foldl f s).memWf :=
  List.foldlRecOn l f h (fun s hs a _ => hf s a hs)

/-! ### Parts of the state, recorders and records -/

theorem setWarp_memWf {s : State} {w : Warp} (h : s.memWf) : (setWarp s w).memWf := h

theorem setTeam_memWf {s : State} {t : Team} (h : s.memWf) : (setTeam s t).memWf := h

theorem setGang_memWf {s : State} {g : Gang} (h : s.memWf) : (setGang s g).memWf := h

theorem setGrid_memWf {s : State} {g : Grid} (h : s.memWf) : (setGrid s g).memWf := h

theorem setOp_memWf {s : State} {o : Op} (h : s.memWf) : (setOp s o).memWf := h

theorem setCopy_memWf {s : State} {c : Copy} (h : s.memWf) : (setCopy s c).memWf := h

theorem setColl_memWf {s : State} {c : Coll} (h : s.memWf) : (setColl s c).memWf := h

theorem setPart_memWf {s : State} {p : Part} (h : s.memWf) : (setPart s p).memWf := h

theorem dropOp_memWf {s : State} {id : Nat} (h : s.memWf) : (dropOp s id).memWf := h

theorem dropReq_memWf {s : State} {id : Nat} (h : s.memWf) : (dropReq s id).memWf := h

theorem dropMiss_memWf {s : State} {id : Nat} (h : s.memWf) : (dropMiss s id).memWf := h

theorem dropCopy_memWf {s : State} {id : Nat} (h : s.memWf) : (dropCopy s id).memWf := h

theorem dropColl_memWf {s : State} {id : Nat} (h : s.memWf) : (dropColl s id).memWf := h

theorem setCore_memWf {s : State} {c : Nat} {x : CoreSt} (h : s.memWf) : (setCore s c x).memWf := h

theorem setQuad_memWf {s : State} {q : Nat} {x : Quad} (h : s.memWf) : (setQuad s q x).memWf := h

theorem setL1_memWf {s : State} {d : Nat} {x : L1} (h : s.memWf) : (setL1 s d x).memWf := h

theorem setHome_memWf {s : State} {c : Nat} {x : Home} (h : s.memWf) : (setHome s c x).memWf := h

theorem setRecorder_memWf {s : State} {d : Nat} {x : Recorder} (h : s.memWf) : (setRecorder s d x).memWf := h

theorem setPartition_memWf {s : State} {p : Nat} {x : Partition} (h : s.memWf) : (setPartition s p x).memWf := h

theorem onWarp_memWf {s : State} {uid : Nat} {f : Warp → Warp} (h : s.memWf) : (onWarp s uid f).memWf := h

theorem recordEvent_memWf {s : State} {die : Nat} {code : Byte} {unit : Nat} {detail : Word} (h : s.memWf) :
    (recordEvent s die code unit detail).memWf := ite_memWf (setRecorder_memWf h) (setRecorder_memWf h)

theorem recordHome_memWf {s : State} {channel : Nat} {code : Byte} {detail : Nat} (h : s.memWf) :
    (recordHome s channel code detail).memWf := recordEvent_memWf h

theorem recordIo_memWf {s : State} {code : Byte} {unit : Nat} {detail : Word} (h : s.memWf) :
    (recordIo s code unit detail).memWf := recordEvent_memWf h

theorem postRec_memWf {s : State} {part type : Nat} {src : RecSrc} {words : List Word} (h : s.memWf) :
    (postRec s part type src words).2.memWf := setPartition_memWf h

theorem sendReq_memWf {s : State} {r : Req} (h : s.memWf) : (sendReq s r).2.memWf := h

/-! ### First-level caches -/

theorem l1Map_memWf {s : State} {dom : Nat} {f : L1Line → Tab L1Word} (h : s.memWf) : (l1Map s dom f).memWf :=
  setL1_memWf h

theorem onReplies_memWf {s : State} {dom : Nat} {f : Reply → Reply} (h : s.memWf) : (onReplies s dom f).memWf := h

theorem dropSi_memWf {s : State} {dom : Nat} (h : s.memWf) : (dropSi s dom).memWf := onReplies_memWf (l1Map_memWf h)

theorem dropShared_memWf {s : State} {dom line : Nat} (h : s.memWf) : (dropShared s dom line).memWf := l1Map_memWf h

theorem onUnserved_memWf {s : State} {dom line : Nat} {f : Req → Req} (h : s.memWf) :
    (onUnserved s dom line f).memWf := h

theorem dropOwned_memWf {s : State} {dom line : Nat} {mask : Word} (h : s.memWf) :
    (dropOwned s dom line mask).memWf := l1Map_memWf (onUnserved_memWf h)

theorem dropLine_memWf {s : State} {dom line : Nat} (h : s.memWf) : (dropLine s dom line).memWf :=
  l1Map_memWf (dropOwned_memWf h)

theorem l1Touch_memWf {s : State} {dom line : Nat} (h : s.memWf) : (l1Touch s dom line).memWf := by
  unfold l1Touch
  split
  · exact h
  · exact setL1_memWf h

theorem surrender_memWf {s : State} {dom line : Nat} (h : s.memWf) : (surrender s dom line).memWf := by
  unfold surrender
  split
  · exact h
  · exact onReplies_memWf (dropOwned_memWf (sendReq_memWf h))

theorem evictLine_memWf {s : State} {dom line : Nat} (h : s.memWf) : (evictLine s dom line).memWf :=
  dropLine_memWf (surrender_memWf h)

theorem makeRoom_memWf {s : State} {dom line : Nat} (h : s.memWf) : (makeRoom s dom line).memWf := by
  unfold makeRoom
  dsimp only
  split
  · exact h
  · split
    · exact evictLine_memWf h
    · exact h

theorem l1Install_memWf {s : State} {dom line : Nat} {st : WState} {ws : Tab CWord} (h : s.memWf) :
    (l1Install s dom line st ws).memWf := by
  unfold l1Install
  have hd := ite_memWf (c := (st == .ow) = true) h (dropShared_memWf (dom := dom) (line := line) h)
  exact ite_memWf hd (setL1_memWf (ite_memWf hd (makeRoom_memWf hd)))

theorem writeOwned_memWf {s : State} {dom line j : Nat} {w : CWord} (h : s.memWf) :
    (writeOwned s dom line j w).memWf := l1Map_memWf h

theorem dropCopies_memWf {s : State} {dom line : Nat} {mask : Word} (h : s.memWf) :
    (dropCopies s dom line mask).memWf := l1Map_memWf h

theorem dropOlder_memWf {s : State} {dom line : Nat} {mask : Word} (h : s.memWf) :
    (dropOlder s dom line mask).memWf := onReplies_memWf (dropCopies_memWf h)

theorem dropLineCopies_memWf {s : State} {dom line : Nat} (h : s.memWf) : (dropLineCopies s dom line).memWf :=
  dropOlder_memWf h

theorem emptyL1_memWf {s : State} {dom : Nat} {lines : List Nat} (h : s.memWf) : (emptyL1 s dom lines).memWf :=
  foldl_memWf (fun _ _ h => evictLine_memWf h) h

theorem startMiss_memWf {s : State} {dom : Nat} {kind : ReqKind} {line : Nat} {mask : Word} {op : Nat} {fal : Bool}
    (h : s.memWf) : (startMiss s dom kind line mask op fal).2.memWf := sendReq_memWf h

/-! ### Homes and the directory -/

theorem mergeLine_memWf {s : State} {line : Nat} {ws : Tab CWord} {fal : Bool} (h : s.memWf) :
    (mergeLine s line ws fal).memWf :=
  ite_memWf h (setHome_memWf (withHbm_memWf h (foldl_setWord_wf _ _ _ (hbm_wf h))))

theorem poisonWord_memWf {s : State} {line j : Nat} (h : s.memWf) : (poisonWord s line j).memWf :=
  withHbm_memWf h (Mem.setWord_wf (hbm_wf h) _ _)

theorem fallowPage_memWf {s : State} {ch page : Nat} (h : s.memWf) : (fallowPage s ch page).memWf :=
  ite_memWf h (recordHome_memWf h)

theorem addPoison_memWf {s : State} {line j : Nat} (h : s.memWf) : (addPoison s line j).memWf := by
  unfold addPoison
  have add {t : State} {x : Home} {d : Nat} (ht : t.memWf) :
      (recordHome (setHome t (channelOf line) x) (channelOf line) 0x05 d).memWf := recordHome_memWf (setHome_memWf ht)
  refine ite_memWf h (ite_memWf (add h) (ite_memWf ?_ (recordHome_memWf (poisonWord_memWf h))))
  split
  · exact ite_memWf (fallowPage_memWf h) (add (fallowPage_memWf h))
  · exact add h

theorem poisonEvent_memWf {s : State} {line j : Nat} (h : s.memWf) : (poisonEvent s line j).memWf :=
  recordHome_memWf h

theorem putEntry_memWf {s : State} {e : DirEntry} (h : s.memWf) : (putEntry s e).memWf :=
  setHome_memWf h

theorem decided_memWf {s : State} {line : Nat} {kind : NoticeKind} {wmask : Word} {owner : Owner} (h : s.memWf) :
    (decide_ s line kind wmask owner).2.memWf := setHome_memWf h

theorem sendInv_memWf {s : State} {line : Nat} (h : s.memWf) : (sendInv s line).2.memWf := decided_memWf h

theorem recallOwner_memWf {s : State} {e : DirEntry} {mask : Word} {busy : Busy} {req : Nat} (h : s.memWf) :
    (recallOwner s e mask busy req).2.memWf := putEntry_memWf (decided_memWf h)

theorem sendReply_memWf {s : State} {r : Req} {grant wi : Bool} {ws : Tab CWord} {own : OwnNotice} (h : s.memWf) :
    (sendReply s r grant wi ws own).memWf := dropReq_memWf h

theorem sendFill_memWf {s : State} {r : Req} {wi : Bool} {own : OwnNotice} (h : s.memWf) :
    (sendFill s r wi own).memWf := sendReply_memWf h

theorem sendGrant_memWf {s : State} {r : Req} {own : OwnNotice} (h : s.memWf) : (sendGrant s r own).memWf :=
  sendReply_memWf h

theorem sendAck_memWf {s : State} {r : Req} {own : Option Nat} (h : s.memWf) : (sendAck s r own).memWf :=
  ite_memWf h (dropReq_memWf h)

theorem allocate_memWf {s : State} {line req : Nat} (h : s.memWf) :
    (allocate s line req).2.memWf ∧ ∀ t ∈ (allocate s line req).1, t.memWf := by
  unfold allocate
  dsimp only
  split
  · simpa using h
  · split
    · simpa using h
    · split
      · simpa using h
      · simpa using h
      · split
        · simpa using recallOwner_memWf h
        · simpa using putEntry_memWf (sendInv_memWf h)

theorem allocate_none {s t : State} {line req : Nat} (h : s.memWf) (e : allocate s line req = (none, t)) : t.memWf := by
  simpa [e] using (allocate_memWf (line := line) (req := req) h).1

theorem allocate_some {s t u : State} {line req : Nat} (h : s.memWf) (e : allocate s line req = (some t, u)) : t.memWf :=
  (allocate_memWf (line := line) (req := req) h).2 t (by simp [e])

theorem finishRSi_memWf {s : State} {r : Req} {own : OwnNotice} (h : s.memWf) : (finishRSi s r own).memWf :=
  ite_memWf (recallOwner_memWf h) (sendFill_memWf h)

theorem serveRSi_memWf {s : State} {r : Req} (h : s.memWf) : (serveRSi s r).memWf := finishRSi_memWf h

theorem finishRWi_memWf {s : State} {r : Req} {own : OwnNotice} (h : s.memWf) : (finishRWi s r own).memWf :=
  ite_memWf (recallOwner_memWf h) (sendFill_memWf (putEntry_memWf h))

theorem serveRWi_memWf {s : State} {r : Req} (h : s.memWf) : (serveRWi s r).memWf := by
  unfold serveRWi
  split
  next e => exact allocate_none h e
  next e => exact finishRWi_memWf (allocate_some h e)

theorem finishOwn_memWf {s : State} {r : Req} {own : OwnNotice} (h : s.memWf) : (finishOwn s r own).memWf :=
  sendGrant_memWf (putEntry_memWf h)

theorem serveOwn_memWf {s : State} {r : Req} (h : s.memWf) : (serveOwn s r).memWf := by
  unfold serveOwn
  split
  next e => exact allocate_none h e
  next e =>
    have ht := allocate_some h e
    exact ite_memWf (recallOwner_memWf ht) (ite_memWf (finishOwn_memWf (sendInv_memWf ht)) (finishOwn_memWf ht))

theorem clearForWrite_memWf {s : State} {r : Req} (h : s.memWf) : (clearForWrite s r).2.memWf := by
  unfold clearForWrite
  dsimp only
  split
  · exact recallOwner_memWf h
  · split
    · exact putEntry_memWf (sendInv_memWf h)
    · exact h

theorem clearForWrite_eq {s t : State} {r : Req} {o : Option (Option Nat)} (h : s.memWf)
    (e : clearForWrite s r = (o, t)) : t.memWf := by
  simpa [e] using clearForWrite_memWf (r := r) h

theorem ownerWrite_memWf {s : State} {dom line : Nat} {ws : Tab CWord} (h : s.memWf) :
    (ownerWrite s dom line ws).memWf := h

theorem mergeWrh_memWf {s : State} {r : Req} (h : s.memWf) : (mergeWrh s r).memWf := by
  unfold mergeWrh
  dsimp only
  split
  · exact ite_memWf (mergeLine_memWf h) (dropOlder_memWf (ownerWrite_memWf (mergeLine_memWf h)))
  · exact mergeLine_memWf h

theorem serveWrh_memWf {s : State} {r : Req} (h : s.memWf) : (serveWrh s r).memWf := by
  unfold serveWrh
  split
  next e => exact clearForWrite_eq h e
  next e => exact sendAck_memWf (mergeWrh_memWf (clearForWrite_eq h e))

theorem serveSur_memWf {s : State} {r : Req} (h : s.memWf) : (serveSur s r).memWf :=
  dropReq_memWf (putEntry_memWf (mergeLine_memWf h))

theorem directoryError_memWf {s : State} {line req : Nat} (h : s.memWf) : (directoryError s line req).memWf :=
  putEntry_memWf (decided_memWf h)

theorem directoryFreed_memWf {s : State} {line : Nat} (h : s.memWf) : (directoryFreed s line).memWf :=
  putEntry_memWf (recordHome_memWf h)

theorem engineRecall_memWf {s : State} {r : Req} (h : s.memWf) : (engineRecall s r).memWf :=
  ite_memWf h (ite_memWf (directoryError_memWf h) (ite_memWf h (recallOwner_memWf h)))

theorem engineWrite_memWf {s : State} {line : Nat} {ws : Tab CWord} {fal : Bool} (h : s.memWf) :
    (engineWrite s line ws fal).memWf := mergeLine_memWf (ite_memWf (putEntry_memWf (sendInv_memWf h)) h)

/-! ### Acquires, barriers and rings -/

theorem startAcquire_memWf {s : State} {uid : Nat} {scope : Scope} {op loadsBefore : Option Nat} (h : s.memWf) :
    (startAcquire s uid scope op loadsBefore).memWf := by
  unfold startAcquire
  split
  · exact h
  · exact ite_memWf (dropSi_memWf (setWarp_memWf h)) (setWarp_memWf h)

theorem setPod_memWf {s : State} {p : Pod} (h : s.memWf) : (setPod s p).memWf := h

theorem podArrive_memWf {s : State} {p : Pod} {n : BitVec 6} {arrivals drops : Nat} (h : s.memWf) :
    (podArrive s p n arrivals drops).memWf := setPod_memWf h

theorem setBarOf_memWf {s : State} {t : Team} {level : BarLevel} {b : Bar} (h : s.memWf) :
    (setBarOf s t level b).memWf := by
  unfold setBarOf
  split
  · exact setTeam_memWf h
  · exact elim_memWf h (fun _ => setGang_memWf h)
  · exact elim_memWf h (fun _ => setGrid_memWf h)
  · exact h

theorem releaseBar_memWf {s : State} {t : Team} {level : BarLevel} {n : BitVec 6} {phase : Bool} (h : s.memWf) :
    (releaseBar s t level n phase).memWf :=
  foldl_memWf (fun _ _ h => ite_memWf (startAcquire_memWf (setWarp_memWf h)) (setWarp_memWf h)) h

theorem arriveBar_memWf {s : State} {t : Team} {level : BarLevel} {n : BitVec 6} {arrivals drops : Nat} (h : s.memWf)
    : (arriveBar s t level n arrivals drops).memWf := by
  unfold arriveBar
  split
  · exact podArrive_memWf h
  · split
    · exact h
    · exact ite_memWf (releaseBar_memWf (setBarOf_memWf h)) (setBarOf_memWf h)

theorem dropFromBars_memWf {s : State} {uid : Nat} {lanes : Word} (h : s.memWf) :
    (dropFromBars s uid lanes).memWf := by
  unfold dropFromBars
  split
  · exact h
  · refine foldl_memWf (fun t p h => ?_) h
    split
    · exact h
    · split
      · exact h
      · split
        · exact h
        · exact ite_memWf h (arriveBar_memWf (setWarp_memWf h))

theorem withdrawBar_memWf {s : State} {w : Warp} {t : Team} {level : BarLevel} {b : WarpBar} (h : s.memWf) :
    (withdrawBar s w t level b).memWf := by
  unfold withdrawBar
  split
  · exact h
  · exact setBarOf_memWf h

theorem leaveGangBar_memWf {s : State} {w : Warp} {t : Team} {n : BitVec 6} (h : s.memWf) :
    (leaveGangBar s w t n).memWf := by
  unfold leaveGangBar
  split
  · exact h
  · exact setBarOf_memWf h

theorem releaseRing_memWf {s : State} {t : Team} {core : Nat} {r : BitVec 5} {c : BitVec 3} {x : Chamber}
    (h : s.memWf) : (releaseRing s t core r c x).memWf :=
  foldl_memWf (fun _ _ h => ite_memWf (startAcquire_memWf (setWarp_memWf h)) h) h

theorem arriveRing_memWf {s : State} {team core : Nat} {r : BitVec 5} {c : BitVec 3} (h : s.memWf) :
    (arriveRing s team core r c).memWf := by
  unfold arriveRing
  split
  · exact h
  · split
    · exact releaseRing_memWf (setTeam_memWf h)
    · exact h

/-! ### Register banks, stops, containment and exceptions -/

theorem bankWrite_memWf {s : State} {bank : Nat} {ws : List (Nat × Word)} (h : s.memWf) :
    (bankWrite s bank ws).memWf := (bankWrite_only ..).memWf (bankWrite_wf (store_wf h) _ _) h

theorem flushWindow_memWf {s : State} {w : Warp} (h : s.memWf) : (flushWindow s w).memWf :=
  (flushWindow_only ..).memWf (flushWindow_wf (store_wf h) _) h

theorem pushWindow_memWf {s : State} {uid : Nat} {ws : List (Nat × Word)} (h : s.memWf) :
    (pushWindow s uid ws).memWf := (pushWindow_only ..).memWf (pushWindow_wf (store_wf h) _ _) h

theorem landRegs_memWf {s : State} {uid : Nat} {ws : List (Nat × Word)} (h : s.memWf) : (landRegs s uid ws).memWf :=
  (landRegs_only ..).memWf (landRegs_wf (store_wf h) _ _) h

theorem lowerCtr_memWf {s : State} {uid : Nat} {k : Ctr} (h : s.memWf) : (lowerCtr s uid k).memWf := onWarp_memWf h

theorem landFlags_memWf {s : State} {uid : Nat} {k : Ctr} {fl : Word} (h : s.memWf) : (landFlags s uid k fl).memWf :=
  ite_memWf h (onWarp_memWf h)

theorem addReport_memWf {s : State} {uid : Nat} {r : Report} (h : s.memWf) : (addReport s uid r).memWf :=
  onWarp_memWf h

theorem stopWarp_memWf {s : State} {w : Warp} {type : Nat} {halted : Bool} {words : List Word} (h : s.memWf) :
    (stopWarp s w type halted words).memWf := (stopWarp_only ..).memWf (stopWarp_wf (store_wf h) _ _ _ _) h

theorem noteFreeze_memWf {s : State} {die unit pa : Nat} (h : s.memWf) : (noteFreeze s die unit pa).memWf :=
  recordEvent_memWf h

theorem freezeCore_memWf {s : State} {w : Warp} {src acc : Nat} {rng : Bool} {pa : Nat} {where_ : Word} (h : s.memWf)
    : (freezeCore s w src acc rng pa where_).memWf := noteFreeze_memWf (setCore_memWf (postRec_memWf h))

theorem dropHeldOf_memWf {s : State} {gone : ReqSrc → Bool} (h : s.memWf) : (dropHeldOf s gone).memWf := h

theorem removeTeams_memWf {s : State} {uids : List Nat} (h : s.memWf) : (removeTeams s uids).memWf := by
  unfold removeTeams
  refine foldl_memWf (fun t w h => ?_) h
  split
  · exact h
  · exact foldl_memWf (fun _ _ h => ite_memWf (withdrawBar_memWf h) h) h

theorem sweepGangs_memWf {s : State} (h : s.memWf) : (sweepGangs s).memWf := h

theorem discardWaiters_memWf {s : State} {grid : Nat} (h : s.memWf) : (discardWaiters s grid).memWf := by
  unfold discardWaiters
  split
  · exact h
  · exact ite_memWf h (sweepGangs_memWf (removeTeams_memWf h))

theorem failGrid_memWf {s : State} {grid status : Nat} (h : s.memWf) : (failGrid s grid status).memWf := by
  unfold failGrid
  split
  · exact h
  · exact discardWaiters_memWf (setGrid_memWf h)

theorem endGang_memWf {s : State} {gang status : Nat} {mayRelaunch : Bool} (h : s.memWf) :
    (endGang s gang status mayRelaunch).memWf := by
  unfold endGang
  split
  · exact h
  · dsimp only
    split
    · exact removeTeams_memWf h
    · exact ite_memWf (removeTeams_memWf h) (failGrid_memWf (removeTeams_memWf h))

theorem contain_memWf {s : State} {w : Warp} {kind lane cause : Nat} {pc : Word} {addr : DWord} (h : s.memWf) :
    (contain s w kind lane cause pc addr).memWf := by
  unfold contain
  split
  · exact h
  · exact endGang_memWf (recordEvent_memWf h)

theorem containBad_memWf {s : State} {w : Warp} {x : CWord} {lane : Nat} {pc : Word} {addr : DWord} (h : s.memWf) :
    (containBad s w x lane pc addr).memWf := contain_memWf h

theorem containFrom_memWf {s : State} {w : Warp} {x : CWord} {lane : Nat} {pc : Word} {addr : DWord} {pa : Option Nat}
    (h : s.memWf) : (containFrom s w x lane pc addr pa).memWf := by
  unfold containFrom
  dsimp only
  split
  · exact ite_memWf (addPoison_memWf (containBad_memWf h)) (containBad_memWf h)
  · exact containBad_memWf h

theorem correctWords_memWf {s : State} {w : Warp} {keys : List Nat} (h : s.memWf) : (correctWords s w keys).memWf :=
  (correctWords_only ..).memWf (by rw [correctWords_store]; exact store_wf h) h

theorem writeRegs_memWf {s : State} {w : Warp} {ws : List (Nat × Word)} (h : s.memWf) : (writeRegs s w ws).memWf :=
  bankWrite_memWf h

theorem enterTrap_memWf {s : State} {uid : Nat} {n : Bool} {size cause sub : Nat} {tval : Word} (h : s.memWf) :
    (enterTrap s uid n size cause sub tval).memWf := by
  obtain hk | ⟨w, x, k, -, -, -, e⟩ := enterTrap_only s uid n size cause sub tval
  · exact hk.memWf (enterTrap_wf (store_wf h) ..) h
  · rw [e]; exact contain_memWf (flushWindow_memWf h)

theorem leaveTrap_memWf {s : State} {uid : Nat} {skip : Bool} (h : s.memWf) : (leaveTrap s uid skip).memWf :=
  (leaveTrap_only ..).memWf (leaveTrap_wf (store_wf h) _ _) h

theorem discardGang_memWf {s : State} {team : Nat} (h : s.memWf) : (discardGang s team).memWf := by
  unfold discardGang
  split
  · exact h
  · exact endGang_memWf h

theorem discardTeam_memWf {s : State} {team : Nat} (h : s.memWf) : (discardTeam s team).memWf := by
  unfold discardTeam
  split
  · exact h
  · dsimp only
    have hs {ws : List Warp} {t : Team} {l : List Nat} : (removeTeams (ws.foldl (fun s w =>
        l.foldl (fun s n => leaveGangBar s w t (BitVec.ofNat 6 n)) s) s) [team]).memWf :=
      removeTeams_memWf (foldl_memWf (fun _ _ h => foldl_memWf (fun _ _ h => leaveGangBar_memWf h) h) h)
    split
    · exact hs
    · exact setGrid_memWf hs

theorem endTeamIfDone_memWf {s : State} {team : Nat} (h : s.memWf) : (endTeamIfDone s team).memWf := by
  unfold endTeamIfDone
  split
  · exact h
  · exact ite_memWf (sweepGangs_memWf (elim_memWf h (fun _ => setGrid_memWf h))) h

/-! ### Requests over the fabric, translation -/

theorem fabProtRecord_memWf {s : State} {r : FabReq} {ctx rng : Bool} (h : s.memWf) :
    (fabProtRecord s r ctx rng).memWf := postRec_memWf h

theorem fabHold_memWf {s : State} {who : ReqSrc} {r : FabReq} {ctx : Bool} {x : Xlat} {va : DWord} (h : s.memWf) :
    (fabHold s who r ctx x va).memWf := by
  unfold fabHold
  dsimp only
  split
  · exact h
  · exact h
  · exact noteFreeze_memWf h
  · exact h

theorem holdOwn_memWf {s : State} {who : ReqSrc} {kind : FabKind} {ps : List Place} (h : s.memWf) :
    (holdOwn s who kind ps).memWf := by
  unfold holdOwn
  refine foldl_memWf (fun t p h => ite_memWf h ?_) h
  split
  · exact fabHold_memWf h
  · exact h

theorem ownDone_memWf {before : State} {who : ReqSrc} {kind : FabKind} {ps : List Place} {s : State} (h : s.memWf) :
    (ownDone before who kind ps s).memWf := foldl_memWf (fun _ _ h => fabProtRecord_memWf h) h

end Sys2Proof.Machine
end

section
/-! PROOF. Canonical memories, continued: an instruction at issue, control flow and global memory. -/

namespace Sys2Proof.Machine

open Sys2Proof

/-! ### Translation for a warp -/

theorem endWalk_memWf {s : State} {k : Walk} (h : s.memWf) : (endWalk s k).memWf := by
  unfold endWalk
  refine ite_memWf (holdOwn_memWf h) ?_
  split
  · exact ownDone_memWf h
  · exact ownDone_memWf h
  · exact ownDone_memWf h
  · exact h

theorem xlatFail_memWf {s : State} {w : Warp} {x : Xlat} {src acc : Nat} {va : DWord} {pc : Word} (h : s.memWf) :
    (xlatFail s w x src acc va pc).memWf := by
  unfold xlatFail
  split
  · exact stopWarp_memWf h
  · exact stopWarp_memWf h
  · exact stopWarp_memWf h
  · exact freezeCore_memWf h
  · exact h
  · exact h

/-- The states that a translation for a warp leaves keep the form. -/
def WarpXlat.memWf : WarpXlat → Prop
  | .done _ => True
  | .failed _ s | .wait s => s.memWf

def XlatPass.memWf : XlatPass → Prop
  | .all _ => True
  | .stop _ _ _ s | .wait s => s.memWf

def Xlats.memWf : Xlats → Prop
  | .ok _ => True
  | .stop _ _ _ s | .wait s => s.memWf

theorem warpXlat_memWf {s : State} {w : Warp} {va : DWord} (h : s.memWf) : (warpXlat s w va).memWf := by
  unfold warpXlat
  dsimp only
  split
  · split
    · exact h
    · split
      · exact h
      · exact h
  · trivial

theorem xlatPass_memWf {s : State} {w : Warp} {l : List (Nat × DWord)} (h : s.memWf) : (xlatPass s w l).memWf := by
  induction l with
  | nil => trivial
  | cons p rest ih =>
    have go (x : Xlat) : (match xlatPass s w rest with
        | .all t => XlatPass.all ((p.1, p.2, x) :: t)
        | r => r).memWf := by
      split
      · trivial
      · exact ih
    have hx := warpXlat_memWf (w := w) (va := p.2) h
    unfold xlatPass
    dsimp only
    split
    next e => rw [e] at hx; exact hx
    next e => rw [e] at hx; exact hx
    · exact go _
    · split
      · exact h
      · exact go _
    · exact h

theorem protPass_memWf {s : State} {bad : Nat → Attr → Bool} {l : List (Nat × DWord × Xlat)} (h : s.memWf) :
    (protPass s bad l).memWf := by
  induction l with
  | nil => trivial
  | cons p rest ih =>
    unfold protPass
    split
    · trivial
    next e =>
      obtain ⟨rfl, rfl⟩ := List.cons.inj e
      split
      · exact h
      · split
        · trivial
        · exact ih
    · exact h

theorem warpXlats_memWf {s : State} {w : Warp} {bad : Nat → Attr → Bool} {addrs : List (Nat × DWord)} (h : s.memWf) :
    (warpXlats s w bad addrs).memWf := by
  unfold warpXlats
  have hp := xlatPass_memWf (w := w) (l := addrs) h
  split
  · exact protPass_memWf h
  next e => rw [e] at hp; exact hp
  next e => rw [e] at hp; exact hp

theorem warpXlats_stop {s t : State} {w : Warp} {bad : Nat → Attr → Bool} {l : List (Nat × DWord)} {n : Nat} {va : DWord}
    {x : Xlat} (h : s.memWf) (e : warpXlats s w bad l = .stop n va x t) : t.memWf := by
  have hx := warpXlats_memWf (w := w) (bad := bad) (addrs := l) h
  rw [e] at hx; exact hx

theorem warpXlats_wait {s t : State} {w : Warp} {bad : Nat → Attr → Bool} {l : List (Nat × DWord)} (h : s.memWf)
    (e : warpXlats s w bad l = .wait t) : t.memWf := by
  have hx := warpXlats_memWf (w := w) (bad := bad) (addrs := l) h
  rw [e] at hx; exact hx

/-! ### An instruction at issue -/

/-- The states that an instruction finds keep the form. -/
structure Cx.MemWf (c : Cx) : Prop where
  pre : c.pre.memWf
  s : c.s.memWf

/-- What an instruction does keeps the form. -/
def Eff.memWf : Eff → Prop
  | .go s _ | .raise s _ | .stop s => s.memWf
  | .write _ _ | .trap _ _ _ | .hold => True

theorem eff_ite_memWf {a b : Eff} {c : Prop} [Decidable c] (ha : a.memWf) (hb : b.memWf) :
    (if c then a else b).memWf := by
  split
  · exact ha
  · exact hb

theorem holdSlot_memWf {s : State} {uid : Nat} {n : Bool} (h : s.memWf) : (holdSlot s uid n).memWf := h

theorem takeTrap_memWf {s : State} {w : Warp} {n : Bool} {size cause sub : Nat} {tval : Word} (h : s.memWf) :
    (takeTrap s w n size cause sub tval).memWf := ite_memWf (holdSlot_memWf h) (enterTrap_memWf h)

theorem Cx.make_memWf {s : State} {w : Warp} {n : Bool} {x : Slot} {i : Instr} (h : s.memWf) :
    (Cx.make s w n x i).MemWf := ⟨h, h⟩

theorem Cx.correctErrors_memWf {c : Cx} (hc : c.MemWf) : (Cx.correctErrors c).memWf :=
  ite_memWf hc.pre (correctWords_memWf hc.pre)

theorem Eff.finish_memWf {e : Eff} {c : Cx} (hc : c.MemWf) (he : e.memWf) : (e.finish c).memWf := by
  cases e with
  | write ws fl =>
    exact ite_memWf (ite_memWf (holdSlot_memWf hc.pre) (enterTrap_memWf (pushWindow_memWf (setWarp_memWf hc.pre))))
      (pushWindow_memWf (setWarp_memWf hc.s))
  | go s ws => exact pushWindow_memWf he
  | raise s fl =>
    exact ite_memWf (ite_memWf (holdSlot_memWf hc.pre) (enterTrap_memWf (onWarp_memWf he)))
      (pushWindow_memWf (onWarp_memWf he))
  | trap cause sub tval => exact takeTrap_memWf hc.pre
  | hold => exact holdSlot_memWf hc.pre
  | stop s => exact he

/-- An instruction whose effect keeps the form keeps it through its checks, whatever they lead to. -/
theorem issueChecked_memWf {s : State} {w : Warp} {n : Bool} {x : Slot} {i : Instr} {body : Cx → Eff}
    (hb : ∀ c : Cx, c.MemWf → (body c).memWf) (h : s.memWf) : (issueChecked s w n x i body).memWf := by
  obtain ⟨cause, sub, tval, e⟩ | ⟨p, e⟩ | ⟨u, rfl, e⟩ := issueChecked_cases s w n x i body <;> rw [e]
  · exact takeTrap_memWf h
  · exact contain_memWf h
  · have hu := Cx.correctErrors_memWf (Cx.make_memWf (w := w) (n := n) (x := x) (i := i) h)
    exact Eff.finish_memWf (Cx.make_memWf hu) (hb _ (Cx.make_memWf hu))

/-- The next state of an outcome, if it has one, is in canonical form. -/
def KeepsMem (o : Host.Outcome State Fault Refusal) : Prop := ∀ t, o = .next t → t.memWf

theorem keepsMem_next {s : State} (h : s.memWf) : KeepsMem (.next s) := by
  rintro t ⟨⟩
  exact h

theorem issueWith_keepsMem {early : Cx → Bool} {i : Instr} {body : Cx → Eff} {s : State}
    (hb : ∀ c : Cx, c.MemWf → (body c).memWf) (h : s.memWf) : KeepsMem (issueWith early i body s) := by
  intro t e
  obtain ⟨uid, n, w, x, -, -, -, rfl | ⟨r, -, rfl⟩ | ⟨-, -, rfl⟩⟩ := issueWith_cases e
  · exact holdSlot_memWf h
  · exact enterTrap_memWf (setWarp_memWf h)
  · exact issueChecked_memWf hb h

theorem issue_keepsMem {i : Instr} {body : Cx → Eff} {s : State} (hb : ∀ c : Cx, c.MemWf → (body c).memWf)
    (h : s.memWf) : KeepsMem (issue i body s) := issueWith_keepsMem hb h

/-- The states that a fetch leaves keep the form. -/
def Fetched.memWf : Fetched → Prop
  | .parcels _ s | .stop s => s.memWf

theorem fetchFrom_memWf {s : State} {w : Warp} {n : Bool} {pc : Word} {k : Nat} (h : s.memWf) :
    (fetchFrom s w n pc k).memWf := by
  unfold fetchFrom
  dsimp only
  split
  · split
    · exact holdSlot_memWf (holdOwn_memWf h)
    · exact ownDone_memWf h
  next e => exact holdSlot_memWf (warpXlats_wait h e)
  next e => exact xlatFail_memWf (warpXlats_stop h e)

theorem fetch_memWf {s : State} {w : Warp} {n : Bool} {pc : Word} (h : s.memWf) : (fetch s w n pc).memWf := by
  unfold fetch
  have hf (k : Nat) := fetchFrom_memWf (w := w) (n := n) (pc := pc) (k := k) h
  split
  next e =>
    split
    · exact hf 3
    · have h2 := hf 2
      rw [e] at h2; exact h2
  · exact hf 2

theorem startIssue_memWf {s : State} {w : Warp} {n : Bool} {x : Slot} (h : s.memWf) : (startIssue s w n x).memWf := h

theorem settle_memWf {s : State} {keep : Bool} (h : s.memWf) : (settle s keep).memWf := h

theorem advance_memWf {s : State} {dt : Nat} (h : s.memWf) : (advance s dt).memWf := h

/-! ### Control flow -/

theorem Cx.withSlot_memWf {c : Cx} {x : Slot} (hc : c.MemWf) : (Cx.withSlot c x).memWf := setWarp_memWf hc.s

theorem Cx.jump_memWf {c : Cx} {t : Int} {ws : List (Nat × Word)} (hc : c.MemWf) : (Cx.jump c t ws).memWf :=
  eff_ite_memWf (Cx.withSlot_memWf hc) trivial

theorem braEff_memWf {o : BraOp} {c : Cx} (hc : c.MemWf) : (braEff o c).memWf :=
  eff_ite_memWf (Cx.jump_memWf hc) (eff_ite_memWf trivial hc.s)

theorem callEff_memWf {o : LinkOp} {c : Cx} (hc : c.MemWf) : (callEff o c).memWf := Cx.jump_memWf hc

theorem indirectEff_memWf {j : SReg} {c : Cx} (hc : c.MemWf) : (indirectEff j c).memWf := Cx.jump_memWf hc

theorem loopEff_memWf {o : LinkOp} {c : Cx} (hc : c.MemWf) : (loopEff o c).memWf :=
  eff_ite_memWf hc.s (Cx.jump_memWf hc)

theorem sleepEff_memWf {v : SVal} {c : Cx} (hc : c.MemWf) : (sleepEff v c).memWf := Cx.withSlot_memWf hc

theorem yieldEff_memWf {c : Cx} (hc : c.MemWf) : (yieldEff c).memWf := Cx.withSlot_memWf hc

theorem writeEntry_memWf {s : State} {w : Warp} {i : Nat} {e : DEntry} (h : s.memWf) : (writeEntry s w i e).memWf :=
  withStore_memWf h (Mem.setWords_wf (store_wf h) _ _)

theorem retireEntry_memWf {s : State} {w : Warp} {i : Nat} (h : s.memWf) : (retireEntry s w i).1.memWf :=
  writeEntry_memWf h

theorem brcEff_memWf {o : BrcOp} {c : Cx} (hc : c.MemWf) : (brcEff o c).memWf := by
  unfold brcEff
  refine eff_ite_memWf hc.s (eff_ite_memWf (Cx.jump_memWf hc) (eff_ite_memWf trivial (eff_ite_memWf trivial
    (eff_ite_memWf trivial ?_))))
  dsimp only
  split
  · exact setWarp_memWf (writeEntry_memWf hc.s)
  · exact setWarp_memWf (writeEntry_memWf (writeEntry_memWf hc.s))

theorem joinEff_memWf {c : Cx} (hc : c.MemWf) : (joinEff c).memWf := by
  unfold joinEff
  refine eff_ite_memWf hc.s ?_
  split
  · trivial
  · refine eff_ite_memWf trivial (eff_ite_memWf (setWarp_memWf (retireEntry_memWf ?_)) (eff_ite_memWf
      (setWarp_memWf (writeEntry_memWf hc.s)) (setWarp_memWf (retireEntry_memWf hc.s))))
    split
    · exact hc.s
    · exact writeEntry_memWf hc.s

/-- The states in which the divergence stack leaves an EXIT keep the form. -/
def ExitOut.memWf : ExitOut → Prop
  | .free s _ | .take s _ _ _ _ _ => s.memWf
  | .bad _ => True

theorem exitLoop_memWf {s : State} {w : Warp} {n : Bool} {fuel : Nat} (h : s.memWf) : (exitLoop s w n fuel).memWf := by
  induction fuel generalizing s w with
  | zero => exact h
  | succ fuel ih =>
    unfold exitLoop
    split
    · exact h
    · split
      · trivial
      · split
        · exact retireEntry_memWf h
        · split
          · exact h
          · split
            · exact ih (retireEntry_memWf h)
            · exact retireEntry_memWf h

theorem Cx.leave_memWf {c : Cx} {s : State} {w : Warp} {lanes : Word} {x : Option Slot} (h : s.memWf) :
    (c.leave s w lanes x).memWf := dropFromBars_memWf (setWarp_memWf h)

theorem endWarp_memWf {s : State} {w : Warp} (h : s.memWf) : (endWarp s w).memWf :=
  endTeamIfDone_memWf (onWarp_memWf h)

theorem exitEff_memWf {g : Guard} {c : Cx} (hc : c.MemWf) : (exitEff g c).memWf := by
  unfold exitEff
  have hl := exitLoop_memWf (w := c.w) (n := c.n) (fuel := c.w.depth + 1) hc.s
  refine eff_ite_memWf (Cx.leave_memWf hc.s) ?_
  split
  · trivial
  next e => rw [e] at hl; exact Cx.leave_memWf hl
  next e =>
    rw [e] at hl
    refine eff_ite_memWf ?_ (Cx.leave_memWf hl)
    split
    · exact contain_memWf hc.pre
    · exact endWarp_memWf (Cx.leave_memWf hl)

/-! ### Loads, stores and atomics on global memory -/

/-- An effect that checks of addresses lead to keeps the form. -/
def Checked.memWf : Checked → Prop
  | .ok _ => True
  | .eff e => e.memWf

theorem Checked.memWf.of_eff {r : Checked} {e : Eff} (h : r.memWf) (he : r = .eff e) : e.memWf := by
  subst he; exact h

theorem Cx.checkAddrs_memWf {c : Cx} {bytes acc : Nat} {bad : Nat → Attr → Bool} {addrs : List (Nat × DWord)}
    (hc : c.MemWf) : (Cx.checkAddrs c bytes acc bad addrs).memWf := by
  unfold Cx.checkAddrs
  split
  · trivial
  · split
    · trivial
    next e => exact holdSlot_memWf (warpXlats_wait hc.pre e)
    next e => exact xlatFail_memWf (warpXlats_stop hc.pre e)

theorem foldl_fst_memWf {α β : Type} {f : State × β → α → State × β} (hf : ∀ r a, r.1.memWf → (f r a).1.memWf)
    {l : List α} {r : State × β} (h : r.1.memWf) : (l.foldl f r).1.memWf :=
  List.foldlRecOn l f (motive := fun r => r.1.memWf) h (fun r hr a _ => hf r a hr)

theorem lookWords_memWf {s : State} {dom : Nat} {ws : List OpWord} (h : s.memWf) : (lookWords s dom ws).1.memWf :=
  foldl_memWf (fun _ _ h => l1Touch_memWf h) h

theorem startMisses_memWf {s : State} {dom op : Nat} {need : OpWord → Bool} {kind : OpWord → ReqKind}
    {ws : List OpWord} (h : s.memWf) : (startMisses s dom op need kind ws).1.memWf := by
  unfold startMisses
  refine foldl_fst_memWf (fun r g h => ?_) h
  exact startMiss_memWf h

theorem loadWords_memWf {s : State} {dom op : Nat} {ws : List OpWord} (h : s.memWf) :
    (loadWords s dom op ws).1.memWf := startMisses_memWf (lookWords_memWf h)

theorem Cx.issueLoad_memWf {c : Cx} {kind : OpKind} {dst width : Nat} {ws : List OpWord} {acq : Bool} {sc : Scope}
    (hc : c.MemWf) : (Cx.issueLoad c kind dst width ws acq sc).memWf := by
  unfold Cx.issueLoad
  refine eff_ite_memWf trivial (ite_memWf (startAcquire_memWf ?_) ?_)
  · exact loadWords_memWf (s := (fresh c.s).2) hc.s
  · exact loadWords_memWf (s := (fresh c.s).2) hc.s

theorem loadEff_memWf {kind : OpKind} {o : MemOp} {c : Cx} (hc : c.MemWf) : (loadEff kind o c).memWf := by
  unfold loadEff
  dsimp only
  split
  next e => exact (Cx.checkAddrs_memWf hc).of_eff e
  · exact Cx.issueLoad_memWf hc

theorem ownWords_memWf {s : State} {dom op : Nat} {ws : List OpWord} (h : s.memWf) :
    (ownWords s dom op ws).1.memWf := by
  unfold ownWords
  refine startMisses_memWf (foldl_fst_memWf (fun r x h => ?_) h)
  split
  · split
    · exact l1Touch_memWf (writeOwned_memWf h)
    · exact h
  · exact h

theorem sendWrites_memWf {s : State} {dom op : Nat} {ws : List OpWord} (h : s.memWf) :
    (sendWrites s dom op ws).memWf := by
  unfold sendWrites
  refine foldl_memWf (fun t g h => ?_) h
  exact ite_memWf (sendReq_memWf (dropCopies_memWf h)) (dropCopies_memWf h)

theorem performStore_memWf {s : State} {core : Nat} {o : Op} (h : s.memWf) : (performStore s core o).memWf :=
  setOp_memWf (ownWords_memWf (sendWrites_memWf h))

theorem Cx.issueStore_memWf {c : Cx} {kind : OpKind} {ws : List OpWord} {rel : Bool} (hc : c.MemWf) :
    (Cx.issueStore c kind ws rel).memWf := eff_ite_memWf trivial (ite_memWf hc.s (performStore_memWf hc.s))

theorem storeEff_memWf {kind : OpKind} {o : MemOp} {c : Cx} (hc : c.MemWf) : (storeEff kind o c).memWf := by
  unfold storeEff
  dsimp only
  split
  next e => exact (Cx.checkAddrs_memWf hc).of_eff e
  · exact Cx.issueStore_memWf hc

theorem stckEff_memWf {o : MemOp} {c : Cx} (hc : c.MemWf) : (stckEff o c).memWf := by
  unfold stckEff
  split
  next e => exact (Cx.checkAddrs_memWf hc).of_eff e
  · exact Cx.issueStore_memWf hc

theorem Cx.quietAddrs_memWf {c : Cx} {addrs : List (Nat × DWord)} (hc : c.MemWf) : (Cx.quietAddrs c addrs).memWf := by
  unfold Cx.quietAddrs
  dsimp only
  split
  · exact holdSlot_memWf (holdOwn_memWf hc.pre)
  · split
    · exact xlatFail_memWf hc.pre
    · trivial

theorem prefetchRemote_memWf {s : State} {dom : Nat} {ws : List OpWord} (h : s.memWf) :
    (prefetchRemote s dom ws).memWf := by
  unfold prefetchRemote
  refine foldl_memWf (fun t line h => ?_) h
  exact h

theorem prefEff_memWf {o : MemOp} {c : Cx} (hc : c.MemWf) : (prefEff o c).memWf := by
  unfold prefEff
  dsimp only
  split
  next e => exact (Cx.quietAddrs_memWf hc).of_eff e
  · exact prefetchRemote_memWf (loadWords_memWf hc.s)

theorem lineEff_memWf {f : State → Nat → Nat → State} {o : LineOp} {c : Cx}
    (hf : ∀ s dom line, s.memWf → (f s dom line).memWf) (hc : c.MemWf) : (lineEff f o c).memWf := by
  unfold lineEff
  split
  next e => exact (Cx.quietAddrs_memWf hc).of_eff e
  · exact foldl_memWf (fun _ _ h => hf _ _ _ h) hc.s

theorem performAtomics_memWf {s : State} {core : Nat} {o : Op} {kind : ReqKind} (h : s.memWf) :
    (performAtomics s core o kind).memWf := by
  unfold performAtomics
  refine setOp_memWf (foldl_memWf (fun t l h => ?_) h)
  dsimp only
  split
  · exact h
  · exact ite_memWf h h

theorem Cx.issueAtomics_memWf {c : Cx} {kind : OpKind} {req : ReqKind} {dst width : Nat} {ws : List OpWord}
    {rel acq : Bool} {sc : Scope} (hc : c.MemWf) : (Cx.issueAtomics c kind req dst width ws rel acq sc).memWf := by
  unfold Cx.issueAtomics
  have hr {o : Op} : (if rel then { (fresh c.s).2 with ops := (fresh c.s).2.ops ++ [o] } else
      performAtomics { (fresh c.s).2 with ops := (fresh c.s).2.ops ++ [o] } c.w.core o req).memWf :=
    ite_memWf hc.s (performAtomics_memWf hc.s)
  exact eff_ite_memWf trivial (ite_memWf (startAcquire_memWf hr) hr)

theorem atomEff_memWf {o : AtomOp} {c : Cx} (hc : c.MemWf) : (atomEff o c).memWf := by
  unfold atomEff
  split
  next e => exact (Cx.checkAddrs_memWf hc).of_eff e
  · exact Cx.issueAtomics_memWf hc

theorem redEff_memWf {o : RedOp} {c : Cx} (hc : c.MemWf) : (redEff o c).memWf := by
  unfold redEff
  split
  next e => exact (Cx.checkAddrs_memWf hc).of_eff e
  · exact Cx.issueAtomics_memWf hc

theorem fenceEff_memWf {o : FenceOp} {c : Cx} (hc : c.MemWf) : (fenceEff o c).memWf := by
  unfold fenceEff
  split
  · exact startAcquire_memWf hc.s
  · exact hc.s

theorem Cx.holdLater_memWf {c : Cx} {k : HoldKind} (hc : c.MemWf) : (Cx.holdLater c k).memWf := setWarp_memWf hc.s

end Sys2Proof.Machine
end

section
/-! PROOF. Canonical memories, continued: the banked store, requests, barriers and ploughs. -/

namespace Sys2Proof.Machine

open Sys2Proof

/-! ### Waiting words and the banked store -/

theorem reevaluate_memWf {s : State} {w : Warp} {n saved : Bool} {x : Slot} {k : WordWait} (h : s.memWf) :
    (reevaluate s w n saved x k).memWf := by
  unfold reevaluate
  refine ite_memWf (containBad_memWf h) ?_
  split
  · exact ite_memWf (startAcquire_memWf (setWarp_memWf h)) (setWarp_memWf h)
  · exact setWarp_memWf h

theorem waitwEvent_memWf {s : State} {uid : Nat} {n : Bool} {f : Warp → WordWait → Option WordWait} (h : s.memWf) :
    (waitwEvent s uid n f).memWf := by
  unfold waitwEvent
  split
  · exact h
  · split
    · exact h
    · split
      · exact h
      · split
        · exact h
        · exact reevaluate_memWf h

theorem keepOld_memWf {s : State} {key : Nat} {by_ : Option (Nat × Nat)} (h : s.memWf) : (keepOld s key by_).memWf :=
  ite_memWf h h

theorem wroteWord_memWf {s : State} {key : Nat} (h : s.memWf) : (wroteWord s key).memWf := by
  unfold wroteWord
  refine foldl_memWf (fun t w h => ?_) h
  exact foldl_memWf (fun _ _ h => waitwEvent_memWf h) h

theorem writeStore_memWf {s : State} {key : Nat} {x : CWord} {by_ : Option (Nat × Nat)} (h : s.memWf) :
    (writeStore s key x by_).memWf :=
  wroteWord_memWf (withStore_memWf (keepOld_memWf h) (Mem.setWord_wf (store_wf (keepOld_memWf h)) _ _))

/-- An effect that checks of store addresses lead to keeps the form. -/
def BankChecked.memWf : BankChecked → Prop
  | .ok _ => True
  | .eff e => e.memWf

theorem BankChecked.memWf.of_eff {r : BankChecked} {e : Eff} (h : r.memWf) (he : r = .eff e) : e.memWf := by
  subst he; exact h

theorem Cx.checkBank_memWf {c : Cx} {n acc : Nat} {ok : StoreTgt → Bool} {addrs : List (Nat × Word)} (hc : c.MemWf) :
    (Cx.checkBank c n acc ok addrs).memWf := by
  unfold Cx.checkBank
  split
  · trivial
  · split
    · exact xlatFail_memWf hc.pre
    · trivial

theorem Cx.withPasses_memWf {c : Cx} {n : Nat} {ws : List BankWord} (hc : c.MemWf) : (Cx.withPasses c n ws).memWf :=
  setWarp_memWf hc.s

theorem correctReg_memWf {s : State} {core key addr : Nat} (h : s.memWf) : (correctReg s core key addr).memWf :=
  recordEvent_memWf h

theorem bankRead_memWf {s : State} {w : Warp} {t : StoreTgt} (h : s.memWf) : (bankRead s w t).1.memWf := by
  unfold bankRead
  dsimp only
  split
  · split
    · exact h
    · exact correctReg_memWf h
    · exact h
  · exact h

theorem readBanks_memWf {s : State} {w : Warp} {l : List BankWord} (h : s.memWf) : (readBanks s w l).1.memWf := by
  induction l generalizing s with
  | nil => exact h
  | cons b rest ih =>
    have hb := bankRead_memWf (w := w) (t := b.tgt) h
    unfold readBanks
    split
    next e => rw [e] at hb; exact hb
    next e => rw [e] at hb; exact ih hb

theorem ldsEff_memWf {o : StoreOp} {c : Cx} (hc : c.MemWf) : (ldsEff o c).memWf := by
  unfold ldsEff
  dsimp only
  split
  next e => exact (Cx.checkBank_memWf hc).of_eff e
  · refine eff_ite_memWf trivial ?_
    split
    · exact contain_memWf hc.pre
    · exact readBanks_memWf (Cx.withPasses_memWf hc)

theorem stsEff_memWf {o : StoreOp} {c : Cx} (hc : c.MemWf) : (stsEff o c).memWf := by
  unfold stsEff
  dsimp only
  split
  next e => exact (Cx.checkBank_memWf hc).of_eff e
  · exact eff_ite_memWf trivial hc.s

theorem stsWord_memWf {s : State} {o : Op} {x : OpWord} (h : s.memWf) : (stsWord s o x).memWf := by
  unfold stsWord
  split
  · exact writeStore_memWf h
  · split
    · exact h
    · exact ite_memWf (withStore_memWf h (Mem.setWord_wf (store_wf h) _ _)) (containBad_memWf h)
  · exact h

theorem atomsBanks_memWf {s : State} {w : Warp} {k : AtomKind} {b d : Nat → Word} {l : List BankWord} (h : s.memWf) :
    (atomsBanks s w k b d l).1.memWf := by
  induction l generalizing s with
  | nil => exact h
  | cons x rest ih =>
    unfold atomsBanks
    dsimp only
    split
    · exact h
    · exact ih (writeStore_memWf h)

theorem atomsEff_memWf {o : AtomsOp} {c : Cx} (hc : c.MemWf) : (atomsEff o c).memWf := by
  unfold atomsEff
  dsimp only
  split
  next e => exact (Cx.checkBank_memWf hc).of_eff e
  · refine eff_ite_memWf trivial ?_
    split
    · exact containBad_memWf (atomsBanks_memWf (Cx.withPasses_memWf hc))
    · exact atomsBanks_memWf (Cx.withPasses_memWf hc)

/-! ### Requests at the homes, notices and replies -/

theorem arrive_memWf {s : State} {r : Req} (h : s.memWf) : (arrive s r).memWf := ite_memWf h h

theorem touchHome_memWf {s : State} {line : Nat} (h : s.memWf) : (touchHome s line).memWf := setHome_memWf h

theorem acceptRed_memWf {s : State} {o : Op} (h : s.memWf) : (acceptRed s o).memWf :=
  ite_memWf (setOp_memWf h) (lowerCtr_memWf (setOp_memWf h))

theorem atomicDone_memWf {s : State} {r : Req} {vals : Tab CWord} {fl : Word} (h : s.memWf) :
    (atomicDone s r vals fl).memWf := by
  unfold atomicDone
  split
  · exact h
  · dsimp only
    split
    · exact ite_memWf (acceptRed_memWf h) (setOp_memWf h)
    · exact setOp_memWf h

theorem noteCorrupt_memWf {s : State} {line : Nat} {ws : Tab CWord} (h : s.memWf) : (noteCorrupt s line ws).memWf :=
  foldl_memWf (fun _ _ h => ite_memWf (addPoison_memWf h) h) h

theorem atomicAt_memWf {s : State} {line : Nat} {k : AtomKind} {red fal : Bool} {b d : Tab CWord} (h : s.memWf) :
    (atomicAt s line k red fal b d).1.memWf := by
  unfold atomicAt
  dsimp only
  split
  · exact h
  · split
    · have hp : (List.foldl (fun s p => poisonWord s line p.1) (noteCorrupt s line (b.map fun p =>
          (p.1, homeWord s line p.1 fal))) (b.map fun p => (p.1, homeWord s line p.1 fal))).memWf :=
        foldl_memWf (fun _ _ h => poisonWord_memWf h) (noteCorrupt_memWf h)
      exact ite_memWf (foldl_memWf (fun _ _ h => poisonEvent_memWf h) hp) hp
    · exact mergeLine_memWf h

theorem performAtomic_memWf {s : State} {r : Req} {own : Option Nat} (h : s.memWf) :
    (performAtomic s r own).memWf := by
  unfold performAtomic
  dsimp only
  split
  · exact atomicDone_memWf (sendAck_memWf (dropOlder_memWf (atomicAt_memWf h)))
  · exact atomicDone_memWf (sendAck_memWf (dropOlder_memWf (atomicAt_memWf h)))
  · exact h

theorem serveAtomic_memWf {s : State} {r : Req} (h : s.memWf) : (serveAtomic s r).memWf := by
  unfold serveAtomic
  split
  next e => exact clearForWrite_eq h e
  next e => exact performAtomic_memWf (clearForWrite_eq h e)

theorem serveReq_memWf {s : State} {r : Req} (h : s.memWf) : (serveReq s r).memWf := by
  unfold serveReq
  split
  · exact serveRSi_memWf h
  · exact serveRWi_memWf h
  · exact serveOwn_memWf h
  · exact serveWrh_memWf h
  · exact serveSur_memWf h
  · exact serveAtomic_memWf h
  · exact serveAtomic_memWf h

theorem engineTurn_memWf {s : State} {r : Req} (h : s.memWf) : (engineTurn s r).memWf :=
  ite_memWf (engineRecall_memWf h) (ite_memWf h (dropReq_memWf h))

theorem homeEvent_memWf {s : State} {req : Nat} {dirErr : Bool} {is : ReqKind → Bool} (h : s.memWf) :
    (homeEvent s req dirErr is).memWf := by
  unfold homeEvent
  split
  · exact h
  · have ht {r : Req} : (touchHome (arrive s r) r.line).memWf := touchHome_memWf (arrive_memWf h)
    exact ite_memWf h (ite_memWf (arrive_memWf h) (ite_memWf (directoryError_memWf ht)
      (ite_memWf (engineTurn_memWf ht) (serveReq_memWf ht))))

theorem resumeReq_memWf {s : State} {busy : Busy} {r : Req} {slot : Word} (h : s.memWf) :
    (resumeReq s busy r slot).memWf := by
  unfold resumeReq
  refine ite_memWf h ?_
  split
  · exact finishRSi_memWf h
  · exact finishRWi_memWf h
  · exact finishOwn_memWf h
  · split
    · exact sendAck_memWf (mergeWrh_memWf h)
    · exact performAtomic_memWf h
  · exact h

theorem writebackEvent_memWf {s : State} {id : Nat} {dirErr : Bool} (h : s.memWf) :
    (writebackEvent s id dirErr).memWf := by
  unfold writebackEvent
  split
  · exact h
  next w _ =>
    have hm : (mergeLine { s with writebacks := s.writebacks.filter (fun v => v.id != id) } w.line w.words false).memWf :=
      mergeLine_memWf h
    refine ite_memWf h ?_
    dsimp only
    split
    · exact hm
    · refine ite_memWf hm (ite_memWf (putEntry_memWf hm) (elim_memWf (directoryFreed_memWf hm) (fun r => ?_)))
      exact ite_memWf (directoryFreed_memWf hm) (serveReq_memWf (directoryFreed_memWf hm))
    · exact ite_memWf (directoryError_memWf hm) (elim_memWf (putEntry_memWf hm) (fun _ => resumeReq_memWf (putEntry_memWf hm)))

theorem injectNotice_memWf {s : State} {ch : Nat} (h : s.memWf) : (injectNotice s ch).memWf := by
  unfold injectNotice
  dsimp only
  split
  · exact h
  · exact ite_memWf h h

theorem dueNotice?_memWf {s t : State} {f : Flying} (h : s.memWf) (e : dueNotice? s = some (f, t)) : t.memWf := by
  unfold dueNotice? at e
  split at e
  · cases e
  · split at e
    · cases e; exact h
    · cases e

theorem noticeShared_memWf {s : State} {line : Nat} {slot : Word} (h : s.memWf) :
    (noticeShared s line slot).memWf := by
  unfold noticeShared
  exact foldl_memWf (f := fun s d => dropShared s d line) (fun _ _ h => dropShared_memWf h) h

theorem sendWriteback_memWf {s : State} {dom : Nat} {f : Flying} {ws : Tab CWord} {all : Bool} (h : s.memWf) :
    (sendWriteback s dom f ws all).memWf := h

theorem towpathInv_memWf {s : State} (h : s.memWf) : (towpathInv s).memWf := by
  unfold towpathInv
  split
  next e => exact ite_memWf (noticeShared_memWf (dueNotice?_memWf h e)) h
  · exact h

theorem towpathRcw_memWf {s : State} (h : s.memWf) : (towpathRcw s).memWf := by
  unfold towpathRcw
  split
  next e =>
    exact ite_memWf h (dropOwned_memWf (sendWriteback_memWf (noticeShared_memWf (dueNotice?_memWf h e))))
  · exact h

theorem towpathRca_memWf {s : State} (h : s.memWf) : (towpathRca s).memWf := by
  unfold towpathRca
  split
  next e =>
    refine ite_memWf h (foldl_memWf (fun t d ht => ?_) (putEntry_memWf (noticeShared_memWf (dueNotice?_memWf h e))))
    exact dropLine_memWf (sendWriteback_memWf ht)
  · exact h

theorem feedLoads_memWf {s : State} {m : Miss} {r : Reply} (h : s.memWf) : (feedLoads s m r).memWf := h

theorem installReply_memWf {s : State} {m : Miss} {r : Reply} {st : WState} (h : s.memWf) :
    (installReply s m r st).memWf := ite_memWf h (ite_memWf (l1Install_memWf h) (l1Map_memWf h))

theorem takeReply_memWf {s : State} {m : Miss} {r : Reply} {st : WState} (h : s.memWf) : (takeReply s m r st).memWf :=
  dropMiss_memWf (feedLoads_memWf (installReply_memWf h))

theorem retryStores_memWf {s : State} {dom miss : Nat} (h : s.memWf) : (retryStores s dom miss).memWf := by
  unfold retryStores
  refine foldl_memWf (fun t o h => ?_) h
  split
  · exact setOp_memWf (ownWords_memWf h)
  · exact setOp_memWf (ownWords_memWf h)
  · exact h

theorem grantEvent_memWf {s : State} {id : Nat} (h : s.memWf) : (grantEvent s id).memWf := by
  unfold grantEvent
  split
  · exact h
  · refine ite_memWf h ?_
    dsimp only
    split
    · exact h
    · exact retryStores_memWf (takeReply_memWf h)

theorem dropReplies_memWf {s : State} {op : Nat} (h : s.memWf) : (dropReplies s op).memWf := h

theorem hostStore_memWf {s : State} {a : Nat} {w : CWord} (h : s.memWf) : (hostStore s a w).memWf := by
  unfold hostStore
  have hm {w : CWord} : ({ s with host := s.host.setWord (a / 4) w } : State).memWf :=
    withHost_memWf h (Mem.setWord_wf (host_wf h) _ _)
  exact ite_memWf hm (recordIo_memWf hm)

theorem acquireDrop_memWf {s : State} {w : Warp} {sc : Scope} (h : s.memWf) : (acquireDrop s w sc).memWf :=
  ite_memWf (dropSi_memWf h) h

theorem acquireEvent_memWf {s : State} {id : Nat} (h : s.memWf) : (acquireEvent s id).memWf := by
  unfold acquireEvent
  split
  · exact h
  · split
    · exact h
    · split
      · exact ite_memWf h (acquireDrop_memWf (setWarp_memWf h))
      · exact ite_memWf h (acquireDrop_memWf (setWarp_memWf h))

/-! ### Engines' accesses to memory -/

theorem askArrives_memWf {who : ReqSrc} {s : State} {a : Ask} (h : s.memWf) : (askArrives who s a).memWf :=
  ite_memWf h h

theorem askAll_memWf {s : State} {who : ReqSrc} {l : List Ask} (h : s.memWf) : (askAll s who l).memWf := by
  unfold askAll
  refine foldl_memWf (fun t a h => ite_memWf h (engineRecall_memWf h)) (foldl_memWf (fun t a h => askArrives_memWf h) ?_)
  exact ite_memWf h h

theorem askServed_memWf {touch : State → Nat → State} {who : ReqSrc} {l : List Ask} {s : State}
    (ht : ∀ s line, s.memWf → (touch s line).memWf) (h : s.memWf) : (askServed touch who l s).memWf :=
  foldl_memWf (fun _ _ h => ht _ _ h) h

/-- An access waits at the homes, or happens. -/
theorem withAccess_memWf {s act : State} {who : ReqSrc} {l : List (FabKind × List Place)} (h : s.memWf)
    (ha : act.memWf) : (withAccess s who l act).memWf := by
  unfold withAccess
  refine ite_memWf (foldl_memWf (fun t p h => holdOwn_memWf h) (askAll_memWf h)) ?_
  exact askServed_memWf (fun _ _ h => touchHome_memWf h) (foldl_memWf (fun t p h => ownDone_memWf h) ha)

theorem withPlacesFor_memWf {s act : State} {who : ReqSrc} {kind : FabKind} {ps : List Place} (h : s.memWf)
    (ha : act.memWf) : (withPlacesFor s who kind ps act).memWf := withAccess_memWf h ha

theorem withPlaces_memWf {s act : State} {who : ReqSrc} {write : Bool} {ps : List Place} (h : s.memWf)
    (ha : act.memWf) : (withPlaces s who write ps act).memWf := withPlacesFor_memWf h ha

theorem withWalked_memWf {s act : State} {who : ReqSrc} {tables : List Place} {write : Bool} {ps : List Place}
    (h : s.memWf) (ha : act.memWf) : (withWalked s who tables write ps act).memWf := withAccess_memWf h ha

theorem placeHost_memWf {s : State} {p : Place × CWord} (h : s.memWf) : (placeHost s p).memWf :=
  ite_memWf (hostStore_memWf h) h

theorem placesWrite_memWf {s : State} {ws : List (Place × CWord)} (h : s.memWf) : (placesWrite s ws).memWf := by
  unfold placesWrite
  exact foldl_memWf (fun _ _ h => placeHost_memWf h) (foldl_memWf (fun _ _ h => engineWrite_memWf h) h)

theorem storePut_memWf {s : State} {key : Nat} {w : CWord} (h : s.memWf) : (storePut s key w).memWf :=
  writeStore_memWf h

theorem notifyDone_memWf {s : State} {uid : Nat} {n : CopyNotify} {v : Word} (h : s.memWf) :
    (notifyDone s uid n v).memWf := by
  unfold notifyDone
  split
  · exact h
  · exact storePut_memWf h
  · split
    · exact h
    · exact arriveRing_memWf h

/-- An effect that the check of a notification leads to keeps the form. -/
def NotifyArg.memWf : NotifyArg → Prop
  | .ok _ => True
  | .eff e => e.memWf

theorem NotifyArg.memWf.of_eff {r : NotifyArg} {e : Eff} (h : r.memWf) (he : r = .eff e) : e.memWf := by
  subst he; exact h

theorem Cx.notify_memWf {c : Cx} {n : Notify} (hc : c.MemWf) : (Cx.notify c n).memWf := by
  unfold Cx.notify
  split
  · trivial
  · dsimp only
    split
    · trivial
    · split
      · exact xlatFail_memWf hc.pre
      · trivial
  · split
    · trivial
    · trivial

/-! ### Barriers, waits, rings -/

theorem Cx.release_memWf {c : Cx} {s : State} {kind : OpKind} (h : s.memWf) : (c.release s kind).memWf := h

theorem barEff_memWf {o : BarOp} {c : Cx} (hc : c.MemWf) : (barEff o c).memWf := by
  unfold barEff
  dsimp only
  split
  next g t _ _ =>
    split
    · trivial
    · have block {t : State} {k : Block} (h : t.memWf) : (if (o.level == .grid) = true then discardWaiters
          (onWarp t c.w.uid (fun w => w.setSlot c.n (some { c.mine with block := k }))) g.uid else
          onWarp t c.w.uid (fun w => w.setSlot c.n (some { c.mine with block := k }))).memWf :=
        ite_memWf (discardWaiters_memWf (onWarp_memWf h)) (onWarp_memWf h)
      refine eff_ite_memWf trivial (eff_ite_memWf trivial ?_)
      split
      · exact hc.s
      · exact hc.s
      · exact block hc.s
      · exact eff_ite_memWf (block hc.s) (startAcquire_memWf hc.s)
  · trivial

theorem waitEff_memWf {o : WaitOp} {c : Cx} (hc : c.MemWf) : (waitEff o c).memWf := flushWindow_memWf hc.s

/-- An effect that the check of a store word's address leads to keeps the form. -/
def WordChecked.memWf : WordChecked → Prop
  | .ok _ => True
  | .eff e => e.memWf

theorem WordChecked.memWf.of_eff {r : WordChecked} {e : Eff} (h : r.memWf) (he : r = .eff e) : e.memWf := by
  subst he; exact h

theorem Cx.checkWord_memWf {c : Cx} {a : Word} {acc : Nat} (hc : c.MemWf) : (Cx.checkWord c a acc).memWf := by
  unfold Cx.checkWord
  split
  · trivial
  · split
    · exact xlatFail_memWf hc.pre
    · trivial

theorem waitwEff_memWf {o : WaitwOp} {c : Cx} (hc : c.MemWf) : (waitwEff o c).memWf := by
  unfold waitwEff
  dsimp only
  split
  next e => exact (Cx.checkWord_memWf hc).of_eff e
  · refine eff_ite_memWf (containBad_memWf hc.pre) (eff_ite_memWf ?_ (Cx.withSlot_memWf hc))
    exact ite_memWf (startAcquire_memWf hc.s) hc.s

theorem wakeAll_memWf {s : State} {gang key : Nat} (h : s.memWf) : (wakeAll s gang key).memWf := by
  unfold wakeAll
  refine foldl_memWf (fun t w h => ?_) h
  exact foldl_memWf (fun _ _ h => waitwEvent_memWf h) h

theorem wakeEff_memWf {o : WakeOp} {c : Cx} (hc : c.MemWf) : (wakeEff o c).memWf := by
  unfold wakeEff
  split
  next e => exact (Cx.checkWord_memWf hc).of_eff e
  · exact wakeAll_memWf hc.s

theorem rarvEff_memWf {o : RarvOp} {c : Cx} (hc : c.MemWf) : (rarvEff o c).memWf := by
  unfold rarvEff
  split
  · trivial
  · exact Cx.release_memWf hc.s

theorem rwtEff_memWf {o : RwtOp} {c : Cx} (hc : c.MemWf) : (rwtEff o c).memWf := by
  unfold rwtEff
  split
  · trivial
  · exact eff_ite_memWf (startAcquire_memWf hc.s) (Cx.withSlot_memWf hc)

theorem tflagEff_memWf {t : SVal} {c : Cx} (hc : c.MemWf) : (tflagEff t c).memWf :=
  eff_ite_memWf trivial (Cx.release_memWf hc.s)

theorem pauseEvent_memWf {s : State} {uid : Nat} {n : Bool} {past : Block → Bool} (h : s.memWf) :
    (pauseEvent s uid n past).memWf := ite_memWf h (onWarp_memWf h)

/-! ### Ploughs -/

/-- An effect that reading words of the store leads to keeps the form. -/
def ReadWords.memWf : ReadWords → Prop
  | .ok _ => True
  | .eff e => e.memWf

theorem ReadWords.memWf.of_eff {r : ReadWords} {e : Eff} (h : r.memWf) (he : r = .eff e) : e.memWf := by
  subst he; exact h

theorem Cx.consumeAt_memWf {c : Cx} {scratch : Bool} {a : Word} {n : Nat} (hc : c.MemWf) :
    (c.consumeAt scratch a n).memWf := by
  induction n generalizing a with
  | zero => trivial
  | succ n ih =>
    unfold Cx.consumeAt
    split
    · exact xlatFail_memWf hc.pre
    · dsimp only
      split
      · exact containBad_memWf hc.pre
      · split
        · trivial
        · exact ih
theorem Cx.consume_memWf {c : Cx} {a : Word} {n : Nat} (hc : c.MemWf) : (Cx.consume c a n).memWf :=
  Cx.consumeAt_memWf hc

theorem Cx.readDesc_memWf {c : Cx} {a : Word} {align n : Nat} (hc : c.MemWf) : (Cx.readDesc c a align n).memWf := by
  unfold Cx.readDesc
  split
  · trivial
  · exact Cx.consume_memWf hc

theorem granulePass_memWf {s : State} {w : Warp} {l : List NamedGranule} (h : s.memWf) :
    (granulePass s w l).memWf := by
  induction l with
  | nil => trivial
  | cons g rest ih =>
    have hx := warpXlat_memWf (w := w) (va := g.va) h
    unfold granulePass
    split
    next e => rw [e] at hx; exact hx
    next e => rw [e] at hx; exact hx
    · refine iteInduction (motive := XlatPass.memWf) (fun _ => h) (fun _ => ?_)
      split
      · trivial
      · exact ih

/-- An effect that checks of granules lead to keeps the form. -/
def Granules.memWf : Granules → Prop
  | .ok _ => True
  | .eff e => e.memWf

theorem Granules.memWf.of_eff {r : Granules} {e : Eff} (h : r.memWf) (he : r = .eff e) : e.memWf := by
  subst he; exact h

theorem Cx.granules_memWf {c : Cx} {gs : List NamedGranule} (hc : c.MemWf) : (Cx.granules c gs).memWf := by
  unfold Cx.granules
  have hp := granulePass_memWf (w := c.preW) (l := gs) hc.pre
  split
  · trivial
  · split
    next e => rw [e] at hp; exact holdSlot_memWf hp
    next e => rw [e] at hp; exact xlatFail_memWf hp
    · split
      · exact xlatFail_memWf hc.pre
      · trivial

theorem Cx.badChannel_memWf {c : Cx} {va : DWord} {rng write : Bool} (hc : c.MemWf) :
    (Cx.badChannel c va rng write).memWf := xlatFail_memWf hc.pre

theorem Cx.sendParts_memWf {c : Cx} {ps : List Part} (hc : c.MemWf) : (Cx.sendParts c ps).memWf := by
  unfold Cx.sendParts
  refine foldl_memWf (fun t p h => ?_) ?_
  · exact h
  · exact hc.s

theorem nbsaEff_memWf {accd : Bool} {d : SReg} {c : Cx} (hc : c.MemWf) : (nbsaEff accd d c).memWf := by
  unfold nbsaEff
  dsimp only
  split
  next e => exact (Cx.readDesc_memWf hc).of_eff e
  · split
    next e => exact (Cx.consume_memWf hc).of_eff e
    · refine eff_ite_memWf trivial ?_
      split
      next e => exact (Cx.granules_memWf hc).of_eff e
      · split
        · exact Cx.badChannel_memWf hc
        · exact Cx.sendParts_memWf hc

theorem nbcpEff_memWf {d : SReg} {c : Cx} (hc : c.MemWf) : (nbcpEff d c).memWf := by
  unfold nbcpEff
  dsimp only
  split
  next e => exact (Cx.readDesc_memWf hc).of_eff e
  · refine eff_ite_memWf trivial ?_
    split
    next e => exact (Cx.granules_memWf hc).of_eff e
    · exact Cx.sendParts_memWf hc

theorem nbzrEff_memWf {d : SReg} {c : Cx} (hc : c.MemWf) : (nbzrEff d c).memWf := by
  unfold nbzrEff
  dsimp only
  split
  next e => exact (Cx.readDesc_memWf hc).of_eff e
  · refine eff_ite_memWf trivial ?_
    split
    next e => exact (Cx.granules_memWf hc).of_eff e
    · exact Cx.sendParts_memWf hc

theorem nboptEff_memWf {d : SReg} {c : Cx} (hc : c.MemWf) : (nboptEff d c).memWf := by
  unfold nboptEff
  dsimp only
  split
  next e => exact (Cx.readDesc_memWf hc).of_eff e
  · refine eff_ite_memWf trivial ?_
    split
    next e => exact (Cx.granules_memWf hc).of_eff e
    · split
      · exact Cx.badChannel_memWf hc
      · exact Cx.sendParts_memWf hc

theorem nbfnEff_memWf {c : Cx} (hc : c.MemWf) : (nbfnEff c).memWf := by
  unfold nbfnEff
  split
  · exact contain_memWf hc.pre
  · exact dropSi_memWf hc.s

theorem acceptedOp_memWf {s : State} {op : Nat} (h : s.memWf) : (acceptedOp s op).memWf := by
  unfold acceptedOp
  refine ite_memWf h ?_
  split
  · exact h
  · exact ite_memWf h (lowerCtr_memWf (setOp_memWf h))

theorem partAccepted_memWf {s : State} {id : Nat} (h : s.memWf) : (partAccepted s id).memWf := by
  unfold partAccepted
  split
  · exact h
  · exact ite_memWf (acceptedOp_memWf (setPart_memWf h)) h

theorem rereadLine_memWf {s : State} {line : Nat} (h : s.memWf) : (rereadLine s line).memWf := by
  unfold rereadLine
  refine foldl_memWf (fun t q h => ?_) h
  exact h

theorem granuleWrite_memWf {s : State} {p : Part} {g lo hi : Nat} {ws : List CWord} (h : s.memWf) :
    (granuleWrite s p g lo hi ws).memWf :=
  foldl_memWf (fun _ _ h => ite_memWf h (rereadLine_memWf (engineWrite_memWf h))) h

theorem granuleDone_memWf {s : State} {p : Part} {g : Nat} {ws : List CWord} (h : s.memWf) :
    (granuleDone s p g ws).memWf := setHome_memWf h

theorem noteGranule_memWf {s : State} {g : Nat} {ws : List CWord} (h : s.memWf) : (noteGranule s g ws).memWf :=
  foldl_memWf (fun _ _ h => ite_memWf (addPoison_memWf h) h) h

theorem notePoison_memWf {s : State} {g lo hi : Nat} {ws : List CWord} (h : s.memWf) :
    (notePoison s g lo hi ws).memWf := foldl_memWf (fun _ _ h => ite_memWf (poisonEvent_memWf h) h) h

theorem storeSome_memWf {s : State} {p : Part} {g n : Nat} {ws : List CWord} {va : DWord} (h : s.memWf) :
    (storeSome s p g n ws va).memWf := by
  unfold storeSome
  have hu {lo hi : Nat} : (if p.computes = true then notePoison (granuleWrite s p g lo hi ws) g lo hi ws else
      granuleWrite s p g lo hi ws).memWf := ite_memWf (notePoison_memWf (granuleWrite_memWf h)) (granuleWrite_memWf h)
  exact ite_memWf (setPart_memWf hu) (setPart_memWf (granuleDone_memWf hu))

theorem partStep_memWf {s : State} {p : Part} {n : Nat} (h : s.memWf) : (partStep s p n).memWf := by
  unfold partStep
  split
  · exact setPart_memWf h
  · exact setPart_memWf (ite_memWf (noteGranule_memWf h) h)
  · exact setPart_memWf (noteGranule_memWf h)
  · exact storeSome_memWf h
  · exact storeSome_memWf h

theorem freezePart_memWf {s : State} {p : Part} {g : Nat} (h : s.memWf) : (freezePart s p g).memWf :=
  noteFreeze_memWf h

theorem touchEntry_memWf {s : State} {line : Nat} (h : s.memWf) : (touchEntry s line).memWf := setHome_memWf h

theorem runPart_memWf {s : State} {p : Part} {n : Nat} (h : s.memWf) : (runPart s p n).memWf := by
  unfold runPart
  dsimp only
  split
  · exact freezePart_memWf h
  · exact ite_memWf (askAll_memWf h) (askServed_memWf (fun _ _ h => touchEntry_memWf h) (partStep_memWf h))

theorem admitReqs_memWf {s : State} {ch : Nat} (h : s.memWf) : (admitReqs s ch).memWf := h

theorem ploughStep_memWf {s : State} {ch n : Nat} (h : s.memWf) : (ploughStep s ch n).memWf := by
  unfold ploughStep
  split
  · exact h
  · exact ite_memWf (runPart_memWf h) (admitReqs_memWf (runPart_memWf h))

theorem crossGranule_memWf {s : State} {id n : Nat} (h : s.memWf) : (crossGranule s id n).memWf := by
  unfold crossGranule
  split
  · exact h
  · exact ite_memWf (runPart_memWf h) h

theorem partOver_memWf {s : State} {p : Part} {err : Option DWord} (h : s.memWf) : (partOver s p err).memWf := by
  unfold partOver
  dsimp only
  split
  · exact h
  · split
    · exact h
    · split
      · exact h
      · exact h

theorem partCompletes_memWf {s : State} {id : Nat} (h : s.memWf) : (partCompletes s id).memWf := by
  unfold partCompletes
  split
  · exact h
  · exact ite_memWf (partOver_memWf h) h

end Sys2Proof.Machine
end

section
/-! PROOF. Canonical memories, continued: matrix units, copies, collectives and grids. -/

namespace Sys2Proof.Machine

open Sys2Proof

/-! ### Matrix units -/

theorem Cx.checkExtents_memWf {c : Cx} {acc : Nat} {l : List Extent} {e : Eff} (hc : c.MemWf)
    (he : c.checkExtents acc l = some e) : e.memWf := by
  unfold Cx.checkExtents at he
  split at he
  · cases he; trivial
  · obtain ⟨x, -, rfl⟩ := Option.map_eq_some_iff.mp he
    exact xlatFail_memWf hc.pre

theorem Cx.enqueue_memWf {c : Cx} {s : State} {acc : BitVec 4} {g : Guard} {k : MxKind} (h : s.memWf) :
    (c.enqueue s acc g k).memWf := h

theorem mxEff_memWf {acc : BitVec 4} {g : Guard} {rw : Nat} {ext : List Extent} {k : MxKind} {c : Cx} (hc : c.MemWf) :
    (mxEff acc g rw ext k c).memWf := by
  unfold mxEff
  split
  next e => exact Cx.checkExtents_memWf hc e
  · exact Cx.enqueue_memWf hc.s

theorem mmaEff_memWf {o : MmaOp} {c : Cx} (hc : c.MemWf) : (mmaEff o c).memWf := mxEff_memWf hc

/-- An effect that reading a list of outliers leads to keeps the form. -/
def Outliers.memWf : Outliers → Prop
  | .ok _ => True
  | .eff e => e.memWf

theorem Outliers.memWf.of_eff {r : Outliers} {e : Eff} (h : r.memWf) (he : r = .eff e) : e.memWf := by
  subst he; exact h

theorem Cx.outliers_memWf {c : Cx} {t : MmaTy} {a : Word} {n : Nat} (hc : c.MemWf) : (c.outliers t a n).memWf := by
  induction n generalizing a with
  | zero => trivial
  | succ n ih =>
    unfold Cx.outliers
    dsimp only
    split
    next e => exact (Cx.consume_memWf hc).of_eff e
    · split
      · trivial
      · split
        · trivial
        · exact ih

theorem mmaoEff_memWf {o : MmaoOp} {c : Cx} (hc : c.MemWf) : (mmaoEff o c).memWf := by
  unfold mmaoEff
  dsimp only
  split
  · trivial
  · split
    next e => exact Cx.checkExtents_memWf hc e
    · refine eff_ite_memWf trivial ?_
      split
      next e => exact (Cx.outliers_memWf hc).of_eff e
      · exact setWarp_memWf (Cx.enqueue_memWf hc.s)

theorem acldEff_memWf {o : AccMemOp} {c : Cx} (hc : c.MemWf) : (acldEff o c).memWf := mxEff_memWf hc

theorem acstEff_memWf {o : AccMemOp} {c : Cx} (hc : c.MemWf) : (acstEff o c).memWf := mxEff_memWf hc

theorem tdrnEff_memWf {o : TdrnOp} {c : Cx} (hc : c.MemWf) : (tdrnEff o c).memWf := mxEff_memWf hc

theorem setMx_memWf {s : State} {o : MxOp} (h : s.memWf) : (setMx s o).memWf := h

theorem readMxReg_memWf {s : State} {w : Warp} {o : MxOp} {r : Nat} (h : s.memWf) : (readMxReg s w o r).memWf := by
  unfold readMxReg
  dsimp only
  split
  · exact contain_memWf h
  · exact setMx_memWf (correctWords_memWf h)

theorem startMx_memWf {s : State} {o : MxOp} (h : s.memWf) : (startMx s o).memWf := by
  unfold startMx
  split
  · exact readMxReg_memWf h
  · exact setMx_memWf h

theorem mxStart_memWf {s : State} {core : Nat} {side staggered : Bool} (h : s.memWf) :
    (mxStart s core side staggered).memWf := by
  unfold mxStart
  split
  · exact h
  · exact ite_memWf (startMx_memWf h) h

theorem setAccRow_memWf {s : State} {core tile m : Nat} {ws : List Word} (h : s.memWf) :
    (setAccRow s core tile m ws).memWf := by
  unfold setAccRow
  refine foldl_memWf (fun t p h => ?_) h
  exact h

theorem putStore_memWf {s : State} {core : Nat} {plane : Bool} {a : Nat} {ws : List Word} (h : s.memWf) :
    (putStore s core plane a ws).memWf := foldl_memWf (fun _ _ h => writeStore_memWf h) h

theorem accCorrect_memWf {s : State} {core : Nat} {o : MxOp} (h : s.memWf) : (accCorrect s core o).memWf := by
  unfold accCorrect
  refine ite_memWf h (foldl_memWf (fun t m h => ?_) h)
  refine foldl_memWf (fun t n h => ?_) h
  exact ite_memWf (recordEvent_memWf h) h

theorem mxRow_memWf {s : State} {core : Nat} {o : MxOp} {cols : List (List Nat)} {m : Nat} (h : s.memWf) :
    (mxRow s core o cols m).1.memWf := by
  unfold mxRow
  dsimp only
  split
  · exact setAccRow_memWf h
  · exact setAccRow_memWf h
  · exact setAccRow_memWf h
  · dsimp only
    exact putStore_memWf h
  · exact ite_memWf (putStore_memWf (putStore_memWf h)) (putStore_memWf h)
  · exact setAccRow_memWf h
  · exact setAccRow_memWf h
  · exact h

theorem mxResults_memWf {s : State} {core : Nat} {o : MxOp} (h : s.memWf) : (mxResults s core o).1.memWf := by
  unfold mxResults
  refine foldl_fst_memWf (fun r m h => ?_) h
  exact mxRow_memWf h

theorem dropMx_memWf {s : State} {id : Nat} (h : s.memWf) : (dropMx s id).memWf := h

theorem mxFinish_memWf {s : State} {core : Nat} {side : Bool} (h : s.memWf) : (mxFinish s core side).memWf := by
  unfold mxFinish
  split
  · exact h
  next e _ =>
    refine ite_memWf h ?_
    have hs : (if side = true then s else setCore s core { getCore s core with arrayRan := some s.cycle }).memWf :=
      ite_memWf h (setCore_memWf h)
    dsimp only
    split
    · exact dropMx_memWf hs
    · split
      · exact containBad_memWf (dropMx_memWf hs)
      · split
        · exact contain_memWf (dropMx_memWf hs)
        · have hr := mxResults_memWf (core := core) (o := e.op) (accCorrect_memWf (core := core) (o := e.op) hs)
          exact setMx_memWf (ite_memWf (landFlags_memWf hr) (landRegs_memWf (landFlags_memWf hr)))

theorem mxFall_memWf {s : State} {id : Nat} (h : s.memWf) : (mxFall s id).memWf := by
  unfold mxFall
  split
  · exact h
  · split
    · exact h
    · exact ite_memWf h (lowerCtr_memWf (dropMx_memWf h))

/-! ### Copies -/

theorem copyEff_memWf {kind : CopyKind} {o : CopyOp} {c : Cx} (hc : c.MemWf) : (copyEff kind o c).memWf := by
  unfold copyEff
  dsimp only
  split
  next e => exact (Cx.readDesc_memWf hc).of_eff e
  · refine eff_ite_memWf trivial ?_
    split
    · trivial
    · refine eff_ite_memWf trivial ?_
      split
      · trivial
      · split
        · exact xlatFail_memWf hc.pre
        · split
          next e => exact (Cx.notify_memWf hc).of_eff e
          · exact Cx.release_memWf hc.s

theorem showProgress_memWf {s : State} {k : Copy} {st : Nat} (h : s.memWf) : (showProgress s k st).memWf :=
  onWarp_memWf h

theorem copyError_memWf {s : State} {k : Copy} (h : s.memWf) : (copyError s k).memWf :=
  addReport_memWf (lowerCtr_memWf (showProgress_memWf (dropCopy_memWf h)))

theorem copyFault_memWf {s : State} {k : Copy} {va : DWord} {x : Xlat} (h : s.memWf) :
    (copyFault s k va x).memWf := by
  unfold copyFault
  dsimp only
  split
  · exact showProgress_memWf h
  · exact showProgress_memWf h
  · exact copyError_memWf h
  · exact noteFreeze_memWf h
  · exact h
  · exact h

theorem segMoved_memWf {s : State} {k : Copy} {seg : Nat} {now : List Nat} {last : Bool} {notices : List Nat}
    (h : s.memWf) : (segMoved s k seg now last notices).memWf :=
  ite_memWf (showProgress_memWf (setCopy_memWf h)) (setCopy_memWf h)

theorem segFault_memWf {s : State} {k : Copy} {seg : Nat} {va : DWord} {x : Xlat} (h : s.memWf) :
    (segFault s k seg va x).memWf := ite_memWf (copyFault_memWf h) (setCopy_memWf h)

theorem moveIn_memWf {s : State} {k : Copy} {w : Warp} {seg : Nat} {now : List Nat} {last : Bool} (h : s.memWf) :
    (moveIn s k w seg now last).memWf := by
  unfold moveIn
  dsimp only
  split
  · exact holdOwn_memWf h
  · exact ownDone_memWf (segFault_memWf h)
  · exact withWalked_memWf h (segMoved_memWf (foldl_memWf (fun _ _ h => storePut_memWf h) h))

theorem moveOut_memWf {s : State} {k : Copy} {w : Warp} {seg : Nat} {now : List Nat} {last : Bool} (h : s.memWf) :
    (moveOut s k w seg now last).memWf := by
  unfold moveOut
  dsimp only
  split
  · exact holdOwn_memWf h
  · exact ownDone_memWf (segFault_memWf h)
  · exact withWalked_memWf h (segMoved_memWf (placesWrite_memWf h))

theorem copyRowEvent_memWf {s : State} {id : Nat} {words : List Nat} (h : s.memWf) :
    (copyRowEvent s id words).memWf := by
  unfold copyRowEvent
  split
  · exact h
  · split
    · exact h
    · exact ite_memWf h (ite_memWf h (ite_memWf (moveOut_memWf h) (moveIn_memWf h)))

theorem copyCompletesEvent_memWf {s : State} {id : Nat} (h : s.memWf) : (copyCompletesEvent s id).memWf := by
  unfold copyCompletesEvent
  split
  · exact h
  · exact ite_memWf h (lowerCtr_memWf (notifyDone_memWf (showProgress_memWf (dropCopy_memWf h))))

/-! ### Collectives -/

/-- What a read of global words leaves keeps the form. -/
def GlobalWords.memWf : GlobalWords → Prop
  | .ok c _ => c.MemWf
  | .eff e => e.memWf

theorem GlobalWords.memWf.of_eff {r : GlobalWords} {e : Eff} (h : r.memWf) (he : r = .eff e) : e.memWf := by
  subst he; exact h

theorem GlobalWords.memWf.of_ok {r : GlobalWords} {c : Cx} {ws : List Word} (h : r.memWf) (he : r = .ok c ws) :
    c.MemWf := by
  subst he; exact h

theorem Cx.readGlobal_memWf {c : Cx} {vas : List DWord} (hc : c.MemWf) : (Cx.readGlobal c vas).memWf := by
  unfold Cx.readGlobal
  dsimp only
  split
  next e => exact holdSlot_memWf (warpXlats_wait hc.pre e)
  next e => exact xlatFail_memWf (warpXlats_stop hc.pre e)
  · split
    · exact holdSlot_memWf (holdOwn_memWf hc.pre)
    · split
      · exact containFrom_memWf (ownDone_memWf hc.pre)
      · exact ⟨ownDone_memWf hc.pre, ownDone_memWf hc.s⟩

theorem collStart_memWf {c : Cx} {op : Nat} {o : CollOp} {ws : List Word} {rank np : Nat} (hc : c.MemWf) :
    (collStart c op o ws rank np).memWf := by
  unfold collStart
  split
  next e => exact (Cx.notify_memWf hc).of_eff e
  · exact Cx.release_memWf hc.s

theorem collEff_memWf {op : Nat} {o : CollOp} {c : Cx} (hc : c.MemWf) : (collEff op o c).memWf := by
  unfold collEff
  dsimp only
  split
  next e => exact (Cx.readDesc_memWf hc).of_eff e
  · refine eff_ite_memWf trivial (eff_ite_memWf trivial (eff_ite_memWf trivial ?_))
    split
    · trivial
    · split
      next e => exact (Cx.readGlobal_memWf hc).of_eff e
      next e =>
        have h1 := (Cx.readGlobal_memWf hc).of_ok e
        refine eff_ite_memWf (xlatFail_memWf h1.pre) ?_
        split
        next e => exact (Cx.readGlobal_memWf h1).of_eff e
        next e =>
          have h2 := (Cx.readGlobal_memWf h1).of_ok e
          exact eff_ite_memWf (xlatFail_memWf h2.pre) (eff_ite_memWf (xlatFail_memWf h2.pre) (collStart_memWf h2))

theorem collFails_memWf {s : State} {k : Coll} {cause : Byte} {report : Bool} (h : s.memWf) :
    (collFails s k cause report).memWf := by
  unfold collFails
  have hs {v : Word} : (lowerCtr (notifyDone (dropColl (dropHeldOf s (· == .engine k.id)) k.id) k.warp k.notify v) k.warp
      .cp).memWf := lowerCtr_memWf (notifyDone_memWf (dropColl_memWf (dropHeldOf_memWf h)))
  exact ite_memWf (addReport_memWf hs) hs

theorem collError_memWf {s : State} {k : Coll} (h : s.memWf) : (collError s k).memWf := collFails_memWf h

theorem collFault_memWf {s : State} {k : Coll} {write : Bool} {va : DWord} {x : Xlat} (h : s.memWf) :
    (collFault s k write va x).memWf := by
  unfold collFault
  dsimp only
  split
  · exact h
  · exact h
  · exact collError_memWf (postRec_memWf h)
  · exact noteFreeze_memWf h
  · exact h
  · exact h

theorem dropBuffer_memWf {s : State} {k : Coll} {ps : List Place} (h : s.memWf) : (dropBuffer s k ps).memWf :=
  foldl_memWf (fun _ _ h => dropLineCopies_memWf h) h

theorem moveBlock_memWf {s : State} {k : Coll} {peers : List CollPeer} (h : s.memWf) :
    (moveBlock s k peers).memWf := by
  unfold moveBlock
  dsimp only
  split
  · exact holdOwn_memWf h
  · exact ownDone_memWf (collFault_memWf h)
  · split
    · exact holdOwn_memWf h
    · exact ownDone_memWf (collFault_memWf h)
    · exact withAccess_memWf h (dropBuffer_memWf (setColl_memWf (placesWrite_memWf h)))

theorem collBlockEvent_memWf {s : State} {id : Nat} {peers : List CollPeer} (h : s.memWf) :
    (collBlockEvent s id peers).memWf := by
  unfold collBlockEvent
  split
  · exact h
  · exact ite_memWf h (ite_memWf (collError_memWf h) (ite_memWf (ite_memWf (setColl_memWf h) h) (moveBlock_memWf h)))

theorem collCompletesEvent_memWf {s : State} {id : Nat} (h : s.memWf) : (collCompletesEvent s id).memWf := by
  unfold collCompletesEvent
  split
  · exact h
  · exact ite_memWf h (ite_memWf (collError_memWf h) (ite_memWf (collFails_memWf h)
      (ite_memWf (lowerCtr_memWf (notifyDone_memWf (dropColl_memWf h))) h)))

/-! ### Traps, launches, invalidations -/

theorem rettEff_memWf {skip : Bool} {c : Cx} (hc : c.MemWf) : (rettEff skip c).memWf := leaveTrap_memWf hc.s

theorem prgsEff_memWf {v : SVal} {c : Cx} (hc : c.MemWf) : (prgsEff v c).memWf := by
  unfold prgsEff
  split
  · exact hc.s
  · exact setTeam_memWf hc.s

theorem haltEff_memWf {c : Cx} (hc : c.MemWf) : (haltEff c).memWf := stopWarp_memWf hc.s

theorem lnchEff_memWf {o : LnchOp} {c : Cx} (hc : c.MemWf) : (lnchEff o c).memWf := by
  unfold lnchEff
  refine eff_ite_memWf trivial (eff_ite_memWf (xlatFail_memWf hc.pre) ?_)
  split
  · exact xlatFail_memWf hc.pre
  · refine eff_ite_memWf trivial ?_
    split
    · exact containBad_memWf hc.pre
    · exact Cx.release_memWf (Cx.withSlot_memWf hc)

theorem tlbiEff_memWf {k : TlbiKind} {c : Cx} (hc : c.MemWf) : (tlbiEff k c).memWf := Cx.release_memWf hc.s

theorem sigchkEff_memWf {v : Word} {c : Cx} (hc : c.MemWf) : (sigchkEff v c).memWf :=
  eff_ite_memWf (contain_memWf hc.pre) (Cx.withSlot_memWf hc)

theorem movsrEff_memWf {o : MovsrOp} {c : Cx} (hc : c.MemWf) : (movsrEff o c).memWf :=
  eff_ite_memWf (setWarp_memWf hc.s) trivial

theorem setsrEff_memWf {o : SetsrOp} {c : Cx} (hc : c.MemWf) : (setsrEff o c).memWf := by
  unfold setsrEff
  split
  · trivial
  · exact setWarp_memWf hc.s

theorem illegalEff_memWf {p0 : Word} {x : Cx} : (illegalEff p0 x).memWf := eff_ite_memWf trivial trivial

/-! ### Records taken, pods, grids -/

theorem joinPod_memWf {s : State} {part g grid threads : Nat} {e : Nat × Nat} (h : s.memWf) :
    (joinPod s part g grid threads e).memWf := h

theorem takeHead_memWf {s : State} {part qn : Nat} {image : List (Nat × Word)} (h : s.memWf) :
    (takeHead s part qn image).memWf := ite_memWf h (elim_memWf h (fun _ => joinPod_memWf h))

theorem takeRecord_memWf {s : State} {part : Nat} {image : List (Nat × Word)} (h : s.memWf) :
    (takeRecord s part image).memWf := by
  unfold takeRecord
  split
  · exact h
  · split
    · exact h
    · exact ite_memWf (holdOwn_memWf h) (ownDone_memWf (takeHead_memWf h))

theorem sweepPods_memWf {s : State} (h : s.memWf) : (sweepPods s).memWf := h

theorem podRegister_memWf {s : State} {part group rank count : Nat} (h : s.memWf) :
    (podRegister s part group rank count).memWf := by
  unfold podRegister
  split
  · exact h
  · exact ite_memWf (ite_memWf h (sweepPods_memWf (setPod_memWf h))) (ite_memWf h (sweepPods_memWf (setPod_memWf h)))

theorem podMessage_memWf {s : State} {part group rank : Nat} {n : BitVec 6} {arrivals drops : Nat} (h : s.memWf) :
    (podMessage s part group rank n arrivals drops).memWf := by
  unfold podMessage
  split
  · exact h
  · split
    · split
      · exact h
      · exact ite_memWf h (sweepPods_memWf (setPod_memWf h))
    · exact ite_memWf h (sweepPods_memWf (setPod_memWf h))

theorem podPhase_memWf {s : State} {part group : Nat} {n : BitVec 6} (h : s.memWf) :
    (podPhase s part group n).memWf := by
  unfold podPhase
  split
  · exact h
  · exact ite_memWf h (sweepPods_memWf (elim_memWf (setPod_memWf h) (fun _ => releaseBar_memWf (setPod_memWf h))))

theorem sendInterrupt_memWf {s : State} {part : Nat} (h : s.memWf) : (sendInterrupt s part).memWf := h

theorem podDropAll_memWf {s : State} {part group : Nat} (h : s.memWf) : (podDropAll s part group).memWf := by
  unfold podDropAll
  refine foldl_memWf (fun t n h => ?_) h
  split
  · exact h
  · exact ite_memWf h (podArrive_memWf h)

theorem podGridOver_memWf {s : State} {g : Grid} (h : s.memWf) : (podGridOver s g).memWf := by
  unfold podGridOver
  split
  · exact h
  · dsimp only
    exact ite_memWf h (podDropAll_memWf h)

theorem gridCompletes_memWf {s : State} {grid : Nat} (h : s.memWf) : (gridCompletes s grid).memWf := by
  unfold gridCompletes
  split
  · exact h
  next g _ =>
    have hw {ps : List (Place × CWord)} : (if g.r.cint = true then sendInterrupt (placesWrite s ps) g.part else
        placesWrite s ps).memWf := ite_memWf (sendInterrupt_memWf (placesWrite_memWf h)) (placesWrite_memWf h)
    exact ite_memWf h (withWalked_memWf h (sweepPods_memWf (podGridOver_memWf (setPartition_memWf hw))))

theorem fillEvent_memWf {s : State} {id : Nat} (h : s.memWf) : (fillEvent s id).memWf := by
  unfold fillEvent
  split
  · exact h
  · refine ite_memWf h (withPlaces_memWf h ?_)
    dsimp only
    split
    · exact h
    · exact takeReply_memWf h

/-! ### Accesses of this device to its own memory over the fabric; stores acknowledged -/

theorem dropRemote_memWf {s : State} {o : Op} (h : s.memWf) : (dropRemote s o).memWf := by
  unfold dropRemote
  split
  · exact h
  · refine foldl_memWf (fun t x h => ?_) h
    split
    · exact dropCopies_memWf h
    · exact h

theorem storeHostWords_memWf {s : State} {o : Op} (h : s.memWf) : (storeHostWords s o).memWf := by
  unfold storeHostWords
  refine foldl_memWf (fun t x h => ?_) (dropRemote_memWf h)
  split
  · exact ite_memWf h (hostStore_memWf h)
  · exact h

theorem ackNotices_memWf {before after : State} {op : Nat} (h : after.memWf) : (ackNotices before after op).memWf := h

theorem atomicPlaces_memWf {s : State} {ps : List Place} {red : Bool} {k : AtomKind} {b d : List CWord} (h : s.memWf)
    : (atomicPlaces s ps red k b d).1.memWf := by
  unfold atomicPlaces
  split
  · exact h
  · exact atomicAt_memWf (ite_memWf (putEntry_memWf (sendInv_memWf h)) h)

theorem ownAtomic_memWf {o : Op} {k : AtomKind} {red : Bool} {s : State} {lane : Nat} (h : s.memWf) :
    (ownAtomic o k red s lane).memWf := by
  unfold ownAtomic
  extract_lets ws pa req r
  have hr : r.1.memWf := by
    unfold r
    split
    · split
      · exact atomicPlaces_memWf (fabProtRecord_memWf h)
      · exact atomicPlaces_memWf h
    · exact atomicPlaces_memWf h
  split
  · exact hr
  · exact ackNotices_memWf (setOp_memWf hr)

theorem performOwn_memWf {s : State} {o : Op} (h : s.memWf) : (performOwn s o).memWf := by
  unfold performOwn
  refine ite_memWf h ?_
  split
  · exact withPlacesFor_memWf h (ackNotices_memWf (setOp_memWf (placesWrite_memWf h)))
  · exact withPlacesFor_memWf h (ackNotices_memWf (setOp_memWf (placesWrite_memWf h)))
  · exact withPlacesFor_memWf h (ackNotices_memWf (setOp_memWf (placesWrite_memWf h)))
  · exact withPlacesFor_memWf h (foldl_memWf (fun _ _ h => ownAtomic_memWf h) h)
  · exact withPlacesFor_memWf h (foldl_memWf (fun _ _ h => ownAtomic_memWf h) h)
  · exact withPlacesFor_memWf h (foldl_memWf (fun _ _ h => l1Install_memWf h) (setOp_memWf h))

theorem storeAckEvent_memWf {s : State} {id : Nat} (h : s.memWf) : (storeAckEvent s id).memWf := by
  unfold storeAckEvent
  split
  · exact h
  next o _ =>
    have finish : (dropOp (storeHostWords (dropReplies s id) o) id).memWf :=
      dropOp_memWf (storeHostWords_memWf (dropReplies_memWf h))
    refine ite_memWf h ?_
    dsimp only
    split
    · exact ite_memWf h (lowerCtr_memWf (dropOp_memWf (foldl_memWf (fun _ _ h => stsWord_memWf h) h)))
    · exact ite_memWf (performOwn_memWf h) (ite_memWf (lowerCtr_memWf finish) h)
    · exact ite_memWf (performOwn_memWf h) (ite_memWf (lowerCtr_memWf finish) h)
    · exact ite_memWf (lowerCtr_memWf (setOp_memWf h)) (ite_memWf (performOwn_memWf h) (ite_memWf finish h))
    · have hd := dropRemote_memWf (o := o) h
      exact ite_memWf (acceptRed_memWf h) (ite_memWf (performOwn_memWf h)
        (ite_memWf (dropOp_memWf (dropReplies_memWf hd)) (setOp_memWf hd)))
    · exact h

end Sys2Proof.Machine
end

section
/-! PROOF. Canonical memories, continued: soft memory. -/

namespace Sys2Proof.Machine

open Sys2Proof

/-! ### Soft memory at issue -/

theorem Cx.checkOwn_memWf {c : Cx} {a : Word} {n : Nat} {write : Bool} {e : Eff} (hc : c.MemWf)
    (he : c.checkOwn a n write = some e) : e.memWf := by
  obtain ⟨x, -, rfl⟩ := Option.map_eq_some_iff.mp he
  exact xlatFail_memWf hc.pre

theorem Cx.withHandle_memWf {c : Cx} {h : BitVec 4} {x : Handle} (hc : c.MemWf) : (Cx.withHandle c h x).memWf :=
  setWarp_memWf hc.s

theorem Cx.readOwn_memWf {c : Cx} {a : Word} {n : Nat} (hc : c.MemWf) : (Cx.readOwn c a n).memWf := by
  unfold Cx.readOwn
  split
  next e => exact Cx.checkOwn_memWf hc e
  · exact Cx.consumeAt_memWf hc

theorem sregEff_memWf {o : SregOp} {c : Cx} (hc : c.MemWf) : (sregEff o c).memWf := by
  unfold sregEff
  dsimp only
  split
  · trivial
  · split
    next e => exact (Cx.readOwn_memWf hc).of_eff e
    · refine eff_ite_memWf trivial ?_
      split
      next e => exact holdSlot_memWf (warpXlats_wait hc.pre e)
      next e => exact xlatFail_memWf (warpXlats_stop hc.pre e)
      · exact Cx.withHandle_memWf hc

/-- An effect that reading a list leads to keeps the form. -/
def ReadList.memWf : ReadList → Prop
  | .ok _ => True
  | .eff e => e.memWf

theorem ReadList.memWf.of_eff {r : ReadList} {e : Eff} (h : r.memWf) (he : r = .eff e) : e.memWf := by
  subst he; exact h

/-- An effect that translations of a list's addresses lead to keeps the form. -/
def SoftXlats.memWf : SoftXlats → Prop
  | .ok _ => True
  | .eff e => e.memWf

theorem SoftXlats.memWf.of_eff {r : SoftXlats} {e : Eff} (h : r.memWf) (he : r = .eff e) : e.memWf := by
  subst he; exact h

theorem Cx.readList_memWf {c : Cx} {h : BitVec 4} {n : Option Nat} {p : SReg} {out : Option Word} (hc : c.MemWf) :
    (Cx.readList c h n p out).memWf := by
  unfold Cx.readList
  refine iteInduction (motive := ReadList.memWf) (fun _ => trivial) (fun _ => ?_)
  dsimp only
  split
  · trivial
  · split
    next e =>
      obtain ⟨x, -, hx⟩ := Option.bind_eq_some_iff.mp e
      exact Cx.checkOwn_memWf hc hx
    · split
      next e => exact (Cx.readOwn_memWf hc).of_eff e
      · exact iteInduction (motive := ReadList.memWf) (fun _ => trivial) (fun _ => trivial)

theorem Cx.softXlat_memWf {c : Cx} {bad : Nat → Attr → Bool} {acc : Nat} {vas : List DWord} (hc : c.MemWf) :
    (Cx.softXlat c bad acc vas).memWf := by
  unfold Cx.softXlat
  split
  next e => exact holdSlot_memWf (warpXlats_wait hc.pre e)
  next e => exact xlatFail_memWf (warpXlats_stop hc.pre e)
  · trivial

theorem Cx.sendSoft_memWf {c : Cx} {s : State} {dst : Nat} {o : SoftOp} (h : s.memWf) : (c.sendSoft s dst o).memWf := h

theorem Cx.onList_memWf {c : Cx} {h : BitVec 4} {p : SReg} {out : Option Word} {ok : Handle → SoftDesc → Bool}
    {f : Handle → SoftDesc → SoftList → Eff} (hc : c.MemWf) (hf : ∀ h d l, (f h d l).memWf) :
    (c.onList h p out ok f).memWf := by
  unfold Cx.onList
  split
  · trivial
  · refine eff_ite_memWf trivial ?_
    split
    next e => exact (Cx.readList_memWf hc).of_eff e
    · exact hf _ _ _

theorem sldEff_memWf {o : SldOp} {c : Cx} (hc : c.MemWf) : (sldEff o c).memWf := by
  unfold sldEff
  refine Cx.onList_memWf hc (fun h d l => ?_)
  split
  next e => exact (Cx.softXlat_memWf hc).of_eff e
  · exact Cx.sendSoft_memWf hc.s

theorem sstEff_memWf {o : SstOp} {c : Cx} (hc : c.MemWf) : (sstEff o c).memWf := by
  unfold sstEff
  refine Cx.onList_memWf hc (fun h d l => ?_)
  split
  next e => exact (Cx.softXlat_memWf hc).of_eff e
  · exact Cx.sendSoft_memWf (Cx.withHandle_memWf hc)

theorem shrdEff_memWf {o : ShrdOp} {c : Cx} (hc : c.MemWf) : (shrdEff o c).memWf :=
  Cx.onList_memWf hc (fun _ _ _ => Cx.sendSoft_memWf hc.s)

theorem sldaEff_memWf {o : SldaOp} {c : Cx} (hc : c.MemWf) : (sldaEff o c).memWf := by
  unfold sldaEff
  refine Cx.onList_memWf hc (fun h d l => ?_)
  split
  next e => exact (Cx.softXlat_memWf hc).of_eff e
  · split
    next e => exact (Cx.softXlat_memWf hc).of_eff e
    · exact Cx.sendSoft_memWf (Cx.withHandle_memWf hc)

theorem sstaEff_memWf {o : SstaOp} {c : Cx} (hc : c.MemWf) : (sstaEff o c).memWf := by
  unfold sstaEff
  refine Cx.onList_memWf hc (fun h d l => ?_)
  split
  next e => exact (Cx.softXlat_memWf hc).of_eff e
  · exact Cx.sendSoft_memWf (Cx.withHandle_memWf hc)

theorem scmtEff_memWf {o : ScmtOp} {c : Cx} (hc : c.MemWf) : (scmtEff o c).memWf := by
  unfold scmtEff
  dsimp only
  split
  · trivial
  · exact Cx.sendSoft_memWf (Cx.withHandle_memWf hc)

theorem snrmEff_memWf {o : SnrmOp} {c : Cx} (hc : c.MemWf) : (snrmEff o c).memWf := by
  unfold snrmEff
  split
  next e => exact (Cx.readList_memWf hc).of_eff e
  · exact Cx.sendSoft_memWf hc.s

/-! ### Soft memory: results, regions and staging -/

theorem putOwn_memWf {s : State} {w : Warp} {addr : Nat} {ws : List (Nat × CWord)} (h : s.memWf) :
    (putOwn s w addr ws).memWf := foldl_memWf (fun _ _ h => storePut_memWf h) h

theorem putList_memWf {s : State} {w : Warp} {addr : Nat} {dense : Bool} {l : List (Nat × CWord)} (h : s.memWf) :
    (putList s w addr dense l).memWf := putOwn_memWf h

theorem softContain_memWf {s : State} {w : Warp} {op : Op} {o : SoftOp} {lane i j : Nat} {x : CWord} (h : s.memWf) :
    (softContain s w op o lane i j x).memWf := containFrom_memWf h

theorem landSld_memWf {s : State} {w : Warp} {op : Op} {o : SoftOp} (h : s.memWf) : (landSld s w op o).memWf := by
  unfold landSld
  split
  · exact softContain_memWf h
  · exact dropOp_memWf (lowerCtr_memWf (landFlags_memWf (landRegs_memWf h)))

theorem landSlda_memWf {s : State} {w : Warp} {op : Op} {o : SoftOp} (h : s.memWf) : (landSlda s w op o).memWf := by
  unfold landSlda
  dsimp only
  split
  · exact softContain_memWf h
  · have hs {l : List (Nat × CWord)} {fl : Word} :
        (lowerCtr (landFlags (putList s w o.outAddr o.dense l) w.uid .sf fl) w.uid .sf).memWf :=
      lowerCtr_memWf (landFlags_memWf (putList_memWf h))
    exact ite_memWf (dropOp_memWf hs) (setOp_memWf hs)

theorem landShrd_memWf {s : State} {w : Warp} {op : Op} {o : SoftOp} {m : ShrdMode} {addr : Bool} (h : s.memWf) :
    (landShrd s w op o m addr).memWf := dropOp_memWf (lowerCtr_memWf (landFlags_memWf (landRegs_memWf h)))

theorem landSnrm_memWf {s : State} {w : Warp} {op : Op} {o : SoftOp} {smax : Bool} (h : s.memWf) :
    (landSnrm s w op o smax).memWf := dropOp_memWf (lowerCtr_memWf (landFlags_memWf (putOwn_memWf h)))

theorem landSoft_memWf {s : State} {op : Op} {o : SoftOp} (h : s.memWf) : (landSoft s op o).memWf := by
  unfold landSoft
  split
  · exact h
  · dsimp only
    split
    · exact withPlaces_memWf h (landSld_memWf h)
    · exact ite_memWf h (withPlaces_memWf h (landSlda_memWf h))
    · exact landShrd_memWf h
    · exact landSnrm_memWf h
    · exact h
    · exact h
    · exact h

theorem takeRegion_memWf {s : State} {part : Nat} {ctx : Bool} {d : SoftDesc} (h : s.memWf) :
    (takeRegion s part ctx d).memWf := by
  unfold takeRegion
  refine ite_memWf h ?_
  cases softPlace? s part ctx (d.wbase + 12) with
  | none => exact h
  | some p => exact ite_memWf (addPoison_memWf h) h

theorem withRegion_memWf {s : State} {id part : Nat} {ctx : Bool} {d : SoftDesc} {act : State → State} (h : s.memWf)
    (ha : ∀ t, t.memWf → (act t).memWf) : (withRegion s id part ctx d act).memWf :=
  ite_memWf (holdOwn_memWf h) (ownDone_memWf (ha _ (takeRegion_memWf h)))

theorem setRegion_memWf {s : State} {r : Region} (h : s.memWf) : (setRegion s r).memWf := h

theorem allStaged_memWf {s : State} {op : Op} {o : SoftOp} (h : s.memWf) : (allStaged s op o).memWf := by
  unfold allStaged
  split
  · exact dropOp_memWf (lowerCtr_memWf h)
  · exact lowerCtr_memWf (setOp_memWf h)
  · exact ite_memWf (dropOp_memWf h) (setOp_memWf h)

theorem stageEntry_memWf {op : Op} {o : SoftOp} {s : State} (h : s.memWf) : (stageEntry op o s).memWf := by
  unfold stageEntry
  refine ite_memWf (allStaged_memWf h) ?_
  extract_lets e x t
  have ht : t.memWf := ite_memWf (elim_memWf h (fun _ => setRegion_memWf h)) h
  exact ite_memWf (allStaged_memWf ht) (setOp_memWf ht)

theorem stageNext_memWf {s : State} {op : Op} {o : SoftOp} (h : s.memWf) : (stageNext s op o).memWf :=
  withRegion_memWf h (fun _ h => stageEntry_memWf h)

theorem softStagedEvent_memWf {s : State} {id : Nat} (h : s.memWf) : (softStagedEvent s id).memWf := by
  unfold softStagedEvent
  split
  · exact h
  · split
    · exact ite_memWf (stageNext_memWf h) h
    · exact h

/-! ### Commits of soft memory

A commit's work looks at one state all along; only an SSTA operation that it credits changes there. -/

@[simp] theorem Work.write_s (k : Work) (p : Place) (w : CWord) : (k.write p w).s = k.s := rfl
@[simp] theorem Work.writeSlot_s (k : Work) (p : Place) (w : CWord) : (k.writeSlot p w).s = k.s := rfl

@[simp] theorem Work.credit_s (k : Work) (warp : Nat) (fl : Word) : (k.credit warp fl).s = k.s := by
  unfold Work.credit
  split
  · rfl
  · rfl

@[simp] theorem Work.meet_s (k : Work) (p : Place) (w : CWord) : (k.meet p w).s = k.s := by
  unfold Work.meet
  split
  · rfl
  · rfl

@[simp] theorem Work.note_s (k : Work) (p : Place) (bad : Bool) : (k.note p bad).s = k.s := by
  unfold Work.note
  split
  · rfl
  · rfl

@[simp] theorem Work.put_s (k : Work) (p : Place) (d : Word) (bad : Bool) : (k.put p d bad).s = k.s := by
  simp [Work.put]

@[simp] theorem Work.putWake_s (k : Work) (p : Place) (d : Word) (bad : Bool) : (k.putWake p d bad).s = k.s := by
  simp [Work.putWake]

@[simp] theorem storeWord_s (k : Work) (e : Staged) (p : Place) (v : CWord) : (storeWord k e p v).s = k.s := by
  unfold storeWord
  dsimp only
  split
  · split
    · simp
    · simp
  · split
    · simp
    · simp

/-- What a piece of a commit's work gives has the property; where it fails, its state keeps the form. -/
def Gives {α : Type} (P : α → Prop) : Except Work α → Prop
  | .ok a => P a
  | .error k => k.s.memWf

theorem gives_bind {α β : Type} {P : α → Prop} {Q : β → Prop} {r : Except Work α} {f : α → Except Work β} (h : Gives P r)
    (hf : ∀ a, P a → Gives Q (f a)) : Gives Q (r.bind f) := by
  cases r with
  | error k => exact h
  | ok a => exact hf a h

theorem gives_map {α β : Type} {P : α → Prop} {Q : β → Prop} {r : Except Work α} {f : α → β} (h : Gives P r)
    (hf : ∀ a, P a → Q (f a)) : Gives Q (r.map f) := by
  cases r with
  | error k => exact h
  | ok a => exact hf a h

/-- Work done for each entry of a list in turn. -/
theorem gives_foldl {α β : Type} {P : α → Prop} {f : β → α → Except Work α} {l : List β} {r : Except Work α}
    (h : Gives P r) (hf : ∀ b a, P a → Gives P (f b a)) : Gives P (l.foldl (fun r b => r.bind (f b)) r) :=
  List.foldlRecOn l _ h (fun _ hr b _ => gives_bind hr (hf b))

/-- A piece of a commit's work that gives work over a state in canonical form. -/
def GivesWf (r : Works) : Prop := Gives (fun k => k.s.memWf) r

theorem GivesWf.of_ok {r : Works} {k : Work} (h : GivesWf r) (e : r = .ok k) : k.s.memWf := by
  subst e; exact h

theorem Work.place_gives {k : Work} {va : DWord} (h : k.s.memWf) : Gives (fun r => r.1.s.memWf) (k.place va) := by
  unfold Work.place
  extract_lets k'
  have hk : k'.s.memWf := by
    unfold k'
    split
    · exact h
    · exact h
  split
  · exact hk
  · exact hk

theorem header_gives {k : Work} {d : SoftDesc} {i : Nat} (h : k.s.memWf) : Gives (fun r => r.1.s.memWf) (header k d i) :=
  Work.place_gives h

theorem writeRecord_gives {k : Work} {d : SoftDesc} {x : Nat} {ws : List CWord} (h : k.s.memWf) :
    GivesWf (writeRecord k d x ws) :=
  gives_foldl (r := .ok _) h (fun _ _ h => gives_map (Work.place_gives h) (fun _ h => h))

theorem applyStore_gives {k : Work} {d : SoftDesc} {x : Nat} {e : Staged} (h : k.s.memWf) :
    GivesWf (applyStore k d x e) := by
  refine gives_bind (Work.place_gives h) (fun ⟨k, p⟩ h => writeRecord_gives ?_)
  exact List.foldlRecOn _ _ (motive := fun k : Work => k.s.memWf) h (fun _ h _ _ => by simpa using h)

theorem writeFrame_gives {k : Work} {d : SoftDesc} {x : Nat} {top epoch : CWord} {m : Nat} (h : k.s.memWf) :
    GivesWf (writeFrame k d x top epoch m) := by
  refine gives_bind (writeRecord_gives h) (fun k h => gives_bind (Work.place_gives h) (fun ⟨k, p⟩ h => ?_))
  exact gives_map (Work.place_gives h) (fun ⟨k, q⟩ h => by simpa using h)

theorem forwardCommit_gives {k : Work} {d : SoftDesc} {epoch : CWord} {es : List Staged} (h : k.s.memWf) :
    GivesWf (forwardCommit k d epoch es) := by
  refine gives_bind (header_gives h) (fun ⟨k, p0⟩ h => gives_bind (header_gives h) (fun ⟨k, p1⟩ h =>
    gives_bind (header_gives h) (fun ⟨k, p2⟩ h => ?_)))
  have hk {ps : List Place} : (ps.foldl (fun k p => k.meet p (k.read p)) k).s.memWf :=
    List.foldlRecOn _ _ (motive := fun k : Work => k.s.memWf) h (fun _ h _ _ => by simpa using h)
  refine iteInduction (motive := GivesWf) (fun _ => hk) (fun _ => ?_)
  refine gives_map (gives_foldl (writeFrame_gives hk) (fun p k h => applyStore_gives h)) (fun k h => ?_)
  simpa using h

theorem applySlda_gives {k : Work} {d : SoftDesc} {e : Staged} (h : k.s.memWf) : GivesWf (applySlda k d e) := by
  refine gives_foldl (r := .ok _) h (fun j k h => gives_map (Work.place_gives h) (fun ⟨k, p⟩ h => ?_))
  dsimp only
  split
  · simpa using h
  · simpa using h

theorem undoWord_gives {u : Undone} {d : SoftDesc} {slot j : Nat} {w old v : CWord} (h : u.k.s.memWf) :
    Gives (fun u => u.k.s.memWf) (undoWord u d slot j w old v) := by
  refine gives_bind (Work.place_gives h) (fun ⟨k, gp⟩ h => gives_map (Work.place_gives h) (fun ⟨k, sp⟩ h => ?_))
  simpa using h

theorem undoRecord_gives {k : Work} {d : SoftDesc} {rec_ : List CWord} (h : k.s.memWf) :
    Gives (fun u => u.k.s.memWf) (undoRecord k d rec_) :=
  gives_foldl (r := .ok _) h (fun _ _ h => undoWord_gives h)

theorem readRecord_gives {k : Work} {d : SoftDesc} {x : Nat} (h : k.s.memWf) :
    Gives (fun r => r.1.s.memWf) (readRecord k d x) := by
  refine gives_foldl (r := .ok _) h (fun j l h => gives_map (Work.place_gives h) (fun ⟨k, p⟩ h => ?_))
  simpa using h

theorem undoAt_gives {k : Work} {d : SoftDesc} {es : List Staged} {x : Nat} (h : k.s.memWf) :
    GivesWf (undoAt k d es x) := by
  refine gives_bind (readRecord_gives h) (fun r h => gives_map (undoRecord_gives h) (fun u h => ?_))
  dsimp only
  split
  · exact h
  · split
    · exact h
    · split
      · simpa using setOp_memWf h
      · exact h

theorem adjointCommit_gives {k : Work} {d : SoftDesc} {slda ssta : List Staged} (h : k.s.memWf) :
    GivesWf (adjointCommit k d slda ssta) := by
  refine gives_bind (gives_foldl (P := fun k : Work => k.s.memWf) (r := .ok _) h (fun e k h => applySlda_gives h)) (fun k h =>
    gives_bind (header_gives h) (fun ⟨k, p0⟩ h => gives_bind (header_gives h) (fun ⟨k, p1⟩ h => ?_)))
  have hm {p : Place} {w : CWord} : (k.meet p w).s.memWf := by simpa using h
  refine iteInduction (motive := GivesWf) (fun _ => hm) (fun _ => iteInduction (motive := GivesWf) (fun _ => hm)
    (fun _ => gives_bind (readRecord_gives hm) (fun ⟨k, frame⟩ h => ?_)))
  refine gives_map (gives_foldl (P := fun k : Work => k.s.memWf) (r := .ok _) h (fun i k h => undoAt_gives h)) (fun k h => ?_)
  simpa using h

theorem Work.enter_memWf {k : Work} (h : k.s.memWf) : (Work.enter k).memWf := by
  unfold Work.enter
  exact foldl_memWf (fun _ _ h => addPoison_memWf h) (foldl_memWf (fun _ _ h => poisonEvent_memWf h) (placesWrite_memWf h))

theorem commitWork_memWf {s : State} {r : Region} {arr : List Arrival} {a : Arrival} {es : List Staged} (h : s.memWf) :
    (commitWork s r arr a es).1.s.memWf := by
  unfold commitWork
  extract_lets k0 d done
  have hd : done.1.s.memWf := by
    unfold done
    split
    · exact h
    · split
      next e =>
        exact GivesWf.of_ok (iteInduction (fun _ => adjointCommit_gives (k := k0) h) (fun _ => forwardCommit_gives h)) e
      · exact h
  have hh := header_gives (d := d) (i := 3) hd
  dsimp only
  split
  next k p e => rw [e] at hh; rw [Work.putWake_s]; exact hh
  next e => rw [e] at hh; exact hh

theorem commitRegion_memWf {s : State} {r : Region} {arr : List Arrival} {a : Arrival} (h : s.memWf) :
    (commitRegion s r arr a).memWf := by
  unfold commitRegion
  have he := Work.enter_memWf (commitWork_memWf (r := r) (arr := arr) (a := a) (es := rankSort (s.staged.filter (fun e =>
    e.region == r.base && decide (e.epoch.toNat ≤ r.epoch.toNat)))) h)
  exact withWalked_memWf h (ite_memWf (ite_memWf he he) (setRegion_memWf (ite_memWf he he)))

theorem runCommit_memWf {s : State} {base : Nat} (h : s.memWf) : (runCommit s base).memWf := by
  unfold runCommit
  split
  · exact h
  · split
    · exact h
    · exact ite_memWf h (commitRegion_memWf h)

theorem arriveAt_memWf {op : Op} {o : SoftOp} {rev : Bool} {s : State} (h : s.memWf) :
    (arriveAt op o rev s).memWf := by
  unfold arriveAt
  dsimp only
  split
  · exact h
  · exact runCommit_memWf (setRegion_memWf (setOp_memWf h))

theorem commitArrivalEvent_memWf {s : State} {id : Nat} (h : s.memWf) : (commitArrivalEvent s id).memWf := by
  unfold commitArrivalEvent
  split
  · exact runCommit_memWf h
  · split
    · exact h
    · split
      · split
        · exact ite_memWf h (withRegion_memWf h (fun _ h => arriveAt_memWf h))
        · exact h
      · exact h

theorem landSsta_memWf {s : State} {id : Nat} (h : s.memWf) : (landSsta s id).memWf := by
  unfold landSsta
  split
  · exact h
  · split
    · dsimp only
      split
      · exact containFrom_memWf (dropOp_memWf (putList_memWf h))
      · exact landFlags_memWf (landRegs_memWf (dropOp_memWf (putList_memWf h)))
    · exact dropOp_memWf h

theorem completeArrival_memWf {s : State} {c : Commit} {a : Arrival} (h : s.memWf) :
    (completeArrival s c a).memWf := by
  unfold completeArrival
  split
  · exact h
  · exact onWarp_memWf (lowerCtr_memWf (dropOp_memWf h))

theorem commitWord_memWf {s : State} {c : Commit} {x : Nat × Bool × CWord} (h : s.memWf) : (commitWord s c x).memWf :=
  withPlaces_memWf h (placesWrite_memWf h)

theorem dropCommitted_memWf {s : State} {c : Commit} (h : s.memWf) : (dropCommitted s c).memWf := by
  unfold dropCommitted
  refine foldl_memWf (fun t a h => ?_) h
  split
  · exact h
  · exact foldl_memWf (fun _ _ h => dropLineCopies_memWf h) h

theorem scmtCompletesEvent_memWf {s : State} {id pa : Nat} (h : s.memWf) : (scmtCompletesEvent s id pa).memWf := by
  unfold scmtCompletesEvent
  split
  · exact h
  next c _ =>
    have hd : (dropCommitted { s with commits := s.commits.filter (fun x => x.id != id) } c).memWf := dropCommitted_memWf h
    exact ite_memWf (elim_memWf h (fun _ => commitWord_memWf h)) (ite_memWf h
      (foldl_memWf (fun _ _ h => completeArrival_memWf h) (foldl_memWf (fun _ _ h => landSsta_memWf h) hd)))

/-! ### Loads that land, releases -/

theorem landLoad_memWf {s : State} {w : Warp} {o : Op} (h : s.memWf) : (landLoad s w o).memWf := by
  unfold landLoad
  dsimp only
  split
  · exact containFrom_memWf (dropReplies_memWf h)
  · exact dropOp_memWf (lowerCtr_memWf (landFlags_memWf (landRegs_memWf (dropReplies_memWf h))))

theorem fillRemote_memWf {s : State} {w : Warp} {old new : Op} (h : s.memWf) : (fillRemote s w old new).memWf := by
  unfold fillRemote
  dsimp only
  split
  · exact foldl_memWf (fun _ _ h => l1Install_memWf h) h
  · exact foldl_memWf (fun _ _ h => l1Install_memWf h) h
  · exact dropRemote_memWf h
  · exact h

theorem landEvent_memWf {s : State} {id : Nat} {remote : List CWord} (h : s.memWf) :
    (landEvent s id remote).memWf := by
  unfold landEvent
  split
  · exact h
  · split
    · exact h
    · split
      · exact landSoft_memWf h
      · exact ite_memWf h (ite_memWf (performOwn_memWf h) (ite_memWf (landLoad_memWf (fillRemote_memWf h)) h))

theorem appendRecord_memWf {s : State} {w : Warp} {o : Op} {ws : List Word} {queue : Nat} {dst : SReg} (h : s.memWf) :
    (appendRecord s w o ws queue dst).memWf := by
  unfold appendRecord
  refine ite_memWf h (withPlaces_memWf h (dropOp_memWf (onWarp_memWf (landRegs_memWf (setPartition_memWf ?_)))))
  exact placesWrite_memWf h

theorem freeCopy_memWf {s : State} {id : Nat} (h : s.memWf) : (freeCopy s id).memWf := h

theorem setTile_memWf {s : State} {w : Warp} {t : Word} (h : s.memWf) : (setTile s w t).memWf := by
  unfold setTile
  split
  · exact h
  · exact ite_memWf h (setGrid_memWf h)

theorem beginInval_memWf {s : State} {id : Nat} (h : s.memWf) : (beginInval s id).memWf := h

theorem deliver_memWf {s : State} {w : Warp} {o : Op} (h : s.memWf) : (deliver s w o).memWf := by
  unfold deliver
  dsimp only
  split
  · exact performStore_memWf h
  · exact performStore_memWf h
  · exact performStore_memWf h
  · exact performAtomics_memWf h
  · exact performAtomics_memWf h
  · split
    · exact h
    · exact arriveBar_memWf (dropOp_memWf h)
  · exact arriveRing_memWf (dropOp_memWf h)
  · exact freeCopy_memWf (dropOp_memWf h)
  · exact setTile_memWf (dropOp_memWf h)
  · exact appendRecord_memWf h
  · exact beginInval_memWf (dropOp_memWf h)
  · exact ite_memWf (startAcquire_memWf (dropOp_memWf h)) (dropOp_memWf h)
  · exact h

theorem releaseEvent_memWf {s : State} {id : Nat} (h : s.memWf) : (releaseEvent s id).memWf := by
  unfold releaseEvent
  split
  · exact h
  · split
    · exact h
    · exact ite_memWf (deliver_memWf h) h

end Sys2Proof.Machine
end

section
/-! PROOF. Canonical memories, continued: resources, pre-emption, the host and the MGC. -/

namespace Sys2Proof.Machine

open Sys2Proof

/-! ### Level-one sizes, placing -/

theorem emptyCoreL1_memWf {s : State} {core : Nat} (h : s.memWf) : (emptyCoreL1 s core).memWf := emptyL1_memWf h

theorem resizeL1_memWf {s : State} {core units : Nat} (h : s.memWf) : (resizeL1 s core units).memWf :=
  setCore_memWf (emptyCoreL1_memWf h)

theorem shrinkL1_memWf {s : State} {core : Nat} (h : s.memWf) : (shrinkL1 s core).memWf :=
  ite_memWf (resizeL1_memWf h) h

theorem fuseQuad_memWf {s : State} {q : Nat} {fused : Bool} (h : s.memWf) : (fuseQuad s q fused).memWf :=
  ite_memWf h (setQuad_memWf (foldl_memWf (fun _ _ h => emptyCoreL1_memWf h) h))

theorem l1Resize_memWf {s : State} {core units : Nat} (h : s.memWf) : (l1Resize s core units).memWf :=
  ite_memWf (resizeL1_memWf h) h

theorem tsortedFrom_filter {α : Type} {t : Tab α} {lo : Nat} (p : Nat × α → Bool) (h : tsortedFrom lo t = true) :
    tsortedFrom lo (t.filter p) = true := by
  induction t generalizing lo with
  | nil => rfl
  | cons e t ih =>
    simp only [tsortedFrom, Bool.and_eq_true, decide_eq_true_eq] at h
    rw [List.filter_cons]
    split
    · simp only [tsortedFrom, Bool.and_eq_true, decide_eq_true_eq]
      exact ⟨h.1, ih h.2⟩
    · exact tsortedFrom_mono (ih h.2) (by omega)

/-- Dropping bytes and checks keeps the form. -/
theorem Mem.filter_wf {m : Mem} (p : Nat × Byte → Bool) (q : Nat × Byte → Bool) (h : m.wf) :
    Mem.wf { data := m.data.filter p, syn := m.syn.filter q } := by
  obtain ⟨hd, hb, hs, hc⟩ := (Mem.wf_iff m).mp h
  exact (Mem.wf_iff _).mpr ⟨tsortedFrom_filter p hd, fun x hx => hb x (List.mem_of_mem_filter hx),
    tsortedFrom_filter q hs, fun x hx => hc x (List.mem_of_mem_filter hx)⟩

theorem clearStore_memWf {s : State} {key n : Nat} (h : s.memWf) : (clearStore s key n).memWf :=
  withStore_memWf h (Mem.filter_wf _ _ (store_wf h))

theorem enterGang_memWf {s : State} {g : Grid} {quads : List Nat} {relaunches : Nat} (h : s.memWf) :
    (enterGang s g quads relaunches).2.memWf := by
  unfold enterGang
  split
  · exact setGang_memWf h
  · exact h

theorem fillCore_memWf {s : State} {g : Grid} {core : Nat} {plane : Bool} {base : Nat} {blocks : List Nat}
    (h : s.memWf) : (fillCore s g core plane base blocks).memWf := by
  unfold fillCore
  refine foldl_memWf (fun t w h => ?_) (clearStore_memWf (foldl_memWf (fun _ _ h => clearStore_memWf h) h))
  exact withStore_memWf h (Mem.setWord_wf (store_wf h) _ _)

theorem fillTeam_memWf {s : State} {g : Grid} {p : Spot} (h : s.memWf) : (fillTeam s g p).memWf :=
  foldl_memWf (fun _ _ h => fillCore_memWf h) h

theorem placeTeam_memWf {s : State} {g : Grid} {lin relaunches : Nat} {p : Spot} (h : s.memWf) :
    (placeTeam s g lin relaunches p).memWf := by
  unfold placeTeam
  refine foldl_memWf (fun _ _ h => startAcquire_memWf h) (foldl_memWf (fun _ _ h => shrinkL1_memWf h) ?_)
  exact enterGang_memWf (fillTeam_memWf (foldl_memWf (fun _ _ h => fuseQuad_memWf h) h))

theorem countRelaunch_memWf {s : State} {g : Grid} {x : Relaunch} {core : Nat} (h : s.memWf) :
    (countRelaunch s g x core).memWf := ite_memWf (setGrid_memWf h) (recordEvent_memWf h)

theorem placeNext_memWf {s : State} {part : Nat} {ok : Option Relaunch → Bool} (h : s.memWf) :
    (placeNext s part ok).memWf := by
  unfold placeNext
  split
  · exact h
  · refine ite_memWf h ?_
    split
    · exact placeTeam_memWf (setGrid_memWf h)
    · exact placeTeam_memWf (countRelaunch_memWf h)

/-! ### Pre-emption, saves, plane swaps, compactions -/

theorem beginSave_memWf {s : State} {t : Team} {d : Nat} {rotated : Bool} (h : s.memWf) :
    (beginSave s t d rotated).memWf := setTeam_memWf h

theorem applyExit_memWf {s : State} {t : Team} {d : Nat} {e : Exit} (h : s.memWf) : (applyExit s t d e).memWf := by
  cases e with
  | drain => exact setTeam_memWf h
  | save => exact beginSave_memWf h
  | discard => exact discardTeam_memWf h

theorem nameTeam_memWf {s : State} {uid d : Nat} (h : s.memWf) : (nameTeam s uid d).memWf := by
  unfold nameTeam
  split
  · exact h
  · exact ite_memWf h (applyExit_memWf h)

theorem deadlineRequest_memWf {s : State} {part : Nat} (h : s.memWf) : (deadlineRequest s part).memWf := by
  unfold deadlineRequest
  dsimp only
  split
  · exact h
  · exact foldl_memWf (fun _ _ h => nameTeam_memWf h) (setGrid_memWf h)

theorem prdeadWrite_memWf {s : State} {part : Nat} {d : Word} (h : s.memWf) : (prdeadWrite s part d).memWf :=
  foldl_memWf (fun _ _ h => nameTeam_memWf h) h

theorem flushAll_memWf {s : State} {ws : List Warp} (h : s.memWf) : (flushAll s ws).memWf :=
  foldl_memWf (fun _ _ h => flushWindow_memWf h) h

theorem stopCopies_memWf {s : State} {test : Copy → Bool} (h : s.memWf) : (stopCopies s test).memWf :=
  foldl_memWf (fun _ _ h => showProgress_memWf (setCopy_memWf h)) h

theorem resumeCopies_memWf {s : State} {test : Copy → Bool} (h : s.memWf) : (resumeCopies s test).memWf :=
  foldl_memWf (fun _ _ h => showProgress_memWf (setCopy_memWf h)) h

theorem pausedOut_memWf {s : State} {core : Nat} {teams : List Nat} (h : s.memWf) : (pausedOut s core teams).memWf :=
  h

theorem writeImage_memWf {s : State} {ps : List Place} (h : s.memWf) : (writeImage s ps).memWf := placesWrite_memWf h

theorem saveTeam_memWf {s : State} {uid : Nat} (h : s.memWf) : (saveTeam s uid).memWf := by
  unfold saveTeam
  split
  · exact h
  · refine ite_memWf h (withWalked_memWf h (foldl_memWf (fun _ _ h => pausedOut_memWf h) ?_))
    exact stopCopies_memWf (flushAll_memWf (writeImage_memWf h))

theorem putImage_memWf {s : State} {t : Team} {tile : Nat} {m : Image} (h : s.memWf) :
    (putImage s t tile m).memWf := by
  unfold putImage
  have hs {l : List (Nat × Nat)} : (l.foldl (fun s r => clearStore s r.1 r.2) s).memWf :=
    foldl_memWf (fun _ _ h => clearStore_memWf h) h
  exact withStore_memWf hs (foldl_setWord_wf _ _ _ (store_wf hs))

theorem seatWarps_memWf {s : State} {t : Team} {slots : List (List Nat)} {gap : Nat} (h : s.memWf) :
    (seatWarps s t slots gap).memWf := h

theorem restoreTeam_memWf {s : State} {uid : Nat} (h : s.memWf) : (restoreTeam s uid).memWf := by
  unfold restoreTeam
  split
  · exact h
  · refine ite_memWf h (foldl_memWf (fun _ _ h => startAcquire_memWf h) (resumeCopies_memWf
      (foldl_memWf (fun _ _ h => shrinkL1_memWf h) (setTeam_memWf (seatWarps_memWf
      (foldl_memWf (fun _ _ h => putImage_memWf h) (foldl_memWf (fun _ _ h => fuseQuad_memWf h) h)))))))

theorem exchange_memWf {s : State} {core : Nat} (h : s.memWf) : (exchange s core).memWf := by
  unfold exchange
  exact resumeCopies_memWf (shrinkL1_memWf (setCore_memWf (pausedOut_memWf (stopCopies_memWf (flushAll_memWf h)))))

theorem planeSwap_memWf {s : State} {core : Nat} (h : s.memWf) : (planeSwap s core).memWf :=
  ite_memWf (ite_memWf (setCore_memWf h) h) (ite_memWf (exchange_memWf h) h)

theorem moveBlocks_memWf {s : State} {t : Team} {core : Nat} (h : s.memWf) : (moveBlocks s t core).memWf := by
  unfold moveBlocks
  refine foldl_memWf (fun _ _ h => onWarp_memWf h) (foldl_memWf (fun t x h => ?_)
    (foldl_memWf (fun _ _ h => clearStore_memWf h) h))
  exact withStore_memWf (clearStore_memWf h) (foldl_setWord_wf _ _ _ (store_wf (clearStore_memWf h)))

theorem compactTeam_memWf {s : State} {t : Team} (h : s.memWf) : (compactTeam s t).memWf := by
  unfold compactTeam
  refine ite_memWf (foldl_memWf (fun _ _ h => shrinkL1_memWf h) (setTeam_memWf ?_)) h
  exact foldl_memWf (fun _ _ h => moveBlocks_memWf h) (flushAll_memWf h)

theorem beginCompaction_memWf {s : State} {core : Nat} {g : Grid} (h : s.memWf) :
    (beginCompaction s core g).memWf := by
  unfold beginCompaction
  dsimp only
  split
  · exact h
  · refine ite_memWf h ?_
    split
    · exact h
    · exact setTeam_memWf h

theorem compaction_memWf {s : State} {core : Nat} (h : s.memWf) : (compaction s core).memWf := by
  unfold compaction
  split
  · exact compactTeam_memWf h
  · split
    · exact h
    · exact beginCompaction_memWf h

theorem rotation_memWf {s : State} {grid : Nat} (h : s.memWf) : (rotation s grid).memWf := by
  unfold rotation
  split
  · exact h
  · refine ite_memWf h ?_
    split
    · exact h
    · refine ite_memWf h ?_
      split
      · exact h
      · exact beginSave_memWf h

/-! ### Walks, fault records, the fabric and answers to records -/

theorem pageWalk_memWf {s : State} {walk : Nat} (h : s.memWf) : (pageWalk s walk).memWf := by
  unfold pageWalk
  split
  · exact h
  · exact endWalk_memWf h

theorem faultRecordWrite_memWf {s : State} {part : Nat} (h : s.memWf) : (faultRecordWrite s part).memWf := by
  unfold faultRecordWrite
  dsimp only
  split
  · exact h
  · refine ite_memWf h (withPlaces_memWf h (setPartition_memWf ?_))
    exact ite_memWf (sendInterrupt_memWf (placesWrite_memWf h)) (placesWrite_memWf h)

theorem fqheadWrite_memWf {s : State} {part : Nat} {v : Word} (h : s.memWf) : (fqheadWrite s part v).memWf :=
  ite_memWf (setPartition_memWf h) h

theorem fabReply_memWf {s : State} {r : FabReq} {ws : List CWord} {notices : List Nat} (h : s.memWf) :
    (fabReply s r ws notices).memWf := h

theorem fabError_memWf {s : State} {r : FabReq} (h : s.memWf) : (fabError s r).memWf := fabReply_memWf h

theorem fabAtomic_memWf {s : State} {r : FabReq} {red : Bool} {k : AtomKind} {b d : List CWord} {ps : List Place}
    (h : s.memWf) : (fabAtomic s r red k b d ps).memWf := fabReply_memWf (atomicPlaces_memWf h)

theorem fabPerform_memWf {s : State} {r : FabReq} {ps : List Place} (h : s.memWf) : (fabPerform s r ps).memWf := by
  unfold fabPerform
  split
  · exact fabReply_memWf h
  · exact fabReply_memWf (placesWrite_memWf h)
  · exact fabAtomic_memWf h

theorem fabServe_memWf {s : State} {r : FabReq} (h : s.memWf) : (fabServe s r).memWf := by
  unfold fabServe
  dsimp only
  split
  · exact fabError_memWf h
  · split
    · exact holdOwn_memWf h
    · exact ownDone_memWf (fabError_memWf (fabProtRecord_memWf h))
    · exact ownDone_memWf (fabHold_memWf h)
    · split
      · exact ownDone_memWf (fabError_memWf (fabProtRecord_memWf h))
      · exact withWalked_memWf h (fabPerform_memWf h)

theorem fabricRequest_memWf {s : State} {r : FabReq} (h : s.memWf) : (fabricRequest s r).memWf :=
  ite_memWf h (ite_memWf (fabError_memWf h) (fabServe_memWf h))

theorem dropRecord_memWf {s : State} {part id : Nat} (h : s.memWf) : (dropRecord s part id).memWf :=
  setPartition_memWf h

theorem runWarp_memWf {s : State} {uid : Nat} (h : s.memWf) : (runWarp s uid).memWf := onWarp_memWf h

theorem restartHandler_memWf {s : State} {w : Warp} (h : s.memWf) : (restartHandler s w).memWf := by
  unfold restartHandler
  split
  · exact h
  · dsimp only
    split
    · exact h
    · exact writeRegs_memWf (setWarp_memWf h)

theorem dropHeld_memWf {s : State} {id : Nat} (h : s.memWf) : (dropHeld s id).memWf := h

theorem failHeld_memWf {s : State} {id : Nat} (h : s.memWf) : (failHeld s id).memWf := h

/-- The states that an answer to a record leaves keep the form. -/
def Answer.memWf : Answer → Prop
  | .refused => True
  | .acts s | .later s => s.memWf

theorem answer_ite_memWf {a b : Answer} {c : Prop} [Decidable c] (ha : a.memWf) (hb : b.memWf) :
    (if c then a else b).memWf := iteInduction (motive := Answer.memWf) (fun _ => ha) (fun _ => hb)

theorem retryRec_memWf {s : State} {r : FaultRec} (h : s.memWf) : (retryRec s r).memWf := by
  unfold retryRec
  split
  · split
    · exact h
    · exact answer_ite_memWf h (answer_ite_memWf (answer_ite_memWf (restartHandler_memWf h) h) (runWarp_memWf h))
  · refine answer_ite_memWf trivial ?_
    dsimp only [Answer.memWf]
    split
    · exact h
    · exact ite_memWf (showProgress_memWf (setCopy_memWf h)) h
  · refine answer_ite_memWf trivial ?_
    dsimp only [Answer.memWf]
    split
    · exact h
    · exact ite_memWf (setColl_memWf h) h
  · refine answer_ite_memWf trivial ?_
    split
    · exact h
    · exact answer_ite_memWf (dropHeld_memWf h) (answer_ite_memWf (fabServe_memWf h) (fabServe_memWf (dropHeld_memWf h)))
  · trivial
  · trivial
  · trivial
  · trivial

theorem errorWarp_memWf {s : State} {w : Warp} {n : Bool} {r : FaultRec} (h : s.memWf) : (errorWarp s w n r).memWf :=
  enterTrap_memWf (runWarp_memWf h)

theorem failColl_memWf {s : State} {k : Coll} (h : s.memWf) : (failColl s k).memWf := setColl_memWf h

theorem errorRec_memWf {s : State} {r : FaultRec} (h : s.memWf) : (errorRec s r).memWf := by
  unfold errorRec
  split
  · refine answer_ite_memWf trivial ?_
    split
    · exact h
    · exact answer_ite_memWf h (answer_ite_memWf (errorWarp_memWf h) h)
  · refine answer_ite_memWf trivial ?_
    dsimp only [Answer.memWf]
    split
    · exact h
    · exact ite_memWf (copyError_memWf h) h
  · refine answer_ite_memWf trivial ?_
    dsimp only [Answer.memWf]
    split
    · exact h
    · exact ite_memWf (failColl_memWf h) h
  · refine answer_ite_memWf trivial ?_
    dsimp only [Answer.memWf]
    split
    · exact h
    · exact ite_memWf (failHeld_memWf h) (fabError_memWf (dropHeld_memWf h))
  · trivial
  · trivial
  · trivial
  · trivial

theorem discardWarp_memWf {s : State} {uid : Nat} (h : s.memWf) : (discardWarp s uid).memWf :=
  elim_memWf h (fun _ => discardGang_memWf h)

theorem releaseCore_memWf {s : State} {core : Nat} (h : s.memWf) : (releaseCore s core).memWf :=
  setCore_memWf (foldl_memWf (fun _ _ h => endGang_memWf h) h)

theorem discardRec_memWf {s : State} {r : FaultRec} (h : s.memWf) : (discardRec s r).memWf := by
  unfold discardRec
  split
  · exact discardWarp_memWf h
  · dsimp only [Answer.memWf]
    split
    · exact h
    · exact ite_memWf (copyError_memWf h) (discardWarp_memWf h)
  · dsimp only [Answer.memWf]
    split
    · exact h
    · exact ite_memWf (failColl_memWf h) (discardWarp_memWf h)
  · exact answer_ite_memWf (failHeld_memWf h) (errorRec_memWf h)
  · exact elim_memWf h (fun _ => partOver_memWf h)
  · exact releaseCore_memWf h
  · exact h
  · trivial

theorem answerRec_memWf {act : Nat} {s : State} {r : FaultRec} (h : s.memWf) : (answerRec act s r).memWf := by
  unfold answerRec
  split
  · exact retryRec_memWf h
  · exact errorRec_memWf h
  · exact discardRec_memWf h
  · trivial

theorem keepAnswer_memWf {s : State} {part id act : Nat} (h : s.memWf) : (keepAnswer s part id act).memWf :=
  setPartition_memWf h

theorem giveAnswer_memWf {s : State} {part act : Nat} {r : FaultRec} (h : s.memWf) :
    (giveAnswer s part act r).memWf := by
  unfold giveAnswer
  have ha := answerRec_memWf (act := act) (r := r) h
  split
  · exact h
  next e => rw [e] at ha; exact dropRecord_memWf ha
  next e => rw [e] at ha; exact keepAnswer_memWf ha

theorem resumeWrite_memWf {s : State} {part act : Nat} {v : Word} (h : s.memWf) : (resumeWrite s part act v).memWf :=
  ite_memWf h (elim_memWf h (fun _ => giveAnswer_memWf h))

theorem serveAnswers_memWf {s : State} (h : s.memWf) : (serveAnswers s).memWf := by
  unfold serveAnswers
  refine foldl_memWf (fun t p h => foldl_memWf (fun u o h => ?_) h) h
  exact elim_memWf h (fun _ => giveAnswer_memWf h)

theorem invctlWrite_memWf {s : State} {part kind : Nat} {v : Word} (h : s.memWf) :
    (invctlWrite s part kind v).memWf := ite_memWf h h

theorem invalidationDone_memWf {s : State} {id : Nat} (h : s.memWf) : (invalidationDone s id).memWf := by
  unfold invalidationDone
  split
  · exact h
  · exact ite_memWf h (ite_memWf h h)

/-! ### The host, the MGC and the register aperture -/

theorem freezeSzl_memWf {s : State} {write : Bool} {pa : Nat} (h : s.memWf) : (freezeSzl s write pa).memWf := by
  unfold freezeSzl
  split
  · exact noteFreeze_memWf h
  · exact noteFreeze_memWf h

theorem aperture_memWf {s : State} {write : Bool} {pa n : Nat} {act : State → List Place → State} (h : s.memWf)
    (ha : ∀ ps, (act s ps).memWf) : (aperture s write pa n act).memWf := by
  refine ite_memWf h ?_
  split
  · exact freezeSzl_memWf h
  · exact withPlaces_memWf h (ha _)

theorem hostWrite_memWf {s : State} {pa : Nat} {ws : List Word} (h : s.memWf) : (hostWrite s pa ws).memWf :=
  aperture_memWf h (fun _ => placesWrite_memWf h)

theorem hostRead_memWf {s : State} {pa n : Nat} (h : s.memWf) : (hostRead s pa n).memWf :=
  aperture_memWf h (fun _ => h)

theorem loseDevice_memWf {s : State} {peer : Nat} (h : s.memWf) : (loseDevice s peer).memWf := h

theorem linkDown_memWf {s : State} {port peer : Nat} (h : s.memWf) : (linkDown s port peer).memWf :=
  ite_memWf h (recordEvent_memWf (ite_memWf h (loseDevice_memWf h)))

theorem retireWrite_memWf {s : State} {mgmt : Bool} {v : Word} (h : s.memWf) : (retireWrite s mgmt v).memWf :=
  ite_memWf h (ite_memWf h h)

theorem retirementCompletes_memWf {s : State} (h : s.memWf) : (retirementCompletes s).memWf :=
  elim_memWf h (fun _ => h)

theorem eridxWrite_memWf {s : State} {mgmt : Bool} {v : Word} (h : s.memWf) : (eridxWrite s mgmt v).memWf :=
  ite_memWf h h

theorem attestGo_memWf {s : State} {mgmt : Bool} {v : Word} (h : s.memWf) : (attestGo s mgmt v).memWf := ite_memWf h h

theorem writeReport_memWf {s : State} {base : Nat} (h : s.memWf) : (writeReport s base).memWf :=
  placesWrite_memWf (placesWrite_memWf h)

theorem attestDone_memWf {s : State} (h : s.memWf) : (attestDone s).memWf := by
  unfold attestDone
  refine ite_memWf h (ite_memWf h (withPlaces_memWf h ?_))
  exact withMgc_memWf (writeReport_memWf h)

theorem firmwareWrite_memWf {s : State} {mgmt : Bool} {v : Word} (h : s.memWf) : (firmwareWrite s mgmt v).memWf :=
  ite_memWf h (ite_memWf h h)

theorem raiseFused_memWf {s : State} (h : s.memWf) : (raiseFused s).memWf := withMgc_memWf h

theorem rejectImage_memWf {s : State} (h : s.memWf) : (rejectImage s).memWf := recordIo_memWf h

theorem stagingDone_memWf {s : State} (h : s.memWf) : (stagingDone s).memWf := by
  unfold stagingDone
  refine ite_memWf h (ite_memWf (rejectImage_memWf h) (withPlaces_memWf h ?_))
  dsimp only
  split
  · exact ite_memWf (withMgc_memWf (raiseFused_memWf h)) (rejectImage_memWf (raiseFused_memWf h))
  · exact rejectImage_memWf (raiseFused_memWf h)

theorem setStep_memWf {s : State} {m : Mgc} {step : Nat} (h : s.memWf) : (setStep s m step).memWf := recordIo_memWf h

theorem powerCheck_memWf {s : State} {watts temp : Nat} (h : s.memWf) : (powerCheck s watts temp).memWf := by
  unfold powerCheck
  exact ite_memWf h (ite_memWf (ite_memWf (setStep_memWf h) h)
    (ite_memWf (ite_memWf h (ite_memWf h (setStep_memWf h))) h))

theorem tripNow_memWf {s : State} {thermal : Bool} {v : Nat} (h : s.memWf) : (tripNow s thermal v).memWf :=
  ite_memWf h (recordIo_memWf h)

/-- A reset keeps the memories, but for HBM at power-on, which is empty. -/
theorem resetDevice_memWf {s : State} {cause : Nat} (h : s.memWf) : (resetDevice s cause).memWf := by
  have hr := raiseFused_memWf h
  have hm : (if (cause == 0) = true then Mem.empty else (raiseFused s).hbm).wf :=
    iteInduction (motive := fun m : Mem => m.wf = true) (fun _ => Mem.empty_wf) (fun _ => hbm_wf hr)
  refine recordIo_memWf (foldl_memWf (fun _ _ h => recordIo_memWf h) (State.memWf_iff.mpr ?_))
  dsimp only
  exact ⟨hm, host_wf hr, Mem.empty_wf⟩

theorem quadPowerUp_memWf {s : State} {quad : Nat} (h : s.memWf) : (quadPowerUp s quad).memWf :=
  ite_memWf (setQuad_memWf h) h

theorem resumeAny_memWf {s : State} {part : Nat} {v : Word} (h : s.memWf) : (resumeAny s part v).memWf :=
  resumeWrite_memWf h

theorem writePartition_memWf {s : State} {part off : Nat} {v : Word} (h : s.memWf) :
    (writePartition s part off v).memWf := by
  unfold writePartition
  exact ite_memWf h (ite_memWf (fqheadWrite_memWf h) (ite_memWf (resumeAny_memWf h) (ite_memWf (prdeadWrite_memWf h)
    (ite_memWf (invctlWrite_memWf h) (ite_memWf (setPartition_memWf h) (ite_memWf (setPartition_memWf h)
    (setPartition_memWf h)))))))

theorem writeQuads_memWf {s : State} {part k : Nat} {v : Word} (h : s.memWf) : (writeQuads s part k v).memWf :=
  ite_memWf (setPartition_memWf h) h

theorem writePrange_memWf {s : State} {part i k : Nat} {v : Word} (h : s.memWf) : (writePrange s part i k v).memWf :=
  ite_memWf h (setPartition_memWf h)

theorem writeHrange_memWf {s : State} {part i k : Nat} {v : Word} (h : s.memWf) : (writeHrange s part i k v).memWf :=
  setPartition_memWf h

theorem writeErsel_memWf {s : State} {v : Word} (h : s.memWf) : (writeErsel s v).memWf :=
  ite_memWf (setRecorder_memWf h) h

theorem writeMgc_memWf {s : State} {off : Nat} {v : Word} (h : s.memWf) : (writeMgc s off v).memWf := by
  unfold writeMgc
  exact ite_memWf h (ite_memWf (retireWrite_memWf h) (ite_memWf (writeErsel_memWf h) (ite_memWf (eridxWrite_memWf h)
    (ite_memWf (attestGo_memWf h) (ite_memWf (firmwareWrite_memWf h) (ite_memWf (writeQuads_memWf h)
    (ite_memWf (setPartition_memWf h) (ite_memWf (writePrange_memWf h) (ite_memWf (writeHrange_memWf h)
    (ite_memWf (ite_memWf h h) h))))))))))

theorem registerWrite_memWf {s : State} {mgmt : Bool} {off : Nat} {v : Word} (h : s.memWf) :
    (registerWrite s mgmt off v).memWf := ite_memWf (writePartition_memWf h) (ite_memWf (writeMgc_memWf h) h)

end Sys2Proof.Machine
end

section
/-! PROOF. Canonical memories, continued: dispatch, move and step. -/

namespace Sys2Proof.Machine

open Sys2Proof

/-! ## The dispatch, the move and the step -/

/-- Every instruction and every event keeps the canonical form, arm by arm of `exec`. -/
theorem exec_keepsMem {i : Instr} {s : State} (h : s.memWf) : KeepsMem (exec i s) := by
  cases i with
  | add | sub | adds | subs | mul | mulh | mad | madw | div | rem | min | max | abs | neg | and | or | xor |
  andn | not | shl | shr | sar | rotl | funs | popc | clz | ctz | brev | bfx | bfi | lea | mov | cmp | fcmp |
  sel | bitop | shfl | vote | wred | wscan | matchLanes | cvt | pack | unpk | frnd | fadd | fsub | fmul | ffma |
  fmin | fmax | fabs | fneg | fcps | fclass | fdiv | fscl | fxtr | fdot2 | fsat | exp2 | log2 | rcp | rsq | sqrt
  | sinp | cosp | tanh | sigm | erf | exp | loge | gelu | silu | cpq | sigrd | ckgen | cktst | trap | bkpt |
  halfMov | halfMovi | halfAdd | halfAddi | halfSub | halfAnd | halfOr | halfXor | halfShli | halfShri |
  halfSari | halfMin | halfMax | halfMul | halfFadd | halfFsub | halfFmul | halfFmac | halfFmin | halfFmax |
  halfHadd | halfHmul | halfHmac | halfCvtf | halfCvti | halfNot | halfAbs | halfFabs | halfFneg | halfNop =>
    exact issue_keepsMem (fun _ _ => trivial) h
  | movsr => exact issue_keepsMem (fun _ hc => movsrEff_memWf hc) h
  | setsr => exact issue_keepsMem (fun _ hc => setsrEff_memWf hc) h
  | bra => exact issue_keepsMem (fun _ hc => braEff_memWf hc) h
  | brc => exact issue_keepsMem (fun _ hc => brcEff_memWf hc) h
  | join => exact issue_keepsMem (fun _ hc => joinEff_memWf hc) h
  | call => exact issue_keepsMem (fun _ hc => callEff_memWf hc) h
  | ret | jmpi => exact issue_keepsMem (fun _ hc => indirectEff_memWf hc) h
  | loop => exact issue_keepsMem (fun _ hc => loopEff_memWf hc) h
  | exit => exact issueWith_keepsMem (fun _ hc => exitEff_memWf hc) h
  | yield => exact issue_keepsMem (fun _ hc => yieldEff_memWf hc) h
  | nop => exact issue_keepsMem (fun _ hc => hc.s) h
  | sleep => exact issue_keepsMem (fun _ hc => sleepEff_memWf hc) h
  | ld | ldck => exact issue_keepsMem (fun _ hc => loadEff_memWf hc) h
  | st | stnt => exact issue_keepsMem (fun _ hc => storeEff_memWf hc) h
  | lds => exact issue_keepsMem (fun _ hc => ldsEff_memWf hc) h
  | sts => exact issue_keepsMem (fun _ hc => stsEff_memWf hc) h
  | stck => exact issue_keepsMem (fun _ hc => stckEff_memWf hc) h
  | pref => exact issue_keepsMem (fun _ hc => prefEff_memWf hc) h
  | atom => exact issue_keepsMem (fun _ hc => atomEff_memWf hc) h
  | red => exact issue_keepsMem (fun _ hc => redEff_memWf hc) h
  | atoms => exact issue_keepsMem (fun _ hc => atomsEff_memWf hc) h
  | fence => exact issue_keepsMem (fun _ hc => fenceEff_memWf hc) h
  | drnt | redf => exact issue_keepsMem (fun _ hc => Cx.holdLater_memWf hc) h
  | invl => exact issue_keepsMem (fun _ hc => lineEff_memWf (fun _ _ _ h => dropShared_memWf h) hc) h
  | wbl => exact issue_keepsMem (fun _ hc => lineEff_memWf (fun _ _ _ h => surrender_memWf h) hc) h
  | rsync => exact issue_keepsMem (fun _ hc => flushWindow_memWf hc.s) h
  | bar => exact issue_keepsMem (fun _ hc => barEff_memWf hc) h
  | wait => exact issue_keepsMem (fun _ hc => waitEff_memWf hc) h
  | waitw => exact issue_keepsMem (fun _ hc => waitwEff_memWf hc) h
  | rarv => exact issue_keepsMem (fun _ hc => rarvEff_memWf hc) h
  | rwt => exact issue_keepsMem (fun _ hc => rwtEff_memWf hc) h
  | tflag => exact issue_keepsMem (fun _ hc => tflagEff_memWf hc) h
  | wake => exact issue_keepsMem (fun _ hc => wakeEff_memWf hc) h
  | nbsa => exact issue_keepsMem (fun _ hc => nbsaEff_memWf hc) h
  | nbcp => exact issue_keepsMem (fun _ hc => nbcpEff_memWf hc) h
  | nbzr => exact issue_keepsMem (fun _ hc => nbzrEff_memWf hc) h
  | nbopt => exact issue_keepsMem (fun _ hc => nboptEff_memWf hc) h
  | nbfn => exact issueWith_keepsMem (fun _ hc => nbfnEff_memWf hc) h
  | mma => exact issueWith_keepsMem (fun _ hc => mmaEff_memWf hc) h
  | mmao => exact issueWith_keepsMem (fun _ hc => mmaoEff_memWf hc) h
  | acz | acsc | acmx | acex => exact issueWith_keepsMem (fun _ hc => mxEff_memWf hc) h
  | acld => exact issueWith_keepsMem (fun _ hc => acldEff_memWf hc) h
  | acst => exact issueWith_keepsMem (fun _ hc => acstEff_memWf hc) h
  | tdrn => exact issueWith_keepsMem (fun _ hc => tdrnEff_memWf hc) h
  | cpt | cpg | cps => exact issueWith_keepsMem (fun _ hc => copyEff_memWf hc) h
  | card | cagt | cata | cbct => exact issue_keepsMem (fun _ hc => collEff_memWf hc) h
  | sreg => exact issue_keepsMem (fun _ hc => sregEff_memWf hc) h
  | sld => exact issue_keepsMem (fun _ hc => sldEff_memWf hc) h
  | sst => exact issue_keepsMem (fun _ hc => sstEff_memWf hc) h
  | shrd => exact issue_keepsMem (fun _ hc => shrdEff_memWf hc) h
  | slda => exact issue_keepsMem (fun _ hc => sldaEff_memWf hc) h
  | ssta => exact issue_keepsMem (fun _ hc => sstaEff_memWf hc) h
  | scmt => exact issue_keepsMem (fun _ hc => scmtEff_memWf hc) h
  | snrm => exact issue_keepsMem (fun _ hc => snrmEff_memWf hc) h
  | sigchk => exact issue_keepsMem (fun _ hc => sigchkEff_memWf hc) h
  | rett => exact issue_keepsMem (fun _ hc => rettEff_memWf hc) h
  | lnch => exact issue_keepsMem (fun _ hc => lnchEff_memWf hc) h
  | prgs => exact issue_keepsMem (fun _ hc => prgsEff_memWf hc) h
  | tlbi => exact issue_keepsMem (fun _ hc => tlbiEff_memWf hc) h
  | halt => exact issue_keepsMem (fun _ hc => haltEff_memWf hc) h
  | illegalInstructionWord => exact issue_keepsMem (fun _ _ => illegalEff_memWf) h
  | loadValueLands => exact keepsMem_next (landEvent_memWf h)
  | storeAcknowledged => exact keepsMem_next (storeAckEvent_memWf h)
  | acquireCompletes => exact keepsMem_next (acquireEvent_memWf h)
  | releaseWaitEnds => exact keepsMem_next (releaseEvent_memWf h)
  | gangRelaunch =>
    refine keepsMem_next ?_
    split
    · exact h
    · exact placeNext_memWf h
  | homeRSi | homeRWi | homeOwn | homeWrh | homeSur | homeAtomic => exact keepsMem_next (homeEvent_memWf h)
  | recallWriteback => exact keepsMem_next (writebackEvent_memWf h)
  | noticeInjection => exact keepsMem_next (injectNotice_memWf h)
  | towpathInv => exact keepsMem_next (towpathInv_memWf h)
  | towpathRcw => exact keepsMem_next (towpathRcw_memWf h)
  | towpathRca => exact keepsMem_next (towpathRca_memWf h)
  | fillArrives => exact keepsMem_next (fillEvent_memWf h)
  | grantArrives => exact keepsMem_next (grantEvent_memWf h)
  | waitwReevaluation | waitwPoll | watchEntryTaken => exact keepsMem_next (waitwEvent_memWf h)
  | sleepExpiry | yieldTimeout => exact keepsMem_next (pauseEvent_memWf h)
  | softEntryStaged => exact keepsMem_next (softStagedEvent_memWf h)
  | commitArrival => exact keepsMem_next (commitArrivalEvent_memWf h)
  | scmtCompletes => exact keepsMem_next (scmtCompletesEvent_memWf h)
  | copyRow => exact keepsMem_next (copyRowEvent_memWf h)
  | copyCompletes => exact keepsMem_next (copyCompletesEvent_memWf h)
  | collectiveBlock => exact keepsMem_next (collBlockEvent_memWf h)
  | collectiveCompletes => exact keepsMem_next (collCompletesEvent_memWf h)
  | ploughPartAccepted => exact keepsMem_next (partAccepted_memWf h)
  | ploughRowStep => exact keepsMem_next (ploughStep_memWf h)
  | ploughPartCompletes => exact keepsMem_next (partCompletes_memWf h)
  | crossChannelGranule => exact keepsMem_next (crossGranule_memWf h)
  | matrixOperationStart | arrayStaggeredStart => exact keepsMem_next (mxStart_memWf h)
  | matrixOperationFinishes => exact keepsMem_next (mxFinish_memWf h)
  | mxCounterFall => exact keepsMem_next (mxFall_memWf h)
  | launchRecordTaken => exact keepsMem_next (takeRecord_memWf h)
  | teamPlacement => exact keepsMem_next (placeNext_memWf h)
  | l1Resize => exact keepsMem_next (l1Resize_memWf h)
  | registerCompaction => exact keepsMem_next (compaction_memWf h)
  | planeSwap => exact keepsMem_next (planeSwap_memWf h)
  | deadlinePreemption => exact keepsMem_next (deadlineRequest_memWf h)
  | teamSave => exact keepsMem_next (saveTeam_memWf h)
  | teamRestore => exact keepsMem_next (restoreTeam_memWf h)
  | gridBarrierRotation => exact keepsMem_next (rotation_memWf h)
  | podBarrierMessage => exact keepsMem_next (podMessage_memWf h)
  | podPhaseCompletion => exact keepsMem_next (podPhase_memWf h)
  | gridCompletes => exact keepsMem_next (gridCompletes_memWf h)
  | pageWalk => exact keepsMem_next (pageWalk_memWf h)
  | faultRecordWrite => exact keepsMem_next (faultRecordWrite_memWf h)
  | fqhead => exact keepsMem_next (fqheadWrite_memWf h)
  | resumeRetry | resumeError | resumeDiscard => exact keepsMem_next (resumeWrite_memWf h)
  | prdead => exact keepsMem_next (ite_memWf (prdeadWrite_memWf h) h)
  | invctlPage | invctlContext | invctlAll => exact keepsMem_next (invctlWrite_memWf h)
  | invalidationCompletes => exact keepsMem_next (invalidationDone_memWf h)
  | registerWrite => exact keepsMem_next (registerWrite_memWf h)
  | hostWrite => exact keepsMem_next (hostWrite_memWf h)
  | hostRead => exact keepsMem_next (hostRead_memWf h)
  | fabricRequest => exact keepsMem_next (fabricRequest_memWf h)
  | thilosLinkDown => exact keepsMem_next (linkDown_memWf h)
  | retire => exact keepsMem_next (retireWrite_memWf h)
  | eridx => exact keepsMem_next (eridxWrite_memWf h)
  | attestationGo => exact keepsMem_next (attestGo_memWf h)
  | attestationDone => exact keepsMem_next (attestDone_memWf h)
  | firmwareStage => exact keepsMem_next (firmwareWrite_memWf h)
  | firmwareStagingDone => exact keepsMem_next (stagingDone_memWf h)
  | szlrel => exact keepsMem_next (ite_memWf h h)
  | powerCheck => exact keepsMem_next (powerCheck_memWf h)
  | trip => exact keepsMem_next (tripNow_memWf h)
  | reset => exact keepsMem_next (ite_memWf (resetDevice_memWf h) h)
  | quadPowerUp => exact keepsMem_next (quadPowerUp_memWf h)
  | retirementCompletes => exact keepsMem_next (retirementCompletes_memWf h)
  | standbyPowerLoss => exact keepsMem_next h
  | podRegistration => exact keepsMem_next (podRegister_memWf h)

theorem stepIssue_keepsMem {core sched : Nat} {s : State} (h : s.memWf) : KeepsMem (stepIssue core sched s) := by
  unfold stepIssue
  cases pickSlot s core sched with
  | none => exact keepsMem_next h
  | some p =>
    obtain ⟨w, n, x⟩ := p
    have hs : (startIssue s w n x).memWf := startIssue_memWf h
    dsimp only
    cases findWarp? (startIssue s w n x) w.uid with
    | none => exact keepsMem_next hs
    | some w' =>
      have hf : (fetch (startIssue s w n x) w' n x.pc).memWf := fetch_memWf hs
      dsimp only
      generalize fetch (startIssue s w n x) w' n x.pc = f at hf ⊢
      cases f with
      | stop t => exact keepsMem_next hf
      | parcels ps t => exact exec_keepsMem hf

theorem stepMove_keepsMem {m : Move} {s : State} (h : s.memWf) : KeepsMem (stepMove m s) := by
  unfold stepMove
  split
  · exact keepsMem_next h
  · cases m with
    | issue dt core sched => exact stepIssue_keepsMem (advance_memWf h)
    | event dt e => exact exec_keepsMem (advance_memWf h)

/-- Settles O59: a memory is only ever written word by word, filtered or emptied, which keeps the form, so each
operation of a step keeps the canonical form; the move, the queued answers and the bookkeeping follow. -/
theorem stepsKeepMemoriesCanonical : Obligations.StepsKeepMemoriesCanonical := by
  unfold Obligations.StepsKeepMemoriesCanonical
  intro s t h e
  obtain ⟨u, rfl, hu⟩ := step_next e
  let s₀ : State := { s with tick := s.tick + 1, agenda := (nextMove s).2, cur := none }
  have hm : u.memWf := stepMove_keepsMem (s := s₀) h u hu
  exact settle_memWf (serveAnswers_memWf hm)

end Sys2Proof.Machine
end

section
/-! PROOF. O58: every step ends with the bookkeeping of `settle`, which sets the time since which each slot is ready from
whether it is ready. -/

namespace Sys2Proof.Machine

open Sys2Proof

/-! ### Ready times (R33, R334) -/

/-- The slot as the bookkeeping judges it: tried again after any move but the one that found it unable to issue. -/
def triedSlot (keep : Bool) (x : Slot) : Slot := if keep then x else { x with heldBack := false }

/-- The bookkeeping of a slot changes its ready time only, which is there exactly when the slot is ready. -/
theorem settleSlot_eq (s : State) (w : Warp) (keep : Bool) (x : Slot) : settleSlot s w keep x =
    { triedSlot keep x with
      readySince := if slotReady s w (triedSlot keep x) then some (sinceOf s (triedSlot keep x)) else none } := by
  have tried : settleSlot s w keep x = settleSlot s w true (triedSlot keep x) := by cases keep <;> rfl
  rw [tried]
  generalize triedSlot keep x = y
  obtain ⟨pc, mask, join, sig, shadow, block, readyAt, since, held⟩ := y
  simp only [settleSlot, if_true]
  split
  · cases since <;> rfl
  · rfl

/-- A slot that the bookkeeping has gone over has a ready time exactly while it is ready. -/
theorem slotTimed_settleSlot (s : State) (w : Warp) (keep : Bool) (x : Slot) (ws : List Warp) (a b : Option Slot) :
    slotTimed { s with cur := none, warps := ws } { w with slot0 := a, slot1 := b } (settleSlot s w keep x) = true := by
  have timed (y : Slot) (r : Option Nat) (h : r.isSome = slotReady s w y) :
      slotTimed { s with cur := none, warps := ws } { w with slot0 := a, slot1 := b } { y with readySince := r } = true := by
    rw [slotTimed, slotReady_frame, ← h]
    exact beq_self_eq_true _
  rw [settleSlot_eq]
  exact timed _ _ (by split <;> simp [*])

/-- The bookkeeping leaves no slot issuing and every slot timed. -/
theorem settle_settled (s : State) (keep : Bool) : (settle s keep).settled := by
  refine ⟨rfl, List.all_eq_true.mpr fun v hv => ?_⟩
  obtain ⟨w, -, rfl⟩ := List.mem_map.mp hv
  have timed (o : Option Slot) : (o.map (settleSlot s w keep)).toList.all (slotTimed (settle s keep)
      { w with slot0 := w.slot0.map (settleSlot s w keep), slot1 := w.slot1.map (settleSlot s w keep) }) = true := by
    refine List.all_eq_true.mpr fun y hy => ?_
    obtain ⟨x, -, rfl⟩ := Option.map_eq_some_iff.mp (Option.mem_toList.mp hy)
    exact slotTimed_settleSlot s w keep x ..
  exact Bool.and_eq_true_iff.mpr ⟨timed _, timed _⟩

/-- Settles O58: whatever a move does, the step ends with the bookkeeping. -/
theorem stepsKeepReadyTimes : Obligations.StepsKeepReadyTimes := by
  unfold Obligations.StepsKeepReadyTimes
  intro s t h
  obtain ⟨u, rfl, -⟩ := step_next h
  exact settle_settled ..

end Sys2Proof.Machine
end

section
/-! PROOF. O57: a step of a scheduler fetches the parcels at the picked slot's program counter and executes what they decode
to; a step of an event executes the event. -/

namespace Sys2Proof.Machine

open Sys2Proof

/-! ### Fetching (R157, R349) -/

/-- The addresses of the first `k` parcels from a program counter on. -/
def parcelAddrs (s : State) (w : Warp) (pc : Word) (k : Nat) : List (Nat × DWord) :=
  (List.range k).map (fun i => (i, codeBase s w + 4 * (pc.setWidth 64 + BitVec.ofNat 64 i)))

/-- The places in memory of translated parcels. -/
def parcelPlaces (l : List (Nat × DWord × Nat × Attr)) : List Place := l.map (fun p => ⟨p.2.2.1, false⟩)

/-- Parcels that translate, and none of which waits at this device's own port, are read. -/
theorem fetchFrom_ok {s : State} {w : Warp} {n : Bool} {pc : Word} {k : Nat} {l : List (Nat × DWord × Nat × Attr)}
    (h : warpXlats s w (fun _ _ => false) (parcelAddrs s w pc k) = .ok l)
    (hw : ∀ p ∈ parcelPlaces l, Place.waits s (.warp w.uid n) false p = false) :
    fetchFrom s w n pc k = .parcels (l.map (fun p => fetchWord s p.2.2.1))
      (ownDone s (.warp w.uid n) (.read 1) (parcelPlaces l) s) := by
  have free : (parcelPlaces l).any (Place.waits s (.warp w.uid n) false) = false :=
    List.any_eq_false.mpr fun p hp => by simp [hw p hp]
  unfold parcelAddrs at h
  simp only [parcelPlaces] at free
  simp only [fetchFrom, h, free, Bool.false_eq_true, if_false, parcelPlaces]

/-- Two parcels make an instruction of form F or P. -/
theorem fetch_two {s t : State} {w : Warp} {n : Bool} {pc p : Word} {rest : List Word}
    (h : fetchFrom s w n pc 2 = .parcels (p :: rest) t) (hf : formParcels p = 2) :
    fetch s w n pc = .parcels (p :: rest) t := by
  simp [fetch, h, hf]

/-- A form-L word is fetched again with its third parcel. -/
theorem fetch_three {s t : State} {w : Warp} {n : Bool} {pc p : Word} {rest : List Word}
    (h : fetchFrom s w n pc 2 = .parcels (p :: rest) t) (hf : formParcels p = 3) :
    fetch s w n pc = fetchFrom s w n pc 3 := by
  simp [fetch, h, hf]

/-- Where no place lies over the fabric in this device itself, nothing is done there. -/
theorem ownDone_away {before s : State} {who : ReqSrc} {kind : FabKind} {ps : List Place}
    (h : ∀ p ∈ ps, ownFabric p.pa = false) : ownDone before who kind ps s = s := by
  have prots : ownProts before kind ps = [] := foldl_id fun p hp l => by simp [h p hp]
  have none_ (x : FabHeld) : (x.err && ps.any (fun p => ownFabric p.pa && x.of who p.pa)) = false := by
    rw [List.any_eq_false.mpr fun p hp => by simp [h p hp], Bool.and_false]
  simp [ownDone, prots, none_]

/-! ### A step -/

theorem step_issue {s : State} {rest : List Move} {dt core sched : Nat} (h : nextMove s = (.issue dt core sched, rest))
    (ht : s.mgc.trip = false) :
    step s = afterMove (stepIssue core sched (advance { s with tick := s.tick + 1, agenda := rest, cur := none } dt)) := by
  simp [step, stepMove, h, ht]

theorem step_event {s : State} {rest : List Move} {dt : Nat} {e : Instr} (h : nextMove s = (.event dt e, rest))
    (ht : s.mgc.trip = false) :
    step s = afterMove (exec e (advance { s with tick := s.tick + 1, agenda := rest, cur := none } dt)) := by
  simp [step, stepMove, h, ht]

theorem stepIssue_none {u : State} {core sched : Nat} (h : pickSlot u core sched = none) :
    stepIssue core sched u = .next u := by
  simp [stepIssue, h]

/-- The picked slot executes what its parcels stand for. -/
theorem stepIssue_parcels {u t : State} {core sched : Nat} {w v : Warp} {n : Bool} {x : Slot} {ps : List Word}
    (h : pickSlot u core sched = some (w, n, x)) (hv : findWarp? (startIssue u w n x) w.uid = some v)
    (hf : fetch (startIssue u w n x) v n x.pc = .parcels ps t) : stepIssue core sched u = exec (instrOf ps) t := by
  simp [stepIssue, h, hv, hf]

/-- Settles O57: the first fetch has the first two parcels, the second all three of a form-L word, and a step executes what
they decode to. -/
theorem aStepRunsTheDecodedInstruction : Obligations.AStepRunsTheDecodedInstruction := by
  unfold Obligations.AStepRunsTheDecodedInstruction
  intro s rest
  refine ⟨fun dt core sched hm ht => ⟨fun hp => ?_, ?_⟩, fun dt e hm ht => step_event hm ht⟩
  · rw [step_issue hm ht, stepIssue_none hp]
  · intro w n x v hp hv t va a b hab p0 runs
    have ran {l : List (Nat × DWord × Nat × Attr)} {c : Nat × DWord × Nat × Attr} {l' : List (Nat × DWord × Nat × Attr)}
        (hl : l = c :: l') (hc : fetchWord t c.2.2.1 = p0)
        (hf : (∀ p ∈ parcelPlaces l, Place.waits t (.warp v.uid n) false p = false) →
          fetch t v n x.pc = .parcels (l.map (fun p => fetchWord t p.2.2.1))
            (ownDone t (.warp v.uid n) (.read 1) (parcelPlaces l) t)) : runs l := by
      unfold runs
      intro ps at_ u hw
      have he : step s = afterMove (exec (instrOf ps) u) := by
        rw [step_issue hm ht, stepIssue_parcels hp hv (hf hw)]
        rfl
      refine ⟨fun i hi => ?_, fun e hi => ?_, ownDone_away⟩
      · rw [he, instrOf, hi]
      · have hd : ps.headD 0 = p0 := by subst hl; exact hc
        rw [he, instrOf, hi, hd]
    have two (hw : ∀ p ∈ parcelPlaces [a, b], Place.waits t (.warp v.uid n) false p = false) :=
      fetchFrom_ok (pc := x.pc) (k := 2) hab hw
    refine ⟨fun h2 => ran rfl rfl fun hw => fetch_two (two hw) h2, fun h3 d e f hdef hd hw => ran rfl hd fun hw' => ?_⟩
    have hw2 : ∀ p ∈ parcelPlaces [a, b], Place.waits t (.warp v.uid n) false p = false := by
      simpa [parcelPlaces] using hw
    rw [fetch_three (two hw2) h3]
    exact fetchFrom_ok (pc := x.pc) (k := 3) hdef hw'

end Sys2Proof.Machine
end

section
/-! SUPPORT. What an instruction finds, the counted warp, and how each kind of effect leaves the state when nothing keeps
the instruction from executing. -/

namespace Sys2Proof.Machine

open Sys2Proof

/-! ### Warps and slots -/

@[simp] theorem setSlot_setSlot (w : Warp) (n : Bool) (x y : Option Slot) :
    (w.setSlot n x).setSlot n y = w.setSlot n y := by
  cases n <;> rfl

@[simp] theorem withDepth_uid (w : Warp) (d : Nat) : (w.withDepth d).uid = w.uid := rfl

theorem countedWarp_eq (w : Warp) (n : Bool) (x : Slot) (i : Instr) : countedWarp w n x i =
    { w.setSlot n (some (countedSlot w x i)) with cnt := w.cnt + 1, seq := w.seq + 1, ctrs := raised w i } := rfl

section Counted
variable (w : Warp) (n : Bool) (x : Slot) (i : Instr)

@[simp] theorem countedWarp_uid : (countedWarp w n x i).uid = w.uid := by cases n <;> rfl
@[simp] theorem countedWarp_team : (countedWarp w n x i).team = w.team := by cases n <;> rfl
@[simp] theorem countedWarp_core : (countedWarp w n x i).core = w.core := by cases n <;> rfl
@[simp] theorem countedWarp_regBase : (countedWarp w n x i).regBase = w.regBase := by cases n <;> rfl
@[simp] theorem countedWarp_stackBase : (countedWarp w n x i).stackBase = w.stackBase := by cases n <;> rfl
@[simp] theorem countedWarp_dstk : (countedWarp w n x i).dstk = w.dstk := by cases n <;> rfl
@[simp] theorem countedWarp_depth : (countedWarp w n x i).depth = w.depth := by cases n <;> rfl
@[simp] theorem countedWarp_trap : (countedWarp w n x i).trap = w.trap := by cases n <;> rfl
@[simp] theorem countedWarp_flags : (countedWarp w n x i).flags = w.flags := by cases n <;> rfl
@[simp] theorem countedWarp_passes : (countedWarp w n x i).passes = w.passes := by cases n <;> rfl
@[simp] theorem countedWarp_window : (countedWarp w n x i).window = w.window := by cases n <;> rfl
@[simp] theorem countedWarp_bars : (countedWarp w n x i).bars = w.bars := by cases n <;> rfl
@[simp] theorem countedWarp_acquires : (countedWarp w n x i).acquires = w.acquires := by cases n <;> rfl
@[simp] theorem countedWarp_cnt : (countedWarp w n x i).cnt = w.cnt + 1 := rfl
@[simp] theorem countedWarp_seq : (countedWarp w n x i).seq = w.seq + 1 := rfl
@[simp] theorem countedWarp_ctrs : (countedWarp w n x i).ctrs = raised w i := rfl
@[simp] theorem countedWarp_slot : (countedWarp w n x i).slot? n = some (countedSlot w x i) := by cases n <;> rfl
@[simp] theorem countedWarp_other : (countedWarp w n x i).slot? (!n) = w.slot? (!n) := by cases n <;> rfl

@[simp] theorem countedSlot_mask : (countedSlot w x i).mask = x.mask := rfl
@[simp] theorem countedSlot_shadow : (countedSlot w x i).shadow = x.shadow := rfl
@[simp] theorem countedSlot_join : (countedSlot w x i).join = x.join := rfl
@[simp] theorem countedSlot_block : (countedSlot w x i).block = x.block := rfl
@[simp] theorem countedSlot_sig : (countedSlot w x i).sig = countSig w x i := rfl

end Counted

/-! ### States -/

/-- The later of two updates of one warp stands. -/
theorem setWarp_setWarp (s : State) {v w : Warp} (h : v.uid = w.uid) : setWarp (setWarp s v) w = setWarp s w := by
  simp only [setWarp, List.map_map]
  congr 1
  refine List.map_congr_left fun a _ => ?_
  simp only [Function.comp, h]
  by_cases ha : a.uid == w.uid <;> simp [ha, h]

/-! ### What an instruction finds -/

section Finds
variable (s : State) (w : Warp) (n : Bool) (x : Slot) (i : Instr)

@[simp] theorem finds_pre : (Cx.make s w n x i).pre = s := rfl
@[simp] theorem finds_s : (Cx.make s w n x i).s = setWarp s (countedWarp w n x i) := rfl
@[simp] theorem finds_preW : (Cx.make s w n x i).preW = w := rfl
@[simp] theorem finds_w : (Cx.make s w n x i).w = countedWarp w n x i := rfl
@[simp] theorem finds_slot : (Cx.make s w n x i).slot = x := rfl
@[simp] theorem finds_n : (Cx.make s w n x i).n = n := rfl
@[simp] theorem finds_instr : (Cx.make s w n x i).instr = i := rfl
@[simp] theorem finds_size : (Cx.make s w n x i).size = i.size := rfl
@[simp] theorem finds_mine : (Cx.make s w n x i).mine = countedSlot w x i := by simp [Cx.mine]
@[simp] theorem finds_active : (Cx.make s w n x i).active = ones x.mask := rfl

@[simp] theorem finds_plus (off : Int) : (Cx.make s w n x i).plus off = x.pc.toNat + off := rfl

@[simp] theorem finds_withSlot (y : Slot) :
    (Cx.make s w n x i).withSlot y = setWarp s ((countedWarp w n x i).setSlot n (some y)) := by
  simp [Cx.withSlot, setWarp_setWarp]

end Finds

/-! ### Effects -/

section Effects
variable {i : Instr} {s : State} {w : Warp} {n : Bool} {x : Slot} {body : Cx → Eff}

/-- An exception of a warp without a matrix operation in flight is taken at once. -/
theorem takeTrap_free {s : State} {w : Warp} (hm : mxInFlight s w.uid = false) (n : Bool) (size cause sub : Nat) (tval : Word) :
    takeTrap s w n size cause sub tval = enterTrap s w.uid n size cause sub tval := by
  simp [takeTrap, hm]

/-- The instruction has the effect `body`. -/
def HasEffect (i : Instr) (s : State) (w : Warp) (n : Bool) (x : Slot) (body : Cx → Eff) : Prop :=
  exec i s = .next ((body (finds s w n x i)).finish (finds s w n x i))

/-- An instruction that nothing keeps from executing has its effect. -/
theorem hasEffect_of_issue (h : Issues i s w n x) (he : exec i s = issue i body s) : HasEffect i s w n x body :=
  he.trans (issue_issues h body)

variable (he : HasEffect i s w n x body)
include he

/-- A state change enters the state, and results the window. -/
theorem exec_of_go {t : State} {ws : List (Nat × Word)} (hb : body (finds s w n x i) = .go t ws) :
    exec i s = .next (pushWindow t w.uid ws) := by
  rw [he, hb]
  simp [Eff.finish]

/-- A state that says itself what becomes of the warp. -/
theorem exec_of_stop {t : State} (hb : body (finds s w n x i) = .stop t) : exec i s = .next t := by
  rw [he, hb, Eff.finish]

/-- An instruction that cannot issue yet stays where it is. -/
theorem exec_of_hold (hb : body (finds s w n x i) = .hold) : exec i s = .next (holdSlot s w.uid n) := by
  rw [he, hb]
  rfl

theorem traps_of_trap {cause sub : Nat} {tval : Word} (hb : body (finds s w n x i) = .trap cause sub tval) :
    Traps s w n i cause sub tval := by
  intro hm
  rw [he, hb]
  exact congrArg Host.Outcome.next (takeTrap_free hm ..)

/-- A change of the counted warp, with results. -/
theorem exec_of_warp {u : State} {f : Warp → Warp} {ws : List (Nat × Word)}
    (hb : body (finds s w n x i) = .go (setWarp u (f (countedWarp w n x i))) ws) : exec i s = .next (went u w n x i f ws) :=
  exec_of_go he hb

/-- A change of the counted slot, with results. -/
theorem exec_of_slot {f : Slot → Slot} {ws : List (Nat × Word)}
    (hb : body (finds s w n x i) = .go ((finds s w n x i).withSlot (f (countedSlot w x i))) ws) :
    exec i s = .next (wentSlot s w n x i f ws) :=
  exec_of_go he (by rw [hb, finds_withSlot])

/-- The next instruction follows. -/
theorem exec_of_fall {ws : List (Nat × Word)} (hb : body (finds s w n x i) = (finds s w n x i).fall ws) :
    exec i s = .next (wentSlot s w n x i id ws) :=
  exec_of_go he (by rw [hb, Cx.fall, finds_s]; cases n <;> rfl)

omit he in
theorem targetIn_iff (t : Int) : targetIn t = true ↔ inCode t := by simp [targetIn, inCode]

/-- A jump within the code range is taken, four cycles later. -/
theorem exec_of_jump {t : Int} {ws : List (Nat × Word)} (hb : body (finds s w n x i) = (finds s w n x i).jump t ws)
    (ht : inCode t) : exec i s = .next (branched s w n x i t ws) :=
  exec_of_slot he (by rw [hb, Cx.jump, if_pos ((targetIn_iff t).mpr ht), finds_mine]; rfl)

omit he in
theorem jump_out {c : Cx} {t : Int} {ws : List (Nat × Word)} (ht : targetIn t = false) :
    c.jump t ws = .trap 0x01 1 (BitVec.ofInt 32 t) := by
  simp [Cx.jump, ht, badTarget]

end Effects

end Sys2Proof.Machine
end

section
/-! PROOF. O16: SETSR. -/

namespace Sys2Proof.Machine

open Sys2Proof

/-! ### Reserved bits -/

/-- The bits from `k` on are zero exactly in a value below 2^k. -/
theorem and_upper_eq_zero_iff (v : Word) (k : Nat) : v &&& (BitVec.allOnes 32 <<< k) = 0 ↔ v.toNat < 2 ^ k := by
  constructor
  · intro h
    refine Nat.lt_pow_two_of_testBit _ fun j hj => ?_
    by_cases h32 : j < 32
    · have hb := congrArg (fun u : Word => u.getLsbD j) h
      simp only [BitVec.getLsbD_and, BitVec.getLsbD_shiftLeft, BitVec.getLsbD_allOnes, h32, show ¬ j < k by omega,
        show j - k < 32 by omega, decide_true, decide_false, Bool.not_false, Bool.and_true] at hb
      exact hb.trans BitVec.getLsbD_zero
    · exact Nat.testBit_lt_two_pow (lt_of_lt_of_le v.isLt (Nat.pow_le_pow_right (by omega) (by omega)))
  · intro h
    refine BitVec.eq_of_getLsbD_eq fun j hj => ?_
    by_cases hk : k ≤ j
    · have hv : v.getLsbD j = false :=
        Nat.testBit_lt_two_pow (lt_of_lt_of_le h (Nat.pow_le_pow_right (by omega) hk))
      simp [hv]
    · simp [show j < k by omega]

theorem and_upper_beq_zero (v : Word) (k : Nat) : (v &&& (BitVec.allOnes 32 <<< k) == 0) = decide (v.toNat < 2 ^ k) := by
  rw [Bool.eq_iff_iff, beq_iff_eq, decide_eq_true_iff, and_upper_eq_zero_iff]

theorem setSpecial_flags (u : Warp) (v : Word) :
    setSpecial u 18 v = if v.toNat < 2 ^ 9 then some { u with flags := v } else none := by
  change (if (v &&& (BitVec.allOnes 32 <<< 9) == 0) = true then _ else _) = _
  simp only [and_upper_beq_zero, decide_eq_true_eq]

theorem setSpecial_trapen (u : Warp) (v : Word) :
    setSpecial u 20 v = if v.toNat < 2 ^ 9 then some { u with trapen := v } else none := by
  change (if (v &&& (BitVec.allOnes 32 <<< 9) == 0) = true then _ else _) = _
  simp only [and_upper_beq_zero, decide_eq_true_eq]

theorem setSpecial_cause (u : Warp) (v : Word) :
    setSpecial u 30 v = if u.trap.isSome ∧ v.toNat < 2 ^ 16 then some { u with cause := v } else none := by
  change (if (u.trap.isSome && (v &&& (BitVec.allOnes 32 <<< 16) == 0)) = true then _ else _) = _
  simp only [and_upper_beq_zero, Bool.and_eq_true, decide_eq_true_eq]

/-- The registers that SETSR may never write. -/
theorem setSpecial_other (u : Warp) (k : BitVec 5) (v : Word) (h : k ∉ [18, 19, 20, 24, 29, 30, 31]) :
    setSpecial u k.toNat v = none := by
  simp only [List.mem_cons, List.not_mem_nil, or_false, not_or, ← BitVec.toNat_inj] at h
  unfold setSpecial
  split <;> simp_all

/-! ### SETSR (R223) -/

section Setsr
variable {o : SetsrOp} {s : State} {w : Warp} {n : Bool} {x : Slot}

/-- A register that may be written gets its value, and the warp waits four cycles. -/
theorem setsr_some (h : Issues (.setsr o) s w n x) {f : Warp → Warp} (hf : (f (countedWarp w n x (.setsr o))).uid = w.uid)
    (e : setSpecial (countedWarp w n x (.setsr o)) o.idx.toNat ((finds s w n x (.setsr o)).sval o.val) =
      some (f (countedWarp w n x (.setsr o)))) :
    exec (.setsr o) s = .next (went s w n x (.setsr o) (fun u => heldFour s (f u)) []) :=
  exec_of_warp (hasEffect_of_issue h rfl : HasEffect _ s w n x (setsrEff o)) (by
    simp only [setsrEff, finds_w, e, finds_s]
    rw [setWarp_setWarp]
    · rfl
    · simp [hf])

theorem setsr_none (h : Issues (.setsr o) s w n x)
    (e : setSpecial (countedWarp w n x (.setsr o)) o.idx.toNat ((finds s w n x (.setsr o)).sval o.val) = none) :
    Traps s w n (.setsr o) 0x01 1 (firstParcels (.setsr o)).1 :=
  traps_of_trap (hasEffect_of_issue h rfl : HasEffect _ s w n x (setsrEff o)) (by simp [setsrEff, e])

/-- A register that may be written under a condition. -/
theorem setsr_ite (h : Issues (.setsr o) s w n x) {f : Warp → Warp} (hf : (f (countedWarp w n x (.setsr o))).uid = w.uid)
    {p : Prop} [Decidable p]
    (e : setSpecial (countedWarp w n x (.setsr o)) o.idx.toNat ((finds s w n x (.setsr o)).sval o.val) =
      if p then some (f (countedWarp w n x (.setsr o))) else none) :
    if p then exec (.setsr o) s = .next (went s w n x (.setsr o) (fun u => heldFour s (f u)) [])
    else Traps s w n (.setsr o) 0x01 1 (firstParcels (.setsr o)).1 := by
  split
  · exact setsr_some h hf (by rw [e, if_pos ‹p›])
  · exact setsr_none h (by rw [e, if_neg ‹¬p›])

end Setsr

/-- Settles O16, register by register: what `setSpecial` allows is written, what it refuses traps. -/
theorem setsrWritesWhatMayBeWritten : Obligations.SetsrWritesWhatMayBeWritten := by
  unfold Obligations.SetsrWritesWhatMayBeWritten
  intro o s w n x h v gives no
  refine ⟨fun e => ?_, fun e => ?_, fun e => ?_, fun e => ?_, fun e => ?_, fun e => ?_, fun e => ?_, fun e => ?_⟩
  · exact setsr_ite h (f := fun u => { u with flags := v }) (by simp) (by rw [e]; exact setSpecial_flags ..)
  · exact setsr_ite h (f := fun u => { u with lanectl := v }) (by simp) (by rw [e]; rfl)
  · exact setsr_ite h (f := fun u => { u with trapen := v }) (by simp) (by rw [e]; exact setSpecial_trapen ..)
  · exact setsr_some h (f := fun u => { u with cnt := v }) (by simp) (by rw [e]; rfl)
  · exact setsr_some h (f := fun u => { u with passes := v }) (by simp) (by rw [e]; rfl)
  · exact setsr_ite h (f := fun u => { u with cause := v }) (by simp) (by
      rw [e, ← countedWarp_trap w n x (.setsr o)]; exact setSpecial_cause ..)
  · exact setsr_ite h (f := fun u => { u with tval := v }) (by simp) (by
      rw [e, ← countedWarp_trap w n x (.setsr o)]; rfl)
  · exact setsr_none h (setSpecial_other _ _ _ e)

end Sys2Proof.Machine
end

section
/-! SUPPORT. The divergence stack (01 R11, R12): entries are words of the banked store, and what an instruction finds there
does not depend on its having been counted. -/

namespace Sys2Proof.Machine

open Sys2Proof

/-! ### Where the entries lie -/

/-- Two warps have their stacks in the same place. -/
def SameStack (u w : Warp) : Prop := u.core = w.core ∧ u.team = w.team ∧ u.stackBase = w.stackBase

theorem SameStack.refl (w : Warp) : SameStack w w := ⟨rfl, rfl, rfl⟩

theorem countedWarp_sameStack (w : Warp) (n : Bool) (x : Slot) (i : Instr) : SameStack (countedWarp w n x i) w := by
  simp [SameStack]

theorem withDepth_sameStack {u w : Warp} (h : SameStack u w) (d : Nat) : SameStack { u with depth := d } w := h

section Moved
variable {u w : Warp} (h : SameStack u w) (s : State) (v : Warp)
include h

theorem entryKey_setWarp (i : Nat) : entryKey (setWarp s v) u i = entryKey s w i := by
  obtain ⟨hc, ht, hb⟩ := h
  simp only [entryKey, entryAddr, planeOf, hc, ht, hb]
  rfl

theorem readEntry_setWarp (i : Nat) : readEntry (setWarp s v) u i = readEntry s w i := by
  simp only [readEntry, entryKey_setWarp h, setWarp_store]

theorem writeEntry_setWarp (i : Nat) (e : DEntry) : writeEntry (setWarp s v) u i e = setWarp (writeEntry s w i e) v := by
  simp only [writeEntry, entryKey_setWarp h]
  rfl

theorem ownedEntries_setWarp (n : Bool) (d : Nat) : ownedEntries (setWarp s v) u n d = ownedEntries s w n d := by
  induction d with
  | zero => rfl
  | succ d ih => simp only [ownedEntries, readEntry_setWarp h, ih]

theorem trimDepth_setWarp (d : Nat) : trimDepth (setWarp s v) u d = trimDepth s w d := by
  induction d with
  | zero => rfl
  | succ d ih => simp only [trimDepth, readEntry_setWarp h, ih]

theorem topEntry?_setWarp (hd : u.depth = w.depth) (n : Bool) : topEntry? (setWarp s v) u n = topEntry? s w n := by
  simp only [topEntry?, ownedEntries_setWarp h, readEntry_setWarp h, hd]

theorem retireEntry_setWarp (hd : u.depth = w.depth) (i : Nat) : retireEntry (setWarp s v) u i =
    (setWarp (retireEntry s w i).1 v, { u with depth := (retireEntry s w i).2.depth }) := by
  simp only [retireEntry, readEntry_setWarp h, writeEntry_setWarp h, trimDepth_setWarp h, hd]

end Moved

/-- The signature that a split, a join or an exit gives the counted slot (R153). -/
theorem resig_counted (w : Warp) (n : Bool) (x : Slot) (i : Instr) (v : Word) :
    resig (countedWarp w n x i) (countedSlot w x i).sig v = if w.trap.isSome then countSig w x i else v := by
  simp only [resig, countedWarp_trap, countedSlot_sig]

/-! ### Entries that a slot owns -/

theorem ownedEntries_lt {s : State} {w : Warp} {n : Bool} {d k : Nat} (h : k ∈ ownedEntries s w n d) : k < d := by
  induction d with
  | zero => simp [ownedEntries] at h
  | succ d ih =>
    simp only [ownedEntries] at h
    split at h
    · rcases List.mem_cons.mp h with rfl | h
      · exact Nat.lt_succ_self _
      · exact Nat.lt_succ_of_lt (ih h)
    · exact Nat.lt_succ_of_lt (ih h)

/-- The entries are listed from the top down. -/
theorem ownedEntries_pairwise (s : State) (w : Warp) (n : Bool) (d : Nat) : (ownedEntries s w n d).Pairwise (· > ·) := by
  induction d with
  | zero => exact List.Pairwise.nil
  | succ d ih =>
    simp only [ownedEntries]
    split
    · exact List.Pairwise.cons (fun k hk => ownedEntries_lt hk) ih
    · exact ih

theorem mem_ownedEntries {s : State} {w : Warp} {n : Bool} {d k : Nat} : k ∈ ownedEntries s w n d ↔
    k < d ∧ (readEntry s w k).kind ≠ 2 ∧ ((readEntry s w k).own = 2 ∨ (readEntry s w k).own = n.toNat) := by
  induction d with
  | zero => simp [ownedEntries]
  | succ d ih =>
    have here : ((readEntry s w d).kind != 2 && ((readEntry s w d).own == 2 || (readEntry s w d).own == n.toNat)) = true ↔
        (readEntry s w d).kind ≠ 2 ∧ ((readEntry s w d).own = 2 ∨ (readEntry s w d).own = n.toNat) := by simp
    simp only [ownedEntries]
    rcases Nat.lt_trichotomy k d with hk | rfl | hk
    · split <;> simp [ih, hk.ne, hk, Nat.lt_succ_of_lt hk]
    · split <;> simp_all
    · split <;> simp [ih, hk.ne', hk.not_gt, Nat.not_lt_of_le hk]

/-- The first of a falling list that has a property is the greatest of those. -/
theorem find?_of_pairwise_gt {l : List Nat} (hl : l.Pairwise (· > ·)) {p : Nat → Bool} {b : Nat} (hb : b ∈ l) (hp : p b = true)
    (hn : ∀ d ∈ l, b < d → p d = false) : l.find? p = some b := by
  induction l with
  | nil => cases hb
  | cons a l ih =>
    obtain ⟨ha, hl⟩ := List.pairwise_cons.mp hl
    rcases List.mem_cons.mp hb with rfl | hb
    · simp [hp]
    · rw [List.find?_cons, hn a (List.mem_cons_self ..) (ha b hb)]
      exact ih hl hb (fun d hd => hn d (List.mem_cons_of_mem _ hd))

end Sys2Proof.Machine
end

section
/-! PROOF. O18: BRC. -/

namespace Sys2Proof.Machine

open Sys2Proof

/-- A program counter in the code range fits the 30-bit fields of an entry (R12). -/
theorem inCode_field {t : Int} (h : inCode t) : t.toNat % 2 ^ 30 = t.toNat := by
  obtain ⟨h0, h1⟩ := h
  exact Nat.mod_eq_of_lt (by omega)

/-- Settles O18: the branches of `brcEff`, each with the updates of the counted warp put together. -/
theorem brcSplitsItsLanes : Obligations.BrcSplitsItsLanes := by
  unfold Obligations.BrcSplitsItsLanes
  intro o s w n x h
  dsimp only
  have he : HasEffect (.brc o) s w n x (brcEff o) := hasEffect_of_issue h rfl
  have stack := countedWarp_sameStack w n x (.brc o)
  have ne {v : Word} (hv : v ≠ 0) : (v == 0) = false := beq_eq_false_iff_ne.mpr hv
  simp only [← targetIn_iff, Bool.not_eq_true]
  refine ⟨fun ht => exec_of_fall he ?_, fun ht hr hc => exec_of_jump he ?_ ((targetIn_iff _).mp hc),
    fun ht hr hc hj hs hd => exec_of_warp he ?_, fun ht hr hc hj hs hd => exec_of_warp he ?_,
    fun ht hc => traps_of_trap he ?_, fun ht hr hc hj => traps_of_trap he ?_, fun ht hr hc hj hd => traps_of_trap he ?_⟩
  all_goals simp only [brcEff, finds_slot, finds_plus]
  · simp only [ht, beq_self_eq_true, if_true]
  · simp only [ne ht, hr, beq_self_eq_true, Bool.false_eq_true, if_false, if_true]
  · have room : ¬ w.dstk < w.depth + 1 := by omega
    simp only [ne ht, ne hr, hc, hj, hs, Bool.not_true, Bool.false_eq_true, if_false, finds_w, finds_n, finds_s, finds_mine,
      countedWarp_other, countedWarp_depth, countedWarp_dstk, Option.isNone_none, if_true, room,
      inCode_field ((targetIn_iff _).mp hj), writeEntry_setWarp stack, resig_counted]
    rw [setWarp_setWarp _ (by simp)]
    rfl
  · have room : ¬ w.dstk < w.depth + 2 := by omega
    obtain ⟨y, hy⟩ := Option.ne_none_iff_exists'.mp hs
    simp only [ne ht, ne hr, hc, hj, hy, Bool.not_true, Bool.false_eq_true, if_false, finds_w, finds_n, finds_s, finds_mine,
      countedWarp_other, countedWarp_depth, countedWarp_dstk, Option.isNone_some, room,
      inCode_field ((targetIn_iff _).mp hj), inCode_field ((targetIn_iff _).mp hc), writeEntry_setWarp stack, resig_counted]
    rw [setWarp_setWarp _ (by simp)]
    rfl
  · by_cases hr : x.mask &&& ~~~ maskOf ((finds s w n x (.brc o)).lanes o.guard) = 0
    · simp only [ne ht, hr, beq_self_eq_true, Bool.false_eq_true, if_false, if_true, jump_out hc]
    · simp only [ne ht, ne hr, hc, Bool.not_false, Bool.false_eq_true, if_false, if_true]
      rfl
  · simp only [ne ht, ne hr, hc, hj, Bool.not_true, Bool.not_false, Bool.false_eq_true, if_false, if_true]
    rfl
  · simp only [ne ht, ne hr, hc, hj, Bool.not_true, Bool.false_eq_true, if_false]
    rw [if_pos (by simpa using hd)]

end Sys2Proof.Machine
end

section
/-! PROOF. O19: JOIN. -/

namespace Sys2Proof.Machine

open Sys2Proof

/-- Settles O19: the branches of `joinEff`, by the entry on top and its KIND. -/
theorem joinGathersLanes : Obligations.JoinGathersLanes := by
  unfold Obligations.JoinGathersLanes
  intro s w n x h
  dsimp only
  have he : HasEffect .join s w n x joinEff := hasEffect_of_issue h rfl
  have stack := countedWarp_sameStack w n x .join
  have top : topEntry? (setWarp s (countedWarp w n x .join)) (countedWarp w n x .join) n = topEntry? s w n :=
    topEntry?_setWarp stack s _ (by simp) n
  refine ⟨fun hj => exec_of_fall he ?_, fun hj ht => traps_of_trap he ?_, fun k e hj ht => ⟨fun hb => traps_of_trap he ?_,
    fun hp h0 ho hs => exec_of_warp he ?_, fun hp h0 ho => exec_of_warp he ?_, fun hp h1 b hb hn hb0 hbj => exec_of_warp he ?_⟩⟩
  all_goals simp only [joinEff, finds_slot, finds_s, finds_w, finds_n, finds_mine, top]
  · simp [hj]
  · simp [hj, ht, entryAddr]
  · simp only [hj, ht, bne_self_eq_false, Bool.false_eq_true, if_false]
    rw [if_pos (by simpa using hb)]
    simp [entryAddr]
  · simp [hj, ht, hp, h0, ho, hs, writeEntry_setWarp stack, setWarp_setWarp]
  · have shared : (e.own == 2 && (w.slot? (!n)).isSome) = false := by
      rcases ho with ho | ho <;> simp [ho]
    simp only [hj, ht, hp, h0, shared, countedWarp_other, bne_self_eq_false, Bool.false_eq_true, if_false, resig_counted,
      retireEntry_setWarp stack s _ (countedWarp_depth ..)]
    rw [setWarp_setWarp _ (by simp)]
    rfl
  · have below : (ownedEntries s w n k).find? (fun d => (readEntry s w d).kind == 0 && (readEntry s w d).jpc == x.pc.toNat) =
        some b :=
      find?_of_pairwise_gt (ownedEntries_pairwise ..) hb (by simp [hb0, hbj]) (fun d hd hbd => by simpa using hn d hd hbd)
    have kind : (e.kind == 3) = false ∧ (e.kind == 1) = true := by simp [h1]
    simp only [hj, ht, hp, kind, bne_self_eq_false, Bool.or_self, Bool.false_eq_true, if_false, if_true, ownedEntries_setWarp stack, readEntry_setWarp stack, writeEntry_setWarp stack, below,
      retireEntry_setWarp stack _ _ (countedWarp_depth ..), resig_counted]
    rw [setWarp_setWarp _ (by simp)]
    rfl

end Sys2Proof.Machine
end

section
/-! PROOF. O20: EXIT. An entry is retired by its KIND, which no other entry of the stack notices; so the loop of R15 over
the entries follows `AfterExit` and comes to its end within the fuel that the depth gives it. -/

namespace Sys2Proof.Machine

open Sys2Proof

/-! ### Reading entries after writing one (R12) -/

theorem entryKey_eq (s : State) (w : Warp) (i : Nat) : entryKey s w i = entryKey s w 0 + 4 * i := by
  simp only [entryKey, entryAddr, storeKey]
  omega

theorem entryKey_writeEntry (s : State) (w u : Warp) (i j : Nat) (e : DEntry) :
    entryKey (writeEntry s w i e) u j = entryKey s u j := rfl

/-- The words of another entry are not written. -/
theorem readEntry_writeEntry_ne {s : State} (hs : s.store.wf = true) (w : Warp) {i k : Nat} (h : k ≠ i) (e : DEntry) :
    readEntry (writeEntry s w i e) w k = readEntry s w k := by
  have word (j : Nat) (hj : j < 4) : (writeEntry s w i e).store.word (entryKey s w k + j) = s.store.word (entryKey s w k + j) := by
    have len : e.words.length = 4 := rfl
    simp only [writeEntry]
    rw [Mem.word_setWords hs, entryKey_eq s w i, entryKey_eq s w k, len, if_neg (by omega)]
  have w0 := word 0 (by omega)
  simp only [readEntry, entryKey_writeEntry, word 1 (by omega), word 2 (by omega), word 3 (by omega)]
  rw [Nat.add_zero] at w0
  rw [w0]

/-- The KIND of an entry that has been written. -/
theorem readEntry_writeEntry_kind {s : State} (hs : s.store.wf = true) (w : Warp) (i : Nat) {e : DEntry} (hk : e.kind < 4)
    (hp : e.pc < 2 ^ 30) : (readEntry (writeEntry s w i e) w i).kind = e.kind := by
  have word : (writeEntry s w i e).store.word (entryKey s w i) = good (BitVec.ofNat 32 (e.kind * 2 ^ 30 + e.pc)) := by
    simp only [writeEntry]
    rw [Mem.word_setWords hs, if_pos (by simp [DEntry.words]), Nat.sub_self]
    rfl
  simp only [readEntry, entryKey_writeEntry, word, DEntry.ofWords, bits, good, BitVec.toNat_ofNat]
  omega

theorem readEntry_pc_lt (s : State) (w : Warp) (i : Nat) : (readEntry s w i).pc < 2 ^ 30 := by
  simp only [readEntry, DEntry.ofWords, bits]
  omega

theorem writeEntry_store_wf {s : State} (h : s.store.wf = true) (w : Warp) (i : Nat) (e : DEntry) :
    (writeEntry s w i e).store.wf = true := Mem.setWords_wf h _ _

/-! ### Retiring the topmost entry -/

theorem topEntry?_some {s : State} {w : Warp} {n : Bool} {i : Nat} {e : DEntry} (h : topEntry? s w n = some (i, e)) :
    (ownedEntries s w n w.depth).head? = some i ∧ e = readEntry s w i := by
  simp only [topEntry?, Option.map_eq_some_iff, Prod.mk.injEq] at h
  obtain ⟨j, hj, rfl, rfl⟩ := h
  exact ⟨hj, rfl⟩

/-- No entry of the slot lies above the topmost. -/
theorem le_of_topEntry? {s : State} {w : Warp} {n : Bool} {i k : Nat} {e : DEntry} (h : topEntry? s w n = some (i, e))
    (hk : k ∈ ownedEntries s w n w.depth) : k ≤ i := by
  have head := (topEntry?_some h).1
  have falls := ownedEntries_pairwise s w n w.depth
  cases hl : ownedEntries s w n w.depth with
  | nil => simp [hl] at head
  | cons a l =>
    rw [hl] at head hk falls
    obtain rfl : a = i := by simpa using head
    rcases List.mem_cons.mp hk with rfl | hk
    · exact le_rfl
    · exact Nat.le_of_lt ((List.pairwise_cons.mp falls).1 k hk)

theorem lt_depth_of_topEntry? {s : State} {w : Warp} {n : Bool} {i : Nat} {e : DEntry} (h : topEntry? s w n = some (i, e)) :
    i < w.depth :=
  ownedEntries_lt (List.mem_of_mem_head? (topEntry?_some h).1)

theorem trimDepth_le (s : State) (w : Warp) (d : Nat) : trimDepth s w d ≤ d := by
  induction d with
  | zero => exact le_rfl
  | succ d ih =>
    simp only [trimDepth]
    split
    · exact Nat.le_succ_of_le ih
    · exact le_rfl

/-- After the topmost entry is retired, the next lies below it. -/
theorem topEntry?_retireEntry {s : State} (hs : s.store.wf = true) {w : Warp} {n : Bool} {i j : Nat} {e f : DEntry}
    (h : topEntry? s w n = some (i, e)) (hj : topEntry? (retireEntry s w i).1 (retireEntry s w i).2 n = some (j, f)) :
    j < i := by
  have hm := List.mem_of_mem_head? (topEntry?_some hj).1
  obtain ⟨hd, hk, ho⟩ := mem_ownedEntries.mp hm
  have hd' : j < w.depth := lt_of_lt_of_le hd (trimDepth_le ..)
  have ne : j ≠ i := fun hji => hk (by
    subst hji
    exact readEntry_writeEntry_kind hs w j (by simp) (readEntry_pc_lt s w j))
  have same : readEntry (retireEntry s w i).1 (retireEntry s w i).2 j = readEntry s w j := readEntry_writeEntry_ne hs w ne _
  rw [same] at hk ho
  exact lt_of_le_of_ne (le_of_topEntry? h (mem_ownedEntries.mpr ⟨hd', hk, ho⟩)) ne

/-! ### The loop of R15 -/

/-- The loop comes to what `AfterExit` says, if its fuel goes beyond the topmost entry. -/
theorem exitLoop_of_afterExit {n : Bool} {s : State} {w : Warp} {out : ExitOut} (h : AfterExit n s w out)
    (hs : s.store.wf = true) {fuel : Nat} (hf : ∀ i e, topEntry? s w n = some (i, e) → i < fuel) :
    exitLoop s w n fuel = out := by
  induction h generalizing fuel with
  | @empty s w ht => cases fuel <;> simp [exitLoop, ht]
  | @unknown s w i e ht hk =>
    obtain ⟨fuel, rfl⟩ := Nat.exists_eq_add_of_lt (hf i e ht)
    simp [exitLoop, ht, hk, entryAddr]
  | @path s w i e ht hk =>
    obtain ⟨fuel, rfl⟩ := Nat.exists_eq_add_of_lt (hf i e ht)
    simp [exitLoop, ht, hk]
  | @parked s w i e ht hk ho hl =>
    obtain ⟨fuel, rfl⟩ := Nat.exists_eq_add_of_lt (hf i e ht)
    simp [exitLoop, ht, hk, ho, hl]
  | @gone s w i e out ht hk ho hl _ ih =>
    obtain ⟨fuel, rfl⟩ := Nat.exists_eq_add_of_lt (hf i e ht)
    have shared : (e.own == 2 && (w.slot? (!n)).isSome) = false := by rcases ho with ho | ho <;> simp [ho]
    simp only [exitLoop, ht, hk, shared, hl]
    refine ih (writeEntry_store_wf hs ..) fun j f hj => ?_
    have := topEntry?_retireEntry hs ht hj
    omega
  | @merged s w i e ht hk ho hl =>
    obtain ⟨fuel, rfl⟩ := Nat.exists_eq_add_of_lt (hf i e ht)
    have shared : (e.own == 2 && (w.slot? (!n)).isSome) = false := by rcases ho with ho | ho <;> simp [ho]
    have lanes : (e.lanes == 0) = false := beq_eq_false_iff_ne.mpr hl
    simp only [exitLoop, ht, hk, shared, lanes]
    rfl

/-- What a slot takes up, in the state and the warp that `f` and `g` make of those there. -/
def ExitOut.mapped (f : State → State) (g : Warp → Warp) : ExitOut → ExitOut
  | .free s w => .free (f s) (g w)
  | .take s w pc mask join sig => .take (f s) (g w) pc mask join sig
  | .bad a => .bad a

/-- The loop finds the same for a warp that another stands in for: the entries lie in the same place. -/
theorem exitLoop_setWarp {u w : Warp} {n : Bool} (h : SameStack u w) (hd : u.depth = w.depth)
    (ho : u.slot? (!n) = w.slot? (!n)) (s : State) (v : Warp) (fuel : Nat) :
    exitLoop (setWarp s v) u n fuel =
      (exitLoop s w n fuel).mapped (setWarp · v) (fun z => { u with depth := z.depth }) := by
  have here : ExitOut.free (setWarp s v) u = (ExitOut.free s w).mapped (setWarp · v) (fun z => { u with depth := z.depth }) := by
    simp only [ExitOut.mapped, ← hd]
  induction fuel generalizing s u w with
  | zero => exact here
  | succ fuel ih =>
    simp only [exitLoop, topEntry?_setWarp h s v hd]
    cases topEntry? s w n with
    | none => exact here
    | some p =>
      obtain ⟨i, e⟩ := p
      simp only [retireEntry_setWarp h s v hd, ho]
      split_ifs
      · simp only [ExitOut.mapped, entryAddr, h.2.2]
      · rfl
      · exact here
      · exact ih (u := { u with depth := (retireEntry s w i).2.depth }) (w := (retireEntry s w i).2)
          (withDepth_sameStack h _) rfl ho _ rfl
      · rfl

/-! ### EXIT (R15, R230) -/

section Exit
variable {g : Guard} {s : State} {w : Warp} {n : Bool} {x : Slot}

/-- What the counted slot's lanes leave behind. -/
theorem finds_leave (i : Instr) (s' : State) (d : Nat) (lanes : Word) (y : Option Slot) :
    (finds s w n x i).leave (setWarp s' (countedWarp w n x i)) { countedWarp w n x i with depth := d } lanes y =
      dropFromBars (setWarp s' ({ countedWarp w n x i with depth := d }.setSlot n y)) w.uid lanes := by
  simp [Cx.leave, setWarp_setWarp]

/-- The loop as EXIT runs it, after counting. -/
theorem finds_exitLoop (i : Instr) {out : ExitOut} (hs : s.store.wf = true) (h : AfterExit n s w out) :
    exitLoop (finds s w n x i).s (finds s w n x i).w n ((finds s w n x i).w.depth + 1) =
      out.mapped (setWarp · (countedWarp w n x i)) (fun z => { countedWarp w n x i with depth := z.depth }) := by
  have loop : exitLoop s w n (w.depth + 1) = out :=
    exitLoop_of_afterExit h hs fun i e ht => Nat.lt_succ_of_lt (lt_depth_of_topEntry? ht)
  rw [finds_s, finds_w, countedWarp_depth, exitLoop_setWarp (countedWarp_sameStack ..) (countedWarp_depth ..)
    (countedWarp_other ..), loop]

end Exit

section Gone
variable {g : Guard} {s : State} {w : Warp} {n : Bool} {x : Slot}

/-- The state that EXIT's lanes leave behind when the slot becomes `y` and the stack is cut to `d`. -/
def exitLeft (g : Guard) (s : State) (w : Warp) (n : Bool) (x : Slot) (s' : State) (d : Nat) (y : Option Slot) : State :=
  dropFromBars (setWarp s' ({ countedWarp w n x (.exit g) with depth := d }.setSlot n y)) w.uid
    (maskOf ((finds s w n x (.exit g)).lanes g))

variable (hr : x.mask &&& ~~~ maskOf ((finds s w n x (.exit g)).lanes g) = 0) (hs : s.store.wf = true)
include hr hs

theorem exitEff_bad {a : Nat} (h : AfterExit n s w (.bad a)) :
    exitEff g (finds s w n x (.exit g)) = .trap 0x01 1 (BitVec.ofNat 32 a) := by
  simp only [exitEff, Cx.exiting, finds_mine, countedSlot_mask, bne, beq_iff_eq.mpr hr, Bool.not_true, Bool.false_eq_true,
    if_false, finds_n, finds_exitLoop (.exit g) hs h, ExitOut.mapped]

theorem exitEff_take {s' : State} {u : Warp} {pc : Nat} {mask sig : Word} {join : Option Word}
    (h : AfterExit n s w (.take s' u pc mask join sig)) :
    exitEff g (finds s w n x (.exit g)) = .go (exitLeft g s w n x s' u.depth (some { countedSlot w x (.exit g) with
      pc := BitVec.ofNat 32 pc, mask := mask, shadow := mask, join := join,
      sig := if w.trap.isSome then countSig w x (.exit g) else sig })) [] := by
  have sigs : resig { countedWarp w n x (.exit g) with depth := u.depth } (countSig w x (.exit g)) sig =
      if w.trap.isSome then countSig w x (.exit g) else sig := resig_counted ..
  simp only [exitEff, Cx.exiting, finds_mine, countedSlot_mask, bne, beq_iff_eq.mpr hr, Bool.not_true, Bool.false_eq_true,
    if_false, finds_n, finds_exitLoop (.exit g) hs h, ExitOut.mapped, finds_leave, countedSlot_sig, sigs, exitLeft]

/-- The slot becomes free; the warp ends with it if nothing else of it is left. -/
theorem exitEff_free {s' : State} {u : Warp} (h : AfterExit n s w (.free s' u)) :
    exitEff g (finds s w n x (.exit g)) =
      if (w.slot? (!n)).isNone && u.depth == 0 then
        .stop (w.ploughError.elim (endWarp (exitLeft g s w n x s' u.depth none) w) (contain s w 6 0 0x07 x.pc))
      else .go (exitLeft g s w n x s' u.depth none) [] := by
  have other : ({ countedWarp w n x (.exit g) with depth := u.depth } : Warp).slot? (!n) = w.slot? (!n) :=
    countedWarp_other ..
  simp only [exitEff, Cx.exiting, finds_mine, countedSlot_mask, bne, beq_iff_eq.mpr hr, Bool.not_true, Bool.false_eq_true,
    if_false, finds_n, finds_exitLoop (.exit g) hs h, ExitOut.mapped, finds_leave, exitEnds, finds_slot, Bool.true_and, other,
    finds_pre, finds_preW]
  cases w.ploughError <;> simp [endWarp, exitLeft]

end Gone

/-- Settles O20: lanes that are left keep the slot; else what `AfterExit` finds is what the loop of `exitEff` finds. -/
theorem exitLeavesAndEnds : Obligations.ExitLeavesAndEnds := by
  unfold Obligations.ExitLeavesAndEnds
  intro g s w n x h
  dsimp only
  have he : HasEffect (.exit g) s w n x (exitEff g) := issueWith_issues h h.ready _
  refine ⟨fun hr => exec_of_go he ?_, fun out hr hs ha => ?_⟩
  · have rest : (x.mask &&& ~~~ maskOf ((finds s w n x (.exit g)).lanes g) != 0) = true := bne_iff_ne.mpr hr
    simp only [exitEff, Cx.exiting, finds_mine, countedSlot_mask, rest, if_true, finds_w, finds_s]
    exact congrArg (Eff.go · []) (finds_leave _ s (countedWarp w n x (.exit g)).depth ..)
  · refine ⟨fun a e => ?_, fun s' u pc mask join sig e => ?_, fun s' u e hl => ?_, fun s' u e hl hd => ⟨fun hp => ?_, fun a hp => ?_⟩⟩
    all_goals subst e
    · exact traps_of_trap he (exitEff_bad hr hs ha)
    · exact exec_of_go he (exitEff_take hr hs ha)
    · have stays : ((w.slot? (!n)).isNone && u.depth == 0) = false := by
        rcases hl with hl | hl
        · simp [Option.isNone_eq_false_iff.mpr hl]
        · simp [hl]
      exact exec_of_go he (by rw [exitEff_free hr hs ha, stays]; rfl)
    · refine exec_of_stop he ?_
      rw [exitEff_free hr hs ha, hl, hd, hp]
      rfl
    · refine exec_of_stop he ?_
      rw [exitEff_free hr hs ha, hl, hd, hp]
      rfl

end Sys2Proof.Machine
end

section
/-! PROOF. O27, O28: the order of what keeps an instruction from executing. Every instruction of a warp issues in the one
way of `issueWith`, held by `waitsFirst`; the two statements then read off its checks. -/

namespace Sys2Proof.Machine

open Sys2Proof

/-- Every instruction of a warp issues by way of `issueWith`; the arms left over are events of the device, which have no
encoding. -/
theorem exec_issuesWith {i : Instr} (h : Instruction i) : ∃ body, ∀ s, exec i s = issueWith (waitsFirst i) i body s := by
  cases i with
  | add | sub | adds | subs | mul | mulh | mad | madw | div | rem | min | max | abs | neg | and | or | xor | andn |
    not | shl | shr | sar | rotl | funs | popc | clz | ctz | brev | bfx | bfi | lea | mov | cmp | fcmp | sel | bitop |
    shfl | vote | wred | wscan | matchLanes | cvt | pack | unpk | frnd | fadd | fsub | fmul | ffma | fmin | fmax |
    fabs | fneg | fcps | fclass | fdiv | fscl | fxtr | fdot2 | fsat | exp2 | log2 | rcp | rsq | sqrt | sinp | cosp |
    tanh | sigm | erf | exp | loge | gelu | silu | cpq | sigrd | ckgen | cktst | trap | bkpt | halfMov | halfMovi |
    halfAdd | halfAddi | halfSub | halfAnd | halfOr | halfXor | halfShli | halfShri | halfSari | halfMin | halfMax |
    halfMul | halfFadd | halfFsub | halfFmul | halfFmac | halfFmin | halfFmax | halfHadd | halfHmul | halfHmac |
    halfCvtf | halfCvti | halfNot | halfAbs | halfFabs | halfFneg | halfNop | movsr | setsr | bra | brc | join |
    call | ret | jmpi | loop | exit | yield | nop | sleep | ld | ldck | st | stnt | lds | sts | stck | pref | atom |
    red | atoms | fence | drnt | redf | invl | wbl | rsync | bar | wait | waitw | rarv | rwt | tflag | wake | nbsa |
    nbcp | nbzr | nbopt | nbfn | mma | mmao | acz | acsc | acmx | acex | acld | acst | tdrn | cpt | cpg | cps | card |
    cagt | cata | cbct | sreg | sld | sst | shrd | slda | ssta | scmt | snrm | sigchk | rett | lnch | prgs | tlbi |
    halt | illegalInstructionWord =>
    exact ⟨_, fun _ => rfl⟩
  | loadValueLands | storeAcknowledged | acquireCompletes | releaseWaitEnds | gangRelaunch | homeRSi | homeRWi |
    homeOwn | homeWrh | homeSur | homeAtomic | recallWriteback | noticeInjection | towpathInv | towpathRcw |
    towpathRca | fillArrives | grantArrives | waitwReevaluation | waitwPoll | watchEntryTaken | sleepExpiry |
    yieldTimeout | softEntryStaged | commitArrival | scmtCompletes | copyRow | copyCompletes | collectiveBlock |
    collectiveCompletes | ploughPartAccepted | ploughRowStep | ploughPartCompletes | crossChannelGranule |
    matrixOperationStart | arrayStaggeredStart | matrixOperationFinishes | mxCounterFall | launchRecordTaken |
    teamPlacement | l1Resize | registerCompaction | planeSwap | deadlinePreemption | teamSave | teamRestore |
    gridBarrierRotation | podBarrierMessage | podPhaseCompletion | gridCompletes | pageWalk | faultRecordWrite |
    fqhead | resumeRetry | resumeError | resumeDiscard | prdead | invctlPage | invctlContext | invctlAll |
    invalidationCompletes | registerWrite | hostWrite | hostRead | fabricRequest | thilosLinkDown | retire | eridx |
    attestationGo | attestationDone | firmwareStage | firmwareStagingDone | szlrel | powerCheck | trip | reset |
    quadPowerUp | retirementCompletes | standbyPowerLoss | podRegistration =>
    exact absurd rfl h

section AtIssue
variable {i : Instr} {s : State} {w : Warp} {n : Bool} {x : Slot} (ha : AtIssue s w n x)
include ha

/-- What holds an instruction back comes before everything else. -/
theorem exec_held (hi : Instruction i) (h : gated s w i = true ∨ waitsFirst i (finds s w n x i) = true) :
    exec i s = .next (holdSlot s w.uid n) := by
  obtain ⟨body, he⟩ := exec_issuesWith hi
  obtain ⟨hc, hw, hx⟩ := ha
  have held : (gated s w i || waitsFirst i (finds s w n x i)) = true := by simpa using h
  simp only [he, issueWith, hc, hw, hx, held, if_true]

/-- A deferred report comes before the checks. -/
theorem exec_reported (hi : Instruction i) (hg : gated s w i = false) (he : waitsFirst i (finds s w n x i) = false)
    {r : Report} (hr : w.reports.find? i.takes = some r) (hm : mxInFlight s w.uid = false) : exec i s =
      .next (enterTrap (setWarp s { w with reports := w.reports.erase r }) w.uid n i.size r.cause.toNat 0 r.tval) := by
  obtain ⟨body, hb⟩ := exec_issuesWith hi
  obtain ⟨hc, hw, hx⟩ := ha
  have free : (gated s w i || waitsFirst i (finds s w n x i)) = false := by simp [hg, he]
  simp only [hb, issueWith, hc, hw, hx, free, hr, hm, Bool.false_eq_true, if_false]

/-- Then come the checks. -/
theorem exec_checked (hi : Instruction i) (hg : gated s w i = false) (hr : w.reports.find? i.takes = none)
    (he : waitsFirst i (finds s w n x i) = false) : ∃ body, exec i s = .next (issueChecked s w n x i body) := by
  obtain ⟨body, hb⟩ := exec_issuesWith hi
  obtain ⟨hc, hw, hx⟩ := ha
  have free : (gated s w i || waitsFirst i (finds s w n x i)) = false := by simp [hg, he]
  exact ⟨body, by simp only [hb, issueWith, hc, hw, hx, free, hr, Bool.false_eq_true, if_false]⟩

end AtIssue

/-- Settles O27: `issueChecked` tests limits, role and privilege in this order, before the body of the instruction. -/
theorem checksTrapBeforeAnyEffect : Obligations.ChecksTrapBeforeAnyEffect := by
  unfold Obligations.ChecksTrapBeforeAnyEffect
  intro i s w n x hi ha hg hr he
  obtain ⟨body, hb⟩ := exec_checked ha hi hg hr he
  refine ⟨fun hl => ?_, fun hl ho hm => ?_, fun hl ho hp hq hm => ?_⟩
  · split
    all_goals
      rename_i pair
      intro hm
      rw [hb]
      simp only [issueChecked, hl, pair, if_true, Bool.false_eq_true, if_false, takeTrap_free hm]
  · rw [hb]
    simp only [issueChecked, hl, ho, Bool.not_false, Bool.false_eq_true, if_true, if_false, takeTrap_free hm]
  · rw [hb]
    simp only [issueChecked, hl, ho, hp, hq, Bool.not_true, Bool.not_false, Bool.true_and, Bool.false_eq_true, if_true, if_false,
      takeTrap_free hm]

/-- A counter at 63 gates what would raise it. -/
theorem gated_of_full {s : State} {w : Warp} {i : Instr} {k : Ctr} (hk : i.ctr = some k) (h : 63 ≤ w.ctrs.get k) :
    gated s w i = true := by
  simp [gated, hk, h]

/-- An acquire of the warp gates its accesses. -/
theorem gated_of_acquire {s : State} {w : Warp} {i : Instr} (hi : i.access = true) (h : w.acquires ≠ []) :
    gated s w i = true := by
  simp [gated, hi, h]

/-- Settles O28: the gates of `issueWith` come before the deferred report, and that before the checks. -/
theorem countersAcquiresAndReportsComeFirst : Obligations.CountersAcquiresAndReportsComeFirst := by
  unfold Obligations.CountersAcquiresAndReportsComeFirst
  intro i s w n x hi ha
  exact ⟨fun k hk h => exec_held ha hi (.inl (gated_of_full hk h)),
    fun h hq => exec_held ha hi (.inl (gated_of_acquire h hq)),
    fun h => exec_held ha hi (.inr h),
    fun r hg he hr hm => exec_reported ha hi hg he hr hm⟩

end Sys2Proof.Machine
end

section
/-! SUPPORT. The sliding window and the banks (01 R27): what a register word reads as after results enter the window, leave
it for the banks, or are all written there, and what stays as it was. -/

namespace Sys2Proof.Machine

open Sys2Proof

/-! ### Words that the banks are given -/

theorem bankWrite_cons (s : State) (b : Nat) (p : Nat × Word) (ws : List (Nat × Word)) :
    bankWrite s b (p :: ws) = bankWrite (bankWrite s b [p]) b ws := rfl

/-- The banks hold the last value given to a word. -/
theorem bankWrite_word {s : State} (hs : s.store.wf = true) (b k : Nat) (ws : List (Nat × Word)) :
    ((bankWrite s b ws).store.word (b + k)).data = newest ws.reverse k (s.store.word (b + k)).data := by
  induction ws generalizing s with
  | nil => rfl
  | cons p ws ih =>
    rw [bankWrite_cons, ih (bankWrite_wf hs b [p])]
    simp only [newest, List.reverse_cons, List.find?_append, List.find?_singleton]
    cases ws.reverse.find? (fun q => q.1 == k) with
    | some q => rfl
    | none =>
      have word : ((bankWrite s b [p]).store.word (b + k)) = if k = p.1 then good p.2 else s.store.word (b + k) := by
        simp only [bankWrite, List.foldl_cons, List.foldl_nil, Mem.word_setWord hs, Nat.add_left_cancel_iff]
      rw [word]
      by_cases hk : k = p.1
      · simp [hk, good]
      · simp [hk, Ne.symm hk]

/-- A word that is not given keeps its value. -/
theorem bankWrite_word_ne {s : State} (hs : s.store.wf = true) {b k : Nat} {ws : List (Nat × Word)}
    (h : ∀ p ∈ ws, k ≠ b + p.1) : (bankWrite s b ws).store.word k = s.store.word k := by
  induction ws generalizing s with
  | nil => rfl
  | cons p ws ih =>
    rw [bankWrite_cons, ih (bankWrite_wf hs b [p]) fun q hq => h q (List.mem_cons_of_mem _ hq)]
    exact (Mem.word_setWord hs ..).trans (if_neg (h p List.mem_cons_self))

/-- A word that is given has no error any more. -/
theorem bankWrite_upsets {s : State} (hs : tsorted s.upsets = true) (b k : Nat) (ws : List (Nat × Word)) :
    tget? (bankWrite s b ws).upsets k = if ∃ p ∈ ws, k = b + p.1 then none else tget? s.upsets k := by
  induction ws generalizing s with
  | nil => simp [bankWrite]
  | cons p ws ih =>
    have once : (bankWrite s b [p]).upsets = terase s.upsets (b + p.1) := rfl
    rw [bankWrite_cons, ih (s := bankWrite s b [p]) (tsortedFrom_terase hs _), once]
    by_cases hk : k = b + p.1
    · subst hk
      simp [tget?_terase_self hs]
    · simp only [tget?_terase_ne hs hk, List.mem_cons, exists_eq_or_imp, hk, false_or]

/-! ### The window -/

theorem windowGet?_append (a b : List (List (Nat × Word))) (k : Nat) :
    windowGet? (a ++ b) k = (windowGet? a k).or (windowGet? b k) := by
  induction a with
  | nil => rfl
  | cons e a ih =>
    simp only [List.cons_append, windowGet?]
    cases e.find? (fun p => p.1 == k) with
    | some p => rfl
    | none => exact ih

/-- A new entry's results come first. -/
theorem windowGet?_cons (e : List (Nat × Word)) (w : List (List (Nat × Word))) (k : Nat) :
    windowGet? (e :: w) k = ((e.find? (fun p => p.1 == k)).map (·.2)).or (windowGet? w k) := by
  simp only [windowGet?]
  cases e.find? (fun p => p.1 == k) <;> rfl

/-- An entry that names each word once is read alike from both ends. -/
theorem find?_reverse_of_once {e : List (Nat × Word)} (h : (e.map (·.1)).Nodup) (k : Nat) :
    e.reverse.find? (fun p => p.1 == k) = e.find? (fun p => p.1 == k) := by
  induction e with
  | nil => rfl
  | cons p e ih =>
    obtain ⟨hp, he⟩ := List.nodup_cons.mp h
    rw [List.reverse_cons, List.find?_append, ih he, List.find?_cons]
    by_cases hk : p.1 = k
    · have none_left : e.find? (fun q => q.1 == k) = none :=
        List.find?_eq_none.mpr fun q hq hqk =>
          hp (List.mem_map.mpr ⟨q, hq, (beq_iff_eq.mp hqk).trans hk.symm⟩)
      simp [none_left, hk]
    · simp [beq_eq_false_iff_ne.mpr hk]

/-- The results of a window written oldest first leave the newest of each word. -/
theorem newest_of_windowGet? {w : List (List (Nat × Word))} (h : WindowOnce w) (k : Nat) (old : Word) :
    newest (w.reverse.flatten).reverse k old = (windowGet? w k).getD old := by
  have find : ((w.map List.reverse).flatten.find? (fun p => p.1 == k)).map (·.2) = windowGet? w k := by
    induction w with
    | nil => rfl
    | cons e w ih =>
      rw [List.map_cons, List.flatten_cons, List.find?_append, windowGet?_cons,
        find?_reverse_of_once (h e List.mem_cons_self), ← ih fun f hf => h f (List.mem_cons_of_mem _ hf), Option.map_or]
  rw [newest, List.reverse_flatten, List.map_reverse, List.reverse_reverse, find]

theorem regWord_eq (s : State) (w : Warp) (b k : Nat) :
    regWord s w b k = (windowGet? w.window k).getD (s.store.word (b + k)).data := by
  simp only [regWord]
  cases windowGet? w.window k <;> rfl

theorem regBank_of_same {s t : State} {u w : Warp} (hc : u.core = w.core) (ht : u.team = w.team)
    (hb : u.regBase = w.regBase) (he : t.teams = s.teams) : regBank t u = regBank s w := by
  simp only [regBank, planeOf, findTeam?, hc, ht, hb, he]

/-! ### Results enter the window -/

/-- The results that leave the window of `w` for the banks when `ws` enters. -/
def leaving (w : Warp) (ws : List (Nat × Word)) : List (Nat × Word) :=
  ((ws :: w.window).drop 8).flatten.filter (fun p => (windowGet? ((ws :: w.window).take 8) p.1).isNone)

theorem pushWindow_eq {s : State} {u : Nat} {w : Warp} (h : findWarp? s u = some w) (ws : List (Nat × Word)) :
    pushWindow s u ws =
      setWarp (bankWrite s (regBank s w) (leaving w ws)) { w with window := (ws :: w.window).take 8 } := by
  simp only [pushWindow, h]
  split
  · rename_i none_left
    rw [show leaving w ws = [] from List.isEmpty_iff.mp none_left]
    rfl
  · rfl

/-- The results that leave the window come from one of its entries. -/
theorem mem_of_leaving {w : Warp} {ws : List (Nat × Word)} {p : Nat × Word} (h : p ∈ leaving w ws) :
    ∃ e ∈ w.window, p ∈ e := by
  have hm := (List.mem_filter.mp h).1
  rw [List.drop_succ_cons] at hm
  obtain ⟨e, he, hp⟩ := List.mem_flatten.mp hm
  exact ⟨e, List.mem_of_mem_drop he, hp⟩

/-- A word that the rest of the window does not hold is the last that leaves the window. -/
theorem newest_leaving {w : Warp} {ws : List (Nat × Word)} (hl : w.window.length ≤ 8) (ho : WindowOnce (ws :: w.window))
    {k : Nat} (hk : windowGet? ((ws :: w.window).take 8) k = none) (old : Word) :
    newest (leaving w ws).reverse k old = (windowGet? ((ws :: w.window).drop 8) k).getD old := by
  have once : WindowOnce ((ws :: w.window).drop 8) := fun e he => ho e (List.mem_of_mem_drop he)
  have short : ((ws :: w.window).drop 8).reverse = (ws :: w.window).drop 8 := by
    have len : ((ws :: w.window).drop 8).length ≤ 1 := by simp; omega
    generalize (ws :: w.window).drop 8 = l at len
    match l, len with
    | [], _ => rfl
    | [_], _ => rfl
  rw [← newest_of_windowGet? once, short]
  simp only [newest, leaving, ← List.filter_reverse, List.find?_filter]
  congr 3
  funext p
  by_cases hp : p.1 = k
  · rw [hp, hk]
    simp
  · simp [hp]

/-- After results enter the window a register reads the newest of them, or as before. -/
theorem regWord_pushWindow {s : State} {u : Nat} {w : Warp} (h : findWarp? s u = some w) (hs : s.store.wf = true)
    (hl : w.window.length ≤ 8) {ws : List (Nat × Word)} (ho : WindowOnce (ws :: w.window)) (k : Nat) :
    regWord (pushWindow s u ws) { w with window := (ws :: w.window).take 8 } (regBank s w) k =
      newest ws k (regWord s w (regBank s w) k) := by
  have whole : windowGet? (ws :: w.window) k =
      (windowGet? ((ws :: w.window).take 8) k).or (windowGet? ((ws :: w.window).drop 8) k) := by
    rw [← windowGet?_append, List.take_append_drop]
  have read : newest ws k (regWord s w (regBank s w) k) =
      (windowGet? (ws :: w.window) k).getD (s.store.word (regBank s w + k)).data := by
    rw [newest, regWord_eq, windowGet?_cons]
    cases (ws.find? (fun p => p.1 == k)) <;> rfl
  rw [read, whole, regWord_eq, pushWindow_eq h, setWarp_store, bankWrite_word hs]
  cases hk : windowGet? ((ws :: w.window).take 8) k with
  | some v => rfl
  | none => exact newest_leaving hl ho hk _

theorem findWarp?_pushWindow {s : State} {u : Nat} {w : Warp} (h : findWarp? s u = some w) (ws : List (Nat × Word)) :
    findWarp? (pushWindow s u ws) u = some { w with window := (ws :: w.window).take 8 } := by
  obtain rfl := findWarp?_uid h
  rw [pushWindow_eq h]
  exact findWarp?_setWarp_self (w := { w with window := (ws :: w.window).take 8 }) (v := w) h

theorem findWarp?_pushWindow_ne (s : State) {u v : Nat} (h : v ≠ u) (ws : List (Nat × Word)) :
    findWarp? (pushWindow s u ws) v = findWarp? s v := by
  cases hw : findWarp? s u with
  | none => simp only [pushWindow, hw]
  | some w =>
    obtain rfl := findWarp?_uid hw
    rw [pushWindow_eq hw]
    exact findWarp?_setWarp_ne h

/-- Other store words stay. -/
theorem pushWindow_store {s : State} {u : Nat} {w : Warp} (h : findWarp? s u = some w) (hs : s.store.wf = true)
    (ws : List (Nat × Word)) {k : Nat} (hk : ∀ e ∈ w.window, ∀ p ∈ e, k ≠ regBank s w + p.1) :
    (pushWindow s u ws).store.word k = s.store.word k := by
  rw [pushWindow_eq h]
  refine bankWrite_word_ne hs fun p hp => ?_
  obtain ⟨e, he, hpe⟩ := mem_of_leaving hp
  exact hk e he p hpe

/-- Only warps, the store and its errors change. -/
theorem pushWindow_frame (s : State) (u : Nat) (ws : List (Nat × Word)) :
    pushWindow s u ws = { s with warps := (pushWindow s u ws).warps, store := (pushWindow s u ws).store,
                                 upsets := (pushWindow s u ws).upsets } := by
  cases h : findWarp? s u with
  | none => simp only [pushWindow, h]
  | some w => rw [pushWindow_eq h]; rfl

theorem pushWindow_upsets {s : State} {u : Nat} {w : Warp} (h : findWarp? s u = some w) (hu : tsorted s.upsets = true)
    (ws : List (Nat × Word)) (k : Nat) : tget? (pushWindow s u ws).upsets k =
      if ∃ p ∈ leaving w ws, k = regBank s w + p.1 then none else tget? s.upsets k := by
  rw [pushWindow_eq h]
  exact bankWrite_upsets hu ..

end Sys2Proof.Machine
end

section
/-! PROOF. O22 and O23: the frame of an instruction's results, and the instructions that write the window to the banks. -/

namespace Sys2Proof.Machine

open Sys2Proof

/-- Settles O22: the counted warp is in the state, and the results enter its window. -/
theorem instructionsChangeOnlyTheirResults : Obligations.InstructionsChangeOnlyTheirResults := by
  unfold Obligations.InstructionsChangeOnlyTheirResults
  intro s w n x i ws fl hw hx hs hl ho
  dsimp only
  let v : Warp := { countedWarp w n x i with flags := w.flags ||| fl }
  have uid : v.uid = w.uid := countedWarp_uid ..
  have window : v.window = w.window := countedWarp_window ..
  have there : findWarp? (setWarp s v) w.uid = some v := by
    rw [← uid]; exact findWarp?_setWarp_self (uid ▸ hw)
  have bank : regBank (setWarp s v) v = regBank s w :=
    regBank_of_same (countedWarp_core ..) (countedWarp_team ..) (countedWarp_regBase ..) rfl
  have same : issued s w n x i ws fl = pushWindow (setWarp s v) w.uid ws := by
    simp only [issued, countedWarp_flags]
    rfl
  rw [same]
  refine ⟨⟨_, findWarp?_pushWindow there ws, ?_, fun k => ?_⟩, fun u hu => ?_, ?_, fun hu k => ?_, fun k hk => ?_⟩
  · rfl
  · rw [← bank, regWord_pushWindow there hs (window ▸ hl) (window ▸ ho)]
    simp only [regWord_eq, window, setWarp_store]
  · rw [findWarp?_pushWindow_ne _ hu]
    exact findWarp?_setWarp_ne (uid ▸ hu)
  · rw [pushWindow_frame]
    rfl
  · rw [pushWindow_upsets there hu, bank]
    simp only [leaving, window, List.mem_filter, Option.isNone_iff_eq_none, setWarp_upsets, and_assoc]
    simp only [and_comm (b := _ = regBank s w + _)]
  · exact pushWindow_store there hs ws (by rw [window, bank]; exact hk)

/-! ### The whole window goes to the banks -/

/-- A state in which the window of `u` is written, and an empty result follows. -/
theorem flushed_runs {s : State} {u v w : Warp} (hs : s.store.wf = true) (ho : WindowOnce w.window)
    (hw : findWarp? s w.uid = some w) (hv : v.uid = w.uid) (uid : u.uid = w.uid) (window : u.window = w.window)
    (bank : regBank s u = regBank s w) :
    ∃ t, pushWindow (flushWindow (setWarp s v) u) w.uid [] = t ∧ findWarp? t w.uid = some { u with window := [[]] } ∧
      (∀ k, (t.store.word (regBank s w + k)).data = regWord s w (regBank s w) k) ∧ MemoryKept s t := by
  have here : findWarp? (setWarp s v) w.uid = some v := by
    rw [← hv]; exact findWarp?_setWarp_self (hv ▸ hw)
  have there : findWarp? (flushWindow (setWarp s v) u) w.uid = some { u with window := [] } := by
    rw [← uid] at here ⊢
    exact findWarp?_setWarp_self (w := { u with window := [] }) here
  have wf : (flushWindow (setWarp s v) u).store.wf = true := flushWindow_wf hs u
  refine ⟨_, rfl, ?_, fun k => ?_, ?_⟩
  · rw [findWarp?_pushWindow there]
    rfl
  · rw [pushWindow_store there wf [] (by simp)]
    have same : regBank (setWarp s v) u = regBank s w := bank
    simp only [flushWindow, setWarp_store, windowPending, same]
    rw [bankWrite_word (s := setWarp s v) hs, newest_of_windowGet? (window ▸ ho), regWord_eq, window]
    rfl
  · rw [MemoryKept, pushWindow_only, flushWindow_only]
    exact ⟨rfl, rfl⟩

/-- Settles O23: both write the window of the counted warp; WAIT's slot then has its wait. -/
theorem waitAndRsyncWriteTheWindow : Obligations.WaitAndRsyncWriteTheWindow := by
  unfold Obligations.WaitAndRsyncWriteTheWindow
  intro s w n x hs ho
  refine ⟨fun h => ?_, fun o h => ?_⟩
  · have he : HasEffect .rsync s w n x (fun c => .go (flushWindow c.s c.w) []) := hasEffect_of_issue h rfl
    obtain ⟨t, ht, hv, words, mem⟩ := flushed_runs (u := countedWarp w n x .rsync) hs ho h.warp
      (countedWarp_uid w n x .rsync) (by simp) (by simp) (regBank_of_same (by simp) (by simp) (by simp) rfl)
    exact ⟨t, _, (exec_of_go he rfl).trans (congrArg _ ht), hv, rfl, words, countedWarp_slot .., rfl, rfl,
      countedWarp_flags .., mem⟩
  · have he : HasEffect (.wait o) s w n x (waitEff o) := hasEffect_of_issue h rfl
    let y : Slot := { countedSlot w x (.wait o) with block := .wait o }
    obtain ⟨t, ht, hv, words, mem⟩ := flushed_runs (u := (countedWarp w n x (.wait o)).setSlot n (some y)) hs ho h.warp
      (countedWarp_uid w n x (.wait o)) (by simp) (by simp) (regBank_of_same (by simp) (by simp) (by simp) rfl)
    have eff : waitEff o (finds s w n x (.wait o)) =
        .go (flushWindow (setWarp s (countedWarp w n x (.wait o))) ((countedWarp w n x (.wait o)).setSlot n (some y))) [] := by
      simp only [waitEff, finds_s, finds_w, finds_n, finds_mine]
      rfl
    exact ⟨t, _, (exec_of_go he eff).trans (congrArg _ ht), hv, rfl, words, setSlot_slot (countedWarp w n x (.wait o)) n (some y), by simp, by simp,
      by simp, mem⟩

end Sys2Proof.Machine
end

section
/-! PROOF. O36 and O39 fail. Both say `Quiet` of an instruction that becomes an acquire, and so that store words which are in
no window stay, for every state; but only a store in canonical form keeps its other words when one is written. In a store
whose check table is not sorted, a result that leaves the window for the banks uncovers a listed difference that was not
read before. O59 says that no step leaves such a store; the two statements lack the hypothesis. -/

namespace Sys2Proof.Machine

open Sys2Proof

/-- A store whose check table lists word 1 before word 0, so that word 0 reads as good. -/
def unsortedStore : Mem := ⟨[], [(1, 1), (0, 1)]⟩

/-- A warp whose window is full, with a result for s1 the next to leave it. -/
def fullWindowWarp : Warp := { programWarp with window := List.replicate 7 [] ++ [[(sKey 1, 0)]] }

/-- The placed program's device with that warp issuing over that store. -/
def unsortedState : State :=
  { placeProgram State.reset [] with cur := some (4, false), warps := [fullWindowWarp], store := unsortedStore }

/-- The issuing slot. -/
def entrySlot : Slot :=
  { pc := 0, mask := 0xFFFFFFFF, join := none, sig := 0, shadow := 0xFFFFFFFF, block := .none, readyAt := 0, readySince := none,
    heldBack := false }

/-- Word 0 of the store after an instruction. -/
def firstWordAfter (i : Instr) : CWord :=
  match exec i unsortedState with
  | .next t => t.store.word 0
  | _ => good 0

/-- An instruction that uncovers word 0 is not quiet: word 0 is in no entry of the window. -/
theorem not_quiet_of_uncovers {i : Instr} {t : State} (he : exec i unsortedState = .next t)
    (h : firstWordAfter i ≠ unsortedStore.word 0) : ¬ Quiet unsortedState t fullWindowWarp false entrySlot i := by
  intro ⟨_, _, _, kept, _, _⟩
  have outside : ∀ e ∈ fullWindowWarp.window, ∀ p ∈ e, 0 ≠ regBank unsortedState fullWindowWarp + p.1 := by decide +kernel
  have after : firstWordAfter i = t.store.word 0 := by simp only [firstWordAfter, he]
  exact h (after.trans (kept 0 outside))

/-- Refutes O39: an RWT whose chamber has its state and phase, over the unsorted store. -/
theorem not_ringsAndTileFlagsAct : ¬ Obligations.RingsAndTileFlagsAct := by
  unfold Obligations.RingsAndTileFlagsAct
  intro h
  let o : RwtOp := ⟨⟨0, 0⟩, false, .lit 0⟩
  have issues : Issues (.rwt o) unsortedState fullWindowWarp false entrySlot :=
    ⟨rfl, rfl, rfl, by decide +kernel, rfl, by decide +kernel, by decide +kernel, by decide +kernel, rfl, by decide +kernel⟩
  obtain ⟨-, act, -⟩ := (h unsortedState fullWindowWarp false entrySlot).2.1 o issues
  obtain ⟨t, v, a, he, -, -, -, quiet⟩ := act ⟨false, false, 0⟩ (by decide +kernel) rfl (by decide +kernel)
  exact not_quiet_of_uncovers he (by decide +kernel) quiet

/-- Refutes O36: a BAR.wait of a warp that has not arrived, over the unsorted store. -/
theorem not_barriersArriveAndWait : ¬ Obligations.BarriersArriveAndWait := by
  unfold Obligations.BarriersArriveAndWait
  intro h
  let o : BarOp := ⟨.wait, .team, 0⟩
  have issues : Issues (.bar o) unsortedState fullWindowWarp false entrySlot :=
    ⟨rfl, rfl, rfl, by decide +kernel, rfl, by decide +kernel, by decide +kernel, by decide +kernel, rfl, by decide +kernel⟩
  obtain ⟨-, -, -, act, -⟩ := h.2 o unsortedState fullWindowWarp false entrySlot programGrid programTeam
    ⟨0, false, 32, 0, 0⟩ issues (by decide +kernel) (by decide +kernel) (by decide +kernel)
  obtain ⟨t, v, a, he, -, -, -, -, quiet⟩ := act ⟨by decide +kernel, by decide +kernel⟩ rfl (by decide +kernel)
  exact not_quiet_of_uncovers he (by decide +kernel) quiet

end Sys2Proof.Machine
end

section
/-! SUPPORT. Starting acquires (05 R97), and passes over the warps that touch one warp each. -/

namespace Sys2Proof.Machine

open Sys2Proof

/-! ### Lists in which entries are replaced -/

/-- The entries that `p` holds of are replaced by one that it holds of. -/
theorem find?_map_replace {α : Type} {p : α → Bool} {a : α} (ha : p a = true) (l : List α) :
    (l.map (fun x => if p x then a else x)).find? p = (l.find? p).map (fun _ => a) := by
  induction l with
  | nil => rfl
  | cons x l ih =>
    by_cases hx : p x = true
    · simp [hx, ha]
    · simp [hx, ih]

/-- Another key is not found in the entry that replaces one. -/
theorem find?_map_replace_key {α : Type} (key : α → Nat) (a : α) (l : List α) (k : Nat) :
    (l.map (fun x => if key x == key a then a else x)).find? (fun x => key x == k) =
      (l.find? (fun x => key x == k)).map (fun x => if key x == key a then a else x) := by
  induction l with
  | nil => rfl
  | cons x l ih =>
    have same : (key (if key x == key a then a else x) == k) = (key x == k) := by
      split
      · rename_i h; rw [beq_iff_eq.mp h]
      · rfl
    simp only [List.map_cons, List.find?_cons, same, ih]
    cases key x == k <;> rfl

theorem findTeam?_setTeam (s : State) (t : Team) (k : Nat) :
    findTeam? (setTeam s t) k = (findTeam? s k).map (fun x => if x.uid == t.uid then t else x) :=
  find?_map_replace_key Team.uid t s.teams k

theorem findTeam?_uid {s : State} {u : Nat} {t : Team} (h : findTeam? s u = some t) : t.uid = u := by
  simpa using List.find?_some h

theorem findGang?_setGang (s : State) (g : Gang) (k : Nat) :
    findGang? (setGang s g) k = (findGang? s k).map (fun x => if x.uid == g.uid then g else x) :=
  find?_map_replace_key Gang.uid g s.gangs k

theorem findGang?_uid {s : State} {u : Nat} {g : Gang} (h : findGang? s u = some g) : g.uid = u := by
  simpa using List.find?_some h

theorem findGrid?_setGrid (s : State) (g : Grid) (k : Nat) :
    findGrid? (setGrid s g) k = (findGrid? s k).map (fun x => if x.uid == g.uid then g else x) :=
  find?_map_replace_key Grid.uid g s.grids k

theorem findGrid?_uid {s : State} {u : Nat} {g : Grid} (h : findGrid? s u = some g) : g.uid = u := by
  simpa using List.find?_some h

/-! ### Acquires -/

/-- The acquire that starts in `s`. -/
def acquireIn (s : State) (scope : Scope) (op loadsBefore : Option Nat) : Acquire :=
  { id := s.nextId, refSlot := s.slotCount, bound := s.nextId, op := op, scope := scope, loadsBefore := loadsBefore }

/-- An acquire is listed with its warp; no more happens than that shared words are dropped. -/
theorem startAcquire_eq {s : State} {u : Nat} {w : Warp} (h : findWarp? s u = some w) (scope : Scope)
    (op loadsBefore : Option Nat) : ∃ l1s replies, startAcquire s u scope op loadsBefore =
      setWarp { s with nextId := s.nextId + 1, l1s := l1s, replies := replies }
        { w with acquires := w.acquires ++ [acquireIn s scope op loadsBefore] } := by
  let r : State := setWarp { s with nextId := s.nextId + 1 }
    { w with acquires := w.acquires ++ [acquireIn s scope op loadsBefore] }
  simp only [startAcquire, h]
  split
  · exact ⟨(dropSi r (domainOf r w.core)).l1s, (dropSi r (domainOf r w.core)).replies, rfl⟩
  · exact ⟨s.l1s, s.replies, rfl⟩

/-- What an acquire may change. -/
theorem startAcquire_frame (s : State) (u : Nat) (scope : Scope) (op loadsBefore : Option Nat) :
    startAcquire s u scope op loadsBefore = { s with
      warps := (startAcquire s u scope op loadsBefore).warps, nextId := (startAcquire s u scope op loadsBefore).nextId,
      l1s := (startAcquire s u scope op loadsBefore).l1s, replies := (startAcquire s u scope op loadsBefore).replies } := by
  cases h : findWarp? s u with
  | none => simp only [startAcquire, h]
  | some w =>
    obtain ⟨l1s, replies, e⟩ := startAcquire_eq h scope op loadsBefore
    rw [e]
    rfl

theorem findWarp?_startAcquire {s : State} {u : Nat} {w : Warp} (h : findWarp? s u = some w) (scope : Scope)
    (op loadsBefore : Option Nat) : findWarp? (startAcquire s u scope op loadsBefore) u =
      some { w with acquires := w.acquires ++ [acquireIn s scope op loadsBefore] } := by
  obtain ⟨l1s, replies, e⟩ := startAcquire_eq h scope op loadsBefore
  obtain rfl := findWarp?_uid h
  rw [e]
  exact findWarp?_setWarp_self (w := { w with acquires := _ }) (v := w) h

theorem findWarp?_startAcquire_ne (s : State) {u v : Nat} (h : v ≠ u) (scope : Scope) (op loadsBefore : Option Nat) :
    findWarp? (startAcquire s u scope op loadsBefore) v = findWarp? s v := by
  cases hw : findWarp? s u with
  | none => simp only [startAcquire, hw]
  | some w =>
    obtain ⟨l1s, replies, e⟩ := startAcquire_eq hw scope op loadsBefore
    obtain rfl := findWarp?_uid hw
    rw [e]
    exact findWarp?_setWarp_ne h

/-! ### Passes over the warps -/

/-- Among warps of different identities each is found by its own. -/
theorem findWarp?_of_mem {s : State} (hn : (s.warps.map (·.uid)).Nodup) {u : Warp} (hu : u ∈ s.warps) :
    findWarp? s u.uid = some u := by
  simp only [findWarp?]
  induction h : s.warps generalizing s with
  | nil => simp [h] at hu
  | cons a l ih =>
    rw [h] at hn hu
    obtain ⟨ha, hl⟩ := List.nodup_cons.mp hn
    rcases List.mem_cons.mp hu with rfl | hm
    · simp
    · have ne : (a.uid == u.uid) = false :=
        beq_eq_false_iff_ne.mpr fun e => ha (List.mem_map.mpr ⟨u, hm, e.symm⟩)
      rw [List.find?_cons, ne]
      exact ih (s := { s with warps := l }) hl hm rfl

/-- A step of a pass touches its own warp only. -/
def TouchesOwn (f : State → Warp → State) : Prop :=
  ∀ s w, (∀ v, v ≠ w.uid → findWarp? (f s w) v = findWarp? s v) ∧ (f s w).slotCount = s.slotCount

/-- In a pass over warps of different identities, each comes to what its own step makes of it. -/
theorem TouchesOwn.pass {f : State → Warp → State} (hf : TouchesOwn f) {l : List Warp} (hn : (l.map (·.uid)).Nodup) {u : Warp}
    (hu : u ∈ l) {s : State} (hs : findWarp? s u.uid = some u) : ∃ s₀, findWarp? s₀ u.uid = some u ∧
      s₀.slotCount = s.slotCount ∧ findWarp? (l.foldl f s) u.uid = findWarp? (f s₀ u) u.uid := by
  have untouched : ∀ (l : List Warp) (s : State), (∀ w ∈ l, u.uid ≠ w.uid) → findWarp? (l.foldl f s) u.uid = findWarp? s u.uid := by
    intro l
    induction l with
    | nil => exact fun _ _ => rfl
    | cons w l ih =>
      intro s h
      rw [List.foldl_cons, ih _ fun v hv => h v (List.mem_cons_of_mem _ hv)]
      exact (hf s w).1 _ (h w List.mem_cons_self)
  induction l generalizing s with
  | nil => simp at hu
  | cons w l ih =>
    obtain ⟨hw, hl⟩ := List.nodup_cons.mp hn
    rcases List.mem_cons.mp hu with rfl | hm
    · refine ⟨s, hs, rfl, untouched l _ fun v hv e => hw (List.mem_map.mpr ⟨v, hv, e.symm⟩)⟩
    · have ne : u.uid ≠ w.uid := fun e => hw (List.mem_map.mpr ⟨u, hm, e⟩)
      obtain ⟨s₀, h₀, count, e⟩ := ih hl hm (((hf s w).1 _ ne).trans hs)
      exact ⟨s₀, h₀, count.trans (hf s w).2, e⟩

end Sys2Proof.Machine
end

section
/-! PROOF. O37: an arrival that fills a barrier's count turns its phase and lets the waiters go; a chamber turns likewise. -/

namespace Sys2Proof.Machine

open Sys2Proof

/-! ### The waiters of a phase (R262, R263) -/

/-- A warp once the phase is over: its arrivals are none, its waiting slots go on. -/
def releasedWarp (level : BarLevel) (n : BitVec 6) (phase : Bool) (w : Warp) : Warp :=
  (if (warpBar w level n).arrived == 0 then w else setWarpBar w { warpBar w level n with arrived := 0 }).mapSlots
    (fun x => if barReleased level n phase x.block then { x with block := .none } else x)

/-- One warp goes on. -/
def releaseOne (m : Team) (level : BarLevel) (n : BitVec 6) (phase : Bool) (s : State) (w : Warp) : State :=
  if w.allSlots.any (fun x => barReleased level n phase x.block) then
    startAcquire (setWarp s (releasedWarp level n phase w)) w.uid (levelScope m level) none none
  else setWarp s (releasedWarp level n phase w)

/-- The warps whose teams share the barrier. -/
def sharers (s : State) (m : Team) (level : BarLevel) : List Warp :=
  s.warps.filter (fun w => (findTeam? s w.team).elim false (sameUnit level m))

theorem releaseBar_eq (s : State) (m : Team) (level : BarLevel) (n : BitVec 6) (phase : Bool) :
    releaseBar s m level n phase = (sharers s m level).foldl (releaseOne m level n phase) s := rfl

section One
variable (level : BarLevel) (n : BitVec 6) (phase : Bool) (w : Warp)

theorem releasedWarp_uid : (releasedWarp level n phase w).uid = w.uid := by
  simp only [releasedWarp, Warp.mapSlots]
  split <;> rfl

theorem warpBar_setWarpBar {b : WarpBar} (hl : b.level = level) (hn : b.n = n) :
    warpBar (setWarpBar w b) level n = b := by
  simp [warpBar, setWarpBar, hl, hn]

theorem warpBar_key : (warpBar w level n).level = level ∧ (warpBar w level n).n = n := by
  simp only [warpBar]
  cases h : w.bars.find? (fun b => b.level == level && b.n == n) with
  | none => exact ⟨rfl, rfl⟩
  | some b => simpa using List.find?_some h

theorem releasedWarp_arrived : (warpBar (releasedWarp level n phase w) level n).arrived = 0 := by
  obtain ⟨hl, hn⟩ := warpBar_key level n w
  by_cases h : (warpBar w level n).arrived = 0
  · have e : (warpBar (releasedWarp level n phase w) level n) = warpBar w level n := by
      simp only [releasedWarp, h, beq_self_eq_true, if_true]
      rfl
    rw [e, h]
  · have e : warpBar (releasedWarp level n phase w) level n =
        warpBar (setWarpBar w { warpBar w level n with arrived := 0 }) level n := by
      simp only [releasedWarp, beq_eq_false_iff_ne.mpr h, Bool.false_eq_true, if_false]
      rfl
    rw [e, warpBar_setWarpBar level n w (b := { warpBar w level n with arrived := 0 }) hl hn]

theorem mapSlots_slot (f : Slot → Slot) (k : Bool) : (w.mapSlots f).slot? k = (w.slot? k).map f := by
  cases k <;> rfl

/-- A slot that waits for the phase before `phase` goes on. -/
theorem releasedWarp_slot {w : Warp} {k : Bool} {y : Slot} (hy : w.slot? k = some y) (hb : y.block = .bar level n (!phase)) :
    (releasedWarp level n phase w).slot? k = some { y with block := .none } := by
  have passed : barReleased level n phase y.block = true := by simp [hb, barReleased]
  have bars (b : WarpBar) : (if (warpBar w level n).arrived == 0 then w else setWarpBar w b).slot? k = w.slot? k := by
    split <;> rfl
  rw [releasedWarp, mapSlots_slot, bars, hy, Option.map_some, if_pos passed]

theorem mem_allSlots {w : Warp} {k : Bool} {y : Slot} (hy : w.slot? k = some y) : y ∈ w.allSlots := by
  have own : y ∈ w.slot0.toList ++ w.slot1.toList := by
    cases k
    · exact List.mem_append_left _ (Option.mem_toList.mpr hy)
    · exact List.mem_append_right _ (Option.mem_toList.mpr hy)
  simp only [Warp.allSlots]
  split
  · exact own
  · exact List.mem_append_left _ (List.mem_append_left _ own)

end One

theorem releaseOne_touchesOwn (m : Team) (level : BarLevel) (n : BitVec 6) (phase : Bool) :
    TouchesOwn (releaseOne m level n phase) := by
  intro s w
  have uid := releasedWarp_uid level n phase w
  have set (v : Nat) (h : v ≠ w.uid) : findWarp? (setWarp s (releasedWarp level n phase w)) v = findWarp? s v :=
    findWarp?_setWarp_ne (uid ▸ h)
  unfold releaseOne
  split
  · exact ⟨fun v h => (findWarp?_startAcquire_ne _ h ..).trans (set v h), by rw [startAcquire_frame]; rfl⟩
  · exact ⟨set, rfl⟩

/-- The state after a phase is over differs in its warps and in what acquires change. -/
theorem releaseBar_frame (s : State) (m : Team) (level : BarLevel) (n : BitVec 6) (phase : Bool) :
    (releaseBar s m level n phase).teams = s.teams ∧ (releaseBar s m level n phase).gangs = s.gangs ∧
      (releaseBar s m level n phase).grids = s.grids := by
  rw [releaseBar_eq]
  generalize sharers s m level = l
  induction l generalizing s with
  | nil => exact ⟨rfl, rfl, rfl⟩
  | cons w l ih =>
    rw [List.foldl_cons]
    refine (ih _).imp (·.trans ?_) (·.imp (·.trans ?_) (·.trans ?_))
    all_goals
      unfold releaseOne
      split
      · rw [startAcquire_frame]; rfl
      · rfl

/-- The teams that share a barrier are those that `Released` names. -/
theorem sameUnit_of {level : BarLevel} {m u : Team}
    (h : match level with
      | .team => u.uid = m.uid
      | .gang => u.gang = m.gang
      | .grid | .pod => u.grid = m.grid) : sameUnit level m u = true := by
  cases level <;> simp [sameUnit, h]

/-- Every warp that shares the barrier goes on. -/
theorem released_of_releaseBar {s r : State} {m : Team} {level : BarLevel} {n : BitVec 6} {phase : Bool}
    (hw : r.warps = s.warps) (hc : r.slotCount = s.slotCount)
    (ht : ∀ k mu, findTeam? s k = some mu → ∃ mv, findTeam? r k = some mv ∧ (sameUnit level m mu = true → sameUnit level m mv = true)) :
    Released s (releaseBar r m level n (!phase)) m level n phase := by
  intro hn u hu mu hmu hunit
  obtain ⟨mv, hmv, unit⟩ := ht u.team mu hmu
  have hr : (r.warps.map (·.uid)).Nodup := hw ▸ hn
  have mem : u ∈ sharers r m level :=
    List.mem_filter.mpr ⟨hw ▸ hu, by rw [hmv]; exact unit (sameUnit_of hunit)⟩
  have once : ((sharers r m level).map (·.uid)).Nodup := hr.sublist (List.filter_sublist.map _)
  obtain ⟨s₀, h₀, count, e⟩ := (releaseOne_touchesOwn m level n (!phase)).pass once mem (findWarp?_of_mem hr (hw ▸ hu))
  rw [← releaseBar_eq] at e
  rw [e]
  have set : findWarp? (setWarp s₀ (releasedWarp level n (!phase) u)) u.uid = some (releasedWarp level n (!phase) u) := by
    rw [← releasedWarp_uid level n (!phase) u] at h₀ ⊢
    exact findWarp?_setWarp_self h₀
  by_cases waits : u.allSlots.any (fun x => barReleased level n (!phase) x.block) = true
  · rw [releaseOne, if_pos waits]
    exact ⟨_, findWarp?_startAcquire set (levelScope m level) none none, releasedWarp_arrived level n (!phase) u, fun k y hy hb =>
      ⟨releasedWarp_slot level n (!phase) hy (by rw [hb, Bool.not_not]), _,
        List.mem_append_right _ (List.mem_singleton.mpr rfl), rfl, count.trans hc⟩⟩
  · rw [releaseOne, if_neg waits]
    refine ⟨_, set, releasedWarp_arrived level n (!phase) u, fun k y hy hb => absurd ?_ waits⟩
    exact List.any_eq_true.mpr ⟨y, mem_allSlots hy, by simp [hb, barReleased]⟩

/-! ### Barriers (R262) -/

theorem findBar?_putBar {l : List Bar} {n : BitVec 6} {b c : Bar} (h : findBar? l n = some b) (hc : c.n = n) :
    findBar? (putBar l c) n = some c := by
  have e := find?_map_replace (p := fun x : Bar => x.n == n) (a := c) (beq_iff_eq.mpr hc) l
  simp only [findBar?] at h
  rw [h] at e
  simpa only [findBar?, putBar, hc, Option.map_some] using e

theorem findBar?_n {l : List Bar} {n : BitVec 6} {b : Bar} (h : findBar? l n = some b) : b.n = n := by
  simpa using List.find?_some h

/-- A barrier of a level that has been replaced, as its team finds it; the teams are of the units they were. -/
theorem setBarOf_found {s : State} {m : Team} {level : BarLevel} {n : BitVec 6} {b c : Bar} (hl : level ≠ .pod)
    (hm : findTeam? s m.uid = some m) (hb : barOf? s m level n = some b) (hc : c.n = n) :
    (∃ m', findTeam? (setBarOf s m level c) m.uid = some m' ∧ barOf? (setBarOf s m level c) m' level n = some c) ∧
    (∀ k mu, findTeam? s k = some mu → ∃ mv, findTeam? (setBarOf s m level c) k = some mv ∧
      (sameUnit level m mu = true → sameUnit level m mv = true)) ∧
    (setBarOf s m level c).warps = s.warps ∧ (setBarOf s m level c).slotCount = s.slotCount := by
  cases level with
  | team =>
    let m' : Team := { m with bars := putBar m.bars c }
    refine ⟨⟨m', ?_, findBar?_putBar hb hc⟩, fun k mu hk => ?_, rfl, rfl⟩
    · rw [setBarOf, findTeam?_setTeam, hm]
      simp [m']
    · refine ⟨if mu.uid == m.uid then m' else mu, by rw [setBarOf, findTeam?_setTeam, hk]; rfl, fun h => ?_⟩
      split
      · exact beq_self_eq_true m.uid
      · exact h
  | gang =>
    simp only [barOf?, Option.bind_eq_some_iff] at hb
    obtain ⟨g, hg, hb⟩ := hb
    have uid := findGang?_uid hg
    have e : setBarOf s m .gang c = setGang s { g with bars := putBar g.bars c } := by simp only [setBarOf, hg]; rfl
    rw [e]
    refine ⟨⟨m, hm, ?_⟩, fun k mu hk => ⟨mu, hk, id⟩, rfl, rfl⟩
    simp only [barOf?, findGang?_setGang, hg, Option.map_some, beq_self_eq_true, if_true, Option.bind_some]
    exact findBar?_putBar hb hc
  | grid =>
    simp only [barOf?, Option.bind_eq_some_iff] at hb
    obtain ⟨g, hg, hb⟩ := hb
    have e : setBarOf s m .grid c = setGrid s { g with bars := putBar g.bars c } := by simp only [setBarOf, hg]; rfl
    rw [e]
    refine ⟨⟨m, hm, ?_⟩, fun k mu hk => ⟨mu, hk, id⟩, rfl, rfl⟩
    simp only [barOf?, findGrid?_setGrid, hg, Option.map_some, beq_self_eq_true, if_true, Option.bind_some]
    exact findBar?_putBar hb hc
  | pod => exact absurd rfl hl

theorem barOf?_n {s : State} {m : Team} {level : BarLevel} {n : BitVec 6} {b : Bar} (h : barOf? s m level n = some b) :
    b.n = n := by
  cases level with
  | team => exact findBar?_n h
  | gang | grid =>
    obtain ⟨g, -, hb⟩ := Option.bind_eq_some_iff.mp h
    exact findBar?_n hb
  | pod =>
    obtain ⟨p, -, rfl⟩ := Option.map_eq_some_iff.mp h
    rfl

/-- A barrier is where it was after its waiters have gone on. -/
theorem barOf?_releaseBar {s : State} (m m' : Team) {level : BarLevel} (hl : level ≠ .pod) (n : BitVec 6) (phase : Bool) :
    barOf? (releaseBar s m level n phase) m' level n = barOf? s m' level n := by
  obtain ⟨-, gangs, grids⟩ := releaseBar_frame s m level n phase
  cases level with
  | team => rfl
  | gang => simp only [barOf?, findGang?, gangs]
  | grid => simp only [barOf?, findGrid?, grids]
  | pod => exact absurd rfl hl

/-- A barrier of a level other than the pod's, with arrivals. -/
theorem arriveBar_of_ne {s : State} {m : Team} {level : BarLevel} {n : BitVec 6} {b : Bar} (hl : level ≠ .pod)
    (hb : barOf? s m level n = some b) (arrivals drops : Nat) : arriveBar s m level n arrivals drops =
      if 0 < arrivals ∧ b.arrived + arrivals = b.registered then
        releaseBar (setBarOf s m level { b with phase := !b.phase, arrived := 0, registered := b.registered - (b.leaving + drops),
                                                leaving := 0 }) m level n (!b.phase)
      else setBarOf s m level { b with arrived := b.arrived + arrivals, leaving := b.leaving + drops } := by
  have some_ : (arrivals != 0) = decide (0 < arrivals) := by simp [bne, Nat.pos_iff_ne_zero, beq_eq_decide]
  have full : (b.arrived + arrivals == b.registered) = decide (b.arrived + arrivals = b.registered) := rfl
  cases level with
  | team | gang | grid =>
    simp only [arriveBar, hb, some_, full, ← Bool.decide_and, decide_eq_true_eq]
  | pod => exact absurd rfl hl

/-- The arrival that fills a barrier's count, and any other. -/
theorem arriveBar_turns {s : State} {m : Team} {level : BarLevel} {n : BitVec 6} (arrivals drops : Nat) {b : Bar}
    (hl : level ≠ .pod) (hm : findTeam? s m.uid = some m) (hb : barOf? s m level n = some b) :
    ∃ m' b', findTeam? (arriveBar s m level n arrivals drops) m.uid = some m' ∧
      barOf? (arriveBar s m level n arrivals drops) m' level n = some b' ∧
      if 0 < arrivals ∧ b.arrived + arrivals = b.registered then
        b'.phase = !b.phase ∧ b'.arrived = 0 ∧ b'.leaving = 0 ∧ b'.registered = b.registered - (b.leaving + drops) ∧
          Released s (arriveBar s m level n arrivals drops) m level n b.phase
      else b'.phase = b.phase ∧ b'.arrived = b.arrived + arrivals ∧ b'.leaving = b.leaving + drops ∧
        b'.registered = b.registered ∧ (arriveBar s m level n arrivals drops).warps = s.warps := by
  have hn := barOf?_n hb
  rw [arriveBar_of_ne hl hb]
  by_cases full : 0 < arrivals ∧ b.arrived + arrivals = b.registered
  · simp only [if_pos full]
    obtain ⟨⟨m', hm', hb'⟩, units, warps, count⟩ := setBarOf_found (c := { b with
      phase := !b.phase, arrived := 0, registered := b.registered - (b.leaving + drops), leaving := 0 }) hl hm hb hn
    rw [← barOf?_releaseBar m m' hl n (!b.phase)] at hb'
    refine ⟨m', _, ?_, hb', rfl, rfl, rfl, rfl, released_of_releaseBar warps count units⟩
    rw [findTeam?, (releaseBar_frame ..).1]
    exact hm'
  · simp only [if_neg full]
    obtain ⟨⟨m', hm', hb'⟩, -, warps, -⟩ := setBarOf_found (c := { b with
      arrived := b.arrived + arrivals, leaving := b.leaving + drops }) hl hm hb hn
    exact ⟨m', _, hm', hb', rfl, rfl, rfl, rfl, warps⟩

/-! ### Pod barriers (R340) -/

theorem findPod?_setPod {s : State} {part group : Nat} {p q : Pod} (h : findPod? s part group = some p)
    (hp : q.part = part) (hg : q.group = group) : findPod? (setPod s q) part group = some q := by
  have e := find?_map_replace (p := fun x : Pod => x.part == part && x.group == group) (a := q) (by simp [hp, hg]) s.pods
  simp only [findPod?] at h
  rw [h] at e
  simpa only [findPod?, setPod, hp, hg, Option.map_some] using e

theorem findPodBar_key (l : List PodBar) (n : BitVec 6) (rank : Nat) :
    (findPodBar l n rank).n = n ∧ (findPodBar l n rank).rank = rank := by
  simp only [findPodBar]
  cases h : l.find? (fun b => b.n == n && b.rank == rank) with
  | none => exact ⟨rfl, rfl⟩
  | some b => simpa using List.find?_some h

theorem findPodBar_putPodBar (l : List PodBar) {n : BitVec 6} {rank : Nat} {b : PodBar} (hn : b.n = n) (hr : b.rank = rank) :
    findPodBar (putPodBar l b) n rank = b := by
  simp [findPodBar, putPodBar, hn, hr]

/-- Arrivals at a pod barrier are counted and will be sent. -/
theorem podArrive_counts {s : State} {n : BitVec 6} (arrivals drops : Nat) {p : Pod}
    (h : findPod? s p.part p.group = some p) : (podArrive s p n arrivals drops).warps = s.warps ∧
      ∃ q, findPod? (podArrive s p n arrivals drops) p.part p.group = some q ∧ q.out = p.out ++ [(n, arrivals, drops)] ∧
        q.phases = p.phases ∧ findPodBar q.mine n q.rank = { findPodBar p.mine n p.rank with
          arrived := (findPodBar p.mine n p.rank).arrived + arrivals,
          leaving := (findPodBar p.mine n p.rank).leaving + drops } := by
  obtain ⟨hn, hr⟩ := findPodBar_key p.mine n p.rank
  exact ⟨rfl, _, findPod?_setPod h rfl rfl, rfl, rfl, findPodBar_putPodBar _ hn hr⟩

/-- A pod barrier's phase that completes lets the waiters of the grid go on. -/
theorem podPhase_releases {s : State} {part group : Nat} {n : BitVec 6} {p : Pod} {m : Team}
    (hp : findPod? s part group = some p) (hc : p.completes n = true)
    (hm : s.teams.find? (fun u => u.grid == p.grid) = some m) :
    Released s (podPhase s part group n) m .pod n (tget p.phases n.toNat false) := by
  have teams (q : Pod) : (setPod s q).teams = s.teams := rfl
  simp only [podPhase, hp, hc, Bool.not_true, Bool.false_eq_true, if_false, teams, hm, Option.elim_some]
  change Released s (releaseBar _ m .pod n (!tget p.phases n.toNat false)) m .pod n _
  exact released_of_releaseBar rfl rfl fun k mu hk => ⟨mu, hk, id⟩

/-- Settles O37: the three levels turn by `arriveBar_turns`, the pod by its counts and its phase, chambers by their equation. -/
theorem barriersAndChambersTurn : Obligations.BarriersAndChambersTurn := by
  unfold Obligations.BarriersAndChambersTurn
  refine ⟨fun s m level n arrivals drops b hl hm hb => arriveBar_turns arrivals drops hl hm hb,
    fun s m n arrivals drops p hp hf => ?_, fun s part group n p m hp hc hm => ⟨_, rfl, podPhase_releases hp hc hm⟩,
    fun k fill drain => ⟨fun h => ?_, fun h => ?_⟩⟩
  · have e : arriveBar s m .pod n arrivals drops = podArrive s p n arrivals drops := by simp only [arriveBar, hp]
    dsimp only
    rw [e]
    exact podArrive_counts arrivals drops hf
  · exact if_pos h
  · rw [Chamber.arrive, if_neg (Nat.not_lt.mpr h)]
    cases k.full <;> rfl

end Sys2Proof.Machine
end

section
/-! PROOF. O33: the accesses of the banked store. What they find at the banks is what stands there, since no register word
has an error; an operation then holds the words. -/

namespace Sys2Proof.Machine

open Sys2Proof

/-! ### Where words lie, after an instruction is counted -/

theorem place_setWarp (s : State) (v w : Warp) (t : StoreTgt) : t.place (setWarp s v) w = t.place s w := by
  cases t <;> rfl

theorem opWord_setWarp (s : State) (v w : Warp) (b : BankWord) : b.opWord (setWarp s v) w = b.opWord s w := by
  obtain ⟨lane, j, addr, tgt⟩ := b
  cases tgt <;> rfl

/-- The warp once an access of `k` words a lane has been counted with its passes. -/
def passedWarp (s : State) (w : Warp) (n : Bool) (x : Slot) (i : Instr) (k : Nat) (ws : List BankWord) : Warp :=
  { countedWarp w n x i with passes := w.passes + BitVec.ofNat 32 ((finds s w n x i).passes k ws - 1) }

theorem finds_withPasses (s : State) (w : Warp) (n : Bool) (x : Slot) (i : Instr) (k : Nat) (ws : List BankWord) :
    (finds s w n x i).withPasses k ws = setWarp s (passedWarp s w n x i k ws) := by
  simp only [Cx.withPasses, finds_s, finds_w]
  rw [setWarp_setWarp]
  · simp only [passedWarp, countedWarp_passes]
  · rfl

/-- The operation of an access, as it is listed. -/
theorem newOp_of {s : State} {w : Warp} {n : Bool} {x : Slot} {i : Instr} (kind : OpKind) (dst width : Nat)
    (ws : List OpWord) (held : Bool) : Op.of ((finds s w n x i).newOp s.nextId kind dst width ws held) s w kind :=
  ⟨rfl, rfl, countedWarp_uid .., rfl⟩

/-! ### LDS (R257) -/

/-- The banks give the words that stand there while no register word has an error. -/
theorem readBanks_clean {s : State} (h : s.upsets = []) (w : Warp) (ws : List BankWord) :
    readBanks s w ws = (s, ws.map (fun b => { b.opWord s w with
      got := some (if b.tgt.isAlias then good (s.store.word (b.tgt.place s w).2.2).data
                   else s.store.word (b.tgt.place s w).2.2) }), none) := by
  induction ws with
  | nil => rfl
  | cons b ws ih =>
    have read : bankRead s w b.tgt = (s, some (if b.tgt.isAlias then good (s.store.word (b.tgt.place s w).2.2).data
        else s.store.word (b.tgt.place s w).2.2)) := by
      simp only [bankRead, h, tget?]
      split <;> rfl
    simp only [readBanks, read, ih, List.map_cons]

/-! ### STS (R257) -/

section LastWriters
variable {l : List OpWord}

/-- A word that is written is one whose target no later word names. -/
theorem mem_lastWriters {y : OpWord} : y ∈ lastWriters l ↔ ∃ before after, l = before ++ y :: after ∧ ∀ z ∈ after, z.tgt ≠ y.tgt := by
  induction l with
  | nil => simp [lastWriters]
  | cons x l ih =>
    simp only [lastWriters]
    constructor
    · intro h
      split at h
      · obtain ⟨before, after, rfl, last⟩ := ih.mp h
        exact ⟨x :: before, after, rfl, last⟩
      · rename_i only
        rcases List.mem_cons.mp h with rfl | h
        · refine ⟨[], l, rfl, fun z hz e => only (List.any_eq_true.mpr ⟨z, hz, beq_iff_eq.mpr e⟩)⟩
        · obtain ⟨before, after, rfl, last⟩ := ih.mp h
          exact ⟨x :: before, after, rfl, last⟩
    · rintro ⟨before, after, e, last⟩
      cases before with
      | nil =>
        obtain ⟨rfl, rfl⟩ := List.cons.inj e
        have only : l.any (fun y => y.tgt == x.tgt) = false := by simpa using last
        simp [only]
      | cons b before =>
        obtain ⟨rfl, rfl⟩ := List.cons.inj e
        have rest := ih.mpr ⟨before, after, rfl, last⟩
        split
        · exact rest
        · exact List.mem_cons_of_mem _ rest

/-- Every target is written. -/
theorem exists_lastWriters {g : Tgt} (h : ∃ x ∈ l, x.tgt = g) : ∃ y ∈ lastWriters l, y.tgt = g := by
  induction l with
  | nil => simp at h
  | cons z l ih =>
    have here_or : z.tgt = g ∨ ∃ x ∈ l, x.tgt = g := by simpa using h
    simp only [lastWriters]
    split
    · rename_i later
      rcases here_or with rfl | h
      · exact ih (by simpa using later)
      · exact ih h
    · rcases here_or with e | h
      · exact ⟨z, List.mem_cons_self, e⟩
      · obtain ⟨y, hy, e⟩ := ih h
        exact ⟨y, List.mem_cons_of_mem _ hy, e⟩

/-- No target is written twice. -/
theorem lastWriters_once : ((lastWriters l).map (·.tgt)).Nodup := by
  induction l with
  | nil => exact List.nodup_nil
  | cons x l ih =>
    simp only [lastWriters]
    split
    · exact ih
    · rename_i only
      refine List.nodup_cons.mpr ⟨fun h => ?_, ih⟩
      obtain ⟨y, hy, e⟩ := List.mem_map.mp h
      obtain ⟨before, after, rfl, -⟩ := mem_lastWriters.mp hy
      exact only (List.any_eq_true.mpr ⟨y, by simp, beq_iff_eq.mpr e⟩)

end LastWriters

/-! ### ATOMS (R258) -/

/-- A word that nobody watches is written, and the array's operations keep what they may have read. -/
theorem writeStore_unwatched {s : State} {keys : List Nat} (h : Unwatched s keys) {key : Nat} (hk : key ∈ keys) (v : CWord)
    (b : Option (Nat × Nat)) : ∃ xs, writeStore s key v b = { s with store := s.store.setWord key v, mx := xs } := by
  have kept : ∃ xs, keepOld s key b = { s with mx := xs } := by
    simp only [keepOld]
    split
    · exact ⟨_, rfl⟩
    · exact ⟨s.mx, rfl⟩
  obtain ⟨xs, kept⟩ := kept
  refine ⟨xs, ?_⟩
  simp only [writeStore, kept, wroteWord]
  refine (congrArg (fun l => List.foldl _ _ l) (List.filter_eq_nil_iff.mpr fun u hu hw => ?_)).trans rfl
  obtain ⟨y, hy, watch⟩ := List.any_eq_true.mp hw
  split at watch
  · rename_i k hb
    simp only [Bool.and_eq_true, beq_iff_eq] at watch
    exact h u hu y hy k hb watch.1 (watch.2 ▸ hk)
  · exact absurd watch (by simp)

section Atoms
variable (s : State) (w : Warp) (k : AtomKind) (b d : Nat → Word)

/-- The key of a word of an access. -/
def bankKey (x : BankWord) : Nat := (x.tgt.place s w).2.2

/-- The new value and the flags of a lane's operation on a store. -/
def atomsRes (m : Mem) (x : BankWord) : DWord × Word :=
  atomOp k ((m.word (bankKey s w x)).data.setWidth 64) ((b x.lane).setWidth 64) ((d x.lane).setWidth 64)

/-- The store after some lanes. -/
def atomsAfter (m : Mem) (l : List BankWord) : Mem :=
  l.foldl (fun m x => m.setWord (bankKey s w x) (good (lowWord (atomsRes s w k b d m x).1))) m

/-- Keys of words do not depend on what the store holds, nor on the array's operations. -/
theorem bankKey_store (m : Mem) (xs : List MxEntry) : bankKey { s with store := m, mx := xs } w = bankKey s w := by
  funext x
  obtain ⟨lane, j, addr, tgt⟩ := x
  cases tgt <;> rfl

theorem opWord_store (m : Mem) (xs : List MxEntry) (x : BankWord) : x.opWord { s with store := m, mx := xs } w = x.opWord s w := by
  obtain ⟨lane, j, addr, tgt⟩ := x
  cases tgt <;> rfl

/-- The lanes of an ATOMS act in their order, each on what the ones before left. -/
theorem atomsBanks_runs {ws : List BankWord} {m : Mem} {xs : List MxEntry} (hm : m.wf = true)
    (hu : Unwatched s (ws.map (bankKey s w))) (hg : ∀ x ∈ ws, (m.word (bankKey s w x)).isGood = true) :
    ∃ ys os, atomsBanks { s with store := m, mx := xs } w k b d ws =
        ({ s with store := atomsAfter s w k b d m ws, mx := ys }, os, none) ∧ os.length = ws.length ∧
      ∀ before x rest, ws = before ++ x :: rest → (os[before.length]?).map (fun y => (y.lane, y.got, y.flags)) =
        some (x.lane, some ((atomsAfter s w k b d m before).word (bankKey s w x)),
          (atomsRes s w k b d (atomsAfter s w k b d m before) x).2) := by
  induction ws generalizing m xs with
  | nil => exact ⟨xs, [], rfl, rfl, fun before x rest e => absurd e (by simp)⟩
  | cons x ws ih =>
    let m' : Mem := m.setWord (bankKey s w x) (good (lowWord (atomsRes s w k b d m x).1))
    have unwatched : Unwatched { s with store := m, mx := xs } ((x :: ws).map (bankKey s w)) := hu
    obtain ⟨zs, written⟩ := writeStore_unwatched unwatched (key := bankKey s w x) (by simp)
      (good (lowWord (atomsRes s w k b d m x).1)) none
    have good' : ∀ y ∈ ws, (m'.word (bankKey s w y)).isGood = true := fun y hy => by
      simp only [m', Mem.word_setWord hm]
      split
      · rfl
      · exact hg y (List.mem_cons_of_mem _ hy)
    obtain ⟨ys, os, runs, len, each⟩ := ih (m := m') (xs := zs) (Mem.setWord_wf hm ..)
      (fun u hu' y hy c hc he hk => hu u hu' y hy c hc he (List.mem_cons_of_mem _ hk)) good'
    have key : (x.tgt.place { s with store := m, mx := xs } w).2.2 = bankKey s w x := congrFun (bankKey_store s w m xs) x
    have first : (m.word (bankKey s w x)).isGood = true := hg x List.mem_cons_self
    refine ⟨ys, { x.opWord s w with got := some (m.word (bankKey s w x)), done := true,
                                    flags := (atomsRes s w k b d m x).2 } :: os, ?_, congrArg (· + 1) len, fun before y rest e => ?_⟩
    · simp only [atomsBanks, key, first, Bool.not_true, Bool.false_eq_true, if_false, opWord_store]
      simp only [m', atomsRes] at written runs
      simp only [written, runs]
      rfl
    · cases before with
      | nil =>
        obtain ⟨rfl, -⟩ := List.cons.inj e
        rfl
      | cons z before =>
        obtain ⟨rfl, later⟩ := List.cons.inj e
        rw [List.length_cons, List.getElem?_cons_succ]
        exact each before y rest later

end Atoms

/-- A live slot is one of the two, or one saved in trap mode. -/
theorem mem_allSlots_iff {w : Warp} {y : Slot} : y ∈ w.allSlots ↔ (∃ k, w.slot? k = some y) ∨
    ∃ t, w.trap = some t ∧ (t.slot0 = some y ∨ t.slot1 = some y) := by
  simp only [Bool.exists_bool, Warp.slot?, Bool.false_eq_true, if_false, if_true, Warp.allSlots]
  cases w.trap <;> simp [or_assoc]

/-- A slot that is replaced by one that waits alike leaves the waits of the warp as they are. -/
theorem exists_block_of_setSlot {w : Warp} {n : Bool} {x c y : Slot} (hx : w.slot? n = some x) (hc : c.block = x.block)
    (hy : y ∈ (w.setSlot n (some c)).allSlots) : ∃ z ∈ w.allSlots, z.block = y.block := by
  have saved : (w.setSlot n (some c)).trap = w.trap := by cases n <;> rfl
  rcases mem_allSlots_iff.mp hy with ⟨k, hk⟩ | ⟨t, ht, h⟩
  · by_cases own : k = n
    · subst own
      obtain rfl := Option.some.inj ((setSlot_slot ..).symm.trans hk)
      exact ⟨x, mem_allSlots hx, hc.symm⟩
    · obtain rfl := Bool.eq_not_of_ne own
      exact ⟨y, mem_allSlots ((setSlot_other ..).symm.trans hk), rfl⟩
  · exact ⟨y, mem_allSlots_iff.mpr (.inr ⟨t, saved ▸ ht, h⟩), rfl⟩

/-- Counting leaves the waits of the slots as they are. -/
theorem unwatched_counted {s : State} {w : Warp} {n : Bool} {x : Slot} {keys : List Nat} (h : Unwatched s keys)
    (hw : findWarp? s w.uid = some w) (hx : w.slot? n = some x) (i : Instr) (k : Nat) (ws : List BankWord) :
    Unwatched (setWarp s (passedWarp s w n x i k ws)) keys := by
  intro u hu y hy c hc he
  obtain ⟨v, hv, rfl⟩ := List.mem_map.mp hu
  split at hy
  · have same : (passedWarp s w n x i k ws).allSlots = (w.setSlot n (some (countedSlot w x i))).allSlots := by
      cases n <;> rfl
    obtain ⟨z, hz, block⟩ := exists_block_of_setSlot (c := countedSlot w x i) hx rfl (same ▸ hy)
    exact h w (List.mem_of_find?_eq_some hw) z hz c (block.trans hc) he
  · exact h v hv y hy c hc he

/-! ### The three instructions -/

/-- The state with an operation listed and the warp counted with its passes. -/
def sent (s : State) (w : Warp) (n : Bool) (x : Slot) (i : Instr) (k : Nat) (ws : List BankWord) (q : Op) : State :=
  setWarp { s with nextId := s.nextId + 1, ops := s.ops ++ [q] } (passedWarp s w n x i k ws)

section Effects
variable {s : State} {w : Warp} {n : Bool} {x : Slot} {ws : List BankWord} (clear : bankConflict s w ws = false)
include clear

theorem ldsEff_sends {o : StoreOp} (hu : s.upsets = []) (hc : (finds s w n x (.lds o)).checkBank o.width.words 0 (fun _ => true)
      (((finds s w n x (.lds o)).lanes o.guard).map (fun l => (l, (finds s w n x (.lds o)).saddr o l))) = .ok ws) :
    ∃ dst, (∀ r, o.data = .v r → dst = r.toNat) ∧ ldsEff o (finds s w n x (.lds o)) =
      .go (sent s w n x (.lds o) o.width.words ws ((finds s w n x (.lds o)).newOp s.nextId .lds dst o.width.words
        (ws.map (fun b => { b.opWord s w with
          got := some (if b.tgt.isAlias then good (s.store.word (b.tgt.place s w).2.2).data
                       else s.store.word (b.tgt.place s w).2.2) })) false)) [] := by
  have read := readBanks_clean (s := setWarp s (passedWarp s w n x (.lds o) o.width.words ws)) hu w ws
  simp only [ldsEff, hc, finds_pre, finds_preW, clear, Bool.false_eq_true, if_false, finds_withPasses, read, opWord_setWarp,
    place_setWarp]
  exact ⟨_, fun r e => by rw [e], rfl⟩

theorem stsEff_sends {o : StoreOp} (hc : (finds s w n x (.sts o)).checkBank o.width.words 1 StoreTgt.writable
      (((finds s w n x (.sts o)).lanes o.guard).map (fun l => (l, (finds s w n x (.sts o)).saddr o l))) = .ok ws) :
    stsEff o (finds s w n x (.sts o)) =
      .go (sent s w n x (.sts o) o.width.words ws ((finds s w n x (.sts o)).newOp s.nextId .sts 0 0
        (lastWriters (ws.map (fun b => { b.opWord s w with
          data := good ((finds s w n x (.sts o)).dataWord o.data b.j b.lane) }))) false)) [] := by
  simp only [stsEff, hc, finds_pre, finds_preW, clear, Bool.false_eq_true, if_false, finds_withPasses, fresh]
  rfl

theorem atomsEff_sends {o : AtomsOp} (h : Issues (.atoms o) s w n x) (hs : s.store.wf = true)
    (hu : Unwatched s (ws.map (bankKey s w))) (hg : ∀ b ∈ ws, (s.store.word (bankKey s w b)).isGood = true)
    (hc : (finds s w n x (.atoms o)).checkBank 1 2 (fun t => t.writable && !t.isAlias)
      (((finds s w n x (.atoms o)).lanes o.guard).map (fun l => (l, (finds s w n x (.atoms o)).atomsAddr o l))) = .ok ws) :
    let b := fun l => (finds s w n x (.atoms o)).word o.b 0 l
    let d := fun l => (finds s w n x (.atoms o)).vec o.dst.toNat l
    ∃ xs os, os.length = ws.length ∧
      (∀ before y rest, ws = before ++ y :: rest → (os[before.length]?).map (fun z => (z.lane, z.got, z.flags)) =
        some (y.lane, some ((atomsAfter s w o.kind b d s.store before).word (bankKey s w y)),
          (atomsRes s w o.kind b d (atomsAfter s w o.kind b d s.store before) y).2)) ∧
      atomsEff o (finds s w n x (.atoms o)) =
        .go (sent { s with store := atomsAfter s w o.kind b d s.store ws, mx := xs } w n x (.atoms o) 1 ws
          ((finds s w n x (.atoms o)).newOp s.nextId (.atoms o.kind) o.dst.toNat 1 os false)) [] := by
  intro b d
  obtain ⟨xs, os, runs, len, each⟩ := atomsBanks_runs (setWarp s (passedWarp s w n x (.atoms o) 1 ws)) w o.kind b d
    (m := s.store) (xs := s.mx) hs (unwatched_counted hu h.warp h.slot (.atoms o) 1 ws) hg
  refine ⟨xs, os, len, each, ?_⟩
  have act : atomsBanks (setWarp s (passedWarp s w n x (.atoms o) 1 ws)) w o.kind b d ws = _ := runs
  simp only [atomsEff, hc, finds_pre, finds_preW, clear, Bool.false_eq_true, if_false, finds_withPasses]
  rw [act]
  rfl

end Effects

/-- Settles O33: LDS by what the banks give, STS by the last writers, ATOMS lane after lane. -/
theorem storeAccessesActAtTheBanks : Obligations.StoreAccessesActAtTheBanks := by
  unfold Obligations.StoreAccessesActAtTheBanks
  intro s w n x ws
  dsimp only
  refine ⟨fun o h hc => ?_, fun o h hc => ?_, fun o h hc => ?_⟩
  · have he : HasEffect (.lds o) s w n x (ldsEff o) := hasEffect_of_issue h rfl
    refine ⟨fun conflict => exec_of_hold he ?_, fun clear => ?_⟩
    · simp only [ldsEff, hc, finds_pre, finds_preW, conflict, if_true]
    · obtain ⟨dst, hd, eff⟩ := ldsEff_sends clear h.noUpset hc
      exact ⟨_, exec_of_go he eff, newOp_of .., rfl, hd, rfl⟩
  · have he : HasEffect (.sts o) s w n x (stsEff o) := hasEffect_of_issue h rfl
    refine ⟨fun conflict => exec_of_hold he ?_, fun clear => ?_⟩
    · simp only [stsEff, hc, finds_pre, finds_preW, conflict, if_true]
    · refine ⟨_, exec_of_go he (stsEff_sends clear hc), newOp_of .., rfl, lastWriters_once, fun b hb => ?_, fun y hy => ?_⟩
      · exact exists_lastWriters ⟨_, List.mem_map_of_mem hb, rfl⟩
      · obtain ⟨before, after, e, last⟩ := mem_lastWriters.mp hy
        obtain ⟨b₁, b₂, rfl, rfl, hb₂⟩ := List.map_eq_append_iff.mp e
        obtain ⟨b, b₃, rfl, rfl, rfl⟩ := List.map_eq_cons_iff.mp hb₂
        exact ⟨b₁, b, b₃, rfl, rfl, fun d hd =>
          last { d.opWord s w with data := good ((finds s w n x (.sts o)).dataWord o.data d.j d.lane) }
            (List.mem_map.mpr ⟨d, hd, rfl⟩)⟩
  · have he : HasEffect (.atoms o) s w n x (atomsEff o) := hasEffect_of_issue h rfl
    refine ⟨fun conflict => exec_of_hold he ?_, fun clear hg hs hu => ?_⟩
    · simp only [atomsEff, hc, finds_pre, finds_preW, conflict, if_true]
    · obtain ⟨xs, os, len, each, eff⟩ := atomsEff_sends clear h hs hu hg hc
      exact ⟨xs, _, exec_of_go he eff, newOp_of .., rfl, len, each⟩

end Sys2Proof.Machine
end

section
/-! SUPPORT. What the paths to memory leave alone: accesses of the L1 domains change what these hold and what is on its way to
and from the homes, and no more. -/

namespace Sys2Proof.Machine

open Sys2Proof

/-! ### Folds of steps that leave the same alone -/

theorem foldl_frame {σ α : Type} {R : σ → σ → Prop} (refl : ∀ s, R s s) (trans : ∀ {s t u}, R s t → R t u → R s u)
    {f : σ → α → σ} (h : ∀ s a, R s (f s a)) (l : List α) (s : σ) : R s (l.foldl f s) := by
  induction l generalizing s with
  | nil => exact refl s
  | cons a l ih => exact trans (h s a) (ih _)

/-! ### The L1 domains (R66 to R82) -/

/-- Only the L1s, the requests, misses and replies, and the identities have changed. -/
def DomainsOnly (s t : State) : Prop :=
  t = { s with nextId := t.nextId, l1s := t.l1s, reqs := t.reqs, misses := t.misses, replies := t.replies }

theorem DomainsOnly.refl (s : State) : DomainsOnly s s := rfl

theorem DomainsOnly.trans {s t u : State} (h : DomainsOnly s t) (k : DomainsOnly t u) : DomainsOnly s u := by
  unfold DomainsOnly at *
  rw [k, h]

theorem l1Map_only (s : State) (dom : Nat) (f : L1Line → Tab L1Word) : DomainsOnly s (l1Map s dom f) := rfl
theorem onReplies_only (s : State) (dom : Nat) (f : Reply → Reply) : DomainsOnly s (onReplies s dom f) := rfl
theorem sendReq_only (s : State) (r : Req) : DomainsOnly s (sendReq s r).2 := rfl
theorem startMiss_only (s : State) (dom : Nat) (kind : ReqKind) (line : Nat) (mask : Word) (op : Nat) (fal : Bool) :
    DomainsOnly s (startMiss s dom kind line mask op fal).2 := rfl
theorem dropCopies_only (s : State) (dom line : Nat) (mask : Word) : DomainsOnly s (dropCopies s dom line mask) := rfl
theorem writeOwned_only (s : State) (dom line j : Nat) (w : CWord) : DomainsOnly s (writeOwned s dom line j w) := rfl
theorem dropSi_only (s : State) (dom : Nat) : DomainsOnly s (dropSi s dom) := rfl

theorem l1Touch_only (s : State) (dom line : Nat) : DomainsOnly s (l1Touch s dom line) := by
  unfold l1Touch
  split
  · exact .refl s
  · rfl

theorem startMisses_only (s : State) (dom op : Nat) (need : OpWord → Bool) (kind : OpWord → ReqKind) (ws : List OpWord) :
    DomainsOnly s (startMisses s dom op need kind ws).1 :=
  foldl_frame (R := fun a b : State × List OpWord => DomainsOnly a.1 b.1) (fun _ => .refl _) .trans
    (fun r _ => startMiss_only r.1 ..) _ (s, ws)

theorem ownWords_only (s : State) (dom op : Nat) (ws : List OpWord) : DomainsOnly s (ownWords s dom op ws).1 := by
  refine DomainsOnly.trans (foldl_frame (R := fun a b : State × List OpWord => DomainsOnly a.1 b.1) (fun _ => .refl _)
    .trans (fun r x => ?_) ws (s, [])) (startMisses_only ..)
  split
  · split
    · exact (writeOwned_only ..).trans (l1Touch_only ..)
    · exact .refl r.1
  · exact .refl r.1

theorem sendWrites_only (s : State) (dom op : Nat) (ws : List OpWord) : DomainsOnly s (sendWrites s dom op ws) :=
  foldl_frame .refl .trans (fun s g => by
    dsimp only
    split
    · exact (dropCopies_only ..).trans (sendReq_only ..)
    · exact dropCopies_only ..) _ s

theorem dropRemote_only (s : State) (o : Op) : DomainsOnly s (dropRemote s o) := by
  unfold dropRemote
  split
  · exact .refl s
  · exact foldl_frame .refl .trans (fun s x => by
      split
      · exact dropCopies_only ..
      · exact .refl s) _ s

/-! ### Operations (R26) -/

theorem findOp?_id {s : State} {id : Nat} {o : Op} (h : findOp? s id = some o) : o.id = id := by
  simpa using List.find?_some h

theorem findOp?_setOp {s : State} {id : Nat} {o q : Op} (h : findOp? s id = some o) (hq : q.id = id) :
    findOp? (setOp s q) id = some q := by
  have e := find?_map_replace (p := fun x : Op => x.id == id) (a := q) (by simp [hq]) s.ops
  simp only [findOp?] at h
  rw [h] at e
  simpa only [findOp?, setOp, hq, Option.map_some] using e

theorem over_dropOp (s : State) (id : Nat) : Over (dropOp s id) id := by
  simp [Over, findOp?, dropOp]

/-- A store's words have gone, and its release has no longer to wait. -/
theorem performStore_found {s : State} {id : Nat} {o : Op} (h : findOp? s id = some o) (core : Nat) :
    ∃ q, findOp? (performStore s core o) id = some q ∧ q.held = false ∧ MemoryKept s (performStore s core o) := by
  let r := ownWords (sendWrites s (domainOf s core) o.id o.words) (domainOf s core) o.id o.words
  have only : DomainsOnly s r.1 := (sendWrites_only s (domainOf s core) o.id o.words).trans (ownWords_only ..)
  have there : findOp? r.1 id = some o := by rw [only]; exact h
  have kept : MemoryKept s r.1 := by rw [only]; exact ⟨rfl, rfl⟩
  have oid : o.id = id := findOp?_id h
  exact ⟨_, findOp?_setOp (q := { o with words := r.2, held := false }) there oid, rfl, kept⟩

/-- An atomic's or a reduction's requests have gone, and its release has no longer to wait. -/
theorem performAtomics_found {s : State} {id : Nat} {o : Op} (h : findOp? s id = some o) (core : Nat) (kind : ReqKind) :
    ∃ q, findOp? (performAtomics s core o kind) id = some q ∧ q.held = false ∧ MemoryKept s (performAtomics s core o kind) := by
  have sent : ∃ t, performAtomics s core o kind = setOp t { o with held := false } ∧ DomainsOnly s t := by
    refine ⟨_, rfl, foldl_frame .refl .trans (fun s l => ?_) _ s⟩
    dsimp only
    split
    · exact .refl s
    · split
      · exact dropCopies_only ..
      · exact (dropCopies_only ..).trans (sendReq_only ..)
  obtain ⟨t, e, only⟩ := sent
  have there : findOp? t id = some o := by rw [only]; exact h
  have kept : MemoryKept s t := by rw [only]; exact ⟨rfl, rfl⟩
  rw [e]
  have oid : o.id = id := findOp?_id h
  exact ⟨_, findOp?_setOp (q := { o with held := false }) there oid, rfl, kept⟩

end Sys2Proof.Machine
end

section
/-! PROOF. O47: the events of waiting slots, of acquires and of releases. -/

namespace Sys2Proof.Machine

open Sys2Proof

/-! ### Waits on a word, sleeps and yields (R231, R233, R265) -/

theorem waitingSlot?_own {w : Warp} {n : Bool} {x : Slot} {k : WordWait} (hx : w.slot? n = some x) (hb : x.block = .waitw k) :
    waitingSlot? w n = some (false, x, k) := by
  simp only [waitingSlot?, hx, Option.bind_some, hb]

/-- A slot that reads its word again goes on if the word compares, and else waits on. -/
theorem waitwEvent_rereads {s : State} {uid : Nat} {n : Bool} {w : Warp} {x : Slot} {k k' : WordWait}
    (hw : findWarp? s uid = some w) (hr : isResident s w = true) (hx : w.slot? n = some x) (hb : x.block = .waitw k)
    {f : Warp → WordWait → Option WordWait} (hf : f w k = some k') (hk : k'.key = k.key)
    (hh : ∀ v, waitHolds k' v = waitHolds k v) (ha : k'.acq = false) (hg : (s.store.word k.key).isGood = true) :
    waitwEvent s uid n f = setWarp s (w.setSlot n (some { x with
      block := if waitHolds k (s.store.word k.key).data then .none else .waitw k' })) := by
  simp only [waitwEvent, hw, hr, Bool.not_true, Bool.false_eq_true, if_false, waitingSlot?_own hx hb, hf, reevaluate, hk, hg, hh,
    putWaiting, ha]
  split <;> rfl

/-- A slot whose pause is over goes on. -/
theorem pauseEvent_goes {s : State} {uid : Nat} {n : Bool} {w : Warp} {x : Slot} (hw : findWarp? s uid = some w)
    (ha : isActive s w = true) (hx : w.slot? n = some x) {past : Block → Bool} (hp : past x.block = true) :
    findWarp? (pauseEvent s uid n past) uid = some (w.setSlot n (some { x with block := .none })) ∧
      MemoryKept s (pauseEvent s uid n past) := by
  obtain rfl := findWarp?_uid hw
  have active : (!(findWarp? s w.uid).elim false (isActive s)) = false := by simp [hw, ha]
  rw [pauseEvent, active, if_neg (by decide)]
  refine ⟨?_, rfl, rfl⟩
  rw [findWarp?_onWarp (by simp), hw]
  simp [hx, hp]

/-! ### Acquires (R80, R97, R99) -/

/-- What an acquire drops lies in the L1s and on its way there. -/
theorem acquireDrop_only (s : State) (w : Warp) (sc : Scope) : DomainsOnly s (acquireDrop s w sc) := by
  unfold acquireDrop
  split
  · exact dropSi_only ..
  · exact .refl s

theorem mem_of_tget? {α : Type} {t : Tab α} {k : Nat} {v : α} (h : tget? t k = some v) : (k, v) ∈ t := by
  induction t with
  | nil => cases h
  | cons e t ih =>
    simp only [tget?] at h
    split at h
    · rename_i hk
      obtain rfl := Option.some.inj h
      rw [← hk]
      exact List.mem_cons_self
    · split at h
      · cases h
      · exact List.mem_cons_of_mem _ (ih h)

/-- A line of a domain after its words are changed is a line that was there, with its words changed. -/
theorem l1Line?_l1Map {s : State} (hs : tsorted s.l1s = true) {dom line : Nat} {f : L1Line → Tab L1Word} {l : L1Line}
    (h : l1Line? (l1Map s dom f) dom line = some l) : ∃ q ∈ (getL1 s dom).lines, l = { q with words := f q } := by
  have mem := List.mem_of_find?_eq_some h
  rw [getL1, l1Map, setL1, tget_tput_self hs] at mem
  obtain ⟨q, hq, rfl⟩ := List.mem_map.mp (List.mem_filter.mp mem).1
  exact ⟨q, hq, rfl⟩

/-- After the drop no word of the domain is SI. -/
theorem l1Word?_dropSi {s : State} (hs : tsorted s.l1s = true) {dom line j : Nat} {e : L1Word}
    (h : l1Word? (dropSi s dom) dom line j = some e) : e.st ≠ .si := by
  obtain ⟨l, hl, he⟩ := Option.bind_eq_some_iff.mp h
  obtain ⟨q, -, rfl⟩ := l1Line?_l1Map hs hl
  simpa using (List.mem_filter.mp (mem_of_tget? he)).2

/-- An acquire's drop leaves the memories as they are, and no SI word in a domain that it drops. -/
theorem acquireDrop_drops {s : State} (w : Warp) (sc : Scope) (hs : tsorted s.l1s = true) :
    MemoryKept s (acquireDrop s w sc) ∧ (scopeDrops s w.core sc = true →
      ∀ line j e, l1Word? (acquireDrop s w sc) (domainOf s w.core) line j = some e → e.st ≠ .si) := by
  refine ⟨by rw [acquireDrop_only]; exact ⟨rfl, rfl⟩, fun h line j e he => ?_⟩
  rw [acquireDrop, if_pos h] at he
  exact l1Word?_dropSi hs he

/-- What an acquire's drop finds in a state whose warp has been changed. -/
theorem acquireDrop_setWarp_drops {s : State} (v w : Warp) (sc : Scope) (hs : tsorted s.l1s = true) :
    MemoryKept s (acquireDrop (setWarp s v) w sc) ∧ (scopeDrops s w.core sc = true →
      ∀ line j e, l1Word? (acquireDrop (setWarp s v) w sc) (domainOf s w.core) line j = some e → e.st ≠ .si) := by
  have same : scopeDrops (setWarp s v) w.core sc = scopeDrops s w.core sc := by cases sc <;> rfl
  obtain ⟨kept, drops⟩ := acquireDrop_drops (s := setWarp s v) w sc hs
  exact ⟨kept, fun h => drops (same.trans h)⟩

section Acquires
variable {s : State} {id : Nat} {w : Warp} {a : Acquire}
  (hw : s.warps.find? (fun w => w.acquires.any (fun a => a.id == id)) = some w)
  (ha : w.acquires.find? (fun a => a.id == id) = some a)
include hw ha

/-- An acquire for which no earlier operation and no earlier notice is on its way is over. -/
theorem acquireEvent_completes (hl : a.loadsBefore = none) (ho : ∀ o, a.op = some o → Over s o)
    (hf : ∀ f ∈ s.flying, slotBefore f.slot a.refSlot = false ∧ a.bound ≤ f.notice.id)
    (hd : ∀ h ∈ s.homes, ∀ k ∈ h.2.decided, a.bound ≤ k.id) :
    acquireEvent s id =
      acquireDrop (setWarp s { w with acquires := w.acquires.filter (fun b => b.id != id) }) w a.scope := by
  have op : a.op.any (fun o => (findOp? s o).isSome) = false := by
    cases h : a.op with
    | none => rfl
    | some o => simp [show findOp? s o = none from ho o h]
  have flying : s.flying.any (fun f => slotBefore f.slot a.refSlot) = false :=
    List.any_eq_false.mpr fun f h => by simp [(hf f h).1]
  have notices : noticesBefore s a.bound = false := by
    simp only [noticesBefore, Bool.or_eq_false_iff, List.any_eq_false, decide_eq_true_eq, Nat.not_lt]
    exact ⟨fun h hh => by simpa using hd h hh, fun f h => (hf f h).2⟩
  simp only [acquireEvent, hw, ha, hl, op, flying, notices, Bool.or_self, Bool.false_eq_true, if_false]

/-- A FENCE.acq whose loads have landed takes its reference. -/
theorem acquireEvent_refers {k : Nat} (hl : a.loadsBefore = some k)
    (ho : ∀ o ∈ s.ops, o.warp = w.uid → o.seq < k → o.kind.isRead = false) : ∃ v b,
    acquireEvent s id = acquireDrop (setWarp s v) w a.scope ∧ v.uid = w.uid ∧ b ∈ v.acquires ∧ b.id = id ∧
      b.refSlot = s.slotCount ∧ b.bound = s.nextId ∧ b.loadsBefore = none := by
  have read : s.ops.any (fun o => o.warp == w.uid && decide (o.seq < k) && o.kind.isRead) = false :=
    List.any_eq_false.mpr fun o h => by
      simp only [Bool.and_eq_true, beq_iff_eq, decide_eq_true_eq, not_and, Bool.not_eq_true]
      exact fun hk => ho o h hk.1 hk.2
  have aid : a.id = id := by simpa using List.find?_some ha
  have taken : ∃ v, acquireEvent s id = acquireDrop (setWarp s v) w a.scope ∧ v.uid = w.uid ∧ v.acquires = w.acquires.map
      (fun b => if b.id == id then { b with loadsBefore := none, refSlot := s.slotCount, bound := s.nextId } else b) := by
    simp only [acquireEvent, hw, ha, hl, read, Bool.false_eq_true, if_false]
    exact ⟨_, rfl, rfl, rfl⟩
  obtain ⟨v, e, uid, acquires⟩ := taken
  refine ⟨v, { a with loadsBefore := none, refSlot := s.slotCount, bound := s.nextId }, e, uid, ?_, ?_, rfl, rfl, rfl⟩
  · rw [acquires]
    exact List.mem_map.mpr ⟨a, List.mem_of_find?_eq_some ha, by simp [aid]⟩
  · exact aid

end Acquires

/-! ### Releases (R96, R372) -/

section Releases
variable {s : State} {id : Nat} {o : Op} {w : Warp} (ho : findOp? s id = some o) (hw : findWarp? s o.warp = some w)
  (hh : o.held = true) (hr : isResident s w = true) (hv : releaseOver s o = true)
include ho hw hh hr hv

/-- A release whose wait is over delivers. -/
theorem releaseEvent_delivers : releaseEvent s id = deliver s w o := by
  simp only [releaseEvent, ho, hw, hh, hr, hv, Bool.and_self, if_true]

end Releases

end Sys2Proof.Machine
end

section
/-! PROOF. O47: a value lands in its registers. -/

namespace Sys2Proof.Machine

open Sys2Proof

/-! ### Values in registers (R27, R178) -/

theorem findWarp?_onWarp_self {s : State} {u : Nat} {w : Warp} {f : Warp → Warp} (hf : ∀ w, (f w).uid = w.uid)
    (h : findWarp? s u = some w) : findWarp? (onWarp s u f) u = some (f w) := by
  rw [findWarp?_onWarp hf, h]
  simp [findWarp?_uid h]

/-- A window from which words are dropped gives them no more, and the others as before. -/
theorem windowGet?_windowDrop (win : List (List (Nat × Word))) (keys : List Nat) (k : Nat) :
    windowGet? (windowDrop win keys) k = if k ∈ keys then none else windowGet? win k := by
  induction win with
  | nil => simp [windowDrop, windowGet?]
  | cons e win ih =>
    have entry : (e.filter (fun p => !keys.contains p.1)).find? (fun p => p.1 == k) =
        if k ∈ keys then none else e.find? (fun p => p.1 == k) := by
      induction e with
      | nil => simp
      | cons p e ihe => by_cases hp : p.1 = k <;> by_cases hk : p.1 ∈ keys <;> simp_all
    have step : windowDrop (e :: win) keys = e.filter (fun p => !keys.contains p.1) :: windowDrop win keys := rfl
    rw [step, windowGet?_cons, windowGet?_cons, ih, entry]
    split <;> rfl

theorem newest_of_mem {ws : List (Nat × Word)} (h : (ws.map (·.1)).Nodup) {p : Nat × Word} (hp : p ∈ ws) (old : Word) :
    newest ws.reverse p.1 old = p.2 := by
  have found : ws.find? (fun q => q.1 == p.1) = some p := by
    induction ws with
    | nil => cases hp
    | cons q ws ih =>
      obtain ⟨hq, hn⟩ := List.nodup_cons.mp h
      rcases List.mem_cons.mp hp with rfl | hp
      · simp
      · have ne : q.1 ≠ p.1 := fun e => hq (List.mem_map.mpr ⟨p, hp, e.symm⟩)
        rw [List.find?_cons_of_neg (by simpa using ne), ih hn hp]
  rw [newest, find?_reverse_of_once h, found]
  rfl

theorem newest_of_ne {ws : List (Nat × Word)} {k : Nat} (h : ∀ p ∈ ws, k ≠ p.1) (old : Word) :
    newest ws.reverse k old = old := by
  have none_found : ws.reverse.find? (fun q => q.1 == k) = none :=
    List.find?_eq_none.mpr fun p hp => by simpa using (h p (List.mem_reverse.mp hp)).symm
  rw [newest, none_found]
  rfl

/-- Registers get the values that the banks hold once the window no longer has others for them. -/
theorem regsGet_of_landed {s t : State} {w v : Warp} {ws : List (Nat × Word)} (ht : findWarp? t w.uid = some v)
    (hw : v.window = windowDrop w.window (ws.map (·.1))) (hs : t.store = (bankWrite s (regBank s w) ws).store) :
    RegsGet s t w ws := by
  intro wf once
  have word (k : Nat) : regWord t v (regBank s w) k =
      newest ws.reverse k (regWord s w (regBank s w) k) := by
    rw [regWord_eq, regWord_eq, hw, windowGet?_windowDrop, hs, bankWrite_word wf]
    split
    · rename_i hk
      obtain ⟨p, hp, rfl⟩ := List.mem_map.mp hk
      rw [newest_of_mem once hp, newest_of_mem once hp]
      rfl
    · rename_i hk
      have other : ∀ p ∈ ws, k ≠ p.1 := fun p hp e => hk (e ▸ List.mem_map_of_mem hp)
      rw [newest_of_ne other, newest_of_ne other]
  exact ⟨v, ht, fun p hp => (word p.1).trans (newest_of_mem once hp _), fun k hk => (word k).trans (newest_of_ne hk _)⟩

theorem landRegs_eq {s : State} {u : Nat} {w : Warp} (h : findWarp? s u = some w) (ws : List (Nat × Word)) :
    landRegs s u ws =
      setWarp (bankWrite s (regBank s w) ws) { w with window := windowDrop w.window (ws.map (·.1)) } := by
  simp only [landRegs, h]

theorem findWarp?_landRegs {s : State} {u : Nat} {w : Warp} (h : findWarp? s u = some w) (ws : List (Nat × Word)) :
    findWarp? (landRegs s u ws) u = some { w with window := windowDrop w.window (ws.map (·.1)) } := by
  obtain rfl := findWarp?_uid h
  rw [landRegs_eq h]
  exact findWarp?_setWarp_self (w := { w with window := windowDrop w.window (ws.map (·.1)) }) (v := w) h

/-! ### Flags that land (R196) -/

/-- A warp whose operation of counter `k` has raised flags. -/
def flaggedWarp (k : Ctr) (fl : Word) (w : Warp) : Warp :=
  if fl == 0 then w
  else if fl &&& w.trapen == 0 then { w with flags := w.flags ||| fl }
  else { w with flags := w.flags ||| fl,
                reports := w.reports ++ [⟨k, BitVec.ofNat 8 (flagCause (fl &&& w.trapen)), fl &&& w.trapen, none⟩] }

theorem onWarp_id (s : State) (u : Nat) : onWarp s u (fun w => w) = s := by
  simp [onWarp]

theorem landFlags_eq (s : State) (u : Nat) (k : Ctr) (fl : Word) : landFlags s u k fl = onWarp s u (flaggedWarp k fl) := by
  unfold landFlags
  split
  · rename_i none_raised
    have same : flaggedWarp k fl = fun w => w := funext fun w => by rw [flaggedWarp, if_pos none_raised]
    rw [same, onWarp_id]
  · rename_i raised
    have same (w : Warp) : flaggedWarp k fl w = if fl &&& w.trapen == 0 then { w with flags := w.flags ||| fl }
        else { w with flags := w.flags ||| fl, reports := w.reports ++ [⟨k, BitVec.ofNat 8 (flagCause (fl &&& w.trapen)), fl &&& w.trapen, none⟩] } := by
      rw [flaggedWarp, if_neg raised]
    simp only [onWarp, same]

@[simp] theorem flaggedWarp_uid (k : Ctr) (fl : Word) (w : Warp) : (flaggedWarp k fl w).uid = w.uid := by
  unfold flaggedWarp; split_ifs <;> rfl
@[simp] theorem flaggedWarp_window (k : Ctr) (fl : Word) (w : Warp) : (flaggedWarp k fl w).window = w.window := by
  unfold flaggedWarp; split_ifs <;> rfl
@[simp] theorem flaggedWarp_ctrs (k : Ctr) (fl : Word) (w : Warp) : (flaggedWarp k fl w).ctrs = w.ctrs := by
  unfold flaggedWarp; split_ifs <;> rfl

theorem flaggedWarp_flags (k : Ctr) (fl : Word) (w : Warp) : (flaggedWarp k fl w).flags = w.flags ||| fl := by
  unfold flaggedWarp
  split_ifs with h
  · rw [beq_iff_eq.mp h]; simp
  all_goals rfl

theorem flaggedWarp_reports (k : Ctr) (fl : Word) (w : Warp) (h : fl &&& w.trapen ≠ 0) :
    ⟨k, BitVec.ofNat 8 (flagCause (fl &&& w.trapen)), fl &&& w.trapen, none⟩ ∈ (flaggedWarp k fl w).reports := by
  have raised : ¬ (fl == 0) = true := fun e => h (by rw [beq_iff_eq.mp e]; simp)
  rw [flaggedWarp, if_neg raised, if_neg (by simpa using h)]
  simp

/-! ### A value lands (R68, R142, R256) -/

section Landing
variable {s : State} {id : Nat} {o : Op} {w : Warp} (ho : findOp? s id = some o) (hw : findWarp? s o.warp = some w)
  (hh : o.held = false) (hgot : ∀ x ∈ o.words, x.got.isSome)
  (hk : o.kind = .ld ∨ o.kind = .lds ∨ o.kind = .ldck ∨ (∃ k, o.kind = .atom k) ∨ (∃ k, o.kind = .atoms k))
  (htgt : ∀ x ∈ o.words, ∀ a, x.tgt ≠ .host a ∧ x.tgt ≠ .fabric a) (hhome : homesAnswered s id = true)

theorem receive_got {s : State} {k : OpKind} {ws : List OpWord} (h : ∀ x ∈ ws, x.got.isSome) (remote : List CWord) :
    receive s k ws remote = ws := by
  induction ws with
  | nil => rfl
  | cons x ws ih =>
    simp only [receive, h x List.mem_cons_self, if_true, ih fun y hy => h y (List.mem_cons_of_mem _ hy)]

theorem ownLeft_got {o : Op} (h : ∀ x ∈ o.words, x.got.isSome) : o.ownLeft = [] :=
  List.filter_eq_nil_iff.mpr fun x hx => by
    rw [Option.isNone_eq_false_iff.mpr (h x hx)]
    simp

theorem line?_of_local {x : OpWord} (h : ∀ a, x.tgt ≠ .host a ∧ x.tgt ≠ .fabric a) (hb : x.hbm?.isNone) : x.line? = none := by
  unfold OpWord.hbm? at hb
  unfold OpWord.line?
  cases e : x.tgt with
  | hbm pa => simp [e] at hb
  | fabric pa => exact absurd e (h pa).2
  | host a => exact absurd e (h a).1
  | store _ | reg _ _ => rfl

/-- Words all of this device fill no line as they land. -/
theorem fillRemote_local {s : State} {w : Warp} {o : Op} (h : ∀ x ∈ o.words, ∀ a, x.tgt ≠ .host a ∧ x.tgt ≠ .fabric a) :
    fillRemote s w o o = s := by
  have fresh : freshLines (o.words.filter (fun x => x.hbm?.isNone && !x.fal)) = [] := by
    have none_left : ((o.words.filter (fun x => x.hbm?.isNone && !x.fal)).filter OpWord.fresh).filterMap
        (fun x => x.line?.map (·.1)) = [] :=
      List.filterMap_eq_nil_iff.mpr fun x hx => by
        obtain ⟨hx, local_⟩ := List.mem_filter.mp (List.mem_filter.mp hx).1
        rw [line?_of_local (h x hx) (by simpa using (Bool.and_eq_true_iff.mp local_).1)]
        rfl
    rw [freshLines, none_left]
    rfl
  have remote : dropRemote s o = s := by
    unfold dropRemote
    split
    · rfl
    · refine foldl_id fun x hx => ?_
      obtain ⟨hx, local_⟩ := List.mem_filter.mp hx
      simp only [line?_of_local (h x hx) local_, implies_true]
  unfold fillRemote
  split
  · rw [fresh]; rfl
  · rw [fresh]; rfl
  · exact remote
  · rfl

include ho hw hh hgot hk htgt hhome in
theorem landEvent_lands (remote : List CWord) : landEvent s id remote = landLoad s w o := by
  have read : OpKind.isRead o.kind = true := by
    rcases hk with h | h | h | ⟨k, h⟩ | ⟨k, h⟩ <;> rw [h] <;> rfl
  have whole : o.words.all (fun x => x.got.isSome) = true := List.all_eq_true.mpr hgot
  have own : (!o.ownLeft.isEmpty) = false := by rw [ownLeft_got hgot]; rfl
  simp only [landEvent, ho, hw]
  split
  · rename_i h; simp [h] at hk
  · rw [if_neg (by simp [hh, read]), own, if_neg Bool.false_ne_true, receive_got hgot]
    rw [if_pos (by rw [whole, hhome]; rfl)]
    exact congrArg (fun t => landLoad t w o) (fillRemote_local htgt)

end Landing

/-- The state when the value of an operation has landed. -/
def landedState (s : State) (w : Warp) (o : Op) : State :=
  dropOp (lowerCtr (landFlags (landRegs (dropReplies s o.id) w.uid ((o.words.map (landWords o)).flatten)) w.uid .ld
    (o.words.foldl (fun m x => m ||| x.flags) 0)) w.uid .ld) o.id

theorem landLoad_whole {s : State} {w : Warp} {o : Op} (h : o.kind = .ldck ∨ ∀ x ∈ o.words, ∀ v, x.got = some v → v.isGood = true) :
    landLoad s w o = landedState s w o := by
  have none_bad : (if OpKind.consumes o.kind then o.words.find? (fun x => x.got.any (fun v => !v.isGood)) else none) = none := by
    rcases h with h | h
    · rw [h]; rfl
    · split
      · refine List.find?_eq_none.mpr fun x hx => ?_
        cases e : x.got with
        | none => simp
        | some v => simp [h x hx v e]
      · rfl
  simp only [landLoad, none_bad]
  rfl

/-- The first bad word of a value contains the gang. -/
theorem landLoad_bad {s : State} {w : Warp} {o : Op} {before after : List OpWord} {x : OpWord} {v : CWord}
    (hk : OpKind.consumes o.kind = true) (hs : o.words = before ++ x :: after) (hx : x.got = some v) (hv : v.isGood = false)
    (hb : ∀ y ∈ before, ∀ u, y.got = some u → u.isGood = true) :
    landLoad s w o = containFrom (dropReplies s o.id) w v x.lane o.pc x.addr (x.pa?.bind (realPa? (dropReplies s o.id))) := by
  have first : o.words.find? (fun x => x.got.any (fun v => !v.isGood)) = some x := by
    rw [hs, List.find?_append, List.find?_eq_none.mpr, List.find?_cons_of_pos (by simp [hx, hv])]
    · rfl
    · intro y hy
      cases e : y.got with
      | none => simp
      | some u => simp [hb y hy u e]
  simp only [landLoad, hk, if_true, first, hx, Option.getD_some]

section Landed
variable {s : State} {w : Warp} (o : Op) (hw : findWarp? s w.uid = some w)

theorem landed_over : Over (landedState s w o) o.id := over_dropOp _ _

include hw

/-- The warp when the value has landed: its window is rid of the registers, and its flags and its counter have changed. -/
theorem landed_warp : ∃ v, findWarp? (landedState s w o) w.uid = some v ∧
    v.window = windowDrop w.window (((o.words.map (landWords o)).flatten).map (·.1)) ∧
    v.ctrs = w.ctrs.set .ld (w.ctrs.get .ld - 1) ∧
    v.flags = w.flags ||| o.words.foldl (fun m x => m ||| x.flags) 0 ∧
    (o.words.foldl (fun m x => m ||| x.flags) 0 &&& w.trapen ≠ 0 →
      ⟨.ld, BitVec.ofNat 8 (flagCause (o.words.foldl (fun m x => m ||| x.flags) 0 &&& w.trapen)),
        o.words.foldl (fun m x => m ||| x.flags) 0 &&& w.trapen, none⟩ ∈ v.reports) := by
  let ws := (o.words.map (landWords o)).flatten
  let fl := o.words.foldl (fun m x => m ||| x.flags) 0
  let u : Warp := { w with window := windowDrop w.window (ws.map (·.1)) }
  have landed : findWarp? (landRegs (dropReplies s o.id) w.uid ws) w.uid = some u :=
    findWarp?_landRegs (s := dropReplies s o.id) hw ws
  have flagged := findWarp?_onWarp_self (f := flaggedWarp .ld fl) (fun _ => flaggedWarp_uid ..) landed
  rw [← landFlags_eq] at flagged
  have lowered := findWarp?_onWarp_self (f := fun w : Warp => { w with ctrs := w.ctrs.set .ld (w.ctrs.get .ld - 1) })
    (fun _ => rfl) flagged
  exact ⟨_, lowered, flaggedWarp_window .., by simp [u], flaggedWarp_flags .., flaggedWarp_reports .ld fl u⟩

theorem landed_kept : MemoryKept s (landedState s w o) ∧ (landedState s w o).store =
    (bankWrite s (regBank s w) ((o.words.map (landWords o)).flatten)).store := by
  have warps (f g : Warp → Warp) (t : State) (id : Nat) : let r := dropOp (onWarp (onWarp t w.uid f) w.uid g) id
      r.hbm = t.hbm ∧ r.host = t.host ∧ r.store = t.store := ⟨rfl, rfl, rfl⟩
  rw [landedState, landFlags_eq, landRegs_eq (s := dropReplies s o.id) hw]
  obtain ⟨hbm, host, store⟩ := warps (flaggedWarp .ld (o.words.foldl (fun m x => m ||| x.flags) 0))
    (fun w => { w with ctrs := w.ctrs.set .ld (w.ctrs.get .ld - 1) })
    (setWarp (bankWrite (dropReplies s o.id) (regBank s w) ((o.words.map (landWords o)).flatten))
      { w with window := windowDrop w.window (((o.words.map (landWords o)).flatten).map (·.1)) }) o.id
  exact ⟨⟨hbm, host⟩, store⟩

theorem landed_regs : RegsGet s (landedState s w o) w ((o.words.map (landWords o)).flatten) := by
  obtain ⟨v, hv, window, -⟩ := landed_warp o hw
  exact regsGet_of_landed hv window (landed_kept o hw).2

theorem landed_lowered : Lowered s (landedState s w o) w.uid .ld := by
  obtain ⟨v, hv, -, ctrs, -⟩ := landed_warp o hw
  intro u hu
  obtain rfl := Option.some.inj (hw.symm.trans hu)
  exact ⟨v, hv, ctrs⟩

end Landed

/-- What the words of an LDCK give. -/
theorem landWords_ldck {o : Op} (hk : o.kind = .ldck) (h : ∀ x ∈ o.words, x.got.isSome) :
    (o.words.map (landWords o)).flatten = (o.words.map (fun x => let v := x.got.getD (good 0)
      [(vKey o.dst x.lane, v.data), (vKey (o.dst + 1) x.lane, v.check.setWidth 32)])).flatten := by
  refine congrArg _ (List.map_congr_left fun x hx => ?_)
  obtain ⟨v, hv⟩ := Option.isSome_iff_exists.mp (h x hx)
  simp [landWords, hv, hk]

/-- What the words of any other operation give. -/
theorem landWords_plain {o : Op} (hk : o.kind ≠ .ldck) (h : ∀ x ∈ o.words, x.got.isSome) :
    (o.words.map (landWords o)).flatten = o.words.map (fun x => (vKey (o.dst + x.j) x.lane, (x.got.getD (good 0)).data)) := by
  rw [← List.flatMap_def, ← List.flatMap_singleton' (l := o.words.map _), List.flatMap_map]
  refine List.flatMap_congr fun x hx => ?_
  obtain ⟨v, hv⟩ := Option.isSome_iff_exists.mp (h x hx)
  simp [landWords, hv]

end Sys2Proof.Machine
end

section
/-! PROOF. O50 fails, for the reason that O36 and O39 fail: what it says of a copy that completes with a notify word holds over
a store in canonical form only. In a check table that lists a word twice, the good word that the copy writes uncovers the
second difference; a slot that waits on the word consumes it, and the containment ends the gang of the copy's own warp,
whose counter can no longer fall. O59 says that no step leaves such a store; the statement has the hypothesis for the value of
the word and not for the counter. -/

namespace Sys2Proof.Machine

open Sys2Proof

/-- The first word of the placed program's block. -/
def notifyKey : Nat := 0xDFF80 / 4

/-- A store whose check table lists that word twice. -/
def twiceListedStore : Mem := ⟨[], [(notifyKey, 1), (notifyKey, 1)]⟩

/-- A wait on that word, with a watch entry. -/
def notifyWait : WordWait :=
  { key := notifyKey, addr := 0xDFF80, cond := .eq, signed := false, acq := false, value := 0, entry := true, polled := 0, pc := 0 }

/-- A slot that waits so. -/
def watchingSlot : Slot :=
  { pc := 0, mask := 0xFFFFFFFF, join := none, sig := 0, shadow := 0xFFFFFFFF, block := .waitw notifyWait, readyAt := 0,
    readySince := none, heldBack := false }

/-- The placed program's warp with that slot. -/
def watchingWarp : Warp := { programWarp with slot0 := some watchingSlot }

/-- A copy of that warp whose rows have all been moved, with the word to notify. -/
def finishedCopy : Copy :=
  { id := 9, warp := 4, seq := 0, quad := 0, kind := .cpt, layout := layoutOf [], base := 0, rows := [], core := 0, store := 0xDFF80,
    notify := .word notifyKey, done := 1, total := 1, seg := 0, moved := [], state := .running, held := false, notices := [] }

/-- The placed program's device with the warp and its copy over that store. -/
def notifiedState : State :=
  { placeProgram State.reset [] with warps := [watchingWarp], copies := [finishedCopy], store := twiceListedStore }

/-- The copy completes, and its warp is gone. -/
theorem completion_contains : findWarp? (copyCompletesEvent notifiedState 9) 4 = none := by decide +kernel

/-- Refutes O50: a copy completes over the store that lists its notify word twice. -/
theorem not_copiesAndCollectivesMoveTheirData : ¬ Obligations.CopiesAndCollectivesMoveTheirData := by
  unfold Obligations.CopiesAndCollectivesMoveTheirData
  intro ⟨_, _, _, completes, _, _⟩
  obtain ⟨t, runs, -, lowered, -, -⟩ := completes notifiedState 9 finishedCopy rfl (by decide +kernel) (by decide)
    (by decide +kernel) (by decide +kernel)
  obtain rfl := Host.Outcome.next.inj (show _ = _ from runs)
  obtain ⟨v, found, -⟩ := lowered watchingWarp rfl
  exact absurd (completion_contains.symm.trans found) (by simp)

end Sys2Proof.Machine
end

section
/-! PROOF. O47: the words of an STS reach their banks, and wake whoever waits on them. -/

namespace Sys2Proof.Machine

open Sys2Proof

/-! ### Slots that wait on a word go on (R265) -/

/-- Two warps have one register block and one set of counters. -/
def SameBlock (w v : Warp) : Prop :=
  v.core = w.core ∧ v.team = w.team ∧ v.regBase = w.regBase ∧ v.ctrs = w.ctrs

/-- Some slots have gone on, with acquires; every warp keeps its register block and its counters. -/
def Woken (s t : State) : Prop :=
  t = { s with warps := t.warps, nextId := t.nextId, l1s := t.l1s, replies := t.replies } ∧
    ∀ u w, findWarp? s u = some w → ∃ v, findWarp? t u = some v ∧ SameBlock w v

theorem Woken.refl (s : State) : Woken s s := ⟨rfl, fun _ w h => ⟨w, h, rfl, rfl, rfl, rfl⟩⟩

theorem Woken.trans {s t u : State} (h : Woken s t) (k : Woken t u) : Woken s u := by
  obtain ⟨rest, warps⟩ := h
  obtain ⟨rest', warps'⟩ := k
  refine ⟨by rw [rest', rest], fun i w hw => ?_⟩
  obtain ⟨v, hv, core, team, base, ctrs⟩ := warps i w hw
  obtain ⟨x, hx, core', team', base', ctrs'⟩ := warps' i v hv
  exact ⟨x, hx, core'.trans core, team'.trans team, base'.trans base, ctrs'.trans ctrs⟩

theorem Woken.store {s t : State} (h : Woken s t) : t.store = s.store := by rw [h.1]

/-- A found warp is replaced by one with its block and counters. -/
theorem setWarp_woken {s : State} {w v : Warp} (h : findWarp? s w.uid = some w) (hu : v.uid = w.uid) (hs : SameBlock w v) :
    Woken s (setWarp s v) := by
  refine ⟨rfl, fun u x hx => ?_⟩
  by_cases e : u = v.uid
  · subst e
    obtain rfl := Option.some.inj ((hu ▸ h).symm.trans hx)
    exact ⟨v, findWarp?_setWarp_self (v := w) hx, hs⟩
  · exact ⟨x, (findWarp?_setWarp_ne e).trans hx, rfl, rfl, rfl, rfl⟩

theorem startAcquire_woken (s : State) (u : Nat) (scope : Scope) (op loadsBefore : Option Nat) :
    Woken s (startAcquire s u scope op loadsBefore) := by
  refine ⟨startAcquire_frame .., fun i w hw => ?_⟩
  by_cases e : i = u
  · subst e
    exact ⟨_, findWarp?_startAcquire hw .., rfl, rfl, rfl, rfl⟩
  · exact ⟨w, (findWarp?_startAcquire_ne s e ..).trans hw, rfl, rfl, rfl, rfl⟩

theorem putWaiting_uid (w : Warp) (n saved : Bool) (x : Slot) : (putWaiting w n saved x).uid = w.uid := by
  cases saved <;> cases n <;> rfl

theorem putWaiting_block (w : Warp) (n saved : Bool) (x : Slot) : SameBlock w (putWaiting w n saved x) := by
  cases saved <;> cases n <;> exact ⟨rfl, rfl, rfl, rfl⟩

/-- A slot that reads a good word again goes on or waits on. -/
theorem reevaluate_woken {s : State} {w : Warp} (h : findWarp? s w.uid = some w) (n saved : Bool) (x : Slot) {k : WordWait}
    (hk : (s.store.word k.key).isGood = true) : Woken s (reevaluate s w n saved x k) := by
  have put (y : Slot) : Woken s (setWarp s (putWaiting w n saved y)) :=
    setWarp_woken h (putWaiting_uid ..) (putWaiting_block ..)
  simp only [reevaluate, hk, Bool.not_true, Bool.false_eq_true, if_false]
  split
  · split
    · exact (put _).trans (startAcquire_woken ..)
    · exact put _
  · exact put _

theorem waitwEvent_woken {s : State} (uid : Nat) (n : Bool) {f : Warp → WordWait → Option WordWait}
    (hf : ∀ w k k', f w k = some k' → (s.store.word k'.key).isGood = true) : Woken s (waitwEvent s uid n f) := by
  unfold waitwEvent
  split
  · exact .refl s
  · rename_i w hw
    split
    · exact .refl s
    · split
      · exact .refl s
      · split
        · exact .refl s
        · rename_i k' hk
          exact reevaluate_woken (findWarp?_uid hw ▸ hw) _ _ _ (hf _ _ k' hk)

/-- Steps that wake slots while a word is good. -/
theorem foldl_woken {α : Type} {f : State → α → State} {key : Nat}
    (h : ∀ s a, (s.store.word key).isGood = true → Woken s (f s a)) (l : List α) {s : State}
    (hs : (s.store.word key).isGood = true) : Woken s (l.foldl f s) := by
  induction l generalizing s with
  | nil => exact .refl s
  | cons a l ih =>
    have first := h s a hs
    exact first.trans (ih (by rw [first.store]; exact hs))

/-- Everyone who waits on a good word reads it again. -/
theorem wroteWord_woken {s : State} {key : Nat} (h : (s.store.word key).isGood = true) : Woken s (wroteWord s key) := by
  refine foldl_woken (fun s w hs => foldl_woken (fun s n hs => waitwEvent_woken _ _ fun _ k k' hk => ?_) _ hs) _ h
  split at hk
  · rename_i same
    obtain rfl := Option.some.inj hk
    rw [beq_iff_eq.mp (Bool.and_eq_true_iff.mp same).2]
    exact hs
  · cases hk

/-! ### A good word reaches a bank (R55, R257) -/

/-- Store words have been written by operations; every warp keeps its register block and its counters. -/
def StoreWritten (s t : State) (m : Mem) : Prop :=
  t = { s with warps := t.warps, nextId := t.nextId, l1s := t.l1s, replies := t.replies, mx := t.mx, upsets := t.upsets, store := m } ∧
    ∀ u w, findWarp? s u = some w → ∃ v, findWarp? t u = some v ∧ SameBlock w v

theorem StoreWritten.refl (s : State) : StoreWritten s s s.store := ⟨rfl, fun _ w h => ⟨w, h, rfl, rfl, rfl, rfl⟩⟩

theorem StoreWritten.trans {s t u : State} {m k : Mem} (h : StoreWritten s t m) (g : StoreWritten t u k) : StoreWritten s u k := by
  obtain ⟨rest, warps⟩ := h
  obtain ⟨rest', warps'⟩ := g
  refine ⟨by rw [rest', rest], fun i w hw => ?_⟩
  obtain ⟨v, hv, core, team, base, ctrs⟩ := warps i w hw
  obtain ⟨x, hx, core', team', base', ctrs'⟩ := warps' i v hv
  exact ⟨x, hx, core'.trans core, team'.trans team, base'.trans base, ctrs'.trans ctrs⟩

theorem StoreWritten.memory {s t : State} {m : Mem} (h : StoreWritten s t m) : MemoryKept s t := by
  rw [h.1]
  exact ⟨rfl, rfl⟩

/-- The register block of a warp lies where it lay. -/
theorem StoreWritten.regBank {s t : State} {m : Mem} (h : StoreWritten s t m) {w v : Warp} (hb : SameBlock w v) :
    regBank t v = Machine.regBank s w :=
  regBank_of_same hb.1 hb.2.1 hb.2.2.1 (by rw [h.1])

theorem keepOld_eq (s : State) (key : Nat) (b : Option (Nat × Nat)) : ∃ xs, keepOld s key b = { s with mx := xs } := by
  simp only [keepOld]
  split
  · exact ⟨_, rfl⟩
  · exact ⟨s.mx, rfl⟩

/-- A good word is written, and wakes whoever waits on it. -/
theorem writeStore_written {s : State} (hs : s.store.wf = true) (key : Nat) {x : CWord} (hx : x.isGood = true)
    (b : Option (Nat × Nat)) : StoreWritten s (writeStore s key x b) (s.store.setWord key x) := by
  obtain ⟨xs, kept⟩ := keepOld_eq s key b
  let r : State := { s with mx := xs, store := s.store.setWord key x }
  have there : (r.store.word key).isGood = true := by
    rw [show r.store = s.store.setWord key x from rfl, Mem.word_setWord hs, if_pos rfl]
    exact hx
  have woken : Woken r (wroteWord r key) := wroteWord_woken there
  have e : writeStore s key x b = wroteWord r key := by simp only [writeStore, kept]; rfl
  rw [e]
  exact ⟨by rw [woken.1], woken.2⟩

/-! ### The words of an STS -/

/-- Where a word of an STS leads: a word of a store, or a register of a warp that is there. -/
def StsTarget (s : State) (key : OpWord → Nat) (y : OpWord) : Prop :=
  y.data.isGood = true ∧ (y.tgt = .store (key y) ∨
    ∃ u k, y.tgt = .reg u.uid k ∧ findWarp? s u.uid = some u ∧ key y = regBank s u + k)

theorem StsTarget.later {s t : State} {m : Mem} {key : OpWord → Nat} {y : OpWord} (h : StsTarget s key y) (hw : StoreWritten s t m) :
    StsTarget t key y := by
  obtain ⟨hg, store | ⟨u, k, reg, hu, hk⟩⟩ := h
  · exact ⟨hg, .inl store⟩
  · obtain ⟨v, hv, same⟩ := hw.2 _ _ hu
    have uid : v.uid = u.uid := findWarp?_uid hv
    exact ⟨hg, .inr ⟨v, k, by rw [uid]; exact reg, by rw [uid]; exact hv, by rw [hw.regBank same]; exact hk⟩⟩

theorem stsWord_written {s : State} (hs : s.store.wf = true) (o : Op) {key : OpWord → Nat} {y : OpWord} (h : StsTarget s key y) :
    StoreWritten s (stsWord s o y) (s.store.setWord (key y) y.data) := by
  obtain ⟨hg, store | ⟨u, k, reg, hu, hk⟩⟩ := h
  · simp only [stsWord, store]
    exact writeStore_written hs _ hg _
  · simp only [stsWord, reg, hu, hg, if_true, hk]
    exact ⟨rfl, fun _ w hw => ⟨w, hw, rfl, rfl, rfl, rfl⟩⟩

/-- All the words reach their banks. -/
theorem stsWords_written (o : Op) {key : OpWord → Nat} (ws : List OpWord) {s : State} (hs : s.store.wf = true)
    (h : ∀ y ∈ ws, StsTarget s key y) : StoreWritten s (ws.foldl (fun s x => stsWord s o x) s)
      (ws.foldl (fun m y => m.setWord (key y) y.data) s.store) := by
  induction ws generalizing s with
  | nil => exact .refl s
  | cons y ws ih =>
    have first := stsWord_written hs o (h y List.mem_cons_self)
    have store : (stsWord s o y).store = s.store.setWord (key y) y.data := by rw [first.1]
    have rest := ih (s := stsWord s o y) (by rw [store]; exact Mem.setWord_wf hs ..)
      fun z hz => (h z (List.mem_cons_of_mem _ hz)).later first
    rw [store] at rest
    exact first.trans rest

/-- Of words with different keys each is there after all are written. -/
theorem word_foldl_setWord {α : Type} {key : α → Nat} {val : α → CWord} (l : List α) {m : Mem} (hm : m.wf = true)
    (h : (l.map key).Nodup) : ∀ y ∈ l, (l.foldl (fun m y => m.setWord (key y) (val y)) m).word (key y) = val y := by
  have other (l : List α) (m : Mem) (hm : m.wf = true) (k : Nat) (hk : k ∉ l.map key) :
      (l.foldl (fun m y => m.setWord (key y) (val y)) m).word k = m.word k := by
    induction l generalizing m with
    | nil => rfl
    | cons y l ih =>
      obtain ⟨ne, hk⟩ := not_or.mp (mt List.mem_cons.mpr hk)
      rw [List.foldl_cons, ih _ (Mem.setWord_wf hm ..) hk, Mem.word_setWord hm, if_neg ne]
  induction l generalizing m with
  | nil => simp
  | cons z l ih =>
    obtain ⟨hz, hl⟩ := List.nodup_cons.mp h
    intro y hy
    rcases List.mem_cons.mp hy with rfl | hy
    · rw [List.foldl_cons, other l _ (Mem.setWord_wf hm ..) _ hz, Mem.word_setWord hm, if_pos rfl]
    · exact ih (Mem.setWord_wf hm ..) hl y hy

theorem lowered_lowerCtr {s t : State} {uid : Nat} (k : Ctr)
    (h : ∀ w, findWarp? s uid = some w → ∃ v, findWarp? t uid = some v ∧ v.ctrs = w.ctrs) : Lowered s (lowerCtr t uid k) uid k := by
  intro w hw
  obtain ⟨v, hv, e⟩ := h w hw
  refine ⟨_, findWarp?_onWarp_self (fun _ => rfl) hv, ?_⟩
  rw [e]

section Stores
variable {s : State} {id : Nat} {o : Op} (ho : findOp? s id = some o) (hh : o.held = false)
include ho hh

theorem storeAck_shut (hk : o.kind = .sts) (hb : o.words.any (OpWord.bankShut s) = true) : storeAckEvent s id = s := by
  simp only [storeAckEvent, ho, hh, Bool.false_eq_true, if_false, hk, hb, if_true]

theorem storeAck_sts (hk : o.kind = .sts) (hb : o.words.any (OpWord.bankShut s) = false) :
    storeAckEvent s id = lowerCtr (dropOp (o.words.foldl (fun s x => stsWord s o x) s) id) o.warp .st := by
  simp only [storeAckEvent, ho, hh, Bool.false_eq_true, if_false, hk, hb]

/-- The words of an STS whose banks are open are in their banks, and the STS is over. -/
theorem storeAck_sts_writes (hk : o.kind = .sts) (hb : o.words.any (OpWord.bankShut s) = false) (hs : s.store.wf = true)
    {key : OpWord → Nat} (ht : ∀ y ∈ o.words, StsTarget s key y) : Over (storeAckEvent s id) id ∧
      Lowered s (storeAckEvent s id) o.warp .st ∧ MemoryKept s (storeAckEvent s id) ∧
      ((o.words.map key).Nodup → ∀ y ∈ o.words, (storeAckEvent s id).store.word (key y) = y.data) := by
  have written := stsWords_written o o.words hs ht
  rw [storeAck_sts ho hh hk hb]
  refine ⟨over_dropOp _ _, lowered_lowerCtr .st fun w hw => ?_, ?_, fun once => ?_⟩
  · obtain ⟨v, hv, -, -, -, ctrs⟩ := written.2 _ w hw
    exact ⟨v, hv, ctrs⟩
  · obtain ⟨hbm, host⟩ := written.memory
    exact ⟨hbm, host⟩
  · obtain ⟨rest, -⟩ := written
    have store : (o.words.foldl (fun s x => stsWord s o x) s).store =
        o.words.foldl (fun m y => m.setWord (key y) y.data) s.store := congrArg State.store rest
    have words := word_foldl_setWord (val := OpWord.data) o.words hs once
    exact fun y hy => (congrArg (fun m : Mem => m.word (key y)) store).trans (words y hy)

/-- A store to host memory or to HBM is over when all of it has been performed. -/
theorem storeAck_st (hk : o.kind = .st ∨ o.kind = .stck) (hd : ownedDone o = true) (ha : homesAnswered s id = true)
    (hl : o.ownLeft = []) :
    storeAckEvent s id = lowerCtr (dropOp (storeHostWords (dropReplies s id) o) id) o.warp .st := by
  rcases hk with hk | hk <;>
    simp only [storeAckEvent, ho, hh, Bool.false_eq_true, if_false, hk, hd, ha, hl, Bool.and_self, List.isEmpty_nil,
      Bool.not_true, if_true]

theorem storeAck_stnt (hk : o.kind = .stnt) (ha : o.accepted = false) :
    storeAckEvent s id = lowerCtr (setOp s { o with accepted := true }) o.warp .st := by
  simp only [storeAckEvent, ho, hh, Bool.false_eq_true, if_false, hk, ha, Bool.not_false, if_true]

theorem storeAck_red {a : AtomKind} (hk : o.kind = .red a) (ha : o.accepted = false) :
    storeAckEvent s id = lowerCtr (setOp s { o with accepted := true }) o.warp .nm := by
  simp only [storeAckEvent, ho, hh, Bool.false_eq_true, if_false, hk, ha, Bool.not_false, if_true, acceptRed]

omit hh in
/-- What is left of an operation that its home, or the L1, has accepted. -/
theorem accepted_lowered (k : Ctr) : let t := lowerCtr (setOp s { o with accepted := true }) o.warp k
    findOp? t id = some { o with accepted := true } ∧ Lowered s t o.warp k ∧ MemoryKept s t := by
  have oid : o.id = id := findOp?_id ho
  exact ⟨findOp?_setOp (q := { o with accepted := true }) ho oid, lowered_lowerCtr k fun w hw => ⟨w, hw, rfl⟩, rfl, rfl⟩

end Stores

/-! ### Words in host memory (R141) -/

/-- Only host memory, the L1s and what is on its way, and the event recorders have changed. -/
def HostOnly (s t : State) : Prop :=
  t = { s with nextId := t.nextId, l1s := t.l1s, reqs := t.reqs, misses := t.misses, replies := t.replies, host := t.host,
               recorders := t.recorders }

theorem HostOnly.refl (s : State) : HostOnly s s := rfl

theorem HostOnly.trans {s t u : State} (h : HostOnly s t) (k : HostOnly t u) : HostOnly s u := by
  unfold HostOnly at *
  rw [k, h]

theorem hostStore_only (s : State) (a : Nat) (w : CWord) : HostOnly s (hostStore s a w) := by
  simp only [hostStore, recordIo, recordEvent]
  split
  · rfl
  · split <;> rfl

theorem storeHostWords_only (s : State) (o : Op) : HostOnly s (storeHostWords s o) := by
  have dropped : HostOnly s (dropRemote s o) := by rw [dropRemote_only]; rfl
  refine dropped.trans (foldl_frame .refl .trans (fun s x => ?_) o.words _)
  split
  · split
    · exact .refl s
    · exact hostStore_only ..
  · exact .refl s

theorem HostOnly.kept {s t : State} (h : HostOnly s t) : t.warps = s.warps ∧ t.hbm = s.hbm := by
  rw [show t = _ from h]
  exact ⟨rfl, rfl⟩

theorem storeAck_st_leaves {s : State} {id : Nat} (o : Op) :
    let t := lowerCtr (dropOp (storeHostWords (dropReplies s id) o) id) o.warp .st
    Over t id ∧ Lowered s t o.warp .st ∧ t.hbm = s.hbm := by
  obtain ⟨warps, hbm⟩ := (storeHostWords_only (dropReplies s id) o).kept
  refine ⟨over_dropOp _ _, lowered_lowerCtr .st fun w hw => ⟨w, ?_, rfl⟩, hbm⟩
  rw [← hw]
  exact congrArg (List.find? (fun w : Warp => w.uid == o.warp)) warps

end Sys2Proof.Machine
end

section
/-! SUPPORT. What an engine's write at home does: the words are in HBM, and beside them only the homes, host memory and the
event recorders have changed. -/

namespace Sys2Proof.Machine

open Sys2Proof

/-! ### Words written to a memory -/

theorem self_mem_tset {α : Type} (t : Tab α) (k : Nat) (v : α) : (k, v) ∈ tset t k v :=
  mem_of_tget? (tget?_tset_self t k v)

theorem mem_tset_of_ne {α : Type} {t : Tab α} {k : Nat} {v : α} {x : Nat × α} (h : x ∈ t) (hk : x.1 ≠ k) : x ∈ tset t k v := by
  induction t with
  | nil => cases h
  | cons e t ih =>
    simp only [tset]
    split_ifs with below same
    · exact List.mem_cons_of_mem _ h
    · rcases List.mem_cons.mp h with rfl | h
      · exact absurd same hk
      · exact List.mem_cons_of_mem _ h
    · rcases List.mem_cons.mp h with rfl | h
      · exact List.mem_cons_self
      · exact List.mem_cons_of_mem _ (ih h)

/-- After some writes a word has a value if every write to it gives that value, and there is one or it had the value. -/
theorem word_foldl_setWord_of {α : Type} {key : α → Nat} {val : α → CWord} {l : List α} {m : Mem} (hm : m.wf = true) {k : Nat}
    {v : CWord} (hv : ∀ y ∈ l, key y = k → val y = v) (h : (∃ y ∈ l, key y = k) ∨ m.word k = v) :
    (l.foldl (fun m y => m.setWord (key y) (val y)) m).word k = v := by
  induction l generalizing m with
  | nil => exact h.resolve_left (by simp)
  | cons y l ih =>
    refine ih (Mem.setWord_wf hm ..) (fun z hz => hv z (List.mem_cons_of_mem _ hz)) ?_
    by_cases hy : key y = k
    · right
      rw [Mem.word_setWord hm, if_pos hy.symm]
      exact hv y List.mem_cons_self hy
    · rcases h with ⟨z, hz, e⟩ | h
      · exact .inl ⟨z, (List.mem_cons.mp hz).resolve_left (fun e' => hy (e' ▸ e)), e⟩
      · exact .inr (by rw [Mem.word_setWord hm, if_neg (Ne.symm hy)]; exact h)

/-! ### The words of a write, line by line -/

/-- One more word among those of a write. -/
def addWord (g : List (Nat × Tab CWord × Bool)) (line j : Nat) (w : CWord) (fal : Bool) : List (Nat × Tab CWord × Bool) :=
  if g.any (fun q => q.1 == line) then g.map (fun q => if q.1 == line then (line, tset q.2.1 j w, fal) else q)
  else g ++ [(line, [(j, w)], fal)]

theorem placeLines_concat (ws : List (Place × CWord)) (p : Place × CWord) :
    placeLines (ws ++ [p]) = p.1.hbm?.elim (placeLines ws) (fun h => addWord (placeLines ws) h.1 h.2 p.2 p.1.fal) := by
  rw [placeLines, List.foldl_append]
  cases h : p.1.hbm? <;> simp only [List.foldl_cons, List.foldl_nil, h] <;> rfl

/-- A word of a group of lines. -/
def InLines (g : List (Nat × Tab CWord × Bool)) (line j : Nat) (w : CWord) : Prop := ∃ q ∈ g, q.1 = line ∧ (j, w) ∈ q.2.1

theorem addWord_self (g : List (Nat × Tab CWord × Bool)) (line j : Nat) (w : CWord) (fal : Bool) :
    InLines (addWord g line j w fal) line j w := by
  unfold addWord
  split
  · rename_i there
    obtain ⟨q, hq, hl⟩ := List.any_eq_true.mp there
    exact ⟨_, List.mem_map.mpr ⟨q, hq, if_pos hl⟩, rfl, self_mem_tset ..⟩
  · exact ⟨_, List.mem_append_right _ (List.mem_singleton.mpr rfl), rfl, List.mem_singleton.mpr rfl⟩

theorem addWord_keeps {g : List (Nat × Tab CWord × Bool)} {line j l k : Nat} {w v : CWord} (fal : Bool)
    (h : InLines g l k v) (hn : l ≠ line ∨ k ≠ j) : InLines (addWord g line j w fal) l k v := by
  obtain ⟨q, hq, rfl, hk⟩ := h
  unfold addWord
  split
  · by_cases same : q.1 = line
    · refine ⟨_, List.mem_map.mpr ⟨q, hq, if_pos (beq_iff_eq.mpr same)⟩, same.symm, mem_tset_of_ne hk ?_⟩
      exact hn.resolve_left (fun ne => ne same)
    · exact ⟨q, List.mem_map.mpr ⟨q, hq, if_neg (by simpa using same)⟩, rfl, hk⟩
  · exact ⟨q, List.mem_append_left _ hq, rfl, hk⟩

theorem inLines_addWord {g : List (Nat × Tab CWord × Bool)} {line j l k : Nat} {w v : CWord} {fal : Bool}
    (h : InLines (addWord g line j w fal) l k v) : (l = line ∧ k = j ∧ v = w) ∨ InLines g l k v := by
  obtain ⟨q, hq, rfl, hk⟩ := h
  unfold addWord at hq
  split at hq
  · obtain ⟨r, hr, rfl⟩ := List.mem_map.mp hq
    split at hk
    · rename_i same
      rcases mem_tset hk with e | hk
      · left
        rw [if_pos same]
        exact ⟨rfl, Prod.mk.inj e⟩
      · right
        rw [if_pos same]
        exact ⟨r, hr, beq_iff_eq.mp same, hk⟩
    · rename_i other
      rw [if_neg other]
      exact .inr ⟨r, hr, rfl, hk⟩
  · rcases List.mem_append.mp hq with hq | hq
    · exact .inr ⟨q, hq, rfl, hk⟩
    · obtain rfl := List.mem_singleton.mp hq
      exact .inl ⟨rfl, Prod.mk.inj (List.mem_singleton.mp hk)⟩

/-- The words of a write's lines are among those written. -/
theorem inLines_placeLines {ws : List (Place × CWord)} {l j : Nat} {v : CWord} (h : InLines (placeLines ws) l j v) :
    ∃ p ∈ ws, p.1.hbm? = some (l, j) ∧ p.2 = v := by
  induction ws using List.reverseRecOn with
  | nil => obtain ⟨q, hq, -⟩ := h; cases hq
  | append_singleton ws p ih =>
    rw [placeLines_concat] at h
    cases e : p.1.hbm? with
    | none =>
      rw [e] at h
      obtain ⟨q, hq, r⟩ := ih h
      exact ⟨q, List.mem_append_left _ hq, r⟩
    | some b =>
      rw [e] at h
      rcases inLines_addWord h with ⟨rfl, rfl, rfl⟩ | h
      · exact ⟨p, by simp, e, rfl⟩
      · obtain ⟨q, hq, r⟩ := ih h
        exact ⟨q, List.mem_append_left _ hq, r⟩

theorem hbm?_inj {p q : Place} {h : Nat × Nat} (hp : p.hbm? = some h) (hq : q.hbm? = some h) : p.pa / 4 = q.pa / 4 := by
  unfold Place.hbm? at hp hq
  split_ifs at hp hq
  obtain rfl := Option.some.inj hp
  obtain ⟨line, word⟩ := Prod.mk.inj (Option.some.inj hq)
  omega

/-- Each of the words written, if no other goes to its place, is among those of its line. -/
theorem placeLines_inLines {ws : List (Place × CWord)} (hn : (ws.map (fun p => p.1.pa / 4)).Nodup) {p : Place × CWord}
    (hp : p ∈ ws) {l j : Nat} (hh : p.1.hbm? = some (l, j)) : InLines (placeLines ws) l j p.2 := by
  induction ws using List.reverseRecOn with
  | nil => cases hp
  | append_singleton ws q ih =>
    rw [List.map_append, List.nodup_append] at hn
    obtain ⟨hn, -, apart⟩ := hn
    rw [placeLines_concat]
    rcases List.mem_append.mp hp with hp | hp
    · cases e : q.1.hbm? with
      | none => exact ih hn hp
      | some b =>
        refine addWord_keeps q.1.fal (ih hn hp) ?_
        by_contra same
        obtain ⟨rfl, rfl⟩ := not_or.mp same |>.imp not_not.mp not_not.mp
        exact apart _ (List.mem_map_of_mem hp) _ (by simp) (hbm?_inj hh e)
    · obtain rfl := List.mem_singleton.mp hp
      rw [hh]
      exact addWord_self ..

/-- No line of a write of words none of which is fallow is fallow. -/
theorem placeLines_fal {ws : List (Place × CWord)} (h : ∀ p ∈ ws, p.1.fal = false) : ∀ g ∈ placeLines ws, g.2.2 = false := by
  induction ws using List.reverseRecOn with
  | nil => intro g hg; cases hg
  | append_singleton ws q ih =>
    have earlier := ih fun p hp => h p (List.mem_append_left _ hp)
    have last := h q (by simp)
    intro g hg
    rw [placeLines_concat] at hg
    cases e : q.1.hbm? with
    | none => rw [e] at hg; exact earlier g hg
    | some b =>
      rw [e, Option.elim_some, addWord, last] at hg
      split at hg
      · obtain ⟨r, hr, rfl⟩ := List.mem_map.mp hg
        split
        · rfl
        · exact earlier r hr
      · rcases List.mem_append.mp hg with hg | hg
        · exact earlier g hg
        · obtain rfl := List.mem_singleton.mp hg
          rfl

/-! ### The write (R70, R81, R353) -/

/-- Only the homes, the memories and the event recorders have changed. -/
def MemoriesOnly (s t : State) : Prop :=
  t = { s with nextId := t.nextId, homes := t.homes, hbm := t.hbm, host := t.host, recorders := t.recorders }

theorem MemoriesOnly.refl (s : State) : MemoriesOnly s s := rfl

theorem MemoriesOnly.trans {s t u : State} (h : MemoriesOnly s t) (k : MemoriesOnly t u) : MemoriesOnly s u := by
  unfold MemoriesOnly at *
  rw [k, h]

/-- Of HBM an engine's write changes the words that it writes; those of a page that takes none it discards. -/
theorem engineWrite_leaves (s : State) (line : Nat) (ws : Tab CWord) (fal : Bool) : MemoriesOnly s (engineWrite s line ws fal) ∧
    (engineWrite s line ws fal).hbm = if fal || pageDead s (pageOfLine line) then s.hbm
      else ws.foldl (fun m p => m.setWord (32 * line + p.1) p.2) s.hbm := by
  have merged (s : State) : MemoriesOnly s (mergeLine s line ws fal) ∧
      (mergeLine s line ws fal).hbm = if fal || pageDead s (pageOfLine line) then s.hbm
        else ws.foldl (fun m p => m.setWord (32 * line + p.1) p.2) s.hbm := by
    unfold mergeLine
    split <;> exact ⟨rfl, rfl⟩
  unfold engineWrite
  dsimp only
  split
  · obtain ⟨only, hbm⟩ := merged (putEntry (sendInv s line).2 { entryOf s line with shr := 0 })
    exact ⟨MemoriesOnly.trans (t := putEntry (sendInv s line).2 { entryOf s line with shr := 0 }) rfl only, hbm⟩
  · exact merged s

theorem placeHost_leaves (s : State) (p : Place × CWord) : MemoriesOnly s (placeHost s p) ∧ (placeHost s p).hbm = s.hbm := by
  have stored (s : State) (a : Nat) (w : CWord) : MemoriesOnly s (hostStore s a w) ∧ (hostStore s a w).hbm = s.hbm := by
    simp only [hostStore, recordIo, recordEvent]
    split
    · exact ⟨rfl, rfl⟩
    · split <;> exact ⟨rfl, rfl⟩
  unfold placeHost
  split
  · exact stored ..
  · exact ⟨rfl, rfl⟩

theorem engineWrites_only (gs : List (Nat × Tab CWord × Bool)) (s : State) :
    MemoriesOnly s (gs.foldl (fun s g => engineWrite s g.1 g.2.1 g.2.2) s) :=
  foldl_frame (R := MemoriesOnly) .refl .trans (fun s g => (engineWrite_leaves s g.1 g.2.1 g.2.2).1) gs s

/-- After the lines of a write a word has a value if every write to it gives that value, and there is one in a page that takes
writes or it had the value. -/
theorem engineWrites_word {gs : List (Nat × Tab CWord × Bool)} {s : State} (hs : s.hbm.wf = true) {k : Nat} {v : CWord}
    (hf : ∀ g ∈ gs, g.2.2 = false) (hv : ∀ g ∈ gs, ∀ q ∈ g.2.1, 32 * g.1 + q.1 = k → q.2 = v)
    (h : (∃ g ∈ gs, pageDead s (pageOfLine g.1) = false ∧ ∃ q ∈ g.2.1, 32 * g.1 + q.1 = k) ∨ s.hbm.word k = v) :
    (gs.foldl (fun s g => engineWrite s g.1 g.2.1 g.2.2) s).hbm.word k = v := by
  induction gs generalizing s with
  | nil => exact h.resolve_left (by simp)
  | cons g gs ih =>
    obtain ⟨only, hbm⟩ := engineWrite_leaves s g.1 g.2.1 g.2.2
    rw [hf g List.mem_cons_self, Bool.false_or] at hbm
    have wf : (engineWrite s g.1 g.2.1 g.2.2).hbm.wf = true := by
      rw [hf g List.mem_cons_self, hbm]
      split
      · exact hs
      · exact foldl_setWord_wf _ _ _ hs
    have alive (line : Nat) : pageDead (engineWrite s g.1 g.2.1 g.2.2) (pageOfLine line) = pageDead s (pageOfLine line) := by
      rw [only]; rfl
    refine ih wf (fun r hr => hf r (List.mem_cons_of_mem _ hr)) (fun r hr => hv r (List.mem_cons_of_mem _ hr)) ?_
    simp only [alive]
    have value (there : (∃ q ∈ g.2.1, 32 * g.1 + q.1 = k) ∨ s.hbm.word k = v)
        (open_ : pageDead s (pageOfLine g.1) = false) : (engineWrite s g.1 g.2.1 g.2.2).hbm.word k = v := by
      rw [hf g List.mem_cons_self, hbm, open_, if_neg Bool.false_ne_true]
      exact word_foldl_setWord_of (key := fun q : Nat × CWord => 32 * g.1 + q.1) hs (hv g List.mem_cons_self) there
    rcases h with ⟨r, hr, open_, q, hq, e⟩ | h
    · rcases List.mem_cons.mp hr with rfl | hr
      · exact .inr (value (.inl ⟨q, hq, e⟩) open_)
      · exact .inl ⟨r, hr, open_, q, hq, e⟩
    · cases open_ : pageDead s (pageOfLine g.1) with
      | false => exact .inr (value (.inr h) open_)
      | true =>
        right
        rw [hf g List.mem_cons_self, hbm, open_]
        exact h

theorem placesWrite_only (s : State) (ws : List (Place × CWord)) : MemoriesOnly s (placesWrite s ws) :=
  (engineWrites_only ..).trans (foldl_frame (R := MemoriesOnly) .refl .trans (fun s p => (placeHost_leaves s p).1) _ _)

/-- The words of a write are in HBM, where nothing after it changes HBM. -/
theorem wrote_of_placesWrite {s t : State} {ws : List (Place × CWord)} (h : t.hbm = (placesWrite s ws).hbm) : Wrote s t ws := by
  intro hs once plain p hp low alive
  have here : ws.filterMap (fun p => (Place.here? s true p.1).map (fun q => (q, p.2))) = ws := by
    refine (List.filterMap_congr fun p hp => ?_).trans List.filterMap_some
    rw [Place.here?, (plain p hp).2]
    rfl
  have host (l : List (Place × CWord)) (r : State) : (l.foldl placeHost r).hbm = r.hbm := by
    induction l generalizing r with
    | nil => rfl
    | cons p l ih => exact (ih _).trans (placeHost_leaves r p).2
  have place : p.1.hbm? = some (p.1.pa / 128, p.1.pa / 4 % 32) := if_pos low
  rw [h, placesWrite, here, host]
  refine engineWrites_word hs (placeLines_fal fun q hq => (plain q hq).1) (fun g hg q hq e => ?_) (.inl ?_)
  · obtain ⟨r, hr, rh, rv⟩ := inLines_placeLines ⟨g, hg, rfl, hq⟩
    have rpa : r.1.pa / 4 = p.1.pa / 4 := by
      unfold Place.hbm? at rh
      split_ifs at rh
      obtain ⟨rl, rj⟩ := Prod.mk.inj (Option.some.inj rh)
      omega
    have same : r = p := List.inj_on_of_nodup_map once hr hp rpa
    rw [← rv, same]
  · obtain ⟨g, hg, line, hq⟩ := placeLines_inLines once hp place
    refine ⟨g, hg, by rw [line]; exact alive, _, hq, ?_⟩
    rw [line]
    dsimp only
    omega

/-! ### An engine's places are served (R73, R353) -/

/-- The homes, the requests and what is held at the port have changed, and partitions have got records; they keep their
queues. -/
def Served (s t : State) : Prop :=
  t = { s with nextId := t.nextId, homes := t.homes, reqs := t.reqs, partitions := t.partitions, fabHeld := t.fabHeld } ∧
    (tsorted s.partitions = true → tsorted t.partitions = true ∧ ∀ p, (getPartition t p).queues = (getPartition s p).queues)

theorem Served.refl (s : State) : Served s s := ⟨rfl, fun h => ⟨h, fun _ => rfl⟩⟩

theorem Served.trans {s t u : State} (h : Served s t) (k : Served t u) : Served s u :=
  ⟨by rw [k.1, h.1], fun hs => ⟨(k.2 (h.2 hs).1).1, fun p => ((k.2 (h.2 hs).1).2 p).trans ((h.2 hs).2 p)⟩⟩

theorem foldl_served {α : Type} {f : State → α → State} (h : ∀ s a, Served s (f s a)) (l : List α) (s : State) :
    Served s (l.foldl f s) := foldl_frame .refl .trans h l s

theorem postRec_served (s : State) (part type : Nat) (src : RecSrc) (words : List Word) :
    Served s (postRec s part type src words).2 := by
  let x : Partition := { getPartition s part with recs := (getPartition s part).recs ++ [⟨(fresh s).1, type, src, words⟩] }
  have table : (postRec s part type src words).2.partitions = tput s.partitions part x Partition.dflt := rfl
  refine ⟨rfl, fun hs => ⟨table ▸ tsorted_tput hs _ _ _, fun p => ?_⟩⟩
  rw [getPartition, table]
  by_cases e : p = part
  · rw [e, tget_tput_self hs]
  · rw [tget_tput_ne hs _ _ _ e]
    rfl

theorem ownDone_served (before : State) (who : ReqSrc) (kind : FabKind) (ps : List Place) (s : State) :
    Served s (ownDone before who kind ps s) := by
  unfold ownDone
  exact (foldl_served (fun s q => postRec_served s ..) (ownProts before kind ps) s).trans ⟨rfl, fun h => ⟨h, fun _ => rfl⟩⟩

theorem askServed_served (who : ReqSrc) (as : List Ask) (s : State) : Served s (askServed touchHome who as s) := by
  let r : State := { s with reqs := s.reqs.filter (fun r =>
    r.src != who || !as.any (fun a => a.line == r.line && (if a.write then ReqKind.wrh else .rsi) == r.kind)) }
  have left : Served s r := ⟨rfl, fun h => ⟨h, fun _ => rfl⟩⟩
  exact left.trans (foldl_served (f := fun s (a : Ask) => touchHome s a.line) (fun s a => ⟨rfl, fun h => ⟨h, fun _ => rfl⟩⟩) as r)

/-- What an engine does with places that it may have all happens. -/
theorem withAccess_served {s : State} {who : ReqSrc} {l : List (FabKind × List Place)}
    (h : ∀ p ∈ l, placesBusy s who (FabKind.writes p.1) p.2 = false) (act : State) : Served act (withAccess s who l act) := by
  have asks : (l.map (fun p => placeAsks s (FabKind.writes p.1) p.2)).flatten.any (askWaits s who) = false := by
    refine List.any_eq_false.mpr fun a ha => ?_
    obtain ⟨as, has, ha⟩ := List.mem_flatten.mp ha
    obtain ⟨p, hp, rfl⟩ := List.mem_map.mp has
    exact List.any_eq_false.mp (Bool.or_eq_false_iff.mp (h p hp)).1 a ha
  have waits : l.any (fun p => p.2.any (Place.waits s who (FabKind.writes p.1))) = false :=
    List.any_eq_false.mpr fun p hp => by rw [(Bool.or_eq_false_iff.mp (h p hp)).2]; exact Bool.false_ne_true
  unfold withAccess
  dsimp only
  rw [asks, waits, if_neg (by decide)]
  exact (foldl_served (f := fun t (p : FabKind × List Place) => ownDone s who p.1 p.2 t)
    (fun t p => ownDone_served s who p.1 p.2 t) l act).trans (askServed_served ..)

theorem withPlaces_served {s : State} {who : ReqSrc} {write : Bool} {ps : List Place} (h : placesBusy s who write ps = false)
    (act : State) : Served act (withPlaces s who write ps act) := by
  have kind : FabKind.writes (wordKind write) = write := by cases write <;> rfl
  exact withAccess_served (l := [(wordKind write, ps)]) (fun p hp => by
    obtain rfl := List.mem_singleton.mp hp
    rw [kind]
    exact h) act

end Sys2Proof.Machine
end

section
/-! PROOF. O47: what a release delivers when its wait is over, and the whole of O47. -/

namespace Sys2Proof.Machine

open Sys2Proof

/-! ### A launch record (R302, R323) -/

section Launch
variable (s : State) (w : Warp) (o : Op) (ws : List Word) (q : Nat) (d : SReg)

/-- The queue that a warp's record goes to. -/
def recordQueue : Queue := getQueue (getPartition s (partOf s w)) q

/-- The index of the record in it. -/
def recordIndex : Nat := (recordQueue s w q).tail.toNat % 2 ^ (recordQueue s w q).log

/-- The words of a record and the places of its queue that they go to. -/
def launchPlaces : List (Place × CWord) :=
  (ws.set 31 (recordTag (recordQueue s w q) (recordIndex s w q))).zipIdx.map
    (fun x => (⟨(recordQueue s w q).recordAt (recordIndex s w q) + 4 * x.2, false⟩, good x.1))

/-- The queue grown by a record. -/
def grownQueue : Queue :=
  { recordQueue s w q with tail := BitVec.ofNat 32 ((recordIndex s w q + 1) % 2 ^ (recordQueue s w q).log) }

/-- The record is in memory and the queue has grown by it. -/
def recordQueued : State :=
  let t := placesWrite s (launchPlaces s w ws q)
  setPartition t (partOf s w) (setQueue (getPartition t (partOf s w)) q (grownQueue s w q))

/-- A slot that waits for the record goes on. -/
def pastLaunch (x : Slot) : Slot := if x.block == .lnch o.id then { x with block := .none } else x

/-- The register word that the index goes to. -/
def indexLands : List (Nat × Word) := [(sKey d.toNat, BitVec.ofNat 32 (recordIndex s w q))]

/-- The index of the record has landed, and the operation is over. -/
def recordLanded : State :=
  dropOp (onWarp (landRegs (recordQueued s w ws q) w.uid (indexLands s w q d)) w.uid (fun v => v.mapSlots (pastLaunch o))) o.id

theorem appendRecord_eq (hr : (recordQueue s w q).count + 1 < 2 ^ (recordQueue s w q).log) : appendRecord s w o ws q d =
    withPlaces s (.engine o.id) true ((launchPlaces s w ws q).map (·.1)) (recordLanded s w o ws q d) := by
  unfold appendRecord
  exact if_neg (Nat.not_le.mpr hr)

theorem recordQueued_leaves : (recordQueued s w ws q).warps = s.warps ∧ (recordQueued s w ws q).teams = s.teams ∧
    (recordQueued s w ws q).store = s.store ∧
    (recordQueued s w ws q).hbm = (placesWrite s (launchPlaces s w ws q)).hbm := by
  have only := placesWrite_only s (launchPlaces s w ws q)
  unfold MemoriesOnly at only
  refine ⟨?_, ?_, ?_, rfl⟩
  all_goals
    simp only [recordQueued, setPartition]
    rw [only]

theorem recordQueued_tail (hp : tsorted s.partitions = true) (hq : tsorted (getPartition s (partOf s w)).queues = true) :
    tsorted (recordQueued s w ws q).partitions = true ∧
      getQueue (getPartition (recordQueued s w ws q) (partOf s w)) q = grownQueue s w q := by
  have same : (placesWrite s (launchPlaces s w ws q)).partitions = s.partitions := by rw [placesWrite_only s]
  have part : getPartition (placesWrite s (launchPlaces s w ws q)) (partOf s w) = getPartition s (partOf s w) := by
    rw [getPartition, same]; rfl
  have table : (recordQueued s w ws q).partitions = tput s.partitions (partOf s w)
      (setQueue (getPartition s (partOf s w)) q (grownQueue s w q)) Partition.dflt := by
    rw [recordQueued, setPartition, same, part]
  refine ⟨table ▸ tsorted_tput hp _ _ _, ?_⟩
  rw [getPartition, table, tget_tput_self hp, getQueue, setQueue, tget_tput_self hq]

variable (hw : findWarp? s w.uid = some w)
include hw

theorem recordLanded_eq : recordLanded s w o ws q d =
    dropOp (onWarp (setWarp (bankWrite (recordQueued s w ws q) (regBank s w) (indexLands s w q d))
      { w with window := windowDrop w.window ((indexLands s w q d).map (·.1)) }) w.uid (fun v => v.mapSlots (pastLaunch o))) o.id := by
  obtain ⟨warps, teams, -, -⟩ := recordQueued_leaves s w ws q
  have there : findWarp? (recordQueued s w ws q) w.uid = some w := by rw [findWarp?, warps]; exact hw
  rw [recordLanded, landRegs_eq there, regBank_of_same (w := w) rfl rfl rfl teams]

theorem recordLanded_regs : RegsGet s (recordLanded s w o ws q d) w (indexLands s w q d) := by
  obtain ⟨warps, -, store, -⟩ := recordQueued_leaves s w ws q
  let v : Warp := { w with window := windowDrop w.window ((indexLands s w q d).map (·.1)) }
  have there : findWarp? (bankWrite (recordQueued s w ws q) (regBank s w) (indexLands s w q d)) v.uid = some w := by
    rw [← hw, findWarp?, findWarp?, show (bankWrite (recordQueued s w ws q) _ _).warps = _ from warps]
  have landed := findWarp?_onWarp_self (u := w.uid) (f := fun v : Warp => v.mapSlots (pastLaunch o)) (fun _ => rfl)
    (findWarp?_setWarp_self (w := v) there)
  rw [recordLanded_eq s w o ws q d hw]
  refine regsGet_of_landed landed rfl ?_
  have banks (r t : State) (h : t.store = r.store) (b : Nat) (l : List (Nat × Word)) :
      (bankWrite t b l).store = (bankWrite r b l).store := by rw [bankWrite, bankWrite, h]
  have frame (t : State) (v : Warp) (u id : Nat) (f : Warp → Warp) : (dropOp (onWarp (setWarp t v) u f) id).store = t.store := rfl
  exact (frame ..).trans (banks s (recordQueued s w ws q) store ..)

theorem recordLanded_leaves : Over (recordLanded s w o ws q d) o.id ∧
    (recordLanded s w o ws q d).hbm = (placesWrite s (launchPlaces s w ws q)).hbm ∧
    (recordLanded s w o ws q d).partitions = (recordQueued s w ws q).partitions := by
  have frame (t : State) (v : Warp) (u id : Nat) (f : Warp → Warp) : let r := dropOp (onWarp (setWarp t v) u f) id
      r.hbm = t.hbm ∧ r.partitions = t.partitions := ⟨rfl, rfl⟩
  have banks (t : State) (b : Nat) (l : List (Nat × Word)) :
      (bankWrite t b l).hbm = t.hbm ∧ (bankWrite t b l).partitions = t.partitions := ⟨rfl, rfl⟩
  obtain ⟨-, -, -, hbm⟩ := recordQueued_leaves s w ws q
  rw [recordLanded_eq s w o ws q d hw]
  exact ⟨over_dropOp _ _, (frame ..).1.trans ((banks ..).1.trans hbm), (frame ..).2.trans (banks ..).2⟩

/-- A record goes to its queue, which grows, and its index lands. -/
theorem appendRecord_appends (hr : (recordQueue s w q).count + 1 < 2 ^ (recordQueue s w q).log)
    (hb : placesBusy s (.engine o.id) true ((launchPlaces s w ws q).map (·.1)) = false)
    (hp : tsorted s.partitions = true) (hq : tsorted (getPartition s (partOf s w)).queues = true) :
    Over (appendRecord s w o ws q d) o.id ∧ Wrote s (appendRecord s w o ws q d) (launchPlaces s w ws q) ∧
      getQueue (getPartition (appendRecord s w o ws q d) (partOf s w)) q = grownQueue s w q ∧
      RegsGet s (appendRecord s w o ws q d) w (indexLands s w q d) := by
  obtain ⟨gone, hbm, parts⟩ := recordLanded_leaves s w o ws q d hw
  obtain ⟨sorted, tail⟩ := recordQueued_tail s w ws q hp hq
  obtain ⟨only, queues⟩ := withPlaces_served hb (recordLanded s w o ws q d)
  rw [← appendRecord_eq s w o ws q d hr] at only queues
  refine ⟨?_, wrote_of_placesWrite ?_, ?_, ?_⟩
  · rw [only]; exact gone
  · rw [only]; exact hbm
  · rw [getQueue, (queues (parts ▸ sorted)).2, ← tail, getQueue, getPartition, getPartition, parts]
  · rw [only]
    exact recordLanded_regs s w o ws q d hw

end Launch

/-! ### The other releases -/

theorem mem_tiles_setTile {s : State} {w : Warp} {g : Grid} (v : Word) (h : gridOf s w = some g) :
    ∃ k, findGrid? (setTile s w v) g.uid = some k ∧ v.toNat ∈ k.tiles := by
  obtain ⟨t, ht, hg⟩ := Option.bind_eq_some_iff.mp h
  have here : findGrid? s g.uid = some g := by rw [findGrid?_uid hg]; exact hg
  simp only [setTile, h]
  split
  · rename_i there
    exact ⟨g, here, by simpa using there⟩
  · refine ⟨{ g with tiles := g.tiles ++ [v.toNat] }, ?_, by simp⟩
    rw [findGrid?_setGrid, here]
    simp

/-! ### The clauses of O47 -/

/-- A value lands: in its registers with its flags, or a bad word of it contains the gang. -/
theorem valuesLand (s : State) (id : Nat) (o : Op) (w : Warp) (ho : findOp? s id = some o) (hw : findWarp? s o.warp = some w)
    (hh : o.held = false)
    (hk : o.kind = .ld ∨ o.kind = .lds ∨ o.kind = .ldck ∨ (∃ k, o.kind = .atom k) ∨ (∃ k, o.kind = .atoms k))
    (hgot : ∀ x ∈ o.words, x.got.isSome) (htgt : ∀ x ∈ o.words, ∀ a, x.tgt ≠ .host a ∧ x.tgt ≠ .fabric a)
    (hhome : homesAnswered s id = true) :
    let fl := o.words.foldl (fun m x => m ||| x.flags) 0
    let flagged (t : State) : Prop := ∃ v, findWarp? t w.uid = some v ∧ v.flags = w.flags ||| fl ∧ (fl &&& w.trapen ≠ 0 →
      ∃ r ∈ v.reports, r.ctr = .ld ∧ r.cause = BitVec.ofNat 8 (flagCause (fl &&& w.trapen)) ∧ r.tval = fl &&& w.trapen)
    (o.kind = .ldck → Becomes (.loadValueLands id []) s (fun t => Over t id ∧ Lowered s t o.warp .ld ∧ MemoryKept s t ∧
      RegsGet s t w ((o.words.map (fun x => let v := x.got.getD (good 0)
        [(vKey o.dst x.lane, v.data), (vKey (o.dst + 1) x.lane, v.check.setWidth 32)])).flatten))) ∧
    (o.kind ≠ .ldck → (∀ x ∈ o.words, ∀ v, x.got = some v → v.isGood = true) → Becomes (.loadValueLands id []) s (fun t =>
      Over t id ∧ Lowered s t o.warp .ld ∧ MemoryKept s t ∧ flagged t ∧
      RegsGet s t w (o.words.map (fun x => (vKey (o.dst + x.j) x.lane, (x.got.getD (good 0)).data))))) ∧
    (∀ before x after v, o.kind ≠ .ldck → o.words = before ++ x :: after → x.got = some v → v.isGood = false →
      (∀ y ∈ before, ∀ u, y.got = some u → u.isGood = true) →
      let u := dropReplies s id
      exec (.loadValueLands id []) s = .next (containFrom u w v x.lane o.pc x.addr (x.pa?.bind (realPa? u)))) := by
  obtain rfl := findOp?_id ho
  have uid : w.uid = o.warp := findWarp?_uid hw
  have here : findWarp? s w.uid = some w := uid ▸ hw
  have lands : exec (.loadValueLands o.id []) s = .next (landLoad s w o) :=
    congrArg Host.Outcome.next (landEvent_lands ho hw hh hgot hk htgt hhome [])
  refine ⟨fun hc => ?_, fun hc hg => ?_, fun before x after v hc hs hx hv hb => ?_⟩
  · rw [landLoad_whole (.inl hc)] at lands
    refine ⟨_, lands, landed_over o, uid ▸ landed_lowered o here, (landed_kept o here).1, ?_⟩
    rw [← landWords_ldck hc hgot]
    exact landed_regs o here
  · rw [landLoad_whole (.inr hg)] at lands
    refine ⟨_, lands, landed_over o, uid ▸ landed_lowered o here, (landed_kept o here).1, ?_, ?_⟩
    · obtain ⟨v, hv, -, -, flags, reports⟩ := landed_warp o here
      exact ⟨v, hv, flags, fun raised => ⟨_, reports raised, rfl, rfl, rfl⟩⟩
    · rw [← landWords_plain hc hgot]
      exact landed_regs o here
  · have consumed : OpKind.consumes o.kind = true := by
      unfold OpKind.consumes
      split
      · rename_i e; exact absurd e hc
      · rfl
    rw [lands, landLoad_bad consumed hs hx hv hb]

/-- Stores reach their banks or are over, and their acceptance lowers a counter. -/
theorem storesComplete (s : State) (id : Nat) (o : Op) (ho : findOp? s id = some o) (hh : o.held = false) :
    (o.kind = .sts → o.words.any (OpWord.bankShut s) = true → exec (.storeAcknowledged id) s = .next s) ∧
    (∀ key : OpWord → Nat, o.kind = .sts → o.words.any (OpWord.bankShut s) = false → s.store.wf = true →
        (∀ y ∈ o.words, StsTarget s key y) →
      Becomes (.storeAcknowledged id) s (fun t => Over t id ∧ Lowered s t o.warp .st ∧ MemoryKept s t ∧
        ((o.words.map key).Nodup → ∀ y ∈ o.words, t.store.word (key y) = y.data))) ∧
    (o.kind = .st ∨ o.kind = .stck → ownedDone o = true → homesAnswered s id = true → o.ownLeft = [] →
      Becomes (.storeAcknowledged id) s (fun t => Over t id ∧ Lowered s t o.warp .st ∧ t.hbm = s.hbm)) ∧
    (∀ k, o.kind = .stnt ∧ k = Ctr.st ∨ (∃ a, o.kind = .red a) ∧ k = .nm → o.accepted = false →
      Becomes (.storeAcknowledged id) s (fun t => findOp? t id = some { o with accepted := true } ∧
        Lowered s t o.warp k ∧ MemoryKept s t)) := by
  refine ⟨fun hk hb => congrArg Host.Outcome.next (storeAck_shut ho hh hk hb),
    fun key hk hb hs ht => ⟨_, rfl, storeAck_sts_writes ho hh hk hb hs ht⟩, fun hk hd ha hl => ?_, fun k hk ha => ?_⟩
  · exact ⟨_, congrArg Host.Outcome.next (storeAck_st ho hh hk hd ha hl), storeAck_st_leaves o⟩
  · rcases hk with ⟨hk, rfl⟩ | ⟨⟨a, hk⟩, rfl⟩
    · exact ⟨_, congrArg Host.Outcome.next (storeAck_stnt ho hh hk ha), accepted_lowered ho .st⟩
    · exact ⟨_, congrArg Host.Outcome.next (storeAck_red ho hh hk ha), accepted_lowered ho .nm⟩

/-- Acquires take their reference and complete. -/
theorem acquiresComplete (s : State) (id : Nat) (w : Warp) (a : Acquire)
    (hw : s.warps.find? (fun w => w.acquires.any (fun a => a.id == id)) = some w) (hu : findWarp? s w.uid = some w)
    (ha : w.acquires.find? (fun a => a.id == id) = some a) (hs : tsorted s.l1s = true) :
    let dropped (t : State) : Prop := MemoryKept s t ∧ (scopeDrops s w.core a.scope = true →
      ∀ line j e, l1Word? t (domainOf s w.core) line j = some e → e.st ≠ .si)
    (a.loadsBefore = none → (∀ o, a.op = some o → Over s o) →
      (∀ f ∈ s.flying, slotBefore f.slot a.refSlot = false ∧ a.bound ≤ f.notice.id) →
      (∀ h ∈ s.homes, ∀ k ∈ h.2.decided, a.bound ≤ k.id) → Becomes (.acquireCompletes id) s (fun t => dropped t ∧
        findWarp? t w.uid = some { w with acquires := w.acquires.filter (fun b => b.id != id) })) ∧
    (∀ k, a.loadsBefore = some k → (∀ o ∈ s.ops, o.warp = w.uid → o.seq < k → o.kind.isRead = false) →
      Becomes (.acquireCompletes id) s (fun t => dropped t ∧ ∃ v b, findWarp? t w.uid = some v ∧ b ∈ v.acquires ∧
        b.id = id ∧ b.refSlot = s.slotCount ∧ b.bound = s.nextId ∧ b.loadsBefore = none)) := by
  have found (v : Warp) (hv : v.uid = w.uid) : findWarp? (acquireDrop (setWarp s v) w a.scope) w.uid = some v := by
    rw [acquireDrop_only]
    exact hv ▸ findWarp?_setWarp_self (v := w) (hv ▸ hu)
  refine ⟨fun hl ho hf hd => ?_, fun k hl ho => ?_⟩
  · exact ⟨_, congrArg Host.Outcome.next (acquireEvent_completes hw ha hl ho hf hd), acquireDrop_setWarp_drops _ w _ hs,
      found _ rfl⟩
  · obtain ⟨v, b, e, hv, mem, bid, ref, bound, loads⟩ := acquireEvent_refers hw ha hl ho
    exact ⟨_, congrArg Host.Outcome.next e, acquireDrop_setWarp_drops _ w _ hs, v, b, found v hv, mem, bid, ref, bound, loads⟩

/-- Releases deliver what they waited for. -/
theorem releasesDeliver (s : State) (id : Nat) (o : Op) (w : Warp) (ho : findOp? s id = some o)
    (hw : findWarp? s o.warp = some w) (hh : o.held = true) (hr : isResident s w = true) (hv : releaseOver s o = true) :
    (o.kind = .st ∨ o.kind = .stnt ∨ o.kind = .stck ∨ (∃ k, o.kind = .atom k) ∨ (∃ k, o.kind = .red k) →
      Becomes (.releaseWaitEnds id) s (fun t => ∃ q, findOp? t id = some q ∧ q.held = false ∧ MemoryKept s t)) ∧
    (∀ k level n lanes m, o.kind = .bar k level n lanes → findTeam? s w.team = some m →
      exec (.releaseWaitEnds id) s = .next (arriveBar (dropOp s id) m level n (popcount lanes)
        (if k = .drop then popcount lanes else 0))) ∧
    (∀ r k, o.kind = .ring r k → exec (.releaseWaitEnds id) s = .next (arriveRing (dropOp s id) w.team w.core r k)) ∧
    (∀ k, o.kind = .copy k → Becomes (.releaseWaitEnds id) s (fun t => Over t id ∧
      t.copies = s.copies.map (fun y => if y.id = k then { y with held := false } else y))) ∧
    (∀ v g, o.kind = .tflag v → gridOf s w = some g → Becomes (.releaseWaitEnds id) s (fun t => Over t id ∧
      ∃ h, findGrid? t g.uid = some h ∧ v.toNat ∈ h.tiles)) ∧
    (∀ k v, o.kind = .tlbi k → v ∈ s.invals → v.id = k → Becomes (.releaseWaitEnds id) s (fun t => Over t id ∧
      { v with walks := openWalks s v.part } ∈ t.invals)) ∧
    (∀ rel sc, o.kind = .fence rel true sc → Becomes (.releaseWaitEnds id) s (fun t => Over t id ∧ ∃ v a,
      findWarp? t w.uid = some v ∧ v.acquires = w.acquires ++ [a] ∧ a.scope = sc ∧ a.refSlot = s.slotCount)) ∧
    (∀ ws q d, o.kind = .lnch ws q d → (recordQueue s w q).count + 1 < 2 ^ (recordQueue s w q).log →
      placesBusy s (.engine id) true ((launchPlaces s w ws q).map (·.1)) = false →
      tsorted s.partitions = true → tsorted (getPartition s (partOf s w)).queues = true →
      Becomes (.releaseWaitEnds id) s (fun t => Over t id ∧ Wrote s t (launchPlaces s w ws q) ∧
        (getQueue (getPartition t (partOf s w)) q).tail =
          BitVec.ofNat 32 ((recordIndex s w q + 1) % 2 ^ (recordQueue s w q).log) ∧
        RegsGet s t w (indexLands s w q d))) := by
  obtain rfl := findOp?_id ho
  have here : findWarp? s w.uid = some w := by rw [findWarp?_uid hw]; exact hw
  have gives {t : State} (h : deliver s w o = t) : exec (.releaseWaitEnds o.id) s = .next t :=
    congrArg Host.Outcome.next ((releaseEvent_delivers ho hw hh hr hv).trans h)
  refine ⟨fun hk => ?_, fun k level n lanes m hk hm => ?_, fun r k hk => ?_, fun k hk => ?_, fun v g hk hg => ?_,
    fun k v hk hm hv => ?_, fun rel sc hk => ?_, fun ws q d hk hroom hbusy hp hq => ?_⟩
  · rcases hk with hk | hk | hk | ⟨k, hk⟩ | ⟨k, hk⟩
    · exact ⟨_, gives (by simp only [deliver, hk]), performStore_found ho w.core⟩
    · exact ⟨_, gives (by simp only [deliver, hk]), performStore_found ho w.core⟩
    · exact ⟨_, gives (by simp only [deliver, hk]), performStore_found ho w.core⟩
    · exact ⟨_, gives (by simp only [deliver, hk]), performAtomics_found ho w.core (.atomic k)⟩
    · exact ⟨_, gives (by simp only [deliver, hk]), performAtomics_found ho w.core (.reduce k)⟩
  · have team : findTeam? (dropOp s o.id) w.team = some m := hm
    exact gives (by simp only [deliver, hk, team, beq_iff_eq])
  · exact gives (by simp only [deliver, hk])
  · refine ⟨freeCopy (dropOp s o.id) k, gives (by simp only [deliver, hk]), over_dropOp _ _, ?_⟩
    simp only [freeCopy, dropOp, beq_iff_eq]
  · refine ⟨setTile (dropOp s o.id) w v, gives (by simp only [deliver, hk]), ?_, mem_tiles_setTile (s := dropOp s o.id) v hg⟩
    simp only [setTile]
    split
    · exact over_dropOp _ _
    · split <;> exact over_dropOp _ _
  · refine ⟨beginInval (dropOp s o.id) k, gives (by simp only [deliver, hk]), over_dropOp _ _, ?_⟩
    exact List.mem_map.mpr ⟨v, hm, if_pos (beq_iff_eq.mpr hv)⟩
  · refine ⟨startAcquire (dropOp s o.id) w.uid sc none none, gives (by simp only [deliver, hk, if_true]), ?_, _, _,
      findWarp?_startAcquire (s := dropOp s o.id) here sc none none, rfl, rfl, rfl⟩
    rw [startAcquire_frame]
    exact over_dropOp _ _
  · obtain ⟨gone, wrote, queue, regs⟩ := appendRecord_appends s w o ws q d here hroom hbusy hp hq
    exact ⟨_, gives (by simp only [deliver, hk]), gone, wrote, by rw [queue]; rfl, regs⟩

/-- Settles O47: each event by what it does to the operation, the acquire or the slot that it is about. -/
theorem valuesLandAndWaitsEnd : Obligations.ValuesLandAndWaitsEnd := by
  unfold Obligations.ValuesLandAndWaitsEnd
  refine ⟨valuesLand, fun s id o ho hh => ?_, acquiresComplete, ?_, ?_, ?_⟩
  · obtain ⟨shut, sts, st, accept⟩ := storesComplete s id o ho hh
    exact ⟨shut, sts, st, accept⟩
  · exact releasesDeliver
  · intro s uid n w x k hw hr hx hb ha hg
    dsimp only
    obtain rfl := findWarp?_uid hw
    refine ⟨fun he => ?_, fun he hp => ?_, fun he hu => ?_⟩
    · exact congrArg Host.Outcome.next (waitwEvent_rereads hw hr hx hb (k' := k) (by simp [he]) rfl (fun _ => rfl) ha hg)
    · exact congrArg Host.Outcome.next (waitwEvent_rereads hw hr hx hb (k' := { k with polled := s.cycle }) (by simp [he, hp]) rfl
        (fun _ => rfl) ha hg)
    · exact congrArg Host.Outcome.next (waitwEvent_rereads hw hr hx hb (k' := { k with entry := true }) (by simp [he, hu]) rfl
        (fun _ => rfl) ha hg)
  · intro s uid n w x time hw ha hx ht
    exact ⟨fun hb => ⟨_, rfl, pauseEvent_goes hw ha hx (by simp [hb, ht])⟩,
      fun m hb => ⟨_, rfl, pauseEvent_goes hw ha hx (by simp [hb, ht])⟩⟩

end Sys2Proof.Machine
end

section
/-! PROOF. O24: an exception. Its window goes to the banks, the words that it saves are read with the checks of R54, and the
handler's slot and scalars are put in place; in trap mode the warp halts instead. -/

namespace Sys2Proof.Machine

open Sys2Proof

/-! ### Errors among the words that an exception saves (R54, log 119) -/

/-- Only errors of the banks, their count and the event recorders have changed. -/
def ErrorsOnly (s t : State) : Prop := t = { s with upsets := t.upsets, mgc := t.mgc, recorders := t.recorders }

theorem ErrorsOnly.refl (s : State) : ErrorsOnly s s := rfl

theorem ErrorsOnly.trans {s t u : State} (h : ErrorsOnly s t) (k : ErrorsOnly t u) : ErrorsOnly s u := by
  unfold ErrorsOnly at *
  rw [k, h]

theorem recordEvent_errors (s : State) (die : Nat) (code : Byte) (unit : Nat) (detail : Word) :
    ErrorsOnly s (recordEvent s die code unit detail) ∧ (recordEvent s die code unit detail).upsets = s.upsets := by
  unfold recordEvent
  dsimp only
  split <;> exact ⟨rfl, rfl⟩

/-- One word's single-bit error is corrected. -/
def correctWord (w : Warp) (s : State) (k : Nat) : State :=
  if tget? s.upsets (regBank s w + k) == some false then
    recordEvent { s with upsets := terase s.upsets (regBank s w + k), mgc := { s.mgc with seccnt := sat32 s.mgc.seccnt } }
      (dieOf w.core) 0x08 w.core (BitVec.ofNat 32 (blockAddr w k))
  else s

theorem correctWords_eq (s : State) (w : Warp) (keys : List Nat) : correctWords s w keys = keys.foldl (correctWord w) s := rfl

theorem correctWord_errors (w : Warp) (s : State) (k : Nat) : ErrorsOnly s (correctWord w s k) := by
  unfold correctWord
  split
  · exact ErrorsOnly.trans (t := { s with upsets := _, mgc := _ }) rfl (recordEvent_errors ..).1
  · exact .refl s

theorem correctWords_errors (s : State) (w : Warp) (keys : List Nat) : ErrorsOnly s (correctWords s w keys) :=
  foldl_frame .refl .trans (correctWord_errors w) keys s

theorem ErrorsOnly.regBank {s t : State} (h : ErrorsOnly s t) (w : Warp) : regBank t w = regBank s w := by
  rw [h]; rfl

theorem ErrorsOnly.findWarp? {s t : State} (h : ErrorsOnly s t) (u : Nat) : findWarp? t u = findWarp? s u := by
  rw [h]; rfl

theorem correctWord_upsets {s : State} (hs : tsorted s.upsets = true) (w : Warp) (j : Nat) :
    tsorted (correctWord w s j).upsets = true ∧ ∀ k, tget? (correctWord w s j).upsets k =
      if k = regBank s w + j ∧ tget? s.upsets k = some false then none else tget? s.upsets k := by
  unfold correctWord
  split
  · rename_i single
    rw [(recordEvent_errors ..).2]
    refine ⟨tsortedFrom_terase hs _, fun k => ?_⟩
    by_cases hk : k = regBank s w + j
    · rw [hk, if_pos ⟨rfl, beq_iff_eq.mp single⟩]
      exact tget?_terase_self hs _
    · rw [if_neg (fun h => hk h.1)]
      exact tget?_terase_ne hs hk
  · rename_i other
    refine ⟨hs, fun k => (if_neg ?_).symm⟩
    rintro ⟨rfl, e⟩
    exact other (beq_iff_eq.mpr e)

/-- A single-bit error of a word that is read is gone, every other stays. -/
theorem correctWords_upsets {s : State} (hs : tsorted s.upsets = true) (w : Warp) (keys : List Nat) (k : Nat) :
    tget? (correctWords s w keys).upsets k =
      if (∃ j ∈ keys, k = regBank s w + j) ∧ tget? s.upsets k = some false then none else tget? s.upsets k := by
  rw [correctWords_eq]
  induction keys generalizing s with
  | nil => simp
  | cons j keys ih =>
    obtain ⟨sorted, value⟩ := correctWord_upsets hs w j
    rw [List.foldl_cons, ih sorted, (correctWord_errors w s j).regBank, value]
    by_cases single : tget? s.upsets k = some false
    · by_cases hk : k = regBank s w + j
      · simp [← hk, single]
      · simp [hk, single]
    · simp [single]

/-- Where no word has a single-bit error nothing is corrected. -/
theorem correctWords_clean {s : State} {w : Warp} {keys : List Nat}
    (h : ∀ j ∈ keys, tget? s.upsets (regBank s w + j) ≠ some false) : correctWords s w keys = s := by
  rw [correctWords_eq]
  induction keys with
  | nil => rfl
  | cons j keys ih =>
    have same : correctWord w s j = s := if_neg (by simpa using h j List.mem_cons_self)
    rw [List.foldl_cons, same]
    exact ih fun i hi => h i (List.mem_cons_of_mem _ hi)

/-- The first double-bit error among the saved words. -/
theorem savedError?_first {s : State} {w : Warp} {before after : List Nat} {j : Nat}
    (hl : savedKeys = before ++ j :: after) (hb : ∀ i ∈ before, tget? s.upsets (regBank s w + i) ≠ some true)
    (hj : tget? s.upsets (regBank s w + j) = some true) : savedError? s w = some j := by
  rw [savedError?, hl, List.find?_append, List.find?_eq_none.mpr fun i hi => by simpa using hb i hi]
  simp [hj]

theorem savedError?_none {s : State} {w : Warp} (h : ∀ j ∈ savedKeys, tget? s.upsets (regBank s w + j) ≠ some true) :
    savedError? s w = none :=
  List.find?_eq_none.mpr fun j hj => by simpa using h j hj


/-! ### The three ways of an exception (R350) -/

section
variable {s : State} {w : Warp} {n : Bool} {x : Slot} (size cause sub : Nat) (tval : Word)

/-- A warp whose window is in the banks. -/
abbrev emptied (w : Warp) : Warp := { w with window := [] }

theorem findWarp?_flushWindow (hw : findWarp? s w.uid = some w) : findWarp? (flushWindow s w) w.uid = some (emptied w) :=
  findWarp?_setWarp_self (s := bankWrite s (regBank s w) (windowPending w.window)) (w := emptied w) hw

/-- The state in which the handler starts: errors of the saved words corrected, the warp in trap mode, s62 and s63 written. -/
def trapEntered (s : State) (w : Warp) (n : Bool) (x : Slot) (size cause sub : Nat) (tval : Word) : State :=
  bankWrite (setWarp (correctWords (flushWindow s w) (emptied w) savedKeys)
    (trappedWarp (flushWindow s w) (emptied w) n x size (causeWord cause sub) tval)) (regBank s w) (trapScalars (emptied w) n x)

theorem enterTrap_contains (hw : findWarp? s w.uid = some w) (hx : w.slot? n = some x) (ht : w.trap = none) {k : Nat}
    (hk : savedError? (flushWindow s w) (emptied w) = some k) : enterTrap s w.uid n size cause sub tval =
      contain (flushWindow s w) (emptied w) 2 ((ones x.mask).headD 0) 0x07 x.pc (BitVec.ofNat 64 (blockAddr w k)) := by
  have free : ¬ (emptied w).trap.isSome = true := by rw [ht]; exact Bool.false_ne_true
  rw [enterTrap, hw]
  dsimp only
  rw [hx]
  dsimp only
  rw [if_neg free, hk]
  rfl

theorem enterTrap_enters (hw : findWarp? s w.uid = some w) (hx : w.slot? n = some x) (ht : w.trap = none)
    (hk : savedError? (flushWindow s w) (emptied w) = none) :
    enterTrap s w.uid n size cause sub tval = trapEntered s w n x size cause sub tval := by
  have bank (t : Warp) : regBank (setWarp (correctWords (flushWindow s w) (emptied w) savedKeys) t) (emptied w) = regBank s w :=
    (correctWords_errors (flushWindow s w) (emptied w) savedKeys).regBank w
  have free : ¬ (emptied w).trap.isSome = true := by rw [ht]; exact Bool.false_ne_true
  rw [enterTrap, hw]
  dsimp only
  rw [hx]
  dsimp only
  rw [if_neg free, hk]
  dsimp only
  rw [writeRegs, bank, trapEntered]

theorem enterTrap_doubles (hw : findWarp? s w.uid = some w) (hx : w.slot? n = some x) (ht : w.trap.isSome = true) :
    enterTrap s w.uid n size cause sub tval = stopWarp (flushWindow s w) (emptied w) 5 true
      (warpRecord (flushWindow s w) (emptied w) 0 0 false 0 0 (BitVec.ofNat 64 cause) x.pc) := by
  rw [enterTrap, hw]
  dsimp only
  rw [hx]
  dsimp only
  rw [if_pos ht]

theorem findWarp?_bankWrite (s : State) (b : Nat) (ws : List (Nat × Word)) (u : Nat) :
    findWarp? (bankWrite s b ws) u = findWarp? s u := rfl

/-- The warp in trap mode is there. -/
theorem findWarp?_trapEntered (hw : findWarp? s w.uid = some w) :
    findWarp? (trapEntered s w n x size cause sub tval) w.uid =
      some (trappedWarp (flushWindow s w) (emptied w) n x size (causeWord cause sub) tval) := by
  have found : findWarp? (correctWords (flushWindow s w) (emptied w) savedKeys) w.uid = some (emptied w) :=
    ((correctWords_errors (flushWindow s w) (emptied w) savedKeys).findWarp? w.uid).trans (findWarp?_flushWindow hw)
  rw [trapEntered, findWarp?_bankWrite]
  exact findWarp?_setWarp_self (w := trappedWarp (flushWindow s w) (emptied w) n x size (causeWord cause sub) tval) found

/-- A warp without a window reads a register word that its banks have been given, or what they held. -/
theorem regWord_bankWrite {c : State} (hs : c.store.wf = true) {v : Warp} (hv : v.window = []) (b : Nat) (ws : List (Nat × Word))
    (k : Nat) : regWord (bankWrite (setWarp c v) b ws) v b k = newest ws.reverse k (c.store.word (b + k)).data := by
  rw [regWord_eq, hv]
  exact bankWrite_word (s := setWarp c v) hs b k ws

/-- What the warp in trap mode reads in a register word: the new value of s62 and s63, else what the banks hold. -/
theorem regWord_trapEntered (hs : s.store.wf = true) (k : Nat) :
    regWord (trapEntered s w n x size cause sub tval)
      (trappedWarp (flushWindow s w) (emptied w) n x size (causeWord cause sub) tval) (regBank s w) k =
      newest (trapScalars (emptied w) n x).reverse k ((flushWindow s w).store.word (regBank s w + k)).data := by
  have store : (correctWords (flushWindow s w) (emptied w) savedKeys).store = (flushWindow s w).store := correctWords_store ..
  rw [← store]
  exact regWord_bankWrite (store ▸ flushWindow_wf hs w) rfl ..

theorem regBank_bankWrite_setWarp (c : State) (v : Warp) (b : Nat) (ws : List (Nat × Word)) (u : Warp) :
    regBank (bankWrite (setWarp c v) b ws) u = regBank c u := rfl

theorem regBank_trapEntered : regBank (trapEntered s w n x size cause sub tval)
    (trappedWarp (flushWindow s w) (emptied w) n x size (causeWord cause sub) tval) = regBank s w := by
  rw [trapEntered, regBank_bankWrite_setWarp, (correctWords_errors (flushWindow s w) (emptied w) savedKeys).regBank]
  rfl

/-- The errors of the saved words are gone, others stay. -/
theorem trapEntered_upsets (hu : tsorted (flushWindow s w).upsets = true)
    (hd : ∀ j ∈ savedKeys, tget? (flushWindow s w).upsets (regBank s w + j) ≠ some true) (k : Nat) :
    tget? (trapEntered s w n x size cause sub tval).upsets k =
      if k ∈ savedKeys.map (regBank s w + ·) then none else tget? (flushWindow s w).upsets k := by
  have sorted : tsorted (correctWords (flushWindow s w) (emptied w) savedKeys).upsets = true := by
    rw [correctWords_eq]
    exact List.foldlRecOn (motive := fun r : State => tsorted r.upsets = true) savedKeys _ hu
      fun r hr j _ => (correctWord_upsets hr (emptied w) j).1
  refine (bankWrite_upsets (s := setWarp (correctWords (flushWindow s w) (emptied w) savedKeys) _) sorted _ _ _).trans ?_
  rw [setWarp_upsets, correctWords_upsets hu]
  have bank : regBank (flushWindow s w) (emptied w) = regBank s w := rfl
  rw [bank]
  by_cases saved : k ∈ savedKeys.map (regBank s w + ·)
  · obtain ⟨j, hj, e⟩ := List.mem_map.mp saved
    have cases_ : tget? (flushWindow s w).upsets k = none ∨ tget? (flushWindow s w).upsets k = some false := by
      have := hd j hj
      rw [show regBank s w + j = k from e] at this
      match tget? (flushWindow s w).upsets k, this with
      | none, _ => exact .inl rfl
      | some false, _ => exact .inr rfl
    rw [if_pos saved]
    split
    · rfl
    · rcases cases_ with h | h
      · rw [h]; exact ite_self _
      · exact if_pos ⟨⟨j, hj, e.symm⟩, h⟩
  · rw [if_neg saved, if_neg ?_, if_neg ?_]
    · rintro ⟨⟨j, hj, e⟩, -⟩
      exact saved (List.mem_map.mpr ⟨j, hj, e.symm⟩)
    · rintro ⟨p, hp, rfl⟩
      refine saved (List.mem_map.mpr ⟨p.1, ?_, rfl⟩)
      have keys : ∀ q ∈ trapScalars (emptied w) n x, q.1 ∈ savedKeys := by
        simp [trapScalars, savedKeys]
      exact keys p hp

/-- Outside the warps, the banks, the errors and the recorders nothing has changed. -/
theorem trapEntered_only (s : State) (w : Warp) (n : Bool) (x : Slot) : trapEntered s w n x size cause sub tval =
    { s with warps := (trapEntered s w n x size cause sub tval).warps, store := (trapEntered s w n x size cause sub tval).store,
             upsets := (trapEntered s w n x size cause sub tval).upsets, mgc := (trapEntered s w n x size cause sub tval).mgc,
             recorders := (trapEntered s w n x size cause sub tval).recorders } := by
  unfold trapEntered
  rw [correctWords_errors (flushWindow s w) (emptied w) savedKeys]
  rfl

/-- A warp stopped for a double trap: it keeps its state, and the record is held. -/
theorem stopWarp_halts (hw : findWarp? s w.uid = some w) (type : Nat) (words : List Word) :
    ∃ id r, findWarp? (stopWarp s w type true words) w.uid = some { w with window := [], stop := .halted id } ∧
      r ∈ (getPartition (stopWarp s w type true words) (partOf s w)).recs ∧ r.id = id ∧ r.type = type ∧ r.words = words ∧
      MemoryKept s (stopWarp s w type true words) := by
  let p : Partition := { getPartition s (partOf s w) with
    recs := (getPartition s (partOf s w)).recs ++ [⟨s.nextId, type, .warp w.uid (s.cur.elim false (·.2)), words⟩] }
  have table : getPartition (stopWarp s w type true words) (partOf s w) = p := by
    have some_ : p ≠ Partition.dflt := fun e => by
      have := congrArg Partition.recs e
      simp [p, Partition.dflt] at this
    show tget (tput s.partitions (partOf s w) p Partition.dflt) (partOf s w) Partition.dflt = p
    rw [tput, if_neg some_, tget, tget?_tset_self]
    rfl
  refine ⟨s.nextId, ⟨s.nextId, type, .warp w.uid (s.cur.elim false (·.2)), words⟩, ?_, ?_, rfl, rfl, rfl, rfl, rfl⟩
  · have found := findWarp?_flushWindow hw
    have found' : findWarp? (postRec (flushWindow s w) (partOf s w) type (.warp w.uid (s.cur.elim false (·.2))) words).2 w.uid =
        some (emptied w) := found
    exact findWarp?_onWarp_self (f := fun v => { v with stop := .halted s.nextId }) (fun _ => rfl) found'
  · rw [table]
    exact List.mem_append_right _ (List.mem_singleton.mpr rfl)

end

/-- Settles O24: the three ways of `enterTrap`, each by what it leaves. -/
theorem exceptionsSaveAndEnterOrHalt : Obligations.ExceptionsSaveAndEnterOrHalt := by
  unfold Obligations.ExceptionsSaveAndEnterOrHalt
  refine ⟨fun s w n x size cause sub tval hw hx ht hs => ⟨fun before j after hl hb hj => ?_, fun hd => ?_⟩,
    fun s w n x size cause sub tval hw hx ht => ?_⟩
  · exact enterTrap_contains size cause sub tval hw hx ht (savedError?_first (w := emptied w) hl hb hj)
  · have enters := enterTrap_enters size cause sub tval hw hx ht (savedError?_none (w := emptied w) hd)
    dsimp only
    rw [enters]
    refine ⟨fun hu k => trapEntered_upsets size cause sub tval hu hd k, fun hn => ?_, _,
      findWarp?_trapEntered size cause sub tval hw, rfl, rfl, rfl, rfl, ?_, ?_, ?_, ?_, fun j hj => ?_, rfl, rfl, rfl, rfl, rfl, ?_, ?_⟩
    · have clean : correctWords (flushWindow s w) (emptied w) savedKeys = flushWindow s w :=
        correctWords_clean fun j hj => by
          have none_ : tget? (flushWindow s w).upsets (regBank (flushWindow s w) (emptied w) + j) = none := hn j hj
          rw [none_]; exact nofun
      rw [trapEntered, clean]
      exact ⟨rfl, rfl⟩
    · cases n <;> rfl
    · cases n <;> rfl
    · rw [scalar, regBank_trapEntered, regWord_trapEntered size cause sub tval hs]
      rfl
    · rw [scalar, regBank_trapEntered, regWord_trapEntered size cause sub tval hs]
      have other : (emptied w).slot? (!n) = w.slot? (!n) := by cases n <;> rfl
      simp only [newest, trapScalars, sKey, other]
      cases n <;> cases w.slot? (!_) <;> simp
    · rw [scalar, regBank_trapEntered, regWord_trapEntered size cause sub tval hs]
      have old : (trapScalars (emptied w) n x).reverse.find? (fun p => p.1 == sKey j) = none := by
        simp only [trapScalars, sKey, List.reverse_cons, List.reverse_nil, List.nil_append, List.find?_eq_none]
        simp
        omega
      rw [newest, old]
      rfl
    · rw [trapEntered_only]
      exact ⟨rfl, rfl⟩
    · rw [trapEntered_only]
  · obtain ⟨id, r, found, hr, rid, type, words, kept⟩ := stopWarp_halts (s := flushWindow s w) (w := emptied w)
      (findWarp?_flushWindow hw) 5 (warpRecord (flushWindow s w) (emptied w) 0 0 false 0 0 (BitVec.ofNat 64 cause) x.pc)
    dsimp only
    rw [enterTrap_doubles size cause sub tval hw hx ht]
    refine ⟨_, id, r, found, rfl, hr, rid, type, ?_, ?_, kept⟩
    · rw [words]
      exact BitVec.eq_of_toNat_eq (by simp [warpRecord, recWords, lowWord])
    · rw [words]
      rfl

end Sys2Proof.Machine
end

section
/-! PROOF. O52, first part: the least of a list by its key, and a list in the order of its keys. -/

namespace Sys2Proof.Machine

open Sys2Proof

/-! ### Keys of one length are ordered as lists -/

theorem lexLt_iff {a b : List Nat} (h : a.length = b.length) : lexLt a b = true ↔ a < b := by
  induction a generalizing b with
  | nil => cases b <;> simp_all [lexLt]
  | cons x a ih =>
    obtain _ | ⟨y, b⟩ := b
    · cases h
    · simp [lexLt, List.cons_lt_cons_iff, ih (Nat.succ.inj h)]

theorem pair_le_iff {a b c d : Nat} : [a, b] ≤ [c, d] ↔ a < c ∨ (a = c ∧ b ≤ d) := by
  rw [← not_lt]
  simp [List.cons_lt_cons_iff]
  omega

theorem single_le_iff {a b : Nat} : [a] ≤ [b] ↔ a ≤ b := by
  rw [← not_lt]
  simp [List.cons_lt_cons_iff]

theorem single_lt_iff {a b : Nat} : [a] < [b] ↔ a < b := by
  simp [List.cons_lt_cons_iff]

section
variable {α : Type} {key : α → List Nat}

theorem leastBy_eq_none {l : List α} : leastBy key l = none ↔ l = [] := by
  cases l with
  | nil => exact ⟨fun _ => rfl, fun _ => rfl⟩
  | cons x rest =>
    refine ⟨fun h => ?_, nofun⟩
    rw [leastBy] at h
    split at h
    · cases h
    · split at h <;> cases h

/-- The chosen element stands in the list; those before it have greater keys, those after it no smaller ones. -/
theorem leastBy_first (n : Nat) {l : List α} {x : α} (h : leastBy key l = some x) (hk : ∀ x, (key x).length = n) :
    ∃ before after, l = before ++ x :: after ∧ (∀ y ∈ before, key x < key y) ∧ ∀ y ∈ after, key x ≤ key y := by
  induction l generalizing x with
  | nil => cases h
  | cons a rest ih =>
    rw [leastBy] at h
    split at h
    next none_ =>
      cases h
      rw [leastBy_eq_none.mp none_]
      exact ⟨[], [], rfl, nofun, nofun⟩
    next y found =>
      obtain ⟨before, after, rfl, hb, ha⟩ := ih found
      split at h <;> rename_i lt <;> cases h
      · refine ⟨a :: before, after, rfl, fun z hz => ?_, ha⟩
        obtain rfl | hz := List.mem_cons.mp hz
        · exact (lexLt_iff ((hk _).trans (hk _).symm)).mp lt
        · exact hb z hz
      · have least : key a ≤ key y := not_lt.mp fun l => lt ((lexLt_iff ((hk _).trans (hk _).symm)).mpr l)
        refine ⟨[], before ++ y :: after, rfl, nofun, fun z hz => ?_⟩
        obtain hz | hz := List.mem_append.mp hz
        · exact least.trans (hb z hz).le
        · obtain rfl | hz := List.mem_cons.mp hz
          · exact least
          · exact least.trans (ha z hz)

theorem leastBy_least (n : Nat) {l : List α} {x : α} (h : leastBy key l = some x) (hk : ∀ x, (key x).length = n) :
    x ∈ l ∧ ∀ y ∈ l, key x ≤ key y := by
  obtain ⟨before, after, rfl, hb, ha⟩ := leastBy_first n h hk
  refine ⟨by simp, fun y hy => ?_⟩
  obtain hy | hy := List.mem_append.mp hy
  · exact (hb y hy).le
  · obtain rfl | hy := List.mem_cons.mp hy
    · exact le_rfl
    · exact ha y hy

theorem orderInsert_sorted {n : Nat} (hk : ∀ x, (key x).length = n) (x : α) {l : List α}
    (h : l.Pairwise (fun a b => key a ≤ key b)) :
    (orderInsert key x l).Perm (x :: l) ∧ (orderInsert key x l).Pairwise (fun a b => key a ≤ key b) := by
  induction l with
  | nil => exact ⟨.refl _, List.pairwise_singleton ..⟩
  | cons y rest ih =>
    obtain ⟨first, sorted⟩ := List.pairwise_cons.mp h
    obtain ⟨perm, sorted'⟩ := ih sorted
    rw [orderInsert]
    split <;> rename_i lt
    · refine ⟨(perm.cons y).trans (.swap ..), List.pairwise_cons.mpr ⟨fun z hz => ?_, sorted'⟩⟩
      obtain rfl | hz := List.mem_cons.mp (perm.mem_iff.mp hz)
      · exact ((lexLt_iff ((hk _).trans (hk _).symm)).mp lt).le
      · exact first z hz
    · have least : key x ≤ key y := not_lt.mp fun l => lt ((lexLt_iff ((hk _).trans (hk _).symm)).mpr l)
      refine ⟨.refl _, List.pairwise_cons.mpr ⟨fun z hz => ?_, h⟩⟩
      obtain rfl | hz := List.mem_cons.mp hz
      · exact least
      · exact least.trans (first z hz)

theorem orderBy_sorted (n : Nat) (l : List α) (hk : ∀ x, (key x).length = n) :
    (orderBy key l).Perm l ∧ (orderBy key l).Pairwise (fun a b => key a ≤ key b) := by
  induction l with
  | nil => exact ⟨.refl _, .nil⟩
  | cons x l ih =>
    obtain ⟨perm, sorted⟩ := ih
    obtain ⟨perm', sorted'⟩ := orderInsert_sorted hk x sorted
    exact ⟨perm'.trans (perm.cons x), sorted'⟩

theorem mem_orderBy (n : Nat) {l : List α} {x : α} (hk : ∀ x, (key x).length = n) : 
    x ∈ orderBy key l ↔ x ∈ l := (orderBy_sorted n l hk).1.mem_iff

end

theorem foldl_add_eq_sum (l : List Nat) : l.foldl (· + ·) 0 = l.sum := by
  rw [List.sum_eq_foldl]

end Sys2Proof.Machine
end

section
/-! PROOF. O52, second part: launch records. Each reason of R326 is one check, and the reason of a record is the first that it
fails. -/

namespace Sys2Proof.Machine

open Sys2Proof

/-! ### Fields (R325) -/

/-- A bit of a word as a field. -/
theorem getLsbD_iff_field (w : Word) (k : Nat) : w.getLsbD k = true ↔ w.toNat / 2 ^ k % 2 ^ (k + 1 - k) = 1 := by
  rw [BitVec.getLsbD, Nat.testBit_eq_decide_div_mod_eq, decide_eq_true_iff, Nat.add_sub_cancel_left, pow_one]

theorem recordOf_fields (ws : List Word) : RecordFields ws (recordOf ws) := by
  refine ⟨rfl, rfl, rfl, rfl, rfl, rfl, rfl, rfl, rfl, rfl, rfl, rfl, rfl, rfl, rfl, ?_, ?_, ?_, ?_, rfl, rfl, rfl, ?_, rfl, rfl,
    ?_, rfl, rfl, rfl, rfl, rfl⟩ <;> exact getLsbD_iff_field ..

/-! ### The checks (R326) -/

section
variable (s : State) (part : Nat) (q : Queue) (whole : Bool) (ws : List Word) (ctx : Bool)

/-- The check of each reason, as `recordReason` makes it. -/
def recordCheck (n : Nat) : Bool :=
  let p := getPartition s part
  let r := recordOf ws
  match n with
  | 1 => !whole || bits (rword ws 31) 22 10 != q.lap || bits (rword ws 31) 0 22 != q.head || !recordMbz ws
  | 2 => !recordLimits r
  | 3 => !recordRoles r
  | 4 => decide (983040 < LaunchRec.coreBytes r)
  | 5 => !recordCores p r
  | 6 => r.gridbar && r.saveva == 0 && decide (partRoom p r < LaunchRec.teams r)
  | 7 => r.nring != 0 && !(sowerWords? s part ctx r.ringtab r.nring).elim false (fun l => l.all ringWordOk)
  | 8 => r.dep && producerBad s part r.prod
  | 9 => r.podgrp != 0 && (podEntry? s part ctx r.podgrp).isNone
  | _ => false

/-- The first of the nine checks that fails. -/
def firstFailing (c : Nat → Bool) : Nat := ((List.range' 1 9).find? c).getD 0

theorem find?_cons_getD (c : Nat → Bool) (n : Nat) (l : List Nat) :
    ((n :: l).find? c).getD 0 = if c n then n else (l.find? c).getD 0 := by
  rw [List.find?_cons]
  cases c n <;> rfl

theorem firstFailing_first {c : Nat → Bool} (h0 : c 0 = false) (hn : ∀ n, 9 < n → c n = false) :
    firstFailing c ≤ 9 ∧ (firstFailing c = 0 → ∀ i, c i = false) ∧
      (firstFailing c ≠ 0 → c (firstFailing c) = true ∧ ∀ i < firstFailing c, c i = false) := by
  unfold firstFailing
  cases h : (List.range' 1 9).find? c with
  | none =>
    refine ⟨Nat.zero_le _, fun _ i => ?_, fun k => absurd rfl k⟩
    by_cases mem : i ∈ List.range' 1 9
    · exact Bool.eq_false_iff.mpr (List.find?_eq_none.mp h i mem)
    · rw [List.mem_range'_1] at mem
      obtain rfl | big : i = 0 ∨ 9 < i := by omega
      · exact h0
      · exact hn i big
  | some n =>
    obtain ⟨fails, mem, first⟩ := List.find?_range'_eq_some.mp h
    rw [List.mem_range'_1] at mem
    refine ⟨Nat.le_of_lt_succ mem.2, fun k => absurd k (Nat.pos_iff_ne_zero.mp mem.1), fun _ => ⟨fails, fun i hi => ?_⟩⟩
    obtain rfl | pos := Nat.eq_zero_or_pos i
    · exact h0
    · simpa using first i pos hi

theorem recordReason_eq : recordReason s part q whole ws ctx = firstFailing (recordCheck s part q whole ws ctx) := by
  unfold firstFailing
  rw [show List.range' 1 9 = [1, 2, 3, 4, 5, 6, 7, 8, 9] from rfl]
  simp only [find?_cons_getD]
  simp only [recordReason, recordCheck, decide_eq_true_eq]
  rfl

end

end Sys2Proof.Machine
end

section
/-! PROOF. O52, third part: each check of R326 says what the record's fields say. -/

namespace Sys2Proof.Machine

open Sys2Proof

section
variable {s : State} {part : Nat} {q : Queue} {whole : Bool} {ws : List Word} {ctx : Bool}

/-- R326, reason 1: a word unread, a wrong tag, or a field that must be zero. -/
theorem recordFails_one : RecordFails s part q whole ws ctx 1 ↔ recordCheck s part q whole ws ctx 1 = true := by
  simp only [RecordFails, recordCheck, recordMbz, bits, rword, wordAt, Bool.or_eq_true, Bool.not_eq_true', bne_iff_ne,
    Bool.and_eq_false_iff, List.all_eq_false, List.mem_range, beq_iff_eq, beq_eq_false_iff_ne, List.mem_cons, List.not_mem_nil,
    or_false, exists_eq_or_imp, exists_eq_left, Nat.reduceAdd, Nat.reduceSub, or_assoc, ne_eq]

/-- R325, R17: the limits, one by one. -/
theorem recordFails_two : RecordFails s part q whole ws ctx 2 ↔ recordCheck s part q whole ws ctx 2 = true := by
  simp only [RecordFails, recordCheck, recordLimits, Bool.not_eq_true', Bool.and_eq_false_iff,
    decide_eq_false_iff_not, not_le, not_lt, Nat.lt_one_iff]
  cases (recordOf ws).spread <;>
    simp only [Bool.false_eq_true, if_false, if_true, false_and, true_and, false_or, reduceCtorEq, Bool.and_eq_false_iff,
      Bool.or_eq_false_iff, decide_eq_false_iff_not, not_le, beq_eq_false_iff_ne, bne_eq_false_iff_eq, ne_eq, not_and_or,
      Nat.lt_one_iff, or_assoc, LaunchRec.teams]

/-- R326: ROLES entries of local warp indices that the team has not. -/
theorem recordFails_three : RecordFails s part q whole ws ctx 3 ↔ recordCheck s part q whole ws ctx 3 = true := by
  let per := LaunchRec.perCore (recordOf ws)
  let x := (recordOf ws).roles.toNat
  have small : x < 4 ^ 64 := (recordOf ws).roles.isLt
  have step (i : Nat) : x / 4 ^ (i + 1) = x / 4 ^ i / 4 := by rw [pow_succ, Nat.div_div_eq_div_mul]
  have check : recordCheck s part q whole ws ctx 3 = true ↔ x / 4 ^ per ≠ 0 := by
    simp only [recordCheck, recordRoles, Bool.not_eq_true', decide_eq_false_iff_not]
    rfl
  rw [check]
  show (∃ i, per ≤ i ∧ i < 64 ∧ x / 4 ^ i % 4 ≠ 0) ↔ _
  constructor
  · rintro ⟨i, hi, -, digit⟩ zero
    obtain ⟨k, rfl⟩ := Nat.exists_eq_add_of_le hi
    rw [pow_add, ← Nat.div_div_eq_div_mul, zero, Nat.zero_div] at digit
    exact digit rfl
  · intro some_
    by_contra none_
    push Not at none_
    have zero : ∀ k, per ≤ 64 - k → x / 4 ^ (64 - k) = 0 := by
      intro k
      induction k with
      | zero => exact fun _ => Nat.div_eq_of_lt small
      | succ k ih =>
        intro hk
        by_cases big : 64 ≤ k
        · rw [Nat.sub_eq_zero_of_le (Nat.le_succ_of_le big)]
          rw [Nat.sub_eq_zero_of_le big] at ih
          exact ih (by omega)
        · have digit := none_ (64 - (k + 1)) hk (by omega)
          have high := ih (by omega)
          rw [show 64 - k = 64 - (k + 1) + 1 by omega, step] at high
          omega
    by_cases big : 64 ≤ per
    · exact some_ (Nat.div_eq_of_lt (lt_of_lt_of_le small (Nat.pow_le_pow_right (by decide) big)))
    · exact some_ ((show per = 64 - (64 - per) by omega) ▸ zero (64 - per) (by omega))

theorem recordFails_four : RecordFails s part q whole ws ctx 4 ↔ recordCheck s part q whole ws ctx 4 = true :=
  (decide_eq_true_iff (p := 983040 < LaunchRec.coreBytes (recordOf ws))).symm

theorem recordFails_five : RecordFails s part q whole ws ctx 5 ↔ recordCheck s part q whole ws ctx 5 = true := by
  have same (d : Nat) : dieQuads (getPartition s part) d = quadsOnDie (getPartition s part) d := rfl
  simp only [RecordFails, recordCheck, recordCores, same]
  cases (recordOf ws).spread <;> simp

theorem recordFails_six : RecordFails s part q whole ws ctx 6 ↔ recordCheck s part q whole ws ctx 6 = true := by
  show _ ∧ _ ∧ partRoom (getPartition s part) (recordOf ws) < LaunchRec.teams (recordOf ws) ↔ _
  simp [recordCheck, and_assoc]

theorem ringWordOk_iff (w : Word) : ringWordOk w = true ↔ w.toNat < 2 ^ 15 := by
  have := w.isLt
  simp only [ringWordOk, bits, beq_iff_eq]
  omega

theorem recordFails_seven : RecordFails s part q whole ws ctx 7 ↔ recordCheck s part q whole ws ctx 7 = true := by
  simp only [RecordFails, recordCheck, Bool.and_eq_true, bne_iff_ne, Bool.not_eq_true']
  refine and_congr_right fun _ => ?_
  cases sowerWords? s part ctx (recordOf ws).ringtab (recordOf ws).nring with
  | none => simp
  | some l => simp [List.all_eq_false, ringWordOk_iff]

theorem recordFails_eight : RecordFails s part q whole ws ctx 8 ↔ recordCheck s part q whole ws ctx 8 = true := by
  have := (recordOf ws).prod.isLt
  have high : bits (recordOf ws).prod 28 4 = (recordOf ws).prod.toNat / 2 ^ 28 := by
    rw [bits]
    omega
  simp only [RecordFails, recordCheck, producerBad, Bool.and_eq_true, Bool.or_eq_true, bne_iff_ne, high]
  refine and_congr_right fun _ => or_congr_right ?_
  cases producerOf s part (recordOf ws).prod <;> simp

theorem recordFails_nine : RecordFails s part q whole ws ctx 9 ↔ recordCheck s part q whole ws ctx 9 = true := by
  simp [RecordFails, recordCheck]

theorem recordFails_iff (n : Nat) : RecordFails s part q whole ws ctx n ↔ recordCheck s part q whole ws ctx n = true :=
  match n with
  | 0 => ⟨False.elim, nofun⟩
  | 1 => recordFails_one
  | 2 => recordFails_two
  | 3 => recordFails_three
  | 4 => recordFails_four
  | 5 => recordFails_five
  | 6 => recordFails_six
  | 7 => recordFails_seven
  | 8 => recordFails_eight
  | 9 => recordFails_nine
  | _ + 10 => ⟨False.elim, nofun⟩

theorem recordReason_first : recordReason s part q whole ws ctx ≤ 9 ∧
    (recordReason s part q whole ws ctx = 0 → ∀ i, ¬ RecordFails s part q whole ws ctx i) ∧
    (recordReason s part q whole ws ctx ≠ 0 → RecordFails s part q whole ws ctx (recordReason s part q whole ws ctx) ∧
      ∀ i < recordReason s part q whole ws ctx, ¬ RecordFails s part q whole ws ctx i) := by
  simp only [recordFails_iff, recordReason_eq, Bool.not_eq_true]
  refine firstFailing_first rfl fun n hn => ?_
  obtain ⟨k, rfl⟩ := Nat.exists_eq_add_of_lt hn
  rw [show 9 + k + 1 = k + 10 by omega]
  rfl

end

/-! ### Room (R326, R328) -/

/-- A team that fits keeps fitting however many are asked for. -/
theorem storeRoom_le (rs : List (Nat × Nat)) (r : LaunchRec) (k : Nat) : storeRoom rs r k ≤ k := by
  induction k generalizing rs with
  | zero => exact Nat.le_refl 0
  | succ k ih =>
    rw [storeRoom]
    split
    · exact Nat.zero_le _
    · exact Nat.add_comm k 1 ▸ Nat.add_le_add_left (ih _) 1

theorem storeRoom_min {j k : Nat} (rs : List (Nat × Nat)) (r : LaunchRec) (h : j ≤ k) :
    storeRoom rs r j = min j (storeRoom rs r k) := by
  induction j generalizing rs k with
  | zero => exact (Nat.zero_min _).symm
  | succ j ih =>
    obtain ⟨k, rfl⟩ : ∃ m, k = m + 1 := ⟨k - 1, by omega⟩
    rw [storeRoom, storeRoom]
    split
    · rfl
    · rw [ih _ (Nat.le_of_succ_le_succ h)]
      omega

/-- What `n` teams of a launch take of a core (R328). -/
def FitsCore (r : LaunchRec) (n : Nat) : Prop :=
  n * LaunchRec.perCore r ≤ 64 ∧ n * r.acc ≤ 32 ∧ n * r.nring ≤ 32 ∧ storeRoom [] r n = n

theorem perCore_pos {r : LaunchRec} (h : recordLimits r = true) : 0 < LaunchRec.perCore r := by
  simp only [recordLimits, Bool.and_eq_true] at h
  obtain ⟨⟨⟨⟨⟨⟨⟨⟨⟨⟨⟨⟨⟨⟨-, size⟩, -⟩, -⟩, -⟩, -⟩, -⟩, -⟩, -⟩, -⟩, -⟩, -⟩, -⟩, -⟩, -⟩ := h
  rw [LaunchRec.perCore, LaunchRec.cores]
  split at size <;> rename_i spread <;> simp at size
  · rw [if_pos spread]
    exact Nat.div_pos (Nat.le_of_dvd (by omega) (Nat.dvd_of_mod_eq_zero size.1.2)) (by omega)
  · rw [if_neg spread, Nat.div_one]
    omega

/-- A share of a number of units; all where none is taken. -/
theorem le_share_iff {n each total : Nat} (top : n ≤ 64) :
    n ≤ (if each == 0 then 64 else if each == 0 then total else total / each) ↔ n * each ≤ total := by
  by_cases zero : each = 0
  · simp [zero, top]
  · simp [zero, Nat.le_div_iff_mul_le (Nat.pos_of_ne_zero zero)]

theorem fitsCore_iff {r : LaunchRec} (h : recordLimits r = true) (n : Nat) : FitsCore r n ↔ n ≤ coreRoom r := by
  have pos := perCore_pos h
  let each (total each : Nat) : Nat := if each == 0 then 64 else if each == 0 then total else total / each
  let m := Nat.min (64 / LaunchRec.perCore r) (Nat.min (each 32 r.acc) (each 32 r.nring))
  have room : coreRoom r = storeRoom [] r m := rfl
  have units : n * LaunchRec.perCore r ≤ 64 ∧ n * r.acc ≤ 32 ∧ n * r.nring ≤ 32 ↔ n ≤ m := by
    show _ ↔ n ≤ min _ (min _ _)
    rw [le_min_iff, le_min_iff, Nat.le_div_iff_mul_le pos]
    refine and_congr_right fun hn => ?_
    have top : n ≤ 64 := (Nat.le_mul_of_pos_right n pos).trans hn
    exact and_congr (le_share_iff top).symm (le_share_iff top).symm
  rw [room]
  constructor
  · rintro ⟨hw, ha, hr, fits⟩
    have hm := units.mp ⟨hw, ha, hr⟩
    have := storeRoom_min [] r hm
    omega
  · intro hn
    have hm : n ≤ m := hn.trans (storeRoom_le ..)
    obtain ⟨hw, ha, hr⟩ := units.mpr hm
    exact ⟨hw, ha, hr, (storeRoom_min [] r hm).trans (Nat.min_eq_left hn)⟩

theorem coreRoom_most {r : LaunchRec} (h : recordLimits r = true) : FitsCore r (coreRoom r) ∧ ¬ FitsCore r (coreRoom r + 1) := by
  rw [fitsCore_iff h, fitsCore_iff h]
  exact ⟨Nat.le_refl _, Nat.not_succ_le_self _⟩

theorem partRoom_eq (p : Partition) (r : LaunchRec) : partRoom p r =
    ((List.range 4).map (fun d => (if r.spread then dieQuads p d / (r.c / 4) else dieQuads p d) *
      let n := if r.spread then coreRoom r else 4 * coreRoom r
      if r.nbar = 0 then n else min n (64 / r.nbar))).sum := by
  rw [partRoom, foldl_add_eq_sum]
  simp only [quadRoom, beq_iff_eq]
  rfl

/-! ### Pod-group entries (R340) -/

theorem podEntry?_iff (s : State) (part : Nat) (ctx : Bool) (g rank np : Nat) :
    podEntry? s part ctx g = some (rank, np) ↔ ∃ ws d,
      sowerWords? s part ctx ((getPartition s part).pgbase + BitVec.ofNat 64 (16 * g)) 3 = some ws ∧
      let va := dwordAt ws 1 + BitVec.ofNat 64 (2 * rank)
      (wordAt ws 0).getLsbD 31 = true ∧ rank = (wordAt ws 0).toNat / 2 ^ 16 % 2 ^ 11 ∧ np = (wordAt ws 0).toNat % 2 ^ 11 ∧
      rank < np ∧ va.toNat % 2 = 0 ∧ sowerWord? s part ctx (wordVa va) = some d ∧
      d.toNat / 2 ^ (8 * (va.toNat % 4)) % 2 ^ 16 = part * 1024 + Config.device.toNat := by
  rw [podEntry?]
  cases sowerWords? s part ctx ((getPartition s part).pgbase + BitVec.ofNat 64 (16 * g)) 3 with
  | none => simp
  | some ws =>
    simp only [Option.some.injEq, existsAndEq, true_and]
    let own := bits (wordAt ws 0) 16 11
    let va := dwordAt ws 1 + BitVec.ofNat 64 (2 * own)
    show (if (!(wordAt ws 0).getLsbD 31 || decide (bits (wordAt ws 0) 0 11 ≤ own) || va.toNat % 2 != 0) = true then none
      else match sowerWord? s part ctx (wordVa va) with
      | none => none
      | some d => if (bits d (8 * (va.toNat % 4)) 16 == part * 1024 + Config.device.toNat) = true then
          some (own, bits (wordAt ws 0) 0 11) else none) = _ ↔ _
    have members : bits (wordAt ws 0) 0 11 = (wordAt ws 0).toNat % 2 ^ 11 := by rw [bits, pow_zero, Nat.div_one]
    split
    next bad =>
      refine ⟨nofun, ?_⟩
      rintro ⟨d, valid, rfl, rfl, less, even, -⟩
      have even' : va.toNat % 2 = 0 := even
      have less' : own < bits (wordAt ws 0) 0 11 := members ▸ less
      rw [valid, even', decide_eq_false (Nat.not_le.mpr less')] at bad
      cases bad
    next fine =>
      simp only [Bool.not_eq_true, Bool.or_eq_false_iff, Bool.not_eq_false', decide_eq_false_iff_not, Nat.not_le,
        bne_eq_false_iff_eq] at fine
      obtain ⟨⟨valid, less⟩, even⟩ := fine
      split
      next none_ =>
        refine ⟨nofun, ?_⟩
        rintro ⟨d, -, rfl, -, -, -, read, -⟩
        rw [show sowerWord? s part ctx (wordVa va) = some d from read] at none_
        cases none_
      next d read =>
        constructor
        · intro h
          split at h
          next names =>
            obtain ⟨hr, hn⟩ := Prod.mk.inj (Option.some.inj h)
            subst hr hn
            exact ⟨d, valid, rfl, members, less, even, read, beq_iff_eq.mp names⟩
          next => cases h
        · rintro ⟨d', -, rfl, rfl, -, -, read', names⟩
          cases read.symm.trans read'
          exact (if_pos (beq_iff_eq.mpr names)).trans (by rw [members]; rfl)

end Sys2Proof.Machine
end

section
/-! PROOF. O52, fourth part: the queue whose turn it is, and the taking of its head record. -/

namespace Sys2Proof.Machine

open Sys2Proof

/-! ### The queue whose turn it is (R324) -/

theorem mayTake_iff (s : State) (part qn : Nat) : QueueReady s part qn ↔ qn < 64 ∧ mayTake s part qn = true := by
  let q := getQueue (getPartition s part) qn
  let group := (wordAt ((headRecord s q).map (·.data)) 14).toNat / 2 ^ 8 % 256
  have take : mayTake s part qn = (q.en && q.count != 0 &&
    s.grids.all (fun g => g.part != part || g.queue != qn || (!q.ser && g.allPlaced)) &&
    s.grids.all (fun g => g.part != part || group == 0 || g.r.podgrp != group) &&
    (group == 0 || !s.pods.any (fun d => d.part == part && d.group == group))) := rfl
  have ready : QueueReady s part qn ↔ qn < 64 ∧ q.en = true ∧ q.count ≠ 0 ∧
    (∀ g ∈ s.grids, g.part = part → g.queue = qn → q.ser = false ∧ g.allPlaced = true) ∧
    (group ≠ 0 → (∀ g ∈ s.grids, g.part = part → g.r.podgrp ≠ group) ∧ ∀ d ∈ s.pods, ¬ (d.part = part ∧ d.group = group)) :=
    Iff.rfl
  rw [take, ready]
  refine and_congr_right fun _ => ?_
  have own : s.grids.all (fun g => g.part != part || g.queue != qn || (!q.ser && g.allPlaced)) = true ↔
      ∀ g ∈ s.grids, g.part = part → g.queue = qn → q.ser = false ∧ g.allPlaced = true := by
    refine List.all_eq_true.trans (forall₂_congr fun g _ => ?_)
    simp only [Bool.or_eq_true, bne_iff_ne, Bool.and_eq_true, Bool.not_eq_true', ne_eq, imp_iff_not_or, or_assoc]
  simp only [Bool.and_eq_true, own, bne_iff_ne, and_assoc]
  refine and_congr_right fun _ => and_congr_right fun _ => and_congr_right fun _ => ?_
  by_cases none_ : group = 0 <;> simp [none_, imp_iff_not_or]

theorem headPrio_le (s : State) (part qn : Nat) : headPrio s part qn ≤ 3 :=
  Nat.le_of_lt_succ (Nat.mod_lt _ (by decide))

theorem prio_order {a b t u : Nat} (ha : a ≤ 3) (hb : b ≤ 3) (h : 3 - a < 3 - b ∨ (3 - a = 3 - b ∧ t ≤ u)) :
    b < a ∨ (b = a ∧ t ≤ u) := by omega

theorem chooseQueue_turn (s : State) (part : Nat) : (chooseQueue s part = none → ∀ q, ¬ QueueReady s part q) ∧
    ∀ q, chooseQueue s part = some q →
    let turn (q : Nat) : Nat := (q + 63 - (getPartition s part).lastQueue) % 64
    QueueReady s part q ∧ ∀ j, QueueReady s part j → headPrio s part j < headPrio s part q ∨
      (headPrio s part j = headPrio s part q ∧ turn q ≤ turn j) := by
  have mem (q : Nat) : q ∈ (List.range 64).filter (mayTake s part) ↔ QueueReady s part q := by
    rw [List.mem_filter, List.mem_range, mayTake_iff]
  refine ⟨fun h q hq => ?_, fun q h => ?_⟩
  · have empty := (mem q).mpr hq
    rw [leastBy_eq_none.mp h] at empty
    exact List.not_mem_nil empty
  · intro turn
    obtain ⟨hq, least⟩ := leastBy_least 2 h fun _ => rfl
    refine ⟨(mem q).mp hq, fun j hj => ?_⟩
    exact prio_order (headPrio_le s part q) (headPrio_le s part j) (pair_le_iff.mp (least j ((mem j).mpr hj)))

/-! ### The taking of a record (R323, R324) -/

section
variable (s : State) (part qn : Nat) (image : List (Nat × Word))

/-- The reason of a queue's head record. -/
def headReason : Nat :=
  let q := getQueue (getPartition s part) qn
  recordReason s part q ((headRecord s q).all CWord.isGood) ((headRecord s q).map (·.data)) (launchCtx s part)

theorem joinPod_leaves (u : State) (group id total : Nat) (e : Option (Nat × Nat)) :
    (e.elim u (joinPod u part group id total)).grids = u.grids ∧
      (e.elim u (joinPod u part group id total)).partitions = u.partitions ∧
      MemoryKept u (e.elim u (joinPod u part group id total)) := by
  cases e <;> exact ⟨rfl, rfl, rfl, rfl⟩

/-- A queue's record has become a grid, its head has moved on, and memory is as it was. -/
theorem takeHead_takes :
    let q := getQueue (getPartition s part) qn
    let t := takeHead s part qn image
    (∃ g, t.grids = s.grids ++ [g] ∧ g.r = recordOf ((headRecord s q).map (·.data)) ∧
      g.launch = BitVec.ofNat 32 (part * 2 ^ 28 + qn * 2 ^ 22 + q.head) ∧ g.part = part ∧ g.queue = qn ∧
      g.reason = headReason s part qn ∧ g.failed = (if headReason s part qn = 0 then none else some 1) ∧ g.nextTeam = 0) ∧
    t.partitions = tput s.partitions part { setQueue (getPartition s part) qn q.advance with lastQueue := qn } Partition.dflt ∧
    MemoryKept s t := by
  have failed : (if headReason s part qn == 0 then none else some 1 : Option Nat) =
      if headReason s part qn = 0 then none else some 1 := by simp only [beq_iff_eq]
  unfold takeHead
  dsimp only
  split
  · exact ⟨⟨_, rfl, rfl, rfl, rfl, rfl, rfl, failed, rfl⟩, rfl, rfl, rfl⟩
  · obtain ⟨grids, table, kept⟩ := joinPod_leaves part _ _ _ _ _
    exact ⟨⟨_, grids, rfl, rfl, rfl, rfl, rfl, failed, rfl⟩, table, kept⟩

theorem takeRecord_takes (he : (getPartition s part).en = true) (hq : chooseQueue s part = some qn)
    (hw : ∀ p ∈ headOwn s part qn, Place.waits s (.engine 0) false p = false) :
    takeRecord s part image = ownDone s (.engine 0) (.read 1) (headOwn s part qn) (takeHead s part qn image) := by
  have free : ¬ (headOwn s part qn).any (Place.waits s (.engine 0) false) = true := by
    simpa using hw
  unfold takeRecord
  rw [he, hq]
  exact if_neg free

end

theorem Served.memoryKept {r s t : State} (h : Served s t) (k : MemoryKept r s) : MemoryKept r t := by
  rw [h.1]
  exact k

theorem launchRecordTaken_becomes (s : State) (part : Nat) (image : List (Nat × Word)) (qn : Nat)
    (he : (getPartition s part).en = true) (hq : chooseQueue s part = some qn) (hp : tsorted s.partitions = true)
    (hs : tsorted (getPartition s part).queues = true)
    (hw : ∀ p ∈ headOwn s part qn, Place.waits s (.engine 0) false p = false) :
    let q := getQueue (getPartition s part) qn
    let words := (headRecord s q).map (·.data)
    let reason := recordReason s part q ((headRecord s q).all CWord.isGood) words (launchCtx s part)
    Becomes (.launchRecordTaken part image) s (fun t => (∃ g, t.grids = s.grids ++ [g] ∧ g.r = recordOf words ∧
      g.launch = BitVec.ofNat 32 (part * 2 ^ 28 + qn * 2 ^ 22 + q.head) ∧ g.part = part ∧ g.queue = qn ∧
      g.reason = reason ∧ g.failed = (if reason = 0 then none else some 1) ∧ g.nextTeam = 0) ∧
      getQueue (getPartition t part) qn = q.advance ∧ MemoryKept s t) := by
  obtain ⟨⟨g, grids, fields⟩, table, kept⟩ := takeHead_takes s part qn image
  have served := ownDone_served s (.engine 0) (.read 1) (headOwn s part qn) (takeHead s part qn image)
  refine ⟨takeRecord s part image, rfl, ?_⟩
  rw [takeRecord_takes s part qn image he hq hw]
  refine ⟨⟨g, by rw [served.1]; exact grids, fields⟩, ?_, served.memoryKept kept⟩
  have sorted : tsorted (takeHead s part qn image).partitions = true := table ▸ tsorted_tput hp _ _ _
  rw [getQueue, (served.2 sorted).2, getPartition, table, tget_tput_self hp]
  exact tget_tput_self hs ..

end Sys2Proof.Machine
end

section
/-! PROOF. O52, fifth part: the teams that wait for placement, their order, and the first that has a place. -/

namespace Sys2Proof.Machine

open Sys2Proof

/-! ### Candidates (R329) -/

/-- The teams of a grid to launch again, by TEAMLIN. -/
def relaunchCands (g : Grid) : List Cand :=
  orderBy (fun c => [c.lin]) (g.relaunches.map (fun x => x.teams.map (fun t => Cand.mk g t (some x)))).flatten

/-- The next team of a grid that was never placed. -/
def freshCand (s : State) (g : Grid) : Option Cand := (nextReady s g).map (fun t => Cand.mk g t none)

/-- The grids of a partition of one priority. -/
def gridsAt (s : State) (part prio : Nat) : List Grid :=
  (s.grids.filter (fun g => g.part == part && g.failed.isNone)).filter (fun g => g.r.prio == prio)

/-- The candidates of one priority. -/
def candidatesAt (s : State) (part prio : Nat) : List Cand :=
  (((gridsAt s part prio).map relaunchCands).flatten ++ (gridsAt s part prio).filterMap (freshCand s)).filter
    (fun c => nextIn s c.grid c.lin)

theorem candidates_eq (s : State) (part : Nat) : candidates s part = ([3, 2, 1, 0].map (candidatesAt s part)).flatten := rfl

theorem mem_gridsAt {s : State} {part prio : Nat} {g : Grid} :
    g ∈ gridsAt s part prio ↔ g ∈ s.grids ∧ g.part = part ∧ g.failed = none ∧ g.r.prio = prio := by
  simp only [gridsAt, List.mem_filter, Bool.and_eq_true, beq_iff_eq, Option.isNone_iff_eq_none, and_assoc]

theorem mem_relaunchCands {g : Grid} {c : Cand} :
    c ∈ relaunchCands g ↔ c.grid = g ∧ ∃ x ∈ g.relaunches, c.relaunch = some x ∧ c.lin ∈ x.teams := by
  obtain ⟨h, lin, x⟩ := c
  rw [relaunchCands, mem_orderBy 1 fun _ => rfl]
  simp only [List.mem_flatten, List.mem_map, exists_exists_and_eq_and, Cand.mk.injEq]
  constructor
  · rintro ⟨x, hx, t, ht, rfl, rfl, rfl⟩
    exact ⟨rfl, x, hx, rfl, ht⟩
  · rintro ⟨rfl, x, hx, rfl, ht⟩
    exact ⟨x, hx, lin, ht, rfl, rfl, rfl⟩

theorem freshCand_eq_some {s : State} {g : Grid} {c : Cand} :
    freshCand s g = some c ↔ c.grid = g ∧ c.relaunch = none ∧ nextReady s g = some c.lin := by
  obtain ⟨h, lin, x⟩ := c
  rw [freshCand, Option.map_eq_some_iff]
  constructor
  · rintro ⟨t, ht, e⟩
    cases e
    exact ⟨rfl, rfl, ht⟩
  · rintro ⟨rfl, rfl, ht⟩
    exact ⟨lin, ht, rfl⟩

/-- Where a candidate comes from: a relaunch of its grid, or the grid's next team. -/
def CandSource (s : State) (c : Cand) : Prop :=
  match c.relaunch with
  | some x => x ∈ c.grid.relaunches ∧ c.lin ∈ x.teams
  | none => nextReady s c.grid = some c.lin

theorem candSource_iff {s : State} {c : Cand} :
    CandSource s c ↔ (∃ x ∈ c.grid.relaunches, c.relaunch = some x ∧ c.lin ∈ x.teams) ∨
      (c.relaunch = none ∧ nextReady s c.grid = some c.lin) := by
  obtain ⟨g, lin, _ | x⟩ := c <;> simp [CandSource]

theorem mem_candidatesAt {s : State} {part prio : Nat} {c : Cand} : c ∈ candidatesAt s part prio ↔
    c.grid ∈ gridsAt s part prio ∧ CandSource s c ∧ nextIn s c.grid c.lin = true := by
  rw [candidatesAt, List.mem_filter, List.mem_append, candSource_iff, ← and_assoc, and_congr_left_iff]
  intro _
  simp only [List.mem_flatten, List.mem_map, exists_exists_and_eq_and, mem_relaunchCands, List.mem_filterMap, freshCand_eq_some]
  constructor
  · rintro (⟨g, hg, rfl, x⟩ | ⟨g, hg, rfl, x⟩)
    · exact ⟨hg, .inl x⟩
    · exact ⟨hg, .inr x⟩
  · rintro ⟨hg, x | x⟩
    · exact .inl ⟨_, hg, rfl, x⟩
    · exact .inr ⟨_, hg, rfl, x⟩

theorem mem_candidates {s : State} {part : Nat} {c : Cand} : c ∈ candidates s part ↔ c.grid ∈ s.grids ∧ c.grid.part = part ∧
    c.grid.failed = none ∧ c.grid.r.prio ≤ 3 ∧ nextIn s c.grid c.lin = true ∧ CandSource s c := by
  rw [candidates_eq]
  simp only [List.mem_flatten, List.mem_map, exists_exists_and_eq_and, mem_candidatesAt, mem_gridsAt]
  constructor
  · rintro ⟨prio, hp, ⟨hg, part, failed, rfl⟩, source, next⟩
    have top : c.grid.r.prio ≤ 3 := by
      simp only [List.mem_cons, List.not_mem_nil, or_false] at hp
      omega
    exact ⟨hg, part, failed, top, next, source⟩
  · rintro ⟨hg, part, failed, top, next, source⟩
    refine ⟨c.grid.r.prio, ?_, ⟨hg, part, failed, rfl⟩, source, next⟩
    simp only [List.mem_cons, List.not_mem_nil, or_false]
    omega

/-! ### Their order -/

/-- Distinct elements stand in the order of their places. -/
theorem pairwise_idxOf {α : Type} [DecidableEq α] {l : List α} (h : l.Nodup) : l.Pairwise (fun a b => l.idxOf a < l.idxOf b) := by
  rw [List.pairwise_iff_getElem]
  intro i j hi hj less
  rwa [h.idxOf_getElem, h.idxOf_getElem]

theorem gridsAt_pairwise {s : State} (h : (s.grids.map (·.uid)).Nodup) (part prio : Nat) :
    (gridsAt s part prio).Pairwise (fun a b => s.grids.idxOf a < s.grids.idxOf b) :=
  ((pairwise_idxOf h.of_map).filter _).filter _

theorem relaunchCands_pairwise (s : State) (g : Grid) : (relaunchCands g).Pairwise (CandBefore s) := by
  refine (List.pairwise_iff_forall_sublist.mpr fun {a b} sub => ?_)
  have ha := mem_relaunchCands.mp (sub.subset List.mem_cons_self)
  have hb := mem_relaunchCands.mp (sub.subset (List.mem_cons_of_mem _ List.mem_cons_self))
  obtain ⟨ga, x, -, ra, -⟩ := ha
  obtain ⟨gb, y, -, rb, -⟩ := hb
  have sorted := (orderBy_sorted (key := fun c : Cand => [c.lin]) 1
    (g.relaunches.map (fun x => x.teams.map (fun t => Cand.mk g t (some x)))).flatten fun _ => rfl).2
  have least := single_le_iff.mp (List.pairwise_iff_forall_sublist.mp sorted sub)
  exact .inr ⟨by rw [ga, gb], .inr ⟨by rw [ra, rb]; rfl, .inr ⟨by rw [ga, gb], least⟩⟩⟩

theorem candidatesAt_pairwise {s : State} (h : (s.grids.map (·.uid)).Nodup) (part prio : Nat) :
    (candidatesAt s part prio).Pairwise (CandBefore s) := by
  have grids := gridsAt_pairwise h part prio
  have prios {g : Grid} (hg : g ∈ gridsAt s part prio) : g.r.prio = prio := (mem_gridsAt.mp hg).2.2.2
  refine List.Pairwise.filter _ (List.pairwise_append.mpr ⟨List.pairwise_flatten.mpr ⟨?_, ?_⟩, ?_, ?_⟩)
  · intro l hl
    obtain ⟨g, -, rfl⟩ := List.mem_map.mp hl
    exact relaunchCands_pairwise s g
  · refine List.pairwise_map.mpr (grids.imp_of_mem fun {g k} hg hk less a ha b hb => ?_)
    obtain ⟨rfl, x, -, ra, -⟩ := mem_relaunchCands.mp ha
    obtain ⟨rfl, y, -, rb, -⟩ := mem_relaunchCands.mp hb
    exact .inr ⟨by rw [prios hg, prios hk], .inr ⟨by rw [ra, rb]; rfl, .inl less⟩⟩
  · refine List.pairwise_filterMap.mpr (grids.imp_of_mem fun {g k} hg hk less a ha b hb => ?_)
    obtain ⟨rfl, ra, -⟩ := freshCand_eq_some.mp ha
    obtain ⟨rfl, rb, -⟩ := freshCand_eq_some.mp hb
    exact .inr ⟨by rw [prios hg, prios hk], .inr ⟨by rw [ra, rb], .inl less⟩⟩
  · intro a ha b hb
    obtain ⟨l, hl, ha⟩ := List.mem_flatten.mp ha
    obtain ⟨g, hg, rfl⟩ := List.mem_map.mp hl
    obtain ⟨rfl, x, -, ra, -⟩ := mem_relaunchCands.mp ha
    obtain ⟨k, hk, hb⟩ := List.mem_filterMap.mp hb
    obtain ⟨rfl, rb, -⟩ := freshCand_eq_some.mp hb
    exact .inr ⟨by rw [prios hg, prios hk], .inl ⟨by rw [ra]; rfl, rb⟩⟩

theorem candidates_pairwise {s : State} (h : (s.grids.map (·.uid)).Nodup) (part : Nat) :
    (candidates s part).Pairwise (CandBefore s) := by
  rw [candidates_eq]
  refine List.pairwise_flatten.mpr ⟨fun l hl => ?_, List.pairwise_map.mpr ?_⟩
  · obtain ⟨prio, -, rfl⟩ := List.mem_map.mp hl
    exact candidatesAt_pairwise h part prio
  · have falling : [3, 2, 1, 0].Pairwise (fun a b : Nat => b < a) := by decide
    refine falling.imp fun less a ha b hb => .inl ?_
    rw [(mem_gridsAt.mp (mem_candidatesAt.mp ha).1).2.2.2, (mem_gridsAt.mp (mem_candidatesAt.mp hb).1).2.2.2]
    exact less

/-! ### The first that has a place -/

/-- The cores that none of some candidates could use. -/
def leftCores (s : State) (before : List Cand) (allowed : List Nat) : List Nat :=
  allowed.filter (fun x => before.all (fun e => !(couldUse s e.grid).contains x))

theorem leftCores_cons (s : State) (b : Cand) (before : List Cand) (allowed : List Nat) :
    leftCores s (b :: before) allowed = leftCores s before (allowed.filter (fun x => !(couldUse s b.grid).contains x)) := by
  simp only [leftCores, List.filter_filter, List.all_cons, Bool.and_comm]

theorem chooseFrom_first {s : State} {cs : List Cand} {allowed : List Nat} {c : Cand} {p : Spot}
    (h : chooseFrom s cs allowed = some (c, p)) : ∃ before after, cs = before ++ c :: after ∧
      spotFor s c.grid (leftCores s before allowed) = some p ∧
      ∀ l b r, before = l ++ b :: r → spotFor s b.grid (leftCores s l allowed) = none := by
  have whole (a : List Nat) : leftCores s [] a = a := List.filter_true a
  induction cs generalizing allowed with
  | nil => cases h
  | cons d rest ih =>
    rw [chooseFrom] at h
    split at h
    next p' spot =>
      obtain ⟨rfl, rfl⟩ := Prod.mk.inj (Option.some.inj h)
      refine ⟨[], rest, rfl, by rw [whole]; exact spot, fun l b r e => ?_⟩
      exact absurd e (by simp)
    next none_ =>
      obtain ⟨before, after, rfl, spot, first⟩ := ih h
      refine ⟨d :: before, after, rfl, by rw [leftCores_cons]; exact spot, fun l b r e => ?_⟩
      obtain _ | ⟨e₀, l⟩ := l
      · obtain ⟨rfl, -⟩ := List.cons.inj e
        rw [whole]
        exact none_
      · obtain ⟨rfl, tail⟩ := List.cons.inj e
        rw [leftCores_cons]
        exact first l b r tail

theorem choosePlacement_first {s : State} {part : Nat} {c : Cand} {p : Spot} (h : choosePlacement s part = some (c, p)) :
    (getPartition s part).en = true ∧ ∃ before after allowed,
      candidates s part = before ++ c :: after ∧ spotFor s c.grid allowed = some p ∧
      (∀ x, x ∈ allowed ↔ x ∈ partCores (getPartition s part) ∧ ∀ b ∈ before, x ∉ couldUse s b.grid) ∧
      ∀ l b r, before = l ++ b :: r → spotFor s b.grid ((partCores (getPartition s part)).filter (fun x =>
        l.all (fun e => !(couldUse s e.grid).contains x))) = none := by
  rw [choosePlacement] at h
  split at h
  next en =>
    obtain ⟨before, after, split_, spot, first⟩ := chooseFrom_first h
    refine ⟨en, before, after, _, split_, spot, fun x => ?_, first⟩
    simp [leftCores]
  next => cases h

end Sys2Proof.Machine
end

section
/-! PROOF. O52, sixth part: where a team fits, on one core and on the quads of a die. -/

namespace Sys2Proof.Machine

open Sys2Proof

section
variable {s : State} {part : Nat} {ctx : Bool} {r : LaunchRec}

/-! ### A core (R328) -/

/-- A plane of a core has a place if the core suits the team and the plane's store has room for its regions. -/
theorem planeSpot_isSome {core : Nat} {plane : Bool} : (planeSpot s part ctx r core plane).isSome = true ↔
    planeSuits s part ctx core plane = true ∧ (residentOn s core).foldl (fun k t => k + (recOf s t).nring) r.nring ≤ 32 ∧
    quadSuits s part r (quadOf core) = true ∧ LaunchRec.perCore r ≤ (freeSlots s core).length ∧
    (fitTiles s core r.acc).isSome = true ∧ (storeFit (regionsOn s core plane) r).isSome = true := by
  have suits : coreSuits s part ctx r core plane = true ↔ planeSuits s part ctx core plane = true ∧
      (residentOn s core).foldl (fun k t => k + (recOf s t).nring) r.nring ≤ 32 ∧ quadSuits s part r (quadOf core) = true ∧
      LaunchRec.perCore r ≤ (freeSlots s core).length ∧ (fitTiles s core r.acc).isSome = true := by
    simp only [coreSuits, ringsFit, Bool.and_eq_true, decide_eq_true_eq, and_assoc]
  rw [planeSpot]
  by_cases h : coreSuits s part ctx r core plane = true
  · rw [if_pos h, Option.isSome_map]
    obtain ⟨hp, hr, hq, hw, ht⟩ := suits.mp h
    simp [hp, hr, hq, hw, ht]
  · rw [if_neg h]
    refine ⟨nofun, ?_⟩
    rintro ⟨hp, hr, hq, hw, ht, -⟩
    exact absurd (suits.mpr ⟨hp, hr, hq, hw, ht⟩) h

/-- Either plane of a core will do. -/
theorem coreSpot_isSome {core : Nat} : (coreSpot s part ctx r core).isSome = true ↔
    ∃ plane, (planeSpot s part ctx r core plane).isSome = true := by
  have either : (coreSpot s part ctx r core).isSome =
      ((planeSpot s part ctx r core (getCore s core).active).isSome ||
        (planeSpot s part ctx r core (!(getCore s core).active)).isSome) := by
    rw [coreSpot]
    cases planeSpot s part ctx r core (getCore s core).active <;> rfl
  rw [either, Bool.or_eq_true]
  cases (getCore s core).active <;> simp [or_comm]

/-! ### Some cores (R329) -/

theorem spotOn_isSome {cores : List Nat} : (spotOn s part ctx r cores).isSome = true ↔
    ∀ c ∈ cores, (coreSpot s part ctx r c).isSome = true := by
  have whole : (cores.filterMap (coreSpot s part ctx r)).length = cores.length ↔
      ∀ c ∈ cores, (coreSpot s part ctx r c).isSome = true :=
    List.filterMap_length_eq_length
  rw [spotOn]
  by_cases h : (cores.filterMap (coreSpot s part ctx r)).length = cores.length
  · simp [h, ← whole]
  · simp [h, ← whole]

theorem freeSlots_length (core : Nat) : (freeSlots s core).length ≤ 64 :=
  (List.length_filter_le ..).trans_eq List.length_range

theorem oneCoreSpot_best {allowed : List Nat} {p : Spot} (h : oneCoreSpot s part ctx r allowed = some p) :
    ∃ c ∈ allowed, spotOn s part ctx r [c] = some p ∧ ∀ d ∈ allowed, (spotOn s part ctx r [d]).isSome = true →
      (freeSlots s d).length < (freeSlots s c).length ∨ ((freeSlots s d).length = (freeSlots s c).length ∧ c ≤ d) := by
  obtain ⟨⟨c, p'⟩, chosen, rfl⟩ := Option.map_eq_some_iff.mp h
  obtain ⟨mem, least⟩ := leastBy_least 2 chosen fun _ => rfl
  have fits (d : Nat) (q : Spot) : (d, q) ∈ allowed.filterMap (fun c => (spotOn s part ctx r [c]).map (fun p => (c, p))) ↔
      d ∈ allowed ∧ spotOn s part ctx r [d] = some q := by
    simp
  obtain ⟨hc, spot⟩ := (fits c p').mp mem
  refine ⟨c, hc, spot, fun d hd fit => ?_⟩
  obtain ⟨q, hq⟩ := Option.isSome_iff_exists.mp fit
  have order : 64 - (freeSlots s c).length < 64 - (freeSlots s d).length ∨
      (64 - (freeSlots s c).length = 64 - (freeSlots s d).length ∧ c ≤ d) :=
    pair_le_iff.mp (least (d, q) ((fits d q).mpr ⟨hd, hq⟩))
  have := freeSlots_length (s := s) c
  have := freeSlots_length (s := s) d
  omega

/-! ### The quads of a die (R329) -/

/-- The quads of a die that a spread team could stand on. -/
def fitQuads (s : State) (part : Nat) (ctx : Bool) (r : LaunchRec) (allowed : List Nat) (die : Nat) : List Nat :=
  ((List.range 24).map (24 * die + ·)).filter (fun q =>
    (coresOfQuad q).all allowed.contains && (spotOn s part ctx r (coresOfQuad q)).isSome)

/-- Free warp slots of a die. -/
theorem dieFree_eq (allowed : List Nat) (die : Nat) :
    dieFree s allowed die = ((allowed.filter (fun c => dieOf c == die)).map (fun c => (freeSlots s c).length)).sum := by
  rw [dieFree, List.sum_eq_foldl, List.foldl_map]

theorem dieFree_le {allowed : List Nat} (h : allowed.Nodup) (die : Nat) : dieFree s allowed die ≤ 96 * 64 := by
  have few : (allowed.filter (fun c => dieOf c == die)).length ≤ 96 := by
    have sub : allowed.filter (fun c => dieOf c == die) ⊆ List.range' (96 * die) 96 := fun c hc => by
      have on : dieOf c = die := by simpa using (List.mem_filter.mp hc).2
      rw [dieOf] at on
      rw [List.mem_range'_1]
      omega
    exact ((h.filter _).subperm sub).length_le.trans_eq List.length_range'
  rw [dieFree_eq]
  refine (List.sum_le_card_nsmul _ 64 fun n hn => ?_).trans ?_
  · obtain ⟨c, -, rfl⟩ := List.mem_map.mp hn
    exact freeSlots_length c
  · rw [List.length_map, smul_eq_mul]
    exact Nat.mul_le_mul_right 64 few

theorem dieSpot_eq (allowed : List Nat) (die : Nat) : dieSpot s part ctx r allowed die =
    if (fitQuads s part ctx r allowed die).length < r.c / 4 then none
    else spotOn s part ctx r (((fitQuads s part ctx r allowed die).take (r.c / 4)).map coresOfQuad).flatten := rfl

/-- A die is passed over only for want of quads. -/
theorem dieSpot_eq_none {allowed : List Nat} {die : Nat} (h : dieSpot s part ctx r allowed die = none) :
    (fitQuads s part ctx r allowed die).length < r.c / 4 := by
  by_contra enough
  rw [dieSpot_eq, if_neg enough] at h
  have fits : (spotOn s part ctx r
      (((fitQuads s part ctx r allowed die).take (r.c / 4)).map coresOfQuad).flatten).isSome = true := by
    refine spotOn_isSome.mpr fun c hc => ?_
    obtain ⟨l, hl, hc⟩ := List.mem_flatten.mp hc
    obtain ⟨q, hq, rfl⟩ := List.mem_map.mp hl
    have fit := (List.mem_filter.mp (List.mem_of_mem_take hq)).2
    rw [Bool.and_eq_true] at fit
    exact spotOn_isSome.mp fit.2 c hc
  rw [h] at fits
  cases fits

theorem spreadSpot_best {allowed : List Nat} {p : Spot} (h : spreadSpot s part ctx r allowed = some p) (once : allowed.Nodup) :
    ∃ die < 4, r.c / 4 ≤ (fitQuads s part ctx r allowed die).length ∧
      (∀ d < 4, dieFree s allowed die < dieFree s allowed d ∨ (dieFree s allowed d = dieFree s allowed die ∧ d < die) →
        (fitQuads s part ctx r allowed d).length < r.c / 4) ∧
      spotOn s part ctx r (((fitQuads s part ctx r allowed die).take (r.c / 4)).map coresOfQuad).flatten = some p := by
  obtain ⟨before, die, after, dies, spot, passed⟩ := List.findSome?_eq_some_iff.mp h
  obtain ⟨perm, sorted⟩ := orderBy_sorted (key := fun d => [96 * 64 - dieFree s allowed d, d]) 2 (List.range 4) fun _ => rfl
  rw [dies] at perm sorted
  have mem (d : Nat) : d < 4 ↔ d ∈ before ++ die :: after := List.mem_range.symm.trans perm.mem_iff.symm
  refine ⟨die, (mem die).mpr (by simp), ?_⟩
  rw [dieSpot_eq] at spot
  split at spot
  next => cases spot
  next enough =>
    refine ⟨Nat.le_of_not_lt enough, fun d hd better => ?_, spot⟩
    obtain hb | ha := List.mem_append.mp ((mem d).mp hd)
    · exact dieSpot_eq_none (passed d hb)
    · have order : 96 * 64 - dieFree s allowed die < 96 * 64 - dieFree s allowed d ∨
          (96 * 64 - dieFree s allowed die = 96 * 64 - dieFree s allowed d ∧ die ≤ d) := by
        obtain rfl | ha := List.mem_cons.mp ha
        · exact .inr ⟨rfl, Nat.le_refl d⟩
        · exact pair_le_iff.mp ((List.pairwise_cons.mp (List.pairwise_append.mp sorted).2.1).1 d ha)
      have := dieFree_le (s := s) once die
      have := dieFree_le (s := s) once d
      omega

end

/-! ### The whole of it -/

theorem spotFor_best (s : State) (g : Grid) (allowed : List Nat) (p : Spot) (h : spotFor s g allowed = some p) :
    let fits (cores : List Nat) : Prop := (spotOn s g.part g.ctx g.r cores).isSome = true
    let free (c : Nat) : Nat := (freeSlots s c).length
    let onDie (d : Nat) : List Nat := ((List.range 24).map (24 * d + ·)).filter (fun q =>
      (coresOfQuad q).all allowed.contains && (spotOn s g.part g.ctx g.r (coresOfQuad q)).isSome)
    (g.r.spread = false → ∃ c ∈ allowed, spotOn s g.part g.ctx g.r [c] = some p ∧
      ∀ d ∈ allowed, fits [d] → free d < free c ∨ (free d = free c ∧ c ≤ d)) ∧
    (g.r.spread = true → allowed.Nodup → ∃ die < 4, g.r.c / 4 ≤ (onDie die).length ∧
      (let slots (d : Nat) : Nat := ((allowed.filter (fun c => dieOf c == d)).map free).sum
       ∀ d < 4, slots die < slots d ∨ (slots d = slots die ∧ d < die) → (onDie d).length < g.r.c / 4) ∧
      spotOn s g.part g.ctx g.r (((onDie die).take (g.r.c / 4)).map coresOfQuad).flatten = some p) := by
  rw [spotFor] at h
  refine ⟨fun one => ?_, fun spread once => ?_⟩
  · rw [one, if_neg Bool.false_ne_true] at h
    exact oneCoreSpot_best h
  · rw [spread, if_pos rfl] at h
    have best := spreadSpot_best h once
    simp only [dieFree_eq] at best
    exact best

end Sys2Proof.Machine
end

section
/-! PROOF. O52, seventh part: the estimator's options and its choice. -/

namespace Sys2Proof.Machine

open Sys2Proof

section
variable {s : State} {t : Team} {d : Nat}

theorem ceilDiv_le_iff {a b n : Nat} (hb : 0 < b) : ceilDiv a b ≤ n ↔ a ≤ n * b := by
  rw [ceilDiv, ← Nat.lt_succ_iff, Nat.div_lt_iff_lt_mul hb, Nat.succ_mul]
  omega

theorem waitsOnGrid_iff (b : Block) : waitsOnGrid b = true ↔ ∃ n ph, b = .bar .grid n ph := by
  unfold waitsOnGrid
  split
  · exact ⟨fun _ => ⟨_, _, rfl⟩, fun _ => rfl⟩
  · rename_i other
    exact ⟨nofun, fun ⟨n, ph, e⟩ => absurd e (other n ph)⟩

theorem teamOnGrid_iff : teamOnGrid s t = true ↔
    ∃ w ∈ s.warps, w.team = t.uid ∧ ∃ y ∈ w.allSlots, ∃ n ph, y.block = .bar .grid n ph := by
  simp only [teamOnGrid, List.any_eq_true, Bool.and_eq_true, beq_iff_eq, waitsOnGrid_iff]

/-! ### The options (R338) -/

/-- Their order where costs are equal. -/
def Exit.order (e : Exit) : Nat :=
  match e with
  | .drain => 0
  | .save => 1
  | .discard => 2

/-- An option that takes a time, if there is time enough. -/
def timedOption (time : Option Nat) (d : Nat) (e : Exit) (cost : Nat → Nat) : List (Exit × Nat) :=
  match time with
  | some x => if x ≤ d then [(e, cost x)] else []
  | none => []

theorem exitOptions_eq : exitOptions s t d = timedOption (drainTime s t) d .drain (fun _ => 0) ++
    timedOption (saveTime s t) d .save (2 * ·) ++ (if (recOf s t).relaunch then [(Exit.discard, s.cycle - t.since)] else []) :=
  rfl

theorem mem_timedOption {time : Option Nat} {e : Exit} {cost : Nat → Nat} {p : Exit × Nat} :
    p ∈ timedOption time d e cost ↔ p.1 = e ∧ ∃ x ≤ d, p.2 = cost x ∧ time = some x := by
  obtain ⟨e', c⟩ := p
  cases time with
  | none => simp [timedOption]
  | some x =>
    rw [timedOption]
    split
    · rename_i hx
      simp [hx]
    · rename_i hx
      simp [hx]

theorem drainTime_le_iff : (∃ x ≤ d, drainTime s t = some x) ↔ t.progress ≠ 0 ∧
    ¬ (∃ w ∈ s.warps, w.team = t.uid ∧ ∃ y ∈ w.allSlots, ∃ n ph, y.block = .bar .grid n ph) ∧
    ∃ x ≤ d, (s.cycle - t.since) * (256 - t.progress) ≤ x * t.progress := by
  rw [← teamOnGrid_iff, drainTime]
  by_cases zero : t.progress = 0
  · simp [zero]
  · by_cases waits : teamOnGrid s t = true
    · simp [waits]
    · have pos := Nat.pos_of_ne_zero zero
      rw [if_neg (by simp [zero, waits])]
      constructor
      · rintro ⟨x, hx, e⟩
        obtain rfl := Option.some.inj e
        exact ⟨zero, waits, d, Nat.le_refl d, (ceilDiv_le_iff pos).mp hx⟩
      · rintro ⟨-, -, x, hx, enough⟩
        exact ⟨_, ((ceilDiv_le_iff pos).mpr enough).trans hx, rfl⟩

theorem mem_exitOptions {e : Exit} {c : Nat} : (e, c) ∈ exitOptions s t d ↔ ExitOption s t d e c := by
  rw [exitOptions_eq, List.mem_append, List.mem_append, mem_timedOption, mem_timedOption]
  cases e with
  | drain =>
    have drains : ExitOption s t d .drain c ↔ c = 0 ∧ ∃ x ≤ d, drainTime s t = some x :=
      and_congr_right fun _ => drainTime_le_iff.symm
    rw [drains]
    constructor
    · rintro ((⟨-, x, hx, zero, h⟩ | ⟨e, -⟩) | h)
      · exact ⟨zero, x, hx, h⟩
      · cases e
      · split at h <;> simp at h
    · rintro ⟨zero, x, hx, h⟩
      exact .inl (.inl ⟨rfl, x, hx, zero, h⟩)
  | save =>
    constructor
    · rintro ((⟨e, -⟩ | ⟨-, h⟩) | h)
      · cases e
      · exact h
      · split at h <;> simp at h
    · exact fun h => .inl (.inr ⟨rfl, h⟩)
  | discard =>
    constructor
    · rintro ((⟨e, -⟩ | ⟨e, -⟩) | h)
      · cases e
      · cases e
      · split at h
        · exact ⟨‹_›, by simpa using h⟩
        · simp at h
    · rintro ⟨may, rfl⟩
      exact .inr (by rw [if_pos may]; exact List.mem_singleton.mpr rfl)

theorem exitOptions_ordered : (exitOptions s t d).Pairwise (fun a b => a.1.order ≤ b.1.order) := by
  have timed (time : Option Nat) (e : Exit) (cost : Nat → Nat) :
      (timedOption time d e cost).Pairwise (fun a b => a.1.order ≤ b.1.order) ∧ ∀ p ∈ timedOption time d e cost, p.1 = e := by
    refine ⟨?_, fun p hp => (mem_timedOption.mp hp).1⟩
    unfold timedOption
    split
    · split <;> simp
    · simp
  rw [exitOptions_eq]
  refine List.pairwise_append.mpr ⟨List.pairwise_append.mpr ⟨(timed ..).1, (timed ..).1, fun a ha b _ => ?_⟩, ?_,
    fun a _ b hb => ?_⟩
  · rw [(timed ..).2 a ha]
    exact Nat.zero_le _
  · split <;> simp
  · split at hb
    · obtain rfl := List.mem_singleton.mp hb
      show a.1.order ≤ 2
      cases a.1 <;> decide
    · cases hb

/-! ### The choice (R338) -/

/-- The cheapest option is chosen, the first in order of equals. -/
theorem estimate_cheapest (h : ∃ e c, ExitOption s t d e c) : ∃ c, ExitOption s t d (estimate s t d) c ∧
    ∀ e' c', ExitOption s t d e' c' → c < c' ∨ (c = c' ∧ (estimate s t d).order ≤ e'.order) := by
  obtain ⟨e, c, he⟩ := h
  cases chosen : leastBy (fun x : Exit × Nat => [x.2]) (exitOptions s t d) with
  | none => exact absurd (leastBy_eq_none.mp chosen ▸ mem_exitOptions.mpr he) List.not_mem_nil
  | some x =>
    obtain ⟨choice, c⟩ := x
    have is : estimate s t d = choice := by rw [estimate, chosen]
    obtain ⟨before, after, options, hb, ha⟩ := leastBy_first 1 chosen fun _ => rfl
    have ordered := exitOptions_ordered (s := s) (t := t) (d := d)
    rw [options] at ordered
    rw [is]
    refine ⟨c, mem_exitOptions.mp (options ▸ by simp), fun e' c' h' => ?_⟩
    have mem := mem_exitOptions.mpr h'
    rw [options] at mem
    obtain mem | mem := List.mem_append.mp mem
    · exact .inl (single_lt_iff.mp (hb _ mem))
    · obtain e | mem := List.mem_cons.mp mem
      · cases e
        exact .inr ⟨rfl, Nat.le_refl _⟩
      · obtain less | same := Nat.lt_or_eq_of_le (single_le_iff.mp (ha _ mem))
        · exact .inl less
        · exact .inr ⟨same, (List.pairwise_cons.mp (List.pairwise_append.mp ordered).2.1).1 _ mem⟩

/-- Without an option a team is saved if it can be, else discarded if it may be, else left to drain. -/
theorem estimate_last (h : ∀ e c, ¬ ExitOption s t d e c) :
    estimate s t d = if (saveTime s t).isSome then .save else if (recOf s t).relaunch then .discard else .drain := by
  have none_ : exitOptions s t d = [] := List.eq_nil_iff_forall_not_mem.mpr fun x hx => h x.1 x.2 (mem_exitOptions.mp hx)
  rw [estimate, none_]
  rfl

/-! ### The time of a save (R336, R338) -/

theorem saveTime_eq_none : saveTime s t = none ↔ shadowFree s t = false ∧ (recOf s t).saveva = 0 := by
  rw [saveTime]
  cases shadowFree s t <;> by_cases zero : (recOf s t).saveva = 0 <;> simp [zero]

theorem saveTime_shadow (h : shadowFree s t = true) : saveTime s t = some (nominal s 1600) := if_pos h

theorem saveTime_memory (h : shadowFree s t = false) (hv : (recOf s t).saveva ≠ 0) :
    let r := recOf s t
    let raw := r.w * LaunchRec.regBytes r + LaunchRec.cores r * (LaunchRec.blockBytes r + 8192 * r.acc) + 512
    ∃ b c, raw ≤ b ∧ b < raw + 4096 ∧ b % 4096 = 0 ∧ b ≤ 160 * c ∧ 160 * c < b + 160 ∧
      saveTime s t = some (nominal s (max 1600 c)) := by
  intro r raw
  have image : imageSize r = (raw + 4096 - 1) / 4096 * 4096 := rfl
  have cost : ceilDiv (imageSize r) 160 = (imageSize r + 160 - 1) / 160 := rfl
  refine ⟨imageSize r, ceilDiv (imageSize r) 160, by omega, by omega, by omega, by omega, by omega, ?_⟩
  rw [saveTime, h, if_neg Bool.false_ne_true, if_neg (by simpa using hv)]

end

theorem estimate_clause (s : State) (t : Team) (d : Nat) : let choice := estimate s t d
    let r := recOf s t
    let raw := r.w * LaunchRec.regBytes r + LaunchRec.cores r * (LaunchRec.blockBytes r + 8192 * r.acc) + 512
    ((∃ e c, ExitOption s t d e c) → ∃ c, ExitOption s t d choice c ∧
      ∀ e' c', ExitOption s t d e' c' → c < c' ∨ (c = c' ∧ choice.order ≤ e'.order)) ∧
    ((∀ e c, ¬ ExitOption s t d e c) →
      choice = if (saveTime s t).isSome then .save else if r.relaunch then .discard else .drain) ∧
    (saveTime s t = none ↔ shadowFree s t = false ∧ r.saveva = 0) ∧
    (shadowFree s t = true → saveTime s t = some (nominal s 1600)) ∧
    (shadowFree s t = false → r.saveva ≠ 0 → ∃ b c, raw ≤ b ∧ b < raw + 4096 ∧ b % 4096 = 0 ∧ b ≤ 160 * c ∧ 160 * c < b + 160 ∧
      saveTime s t = some (nominal s (max 1600 c))) :=
  ⟨estimate_cheapest, estimate_last, saveTime_eq_none, saveTime_shadow, saveTime_memory⟩

end Sys2Proof.Machine
end

section
/-! PROOF. O52, eighth part: the L1s take other sizes, teams' blocks move, and the planes of a core swap. -/

namespace Sys2Proof.Machine

open Sys2Proof

/-! ### What the moves leave alone -/

/-- Only the L1s with their sizes and fusing, the requests, misses and replies, and the identities have changed. -/
def SizesOnly (s t : State) : Prop :=
  t = { s with nextId := t.nextId, cores := t.cores, quads := t.quads, l1s := t.l1s, reqs := t.reqs, misses := t.misses,
               replies := t.replies }

theorem SizesOnly.refl (s : State) : SizesOnly s s := rfl

theorem SizesOnly.trans {s t u : State} (h : SizesOnly s t) (k : SizesOnly t u) : SizesOnly s u := by
  unfold SizesOnly at *
  rw [k, h]

theorem DomainsOnly.sizes {s t : State} (h : DomainsOnly s t) : SizesOnly s t := by
  unfold SizesOnly
  rw [h]

/-- Only warps, banked stores with their errors, accumulators and copies have changed. -/
def BlocksOnly (s t : State) : Prop :=
  t = { s with warps := t.warps, store := t.store, upsets := t.upsets, acc := t.acc, copies := t.copies }

theorem BlocksOnly.refl (s : State) : BlocksOnly s s := rfl

theorem BlocksOnly.trans {s t u : State} (h : BlocksOnly s t) (k : BlocksOnly t u) : BlocksOnly s u := by
  unfold BlocksOnly at *
  rw [k, h]

theorem BlocksOnly.foldl {α : Type} {f : State → α → State} (h : ∀ s a, BlocksOnly s (f s a)) (l : List α) (s : State) :
    BlocksOnly s (l.foldl f s) := foldl_frame .refl .trans h l s

theorem flushAll_only (s : State) (ws : List Warp) : BlocksOnly s (flushAll s ws) :=
  .foldl (f := flushWindow) (fun _ _ => rfl) ws s

theorem stopCopies_only (s : State) (test : Copy → Bool) : BlocksOnly s (stopCopies s test) :=
  .foldl (fun _ _ => by exact rfl) _ s

theorem resumeCopies_only (s : State) (test : Copy → Bool) : BlocksOnly s (resumeCopies s test) :=
  .foldl (fun _ _ => by exact rfl) _ s

theorem pausedOut_only (s : State) (core : Nat) (teams : List Nat) : BlocksOnly s (pausedOut s core teams) := rfl

theorem clearStore_only (s : State) (key n : Nat) : BlocksOnly s (clearStore s key n) := rfl

theorem moveBlocks_only (s : State) (t : Team) (core : Nat) : BlocksOnly s (moveBlocks s t core) := by
  unfold moveBlocks
  dsimp only
  refine .trans ?_ (.foldl (fun _ _ => by exact rfl) _ _)
  refine BlocksOnly.trans (t := List.foldl _ (List.foldl _ s _) _) ?_ rfl
  exact (BlocksOnly.foldl (fun s p => clearStore_only s _ _) _ s).trans (.foldl (fun _ _ => by exact rfl) _ _)

/-! ### The size of an L1 (R51, R63) -/

theorem surrender_only (s : State) (dom line : Nat) : DomainsOnly s (surrender s dom line) := by
  unfold surrender
  split
  · exact .refl s
  · rfl

theorem dropOwned_only (s : State) (dom line : Nat) (mask : Word) : DomainsOnly s (dropOwned s dom line mask) := rfl

theorem dropLine_only (s : State) (dom line : Nat) : DomainsOnly s (dropLine s dom line) :=
  (dropOwned_only ..).trans (l1Map_only ..)

theorem evictLine_only (s : State) (dom line : Nat) : DomainsOnly s (evictLine s dom line) :=
  (surrender_only s dom line).trans (dropLine_only ..)

theorem emptyCoreL1_only (s : State) (core : Nat) : DomainsOnly s (emptyCoreL1 s core) :=
  foldl_frame .refl .trans (fun s l => evictLine_only s (domainOf _ core) l) _ s

theorem resizeL1_only (s : State) (core units : Nat) : SizesOnly s (resizeL1 s core units) :=
  (emptyCoreL1_only s core).sizes.trans rfl

theorem shrinkL1_only (s : State) (core : Nat) : SizesOnly s (shrinkL1 s core) := by
  unfold shrinkL1
  dsimp only
  split
  · exact resizeL1_only ..
  · exact .refl s

theorem SizesOnly.regionsOn {s t : State} (h : SizesOnly s t) (core : Nat) (plane : Bool) :
    regionsOn t core plane = regionsOn s core plane := by
  rw [h]
  rfl

theorem resizeL1_cores (s : State) (core units : Nat) :
    (resizeL1 s core units).cores = tput s.cores core { getCore s core with l1Units := units } CoreSt.dflt := by
  unfold resizeL1
  rw [emptyCoreL1_only s core]
  rfl

/-- A core other than the one whose table entry is put. -/
theorem getCore_of_tput {s t : State} {core : Nat} {x : CoreSt} (hs : tsorted s.cores = true)
    (h : t.cores = tput s.cores core x CoreSt.dflt) (c : Nat) : getCore t c = if c = core then x else getCore s c := by
  rw [getCore, h]
  split
  next e => rw [e, tget_tput_self hs]
  next ne => exact tget_tput_ne hs _ _ _ ne

/-- The L1 of a core after its core's regions have been looked at. -/
theorem shrinkL1_getCore {s : State} (hs : tsorted s.cores = true) (core : Nat) :
    tsorted (shrinkL1 s core).cores = true ∧ ∀ c, getCore (shrinkL1 s core) c =
      if c = core then { getCore s core with
        l1Units := min (getCore s core).l1Units (freeUnits (regionsOn s core (getCore s core).active)) } else getCore s c := by
  unfold shrinkL1
  dsimp only
  split
  next less =>
    have table := resizeL1_cores s core (freeUnits (regionsOn s core (getCore s core).active))
    refine ⟨table ▸ tsorted_tput hs _ _ _, fun c => ?_⟩
    rw [getCore_of_tput hs table, Nat.min_eq_right less.le]
  next enough =>
    refine ⟨hs, fun c => ?_⟩
    rw [Nat.min_eq_left (Nat.le_of_not_lt enough)]
    split
    next e => rw [e]
    next => rfl

/-- Every core looked at has an L1 that its regions leave. -/
theorem shrinkL1s_units {s : State} (hs : tsorted s.cores = true) (cores : List Nat) :
    SizesOnly s (cores.foldl shrinkL1 s) ∧ ∀ c, (getCore (cores.foldl shrinkL1 s) c).active = (getCore s c).active ∧
      (getCore (cores.foldl shrinkL1 s) c).l1Units ≤ (getCore s c).l1Units ∧
      (c ∈ cores → (getCore (cores.foldl shrinkL1 s) c).l1Units ≤ freeUnits (regionsOn s c (getCore s c).active)) := by
  induction cores generalizing s with
  | nil => exact ⟨.refl s, fun c => ⟨rfl, Nat.le_refl _, nofun⟩⟩
  | cons d cores ih =>
    obtain ⟨sorted, after⟩ := shrinkL1_getCore hs d
    obtain ⟨only, rest⟩ := ih sorted
    refine ⟨(shrinkL1_only s d).trans only, fun c => ?_⟩
    have same := fun p => (shrinkL1_only s d).regionsOn c p
    obtain ⟨active, units, fits⟩ := rest c
    rw [List.foldl_cons]
    have step := after c
    rw [same] at fits
    obtain rfl | e := eq_or_ne c d
    · rw [if_pos rfl] at step
      rw [step] at active units fits
      exact ⟨active, units.trans (Nat.min_le_left ..), fun _ => units.trans (Nat.min_le_right ..)⟩
    · rw [if_neg e] at step
      rw [step] at active units fits
      exact ⟨active, units, fun hc => fits ((List.mem_cons.mp hc).resolve_left e)⟩

theorem shrinkL1s_only (cores : List Nat) (s : State) : SizesOnly s (cores.foldl shrinkL1 s) :=
  foldl_frame .refl .trans shrinkL1_only cores s

theorem l1Resize_becomes (s : State) (core units : Nat) (hc : core < 384) (h2 : 2 ≤ units)
    (ht : units ≤ freeUnits (regionsOn s core (getCore s core).active))
    (hw : (getCore s core).l1Units < units ∨ (units < (getCore s core).l1Units ∧
      ∃ g ∈ s.grids, g.failed = none ∧ (g.relaunches ≠ [] ∨ (nextReady s g).isSome = true)))
    (hs : tsorted s.cores = true) :
    Becomes (.l1Resize core units) s (fun t => (getCore t core).l1Units = units ∧ MemoryKept s t) := by
  have waits : (∃ g ∈ s.grids, g.failed = none ∧ (g.relaunches ≠ [] ∨ (nextReady s g).isSome = true)) →
      s.grids.any (fun g => g.failed.isNone && (!g.relaunches.isEmpty || (nextReady s g).isSome)) = true := by
    rintro ⟨g, hg, failed, some_⟩
    refine List.any_eq_true.mpr ⟨g, hg, ?_⟩
    rw [failed, Option.isNone_none, Bool.true_and, Bool.or_eq_true]
    exact some_.imp_left fun some_ => by simp [some_]
  have does : l1Resize s core units = resizeL1 s core units := by
    refine if_pos ?_
    simp only [Bool.and_eq_true, Bool.or_eq_true, decide_eq_true_eq]
    exact ⟨⟨⟨hc, h2⟩, ht⟩, hw.imp_right fun ⟨less, g⟩ => ⟨less, waits g⟩⟩
  refine ⟨l1Resize s core units, rfl, ?_⟩
  rw [does]
  refine ⟨?_, by rw [resizeL1_only s core units]; exact ⟨rfl, rfl⟩⟩
  rw [getCore_of_tput hs (resizeL1_cores ..), if_pos rfl]

/-! ### Compaction (R63) -/

theorem BlocksOnly.findTeam? {s t : State} (h : BlocksOnly s t) (u : Nat) : findTeam? t u = findTeam? s u := by
  rw [h]
  rfl

theorem SizesOnly.findTeam? {s t : State} (h : SizesOnly s t) (u : Nat) : findTeam? t u = findTeam? s u := by
  rw [h]
  rfl

theorem compactTeam_becomes (s : State) (core : Nat) (m : Team) (hm : (residentOn s core).find? (·.compacting) = some m)
    (hf : teamFrozen s m = false) (ht : findTeam? s m.uid = some m)
    (hq : ∀ w ∈ s.warps, w.team = m.uid → w.ctrs.ld = 0 ∧ w.ctrs.mx = 0 ∧ w.ctrs.sf = 0) :
    Becomes (.registerCompaction core) s (fun t => findTeam? t m.uid = some { m with compacting := false } ∧ MemoryKept s t ∧
      (tsorted s.cores = true → ∀ c ∈ m.cores,
        (getCore t c).l1Units ≤ freeUnits (regionsOn t c (getCore t c).active))) := by
  let ws := s.warps.filter (fun w => w.team == m.uid)
  let moved := m.cores.foldl (fun s c => moveBlocks s m c) (flushAll s ws)
  let ran := setTeam moved { m with compacting := false }
  have quiet : ws.all quietCompaction = true := List.all_eq_true.mpr fun w hw => by
    obtain ⟨mem, team⟩ := List.mem_filter.mp hw
    obtain ⟨ld, mx, sf⟩ := hq w mem (beq_iff_eq.mp team)
    simp [quietCompaction, ld, mx, sf]
  have does : compaction s core = m.cores.foldl shrinkL1 ran := by
    rw [compaction, hm]
    refine if_pos ?_
    rw [hf]
    exact Bool.and_eq_true_iff.mpr ⟨quiet, rfl⟩
  have only : BlocksOnly s moved := (flushAll_only s ws).trans (.foldl (fun s c => moveBlocks_only s m c) m.cores _)
  have cores : ran.cores = s.cores := by
    show moved.cores = s.cores
    rw [only]
  refine ⟨compaction s core, rfl, ?_⟩
  rw [does]
  refine ⟨?_, ?_, fun hs c hc => ?_⟩
  · rw [(shrinkL1s_only m.cores ran).findTeam?]
    rw [findTeam?_setTeam, only.findTeam?, ht]
    simp
  · rw [shrinkL1s_only m.cores ran]
    show MemoryKept s moved
    rw [only]
    exact ⟨rfl, rfl⟩
  · obtain ⟨kept, units⟩ := shrinkL1s_units (s := ran) (by rw [cores]; exact hs) m.cores
    obtain ⟨active, -, fits⟩ := units c
    rw [kept.regionsOn, active]
    exact fits hc

/-! ### Plane swaps (R322) -/

theorem planeSwap_begins (s : State) (core : Nat) (hx : (getCore s core).swapping = false) (hd : swapDue s core = true) :
    Becomes (.planeSwap core) s (fun t => getCore t core = { getCore s core with swapping := true } ∧ MemoryKept s t) := by
  let x : CoreSt := { getCore s core with swapping := true }
  have other : x ≠ CoreSt.dflt := fun e => by
    have := congrArg CoreSt.swapping e
    cases this
  have does : planeSwap s core = setCore s core x := by
    rw [planeSwap, hx, hd]
    rfl
  refine ⟨planeSwap s core, rfl, ?_⟩
  rw [does]
  refine ⟨?_, rfl, rfl⟩
  show tget (tput s.cores core x CoreSt.dflt) core CoreSt.dflt = x
  rw [tput, if_neg other, tget, tget?_tset_self]
  rfl

/-- A core whose planes have changed roles. -/
def turned (s out : State) (core : Nat) : CoreSt :=
  { getCore out core with active := !(getCore s core).active, swapping := false, swapped := s.cycle }

/-- A swap stops what is under way on the active plane, turns the planes round and lets the other one go on. -/
theorem exchange_eq (s : State) (core : Nat) : ∃ out test, BlocksOnly s out ∧
    exchange s core = resumeCopies (shrinkL1 (setCore out core (turned s out core)) core) test := by
  let quiet := flushAll s (s.warps.filter (fun w =>
    w.core == core && ((planeTeams s core (getCore s core).active).map (·.uid)).contains w.team))
  let stopped := stopCopies quiet (copyOn quiet core (getCore s core).active)
  let out := pausedOut stopped core ((planeTeams stopped core (!(getCore s core).active)).map (·.uid))
  have only : BlocksOnly s out := ((flushAll_only ..).trans (stopCopies_only ..)).trans (pausedOut_only ..)
  have cycle : s.cycle = out.cycle := by rw [only]
  refine ⟨out, copyOn (setCore out core (turned s out core)) core (!(getCore s core).active), only, ?_⟩
  rw [turned, cycle]
  rfl

theorem planeSwap_ends (s : State) (core : Nat) (hx : (getCore s core).swapping = true) (hs : tsorted s.cores = true)
    (hq : ∀ w ∈ s.warps, w.core = core → w.team ∈ (planeTeams s core (getCore s core).active).map (·.uid) → quietSave w = true)
    (hk : ∀ k ∈ s.copies, k.state = .running → copyOn s core (getCore s core).active k = true → k.seg = 0)
    (hm : ∀ m ∈ residentOn s core, m.halting = false ∧ (m.planeOn core = (getCore s core).active → m.compacting = false)) :
    Becomes (.planeSwap core) s (fun t => (getCore t core).active = !(getCore s core).active ∧
      (getCore t core).swapping = false ∧ (getCore t core).swapped = s.cycle ∧ MemoryKept s t) := by
  have stops : coreStops s core = false := List.any_eq_false.mpr fun m hm' => by
    obtain ⟨halting, compacting⟩ := hm m hm'
    rw [halting, Bool.false_or, Bool.and_eq_true, beq_iff_eq]
    rintro ⟨c, plane⟩
    rw [compacting plane] at c
    cases c
  have quiet : (s.warps.filter (fun w => w.core == core &&
      ((planeTeams s core (getCore s core).active).map (·.uid)).contains w.team)).all quietSave = true := by
    refine List.all_eq_true.mpr fun w hw => ?_
    obtain ⟨mem, on⟩ := List.mem_filter.mp hw
    rw [Bool.and_eq_true, beq_iff_eq, List.contains_iff_mem] at on
    exact hq w mem on.1 on.2
  have rows : copiesAtRow s (copyOn s core (getCore s core).active) = true := by
    refine List.all_eq_true.mpr fun k mem => ?_
    by_cases running : k.state = .running
    · by_cases on : copyOn s core (getCore s core).active k = true
      · simp [hk k mem running on]
      · simp [on]
    · simp [running]
  have ready : swapReady s core = true := by
    rw [swapReady, rows, stops, quiet]
    rfl
  have does : planeSwap s core = exchange s core := by
    rw [planeSwap, hx, ready]
    rfl
  obtain ⟨out, test, only, swap⟩ := exchange_eq s core
  let x := turned s out core
  have cores : out.cores = s.cores := by rw [only]
  have sorted : tsorted out.cores = true := cores ▸ hs
  have put := getCore_of_tput (t := setCore out core x) sorted rfl core
  have shrunk := (shrinkL1_getCore (s := setCore out core x) (tsorted_tput sorted ..) core).2 core
  rw [if_pos rfl] at put shrunk
  refine ⟨planeSwap s core, rfl, ?_⟩
  rw [does, swap]
  have resumed := resumeCopies_only (shrinkL1 (setCore out core x) core) test
  have same : getCore (resumeCopies (shrinkL1 (setCore out core x) core) test) core =
      getCore (shrinkL1 (setCore out core x) core) core := by
    rw [resumed]
    rfl
  refine ⟨?_, ?_, ?_, ?_⟩
  · rw [same, shrunk, put]
    rfl
  · rw [same, shrunk, put]
    rfl
  · rw [same, shrunk, put]
    rfl
  · rw [resumed, shrinkL1_only, only]
    exact ⟨rfl, rfl⟩

end Sys2Proof.Machine
end

section
/-! PROOF. O52, ninth part: the placing of a team. -/

namespace Sys2Proof.Machine

open Sys2Proof

/-! ### Identities grow -/

/-- No identity is given twice. -/
def Later (s t : State) : Prop := s.nextId ≤ t.nextId

theorem Later.refl (s : State) : Later s s := Nat.le_refl s.nextId

theorem Later.trans {s t u : State} (h : Later s t) (k : Later t u) : Later s u := Nat.le_trans h k

theorem Later.foldl {α : Type} {f : State → α → State} (h : ∀ s a, Later s (f s a)) (l : List α) (s : State) :
    Later s (l.foldl f s) := foldl_frame .refl .trans h l s

theorem surrender_later (s : State) (dom line : Nat) : Later s (surrender s dom line) := by
  unfold surrender
  split
  · exact .refl s
  · exact Nat.le_succ s.nextId

theorem dropLine_nextId (s : State) (dom line : Nat) : (dropLine s dom line).nextId = s.nextId := rfl

theorem dropLine_later (s : State) (dom line : Nat) : Later s (dropLine s dom line) := (dropLine_nextId s dom line).ge

theorem evictLine_later (s : State) (dom line : Nat) : Later s (evictLine s dom line) :=
  (surrender_later s dom line).trans (dropLine_later ..)

theorem emptyCoreL1_later (s : State) (core : Nat) : Later s (emptyCoreL1 s core) :=
  .foldl (fun s l => evictLine_later s (domainOf _ core) l) _ s

theorem setQuad_sizes (s : State) (q : Nat) (x : Quad) : SizesOnly s (setQuad s q x) ∧ Later s (setQuad s q x) :=
  ⟨rfl, .refl s⟩

theorem SizesOnly.foldl {α : Type} {f : State → α → State} (h : ∀ s a, SizesOnly s (f s a)) (l : List α) (s : State) :
    SizesOnly s (l.foldl f s) := foldl_frame .refl .trans h l s

theorem fuseQuad_only (s : State) (q : Nat) (fused : Bool) : SizesOnly s (fuseQuad s q fused) ∧ Later s (fuseQuad s q fused) := by
  unfold fuseQuad
  split
  · exact ⟨.refl s, .refl s⟩
  · have emptied : SizesOnly s ((coresOfQuad q).foldl emptyCoreL1 s) := .foldl (fun s c => (emptyCoreL1_only s c).sizes) _ s
    have later : Later s ((coresOfQuad q).foldl emptyCoreL1 s) := .foldl emptyCoreL1_later _ s
    exact ⟨emptied.trans (setQuad_sizes ..).1, later.trans (setQuad_sizes ..).2⟩

theorem fuseQuads_only (s : State) (qs : List Nat) (fused : Bool) :
    SizesOnly s (qs.foldl (fun s q => fuseQuad s q fused) s) ∧ Later s (qs.foldl (fun s q => fuseQuad s q fused) s) :=
  ⟨.foldl (fun s q => (fuseQuad_only s q fused).1) qs s, .foldl (fun s q => (fuseQuad_only s q fused).2) qs s⟩

/-! ### What a placing leaves alone -/

/-- Only banked stores with their errors have changed. -/
def StoreOnly (s t : State) : Prop := t = { s with store := t.store, upsets := t.upsets }

theorem StoreOnly.refl (s : State) : StoreOnly s s := rfl

theorem StoreOnly.trans {s t u : State} (h : StoreOnly s t) (k : StoreOnly t u) : StoreOnly s u := by
  unfold StoreOnly at *
  rw [k, h]

theorem StoreOnly.foldl {α : Type} {f : State → α → State} (h : ∀ s a, StoreOnly s (f s a)) (l : List α) (s : State) :
    StoreOnly s (l.foldl f s) := foldl_frame .refl .trans h l s

theorem clearStore_store (s : State) (key n : Nat) : StoreOnly s (clearStore s key n) := rfl

theorem fillCore_only (s : State) (g : Grid) (core : Nat) (plane : Bool) (base : Nat) (blocks : List Nat) :
    StoreOnly s (fillCore s g core plane base blocks) :=
  ((StoreOnly.foldl (fun s a => clearStore_store s (storeKey core plane a) (LaunchRec.regBytes g.r / 4)) blocks s).trans
    (clearStore_store ..)).trans (.foldl (fun _ _ => by exact rfl) _ _)

theorem fillTeam_only (s : State) (g : Grid) (p : Spot) : StoreOnly s (fillTeam s g p) := by
  unfold fillTeam
  refine StoreOnly.foldl (fun s x => ?_) _ s
  exact fillCore_only ..

theorem enterGang_leaves (s : State) (g : Grid) (quads : List Nat) (n : Nat) :
    (enterGang s g quads n).2.warps = s.warps ∧ s.nextId ≤ (enterGang s g quads n).2.nextId := by
  unfold enterGang
  split
  · exact ⟨rfl, Nat.le_refl _⟩
  · exact ⟨rfl, Nat.le_succ _⟩

/-! ### The warps of a new team -/

/-- Warps with identities one after the other. -/
def newWarps (s : State) (g : Grid) (team : Nat) (p : Spot) (first : Nat) : List Warp :=
  (List.range g.r.w).map (fun i => newWarp s g team p (first + i) i)

theorem newWarps_uids (s : State) (g : Grid) (team : Nat) (p : Spot) (first : Nat) :
    ((newWarps s g team p first).map (·.uid)).Nodup := by
  rw [newWarps, List.map_map]
  exact List.nodup_range.map fun i j e => Nat.add_left_cancel e

/-- A new warp is found beside older ones. -/
theorem findWarp?_newWarps {t s : State} {g : Grid} {team : Nat} {p : Spot} {first : Nat} {old : List Warp}
    (ht : t.warps = old ++ newWarps s g team p first) (h : ∀ v ∈ old, v.uid < first) {i : Nat} (hi : i < g.r.w) :
    findWarp? t (first + i) = some (newWarp s g team p (first + i) i) := by
  have mem : newWarp s g team p (first + i) i ∈ newWarps s g team p first := List.mem_map.mpr ⟨i, List.mem_range.mpr hi, rfl⟩
  have found := findWarp?_of_mem (s := { t with warps := newWarps s g team p first }) (newWarps_uids s g team p first) mem
  have skip : old.find? (fun w => w.uid == first + i) = none := List.find?_eq_none.mpr fun v hv => by
    have := h v hv
    simp only [beq_iff_eq]
    omega
  rw [findWarp?, ht, List.find?_append, skip]
  exact found

theorem startAcquire_touchesOwn : TouchesOwn (fun s w => startAcquire s w.uid .pkg none none) := fun s w =>
  ⟨fun _ h => findWarp?_startAcquire_ne s h .., by dsimp only; rw [startAcquire_frame]⟩

theorem startAcquires_teams (ws : List Warp) (s : State) :
    (ws.foldl (fun s w => startAcquire s w.uid .pkg none none) s).teams = s.teams :=
  foldl_frame (R := fun s t : State => t.teams = s.teams) (fun _ => rfl) (fun h k => k.trans h)
    (fun s w => by rw [startAcquire_frame]) ws s

/-! ### The new team (R9, R111, R329) -/

/-- A team of a grid stands on the cores of a spot, every warp at its entry point. -/
def Placed (g : Grid) (lin : Nat) (p : Spot) (t : State) : Prop :=
  ∃ m ∈ t.teams, m.grid = g.uid ∧ m.lin = lin ∧ m.cores = p.cores ∧ m.planes = p.planes ∧ m.place = .resident ∧
    ∀ i < g.r.w, ∃ v ∈ t.warps, ∃ y, v.team = m.uid ∧ v.index = i ∧ v.slot0 = some y ∧ y.pc = 0 ∧ y.mask = 0xFFFFFFFF ∧
      v.slot1 = none ∧ v.depth = 0 ∧ v.flags = 0 ∧ v.trap = none ∧ v.acquires.length = 1

theorem placeTeam_placed (s : State) (g : Grid) (lin n : Nat) (p : Spot) (h : ∀ v ∈ s.warps, v.uid < s.nextId) :
    Placed g lin p (placeTeam s g lin n p) := by
  let quads := (p.cores.map quadOf).eraseDups
  let fused := quads.foldl (fun s q => fuseQuad s q g.r.fusel1) s
  let filled := fillTeam fused g p
  let gang := enterGang filled g quads n
  let made := (fresh gang.2).2
  obtain ⟨fuses, later⟩ : SizesOnly s fused ∧ s.nextId ≤ fused.nextId := fuseQuads_only s quads g.r.fusel1
  have fills : StoreOnly fused filled := fillTeam_only fused g p
  obtain ⟨kept, later'⟩ : gang.2.warps = filled.warps ∧ filled.nextId ≤ gang.2.nextId := enterGang_leaves filled g quads n
  have warps : made.warps = s.warps := kept.trans (by rw [fills, fuses])
  have older : ∀ v ∈ made.warps, v.uid < made.nextId := fun v hv => by
    have := h v (warps ▸ hv)
    have : filled.nextId = fused.nextId := by rw [fills]
    have : made.nextId = gang.2.nextId + 1 := rfl
    omega
  let ws := newWarps made g gang.2.nextId p made.nextId
  obtain ⟨team, fields, does⟩ : ∃ m : Team, (m.uid = gang.2.nextId ∧ m.grid = g.uid ∧ m.lin = lin ∧ m.cores = p.cores ∧
      m.planes = p.planes ∧ m.place = .resident) ∧ placeTeam s g lin n p =
      ws.foldl (fun s w => startAcquire s w.uid .pkg none none) (p.cores.foldl shrinkL1
        { made with nextId := made.nextId + g.r.w, teams := made.teams ++ [m], warps := made.warps ++ ws }) :=
    ⟨_, ⟨rfl, rfl, rfl, rfl, rfl, rfl⟩, rfl⟩
  obtain ⟨uid, grid, is, cores, planes, place⟩ := fields
  let put : State := { made with nextId := made.nextId + g.r.w, teams := made.teams ++ [team], warps := made.warps ++ ws }
  have shrinks : SizesOnly put (p.cores.foldl shrinkL1 put) := shrinkL1s_only p.cores put
  rw [does]
  refine ⟨team, ?_, grid, is, cores, planes, place, fun i hi => ?_⟩
  · rw [startAcquires_teams, shrinks]
    exact List.mem_append_right _ (List.mem_singleton.mpr rfl)
  · have there : findWarp? (p.cores.foldl shrinkL1 put) (made.nextId + i) =
        some (newWarp made g gang.2.nextId p (made.nextId + i) i) :=
      findWarp?_newWarps (old := made.warps) (by rw [shrinks]) older hi
    obtain ⟨before, found, -, passed⟩ := startAcquire_touchesOwn.pass (newWarps_uids made g gang.2.nextId p made.nextId)
      (List.mem_map.mpr ⟨i, List.mem_range.mpr hi, rfl⟩) (u := newWarp made g gang.2.nextId p (made.nextId + i) i) there
    have acquires := passed.trans (findWarp?_startAcquire found .pkg none none)
    exact ⟨_, List.mem_of_find?_eq_some acquires, _, uid.symm, rfl, rfl, rfl, rfl, rfl, rfl, rfl, rfl, rfl⟩

/-! ### The next placement of a partition (R329, R335) -/

theorem countRelaunch_leaves (s : State) (g : Grid) (x : Relaunch) (core : Nat) :
    (countRelaunch s g x core).warps = s.warps ∧ (countRelaunch s g x core).nextId = s.nextId := by
  unfold countRelaunch
  split
  · exact ⟨rfl, rfl⟩
  · unfold recordEvent
    dsimp only
    split <;> exact ⟨rfl, rfl⟩

theorem placeNext_placed {s : State} {part : Nat} {c : Cand} {p : Spot} (hc : choosePlacement s part = some (c, p))
    (h : ∀ v ∈ s.warps, v.uid < s.nextId) {ok : Option Relaunch → Bool} (hok : ok c.relaunch = true) :
    Placed c.grid c.lin p (placeNext s part ok) := by
  obtain ⟨grid, lin, _ | x⟩ := c
  · have does : placeNext s part ok = placeTeam (setGrid s (tookTeam s grid lin)) (tookTeam s grid lin) lin 0 p := by
      rw [placeNext, hc]
      dsimp only
      rw [hok]
      rfl
    rw [does]
    exact placeTeam_placed (setGrid s (tookTeam s grid lin)) (tookTeam s grid lin) lin 0 p h
  · have does : placeNext s part ok =
        placeTeam (countRelaunch s (tookRelaunch grid x lin) x (p.cores.headD 0)) (tookRelaunch grid x lin) lin
          x.relaunches p := by
      rw [placeNext, hc]
      dsimp only
      rw [hok]
      rfl
    obtain ⟨warps, nextId⟩ := countRelaunch_leaves s (tookRelaunch grid x lin) x (p.cores.headD 0)
    rw [does]
    exact placeTeam_placed _ (tookRelaunch grid x lin) lin x.relaunches p (by rw [warps, nextId]; exact h)

theorem placement_becomes (s : State) (part : Nat) (c : Cand) (p : Spot) (hc : choosePlacement s part = some (c, p))
    (h : ∀ v ∈ s.warps, v.uid < s.nextId) :
    (c.relaunch = none ∨ (∃ x, c.relaunch = some x ∧ x.gang = 0) → Becomes (.teamPlacement part) s (Placed c.grid c.lin p)) ∧
    (∀ x g, c.relaunch = some x → x.gang ≠ 0 → s.grids.find? (fun g => g.relaunches.any (fun y => y.gang == x.gang)) =
      some g → g.part = part → Becomes (.gangRelaunch x.gang) s (Placed c.grid c.lin p)) := by
  refine ⟨fun fits => ⟨_, rfl, placeNext_placed hc h ?_⟩, fun x g hx hg found hp => ?_⟩
  · obtain none_ | ⟨x, hx, hg⟩ := fits
    · rw [none_]
      rfl
    · rw [hx]
      exact beq_iff_eq.mpr hg
  · have does : exec (.gangRelaunch x.gang) s = .next
        (placeNext s part (fun r => r.elim false (fun y => y.gang == x.gang && y.gang != 0))) := by
      show execGangRelaunch x.gang s = _
      rw [execGangRelaunch, found]
      dsimp only
      rw [hp]
      rfl
    refine ⟨_, does, placeNext_placed hc h ?_⟩
    rw [hx]
    simp [hg]

end Sys2Proof.Machine
end

section
/-! PROOF. O52, tenth part: requests for a deadline, saves, restores and the rotation of a grid. -/

namespace Sys2Proof.Machine

open Sys2Proof

/-! ### A request stands (R337) -/

/-- Every grid of an identity has asked for room, and there is one. -/
def Requested (uid : Nat) (s : State) : Prop := (∀ h ∈ s.grids, h.uid = uid → h.requested = true) ∧ ∃ h ∈ s.grids, h.uid = uid

/-- Grids that have asked stay so. -/
def KeepsRequests (s t : State) : Prop := ∀ uid, Requested uid s → Requested uid t

theorem KeepsRequests.refl (s : State) : KeepsRequests s s := fun _ h => h

theorem KeepsRequests.trans {s t u : State} (h : KeepsRequests s t) (k : KeepsRequests t u) : KeepsRequests s u :=
  fun uid a => k uid (h uid a)

theorem KeepsRequests.foldl {α : Type} {f : State → α → State} (h : ∀ s a, KeepsRequests s (f s a)) (l : List α) (s : State) :
    KeepsRequests s (l.foldl f s) := foldl_frame .refl .trans h l s

theorem KeepsRequests.of_grids {s t : State} (h : t.grids = s.grids) : KeepsRequests s t := fun _ a => by
  rw [Requested, h]
  exact a

theorem requested_setGrid {s : State} {g : Grid} (hr : g.requested = true) (hg : ∃ h ∈ s.grids, h.uid = g.uid) :
    Requested g.uid (setGrid s g) := by
  refine ⟨fun h hh same => ?_, ?_⟩
  · obtain ⟨x, -, rfl⟩ := List.mem_map.mp hh
    split at same
    next e => rw [if_pos e]; exact hr
    next ne => exact absurd (beq_iff_eq.mpr same) ne
  · obtain ⟨h, hh, same⟩ := hg
    exact ⟨g, List.mem_map.mpr ⟨h, hh, if_pos (beq_iff_eq.mpr same)⟩, rfl⟩

theorem setGrid_keepsRequests {s : State} {u : Nat} {g g' : Grid} (hg : findGrid? s u = some g) (hu : g'.uid = g.uid)
    (hr : g'.requested = g.requested) : KeepsRequests s (setGrid s g') := by
  intro uid ⟨all, h, hh, same⟩
  by_cases e : g'.uid = uid
  · subst e
    exact requested_setGrid (hr.trans (all g (List.mem_of_find?_eq_some hg) hu.symm)) ⟨h, hh, same⟩
  · refine ⟨fun k hk kuid => ?_, h, List.mem_map.mpr ⟨h, hh, if_neg ?_⟩, same⟩
    · obtain ⟨x, hx, rfl⟩ := List.mem_map.mp hk
      split at kuid
      next => exact absurd kuid e
      next ne =>
        rw [if_neg ne]
        exact all x hx kuid
    · rw [beq_iff_eq, same]
      exact fun h => e h.symm

theorem setBarOf_keepsRequests (s : State) (t : Team) (level : BarLevel) (b : Bar) : KeepsRequests s (setBarOf s t level b) := by
  cases level with
  | team => exact .of_grids rfl
  | gang => exact .of_grids (by rw [setBarOf]; cases findGang? s t.gang <;> rfl)
  | grid =>
    rw [setBarOf]
    cases h : findGrid? s t.grid with
    | none => exact .refl s
    | some g => exact setGrid_keepsRequests h rfl rfl
  | pod => exact .refl s

theorem leaveGangBar_keepsRequests (s : State) (w : Warp) (t : Team) (n : BitVec 6) : KeepsRequests s (leaveGangBar s w t n) := by
  unfold leaveGangBar
  split
  · exact .refl s
  · exact setBarOf_keepsRequests _ _ _ _

theorem withdrawBar_keepsRequests (s : State) (w : Warp) (t : Team) (level : BarLevel) (b : WarpBar) :
    KeepsRequests s (withdrawBar s w t level b) := by
  unfold withdrawBar
  split
  · exact .refl s
  · exact setBarOf_keepsRequests _ _ _ _

theorem removeTeams_keepsRequests (s : State) (uids : List Nat) : KeepsRequests s (removeTeams s uids) := by
  unfold removeTeams
  dsimp only
  refine KeepsRequests.trans (.foldl (fun s w => ?_) (s.warps.filter (fun w => uids.contains w.team)) s) (.of_grids rfl)
  split
  · exact .refl s
  · refine .foldl (fun s b => ?_) w.bars s
    split
    · exact withdrawBar_keepsRequests _ _ _ _ _
    · exact .refl s

theorem sweepGangs_grids (s : State) (f : Gang → Gang) : (sweepGangs { s with gangs := s.gangs.map f }).grids = s.grids := rfl

theorem discardTeam_keepsRequests (s : State) (team : Nat) : KeepsRequests s (discardTeam s team) := by
  unfold discardTeam
  split
  · exact .refl s
  · rename_i t ht
    dsimp only
    have left : KeepsRequests s _ := .foldl (fun r w => .foldl (fun r n => leaveGangBar_keepsRequests r w t (BitVec.ofNat 6 n))
      (List.range ((findGrid? s t.grid).elim 0 (·.r.nbar))) r) (s.warps.filter (fun w => w.team == team)) s
    have removed := left.trans (removeTeams_keepsRequests _ [team])
    have closed := removed.trans (.of_grids (sweepGangs_grids _
      (fun x => if x.uid == t.gang then { x with open_ := false } else x)))
    split
    · exact closed
    · rename_i g hg
      exact closed.trans (setGrid_keepsRequests hg rfl rfl)

theorem nameTeam_keepsRequests (s : State) (uid d : Nat) : KeepsRequests s (nameTeam s uid d) := by
  unfold nameTeam
  split
  · exact .refl s
  · split
    · exact .refl s
    · generalize estimate s _ _ = e
      cases e with
      | drain => exact .of_grids rfl
      | save => exact .of_grids rfl
      | discard => exact discardTeam_keepsRequests _ _

/-- A grid of a deadline class whose next team has waited too long, and that has not asked. -/
def Late (s : State) (part : Nat) (g : Grid) : Prop :=
  g.part = part ∧ g.failed = none ∧ g.requested = false ∧ ∃ c n,
    classTimes g.r.dclass = some c ∧ waitsSince s g = some n ∧ n + micros s c.1 < s.cycle

theorem deadlineRequest_becomes (s : State) (part : Nat) (before : List Grid) (g : Grid) (after : List Grid)
    (hs : s.grids = before ++ g :: after) (hb : ∀ h ∈ before, ¬ Late s part h) (hg : Late s part g) :
    Becomes (.deadlinePreemption part) s (fun t => ∃ h ∈ t.grids, h.uid = g.uid ∧ h.requested = true) := by
  let late (g : Grid) : Bool := g.part == part && g.failed.isNone && !g.requested &&
    (match classTimes g.r.dclass, waitsSince s g with
     | some c, some n => decide (n + micros s c.1 < s.cycle)
     | _, _ => false)
  have is (h : Grid) : late h = true ↔ Late s part h := by
    simp only [late, Late, Bool.and_eq_true, beq_iff_eq, Option.isNone_iff_eq_none, Bool.not_eq_true', and_assoc]
    refine and_congr_right fun _ => and_congr_right fun _ => and_congr_right fun _ => ?_
    cases classTimes h.r.dclass <;> cases waitsSince s h <;> simp
  have found : s.grids.find? late = some g := by
    rw [hs]
    exact List.find?_eq_some_iff_append.mpr ⟨(is g).mpr hg, before, after, rfl, fun h hh => by
      simpa using mt (is h).mp (hb h hh)⟩
  have does : deadlineRequest s part = (enoughTeams s g [] (victims s g)).foldl
      (fun t u => nameTeam t u ((classTimes g.r.dclass).elim 0 (·.2))) (setGrid s { g with requested := true }) := by
    show (match s.grids.find? late with | none => s | some g => _) = _
    rw [found]
  refine ⟨deadlineRequest s part, rfl, ?_⟩
  rw [does]
  have asked : Requested g.uid (setGrid s { g with requested := true }) :=
    requested_setGrid (g := { g with requested := true }) rfl ⟨g, by rw [hs]; simp, rfl⟩
  obtain ⟨all, h, hh, uid⟩ := KeepsRequests.foldl (fun t u => nameTeam_keepsRequests t u _)
    (enoughTeams s g [] (victims s g)) _ g.uid asked
  exact ⟨h, hh, uid, all h hh uid⟩

/-! ### The rotation of a grid (R339) -/

theorem rotation_becomes (s : State) (id : Nat) (g : Grid) (b : BarLevel × BitVec 6) (m : Team) (hg : findGrid? s id = some g)
    (hr : g.r.gridbar = true) (hv : g.r.saveva ≠ 0) (hf : g.failed = none)
    (hb : (rotationBars g).find? (fun b => rotates s g b.1 b.2) = some b) (hn : roomNow s g b.1 b.2 = false) :
    let here := s.teams.filter (fun t => t.grid == g.uid && t.place == .resident)
    (∀ u ∈ here, u.halting = false ∧ u.compacting = false) → m ∈ here → (∀ u ∈ here, u.lin ≤ m.lin) →
    (here.map (·.lin)).Nodup → findTeam? s m.uid = some m → (∀ u ∈ here, u.lin < 2 ^ 32) →
    Becomes (.gridBarrierRotation id) s (fun t => findTeam? t m.uid =
      some { m with decision := .save, halting := true, reserve := shadowFree s m, rotated := true }) := by
  intro here quiet mem most once found small
  have chosen : leastBy (fun t => [2 ^ 32 - t.lin]) here = some m := by
    cases h : leastBy (fun t : Team => [2 ^ 32 - t.lin]) here with
    | none => exact absurd (leastBy_eq_none.mp h ▸ mem) List.not_mem_nil
    | some x =>
      obtain ⟨hx, least⟩ := leastBy_least 1 h fun _ => rfl
      have order : 2 ^ 32 - x.lin ≤ 2 ^ 32 - m.lin := single_le_iff.mp (least m mem)
      have := most x hx
      have := small m mem
      have := small x hx
      rw [List.inj_on_of_nodup_map once hx mem (by omega)]
  have still : here.any (fun t => t.halting || t.compacting) = false := List.any_eq_false.mpr fun u hu => by
    obtain ⟨halting, compacting⟩ := quiet u hu
    rw [halting, compacting]
    exact Bool.false_ne_true
  have does : rotation s id = beginSave s m m.deadline true := by
    have may : ¬ (!g.r.gridbar || g.r.saveva == 0 || g.failed.isSome) = true := by
      rw [hr, hf, beq_eq_false_iff_ne.mpr hv]
      decide
    have room : ¬ (roomNow s g b.1 b.2 || here.any (fun t => t.halting || t.compacting)) = true := by simp [hn, still]
    rw [rotation, hg]
    dsimp only
    rw [if_neg may, hb]
    dsimp only
    rw [if_neg room, chosen]
  refine ⟨rotation s id, rfl, ?_⟩
  rw [does]
  show findTeam? (setTeam s _) m.uid = _
  rw [findTeam?_setTeam, found]
  simp

/-! ### Saves (R336) -/

theorem wordKind_writes (write : Bool) : FabKind.writes (wordKind write) = write := by cases write <;> rfl

theorem withWalked_served {s : State} {who : ReqSrc} {tables : List Place} {write : Bool} {ps : List Place}
    (ht : placesBusy s who false tables = false) (hp : placesBusy s who write ps = false) (act : State) :
    Served act (withWalked s who tables write ps act) := by
  refine withAccess_served (fun p hp' => ?_) act
  simp only [List.mem_cons, List.not_mem_nil, or_false] at hp'
  obtain rfl | rfl := hp'
  · exact (wordKind_writes false).symm ▸ ht
  · exact (wordKind_writes write).symm ▸ hp

/-- A word that none of the writes is to stays. -/
theorem engineWrites_word_ne {gs : List (Nat × Tab CWord × Bool)} {s : State} (hs : s.hbm.wf = true) {k : Nat}
    (h : ∀ g ∈ gs, ∀ q ∈ g.2.1, 32 * g.1 + q.1 ≠ k) :
    (gs.foldl (fun s g => engineWrite s g.1 g.2.1 g.2.2) s).hbm.word k = s.hbm.word k := by
  induction gs generalizing s with
  | nil => rfl
  | cons g gs ih =>
    obtain ⟨-, hbm⟩ := engineWrite_leaves s g.1 g.2.1 g.2.2
    have step : (engineWrite s g.1 g.2.1 g.2.2).hbm.wf = true ∧ (engineWrite s g.1 g.2.1 g.2.2).hbm.word k = s.hbm.word k := by
      rw [hbm]
      split
      · exact ⟨hs, rfl⟩
      · exact ⟨foldl_setWord_wf _ _ _ hs, word_foldl_setWord_of (key := fun q : Nat × CWord => 32 * g.1 + q.1) hs
          (fun q hq e => absurd e (h g List.mem_cons_self q hq)) (.inr rfl)⟩
    rw [List.foldl_cons, ih step.1 fun r hr => h r (List.mem_cons_of_mem _ hr)]
    exact step.2

theorem placesWrite_word_ne {s : State} (hs : s.hbm.wf = true) {ws : List (Place × CWord)}
    (plain : ∀ p ∈ ws, ownFabric p.1.pa = false) {k : Nat} (h : ∀ p ∈ ws, p.1.pa / 4 ≠ k) :
    (placesWrite s ws).hbm.word k = s.hbm.word k := by
  have here : ws.filterMap (fun p => (Place.here? s true p.1).map (fun q => (q, p.2))) = ws := by
    refine (List.filterMap_congr fun p hp => ?_).trans List.filterMap_some
    rw [Place.here?, plain p hp]
    rfl
  have host (l : List (Place × CWord)) (r : State) : (l.foldl placeHost r).hbm = r.hbm :=
    foldl_frame (R := fun s t : State => t.hbm = s.hbm) (fun _ => rfl) (fun h k => k.trans h)
      (fun s p => (placeHost_leaves s p).2) l r
  rw [placesWrite, here, host]
  refine engineWrites_word_ne hs fun g hg q hq e => ?_
  obtain ⟨p, hp, place, -⟩ := inLines_placeLines ⟨g, hg, rfl, hq⟩
  refine h p hp ?_
  unfold Place.hbm? at place
  split at place
  · obtain ⟨line, word⟩ := Prod.mk.inj (Option.some.inj place)
    omega
  · cases place

/-- A team whose image is taken: on its planes, or in memory. -/
def Saved (m : Team) (memory : Bool) (t : State) : Prop :=
  (∃ m', findTeam? t m.uid = some m' ∧ m'.place = .saved memory ∧ m'.halting = false ∧ m'.decision = .none ∧
    m'.images.map (·.core) = m.cores) ∧ ∀ g ∈ t.gangs, g.uid = m.gang → g.open_ = false

/-- Where the image of a team goes; nowhere in memory if a shadow plane takes it. -/
def imagePlaces (s : State) (m : Team) : List Place := if shadowFree s m then [] else savePlaces s m

section
variable {s : State} {m : Team} (found : findTeam? s m.uid = some m) (resident : m.place = .resident)
  (decided : m.decision = .save) (whole : m.compacting = false) (thawed : teamFrozen s m = false)
  (quiet : ∀ w ∈ s.warps, w.team = m.uid → quietSave w = true) (rows : copiesAtRow s (copyInTeam s m) = true)
include found resident decided whole thawed quiet rows

/-- The save of a halted team: its image is written, its teams' and gangs' entries say so, and the places are served. -/
theorem saveTeam_saves (room : shadowFree s m = true ∨ (recOf s m).saveva ≠ 0) : ∃ act : State,
    saveTeam s m.uid = withWalked s (.engine m.uid) (if shadowFree s m then [] else saveTables s m) true (imagePlaces s m) act ∧
      Saved m (!shadowFree s m) act ∧ act.hbm = (writeImage s (imagePlaces s m)).hbm ∧
      act.host = (writeImage s (imagePlaces s m)).host := by
  let ws := s.warps.filter (fun w => w.team == m.uid)
  let written := writeImage s (imagePlaces s m)
  let u := m.cores.foldl (fun u c => pausedOut u c [m.uid]) (stopCopies (flushAll written ws) (copyInTeam s m))
  let m' : Team := { m with images := m.cores.map (imageOf u m), place := .saved (!shadowFree s m), halting := false,
                            decision := .none, reserve := false, since := s.cycle }
  let act : State := { setTeam u m' with
    gangs := u.gangs.map (fun g => if g.uid == m.gang then { g with open_ := false } else g) }
  have blocks : BlocksOnly written u :=
    ((flushAll_only ..).trans (stopCopies_only ..)).trans (.foldl (fun u c => pausedOut_only u c [m.uid]) ..)
  have memories : MemoriesOnly s written := placesWrite_only ..
  have teams : findTeam? u m.uid = some m := by
    rw [blocks.findTeam?]
    refine Eq.trans ?_ found
    rw [memories]
    rfl
  refine ⟨act, ?_, ⟨⟨m', ?_, rfl, rfl, rfl, ?_⟩, fun g hg same => ?_⟩, ?_, ?_⟩
  · have still : ws.all quietSave = true := List.all_eq_true.mpr fun w hw => by
      obtain ⟨mem, team⟩ := List.mem_filter.mp hw
      exact quiet w mem (beq_iff_eq.mp team)
    have place : (!shadowFree s m && (recOf s m).saveva == 0) = false := by
      obtain shadow | area := room
      · rw [shadow]
        rfl
      · rw [beq_eq_false_iff_ne.mpr area, Bool.and_false]
    have ready : ¬ (m.place != .resident || m.decision != .save || m.compacting || teamFrozen s m || !ws.all quietSave ||
        !copiesAtRow s (copyInTeam s m) || (!shadowFree s m && (recOf s m).saveva == 0)) = true := by
      rw [resident, decided, whole, thawed, still, rows, place]
      decide
    rw [saveTeam, found]
    exact if_neg ready
  · exact (findTeam?_setTeam u m' m.uid).trans (by rw [teams]; simp [m'])
  · simp [m', imageOf, Function.comp_def]
  · obtain ⟨x, -, rfl⟩ := List.mem_map.mp hg
    split at same
    next e => rw [if_pos e]
    next ne => exact absurd (beq_iff_eq.mpr same) ne
  · show u.hbm = written.hbm
    rw [blocks]
  · show u.host = written.host
    rw [blocks]

theorem teamSave_shadow (shadow : shadowFree s m = true) :
    Becomes (.teamSave m.uid) s (fun t => Saved m false t ∧ MemoryKept s t) := by
  obtain ⟨act, does, saved, hbm, host⟩ := saveTeam_saves found resident decided whole thawed quiet rows (.inl shadow)
  have none_ : imagePlaces s m = [] := if_pos shadow
  have same : writeImage s [] = s := rfl
  rw [none_, same] at hbm host
  rw [shadow, none_, if_pos rfl] at does
  have served : Served act (saveTeam s m.uid) := does ▸ withWalked_served rfl rfl act
  refine ⟨saveTeam s m.uid, rfl, ?_⟩
  rw [served.1]
  exact ⟨by rw [shadow] at saved; exact saved, hbm, host⟩

theorem teamSave_memory (shadow : shadowFree s m = false) (area : (recOf s m).saveva ≠ 0)
    (tables : placesBusy s (.engine m.uid) false (saveTables s m) = false)
    (free : placesBusy s (.engine m.uid) true (savePlaces s m) = false) :
    Becomes (.teamSave m.uid) s (fun t => Saved m true t ∧
      (s.hbm.wf = true → (∀ q ∈ savePlaces s m, ownFabric q.pa = false) →
        ∀ k, (∀ q ∈ savePlaces s m, q.pa / 4 ≠ k) → t.hbm.word k = s.hbm.word k)) := by
  obtain ⟨act, does, saved, hbm, -⟩ := saveTeam_saves found resident decided whole thawed quiet rows (.inr area)
  have places : imagePlaces s m = savePlaces s m := by rw [imagePlaces, shadow, if_neg Bool.false_ne_true]
  rw [places] at hbm
  rw [shadow, places, if_neg Bool.false_ne_true] at does
  have served : Served act (saveTeam s m.uid) := does ▸ withWalked_served tables free act
  refine ⟨saveTeam s m.uid, rfl, ?_⟩
  rw [served.1]
  refine ⟨by rw [shadow] at saved; exact saved, fun hs plain k other => ?_⟩
  have written : ∀ p ∈ (savePlaces s m).zipIdx.map (fun p => (p.1, good (Config.imageWord s.tick p.2))), p.1 ∈ savePlaces s m :=
    fun p hp => by
      obtain ⟨q, hq, rfl⟩ := List.mem_map.mp hp
      exact List.fst_mem_of_mem_zipIdx hq
  show act.hbm.word k = _
  rw [hbm]
  exact placesWrite_word_ne hs (fun p hp => plain _ (written p hp)) fun p hp => other _ (written p hp)

end

end Sys2Proof.Machine
end

section
/-! PROOF. O52, eleventh part: a saved team comes back. -/

namespace Sys2Proof.Machine

open Sys2Proof

/-! ### The fusing of quads (R59) -/

theorem fuseQuad_getQuad {s : State} (hs : tsorted s.quads = true) (q : Nat) (fused : Bool) :
    tsorted (fuseQuad s q fused).quads = true ∧ ∀ k, (getQuad (fuseQuad s q fused) k).fused =
      if k = q then fused else (getQuad s k).fused := by
  unfold fuseQuad
  split
  next same =>
    refine ⟨hs, fun k => ?_⟩
    split
    next e => rw [e, beq_iff_eq.mp same]
    next => rfl
  next =>
    have quads : ((coresOfQuad q).foldl emptyCoreL1 s).quads = s.quads :=
      foldl_frame (R := fun s t : State => t.quads = s.quads) (fun _ => rfl) (fun h k => k.trans h)
        (fun s c => by rw [emptyCoreL1_only s c]) (coresOfQuad q) s
    generalize (coresOfQuad q).foldl emptyCoreL1 s = r at quads
    have sorted : tsorted r.quads = true := quads ▸ hs
    refine ⟨tsorted_tput sorted _ _ _, fun k => ?_⟩
    show (tget (tput r.quads q { getQuad r q with fused := fused } Quad.dflt) k Quad.dflt).fused = _
    split
    next e => rw [e, tget_tput_self sorted]
    next ne =>
      rw [tget_tput_ne sorted _ _ _ ne, quads]
      rfl

theorem fuseQuads_fused {s : State} (hs : tsorted s.quads = true) (qs : List Nat) (fused : Bool) {k : Nat}
    (h : k ∈ qs ∨ (getQuad s k).fused = fused) : (getQuad (qs.foldl (fun s q => fuseQuad s q fused) s) k).fused = fused := by
  induction qs generalizing s with
  | nil => exact h.resolve_left List.not_mem_nil
  | cons q qs ih =>
    obtain ⟨sorted, after⟩ := fuseQuad_getQuad hs q fused
    refine ih sorted ?_
    rw [after]
    by_cases e : k = q
    · exact .inr (if_pos e)
    · rw [if_neg e]
      exact h.imp_left fun mem => (List.mem_cons.mp mem).resolve_left e

/-! ### The restore (R336, R341) -/

theorem putImage_only (s : State) (t : Team) (tile : Nat) (m : Image) : BlocksOnly s (putImage s t tile m) :=
  (BlocksOnly.foldl (fun s r => clearStore_only s _ _) (teamRegions s t m.core) s).trans (by exact rfl)

theorem seatWarps_only (s : State) (t : Team) (slots : List (List Nat)) (gap : Nat) : BlocksOnly s (seatWarps s t slots gap) :=
  rfl

theorem shrinkL1_quads (s : State) (core : Nat) : (shrinkL1 s core).quads = s.quads := by
  unfold shrinkL1
  dsimp only
  split
  · show (emptyCoreL1 s core).quads = s.quads
    rw [emptyCoreL1_only s core]
  · rfl

/-- What the end of a restore changes: neither memory nor teams nor the fusing of quads. -/
def SettlesOnly (s t : State) : Prop := t.hbm = s.hbm ∧ t.host = s.host ∧ t.teams = s.teams ∧ t.quads = s.quads

theorem SettlesOnly.refl (s : State) : SettlesOnly s s := ⟨rfl, rfl, rfl, rfl⟩

theorem SettlesOnly.trans {s t u : State} (h : SettlesOnly s t) (k : SettlesOnly t u) : SettlesOnly s u :=
  ⟨k.1.trans h.1, k.2.1.trans h.2.1, k.2.2.1.trans h.2.2.1, k.2.2.2.trans h.2.2.2⟩

theorem SettlesOnly.foldl {α : Type} {f : State → α → State} (h : ∀ s a, SettlesOnly s (f s a)) (l : List α) (s : State) :
    SettlesOnly s (l.foldl f s) := foldl_frame .refl .trans h l s

theorem BlocksOnly.settles {s t : State} (h : BlocksOnly s t) : SettlesOnly s t := by
  rw [h]
  exact ⟨rfl, rfl, rfl, rfl⟩

theorem shrinkL1_settles (s : State) (core : Nat) : SettlesOnly s (shrinkL1 s core) := by
  refine ⟨?_, ?_, ?_, shrinkL1_quads s core⟩ <;> rw [shrinkL1_only s core]

theorem startAcquire_settles (s : State) (w : Warp) : SettlesOnly s (startAcquire s w.uid .pkg none none) := by
  rw [startAcquire_frame]
  exact ⟨rfl, rfl, rfl, rfl⟩

theorem teamRestore_becomes (s : State) (m : Team) (found : findTeam? s m.uid = some m) (out : m.place ≠ .resident)
    (turn : turnOf s m = true) (room : restorable s m = true) :
    Becomes (.teamRestore m.uid) s (fun t => MemoryKept s t ∧ (∃ m', findTeam? t m.uid = some m' ∧
      m'.place = .resident ∧ m'.images = [] ∧ m'.since = s.cycle) ∧
      (tsorted s.quads = true → ∀ c ∈ m.cores, (getQuad t (quadOf c)).fused = (recOf s m).fusel1)) := by
  let r := recOf s m
  let quads := (m.cores.map quadOf).eraseDups
  let fused := quads.foldl (fun s q => fuseQuad s q r.fusel1) s
  let tiles := m.cores.map (fun c => (fitTiles fused c r.acc).getD 0)
  let slots := m.cores.map (fun c => (freeSlots fused c).take (LaunchRec.perCore r))
  let put := m.images.zipIdx.foldl (fun s i => putImage s m (tiles.getD i.2 0) i.1) fused
  let seated := seatWarps put m slots (put.cycle - m.since)
  let m' : Team := { m with place := .resident, images := [], accBase := tiles, since := seated.cycle, rotated := false }
  let back := setTeam seated m'
  let shrunk := m.cores.foldl shrinkL1 back
  let going := resumeCopies shrunk (copyInTeam seated m')
  have ready : ¬ (m.place == .resident || !turnOf s m || !restorable s m) = true := by
    rw [turn, room, beq_eq_false_iff_ne.mpr out]
    decide
  have does : restoreTeam s m.uid = (going.warps.filter (fun w => w.team == m.uid)).foldl
      (fun s w => startAcquire s w.uid .pkg none none) going := by
    rw [restoreTeam, found]
    exact if_neg ready
  have fuses : SizesOnly s fused := (fuseQuads_only s quads r.fusel1).1
  have puts : BlocksOnly fused put := by
    refine BlocksOnly.foldl (fun s i => ?_) _ fused
    exact putImage_only ..
  have settles : SettlesOnly back (restoreTeam s m.uid) := by
    rw [does]
    exact ((SettlesOnly.foldl shrinkL1_settles m.cores back).trans (resumeCopies_only ..).settles).trans
      (.foldl startAcquire_settles _ going)
  obtain ⟨hbm, host, teams, kept⟩ := settles
  have table : ∀ u, findTeam? (restoreTeam s m.uid) u = findTeam? back u := fun u => by rw [findTeam?, findTeam?, teams]
  refine ⟨restoreTeam s m.uid, rfl, ⟨hbm.trans ?_, host.trans ?_⟩, ⟨m', ?_, rfl, rfl, ?_⟩, fun hs c hc => ?_⟩
  · show put.hbm = s.hbm
    rw [puts, fuses]
  · show put.host = s.host
    rw [puts, fuses]
  · rw [table, findTeam?_setTeam, (seatWarps_only ..).findTeam?, puts.findTeam?, fuses.findTeam?, found]
    simp [m']
  · show put.cycle = s.cycle
    rw [puts, fuses]
  · rw [getQuad, kept]
    show (getQuad put (quadOf c)).fused = _
    rw [puts]
    exact fuseQuads_fused hs quads r.fusel1 (.inl (List.mem_eraseDups.mpr (List.mem_map_of_mem hc)))

end Sys2Proof.Machine
end

section
/-! PROOF. O52, twelfth part: the members of a pod group. -/

namespace Sys2Proof.Machine

open Sys2Proof

/-! ### Phases at the rank-0 CLE (R340) -/

/-- Only the members' parts in the barriers and the phases completed have changed. -/
def Pod.BarsOnly (p q : Pod) : Prop := q = { p with bars := q.bars, completions := q.completions }

theorem Pod.BarsOnly.refl (p : Pod) : Pod.BarsOnly p p := rfl

theorem Pod.BarsOnly.trans {p q r : Pod} (h : Pod.BarsOnly p q) (k : Pod.BarsOnly q r) : Pod.BarsOnly p r := by
  unfold Pod.BarsOnly at *
  rw [k, h]

theorem Pod.phase_only (p : Pod) (n : BitVec 6) : Pod.BarsOnly p (p.phase n) := by
  unfold Pod.phase
  dsimp only
  split
  · rfl
  · exact .refl p

theorem Pod.phases'_only (p : Pod) : Pod.BarsOnly p p.phases' := foldl_frame .refl .trans Pod.phase_only _ p

theorem Pod.count_only (p : Pod) (rank : Nat) (n : BitVec 6) (arrivals drops : Nat) :
    Pod.BarsOnly p (p.count rank n arrivals drops) :=
  Pod.BarsOnly.trans (q := { p with bars := _ }) rfl (Pod.phase_only _ n)

/-- A full count completes the phase, and the next one begins afresh. -/
theorem Pod.phase_completes (p : Pod) (n : BitVec 6) (whole : p.complete = true)
    (some_ : sumOf ((p.barsOf n).map (·.arrived)) ≠ 0)
    (full : sumOf ((p.barsOf n).map (·.arrived)) + sumOf ((p.barsOf n).map (·.dropped)) = sumOf (p.ranks.map (·.2))) :
    (p.phase n).completions = p.completions ++ [n] ∧ ∀ b ∈ (p.phase n).bars, b.n = n → b.arrived = 0 ∧ b.leaving = 0 := by
  have does : p.phase n = { p with
      bars := p.bars.map (fun b => if b.n == n then PodBar.next b else b), completions := p.completions ++ [n] } := by
    refine if_pos ?_
    simp [whole, some_, full]
  rw [does]
  refine ⟨rfl, fun b hb same => ?_⟩
  obtain ⟨x, -, rfl⟩ := List.mem_map.mp hb
  split at same
  next e =>
    rw [if_pos e]
    exact ⟨rfl, rfl⟩
  next ne => exact absurd (beq_iff_eq.mpr same) ne

/-! ### A member stays until it is gone -/

theorem releaseBar_pods (s : State) (m : Team) (level : BarLevel) (n : BitVec 6) (phase : Bool) :
    (releaseBar s m level n phase).pods = s.pods := by
  rw [releaseBar_eq]
  refine foldl_frame (R := fun s t : State => t.pods = s.pods) (fun _ => rfl) (fun h k => k.trans h) (fun s w => ?_) _ s
  unfold releaseOne
  split
  · rw [startAcquire_frame]
    rfl
  · rfl

section
variable {s : State} {part group : Nat} {p : Pod}

theorem findPod?_sweepPods (h : findPod? s part group = some p) (hg : p.gone = false) :
    findPod? (sweepPods s) part group = some p := by
  have stays : (!p.ended) = true := by
    rw [Pod.ended, hg]
    rfl
  obtain ⟨names, before, after, pods, first⟩ := List.find?_eq_some_iff_append.mp h
  rw [findPod?, sweepPods, List.find?_filter]
  refine List.find?_eq_some_iff_append.mpr ⟨by rw [stays, names]; rfl, before, after, pods, fun q hq => ?_⟩
  have := first q hq
  simp only [Bool.not_eq_true'] at this
  simp [this]

theorem findPod?_names (h : findPod? s part group = some p) : p.part = part ∧ p.group = group := by
  simpa using List.find?_some h

/-- A member's new record is found, unless it has gone. -/
theorem findPod?_sweep_setPod (h : findPod? s part group = some p) {q : Pod} (hp : q.part = p.part) (hg : q.group = p.group)
    (hn : q.gone = false) : findPod? (sweepPods (setPod s q)) part group = some q := by
  obtain ⟨part_, group_⟩ := findPod?_names h
  exact findPod?_sweepPods (findPod?_setPod h (hp.trans part_) (hg.trans group_)) hn

variable (h : findPod? s part group = some p) (hn : p.gone = false)
include h hn

theorem podRegistration_own (hs : p.sent = false) : Becomes (.podRegistration part group p.rank p.threads) s
    (fun t => ∃ p', findPod? t part group = some p' ∧ p'.sent = true) := by
  let q : Pod := if p.rank == 0 then Pod.phases' { p with sent := true, ranks := tset p.ranks 0 p.threads }
    else { p with sent := true }
  have does : podRegister s part group p.rank p.threads = sweepPods (setPod s q) := by
    rw [podRegister, h]
    dsimp only
    rw [if_pos (beq_self_eq_true _), if_neg (by simp [hs])]
  have keeps : q.part = p.part ∧ q.group = p.group ∧ q.gone = false ∧ q.sent = true := by
    dsimp only [q]
    split
    · rw [Pod.phases'_only]
      exact ⟨rfl, rfl, hn, rfl⟩
    · exact ⟨rfl, rfl, hn, rfl⟩
  obtain ⟨hp, hg, gone, sent⟩ := keeps
  refine ⟨podRegister s part group p.rank p.threads, rfl, q, ?_, sent⟩
  rw [does]
  exact findPod?_sweep_setPod h hp hg gone

theorem podRegistration_other {rank count : Nat} (h0 : p.rank = 0) (hr : rank ≠ 0) (hm : rank < p.np)
    (new : tget? p.ranks rank = none) : Becomes (.podRegistration part group rank count) s
    (fun t => ∃ p', findPod? t part group = some p' ∧ tget? p'.ranks rank = some count) := by
  let q := Pod.phases' { p with ranks := tset p.ranks rank count }
  have does : podRegister s part group rank count = sweepPods (setPod s q) := by
    rw [podRegister, h]
    dsimp only
    rw [if_neg (by rw [h0]; simpa using hr), if_neg (by simp [h0, hm, new])]
  have keeps : Pod.BarsOnly { p with ranks := tset p.ranks rank count } q := Pod.phases'_only _
  refine ⟨podRegister s part group rank count, rfl, q, ?_, ?_⟩
  · rw [does]
    exact findPod?_sweep_setPod h (by rw [keeps]) (by rw [keeps]) (by rw [keeps]; exact hn)
  · rw [keeps]
    exact tget?_tset_self ..

theorem podMessage_own {n : BitVec 6} {a d : Nat} {rest : List (BitVec 6 × Nat × Nat)} (ho : p.out = (n, a, d) :: rest)
    (hs : p.sent = true) : Becomes (.podBarrierMessage part group p.rank n a d) s
    (fun t => ∃ p', findPod? t part group = some p' ∧ p'.out = rest) := by
  let q : Pod := if p.rank == 0 then Pod.count { p with out := rest } 0 n a d else { p with out := rest }
  have does : podMessage s part group p.rank n a d = sweepPods (setPod s q) := by
    rw [podMessage, h]
    dsimp only
    rw [if_pos (beq_self_eq_true _), ho]
    dsimp only
    rw [if_neg (by simp [hs])]
  have keeps : q.part = p.part ∧ q.group = p.group ∧ q.gone = false ∧ q.out = rest := by
    dsimp only [q]
    split
    · rw [Pod.count_only]
      exact ⟨rfl, rfl, hn, rfl⟩
    · exact ⟨rfl, rfl, hn, rfl⟩
  obtain ⟨hp, hg, gone, out⟩ := keeps
  refine ⟨podMessage s part group p.rank n a d, rfl, q, ?_, out⟩
  rw [does]
  exact findPod?_sweep_setPod h hp hg gone

theorem podPhase_completes {n : BitVec 6} (hc : p.completes n = true) : Becomes (.podPhaseCompletion part group n) s
    (fun t => ∃ p', findPod? t part group = some p' ∧ tget? p'.phases n.toNat = some (!tget p.phases n.toNat false)) := by
  let bit := !tget p.phases n.toNat false
  let q : Pod := { p with mine := putPodBar p.mine (PodBar.next (findPodBar p.mine n p.rank)),
                          phases := tset p.phases n.toNat bit, completions := p.completions.erase n }
  let t := ((setPod s q).teams.find? (fun t => t.grid == q.grid)).elim (setPod s q)
    (fun t => releaseBar (setPod s q) t .pod n bit)
  have does : podPhase s part group n = sweepPods t := by
    rw [podPhase, h]
    dsimp only
    rw [if_neg (by simp [hc])]
  have pods : t.pods = (setPod s q).pods := by
    dsimp only [t]
    cases (setPod s q).teams.find? (fun t => t.grid == q.grid) with
    | none => rfl
    | some m =>
      show (releaseBar (setPod s q) m .pod n bit).pods = _
      exact releaseBar_pods ..
  obtain ⟨part_, group_⟩ := findPod?_names h
  have there : findPod? t part group = some q := by
    rw [findPod?, pods]
    exact findPod?_setPod h part_ group_
  refine ⟨podPhase s part group n, rfl, q, ?_, tget?_tset_self ..⟩
  rw [does]
  exact findPod?_sweepPods there hn

end

end Sys2Proof.Machine
end

section
/-! PROOF. O52, thirteenth part: a grid completes. -/

namespace Sys2Proof.Machine

open Sys2Proof

/-! ### The status that PROD looks up (R331) -/

/-- The partitions' lists of completed launches are as they were. -/
def KeepsCompleted (s t : State) : Prop := ∀ p, (getPartition t p).completed = (getPartition s p).completed

theorem KeepsCompleted.refl (s : State) : KeepsCompleted s s := fun _ => rfl

theorem KeepsCompleted.trans {s t u : State} (h : KeepsCompleted s t) (k : KeepsCompleted t u) : KeepsCompleted s u :=
  fun p => (k p).trans (h p)

theorem KeepsCompleted.foldl {α : Type} {f : State → α → State} (h : ∀ s a, KeepsCompleted s (f s a)) (l : List α) (s : State) :
    KeepsCompleted s (l.foldl f s) := foldl_frame .refl .trans h l s

theorem KeepsCompleted.of_partitions {s t : State} (h : t.partitions = s.partitions) : KeepsCompleted s t := fun p => by
  rw [getPartition, getPartition, h]

/-- A partition's entry that is not the reset one is found, however the table lies. -/
theorem tget_tput_of_ne {α : Type} [DecidableEq α] (t : Tab α) (k : Nat) {v d : α} (h : v ≠ d) (l : Nat) :
    tget (tput t k v d) l d = if l = k then v else tget t l d := by
  rw [tput, if_neg h, tget]
  split
  next e => rw [e, tget?_tset_self, Option.getD_some]
  next ne => rw [tget?_tset_ne _ _ ne, tget]

theorem postRec_keepsCompleted (s : State) (part type : Nat) (src : RecSrc) (words : List Word) :
    KeepsCompleted s (postRec s part type src words).2 := by
  let x : Partition := { getPartition s part with recs := (getPartition s part).recs ++ [⟨(fresh s).1, type, src, words⟩] }
  have some_ : x ≠ Partition.dflt := fun e => by
    have := congrArg Partition.recs e
    simp [x, Partition.dflt] at this
  intro p
  show (tget (tput s.partitions part x Partition.dflt) p Partition.dflt).completed = _
  rw [tget_tput_of_ne _ _ some_]
  split
  next e => rw [e]
  next => rfl

theorem ownDone_keepsCompleted (before : State) (who : ReqSrc) (kind : FabKind) (ps : List Place) (s : State) :
    KeepsCompleted s (ownDone before who kind ps s) := by
  unfold ownDone
  refine KeepsCompleted.trans (.foldl (fun s q => ?_) (ownProts before kind ps) s) (.of_partitions rfl)
  intro p
  exact postRec_keepsCompleted s _ _ _ _ p

theorem askServed_keepsCompleted (who : ReqSrc) (as : List Ask) (s : State) :
    KeepsCompleted s (askServed touchHome who as s) := by
  refine .of_partitions ?_
  unfold askServed
  exact foldl_frame (R := fun s t : State => t.partitions = s.partitions) (fun _ => rfl) (fun h k => k.trans h)
    (f := fun s (a : Ask) => touchHome s a.line) (fun _ _ => rfl) as _

/-- What an engine does with places that it may have happens, and the lists of completed launches are as it left them. -/
theorem withWalked_keepsCompleted {s : State} {who : ReqSrc} {tables : List Place} {write : Bool} {ps : List Place}
    (ht : placesBusy s who false tables = false) (hp : placesBusy s who write ps = false) (act : State) :
    KeepsCompleted act (withWalked s who tables write ps act) := by
  obtain ⟨askTables, waitTables⟩ := Bool.or_eq_false_iff.mp ht
  obtain ⟨askPlaces, waitPlaces⟩ := Bool.or_eq_false_iff.mp hp
  have asks : ([(wordKind false, tables), (wordKind write, ps)].map (fun p => placeAsks s (FabKind.writes p.1) p.2)).flatten.any
      (askWaits s who) = false := by
    simp only [List.map_cons, List.map_nil, List.flatten_cons, List.flatten_nil, List.append_nil, List.any_append,
      wordKind_writes, askTables, askPlaces, Bool.or_false]
  have waits : [(wordKind false, tables), (wordKind write, ps)].any
      (fun p => p.2.any (Place.waits s who (FabKind.writes p.1))) = false := by
    simp only [List.any_cons, List.any_nil, wordKind_writes, waitTables, waitPlaces, Bool.or_false]
  unfold withWalked withAccess
  dsimp only
  rw [asks, waits, if_neg (by decide)]
  refine KeepsCompleted.trans ?_ (askServed_keepsCompleted _ _ _)
  exact .foldl (f := fun t (p : FabKind × List Place) => ownDone s who p.1 p.2 t)
    (fun t p => ownDone_keepsCompleted s who p.1 p.2 t) [(wordKind false, tables), (wordKind write, ps)] act

/-! ### The member of a pod group (R340) -/

/-- Only the pod groups have changed. -/
def PodsOnly (s t : State) : Prop := t = { s with pods := t.pods }

theorem PodsOnly.refl (s : State) : PodsOnly s s := rfl

theorem PodsOnly.trans {s t u : State} (h : PodsOnly s t) (k : PodsOnly t u) : PodsOnly s u := by
  unfold PodsOnly at *
  rw [k, h]

theorem PodsOnly.withPods {s t : State} (h : PodsOnly s t) (l : List Pod) : PodsOnly s { t with pods := l } :=
  h.trans (u := { t with pods := l }) rfl

theorem podDropAll_only (s : State) (part group : Nat) : PodsOnly s (podDropAll s part group) := by
  unfold podDropAll
  refine foldl_frame .refl .trans (fun s n => ?_) _ s
  split
  · exact .refl s
  · dsimp only
    split
    · exact .refl s
    · rfl

theorem podGridOver_only (s : State) (g : Grid) : PodsOnly s (podGridOver s g) := by
  unfold podGridOver
  split
  · exact .refl s
  · rename_i p _
    have dropped : PodsOnly s (podDropAll s p.part p.group) := podDropAll_only ..
    dsimp only
    split
    · rfl
    · exact dropped.withPods _

/-! ### The completion (R111, R327, R356) -/

/-- The state in which a grid's record is written and its interrupt sent. -/
def completionWritten (s : State) (g : Grid) : State :=
  let t := placesWrite s ((completionPlaces s g).zip ((completionRecord s g).map good))
  if g.r.cint then sendInterrupt t g.part else t

/-- A partition that has one more launch completed. -/
def withCompleted (s : State) (g : Grid) : Partition :=
  { getPartition s g.part with completed := ((g.launch, gridStatus g) :: (getPartition s g.part).completed).take 1024 }

theorem withCompleted_ne (s : State) (g : Grid) : withCompleted s g ≠ Partition.dflt := fun e => by
  have := congrArg Partition.completed e
  simp [withCompleted, Partition.dflt] at this

theorem completionWritten_leaves (s : State) (g : Grid) :
    (completionWritten s g).hbm = (placesWrite s ((completionPlaces s g).zip ((completionRecord s g).map good))).hbm ∧
    (g.r.cint = true → tget? (completionWritten s g).interrupts g.part = some (tget s.interrupts g.part 0 + 1)) := by
  unfold completionWritten
  dsimp only
  split
  next =>
    refine ⟨rfl, fun _ => ?_⟩
    have kept : (placesWrite s ((completionPlaces s g).zip ((completionRecord s g).map good))).interrupts = s.interrupts := by
      rw [placesWrite_only]
    rw [← kept]
    exact tget?_tset_self ..
  next no => exact ⟨rfl, fun yes => absurd yes no⟩

theorem gridCompletes_becomes (s : State) (id : Nat) (g : Grid) (found : findGrid? s id = some g) (ended : gridOver s g = true)
    (tables : placesBusy s (.engine 0) false
      (((completionVas g).map (tablePlaces s (sowerWho g.part) g.part g.ctx)).flatten.eraseDups) = false)
    (free : placesBusy s (.engine 0) true (completionPlaces s g) = false) :
    Becomes (.gridCompletes id) s (fun t => (∀ h ∈ t.grids, h.uid ≠ id) ∧
      Wrote s t ((completionPlaces s g).zip ((completionRecord s g).map good)) ∧
      (getPartition t g.part).completed.head? = some (g.launch, gridStatus g) ∧
      (g.r.cint = true → tget? t.interrupts g.part = some (tget s.interrupts g.part 0 + 1))) := by
  let listed := setPartition (completionWritten s g) g.part (withCompleted (completionWritten s g) g)
  let act := sweepPods { podGridOver listed g with grids := listed.grids.filter (fun x => x.uid != id) }
  have does : gridCompletes s id = withWalked s (.engine 0)
      (((completionVas g).map (tablePlaces s (sowerWho g.part) g.part g.ctx)).flatten.eraseDups) true
      (completionPlaces s g) act := by
    rw [gridCompletes, found]
    dsimp only
    rw [ended]
    rfl
  have pods := podGridOver_only listed g
  obtain ⟨hbm, interrupt⟩ := completionWritten_leaves s g
  have served := withWalked_served tables free act
  have lists := withWalked_keepsCompleted tables free act g.part
  refine ⟨gridCompletes s id, rfl, ?_⟩
  rw [does]
  refine ⟨fun h hh => ?_, wrote_of_placesWrite ?_, ?_, fun yes => ?_⟩
  · rw [served.1] at hh
    have := (List.mem_filter.mp (show h ∈ listed.grids.filter (fun x => x.uid != id) from hh)).2
    simpa using this
  · rw [served.1]
    show (podGridOver listed g).hbm = _
    rw [pods]
    exact hbm
  · rw [lists]
    show (getPartition (podGridOver listed g) g.part).completed.head? = _
    rw [pods]
    show (tget (tput _ g.part (withCompleted (completionWritten s g) g) Partition.dflt) g.part Partition.dflt).completed.head? = _
    rw [tget_tput_of_ne _ _ (withCompleted_ne _ _), if_pos rfl]
    rfl
  · rw [served.1]
    show tget? (podGridOver listed g).interrupts g.part = _
    rw [pods]
    exact interrupt yes

/-- The record's words, as R327 gives them. -/
theorem completionRecord_eq (s : State) (g : Grid) : completionRecord s g =
    [BitVec.ofNat 32 (g.failed.getD 4 * 2 ^ 24 + if g.failed.getD 4 = 1 then g.reason else 0), g.launch,
      BitVec.ofNat 32 s.cycle, BitVec.ofNat 32 (s.cycle / 2 ^ 32), BitVec.ofNat 32 g.relaunchCount, 0, 0, 0] := by
  simp only [completionRecord, gridStatus, beq_iff_eq]

end Sys2Proof.Machine
end

section
/-! PROOF. O52, the whole of it. -/

namespace Sys2Proof.Machine

open Sys2Proof

/-- Settles O52: the parts above, in the order of the statement. -/
theorem theSowerTakesPlacesAndMoves : Obligations.TheSowerTakesPlacesAndMoves := by
  unfold Obligations.TheSowerTakesPlacesAndMoves
  refine ⟨?records, chooseQueue_turn, recordOf_fields, fun _ _ _ _ _ _ => recordReason_first, ?room, podEntry?_iff,
    placement_becomes,
    ?candidates, spotFor_best, fun _ _ _ _ _ => coreSpot_isSome.trans (exists_congr fun _ => planeSpot_isSome), estimate_clause,
    l1Resize_becomes, compactTeam_becomes, ?swaps, deadlineRequest_becomes, ?saves, rotation_becomes, ?pods,
    fun p n => p.phase_completes n, ?completes⟩
  case records =>
    intro s part image qn en chosen partitions queues own
    exact launchRecordTaken_becomes s part image qn en chosen partitions queues own
  case room =>
    exact fun p r limits => ⟨coreRoom_most limits, partRoom_eq p r⟩
  case candidates =>
    exact fun s part => ⟨fun _ => mem_candidates, fun once => candidates_pairwise once part, fun _ _ => choosePlacement_first⟩
  case swaps =>
    exact fun s core => ⟨planeSwap_begins s core, planeSwap_ends s core⟩
  case saves =>
    intro s m found
    refine ⟨fun resident decided whole thawed quiet rows => ?_, teamRestore_becomes s m found⟩
    exact ⟨teamSave_shadow found resident decided whole thawed quiet rows,
      teamSave_memory found resident decided whole thawed quiet rows⟩
  case pods =>
    intro s part group p found here
    exact ⟨podRegistration_own found here, fun _ _ => podRegistration_other found here, fun _ _ _ _ => podMessage_own found here,
      fun _ => podPhase_completes found here⟩
  case completes =>
    intro s id g found ended tables free
    have becomes := gridCompletes_becomes s id g found ended tables free
    rw [completionRecord_eq] at becomes
    exact becomes

end Sys2Proof.Machine
end

section
/-! PROOF. O30, O31 and O34 fail, for the reason that O36 and O39 fail. All three say `Quiet` of an instruction over every state,
and so that store words which are in no window stay; over the unsorted store a result that leaves the full window for the
banks uncovers word 0. O59 says that no step leaves such a store; the three statements lack the hypothesis. The access of LD
and ST is one without a lane, which translates nothing and finds no earlier access. -/

namespace Sys2Proof.Machine

open Sys2Proof

/-- An instruction that passes the checks at issue executes over the unsorted store. -/
theorem issues_unsorted {i : Instr} (h : (gated unsortedState fullWindowWarp i || beyondLimits unsortedState fullWindowWarp i ||
      !i.role.admits (roleOf fullWindowWarp) || (i.privileged && !mayPrivileged unsortedState fullWindowWarp i) ||
      waitsFirst i (finds unsortedState fullWindowWarp false entrySlot i)) = false) :
    Issues i unsortedState fullWindowWarp false entrySlot := by
  simp only [Bool.or_eq_false_iff, Bool.not_eq_false'] at h
  obtain ⟨⟨⟨⟨free, limits⟩, role⟩, privilege⟩, ready⟩ := h
  exact ⟨rfl, rfl, rfl, free, rfl, limits, role, privilege, rfl, ready⟩

/-- An access of one word, guarded by a bit that is clear in every lane. -/
def guardedOffAccess : MemOp :=
  { pol := .si, scope := .core, ord := false, width := .w4, guard := some ⟨0, 0, false⟩, addr := ⟨.s 0, none, .x1, none⟩, data := .v 1 }

/-- No lane takes part in it. -/
theorem laneAddrs_guardedOff (i : Instr) (f : Nat → DWord) :
    laneAddrs (finds unsortedState fullWindowWarp false entrySlot i) guardedOffAccess.guard f = [] := by
  have off : (finds unsortedState fullWindowWarp false entrySlot .drnt).lanes guardedOffAccess.guard = [] := by decide +kernel
  exact congrArg (List.map fun l => (l, f l)) off

/-- Without a lane there is no address to check. -/
theorem Cx.checkAddrs_nil (c : Cx) (bytes acc : Nat) (bad : Nat → Attr → Bool) : c.checkAddrs bytes acc bad [] = .ok [] := rfl

/-- Refutes O30: an LD without a lane, over the unsorted store. -/
theorem not_loadsHitOrAsk : ¬ Obligations.LoadsHitOrAsk := by
  unfold Obligations.LoadsHitOrAsk
  intro h
  obtain ⟨t, q, he, -, -, -, -, -, -, -, -, -, quiet⟩ := h guardedOffAccess unsortedState fullWindowWarp false entrySlot []
    _ List.mem_cons_self (issues_unsorted (by decide +kernel)) (by rw [laneAddrs_guardedOff, Cx.checkAddrs_nil]) rfl
  exact not_quiet_of_uncovers he (by decide +kernel) quiet

/-- Refutes O31: an ST without a lane, over the unsorted store. -/
theorem not_storesSendTheirWords : ¬ Obligations.StoresSendTheirWords := by
  unfold Obligations.StoresSendTheirWords
  intro h
  obtain ⟨t, q, he, -, -, -, -, -, quiet⟩ := h guardedOffAccess unsortedState fullWindowWarp false entrySlot []
    _ List.mem_cons_self (issues_unsorted (by decide +kernel)) (by rw [laneAddrs_guardedOff, Cx.checkAddrs_nil]) rfl nofun
  exact not_quiet_of_uncovers he (by decide +kernel) quiet

/-- Refutes O34: a FENCE.acq over the unsorted store. -/
theorem not_fencesDrainsAndLineOperationsAct : ¬ Obligations.FencesDrainsAndLineOperationsAct := by
  unfold Obligations.FencesDrainsAndLineOperationsAct
  intro h
  obtain ⟨-, -, acquires, -⟩ := h unsortedState fullWindowWarp false entrySlot
  obtain ⟨t, v, a, he, -, -, -, -, -, -, quiet⟩ := acquires ⟨.acq, .core⟩ (issues_unsorted (by decide +kernel)) rfl
  exact not_quiet_of_uncovers he (by decide +kernel) quiet

end Sys2Proof.Machine
end

section
/-! PROOF. O45 and O46 fail. Both speak of every directory, of one too whose entry names owned words and no owner. `putEntry`
leaves no such entry, and where it is given one with neither sharer nor work to do it lists none; so what the home does next
it does for an untracked line, none of whose words is owned. The statements lack the hypothesis that an entry without an owner
names no word; for O45 the requester is also a domain of no quad, since any other would be a sharer and the entry stay. -/

namespace Sys2Proof.Machine

open Sys2Proof

/-- An entry of line 0 that names two owned words and no owner. -/
def ownerlessEntry (busy : Busy) : DirEntry := { DirEntry.untracked 0 with owm := 3, busy := busy, waiting := 9 }

/-- A device whose home of line 0 has that entry, and a request. -/
def ownerlessState (busy : Busy) (r : Req) : State :=
  { State.reset with homes := [(channelOf 0, { Home.dflt with dir := [ownerlessEntry busy] })], reqs := [r] }

/-- An R-WI that names no word, of a domain beyond the 96 quads, which no sharer vector has a bit for. -/
def outsideRead : Req := { Req.plain (.dom 384 false) .rwi 0 0 with id := 9, arrived := 1 }

/-- It is filled with the whole line. -/
theorem outsideRead_filled : ∀ p ∈ (homeEvent (ownerlessState .idle outsideRead) 9 false (· == .rwi)).replies,
    p.words.length = 32 := by decide +kernel

/-- Refutes O45: the entry adds no sharer and so is dropped, and the fill carries the words too that it named. -/
theorem not_homesServeTheirRequests : ¬ Obligations.HomesServeTheirRequests := by
  unfold Obligations.HomesServeTheirRequests
  intro h
  obtain ⟨-, -, reads, -⟩ := h (ownerlessState .idle outsideRead) 9 outsideRead rfl (by decide +kernel) (by decide +kernel)
  obtain ⟨served, -⟩ := reads rfl rfl (.inl (by decide +kernel))
  obtain ⟨t, runs, ⟨-, p, sent, -, -, -, -, -, -, words, -⟩, -⟩ := served (.inr (by decide +kernel))
  obtain rfl := Host.Outcome.next.inj (show _ = _ from runs)
  have named : (ones (fillMask (entryOf (ownerlessState .idle outsideRead) 0) outsideRead)).length = 30 := by decide +kernel
  have carried := outsideRead_filled p sent
  rw [words, List.length_map] at carried
  exact absurd (carried.symm.trans named) (by decide)

/-- A load's request for word 1. -/
def waitingRead : Req := { Req.plain (.dom 0 false) .rsi 0 2 with id := 9, arrived := 1 }

/-- The write-back of word 0 that it waits for. -/
def firstWordBack : Writeback := { id := 10, slot := 0, dom := 4, line := 0, mask := 1, words := [(0, good 5)], all := false }

/-- The request waits while the write-back is on its way. -/
def recallingState : State := { ownerlessState .rsi waitingRead with writebacks := [firstWordBack] }

/-- The write-back arrives, and no notice is decided. -/
theorem firstWordBack_decidesNothing :
    (getHome (writebackEvent recallingState 10 false) (channelOf firstWordBack.line)).decided = [] := by decide +kernel

/-- Refutes O46: the entry still names word 1 after the write-back, which is dropped with it and not asked for. -/
theorem not_noticesWriteBacksAndFillsArrive : ¬ Obligations.NoticesWriteBacksAndFillsArrive := by
  unfold Obligations.NoticesWriteBacksAndFillsArrive
  intro h
  obtain ⟨-, -, writebacks, -⟩ := h recallingState
  obtain ⟨-, requests, -⟩ := writebacks 10 firstWordBack rfl (by decide +kernel) (by decide +kernel)
  obtain ⟨reads, -⟩ := requests waitingRead (by decide +kernel) rfl rfl
  obtain ⟨-, asks⟩ := reads (.inl (by decide +kernel))
  obtain ⟨t, runs, -, -, ⟨k, decided, -⟩, -⟩ := asks (by decide +kernel) (by decide +kernel)
  obtain rfl := Host.Outcome.next.inj (show _ = _ from runs)
  rw [firstWordBack_decidesNothing] at decided
  exact absurd decided List.not_mem_nil

end Sys2Proof.Machine
end

section
/-! PROOF. O32 fails, for the reason that O30 and O31 fail: it says `Quiet` of an ATOM over every state, and so that store words
which are in no window stay, but over the unsorted store a result that leaves the full window for the banks uncovers word 0.
The ATOM is one without a lane, which translates nothing and finds no earlier access. -/

namespace Sys2Proof.Machine

open Sys2Proof

/-- An atomic guarded by a bit that is clear in every lane. -/
def guardedOffAtomic : AtomOp :=
  { kind := .addI32, ord := .none, scope := .core, guard := guardedOffAccess.guard, base := .s 0, off := none, b := .lit 0, dst := 1 }

/-- Refutes O32: an ATOM without a lane, over the unsorted store. -/
theorem not_atomicsGoToTheirHomesAndCompute : ¬ Obligations.AtomicsGoToTheirHomesAndCompute := by
  unfold Obligations.AtomicsGoToTheirHomesAndCompute
  intro ⟨h, _⟩
  obtain ⟨atomics, -⟩ := h unsortedState fullWindowWarp false entrySlot []
  obtain ⟨t, q, he, -, -, -, -, -, -, -, -, quiet⟩ := atomics guardedOffAtomic (issues_unsorted (by decide +kernel))
    (by rw [show guardedOffAtomic.guard = guardedOffAccess.guard from rfl, laneAddrs_guardedOff, Cx.checkAddrs_nil]) rfl
  exact not_quiet_of_uncovers he (by decide +kernel) quiet

end Sys2Proof.Machine
end

section
/-! SUPPORT. Rounding to the nearest (09 R190), of a magnitude that has more significand bits than its format. -/

namespace Sys2Proof.Machine

open Sys2Proof

/-! ### Magnitudes of a format in order (R181, R183) -/

section Format
variable (f : Format)

theorem Format.magOf_low {k : Nat} (h : k ≤ 2 ^ f.mb) : f.magOf k = k * 2 ^ ((1 : ℤ) - f.bias - f.mb) := by
  unfold Format.magOf
  split
  · rfl
  · obtain rfl : k = 2 ^ f.mb := by omega
    rw [Nat.mod_self, Nat.div_self (by positivity)]
    simp

/-- Within a binade, its upper end included, magnitudes are multiples of one unit. -/
theorem Format.magOf_binade {E j : Nat} (hE : 1 ≤ E) (hj : j ≤ 2 ^ f.mb) :
    f.magOf (E * 2 ^ f.mb + j) = ((2 ^ f.mb + j : ℕ) : ℝ) * 2 ^ ((E : ℤ) - f.bias - f.mb) := by
  have pos : 0 < 2 ^ f.mb := by positivity
  have above : ¬ E * 2 ^ f.mb + j < 2 ^ f.mb := by nlinarith
  rw [Format.magOf, if_neg above, Nat.mul_add_mod_self_right, Nat.mul_comm E, Nat.mul_add_div pos]
  rcases hj.lt_or_eq with hj | rfl
  · rw [Nat.mod_eq_of_lt hj, Nat.div_eq_of_lt hj, Nat.add_zero]
  · rw [Nat.mod_self, Nat.div_self pos, Nat.add_zero,
      show ((E + 1 : ℕ) : ℤ) - f.bias - f.mb = ((E : ℤ) - f.bias - f.mb) + 1 by push_cast; ring, zpow_add_one₀ two_ne_zero]
    push_cast
    ring

theorem Format.magOf_strictMono : StrictMono f.magOf := by
  refine strictMono_nat_of_lt_succ fun k => ?_
  have grows (a b : ℤ) (h : a < b) (e : ℤ) : (a : ℝ) * 2 ^ e < b * 2 ^ e :=
    mul_lt_mul_of_pos_right (Int.cast_lt.mpr h) (by positivity)
  by_cases h : k < 2 ^ f.mb
  · rw [f.magOf_low h.le, f.magOf_low h]
    exact_mod_cast grows k (k + 1) (by omega) _
  · have pos : 0 < 2 ^ f.mb := by positivity
    have split_ : k / 2 ^ f.mb * 2 ^ f.mb + k % 2 ^ f.mb = k := Nat.div_add_mod' ..
    have hE : 1 ≤ k / 2 ^ f.mb := (Nat.one_le_div_iff pos).mpr (by omega)
    have hj : k % 2 ^ f.mb < 2 ^ f.mb := Nat.mod_lt _ pos
    have here := f.magOf_binade hE hj.le
    have next := f.magOf_binade hE hj
    rw [split_] at here
    rw [Nat.add_succ, split_] at next
    rw [here, next]
    exact_mod_cast grows _ _ (by omega) _

variable {f} {z : ℝ} {k : Nat}

/-- Below the middle of two magnitudes, or there if the lower is even, the lower is the nearest. -/
theorem Format.nearest_lower (low : f.magOf k ≤ z) (high : z < f.magOf (k + 1))
    (mid : 2 * z < f.magOf k + f.magOf (k + 1) ∨ 2 * z = f.magOf k + f.magOf (k + 1) ∧ k % 2 = 0) : f.Nearest z k := by
  intro j
  rcases lt_trichotomy j k with h | rfl | h
  · have := f.magOf_strictMono h
    rw [abs_of_nonneg (by linarith), abs_of_nonneg (by linarith)]
    exact .inl (by linarith)
  · exact .inr ⟨rfl, .inl rfl⟩
  · have := f.magOf_strictMono.monotone (show k + 1 ≤ j from h)
    rw [abs_of_nonneg (sub_nonneg.mpr low), abs_of_neg (by linarith : z - f.magOf j < 0)]
    rcases mid with mid | ⟨mid, even⟩
    · exact .inl (by linarith)
    · rcases (show k + 1 ≤ j from h).lt_or_eq with h | rfl
      · have := f.magOf_strictMono h
        exact .inl (by linarith)
      · exact .inr ⟨by linarith, .inr even⟩

/-- Above the middle of two magnitudes, or there if the lower is odd, the upper is the nearest. -/
theorem Format.nearest_upper (low : f.magOf k ≤ z) (high : z < f.magOf (k + 1))
    (mid : f.magOf k + f.magOf (k + 1) < 2 * z ∨ 2 * z = f.magOf k + f.magOf (k + 1) ∧ k % 2 = 1) : f.Nearest z (k + 1) := by
  intro j
  rcases lt_trichotomy j (k + 1) with h | rfl | h
  · have := f.magOf_strictMono.monotone (show j ≤ k by omega)
    rw [abs_of_neg (by linarith : z - f.magOf (k + 1) < 0), abs_of_nonneg (by linarith)]
    rcases mid with mid | ⟨mid, odd⟩
    · exact .inl (by linarith)
    · rcases (show j ≤ k by omega).lt_or_eq with h | rfl
      · have := f.magOf_strictMono h
        exact .inl (by linarith)
      · exact .inr ⟨by linarith, .inr (by omega)⟩
  · exact .inr ⟨rfl, .inl rfl⟩
  · have := f.magOf_strictMono h
    rw [abs_of_neg (by linarith), abs_of_neg (by linarith)]
    exact .inl (by linarith)

/-- The nearest magnitude within the format is the rounded one, with the flags that follow. -/
theorem Format.roundedTo_of_nearest (h : f.Nearest z k) (hk : k ≤ f.big) : ∃ fl, f.RoundedTo .rne false z (k, fl) := by
  classical
  refine ⟨if f.magOf k = z then 0 else if f.Tiny .rne false z then flUF ||| flNX else flNX, k, ⟨fun _ => h, ?_, ?_⟩,
    fun _ => ?_, fun big => absurd big (by omega)⟩
  · simp [roundsDown]
  · simp [roundsUp]
  · refine ⟨by simp, fun e => if_pos e, fun ne => ⟨fun tiny => ?_, fun tiny => ?_⟩⟩
    · exact (if_neg ne).trans (if_pos tiny)
    · exact (if_neg ne).trans (if_neg tiny)

end Format

/-! ### The rounding of `Format.round` (R190) -/

theorem lt_two_pow_bitLen (n : Nat) : n < 2 ^ bitLen n := by
  unfold bitLen
  split
  · omega
  · exact Nat.lt_log2_self

theorem two_pow_le_of_bitLen {n b : Nat} (h : bitLen n = b + 1) : 2 ^ b ≤ n := by
  unfold bitLen at h
  split at h
  · omega
  · obtain rfl : Nat.log2 n = b := by omega
    exact Nat.log2_self_le ‹_›

section Round
variable {f : Format} {E k : Nat} (pos : 1 ≤ E)
include pos

/-- The magnitude with a significand of a binade, its upper end included. -/
theorem Format.magOf_significand (low : 2 ^ f.mb ≤ k) (high : k ≤ 2 ^ (f.mb + 1)) :
    f.magOf (E * 2 ^ f.mb + (k - 2 ^ f.mb)) = k * 2 ^ ((E : ℤ) - f.bias - f.mb) := by
  rw [pow_succ] at high
  rw [f.magOf_binade pos (by omega), Nat.add_sub_cancel' low]

omit pos in
/-- The encoding of a significand that rounding may have carried into the next binade. -/
theorem Format.encOf_carried {q : ℤ} (hE : (E : ℤ) = q + f.mb + f.bias) (low : 2 ^ f.mb ≤ k) :
    fpToFpSr.encOf f (if k == 2 ^ (f.mb + 1) then 2 ^ f.mb else k) (if k == 2 ^ (f.mb + 1) then q + 1 else q) =
      E * 2 ^ f.mb + (k - 2 ^ f.mb) := by
  unfold fpToFpSr.encOf
  by_cases carry : k = 2 ^ (f.mb + 1)
  · rw [if_pos (beq_iff_eq.mpr carry), if_pos (beq_iff_eq.mpr carry), if_pos le_rfl,
      show (q + 1 + (f.mb : ℤ) + f.bias).toNat = E + 1 by omega, carry, pow_succ,
      show 2 ^ f.mb * 2 - 2 ^ f.mb = 2 ^ f.mb by omega, Nat.sub_self]
    ring
  · rw [if_neg (mt beq_iff_eq.mp carry), if_neg (mt beq_iff_eq.mp carry), if_pos low,
      show (q + (f.mb : ℤ) + f.bias).toNat = E by omega]

/-- The encoding of a normal result with a rounded significand. -/
theorem Format.round_encodes {mode : Rnd} {m : Nat} {e : ℤ} {sticky : Bool} (h0 : m ≠ 0)
    (hE : (E : ℤ) = e + bitLen m - 1 + f.bias) (hk : (roundTo mode false m e sticky (e + bitLen m - 1 - f.mb)).1 = k)
    (low : 2 ^ f.mb ≤ k) (within : E * 2 ^ f.mb + (k - 2 ^ f.mb) ≤ f.big) :
    (f.round mode false m e sticky).1 = E * 2 ^ f.mb + (k - 2 ^ f.mb) := by
  have normal : ¬ e + (bitLen m : ℤ) - 1 < f.emin := by unfold Format.emin; omega
  have enc := Format.encOf_carried (f := f) (E := E) (q := e + bitLen m - 1 - f.mb) (by omega) low
  unfold fpToFpSr.encOf at enc
  simp only [Format.round, beq_eq_false_iff_ne.mpr h0, Bool.false_eq_true, if_false, if_neg normal, hk, enc,
    if_neg (Nat.not_lt.mpr within), Nat.zero_add]

omit pos in
/-- A magnitude of k units and a rest, the unit an even number of steps `w`, lies by the rounding of its rest nearest to k or
k + 1 units. -/
theorem Format.nearest_roundUp {z w : ℝ} (wpos : 0 < w) {c rem u : Nat} {sticky : Bool} (below : f.magOf c = k * (2 * u) * w)
    (above : f.magOf (c + 1) = (k + 1) * (2 * u) * w) (parity : c % 2 = k % 2) (rest : rem < 2 * u)
    (low : (k * (2 * u) + rem) * w ≤ z) (high : z < (k * (2 * u) + rem + 1) * w)
    (exact_ : sticky = false ↔ z = (k * (2 * u) + rem) * w) :
    f.Nearest z (if roundUp .rne false k rem (2 * u) sticky then c + 1 else c) := by
  have step {a b : Nat} (h : a < b) : ((a + 1 : ℕ) : ℝ) * w ≤ b * w := mul_le_mul_of_nonneg_right (Nat.cast_le.mpr h) wpos.le
  have inLow : f.magOf c ≤ z := by
    rw [below]
    nlinarith [Nat.cast_nonneg (α := ℝ) rem]
  have inHigh : z < f.magOf (c + 1) := by
    rw [above]
    have := step rest
    push_cast at this
    linarith
  have up_iff : roundUp .rne false k rem (2 * u) sticky = true ↔ u < rem ∨ rem = u ∧ (sticky = true ∨ k % 2 = 1) := by
    simp [roundUp]
  by_cases up : roundUp .rne false k rem (2 * u) sticky = true
  · rw [if_pos up]
    refine Format.nearest_upper inLow inHigh ?_
    rw [below, above, parity]
    rcases up_iff.mp up with more | ⟨half, tie⟩
    · left
      have := step more
      push_cast at this
      linarith
    · rw [half] at low exact_
      cases sticky with
      | true => exact .inl (by linarith [lt_of_le_of_ne low fun e => absurd (exact_.mpr e.symm) (by decide)])
      | false => exact .inr ⟨by linarith [exact_.mp rfl], tie.resolve_left (by decide)⟩
  · rw [if_neg up]
    refine Format.nearest_lower inLow inHigh ?_
    rw [below, above, parity]
    obtain ⟨less, tie⟩ := not_or.mp (mt up_iff.mpr up)
    rcases (Nat.not_lt.mp less).lt_or_eq with less | half
    · left
      have := step less
      push_cast at this
      linarith
    · obtain ⟨whole, even⟩ := not_or.mp (fun t => tie ⟨half, t⟩)
      rw [half] at exact_
      exact .inr ⟨by linarith [exact_.mp (Bool.eq_false_iff.mpr whole)], by omega⟩

/-- A magnitude of more significand bits than a format has is rounded to the nearest; `sticky` says that it lies above its
bits. -/
theorem Format.round_nearest (hmb : 1 ≤ f.mb) {m d : Nat} {e : ℤ} {sticky : Bool} {z : ℝ}
    (hd : bitLen m = f.mb + d + 2) (hE : (E : ℤ) = e + bitLen m - 1 + f.bias) (within : (E + 1) * 2 ^ f.mb ≤ f.big)
    (low : m * 2 ^ e ≤ z) (high : z < (m + 1) * 2 ^ e) (exact_ : sticky = false ↔ z = m * 2 ^ e) :
    (f.round .rne false m e sticky).1 ≤ f.big ∧ f.Nearest z (f.round .rne false m e sticky).1 := by
  have h0 : m ≠ 0 := by rintro rfl; simp [bitLen] at hd
  let u := 2 ^ d
  let k := m / (2 * u)
  have upos : 0 < u := by positivity
  have parts : k * (2 * u) + m % (2 * u) = m := Nat.div_add_mod' m (2 * u)
  have value : (k : ℝ) * (2 * u) + (m % (2 * u) : ℕ) = m := by exact_mod_cast parts
  have kLow : 2 ^ f.mb ≤ k := by
    rw [Nat.le_div_iff_mul_le (by omega)]
    exact (show 2 ^ f.mb * (2 * u) = 2 ^ (f.mb + d + 1) by simp only [u]; ring).trans_le (two_pow_le_of_bitLen hd)
  have kHigh : k < 2 ^ (f.mb + 1) := by
    rw [Nat.div_lt_iff_lt_mul (by omega)]
    exact (hd ▸ lt_two_pow_bitLen m).trans_eq (by simp only [u]; ring)
  let c := E * 2 ^ f.mb + (k - 2 ^ f.mb)
  have parity : c % 2 = k % 2 := by
    obtain ⟨b, hb⟩ : ∃ b, f.mb = b + 1 := ⟨f.mb - 1, by omega⟩
    simp only [c]
    rw [hb, pow_succ] at kLow ⊢
    rw [← mul_assoc]
    omega
  have unit : (2 : ℝ) ^ ((E : ℤ) - f.bias - f.mb) = 2 * u * 2 ^ e := by
    rw [show (E : ℤ) - f.bias - f.mb = (d + 1 : ℕ) + e by omega, zpow_add₀ two_ne_zero, zpow_natCast, pow_succ']
    simp only [u, Nat.cast_pow, Nat.cast_ofNat]
  have below : f.magOf c = k * (2 * u) * 2 ^ e := by rw [Format.magOf_significand pos kLow kHigh.le, unit, ← mul_assoc]
  have next : c + 1 = E * 2 ^ f.mb + (k + 1 - 2 ^ f.mb) := by omega
  have above : f.magOf (c + 1) = (k + 1) * (2 * u) * 2 ^ e := by
    rw [next, Format.magOf_significand pos (by omega) kHigh, unit, Nat.cast_add_one, ← mul_assoc]
  have most : c + 1 ≤ f.big := by
    refine le_trans ?_ within
    rw [pow_succ] at kHigh
    rw [Nat.add_mul, one_mul]
    omega
  have cut : (roundTo .rne false m e sticky (e + bitLen m - 1 - f.mb)).1 =
      if roundUp .rne false k (m % (2 * u)) (2 * u) sticky then k + 1 else k := by
    rw [show e + (bitLen m : ℤ) - 1 - f.mb = e + (d + 1 : ℕ) by omega, roundTo, if_neg (by omega),
      show (e + ((d + 1 : ℕ) : ℤ) - e).toNat = d + 1 by omega, pow_succ']
  have code : (f.round .rne false m e sticky).1 =
      if roundUp .rne false k (m % (2 * u)) (2 * u) sticky then c + 1 else c := by
    split
    · rw [if_pos ‹_›] at cut
      exact (Format.round_encodes pos h0 hE cut (by omega) (next ▸ most)).trans next.symm
    · rw [if_neg ‹_›] at cut
      exact Format.round_encodes pos h0 hE cut kLow (by omega)
  rw [code]
  refine ⟨by split <;> omega, Format.nearest_roundUp (w := 2 ^ e) (by positivity) below above parity
    (Nat.mod_lt _ (by omega)) ?_ ?_ ?_⟩
  · rwa [value]
  · rwa [value]
  · rwa [value]

end Round

end Sys2Proof.Machine
end

section
/-! PROOF. O48: the values that a plough computes, NBOPT's square root among them (12 R272, R274). -/

namespace Sys2Proof.Machine

open Sys2Proof

/-! ### The integer square root -/

theorem isqrtFrom_eq_sqrt {n b r : Nat} (low : r * r ≤ n) (high : n < (r + 2 ^ b) * (r + 2 ^ b)) :
    isqrtFrom n b r = Nat.sqrt n := by
  induction b generalizing r with
  | zero => exact Nat.eq_sqrt.mpr ⟨low, high⟩
  | succ b ih =>
    rw [isqrtFrom]
    split
    · refine ih ‹_› ?_
      rwa [show r + 2 ^ b + 2 ^ b = r + 2 ^ (b + 1) by omega]
    · exact ih low (by omega)

theorem isqrt_eq_sqrt (n : Nat) : isqrt n = Nat.sqrt n := by
  refine isqrtFrom_eq_sqrt (Nat.zero_le n) ?_
  calc n < 2 ^ bitLen n := lt_two_pow_bitLen n
    _ ≤ 2 ^ (bitLen n / 2 + 1 + (bitLen n / 2 + 1)) := Nat.pow_le_pow_right two_pos (by omega)
    _ = (0 + 2 ^ (bitLen n / 2 + 1)) * (0 + 2 ^ (bitLen n / 2 + 1)) := by rw [Nat.pow_add, Nat.zero_add]

/-! ### The square root of NBOPT (R193, R274) -/

theorem decode_fin {x m : Nat} {neg : Bool} {e : ℤ} (h : fmtF32.decode x = .fin neg m e) :
    m < 2 ^ 24 ∧ -149 ≤ e ∧ e ≤ 104 := by
  have frac (y : Nat) : y % 2 ^ 23 < 2 ^ 23 := Nat.mod_lt _ (by positivity)
  simp only [Format.decode, fmtF32, Format.sbit, Format.emin, Bool.true_and, beq_iff_eq] at h
  split_ifs at h with infinite nan low
  · cases h
    exact ⟨(frac _).trans (by norm_num), by norm_num⟩
  · cases h
    have := frac (x % 2 ^ 32 % 2 ^ (32 - 1))
    omega

theorem sqrt_mul_sq (N : Nat) (h : ℤ) : √((N : ℝ) * 2 ^ (2 * h)) = √(N : ℝ) * 2 ^ h := by
  rw [Real.sqrt_mul (by positivity), two_mul, zpow_add₀ two_ne_zero, Real.sqrt_mul_self (by positivity)]

/-- The integer square root, rounded with "a rest was left" as its sticky bit, is the root correctly rounded to the
nearest: the integer root has at least 51 bits, more than an F32 result and its guard bit need. -/
theorem rounded_sqrt {N : Nat} {h : ℤ} (low : 2 ^ 100 ≤ N) (high : N < 2 ^ 126) (least : -125 ≤ h) (most : h ≤ 2) :
    ∃ fl, fmtF32.RoundedTo .rne false (√((N : ℝ) * 2 ^ (2 * h)))
      ((fmtF32.round .rne false (isqrt N) h (isqrt N * isqrt N != N)).1, fl) := by
  rw [sqrt_mul_sq, isqrt_eq_sqrt]
  have rootLow : 2 ^ 50 ≤ Nat.sqrt N := Nat.le_sqrt.mpr (by omega)
  have rootHigh : Nat.sqrt N < 2 ^ 63 := Nat.sqrt_lt.mpr (by omega)
  have bitsLow : 50 < bitLen (Nat.sqrt N) := (Nat.pow_lt_pow_iff_right one_lt_two).mp (rootLow.trans_lt (lt_two_pow_bitLen _))
  have bitsHigh : bitLen (Nat.sqrt N) ≤ 63 := by
    obtain ⟨b, hb⟩ : ∃ b, bitLen (Nat.sqrt N) = b + 1 := ⟨bitLen (Nat.sqrt N) - 1, by omega⟩
    have := (Nat.pow_lt_pow_iff_right one_lt_two).mp ((two_pow_le_of_bitLen hb).trans_lt rootHigh)
    omega
  have wpos : (0 : ℝ) < 2 ^ h := by positivity
  have exact_ : (Nat.sqrt N * Nat.sqrt N != N) = false ↔ √(N : ℝ) * 2 ^ h = Nat.sqrt N * 2 ^ h := by
    rw [mul_left_inj' wpos.ne', Real.sqrt_eq_iff_mul_self_eq (by positivity) (by positivity)]
    simp only [bne_eq_false_iff_eq]
    exact_mod_cast eq_comm
  obtain ⟨within, nearest⟩ := Format.round_nearest (f := fmtF32) (E := (h + bitLen (Nat.sqrt N) + 126).toNat)
    (d := bitLen (Nat.sqrt N) - 25) (by omega) (by decide) (by simp only [fmtF32]; omega) (by simp only [fmtF32]; omega)
    (by simp only [fmtF32]; omega)
    (mul_le_mul_of_nonneg_right Real.nat_sqrt_le_real_sqrt wpos.le)
    (mul_lt_mul_of_pos_right Real.real_sqrt_lt_nat_sqrt_succ wpos) exact_
  exact Format.roundedTo_of_nearest nearest within

/-- NBOPT's square root is the correctly rounded one. -/
theorem sqrt32_rootOnce (x : Nat) : RootOnce x (sqrt32 x) := by
  unfold RootOnce sqrt32
  split
  case h_1 s hx => simp only [hx]
  case h_2 s hx => cases s <;> simp only [hx] <;> rfl
  case h_3 s m e hx =>
    obtain ⟨mHigh, eLow, eHigh⟩ := decode_fin hx
    simp only [hx]
    refine ⟨fun h0 => by simp [h0], fun h0 neg => by simp [h0, neg], fun h0 plus => ?_⟩
    simp only [beq_eq_false_iff_ne.mpr h0, plus, Bool.false_eq_true, if_false]
    -- 50 fraction bits more, over an even exponent
    have shifted (n : Nat) (g : ℤ) : ((n * 2 ^ 100 : ℕ) : ℝ) * 2 ^ (2 * (g - 50)) = n * 2 ^ (2 * g) := by
      rw [show 2 * g = 100 + 2 * (g - 50) by ring, zpow_add₀ two_ne_zero]
      push_cast
      rw [show ((2 : ℝ) ^ (100 : ℤ)) = 2 ^ 100 by norm_cast]
      ring
    by_cases even : e % 2 = 0
    · have value : (m : ℝ) * 2 ^ e = (m * 2 ^ 100 : ℕ) * 2 ^ (2 * (e / 2 - 50)) := by
        rw [shifted, show 2 * (e / 2) = e by omega]
      simp only [beq_iff_eq, even, if_true, value]
      exact rounded_sqrt (by omega) (by omega) (by omega) (by omega)
    · have value : (m : ℝ) * 2 ^ e = (2 * m * 2 ^ 100 : ℕ) * 2 ^ (2 * ((e - 1) / 2 - 50)) := by
        rw [shifted, show 2 * ((e - 1) / 2) = e - 1 by omega, zpow_sub_one₀ two_ne_zero]
        push_cast
        ring
      simp only [beq_iff_eq, even, if_false, value]
      exact rounded_sqrt (by omega) (by omega) (by omega) (by omega)

/-! ### Words of granules and results (R156, R272, R274) -/

theorem granuleWords_length (s : State) (p : Part) (g : Nat) : (granuleWords s p g).length = 512 := by
  simp [granuleWords, granuleLines, List.length_flatten, Function.comp_def]

/-- A result that is not good leaves the old word in poisoned form. -/
theorem poisonOver_eq {old new : List CWord} (ho : old.length = 512) (hn : new.length = 512) :
    poisonOver old new = overOld old new := by
  refine List.ext_getElem (by simp [poisonOver, overOld, ho, hn]) fun j h _ => ?_
  simp [poisonOver, overOld, List.getD_eq_getElem?_getD, ho, hn, show j < 512 by simpa [poisonOver, ho, hn] using h]

theorem overOld_getD {old new : List CWord} {j : Nat} (hj : j < 512) : (overOld old new).getD j (good 0) =
    if (new.getD j (good 0)).isGood then new.getD j (good 0) else poison (old.getD j (good 0)) := by
  simp [overOld, List.getD_eq_getElem?_getD, hj]

theorem nbsaRow_adds {scale : Word} {row acc : List CWord} (hr : row.length = 512) (ha : acc.length = 512) :
    RowAdded scale row acc (nbsaRow scale row acc) := by
  refine ⟨by simp [nbsaRow, hr, ha], fun j hj => ?_⟩
  simp only [List.getD_eq_getElem _ _ (show j < row.length by omega), List.getD_eq_getElem _ _ (show j < acc.length by omega),
    List.getD_eq_getElem _ _ (show j < (nbsaRow scale row acc).length by simp [nbsaRow, hr, ha, hj])]
  simp only [nbsaRow, List.getElem_map, List.getElem_zip, ← Bool.not_and, Bool.not_eq_true']
  cases row[j].isGood && acc[j].isGood <;> rfl

/-- One element's results of NBOPT as words: from four good words the results, else the old words in poisoned form. -/
def optWordsOf (k : List Word) (q : CWord × CWord × CWord × CWord) : CWord × CWord × CWord :=
  let r := nboptElem k q.1.data.toNat q.2.1.data.toNat q.2.2.1.data.toNat q.2.2.2.data.toNat
  let out (x : Nat) (old : CWord) : CWord :=
    if q.1.isGood && q.2.1.isGood && q.2.2.1.isGood && q.2.2.2.isGood then good (BitVec.ofNat 32 x) else poison old
  (out r.1 q.2.1, out r.2.1 q.2.2.1, out r.2.2 q.1)

theorem optWordsOf_eq (k : List Word) (w m v g : CWord) : optWordsOf k (w, m, v, g) =
    if w.isGood && m.isGood && v.isGood && g.isGood then
      let r := nboptElem k w.data.toNat m.data.toNat v.data.toNat g.data.toNat
      (good (BitVec.ofNat 32 r.1), good (BitVec.ofNat 32 r.2.1), good (BitVec.ofNat 32 r.2.2))
    else (poison m, poison v, poison w) := by
  simp only [optWordsOf]
  split <;> rfl

/-- The words of one of the four granules of a block that NBOPT has read. -/
def optArray (acc : List CWord) (array : Nat) : List CWord := (acc.drop (512 * array)).take 512

/-- The words that it has read, element by element. -/
def optElems (acc : List CWord) : List (CWord × CWord × CWord × CWord) :=
  (optArray acc 0).zip ((optArray acc 1).zip ((optArray acc 2).zip (optArray acc 3)))

theorem nboptBlock_eq (k : List Word) (acc : List CWord) :
    nboptBlock k acc = (((optElems acc).map (optWordsOf k)).map (·.1), ((optElems acc).map (optWordsOf k)).map (·.2.1),
      ((optElems acc).map (optWordsOf k)).map (·.2.2)) := rfl

section Opt
variable {acc : List CWord} (whole : acc.length = 2048)
include whole

theorem optElems_length : (optElems acc).length = 512 := by
  simp [optElems, optArray, whole]

theorem optElems_getElem {j : Nat} (hj : j < (optElems acc).length) :
    let word (array : Nat) : CWord := acc.getD (512 * array + j) (good 0)
    (optElems acc)[j] = (word 0, word 1, word 2, word 3) := by
  have small : j < 512 := optElems_length whole ▸ hj
  have at_ {array : Nat} (ha : array < 4) (h : j < (optArray acc array).length) :
      (optArray acc array)[j] = acc.getD (512 * array + j) (good 0) := by
    rw [List.getD_eq_getElem _ _ (by omega)]
    simp only [optArray, List.getElem_take, List.getElem_drop]
  intro word
  simp only [optElems, List.getElem_zip, at_ (show 0 < 4 by decide), at_ (show 1 < 4 by decide), at_ (show 2 < 4 by decide),
    at_ (show 3 < 4 by decide), word]

/-- What NBOPT writes over one of its arrays: the word that `sel` takes of an element's three, where `pick` takes a result. -/
theorem optWords_poisonOver {k : List Word} {old : List CWord} {pick : Nat × Nat × Nat → Nat}
    {sel : CWord × CWord × CWord → CWord} (hold : old.length = 512)
    (picked : ∀ r : Nat × Nat × Nat, sel (good (.ofNat 32 r.1), good (.ofNat 32 r.2.1), good (.ofNat 32 r.2.2)) =
      good (.ofNat 32 (pick r)))
    (bad : ∀ a b c, (sel (poison a, poison b, poison c)).isGood = false) :
    OptWords k acc old (poisonOver old (((optElems acc).map (optWordsOf k)).map sel)) pick := by
  have len : (((optElems acc).map (optWordsOf k)).map sel).length = 512 := by simp [optElems_length whole]
  rw [poisonOver_eq hold len]
  refine ⟨by simp [overOld], fun j hj => ?_⟩
  intro word val
  have four : ((List.range 4).all fun array => (word array).isGood) =
      ((word 0).isGood && (word 1).isGood && (word 2).isGood && (word 3).isGood) := by
    simp [List.range, List.range.loop, Bool.and_assoc]
  rw [overOld_getD hj, List.getD_eq_getElem _ _ (by omega), four]
  simp only [List.getElem_map, optElems_getElem whole, optWordsOf_eq]
  cases (word 0).isGood && (word 1).isGood && (word 2).isGood && (word 3).isGood
  · exact if_neg (by simp [bad])
  · refine ⟨_, _, _, ⟨rfl, rfl, _, sqrt32_rootOnce _, rfl⟩, ?_⟩
    rw [if_pos rfl, picked]
    rfl

end Opt

end Sys2Proof.Machine
end

section
/-! PROOF. O48: what a plough's step leaves alone, and the words of a granule that it writes (12 R271). -/

namespace Sys2Proof.Machine

open Sys2Proof

/-! ### What a plough's step leaves alone (R113, R271) -/

/-- Only the homes, the requests, the loads on their way and the event recorders have changed. -/
def HomesOnly (s t : State) : Prop :=
  t = { s with nextId := t.nextId, homes := t.homes, reqs := t.reqs, ops := t.ops, recorders := t.recorders }

theorem HomesOnly.refl (s : State) : HomesOnly s s := rfl

theorem HomesOnly.trans {s t u : State} (h : HomesOnly s t) (k : HomesOnly t u) : HomesOnly s u := by
  unfold HomesOnly at *
  rw [k, h]

theorem HomesOnly.foldl {α : Type} {f : State → α → State} (h : ∀ s a, HomesOnly s (f s a)) (l : List α) (s : State) :
    HomesOnly s (l.foldl f s) := foldl_frame .refl .trans h l s

theorem HomesOnly.kept {s t : State} (h : HomesOnly s t) : MemoryKept s t := by
  rw [h]
  exact ⟨rfl, rfl⟩

theorem HomesOnly.findPart? {s t : State} (h : HomesOnly s t) (id : Nat) : findPart? t id = Machine.findPart? s id := by
  rw [h]
  rfl

theorem recordHome_only (s : State) (channel : Nat) (code : Byte) (detail : Nat) :
    HomesOnly s (recordHome s channel code detail) := by
  simp only [recordHome, recordEvent]
  split <;> rfl

theorem askArrives_only (who : ReqSrc) (s : State) (a : Ask) : HomesOnly s (askArrives who s a) := by
  simp only [askArrives]
  split <;> rfl

theorem engineRecall_only (s : State) (r : Req) : HomesOnly s (engineRecall s r) := by
  simp only [engineRecall]
  split
  · rfl
  · split
    · rfl
    · split <;> rfl

theorem askAll_only (s : State) (who : ReqSrc) (l : List Ask) : HomesOnly s (askAll s who l) := by
  simp only [askAll]
  refine .trans (.trans (?_ : HomesOnly s (if engineAlive s who then _ else s)) (HomesOnly.foldl (askArrives_only who) _ _))
    (HomesOnly.foldl ?_ _ _)
  · split <;> rfl
  · intro s a
    split
    · rfl
    · exact engineRecall_only ..

theorem askServed_only (who : ReqSrc) (l : List Ask) (s : State) : HomesOnly s (askServed touchEntry who l s) :=
  HomesOnly.foldl (f := fun s (a : Ask) => touchEntry s a.line) (fun _ _ => rfl) l _

theorem admitReqs_only (s : State) (ch : Nat) : HomesOnly s (admitReqs s ch) := rfl

theorem rereadLine_only (s : State) (line : Nat) : HomesOnly s (rereadLine s line) := by
  refine HomesOnly.foldl ?_ _ _
  exact fun _ _ => rfl

theorem notePoison_only (s : State) (g lo hi : Nat) (ws : List CWord) : HomesOnly s (notePoison s g lo hi ws) :=
  HomesOnly.foldl (fun s p => by
    split
    · exact recordHome_only ..
    · rfl) _ _

theorem granuleDone_only (s : State) (p : Part) (g : Nat) (ws : List CWord) : HomesOnly s (granuleDone s p g ws) := rfl

/-- What a plough reads may enter poison records; the parts stay as they are. -/
theorem noteGranule_parts (s : State) (g : Nat) (ws : List CWord) : (noteGranule s g ws).parts = s.parts := by
  have recorded (s : State) (ch : Nat) (code : Byte) (d : Nat) : (recordHome s ch code d).parts = s.parts := by
    rw [recordHome_only s ch code d]
  have fallowed (s : State) (ch page : Nat) : (fallowPage s ch page).parts = s.parts := by
    simp only [fallowPage]
    split
    · rfl
    · exact recorded ..
  have added (s : State) (line j : Nat) : (addPoison s line j).parts = s.parts := by
    simp only [addPoison]
    split
    · rfl
    · split
      · exact recorded ..
      · split
        · split
          · split
            · exact fallowed ..
            · exact (recorded ..).trans (fallowed ..)
          · exact recorded ..
        · exact recorded ..
  refine foldl_frame (R := fun s t : State => t.parts = s.parts) (fun _ => rfl) (fun h k => k.trans h) (fun s p => ?_) _ s
  split
  · exact added ..
  · rfl

/-! ### Words of a granule in HBM (R113, R271) -/

theorem mem_lineWords {ws : List CWord} {lo hi i : Nat} {q : Nat × CWord} : q ∈ lineWords ws lo hi i ↔
    q.1 < 32 ∧ lo ≤ 32 * i + q.1 ∧ 32 * i + q.1 < hi ∧ ws[32 * i + q.1]? = some q.2 := by
  obtain ⟨j, v⟩ := q
  simp only [lineWords, List.mem_map, List.mem_filter, Bool.and_eq_true, decide_eq_true_eq, Prod.exists,
    List.mem_zipIdx_iff_getElem?, List.getElem?_take, List.getElem?_drop, Prod.mk.injEq]
  constructor
  · rintro ⟨x, k, ⟨at_, bounds⟩, rfl, rfl⟩
    split at at_
    · exact ⟨‹_›, bounds.1, bounds.2, at_⟩
    · cases at_
  · rintro ⟨small, low, high, at_⟩
    exact ⟨v, j, ⟨by rw [if_pos small]; exact at_, low, high⟩, rfl, rfl⟩

/-- The words that a plough writes from `lo` to `hi`, each with its line, in some lines of a granule. -/
def lineWrites (ws : List CWord) (lo hi : Nat) (lines : List Nat) : List (Nat × Nat × CWord) :=
  lines.flatMap fun i => (lineWords ws lo hi i).map fun q => (i, q)

/-- Only the homes, the memories, the requests, the loads on their way and the event recorders have changed. -/
def GranuleOnly (s t : State) : Prop := HomesOnly { s with hbm := t.hbm, host := t.host } t

theorem GranuleOnly.refl (s : State) : GranuleOnly s s := rfl

theorem GranuleOnly.trans {s t u : State} (h : GranuleOnly s t) (k : GranuleOnly t u) : GranuleOnly s u := by
  unfold GranuleOnly HomesOnly at *
  rw [k, h]

theorem HomesOnly.granule {s t : State} (h : HomesOnly s t) : GranuleOnly s t := by
  unfold GranuleOnly HomesOnly at *
  rw [h]

theorem MemoriesOnly.granule {s t : State} (h : MemoriesOnly s t) : GranuleOnly s t := by
  unfold GranuleOnly HomesOnly MemoriesOnly at *
  rw [h]

theorem GranuleOnly.findPart? {s t : State} (h : GranuleOnly s t) (id : Nat) : findPart? t id = Machine.findPart? s id := by
  rw [h]
  rfl

theorem GranuleOnly.pageDead {s t : State} (h : GranuleOnly s t) (page : Nat) : pageDead t page = Machine.pageDead s page := by
  rw [h]
  rfl

section Write
variable (p : Part) (g lo hi : Nat) (ws : List CWord)

/-- A plough writes its words of one line. -/
theorem granuleLine_leaves (s : State) (i : Nat) :
    let t := if (lineWords ws lo hi i).isEmpty then s
      else rereadLine (engineWrite s (16 * g + i) (lineWords ws lo hi i) (p.fals.contains g)) (16 * g + i)
    GranuleOnly s t ∧ (p.fals.contains g = false → pageDead s (pageOfLine (16 * g + i)) = false →
      t.hbm = (lineWords ws lo hi i).foldl (fun m q => m.setWord (32 * (16 * g + i) + q.1) q.2) s.hbm) := by
  intro t
  obtain ⟨only, hbm⟩ := engineWrite_leaves s (16 * g + i) (lineWords ws lo hi i) (p.fals.contains g)
  have reread := rereadLine_only (engineWrite s (16 * g + i) (lineWords ws lo hi i) (p.fals.contains g)) (16 * g + i)
  by_cases none : (lineWords ws lo hi i).isEmpty = true
  · simp only [t, if_pos none, List.isEmpty_iff.mp none]
    exact ⟨.refl s, fun _ _ => rfl⟩
  · simp only [t, if_neg none]
    refine ⟨only.granule.trans reread.granule, fun plain alive => ?_⟩
    rw [reread.kept.1, hbm, plain, alive]
    rfl

theorem granuleLines_leave (lines : List Nat) (s : State) :
    let t := lines.foldl (fun s i =>
      let l := lineWords ws lo hi i
      if l.isEmpty then s else rereadLine (engineWrite s (16 * g + i) l (p.fals.contains g)) (16 * g + i)) s
    GranuleOnly s t ∧ (p.fals.contains g = false → (∀ i ∈ lines, pageDead s (pageOfLine (16 * g + i)) = false) →
      t.hbm = (lineWrites ws lo hi lines).foldl (fun m x => m.setWord (32 * (16 * g + x.1) + x.2.1) x.2.2) s.hbm) := by
  induction lines generalizing s with
  | nil => exact ⟨.refl s, fun _ _ => rfl⟩
  | cons i lines ih =>
    obtain ⟨first, written⟩ := granuleLine_leaves p g lo hi ws s i
    obtain ⟨later, rest⟩ := ih _
    refine ⟨first.trans later, fun plain alive => ?_⟩
    rw [List.foldl_cons, rest plain fun j hj => (first.pageDead _).trans (alive j (List.mem_cons_of_mem _ hj)),
      written plain (alive i List.mem_cons_self), lineWrites, lineWrites, List.flatMap_cons, List.foldl_append, List.foldl_map]

theorem granuleWrite_only (s : State) : GranuleOnly s (granuleWrite s p g lo hi ws) := (granuleLines_leave p g lo hi ws _ s).1

/-- Of a granule in HBM a write changes the words that it names. -/
theorem granuleWrite_word {s : State} (hs : s.hbm.wf = true) (alive : pageDead s (pageOfLine (16 * g)) = false)
    (plain : p.fals.contains g = false) (whole : ws.length = 512) {i : Nat} (hi' : i < 512) :
    (granuleWrite s p g lo hi ws).hbm.word (512 * g + i) =
      if lo ≤ i ∧ i < hi then ws.getD i (good 0) else s.hbm.word (512 * g + i) := by
  have page (j : Nat) (hj : j ∈ List.range 16) : pageDead s (pageOfLine (16 * g + j)) = false := by
    rw [show pageOfLine (16 * g + j) = pageOfLine (16 * g) by have := List.mem_range.mp hj; unfold pageOfLine; omega]
    exact alive
  rw [granuleWrite, (granuleLines_leave p g lo hi ws _ s).2 plain page]
  have named {x : Nat × Nat × CWord} (hx : x ∈ lineWrites ws lo hi (List.range 16)) : x.1 < 16 ∧ x.2.1 < 32 ∧
      lo ≤ 32 * x.1 + x.2.1 ∧ 32 * x.1 + x.2.1 < hi ∧ ws[32 * x.1 + x.2.1]? = some x.2.2 := by
    obtain ⟨j, hj, hx⟩ := List.mem_flatMap.mp hx
    obtain ⟨q, hq, rfl⟩ := List.mem_map.mp hx
    exact ⟨List.mem_range.mp hj, mem_lineWords.mp hq⟩
  refine word_foldl_setWord_of (key := fun x : Nat × Nat × CWord => 32 * (16 * g + x.1) + x.2.1) hs (fun x hx at_ => ?_) ?_
  · obtain ⟨-, -, low, high, value⟩ := named hx
    rw [show 32 * x.1 + x.2.1 = i by omega] at low high value
    rw [if_pos ⟨low, high⟩, List.getD_eq_getElem?_getD, value]
    rfl
  · by_cases inside : lo ≤ i ∧ i < hi
    · left
      refine ⟨(i / 32, i % 32, ws[i]), List.mem_flatMap.mpr ⟨i / 32, List.mem_range.mpr (by omega), List.mem_map.mpr ⟨_,
        mem_lineWords.mpr ⟨Nat.mod_lt _ (by omega), ?_, ?_, ?_⟩, rfl⟩⟩, ?_⟩
      · dsimp only; omega
      · dsimp only; omega
      · rw [Nat.div_add_mod]
        exact List.getElem?_eq_getElem _
      · dsimp only; omega
    · exact .inr (if_neg inside).symm

end Write

end Sys2Proof.Machine
end

section
/-! PROOF. O48: the steps of parts, the turns of ploughs and home pairs, and the whole of O48. -/

namespace Sys2Proof.Machine

open Sys2Proof

/-! ### Parts (R269 to R274) -/

theorem findPart?_setPart {s : State} {id : Nat} {p q : Part} (h : findPart? s id = some p) (hq : q.id = id) :
    findPart? (setPart s q) id = some q := by
  have e := find?_map_replace (p := fun x : Part => x.id == id) (a := q) (by simp [hq]) s.parts
  simp only [findPart?] at h
  rw [h] at e
  simpa only [findPart?, setPart, hq, Option.map_some] using e

/-- A part goes on to its next step. -/
theorem Part.advance_leaves (p : Part) : p.advance.id = p.id ∧ p.advance.kind = p.kind ∧ p.advance.acc = p.acc ∧
    p.advance.wpos = p.wpos ∧ p.advance.upc = p.upc + 1 := by
  unfold Part.advance
  dsimp only
  split <;> exact ⟨rfl, rfl, rfl, rfl, rfl⟩

section Steps
variable {s t : State} {p : Part} (hp : findPart? s p.id = some p)
include hp

theorem stepped_of_advance {u : State} (parts : u.parts = s.parts) {acc : List CWord}
    (h : HomesOnly (setPart u { p with acc := acc }.advance) t) : Stepped t p acc := by
  obtain ⟨id, kind, acc, -, upc⟩ := Part.advance_leaves { p with acc := acc }
  have there : findPart? u p.id = some p := by rw [← hp]; simp only [findPart?, parts]
  exact ⟨_, (h.findPart? _).trans (findPart?_setPart there id), upc, acc, kind⟩

/-- A granule has been read. -/
theorem stepped_of_load {g n : Nat} (step : p.step = .load g) (h : HomesOnly (partStep s p n) t) :
    Stepped t p (p.gather (granuleWords s p g)) := by
  rw [partStep, step] at h
  refine stepped_of_advance hp ?_ h
  split
  · exact noteGranule_parts ..
  · rfl

/-- A scaled row has been added. -/
theorem stepped_of_row {g n : Nat} {scale : Word} (step : p.step = .row g scale) (h : HomesOnly (partStep s p n) t) :
    Stepped t p (nbsaRow scale (granuleWords s p g) p.sums) := by
  rw [partStep, step] at h
  exact stepped_of_advance hp (noteGranule_parts ..) h

end Steps

/-- The words are written and the part set: in the middle of the granule, or past its step. -/
theorem storeSome_leaves (s : State) (p : Part) (g n : Nat) (ws : List CWord) (va : DWord) :
    let hi := min 512 (p.wpos + max 1 n)
    ∃ q u, storeSome s p g n ws va = setPart u q ∧ HomesOnly (granuleWrite s p g p.wpos hi ws) u ∧ q.id = p.id ∧
      q.kind = p.kind ∧ q.acc = p.acc ∧ q.wpos = hi % 512 ∧ q.upc = if hi = 512 then p.upc + 1 else p.upc := by
  intro hi
  let u := granuleWrite s p g p.wpos hi ws
  let v := if p.computes then notePoison u g p.wpos hi ws else u
  have noted : HomesOnly u v := by
    simp only [v]
    split
    · exact notePoison_only ..
    · exact .refl u
  rcases (Nat.min_le_left .. : hi ≤ 512).lt_or_eq with more | last
  · exact ⟨_, v, if_pos more, noted, rfl, rfl, rfl, (Nat.mod_eq_of_lt more).symm, (if_neg more.ne).symm⟩
  · refine ⟨_, _, if_neg last.not_lt, noted.trans (granuleDone_only v _ g ws), ?_⟩
    obtain ⟨id, kind, acc, wpos, upc⟩ := Part.advance_leaves { p with
      wpos := 0, target := g, notices := p.notices ++ newNotices s v,
      err := match p.err with
        | some a => some a
        | none => if p.computes then (firstPoison? ws).map (fun i => va + BitVec.ofNat 64 (4 * i)) else none }
    exact ⟨id, kind, acc, wpos.trans (congrArg (· % 512) last : hi % 512 = 512 % 512).symm, upc.trans (if_pos last).symm⟩

/-- Some words of a granule have been written. -/
theorem stored_of_storeSome {s t : State} {p : Part} (hp : findPart? s p.id = some p) {acc ws : List CWord} {g n : Nat} {va : DWord}
    (h : HomesOnly (storeSome s { p with acc := acc } g n ws va) t) : Stored s t p g n ws acc := by
  obtain ⟨q, u, e, done, id, kind, qacc, wpos, upc⟩ := storeSome_leaves s { p with acc := acc } g n ws va
  rw [e] at h
  have there : findPart? u p.id = some p := ((granuleWrite_only ..).trans done.granule).findPart? _ |>.trans hp
  refine ⟨fun hs alive plain whole i small => ?_, q, (h.findPart? _).trans (findPart?_setPart there id), kind, qacc, wpos, upc⟩
  rw [h.kept.1, setPart_hbm, done.kept.1]
  exact granuleWrite_word { p with acc := acc } g _ _ ws hs alive plain whole small

/-! ### Turns of ploughs and home pairs (R269 to R271, R273) -/

/-- `i` lets part `p` go on by a step, or by `n` words of its write. -/
def PartTurn (s : State) (p : Part) (i : Instr) (n : Nat) : Prop :=
  findPart? s p.id = some p ∧ ((∃ ch, i = .ploughRowStep ⟨ch, n⟩ ∧ runningPart? s ch = some p) ∨
    (i = .crossChannelGranule ⟨p.id, n⟩ ∧ p.isCross = true ∧ p.accepted = true ∧ p.finished = false ∧ p.frozen = none ∧
      pairTaken s p = false))

/-- A part may have a granule: it lies in its partition's ranges, and no home keeps the part waiting. -/
def MayHave (s : State) (p : Part) (g : Nat) : Prop :=
  inRanges (getPartition s p.issuer.part) (2048 * g) = true ∧ (p.asks g).any (askWaits s (.engine p.id)) = false

section Turn
variable {s : State} {p : Part} {i : Instr} {n : Nat} (turn : PartTurn s p i n) {P : State → Prop}

theorem partWaits_iff : partWaits s p = true ↔ ∃ g ∈ p.left, (p.asks g).any (askWaits s (.engine p.id)) = true := by
  simp only [partWaits, List.any_flatten, List.any_map, List.any_eq_true, Function.comp]

include turn

/-- A turn runs the part; requests may then be admitted. -/
theorem PartTurn.becomes_of_run (h : ∀ t, HomesOnly (runPart s p n) t → P t) : Becomes i s P := by
  obtain ⟨hp, ⟨ch, rfl, running⟩ | ⟨rfl, cross, accepted, more, thawed, free⟩⟩ := turn
  · have e : ploughStep s ch n = if (findPart? (runPart s p n) p.id).elim false (fun q => q.wpos != 0) then runPart s p n
        else admitReqs (runPart s p n) ch := by
      simp only [ploughStep, running]
    refine ⟨ploughStep s ch n, rfl, h _ ?_⟩
    rw [e]
    split
    · exact .refl _
    · exact admitReqs_only ..
  · have e : crossGranule s p.id n = runPart s p n := by
      simp only [crossGranule, hp, cross, accepted, more, thawed, free, Option.isNone_none, Bool.not_false, Bool.and_self, if_true]
    exact ⟨crossGranule s p.id n, rfl, h _ (e ▸ .refl _)⟩

/-- A part that may have the granules that its step still needs does the step. -/
theorem PartTurn.becomes_of_step (ready : ∀ g ∈ p.left, MayHave s p g) (h : ∀ t, HomesOnly (partStep s p n) t → P t) :
    Becomes i s P := by
  refine turn.becomes_of_run fun t ran => h t (.trans ?_ ran)
  have inside : p.left.find? (fun g => !inRanges (getPartition s p.issuer.part) (2048 * g)) = none :=
    List.find?_eq_none.mpr fun g hg => by simp [(ready g hg).1]
  have free : partWaits s p = false := Bool.eq_false_iff.mpr fun waits => by
    obtain ⟨g, hg, w⟩ := partWaits_iff.mp waits
    exact absurd (ready g hg).2 (by simp [w])
  simp only [runPart, inside, free, Bool.false_eq_true, if_false]
  exact askServed_only ..

/-- A part that may not have a granule yet waits, and stays as it is. -/
theorem PartTurn.becomes_waiting (fresh : p.wpos = 0)
    (inside : ∀ g ∈ p.step.granules, inRanges (getPartition s p.issuer.part) (2048 * g) = true)
    (waits : ∃ g ∈ p.step.granules, (p.asks g).any (askWaits s (.engine p.id)) = true) :
    Becomes i s (fun t => MemoryKept s t ∧ findPart? t p.id = some p) := by
  have left : p.left = p.step.granules := by simp [Part.left, fresh]
  refine turn.becomes_of_run fun t ran => ?_
  have only : HomesOnly s t := by
    refine .trans ?_ ran
    have none_ : p.left.find? (fun g => !inRanges (getPartition s p.issuer.part) (2048 * g)) = none :=
      List.find?_eq_none.mpr fun g hg => by simp [inside g (left ▸ hg)]
    simp only [runPart, none_, partWaits_iff.mpr (left ▸ waits), if_true]
    exact askAll_only ..
  exact ⟨only.kept, (only.findPart? _).trans turn.1⟩

/-- A part whose step reaches a granule outside the ranges freezes there (R359). -/
theorem PartTurn.becomes_frozen {g : Nat} (fresh : p.wpos = 0)
    (outside : p.step.granules.find? (fun g => !inRanges (getPartition s p.issuer.part) (2048 * g)) = some g) :
    Becomes i s (fun t => MemoryKept s t ∧ ∃ q, findPart? t p.id = some q ∧ q.frozen.isSome ∧ q.upc = p.upc) := by
  have left : p.left = p.step.granules := by simp [Part.left, fresh]
  refine turn.becomes_of_run fun t ran => ?_
  have run : runPart s p n = freezePart s p g := by simp only [runPart, left, outside]
  rw [run] at ran
  obtain ⟨kept, frozen⟩ : MemoryKept s (freezePart s p g) ∧
      findPart? (freezePart s p g) p.id = some { p with frozen := some s.nextId } := by
    have set := findPart?_setPart (q := { p with frozen := some s.nextId }) turn.1 rfl
    simp only [freezePart, noteFreeze, recordEvent]
    split <;> exact ⟨⟨rfl, rfl⟩, set⟩
  exact ⟨⟨ran.kept.1.trans kept.1, ran.kept.2.trans kept.2⟩, _, (ran.findPart? _).trans frozen, rfl, rfl⟩

end Turn

/-! ### One step, by what it reads and writes (R270 to R274) -/

section Turn
variable {s : State} {p : Part} {i : Instr} {n : Nat} (turn : PartTurn s p i n)
include turn

theorem PartTurn.load_becomes {g : Nat} {P : List CWord → Prop} (step : p.step = .load g) (h : P (p.gather (granuleWords s p g)))
    (fresh : p.wpos = 0) (inside : inRanges (getPartition s p.issuer.part) (2048 * g) = true)
    (free : (p.asks g).any (askWaits s (.engine p.id)) = false) : Becomes i s (fun t => ∃ acc, Stepped t p acc ∧ P acc) := by
  refine turn.becomes_of_step (fun x hx => ?_) fun t ran => ⟨_, stepped_of_load turn.1 step ran, h⟩
  obtain rfl : x = g := by simpa [Part.left, fresh, step, Step.granules] using hx
  exact ⟨inside, free⟩

theorem PartTurn.row_becomes {g : Nat} {scale : Word} {P : List CWord → Prop} (step : p.step = .row g scale)
    (h : P (nbsaRow scale (granuleWords s p g) p.sums)) (fresh : p.wpos = 0)
    (inside : inRanges (getPartition s p.issuer.part) (2048 * g) = true)
    (free : (p.asks g).any (askWaits s (.engine p.id)) = false) : Becomes i s (fun t => ∃ acc, Stepped t p acc ∧ P acc) := by
  refine turn.becomes_of_step (fun x hx => ?_) fun t ran => ⟨_, stepped_of_row turn.1 step ran, h⟩
  obtain rfl : x = g := by simpa [Part.left, fresh, step, Step.granules] using hx
  exact ⟨inside, free⟩

theorem PartTurn.store_becomes {g : Nat} {ws : List CWord} {va : DWord} {P : List CWord → Prop} (step : p.step = .store g ws va)
    (h : P (if p.computes then poisonOver (granuleWords s p g) ws else ws))
    (inside : inRanges (getPartition s p.issuer.part) (2048 * g) = true)
    (free : (p.asks g).any (askWaits s (.engine p.id)) = false) :
    Becomes i s (fun t => ∃ ws, P ws ∧ Stored s t p g n ws p.acc) := by
  refine turn.becomes_of_step (fun x hx => ?_) fun t ran => ⟨_, h, stored_of_storeSome (va := va) turn.1 ?_⟩
  · obtain rfl : x = g := by
      simp only [Part.left, step, Step.granules] at hx
      split at hx
      · exact List.mem_singleton.mp hx
      · exact List.mem_singleton.mp (List.mem_of_mem_filter hx)
    exact ⟨inside, free⟩
  · rwa [partStep, step] at ran

theorem PartTurn.copy_becomes {a b : Nat} (step : p.step = .copy a b)
    (source : p.wpos = 0 → inRanges (getPartition s p.issuer.part) (2048 * a) = true ∧
      (p.asks a).any (askWaits s (.engine p.id)) = false)
    (inside : inRanges (getPartition s p.issuer.part) (2048 * b) = true)
    (free : (p.asks b).any (askWaits s (.engine p.id)) = false) :
    let ws := if p.wpos = 0 then granuleWords s p a else p.acc
    Becomes i s (fun t => Stored s t p b n ws ws) := by
  intro ws
  refine turn.becomes_of_step (fun x hx => ?_) fun t ran => stored_of_storeSome (va := 0) turn.1 ?_
  · by_cases fresh : p.wpos = 0
    · have named : x = a ∨ x = b := by simpa [Part.left, fresh, step, Step.granules] using hx
      rcases named with rfl | rfl
      · exact source fresh
      · exact ⟨inside, free⟩
    · have written : x = b := by
        simp only [Part.left, beq_eq_false_iff_ne.mpr fresh, Bool.false_eq_true, if_false, step] at hx
        exact beq_iff_eq.mp (List.mem_filter.mp hx).2
      exact written ▸ ⟨inside, free⟩
  · have held : (if p.wpos == 0 then { p with acc := granuleWords s p a } else p) = { p with acc := ws } := by
      by_cases fresh : p.wpos = 0
      · simp only [ws, fresh, beq_self_eq_true, if_true]
      · simp only [ws, beq_eq_false_iff_ne.mpr fresh, Bool.false_eq_true, if_false, fresh]
    rw [partStep, step] at ran
    dsimp only at ran
    rwa [held] at ran

end Turn

/-! ### The steps of each kind of part (R272 to R274) -/

theorem pairSteps_eq (q : Nat × Nat) : pairSteps q = pairTime q := by
  simp only [pairSteps, pairTime, sameSubarray, Bool.and_eq_true, beq_iff_eq]

/-- The pair at the steps of those before it, and `k` more. -/
theorem pairAt_append (before after : List (Nat × Nat)) {pair : Nat × Nat} {k : Nat} (hk : k < pairTime pair) :
    pairAt (before ++ pair :: after) ((before.map pairTime).sum + k) = some (pair, k) := by
  induction before with
  | nil => simp [pairAt, pairSteps_eq, hk]
  | cons q before ih =>
    rw [List.cons_append, pairAt, pairSteps_eq, List.map_cons, List.sum_cons, if_neg (by omega), ← ih]
    congr 1
    omega

section Steps
variable {p : Part}

theorem step_nbsa {accd : Bool} {dst : Nat} {rows : List (Nat × Word)} (kind : p.kind = .nbsa accd dst rows) :
    let first := if accd then 1 else 0
    (p.upc < first → p.step = .load dst) ∧
    (∀ k r, rows[k]? = some r → p.upc = first + k → p.step = .row r.1 r.2) ∧
    (p.upc = first + rows.length → p.step = .store dst p.acc p.va) := by
  intro first
  have e : accd.toNat = first := by cases accd <;> rfl
  simp only [Part.step, kind, e]
  refine ⟨fun h => if_pos h, fun k r hr h => ?_, fun h => ?_⟩
  · rw [if_neg (by omega), h, Nat.add_sub_cancel_left, hr]
  · rw [if_neg (by omega), h, Nat.add_sub_cancel_left, List.getElem?_eq_none (le_refl _), beq_self_eq_true, if_pos rfl]

theorem step_nbcp {before after : List (Nat × Nat)} {pair : Nat × Nat} (kind : p.kind = .nbcp (before ++ pair :: after)) :
    let at_ := (before.map pairTime).sum
    (p.upc = at_ → pairTime pair = 1 → p.step = .copy pair.1 pair.2) ∧
    (p.upc = at_ → pairTime pair = 2 → p.step = .load pair.1) ∧
    (p.upc = at_ + 1 → pairTime pair = 2 → p.step = .store pair.2 p.acc p.va) := by
  intro at_
  simp only [Part.step, kind]
  have first : 0 < pairTime pair → pairAt (before ++ pair :: after) at_ = some (pair, 0) := pairAt_append before after
  have second : 1 < pairTime pair → pairAt (before ++ pair :: after) (at_ + 1) = some (pair, 1) := pairAt_append before after
  refine ⟨fun h time => ?_, fun h time => ?_, fun h time => ?_⟩
  · simp [h, first (by omega), pairSteps_eq, time]
  · simp [h, first (by omega), pairSteps_eq, time]
  · simp [h, second (by omega), pairSteps_eq, time]

theorem step_nbzr {dsts : List Nat} {g : Nat} (kind : p.kind = .nbzr dsts) (here : dsts[p.upc]? = some g) :
    p.step = .store g (List.replicate 512 (good 0)) p.va := by
  simp only [Part.step, kind, here]

theorem step_cross {pairs : List (Nat × Nat)} {pair : Nat × Nat} (kind : p.kind = .cross pairs)
    (here : pairs[p.upc]? = some pair) :
    p.step = .copy pair.1 pair.2 := by
  simp only [Part.step, kind, here]

theorem step_nbopt {blocks : List (Nat × Nat × Nat × Nat × Nat)} {k : List Word} {w m v g b : Nat}
    (kind : p.kind = .nbopt blocks k) (here : blocks[p.upc / 7]? = some (w, m, v, g, b)) :
    let rs := (optElems p.acc).map (optWordsOf k)
    (p.upc % 7 = 0 → p.step = .load w) ∧ (p.upc % 7 = 1 → p.step = .load m) ∧ (p.upc % 7 = 2 → p.step = .load v) ∧
    (p.upc % 7 = 3 → p.step = .load g) ∧ (p.upc % 7 = 4 → ∃ va, p.step = .store m (rs.map (·.1)) va) ∧
    (p.upc % 7 = 5 → ∃ va, p.step = .store v (rs.map (·.2.1)) va) ∧
    (p.upc % 7 = 6 → ∃ va, p.step = .store w (rs.map (·.2.2)) va) := by
  intro rs
  simp only [Part.step, kind, here, nboptBlock_eq]
  refine ⟨fun h => ?_, fun h => ?_, fun h => ?_, fun h => ?_, fun h => ?_, fun h => ?_, fun h => ?_⟩ <;> simp only [h] <;>
    exact ⟨_, rfl⟩

end Steps

/-! ### A part is accepted and is over (R156, R269) -/

theorem findPart?_id {s : State} {id : Nat} {p : Part} (h : findPart? s id = some p) : p.id = id := by
  simpa using List.find?_some h

theorem partAccepted_becomes (s : State) (id : Nat) (p : Part) (hp : findPart? s id = some p) (room : partAcceptable s p = true) :
    Becomes (.ploughPartAccepted id) s (fun t => findPart? t id = some { p with accepted := true } ∧ MemoryKept s t ∧
      ∀ o, findOp? s p.op = some o → o.accepted = false → (∀ q ∈ s.parts, q.op = p.op → q.id ≠ id → q.accepted = true) →
        findOp? t p.op = some { o with accepted := true } ∧ Lowered s t o.warp .nm) := by
  have pid : p.id = id := findPart?_id hp
  let u := setPart s { p with accepted := true }
  have run : partAccepted s id = acceptedOp u p.op := by simp only [partAccepted, hp, room, if_true, u]
  obtain ⟨parts, kept⟩ : (acceptedOp u p.op).parts = u.parts ∧ MemoryKept s (acceptedOp u p.op) := by
    simp only [acceptedOp]
    split
    · exact ⟨rfl, rfl, rfl⟩
    · split
      · exact ⟨rfl, rfl, rfl⟩
      · split <;> exact ⟨rfl, rfl, rfl⟩
  refine ⟨acceptedOp u p.op, congrArg _ run, ?_, kept, fun o ho fresh others => ?_⟩
  · rw [findPart?, parts]
    exact findPart?_setPart (q := { p with accepted := true }) hp pid
  · have all : u.parts.any (fun q => q.op == p.op && !q.accepted) = false := by
      refine List.any_eq_false.mpr fun q hq => ?_
      obtain ⟨q', hq', rfl⟩ := List.mem_map.mp hq
      split
      · simp
      · rename_i ne
        intro h
        simp only [Bool.and_eq_true, beq_iff_eq, Bool.not_eq_true'] at h ne
        exact absurd (others q' hq' h.1 (pid ▸ ne)) (by simp [h.2])
    have e : acceptedOp u p.op = lowerCtr (setOp u { o with accepted := true }) o.warp .nm := by
      simp only [acceptedOp, all, Bool.false_eq_true, if_false, show findOp? u p.op = some o from ho, fresh]
    rw [e]
    obtain ⟨found, lowered, -⟩ := accepted_lowered (s := u) ho .nm
    exact ⟨found, lowered⟩

theorem partCompletes_becomes (s : State) (id : Nat) (p : Part) (hp : findPart? s id = some p) (done : p.finished = true)
    (back : delivered s p.notices = true) :
    Becomes (.ploughPartCompletes id) s (fun t => (∀ q ∈ t.parts, q.id ≠ id) ∧ MemoryKept s t ∧
      ∀ o e, findOp? s p.op = some o → o.kind = .plough e → (∀ q ∈ s.parts, q.op = p.op → q.id = id) → Over t p.op ∧
        ∀ w a, findWarp? s o.warp = some w → w.ploughError = none → (e = some a ∨ e = none ∧ p.err = some a) →
          ∃ v, findWarp? t o.warp = some v ∧ v.ploughError = some a) := by
  have pid : p.id = id := findPart?_id hp
  have run : partCompletes s id = partOver s p p.err := by simp only [partCompletes, hp, done, back, Bool.and_self, if_true]
  have gone : ∀ q ∈ (dropPart s id).parts, q.id ≠ id := fun q hq => by simpa using (List.mem_filter.mp hq).2
  obtain ⟨parts, kept⟩ : (partOver s p p.err).parts = (dropPart s id).parts ∧ MemoryKept s (partOver s p p.err) := by
    simp only [partOver, pid]
    split
    · exact ⟨rfl, rfl, rfl⟩
    · split
      · exact ⟨rfl, rfl, rfl⟩
      · split <;> exact ⟨rfl, rfl, rfl⟩
  refine ⟨partOver s p p.err, congrArg _ run, parts ▸ gone, kept, fun o e ho kind only => ?_⟩
  have last : (dropPart s id).parts.any (fun q => q.op == p.op) = false := List.any_eq_false.mpr fun q hq same =>
    gone q hq (only q (List.mem_of_mem_filter hq) (beq_iff_eq.mp same))
  let u := dropOp (dropPart s id) p.op
  have ended : partOver s p p.err = match e.or p.err with
      | none => u
      | some a => onWarp u o.warp (fun w => { w with ploughError := some (w.ploughError.getD a) }) := by
    simp only [partOver, pid, show findOp? (dropPart s id) p.op = some o from ho, kind, last, Bool.false_eq_true, if_false,
      findOp?_id ho, u]
    cases e <;> rfl
  refine ⟨?_, fun w a hw fresh named => ?_⟩
  · rw [ended]
    split <;> exact over_dropOp (dropPart s id) p.op
  · have error : e.or p.err = some a := by
      rcases named with rfl | ⟨rfl, h⟩
      · rfl
      · exact h
    rw [ended, error]
    exact ⟨_, findWarp?_onWarp_self (s := u) (fun _ => rfl) hw, by simp [fresh]⟩

/-! ### What the kinds of parts compute and keep (R141, R272 to R274) -/

section Kinds
variable {p : Part}

theorem Part.gather_of {ws : List CWord} (kind : ∀ l k, p.kind ≠ .nbopt l k) : p.gather ws = ws := by
  unfold Part.gather
  split
  · exact absurd ‹_› (kind _ _)
  · rfl

theorem Part.gather_nbopt {l : List (Nat × Nat × Nat × Nat × Nat)} {k ws : List _} (kind : p.kind = .nbopt l k) :
    p.gather ws = (if p.upc % 7 = 0 then [] else p.acc) ++ ws := by
  simp only [Part.gather, kind, beq_iff_eq]

theorem Part.sums_eq : p.sums = if p.acc = [] then List.replicate 512 (good 0) else p.acc := by
  simp only [Part.sums, List.isEmpty_iff]

end Kinds

/-- NBOPT writes one of its results over its array. -/
theorem PartTurn.opt_becomes {s : State} {p : Part} {i : Instr} {n : Nat} (turn : PartTurn s p i n)
    {blocks : List (Nat × Nat × Nat × Nat × Nat)} {k : List Word} {x : Nat} {sel : CWord × CWord × CWord → CWord}
    {pick : Nat × Nat × Nat → Nat} (kind : p.kind = .nbopt blocks k)
    (step : ∃ va, p.step = .store x (((optElems p.acc).map (optWordsOf k)).map sel) va)
    (picked : ∀ r : Nat × Nat × Nat, sel (good (.ofNat 32 r.1), good (.ofNat 32 r.2.1), good (.ofNat 32 r.2.2)) =
      good (.ofNat 32 (pick r)))
    (bad : ∀ a b c, (sel (poison a, poison b, poison c)).isGood = false)
    (inside : inRanges (getPartition s p.issuer.part) (2048 * x) = true)
    (free : (p.asks x).any (askWaits s (.engine p.id)) = false) :
    Becomes i s (fun t => ∃ ws, (p.acc.length = 2048 → OptWords k p.acc (granuleWords s p x) ws pick) ∧
      Stored s t p x n ws p.acc) := by
  obtain ⟨va, step⟩ := step
  refine turn.store_becomes (P := fun ws => p.acc.length = 2048 → OptWords k p.acc (granuleWords s p x) ws pick) step
    (fun whole => ?_) inside free
  rw [if_pos (by simp [Part.computes, kind])]
  exact optWords_poisonOver whole (granuleWords_length ..) picked bad

/-- Settles O48: a part's acceptance and end by what they do to it and its operation; a turn by the step that the part's kind
and micro-PC give, which loads, adds, stores or copies, or by what keeps the step from its granules. -/
theorem ploughsWorkThroughTheirParts : Obligations.PloughsWorkThroughTheirParts := by
  unfold Obligations.PloughsWorkThroughTheirParts
  refine ⟨partAccepted_becomes, ⟨rfl, by decide +kernel, fun s p i n hp who => ?_⟩, partCompletes_becomes⟩
  have turn : PartTurn s p i n := ⟨hp, who⟩
  refine ⟨fun accd dst rows kind => ?nbsa, fun dsts g kind here => ?nbzr, fun before pair after kind => ?nbcp,
    fun pairs pair kind here => ?cross, fun blocks k w m v g b kind here => ?nbopt, turn.becomes_waiting,
    fun g => turn.becomes_frozen⟩
  case nbsa =>
    obtain ⟨load, row, store⟩ := step_nbsa kind
    refine ⟨fun h => turn.load_becomes (load h) (Part.gather_of (by simp [kind])), fun k r hr h => ?_, fun h => ?_⟩
    · refine turn.row_becomes (row k r hr h) fun whole => ?_
      rw [Part.sums_eq]
      exact nbsaRow_adds (granuleWords_length ..) whole
    · refine turn.store_becomes (store h) fun whole => ?_
      rw [if_pos (by simp [Part.computes, kind])]
      exact poisonOver_eq (granuleWords_length ..) whole
  case nbzr => exact turn.store_becomes (step_nbzr kind here) (if_neg (by simp [Part.computes, kind]))
  case nbcp =>
    obtain ⟨copy, load, store⟩ := step_nbcp kind
    exact ⟨fun h time => turn.copy_becomes (copy h time),
      fun h time => turn.load_becomes (load h time) (Part.gather_of (by simp [kind])),
      fun h time => turn.store_becomes (store h time) (if_neg (by simp [Part.computes, kind]))⟩
  case cross => exact turn.copy_becomes (step_cross kind here)
  case nbopt =>
    obtain ⟨w0, m1, v2, g3, m4, v5, w6⟩ := step_nbopt kind here
    have more {ws : List CWord} (h : p.upc % 7 ≠ 0) : p.gather ws = p.acc ++ ws := by rw [Part.gather_nbopt kind, if_neg h]
    refine ⟨fun h => turn.load_becomes (w0 h) ((Part.gather_nbopt kind).trans (by rw [if_pos h, List.nil_append])),
      fun h => turn.load_becomes (m1 h) (more (by omega)), fun h => turn.load_becomes (v2 h) (more (by omega)),
      fun h => turn.load_becomes (g3 h) (more (by omega)),
      fun h => turn.opt_becomes kind (m4 h) (fun _ => rfl) fun _ _ _ => rfl,
      fun h => turn.opt_becomes kind (v5 h) (fun _ => rfl) fun _ _ _ => rfl,
      fun h => turn.opt_becomes kind (w6 h) (fun _ => rfl) fun _ _ _ => rfl⟩

end Sys2Proof.Machine
end

section
/-! PROOF. O44 fails, for the reason that O30 and O32 fail: it says `Quiet` of an SNRM over every state, and so that store words
which are in no window stay, but over the unsorted store a result that leaves the full window for the banks uncovers word 0.
The SNRM is one over an empty list, which it reads without a word of the block. -/

namespace Sys2Proof.Machine

open Sys2Proof

/-- An SNRM whose list registers, s0 and s1, hold 0 over the unsorted store. -/
def emptyListSnrm : SnrmOp := { smax := false, p := 0 }

/-- It reads the sparse list without entries. -/
theorem emptyListSnrm_reads : (finds unsortedState fullWindowWarp false entrySlot (.snrm emptyListSnrm)).readList 0 none
    emptyListSnrm.p (some ((finds unsortedState fullWindowWarp false entrySlot (.snrm emptyListSnrm)).sca
      emptyListSnrm.p.toNat)) = .ok ⟨false, []⟩ := by
  rfl

/-- Refutes O44: an SNRM over an empty list, over the unsorted store. -/
theorem not_softInstructionsBegin : ¬ Obligations.SoftInstructionsBegin := by
  unfold Obligations.SoftInstructionsBegin
  intro h
  obtain ⟨-, -, -, -, -, -, -, normalises⟩ := h unsortedState fullWindowWarp false entrySlot
  obtain ⟨t, q, y, he, -, -, -, -, -, -, quiet⟩ := normalises emptyListSnrm ⟨false, []⟩ (issues_unsorted (by decide +kernel))
    emptyListSnrm_reads
  exact not_quiet_of_uncovers he (by decide +kernel) quiet

end Sys2Proof.Machine
end

section
/-! PROOF. O51 fails. It says that when a commit begins, the words of its wake buffer stand in HBM as the commit leaves them.
But a home that has read a corrupt word adds its sector to the poison record after those words are written, and where the
record and the Fallow list are both full it writes that word in poisoned form in place (07 R148). So a commit that finds TOP
corrupt writes a good TOP, which is then poisoned. The statement lacks the hypothesis that the lists have room, or that the
words which the commit reads are not corrupt. -/

namespace Sys2Proof.Machine

open Sys2Proof

/-! ### A commit that finds a corrupt TOP while both lists are full -/

/-- A region of one slot, its wake buffer at address 0, with one party. -/
def wakeAtZeroDesc : SoftDesc := { region := 0x200000, base := 0x200000, w := 1, n := 1, parts := 1, wbase := 0, gbase := 0 }

/-- A forward SCMT of the placed program's warp over that region. -/
def forwardScmt : SoftOp :=
  { kind := .scmt false, issuer := { part := 0, ctx := false, launch := 0, teamlin := 0, core := 0, index := 0 }, handle := 0,
    desc := wakeAtZeroDesc, mask := 0xFFFFFFFF, list := [], dense := false, places := [], homes := [], inAddr := 0, outAddr := 0,
    vals := [], u := 0, count := 0, epoch := 0, staged := 0, gw := [], gv := [], gvFlags := 0, gvBad := none }

/-- The SCMT on its way to the commit home. -/
def forwardScmtOp : Op :=
  { id := 9, warp := 4, slot := false, pc := 0, seq := 0, kind := .soft forwardScmt, ctr := some .sf, dst := 0, width := 0,
    words := [], held := false, accepted := false }

/-- The region, taken up at epoch 0. -/
def wakeAtZeroRegion : Region :=
  { base := 0x200000, part := 0, ctx := false, epoch := 0, bad := false, arrivals := [], overflows := [] }

/-- A full poison record of channel 0: 512 sectors of other pages than page 0. -/
def fullPoisonRecord : List Nat := (List.range 512).map (fun i => 24576 * (1 + i / 64) + i % 64)

/-- A full Fallow list of pages that are not in that record. -/
def fullFallowList : List Nat := (List.range 4096).map (· + 1000)

/-- A wake buffer before its first commit, whose TOP has a wrong check that is not the complement. -/
def corruptTopMemory : Mem := Mem.empty.setWords 0 [good 0, ⟨0xFFFFFFFF, 1⟩, good 64, good 0]

/-- The placed program's device with the SCMT, that wake buffer and both lists full. -/
def fullListsState : State :=
  { placeProgram State.reset [] with
    ops := [forwardScmtOp], regions := [wakeAtZeroRegion], hbm := corruptTopMemory,
    homes := [(0, { Home.dflt with poison := fullPoisonRecord })],
    mgc := { State.reset.mgc with fallow := fullFallowList, fallowMax := 4096 } }

/-- The SCMT as an arrival, and the region with it. -/
def forwardArrival : Arrival := { op := 9, warp := 4, epoch := 0, rev := false, desc := wakeAtZeroDesc, handle := 0 }
def arrivedRegion : Region := { wakeAtZeroRegion with arrivals := [forwardArrival] }

/-- The state in which the commit begins. -/
def arrivedState : State := setRegion (setOp fullListsState { forwardScmtOp with accepted := true }) arrivedRegion

/-- What the commit does; no entry is due. -/
def emptyCommit : Work := (commitWork arrivedState arrivedRegion [forwardArrival] forwardArrival []).1

/-! ### What becomes of TOP -/

/-- Every word of the commit's wake buffer may be written, and no two are the same. -/
theorem emptyCommit_wake_writable : (emptyCommit.wake.map (fun p => p.1.pa / 4)).Nodup ∧
    ∀ p ∈ emptyCommit.wake, p.1.fal = false ∧ ownFabric p.1.pa = false := by decide +kernel

/-- The commit makes TOP the index of its frame, a good 0. -/
theorem emptyCommit_writes_top : (⟨4, false⟩, good 0) ∈ emptyCommit.wake := by decide +kernel

/-- The event leaves TOP poisoned. -/
theorem commitArrival_poisons_top : (commitArrivalEvent fullListsState 9).hbm.word 1 = poison (good 0) := by decide +kernel

/-- Refutes O51: a commit that finds TOP corrupt, while the poison record and the Fallow list are full. -/
theorem not_softOperationsStageAndCommit : ¬ Obligations.SoftOperationsStageAndCommit := by
  unfold Obligations.SoftOperationsStageAndCommit
  intro ⟨_, _, commits, _⟩
  obtain ⟨-, begins⟩ := commits fullListsState 9 forwardScmtOp forwardScmt programWarp false wakeAtZeroRegion rfl rfl rfl rfl rfl
    (by decide +kernel) (by decide +kernel) rfl
  obtain ⟨t, runs, wrote, -⟩ := begins forwardArrival (by decide +kernel) (by decide +kernel) (by decide +kernel)
    (by decide +kernel) (by decide +kernel)
  obtain rfl := Host.Outcome.next.inj (show _ = _ from runs)
  obtain ⟨once, open_⟩ := emptyCommit_wake_writable
  have top := wrote (by decide +kernel) once open_ _ emptyCommit_writes_top (by decide) (by decide +kernel)
  exact absurd (commitArrival_poisons_top.symm.trans top) (by decide)

end Sys2Proof.Machine
end

section
/-! PROOF. O15: MOVSR over the table of special registers, and the instructions of the integrity group. -/

namespace Sys2Proof.Machine

open Sys2Proof

/-! ### Results given as they are -/

/-- An instruction whose effect is results and flags writes them. -/
theorem writes_of_write {i : Instr} {P : Cx → List (Nat × Word) → Word → Prop} {body : Cx → Eff}
    (ws : Cx → List (Nat × Word)) (fl : Cx → Word) (hb : ∀ c, body c = .write (ws c) (fl c))
    (he : ∀ s, exec i s = issue i body s) (hP : ∀ c, P c (ws c) (fl c)) : Writes i P := by
  intro s w n x h
  have run : exec i s = .next ((Eff.write (ws (finds s w n x i)) (fl (finds s w n x i))).finish (finds s w n x i)) := by
    rw [he, issue_issues h, hb]
  refine ⟨_, _, hP _, fun h0 => ?_, fun h0 hm => ?_⟩
  · rw [run, finish_write s w n x i _ _ h0]
  · rw [run, finish_write_trap s w n x i _ _ h0 hm]

/-! ### The table of special registers (R176) -/

theorem gridOf_of_found {s : State} {w : Warp} {m : Team} {g : Grid} (hm : findTeam? s w.team = some m)
    (hg : findGrid? s m.grid = some g) : gridOf s w = some g := by
  rw [gridOf, hm, Option.bind_some, hg]

/-- A core's place is the first at which the team's cores name it. -/
theorem coreIndex_of_first {m : Team} {core i : Nat} (hi : i < m.cores.length) (at_ : m.cores.getD i 0 = core)
    (first : ∀ j < i, m.cores.getD j 0 ≠ core) : coreIndex m core = i := by
  refine (List.findIdx_eq hi).mpr ⟨?_, fun j hj => ?_⟩
  · rw [← List.getD_eq_getElem m.cores 0 hi, at_, beq_self_eq_true]
  · rw [← List.getD_eq_getElem m.cores 0 (hj.trans hi)]
    exact beq_false_of_ne (first j hj)

theorem baseOn_of_first {m : Team} {core i : Nat} (hi : i < m.cores.length) (at_ : m.cores.getD i 0 = core)
    (first : ∀ j < i, m.cores.getD j 0 ≠ core) : m.baseOn core = m.spBases.getD i 0 := by
  rw [Team.baseOn, coreIndex_of_first hi at_ first]

/-- A core's quad within its die. -/
theorem quadOf_mod (core : Nat) : quadOf core % 24 = core % 96 / 4 := by
  rw [quadOf]
  omega

/-- ROLE reads gn in trap mode (R350). -/
theorem specialReg_role (c : Cx) (l : Nat) :
    specialReg c 15 l = if c.preW.trap = none then c.preW.role.setWidth 32 else 3 := by
  change (if c.preW.trap.isSome then 3 else c.preW.role : BitVec 2).setWidth 32 = _
  cases c.preW.trap <;> rfl

theorem specialReg_slot (c : Cx) (l : Nat) : specialReg c 16 l = if c.n then 1 else 0 := by
  change BitVec.ofNat 32 c.n.toNat = _
  cases c.n <;> rfl

theorem specialReg_quad (c : Cx) (l : Nat) : specialReg c 12 l = BitVec.ofNat 32 (c.preW.core % 96 / 4) :=
  congrArg (BitVec.ofNat 32) (quadOf_mod c.preW.core)

/-! ### MOVSR (R222) -/

/-- Any register but CLKLO is only read. -/
theorem movsrEff_lanewise {o : MovsrOp} (h : o.idx ≠ 21) (c : Cx) :
    movsrEff o c = c.lanewise none o.dst (fun l => Res.w (specialReg c o.idx.toNat l)) := by
  rw [movsrEff, beq_false_of_ne h]
  rfl

/-- CLKLO gives the low half of the cycle count and latches the high half in the counted warp. -/
theorem movsrEff_clklo {o : MovsrOp} (h : o.idx = 21) (s : State) (w : Warp) (n : Bool) (x : Slot) :
    movsrEff o (finds s w n x (.movsr o)) =
      .go (setWarp s { countedWarp w n x (.movsr o) with clkhi := BitVec.ofNat 32 (s.cycle / 2 ^ 32) })
        ((finds s w n x (.movsr o)).results none o.dst (fun _ => ⟨[BitVec.ofNat 32 s.cycle], 0⟩)).1 := by
  rw [movsrEff, h, finds_s, setWarp_setWarp]
  · rfl
  · rfl

/-! ### Words with some check bits (R140) -/

/-- The difference between two checks determines either from the other. -/
theorem check_xor_eq_iff (a k e : Byte) : a ^^^ k = e ↔ k = a ^^^ e := by
  constructor <;> rintro rfl <;> rw [← BitVec.xor_assoc, BitVec.xor_self, BitVec.zero_xor]

theorem isGood_ofCheck (d : Word) (k : Byte) : (CWord.ofCheck d k).isGood = true ↔ k = gck d := by
  rw [CWord.isGood, CWord.ofCheck, beq_iff_eq, check_xor_eq_iff]
  exact Eq.congr_right BitVec.xor_zero

theorem isPoisoned_ofCheck (d : Word) (k : Byte) : (CWord.ofCheck d k).isPoisoned = true ↔ k = ~~~ gck d := by
  rw [CWord.isPoisoned, CWord.ofCheck, beq_iff_eq, check_xor_eq_iff]
  exact Eq.congr_right BitVec.xor_allOnes

/-- The class of a word by its check: the right one, its complement, or another. -/
theorem wordClass_ofCheck (d : Word) (k : Byte) :
    wordClass (.ofCheck d k) = if k = gck d then 0 else if k = ~~~ gck d then 1 else 2 := by
  simp only [wordClass, isGood_ofCheck, isPoisoned_ofCheck]

/-! ### SIGCHK (R154) -/

/-- The signature is compared first, then the mask; where both are as they should be the signature starts again. -/
theorem sigchkEff_eq (v : Word) (c : Cx) : sigchkEff v c =
    if c.slot.sig ≠ v then .stop (contain c.pre c.preW 4 0 0x08 c.slot.pc 0)
    else if c.slot.mask ≠ c.slot.shadow then .stop (contain c.pre c.preW 5 0 0x08 c.slot.pc 0)
    else .go (c.withSlot { c.mine with sig := resig c.w c.slot.sig 0 }) [] := by
  unfold sigchkEff
  by_cases sig : c.slot.sig = v
  · by_cases mask : c.slot.mask = c.slot.shadow <;> simp [sig, mask]
  · simp [sig]

theorem exec_sigchk {v : Word} {s : State} {w : Warp} {n : Bool} {x : Slot} (h : Issues (.sigchk v) s w n x) :
    exec (.sigchk v) s = .next (
      if x.sig ≠ v then contain s w 4 0 0x08 x.pc 0
      else if x.mask ≠ x.shadow then contain s w 5 0 0x08 x.pc 0
      else wentSlot s w n x (.sigchk v) (fun y => { y with sig := if w.trap.isSome then x.sig else 0 }) []) := by
  have effect : HasEffect _ s w n x (sigchkEff v) := hasEffect_of_issue h rfl
  have branches := sigchkEff_eq v (finds s w n x (.sigchk v))
  simp only [finds_slot, finds_pre, finds_preW, finds_mine, finds_w, resig, countedWarp_trap] at branches
  split
  · next sig => exact exec_of_stop effect (branches.trans (if_pos sig))
  · next sig =>
    rw [if_neg sig] at branches
    split
    · next mask => exact exec_of_stop effect (branches.trans (if_pos mask))
    · next mask => exact exec_of_slot effect (branches.trans (if_neg mask))

/-- Settles O15: MOVSR by its two kinds of register and the table row by row, then each check instruction by its effect. -/
theorem specialRegistersAndChecks : Obligations.SpecialRegistersAndChecks := by
  unfold Obligations.SpecialRegistersAndChecks
  refine ⟨⟨fun o h => ?_, fun o s w n x h hi => ?_, fun c l => ?_, fun c l m g hm hg => ?_, fun d => ?_, fun o => ?_,
    fun o => ?_⟩, fun v s w n x h => exec_sigchk h⟩
  · exact givesLanes _ (movsrEff_lanewise h) (fun _ => rfl) fun _ _ _ _ _ _ => ⟨rfl, rfl⟩
  · exact exec_of_warp (hasEffect_of_issue hi rfl : HasEffect _ s w n x (movsrEff o))
      (f := fun v => { v with clkhi := BitVec.ofNat 32 (s.cycle / 2 ^ 32) }) (movsrEff_clklo h s w n x)
  · exact ⟨rfl, rfl, rfl, rfl, specialReg_role c l, specialReg_slot c l, rfl, rfl, rfl, rfl, rfl, rfl, rfl, rfl, rfl, rfl,
      specialReg_quad c l, rfl, rfl⟩
  · have grid := gridOf_of_found hm hg
    intro r
    simp only [specialReg, launchOf, hm, grid, Option.elim_some, lowWord, highWord, r, true_and]
    exact fun i hi at_ first => congrArg (BitVec.ofNat 32) (baseOn_of_first hi at_ first)
  · exact writes_of_write _ _ (fun _ => rfl) (fun _ => rfl) fun _ => ⟨rfl, rfl⟩
  · exact givesLanes _ (fun _ => rfl) (fun _ => rfl) fun _ _ _ _ _ _ => ⟨rfl, rfl⟩
  · exact givesLanes _ (fun _ => rfl) (fun _ => rfl) fun _ _ _ _ _ _ => ⟨rfl, congrArg (fun k => [k]) (wordClass_ofCheck ..)⟩

end Sys2Proof.Machine
end

section
/-! SUPPORT. The words of instructions (08 R157 to R174): every shape's fields are read back from its word, so the word of a
well-formed instruction names that instruction; and the pairs likewise. -/

namespace Sys2Proof

open Sys2Proof.Machine

/-! ### Adjacent fields -/

/-- Adjacent fields, joined, are one field. -/
theorem extract_join {w : Nat} (x : BitVec w) (i m n : Nat) :
    x.extractLsb' (i + n) m ++ x.extractLsb' i n = x.extractLsb' i (m + n) := by
  apply BitVec.eq_of_getLsbD_eq
  intro j hj
  simp only [BitVec.getLsbD_append, BitVec.getLsbD_extractLsb', hj, decide_true, Bool.true_and]
  split
  · simp [*]
  · rw [show i + n + (j - n) = i + j by omega]
    simp only [show j - n < m by omega, decide_true, Bool.true_and]

/-- The two parts of an eighteen-bit field, joined. -/
theorem split_hi18 (x : BitVec 18) : x.extractLsb' 8 10 ++ x.extractLsb' 0 8 = x :=
  (extract_join x 0 10 8).trans (extract_all x)

/-! ### Parts of a word that are filled in last -/

/-- A form-F word has no literal. -/
def Raw.Canonical (r : Raw) : Prop := r.long = true ∨ r.lit = 0

section Parts
variable (r : Raw)

@[simp] theorem Raw.withB_op (b : Src) : (r.withB b).op = r.op := by cases b <;> rfl
@[simp] theorem Raw.withB_mod (b : Src) : (r.withB b).mod = r.mod := by cases b <;> rfl
@[simp] theorem Raw.withB_dst (b : Src) : (r.withB b).dst = r.dst := by cases b <;> rfl
@[simp] theorem Raw.withB_srca (b : Src) : (r.withB b).srca = r.srca := by cases b <;> rfl
@[simp] theorem Raw.withB_x8 (b : Src) : (r.withB b).x8 = r.x8 := by cases b <;> rfl
@[simp] theorem Raw.withB_guard (b : Src) : (r.withB b).guard = r.guard := by cases b <;> rfl

@[simp] theorem Raw.withA_op (a : Src) : (r.withA a).op = r.op := by cases a <;> rfl
@[simp] theorem Raw.withA_mod (a : Src) : (r.withA a).mod = r.mod := by cases a <;> rfl
@[simp] theorem Raw.withA_dst (a : Src) : (r.withA a).dst = r.dst := by cases a <;> rfl
@[simp] theorem Raw.withA_guard (a : Src) : (r.withA a).guard = r.guard := by cases a <;> rfl

@[simp] theorem Raw.withSVal_op (v : SVal) : (r.withSVal v).op = r.op := by cases v <;> rfl
@[simp] theorem Raw.withSVal_mod (v : SVal) : (r.withSVal v).mod = r.mod := by cases v <;> rfl
@[simp] theorem Raw.withSVal_dst (v : SVal) : (r.withSVal v).dst = r.dst := by cases v <;> rfl
@[simp] theorem Raw.withSVal_x8 (v : SVal) : (r.withSVal v).x8 = r.x8 := by cases v <;> rfl

@[simp] theorem Raw.withOff_op (o : Option Word) : (r.withOff o).op = r.op := by cases o <;> rfl
@[simp] theorem Raw.withOff_mod (o : Option Word) : (r.withOff o).mod = r.mod := by cases o <;> rfl
@[simp] theorem Raw.withOff_dst (o : Option Word) : (r.withOff o).dst = r.dst := by cases o <;> rfl
@[simp] theorem Raw.withOff_srca (o : Option Word) : (r.withOff o).srca = r.srca := by cases o <;> rfl
@[simp] theorem Raw.withOff_srcb (o : Option Word) : (r.withOff o).srcb = r.srcb := by cases o <;> rfl
@[simp] theorem Raw.withOff_x8 (o : Option Word) : (r.withOff o).x8 = r.x8 := by cases o <;> rfl
@[simp] theorem Raw.withOff_guard (o : Option Word) : (r.withOff o).guard = r.guard := by cases o <;> rfl

@[simp] theorem Raw.withTarget_op (t : Off) : (r.withTarget t).op = r.op := by cases t <;> rfl
@[simp] theorem Raw.withTarget_dst (t : Off) : (r.withTarget t).dst = r.dst := by cases t <;> rfl
@[simp] theorem Raw.withTarget_srca (t : Off) : (r.withTarget t).srca = r.srca := by cases t <;> rfl
@[simp] theorem Raw.withTarget_guard (t : Off) : (r.withTarget t).guard = r.guard := by cases t <;> rfl

@[simp] theorem Raw.withNotify_op (n : Notify) : (r.withNotify n).op = r.op := by cases n <;> simp [Raw.withNotify]
@[simp] theorem Raw.withNotify_dst (n : Notify) : (r.withNotify n).dst = r.dst := by cases n <;> simp [Raw.withNotify]
@[simp] theorem Raw.withNotify_srca (n : Notify) : (r.withNotify n).srca = r.srca := by cases n <;> simp [Raw.withNotify]
@[simp] theorem Raw.withNotify_srcb (n : Notify) : (r.withNotify n).srcb = r.srcb := by cases n <;> simp [Raw.withNotify]
@[simp] theorem Raw.withNotify_guard (n : Notify) : (r.withNotify n).guard = r.guard := by cases n <;> simp [Raw.withNotify]

variable {r} (h : r.long = false)
include h

@[simp] theorem Raw.b_withB (b : Src) : (r.withB b).b = b := by
  cases b with
  | lit w => rfl
  | v k | s j | left k | right k =>
    simp only [Raw.withB, Raw.b, h, Bool.false_eq_true, if_false]
    exact Src.dec_enc _ rfl

@[simp] theorem Raw.a1_withA (a : Src) : (r.withA a).a1 = a := by
  cases a with
  | lit w => rfl
  | v k | s j | left k | right k =>
    simp only [Raw.withA, Raw.a1, h, Bool.false_eq_true, if_false]
    exact Src.dec_enc _ rfl

@[simp] theorem Raw.sval_withSVal (v : SVal) : (r.withSVal v).sval = v := by
  cases v with
  | lit w => rfl
  | s j => simp only [Raw.withSVal, Raw.sval, h, Bool.false_eq_true, if_false, decS_encS]

@[simp] theorem Raw.off_withOff (o : Option Word) : (r.withOff o).off = o := by
  cases o with
  | none => simp only [Raw.withOff, Raw.off, h, Bool.false_eq_true, if_false]
  | some w => rfl

@[simp] theorem Raw.target_withTarget (t : Off) : (r.withTarget t).target = t := by
  cases t with
  | short o => simp only [Raw.withTarget, Raw.withHi18, Raw.target, h, Raw.hi18, split_hi18, Bool.false_eq_true, if_false]
  | long w => rfl

@[simp] theorem Raw.notify_withNotify (hm : r.mod = 0) (n : Notify) : (r.withNotify n).notify = n := by
  cases n with
  | none => simp [Raw.withNotify, Raw.notify, hm]
  | word j off =>
    have read : (0#2 ++ j).extractLsb' 0 6 = j := extract_low 0#2 j
    simp only [Raw.withNotify, Raw.notify, Raw.withOff_mod, Raw.withOff_x8, read]
    exact congrArg (Notify.word j) (Raw.off_withOff (r := { r with mod := 1, x8 := 0#2 ++ j }) h off)
  | ring k c =>
    have low : (c ++ k).extractLsb' 0 5 = k := extract_low c k
    have high : (c ++ k).extractLsb' 5 3 = c := extract_high c k
    simp only [Raw.withNotify, Raw.notify, low, high]
    rfl

variable (hl : r.lit = 0)
omit h
include hl

theorem Raw.withB_canonical (b : Src) : (r.withB b).Canonical := by
  cases b with
  | lit w => exact .inl rfl
  | _ => exact .inr hl

theorem Raw.withA_canonical (a : Src) : (r.withA a).Canonical := by
  cases a with
  | lit w => exact .inl rfl
  | _ => exact .inr hl

theorem Raw.withSVal_canonical (v : SVal) : (r.withSVal v).Canonical := by
  cases v with
  | lit w => exact .inl rfl
  | s j => exact .inr hl

theorem Raw.withOff_canonical (o : Option Word) : (r.withOff o).Canonical := by
  cases o with
  | none => exact .inr hl
  | some w => exact .inl rfl

theorem Raw.withTarget_canonical (t : Off) : (r.withTarget t).Canonical := by
  cases t with
  | short o => exact .inr hl
  | long w => exact .inl rfl

theorem Raw.withNotify_canonical (n : Notify) : (r.withNotify n).Canonical := by
  cases n with
  | none | ring k c => exact .inr hl
  | word j off => exact Raw.withOff_canonical (r := { r with mod := 1, x8 := 0#2 ++ j }) hl off

end Parts

/-! ### Parts of joined fields -/

theorem extract_mid {a b c : Nat} (x : BitVec a) (y : BitVec b) (z : BitVec c) : (x ++ y ++ z).extractLsb' c b = y := by
  rw [extract_append_high _ _ _ _ (le_refl c), Nat.sub_self]
  exact extract_low x y

theorem getLsbD_top {n : Nat} (p : Bool) (y : BitVec n) : (BitVec.ofBool p ++ y).getLsbD n = p := by
  rw [BitVec.getLsbD_append, if_neg (lt_irrefl n), Nat.sub_self]
  cases p <;> rfl

theorem getLsbD_bottom {n : Nat} (x : BitVec n) (p : Bool) : (x ++ BitVec.ofBool p).getLsbD 0 = p := by
  rw [BitVec.getLsbD_append, if_pos Nat.zero_lt_one]
  cases p <;> rfl

theorem getLsbD_mid {a n : Nat} (x : BitVec a) (p : Bool) (y : BitVec n) : (x ++ BitVec.ofBool p ++ y).getLsbD n = p := by
  rw [BitVec.getLsbD_append, if_neg (lt_irrefl n), Nat.sub_self, getLsbD_bottom]

@[simp] theorem pairCode_beq (p : Bool) : (pairCode p == 2#3) = p := by cases p <;> rfl

@[simp] theorem RedTy.ofCode_code (t : RedTy) : RedTy.ofCode t.code t.isF32 = t := by cases t <;> rfl

@[simp] theorem ChamberOp.dec_enc (o : ChamberOp) : ChamberOp.dec o.enc = o := by
  have low : (o.chamber ++ o.ring).extractLsb' 0 5 = o.ring := extract_low o.chamber o.ring
  have high : (o.chamber ++ o.ring).extractLsb' 5 3 = o.chamber := extract_high o.chamber o.ring
  simp only [ChamberOp.enc, ChamberOp.dec, low, high]

theorem guardOk_of_scalarForm {d : Dst} {g : Guard} {srcs : List Src} {allowed : Bool}
    (h : scalarFormOk d g srcs allowed = true) : guardOk g = true := by
  unfold scalarFormOk at h
  split at h
  · simp only [Bool.and_eq_true, beq_iff_eq] at h
    rw [h.1.2]
    rfl
  · exact h

theorem isLit_of_isVector {a : Src} (h : a.isVector = true) : a.isLit = false := by
  cases a with
  | lit w => cases h
  | _ => rfl

theorem isLit_of_bitSrcOk {a : Src} (h : bitSrcOk a = true) : a.isLit = false := by
  cases a with
  | lit w => cases h
  | _ => rfl

/-! ### The shapes -/

/-- A word of an opcode in whose fields an instruction's operands are read. -/
structure Carries {α : Type} (r : Raw) (op : BitVec 8) (read : Raw → α) (o : α) : Prop where
  op_eq : r.op = op
  read_eq : read r = o
  canonical : r.Canonical

theorem IntBin.raw_carries {o : IntBin} {types : IntTy → Bool} {wideB : Bool} (h : o.wf types wideB = true) (op : BitVec 8) :
    Carries (o.raw op) op Raw.intBin o := by
  simp only [IntBin.wf, Bool.and_eq_true, Bool.not_eq_true'] at h
  obtain ⟨⟨⟨-, ha⟩, hs⟩, -⟩ := h
  have hg := guardOk_of_scalarForm hs
  exact ⟨by simp [IntBin.raw, Raw.of], by simp [IntBin.raw, Raw.of, Raw.intBin, IntTy.ofCode_code, Dst.dec_enc,
    decGuard_encGuard _ hg, Src.dec_enc _ ha], Raw.withB_canonical rfl _⟩

theorem IntUn.raw_carries {o : IntUn} {types : IntTy → Bool} {wideD : Bool} (h : o.wf types wideD = true) (op : BitVec 8) :
    Carries (o.raw op) op Raw.intUn o := by
  simp only [IntUn.wf, Bool.and_eq_true] at h
  obtain ⟨⟨-, hs⟩, -⟩ := h
  have hg := guardOk_of_scalarForm hs
  exact ⟨by simp [IntUn.raw, Raw.of], by simp [IntUn.raw, Raw.of, Raw.intUn, IntTy.ofCode_code, Dst.dec_enc,
    decGuard_encGuard _ hg], Raw.withA_canonical rfl _⟩

theorem IntTri.raw_carries {o : IntTri} {types : IntTy → Bool} {wide : Wide} (h : o.wf types wide = true) (op : BitVec 8) :
    Carries (o.raw op) op Raw.intTri o := by
  simp only [IntTri.wf, Bool.and_eq_true, Bool.not_eq_true'] at h
  obtain ⟨⟨⟨⟨⟨⟨-, ha⟩, hg⟩, -⟩, -⟩, -⟩, -⟩ := h
  exact ⟨by simp [IntTri.raw, Raw.of], by simp [IntTri.raw, Raw.of, Raw.intTri, IntTy.ofCode_code, decVD_encVD,
    decGuard_encGuard _ hg, Src.dec_enc _ ha], Raw.withB_canonical rfl _⟩

theorem CmpOp.raw_carries {o : CmpOp} (h : o.wf = true) (op : BitVec 8) : Carries (o.raw op) op Raw.cmp o := by
  simp only [CmpOp.wf, Bool.and_eq_true, Bool.not_eq_true'] at h
  obtain ⟨⟨⟨-, ha⟩, hs⟩, -⟩ := h
  have hg := guardOk_of_scalarForm hs
  have bit : (o.cond.code ++ o.bit).extractLsb' 0 5 = o.bit := extract_low o.cond.code o.bit
  have cond : (o.cond.code ++ o.bit).extractLsb' 5 3 = o.cond.code := extract_high o.cond.code o.bit
  exact ⟨by simp [CmpOp.raw, Raw.of], by simp [CmpOp.raw, Raw.of, Raw.cmp, IntTy.ofCode_code, Dst.dec_enc,
    decGuard_encGuard _ hg, Src.dec_enc _ ha, bit, cond, Cond.ofCode_code], Raw.withB_canonical rfl _⟩

theorem FCmpOp.raw_carries {o : FCmpOp} (h : o.wf = true) (op : BitVec 8) : Carries (o.raw op) op Raw.fcmp o := by
  simp only [FCmpOp.wf, Bool.and_eq_true, Bool.not_eq_true'] at h
  obtain ⟨⟨ha, hs⟩, -⟩ := h
  have hg := guardOk_of_scalarForm hs
  have bit : (o.cond.code ++ o.bit).extractLsb' 0 5 = o.bit := extract_low o.cond.code o.bit
  have cond : (o.cond.code ++ o.bit).extractLsb' 5 3 = o.cond.code := extract_high o.cond.code o.bit
  exact ⟨by simp [FCmpOp.raw, Raw.of], by simp [FCmpOp.raw, Raw.of, Raw.fcmp, FTy.ofCode_code, Dst.dec_enc,
    decGuard_encGuard _ hg, Src.dec_enc _ ha, bit, cond, Cond.ofCode_code], Raw.withB_canonical rfl _⟩

theorem SelOp.raw_carries {o : SelOp} (h : o.wf = true) (op : BitVec 8) : Carries (o.raw op) op Raw.sel o := by
  simp only [SelOp.wf, Bool.and_eq_true, Bool.not_eq_true'] at h
  obtain ⟨ha, -⟩ := h
  have reg : (o.reg ++ o.bit ++ BitVec.ofBool o.inv).extractLsb' 6 8 = o.reg :=
    (extract_append_high _ _ _ _ (by decide)).trans (extract_high o.reg o.bit)
  have bit : (o.reg ++ o.bit ++ BitVec.ofBool o.inv).extractLsb' 1 5 = o.bit := extract_mid o.reg o.bit _
  have inv : (o.reg ++ o.bit ++ BitVec.ofBool o.inv).getLsbD 0 = o.inv := getLsbD_bottom ..
  exact ⟨by simp [SelOp.raw, Raw.of], by simp only [SelOp.raw, Raw.of, Raw.sel, Raw.withB_mod, Raw.withB_guard, Raw.withB_dst,
    Raw.withB_srca, Raw.b_withB, SelTy.ofCode_code, decVD_encVD, Src.dec_enc _ ha, reg, bit, inv], Raw.withB_canonical rfl _⟩

theorem BitOp.raw_carries {o : BitOp} (h : o.wf = true) (op : BitVec 8) : Carries (o.raw op) op Raw.bitop o := by
  obtain ⟨kind, guard, dst, bit⟩ := o
  have low (k : BitKind) : (k.code ++ bit).extractLsb' 0 5 = bit := extract_low k.code bit
  have high (k : BitKind) : (k.code ++ bit).extractLsb' 5 3 = k.code := extract_high k.code bit
  have source (c : BitVec 5) : (0#5 ++ c).extractLsb' 0 5 = c := extract_low 0#5 c
  cases kind with
  | set | clr | flip =>
    have hg := guardOk_of_scalarForm h
    refine ⟨rfl, ?_, .inr rfl⟩
    simp only [BitOp.raw, Raw.bitop, low, high, decGuard_encGuard _ hg, Dst.dec_enc]
    rfl
  | and s c | or s c =>
    simp only [BitOp.wf, Bool.and_eq_true] at h
    have hg := guardOk_of_scalarForm h.2
    have hs : Src.dec s.enc = s := Src.dec_enc s (isLit_of_bitSrcOk h.1)
    refine ⟨rfl, ?_, .inr rfl⟩
    simp only [BitOp.raw, Raw.bitop, low, high, decGuard_encGuard _ hg, Dst.dec_enc, hs, source]
    rfl

theorem ShflOp.raw_carries {o : ShflOp} (h : o.wf = true) (op : BitVec 8) : Carries (o.raw op) op Raw.shfl o := by
  simp only [ShflOp.wf, Bool.and_eq_true, Bool.not_eq_true'] at h
  obtain ⟨⟨hg, ha⟩, -⟩ := h
  have mode : (0#6 ++ o.mode.code).extractLsb' 0 2 = o.mode.code := extract_low 0#6 o.mode.code
  exact ⟨by simp [ShflOp.raw, Raw.of], by simp [ShflOp.raw, Raw.of, Raw.shfl, decVD_encVD, decGuard_encGuard _ hg,
    Src.dec_enc _ ha, mode, ShflMode.ofCode_code], Raw.withB_canonical rfl _⟩

theorem VoteOp.raw_carries {o : VoteOp} (h : o.wf = true) (op : BitVec 8) : Carries (o.raw op) op Raw.vote o := by
  simp only [VoteOp.wf, Bool.and_eq_true] at h
  obtain ⟨hg, ha⟩ := h
  have kind : (0#1 ++ o.bit ++ o.kind.code).extractLsb' 0 2 = o.kind.code := extract_low (0#1 ++ o.bit) o.kind.code
  have bit : (0#1 ++ o.bit ++ o.kind.code).extractLsb' 2 5 = o.bit := extract_mid 0#1 o.bit o.kind.code
  exact ⟨rfl, by simp only [VoteOp.raw, Raw.of, Raw.vote, kind, bit, VoteKind.ofCode_code, decGuard_encGuard _ hg, decSD_encSD,
    Src.dec_enc _ (isLit_of_isVector ha)], .inr rfl⟩

theorem WredOp.raw_carries {o : WredOp} (h : o.wf = true) (op : BitVec 8) : Carries (o.raw op) op Raw.wred o := by
  simp only [WredOp.wf, Bool.and_eq_true] at h
  obtain ⟨⟨⟨hg, ha⟩, -⟩, -⟩ := h
  have kind : (0#4 ++ BitVec.ofBool o.ty.isF32 ++ o.op.code).extractLsb' 0 3 = o.op.code := extract_low _ o.op.code
  have float : (0#4 ++ BitVec.ofBool o.ty.isF32 ++ o.op.code).getLsbD 3 = o.ty.isF32 := getLsbD_mid ..
  exact ⟨rfl, by simp only [WredOp.raw, Raw.of, Raw.wred, kind, float, RedKind.ofCode_code, RedTy.ofCode_code,
    decGuard_encGuard _ hg, decSD_encSD, Src.dec_enc _ (isLit_of_isVector ha)], .inr rfl⟩

theorem WscanOp.raw_carries {o : WscanOp} (h : o.wf = true) (op : BitVec 8) : Carries (o.raw op) op Raw.wscan o := by
  simp only [WscanOp.wf, Bool.and_eq_true] at h
  obtain ⟨⟨⟨hg, ha⟩, -⟩, -⟩ := h
  let x8 : BitVec 8 := 0#3 ++ BitVec.ofBool o.excl ++ BitVec.ofBool o.ty.isF32 ++ o.op.code
  have kind : x8.extractLsb' 0 3 = o.op.code := extract_low _ o.op.code
  have float : x8.getLsbD 3 = o.ty.isF32 := getLsbD_mid ..
  have excl : x8.getLsbD 4 = o.excl :=
    (BitVec.getLsbD_append ..).trans ((if_neg (by decide)).trans (getLsbD_mid 0#3 o.excl (BitVec.ofBool o.ty.isF32)))
  exact ⟨rfl, by simp only [WscanOp.raw, Raw.of, Raw.wscan, x8, kind, float, excl, RedKind.ofCode_code, RedTy.ofCode_code,
    decGuard_encGuard _ hg, decVD_encVD, Src.dec_enc _ (isLit_of_isVector ha)], .inr rfl⟩

theorem MatchOp.raw_carries {o : MatchOp} (h : o.wf = true) (op : BitVec 8) : Carries (o.raw op) op Raw.matchOp o := by
  simp only [MatchOp.wf, Bool.and_eq_true] at h
  obtain ⟨⟨hg, ha⟩, -⟩ := h
  exact ⟨rfl, by simp [MatchOp.raw, Raw.of, Raw.matchOp, decGuard_encGuard _ hg, decVD_encVD,
    Src.dec_enc _ (isLit_of_isVector ha)], .inr rfl⟩

theorem CvtOp.raw_carries {o : CvtOp} (h : o.wf = true) (op : BitVec 8) : Carries (o.raw op) op Raw.cvt o := by
  obtain ⟨dfmt, sfmt, mode, guard, dst, a⟩ := o
  simp only [CvtOp.wf, Bool.and_eq_true, Bool.not_eq_true'] at h
  obtain ⟨⟨⟨⟨⟨hg, -⟩, ha⟩, -⟩, -⟩, -⟩ := h
  have dest : (sfmt.code ++ dfmt.code).extractLsb' 0 4 = dfmt.code := extract_low sfmt.code dfmt.code
  have source : (sfmt.code ++ dfmt.code).extractLsb' 4 4 = sfmt.code := extract_high sfmt.code dfmt.code
  cases mode with
  | rnd m =>
    have rnd : (0#1 ++ m.code).extractLsb' 0 2 = m.code := extract_low 0#1 m.code
    have directed : (0#1 ++ m.code).getLsbD 2 = false := getLsbD_top false m.code
    refine ⟨rfl, ?_, .inr rfl⟩
    simp only [CvtOp.raw, Raw.cvt, Raw.of, dest, source, rnd, directed, Rnd.ofCode_code, Fmt.ofCode_code, decGuard_encGuard _ hg,
      decVD_encVD, Src.dec_enc _ ha]
    rfl
  | sr b =>
    refine ⟨by simp [CvtOp.raw, Raw.of], ?_, Raw.withB_canonical rfl _⟩
    simp [CvtOp.raw, Raw.cvt, Raw.of, dest, source, Fmt.ofCode_code, decGuard_encGuard _ hg, decVD_encVD, Src.dec_enc _ ha]

theorem PackOp.raw_carries {o : PackOp} (h : o.wf = true) (op : BitVec 8) : Carries (o.raw op) op Raw.pack o := by
  simp only [PackOp.wf, Bool.and_eq_true, Bool.not_eq_true'] at h
  obtain ⟨⟨⟨hg, -⟩, ha⟩, hb⟩ := h
  have fmt : (0#2 ++ o.pos ++ o.fmt.code).extractLsb' 0 4 = o.fmt.code := extract_low (0#2 ++ o.pos) o.fmt.code
  have pos : (0#2 ++ o.pos ++ o.fmt.code).extractLsb' 4 2 = o.pos := extract_mid 0#2 o.pos o.fmt.code
  have rnd : (0#1 ++ o.rnd.code).extractLsb' 0 2 = o.rnd.code := extract_low 0#1 o.rnd.code
  exact ⟨rfl, by simp only [PackOp.raw, Raw.of, Raw.pack, fmt, pos, rnd, Fmt.ofCode_code, Rnd.ofCode_code,
    decGuard_encGuard _ hg, decVD_encVD, Src.dec_enc _ ha, Src.dec_enc _ hb], .inr rfl⟩

theorem UnpkOp.raw_carries {o : UnpkOp} (h : o.wf = true) (op : BitVec 8) : Carries (o.raw op) op Raw.unpk o := by
  simp only [UnpkOp.wf, Bool.and_eq_true, Bool.not_eq_true'] at h
  obtain ⟨⟨⟨hg, -⟩, ha⟩, -⟩ := h
  have fmt : (0#2 ++ o.pos ++ o.fmt.code).extractLsb' 0 4 = o.fmt.code := extract_low (0#2 ++ o.pos) o.fmt.code
  have pos : (0#2 ++ o.pos ++ o.fmt.code).extractLsb' 4 2 = o.pos := extract_mid 0#2 o.pos o.fmt.code
  exact ⟨rfl, by simp only [UnpkOp.raw, Raw.of, Raw.unpk, fmt, pos, Fmt.ofCode_code, decGuard_encGuard _ hg, decVD_encVD,
    Src.dec_enc _ ha], .inr rfl⟩

theorem FrndOp.raw_carries {o : FrndOp} (h : o.wf = true) (op : BitVec 8) : Carries (o.raw op) op Raw.frnd o := by
  simp only [FrndOp.wf, Bool.and_eq_true, Bool.not_eq_true'] at h
  obtain ⟨hg, ha⟩ := h
  have rnd : (0#6 ++ o.rnd.code).extractLsb' 0 2 = o.rnd.code := extract_low 0#6 o.rnd.code
  exact ⟨rfl, by simp only [FrndOp.raw, Raw.of, Raw.frnd, rnd, FTy.ofCode_code, Rnd.ofCode_code, decGuard_encGuard _ hg,
    decVD_encVD, Src.dec_enc _ ha], .inr rfl⟩

theorem MovsrOp.raw_carries (o : MovsrOp) (op : BitVec 8) : Carries (o.raw op) op Raw.movsr o := by
  have idx : (0#5 ++ o.idx).extractLsb' 0 5 = o.idx := extract_low 0#5 o.idx
  exact ⟨rfl, by simp only [MovsrOp.raw, Raw.of, Raw.movsr, idx, Dst.dec_enc], .inr rfl⟩

theorem SetsrOp.raw_carries (o : SetsrOp) (op : BitVec 8) : Carries (o.raw op) op Raw.setsr o := by
  have idx : (0#4 ++ o.idx).extractLsb' 0 5 = o.idx := extract_low 0#4 o.idx
  exact ⟨by simp [SetsrOp.raw, Raw.of], by simp only [SetsrOp.raw, Raw.of, Raw.setsr, Raw.withSVal_dst, Raw.sval_withSVal, idx],
    Raw.withSVal_canonical rfl _⟩

theorem FBinR.raw_carries {o : FBinR} (h : o.wf = true) (op : BitVec 8) : Carries (o.raw op) op Raw.fbinR o := by
  simp only [FBinR.wf, Bool.and_eq_true, Bool.not_eq_true'] at h
  obtain ⟨hg, ha⟩ := h
  have rnd : (0#6 ++ o.rnd.code).extractLsb' 0 2 = o.rnd.code := extract_low 0#6 o.rnd.code
  exact ⟨by simp [FBinR.raw, Raw.of], by simp [FBinR.raw, Raw.of, Raw.fbinR, rnd, FTy.ofCode_code, Rnd.ofCode_code,
    decGuard_encGuard _ hg, decVD_encVD, Src.dec_enc _ ha], Raw.withB_canonical rfl _⟩

theorem FBin.raw_carries {o : FBin} (h : o.wf = true) (op : BitVec 8) : Carries (o.raw op) op Raw.fbin o := by
  simp only [FBin.wf, Bool.and_eq_true, Bool.not_eq_true'] at h
  obtain ⟨hg, ha⟩ := h
  exact ⟨by simp [FBin.raw, Raw.of], by simp [FBin.raw, Raw.of, Raw.fbin, FTy.ofCode_code, decGuard_encGuard _ hg, decVD_encVD,
    Src.dec_enc _ ha], Raw.withB_canonical rfl _⟩

theorem FTri.raw_carries {o : FTri} {dot : Bool} (h : o.wf dot = true) (op : BitVec 8) : Carries (o.raw op) op Raw.ftri o := by
  simp only [FTri.wf, Bool.and_eq_true, Bool.not_eq_true'] at h
  obtain ⟨⟨hg, ha⟩, -⟩ := h
  exact ⟨by simp [FTri.raw, Raw.of], by simp [FTri.raw, Raw.of, Raw.ftri, FTy.ofCode_code, decGuard_encGuard _ hg, decVD_encVD,
    Src.dec_enc _ ha], Raw.withB_canonical rfl _⟩

theorem FUn.raw_carries {o : FUn} (h : o.wf = true) (op : BitVec 8) : Carries (o.raw op) op Raw.fun_ o := by
  simp only [FUn.wf, Bool.and_eq_true, Bool.not_eq_true'] at h
  obtain ⟨hg, ha⟩ := h
  exact ⟨rfl, by simp [FUn.raw, Raw.of, Raw.fun_, FTy.ofCode_code, decGuard_encGuard _ hg, decVD_encVD, Src.dec_enc _ ha],
    .inr rfl⟩

theorem BraOp.raw_carries {o : BraOp} (h : guardOk o.guard = true) (op : BitVec 8) : Carries (o.raw op) op Raw.bra o :=
  ⟨by simp [BraOp.raw, Raw.of], by simp [BraOp.raw, Raw.of, Raw.bra, decGuard_encGuard _ h], Raw.withTarget_canonical rfl _⟩

theorem BrcOp.raw_carries {o : BrcOp} (h : o.wf = true) (op : BitVec 8) : Carries (o.raw op) op Raw.brc o := by
  simp only [BrcOp.wf, Bool.and_eq_true] at h
  exact ⟨rfl, by simp only [BrcOp.raw, Raw.of, Raw.brc, Raw.withHi18, Raw.hi18, split_hi18, decGuard_encGuard _ h.1], .inl rfl⟩

theorem LinkOp.rawCall_carries (o : LinkOp) : Carries o.rawCall 0x73 (fun r => ⟨decSD r.dst, r.target⟩) o :=
  ⟨by simp [LinkOp.rawCall, Raw.of], by simp [LinkOp.rawCall, Raw.of, decSD_encSD], Raw.withTarget_canonical rfl _⟩

theorem LinkOp.rawLoop_carries (o : LinkOp) : Carries o.rawLoop 0x76 (fun r => ⟨decS r.srca, r.target⟩) o :=
  ⟨by simp [LinkOp.rawLoop, Raw.of], by simp [LinkOp.rawLoop, Raw.of, decS_encS], Raw.withTarget_canonical rfl _⟩

theorem Raw.addr_withAddr {r : Raw} (h : r.long = false) (a : GAddr) (low : BitVec 5) : (r.withAddr a low).addr = a := by
  obtain ⟨base, idx, scale, off⟩ := a
  let x8 : BitVec 8 := BitVec.ofBool idx.isSome ++ scale.code ++ low
  have indexed : x8.getLsbD 7 = idx.isSome :=
    (BitVec.getLsbD_append ..).trans ((if_neg (by decide)).trans (getLsbD_top idx.isSome scale.code))
  have scaled : x8.extractLsb' 5 2 = scale.code := extract_mid (BitVec.ofBool idx.isSome) scale.code low
  simp only [Raw.withAddr, Raw.addr, Raw.withOff_srca, Raw.withOff_srcb, Raw.withOff_x8, x8, indexed, scaled, Base.dec_enc,
    Scale.ofCode_code, Raw.off_withOff, h]
  cases idx with
  | none => rfl
  | some d => simp only [Option.isSome_some, if_true, Dst.dec10_enc10]

theorem MemOp.raw_carries {o : MemOp} (hg : guardOk o.guard = true) (op : BitVec 8) : Carries (o.raw op) op Raw.mem o := by
  let x8 : BitVec 8 := BitVec.ofBool o.addr.idx.isSome ++ o.addr.scale.code ++ (o.scope.code ++ o.pol.code)
  have pol : x8.extractLsb' 0 2 = o.pol.code :=
    (extract_append_low _ (o.scope.code ++ o.pol.code) 0 2 (by decide)).trans (extract_low o.scope.code o.pol.code)
  have scope : x8.extractLsb' 2 3 = o.scope.code :=
    (extract_append_low _ (o.scope.code ++ o.pol.code) 2 3 (by decide)).trans (extract_high o.scope.code o.pol.code)
  have width : (BitVec.ofBool o.ord ++ o.width.code).extractLsb' 0 2 = o.width.code := extract_low _ o.width.code
  have ord : (BitVec.ofBool o.ord ++ o.width.code).getLsbD 2 = o.ord := getLsbD_top ..
  refine ⟨by simp [MemOp.raw, Raw.withAddr, Raw.of], ?_, Raw.withOff_canonical rfl _⟩
  simp only [MemOp.raw, Raw.mem, Raw.of, Raw.addr_withAddr]
  simp only [Raw.withAddr, Raw.withOff_x8, Raw.withOff_mod, Raw.withOff_guard, Raw.withOff_dst, x8, pol, scope, width, ord,
    Policy.ofCode_code, Scope.ofCode_code, Width.ofCode_code, decGuard_encGuard _ hg, Dst.dec_enc]

theorem eq_of_enc10_eq_zero {d : Dst} (h : d.enc10 = 0#10) : d = .v 0 := by
  rw [← Dst.dec10_enc10 d, h]
  rfl

theorem StoreOp.raw_carries {o : StoreOp} {load : Bool} (h : o.wf load = true) (op : BitVec 8) :
    Carries (o.raw op) op Raw.storeOp o := by
  obtain ⟨width, guard, base, added, off, data⟩ := o
  simp only [StoreOp.wf, Bool.and_eq_true] at h
  obtain ⟨⟨⟨hg, -⟩, -⟩, hx⟩ := h
  have size : (0#1 ++ width.code).extractLsb' 0 2 = width.code := extract_low 0#1 width.code
  refine ⟨by simp [StoreOp.raw, Raw.of], ?_, Raw.withOff_canonical rfl _⟩
  simp only [StoreOp.raw, Raw.storeOp, Raw.of, Raw.withOff_mod, Raw.withOff_guard, Raw.withOff_srca, Raw.withOff_srcb,
    Raw.withOff_dst, Raw.off_withOff, size, Width.ofCode_code, decGuard_encGuard _ hg, decS_encS, Dst.dec_enc]
  cases off with
  | none =>
    cases added with
    | none => cases hx
    | some d => simp [Raw.withOff, Dst.dec10_enc10]
  | some w =>
    cases added with
    | none => rfl
    | some d =>
      have there : ¬ d.enc10 = 0#10 := fun e => by simp [eq_of_enc10_eq_zero e] at hx
      simp [Raw.withOff, there, Dst.dec10_enc10]

theorem AtomOp.raw_carries {o : AtomOp} (h : o.wf = true) (op : BitVec 8) : Carries (o.raw op) op Raw.atom o := by
  simp only [AtomOp.wf, Bool.and_eq_true, Bool.not_eq_true'] at h
  obtain ⟨⟨⟨hg, -⟩, hb⟩, -⟩ := h
  have kind : (o.scope.code ++ o.kind.code).extractLsb' 0 5 = o.kind.code := extract_low o.scope.code o.kind.code
  have scope : (o.scope.code ++ o.kind.code).extractLsb' 5 3 = o.scope.code := extract_high o.scope.code o.kind.code
  have ord : (0#1 ++ o.ord.code).extractLsb' 0 2 = o.ord.code := extract_low 0#1 o.ord.code
  refine ⟨by simp [AtomOp.raw, Raw.of], ?_, Raw.withOff_canonical rfl _⟩
  simp only [AtomOp.raw, Raw.atom, Raw.of, Raw.withOff_mod, Raw.withOff_guard, Raw.withOff_srca, Raw.withOff_srcb,
    Raw.withOff_x8, Raw.withOff_dst, Raw.off_withOff, kind, scope, ord, AtomKind.ofCode_code, Scope.ofCode_code,
    Order.ofCode_code, decGuard_encGuard _ hg, Base.dec_enc, Src.dec_enc _ hb, decVD_encVD]

theorem RedOp.raw_carries {o : RedOp} (h : o.wf = true) (op : BitVec 8) : Carries (o.raw op) op Raw.red o := by
  simp only [RedOp.wf, Bool.and_eq_true, Bool.not_eq_true'] at h
  obtain ⟨⟨⟨⟨⟨hg, -⟩, hb⟩, -⟩, -⟩, -⟩ := h
  have kind : (o.scope.code ++ o.kind.code).extractLsb' 0 5 = o.kind.code := extract_low o.scope.code o.kind.code
  have scope : (o.scope.code ++ o.kind.code).extractLsb' 5 3 = o.scope.code := extract_high o.scope.code o.kind.code
  have ord : (0#1 ++ o.ord.code).extractLsb' 0 2 = o.ord.code := extract_low 0#1 o.ord.code
  refine ⟨by simp [RedOp.raw, Raw.of], ?_, Raw.withOff_canonical rfl _⟩
  simp only [RedOp.raw, Raw.red, Raw.of, Raw.withOff_mod, Raw.withOff_guard, Raw.withOff_srca, Raw.withOff_srcb,
    Raw.withOff_x8, Raw.off_withOff, kind, scope, ord, AtomKind.ofCode_code, Scope.ofCode_code, Order.ofCode_code,
    decGuard_encGuard _ hg, Base.dec_enc, Src.dec_enc _ hb]

theorem AtomsOp.raw_carries {o : AtomsOp} (h : o.wf = true) (op : BitVec 8) : Carries (o.raw op) op Raw.atoms o := by
  obtain ⟨kind, guard, base, addr, b, dst⟩ := o
  simp only [AtomsOp.wf, Bool.and_eq_true, Bool.not_eq_true'] at h
  obtain ⟨⟨hg, hb⟩, -⟩ := h
  have code : (0#3 ++ kind.code).extractLsb' 0 5 = kind.code := extract_low 0#3 kind.code
  cases addr with
  | plain =>
    refine ⟨rfl, ?_, .inr rfl⟩
    simp only [AtomsOp.raw, Raw.atoms, Raw.of, code, AtomKind.ofCode_code, decGuard_encGuard _ hg, decS_encS, Src.dec_enc _ hb,
      decVD_encVD]
    rfl
  | off w =>
    have plain : (0 : BitVec 3).getLsbD 0 = false := by decide
    refine ⟨rfl, ?_, .inl rfl⟩
    simp only [AtomsOp.raw, Raw.atoms, Raw.of, code, AtomKind.ofCode_code, decGuard_encGuard _ hg, decS_encS, Src.dec_enc _ hb,
      decVD_encVD, plain, if_true, Bool.false_eq_true, if_false]
  | added k w =>
    have low : (k ++ w).extractLsb' 0 24 = w := extract_low k w
    have high : (k ++ w).extractLsb' 24 8 = k := extract_high k w
    refine ⟨rfl, ?_, .inl rfl⟩
    simp only [AtomsOp.raw, Raw.atoms, Raw.of, code, low, high, AtomKind.ofCode_code, decGuard_encGuard _ hg, decS_encS,
      Src.dec_enc _ hb, decVD_encVD]
    rfl

/-- A scope in X8[4:2]. -/
theorem scope_read (sc : Scope) : (0#3 ++ sc.code ++ 0#2).extractLsb' 2 3 = sc.code := extract_mid 0#3 sc.code 0#2

theorem FenceOp.raw_carries (o : FenceOp) (op : BitVec 8) : Carries (o.raw op) op Raw.fence o := by
  have ord : (0#1 ++ o.ord.code).extractLsb' 0 2 = o.ord.code := extract_low 0#1 o.ord.code
  exact ⟨rfl, by simp only [FenceOp.raw, Raw.fence, Raw.of, ord, scope_read, Order.ofCode_code, Scope.ofCode_code], .inr rfl⟩

theorem LineOp.raw_carries {o : LineOp} (h : o.wf = true) (op : BitVec 8) : Carries (o.raw op) op Raw.lineOp o := by
  simp only [LineOp.wf, Bool.and_eq_true] at h
  exact ⟨by simp [LineOp.raw, Raw.of], by simp [LineOp.raw, Raw.lineOp, Raw.of, decGuard_encGuard _ h.1, Base.dec_enc],
    Raw.withOff_canonical rfl _⟩

theorem BarOp.raw_carries (o : BarOp) (op : BitVec 8) : Carries (o.raw op) op Raw.bar o := by
  have kind : (0#1 ++ o.kind.code).extractLsb' 0 2 = o.kind.code := extract_low 0#1 o.kind.code
  have n : (o.level.code ++ o.n).extractLsb' 0 6 = o.n := extract_low o.level.code o.n
  have level : (o.level.code ++ o.n).extractLsb' 6 2 = o.level.code := extract_high o.level.code o.n
  exact ⟨rfl, by simp only [BarOp.raw, Raw.bar, Raw.of, kind, n, level, BarKind.ofCode_code, BarLevel.ofCode_code], .inr rfl⟩

/-- The parts of three six-bit limits, joined. -/
theorem limits_read (a b c : BitVec 6) : (a ++ b ++ c).extractLsb' 12 6 = a ∧ (a ++ b ++ c).extractLsb' 6 6 = b ∧
    (a ++ b ++ c).extractLsb' 0 6 = c :=
  ⟨(extract_append_high _ _ _ _ (by decide)).trans (extract_high a b), extract_mid a b c, extract_low (a ++ b) c⟩

theorem WaitOp.raw_carries (o : WaitOp) (op : BitVec 8) : Carries (o.raw op) op Raw.wait o := by
  let lo : BitVec 18 := o.mx ++ o.nm ++ o.sf
  have dst : (0#1 ++ lo.extractLsb' 10 8).extractLsb' 0 8 = lo.extractLsb' 10 8 := extract_low 0#1 (lo.extractLsb' 10 8)
  have joined : lo.extractLsb' 10 8 ++ lo.extractLsb' 0 10 = lo := (extract_join lo 0 8 10).trans (extract_all lo)
  obtain ⟨ld, st, cp⟩ := limits_read o.ld o.st o.cp
  obtain ⟨mx, nm, sf⟩ := limits_read o.mx o.nm o.sf
  refine ⟨rfl, ?_, .inr rfl⟩
  simp only [WaitOp.raw, Raw.wait, Raw.of, Raw.withHi18, Raw.hi18, split_hi18, lo, dst, joined, ld, st, cp, mx, nm, sf]

theorem WaitwOp.raw_carries (o : WaitwOp) (op : BitVec 8) : Carries (o.raw op) op Raw.waitw o := by
  obtain ⟨acq, signed, cond, base, val⟩ := o
  have acquires : (BitVec.ofBool acq ++ 0#2).getLsbD 2 = acq := getLsbD_top ..
  have sign : (0#4 ++ BitVec.ofBool signed ++ cond.code).getLsbD 3 = signed := getLsbD_mid ..
  have code : (0#4 ++ BitVec.ofBool signed ++ cond.code).extractLsb' 0 3 = cond.code := extract_low _ cond.code
  cases val with
  | s j =>
    refine ⟨rfl, ?_, .inr rfl⟩
    simp only [WaitwOp.raw, Raw.waitw, Raw.of, acquires, sign, code, Cond.ofCode_code, decS_encS]
    rfl
  | lit w off =>
    refine ⟨rfl, ?_, .inl rfl⟩
    simp only [WaitwOp.raw, Raw.waitw, Raw.of, acquires, sign, code, Cond.ofCode_code, decS_encS]
    rfl

theorem RarvOp.raw_carries (o : RarvOp) (op : BitVec 8) : Carries (o.raw op) op Raw.rarv o :=
  ⟨rfl, by simp only [RarvOp.raw, Raw.rarv, Raw.of, ChamberOp.dec_enc], .inr rfl⟩

theorem RwtOp.raw_carries (o : RwtOp) (op : BitVec 8) : Carries (o.raw op) op Raw.rwt o := by
  have full : (0#2 ++ BitVec.ofBool o.full).getLsbD 0 = o.full := getLsbD_bottom ..
  refine ⟨by simp [RwtOp.raw, Raw.of], ?_, Raw.withSVal_canonical rfl _⟩
  simp only [RwtOp.raw, Raw.rwt, Raw.of, Raw.withSVal_x8, Raw.withSVal_mod, Raw.sval_withSVal, ChamberOp.dec_enc, full]

theorem WakeOp.raw_carries (o : WakeOp) (op : BitVec 8) : Carries (o.raw op) op Raw.wake o :=
  ⟨by simp [WakeOp.raw, Raw.of], by simp [WakeOp.raw, Raw.wake, Raw.of, decS_encS], Raw.withOff_canonical rfl _⟩

/-- A field of four bits at the bottom of X8. -/
theorem nibble_read (k : BitVec 4) : (0#4 ++ k).extractLsb' 0 4 = k := extract_low 0#4 k

theorem MmaOp.raw_carries {o : MmaOp} (hg : guardOk o.guard = true) (op : BitVec 8) : Carries (o.raw op) op Raw.mma o :=
  ⟨rfl, by simp only [MmaOp.raw, Raw.mma, Raw.of, MmaTy.ofCode_code, nibble_read, decGuard_encGuard _ hg, decS_encS], .inr rfl⟩

theorem MmaoOp.raw_carries {o : MmaoOp} (h : o.wf = true) (op : BitVec 8) : Carries (o.raw op) op Raw.mmao o := by
  simp only [MmaoOp.wf, Bool.and_eq_true] at h
  exact ⟨rfl, by simp only [MmaoOp.raw, Raw.mmao, Raw.of, MmaTy.ofCode_code, nibble_read, decGuard_encGuard _ h.1.1, decS_encS,
    decSD_encSD], .inr rfl⟩

theorem AccOp.raw_carries {o : AccOp} (hg : guardOk o.guard = true) (op : BitVec 8) : Carries (o.raw op) op Raw.accOp o :=
  ⟨rfl, by simp only [AccOp.raw, Raw.accOp, Raw.of, nibble_read, decGuard_encGuard _ hg], .inr rfl⟩

theorem AccMemOp.raw_carries {o : AccMemOp} (hg : guardOk o.guard = true) (op : BitVec 8) :
    Carries (o.raw op) op Raw.accMem o :=
  ⟨rfl, by simp only [AccMemOp.raw, Raw.accMem, Raw.of, nibble_read, decGuard_encGuard _ hg, decS_encS], .inr rfl⟩

theorem TdrnOp.raw_carries {o : TdrnOp} (h : o.wf = true) (op : BitVec 8) : Carries (o.raw op) op Raw.tdrn o := by
  obtain ⟨fmt, acc, guard, dst, scales⟩ := o
  simp only [TdrnOp.wf, Bool.and_eq_true, beq_iff_eq] at h
  obtain ⟨hg, hs⟩ := h
  refine ⟨rfl, ?_, .inr rfl⟩
  simp only [TdrnOp.raw, Raw.tdrn, Raw.of, DrainFmt.ofCode_code, nibble_read, decGuard_encGuard _ hg, decS_encS, ← hs]
  cases scales with
  | none => rfl
  | some j => simp only [Option.isSome_some, if_true, decS_encS]

theorem AccVecOp.rawSrc_carries {o : AccVecOp} (h : o.wfSrc = true) (op : BitVec 8) :
    Carries (o.rawSrc op) op Raw.accSrc o := by
  simp only [AccVecOp.wfSrc, Bool.and_eq_true] at h
  exact ⟨rfl, by simp only [AccVecOp.rawSrc, Raw.accSrc, Raw.of, nibble_read, decGuard_encGuard _ h.1,
    Src.dec_enc _ (isLit_of_isVector h.2)], .inr rfl⟩

theorem AccVecOp.rawDst_carries {o : AccVecOp} (h : o.wfDst = true) (op : BitVec 8) :
    Carries (o.rawDst op) op Raw.accDst o := by
  obtain ⟨acc, guard, reg⟩ := o
  simp only [AccVecOp.wfDst, Bool.and_eq_true] at h
  obtain ⟨hg, hv⟩ := h
  cases reg with
  | v k => exact ⟨rfl, by simp only [AccVecOp.rawDst, Raw.accDst, Raw.of, nibble_read, decGuard_encGuard _ hg, decVD_encVD],
      .inr rfl⟩
  | s j | left k | right k | lit w => cases hv

theorem CopyOp.raw_carries {o : CopyOp} {lanes : Bool} (h : o.wf lanes = true) (op : BitVec 8) :
    Carries (o.raw op) op Raw.copy o := by
  simp only [CopyOp.wf, Bool.and_eq_true] at h
  exact ⟨by simp [CopyOp.raw, Raw.of], by simp [CopyOp.raw, Raw.copy, Raw.of, decGuard_encGuard _ h.1.2, decS_encS, decSD_encSD,
    Base.dec_enc], Raw.withNotify_canonical rfl _⟩

theorem CollOp.raw_carries (o : CollOp) (op : BitVec 8) : Carries (o.raw op) op Raw.coll o :=
  ⟨by simp [CollOp.raw, Raw.of], by simp [CollOp.raw, Raw.coll, Raw.of, decS_encS], Raw.withNotify_canonical rfl _⟩

theorem SregOp.raw_carries (o : SregOp) (op : BitVec 8) : Carries (o.raw op) op Raw.sreg o :=
  ⟨rfl, by simp only [SregOp.raw, Raw.sreg, Raw.of, nibble_read, decS_encS], .inr rfl⟩

theorem SldOp.raw_carries (o : SldOp) (op : BitVec 8) : Carries (o.raw op) op Raw.sld o :=
  ⟨rfl, by simp only [SldOp.raw, Raw.sld, Raw.of, nibble_read, decS_encS, decVD_encVD], .inr rfl⟩

theorem SstOp.raw_carries (o : SstOp) (op : BitVec 8) : Carries (o.raw op) op Raw.sst o :=
  ⟨rfl, by simp only [SstOp.raw, Raw.sst, Raw.of, nibble_read, decS_encS, decV_encV], .inr rfl⟩

theorem ShrdOp.raw_carries (o : ShrdOp) (op : BitVec 8) : Carries (o.raw op) op Raw.shrd o := by
  obtain ⟨h, mode, addr, dst, p⟩ := o
  let x8 (code : BitVec 2) : BitVec 8 := BitVec.ofBool addr ++ code ++ 0#1 ++ h
  have handle (code : BitVec 2) : (x8 code).extractLsb' 0 4 = h := extract_low _ h
  have which (code : BitVec 2) : (x8 code).extractLsb' 5 2 = code :=
    (extract_append_high (BitVec.ofBool addr ++ code ++ 0#1) h 5 2 (by decide)).trans (extract_mid (BitVec.ofBool addr) code 0#1)
  have top (code : BitVec 2) : (x8 code).getLsbD 7 = addr :=
    (BitVec.getLsbD_append ..).trans ((if_neg (by decide)).trans ((BitVec.getLsbD_append ..).trans
      ((if_neg (by decide)).trans (getLsbD_top addr code))))
  cases mode with
  | max =>
    refine ⟨rfl, ?_, .inr rfl⟩
    simp only [ShrdOp.raw, Raw.shrd, Raw.of, x8, handle, which, top, decS_encS, decSD_encSD]
    rfl
  | smp u | thr u =>
    refine ⟨rfl, ?_, .inr rfl⟩
    simp only [ShrdOp.raw, Raw.shrd, Raw.of, x8, handle, which, top, decS_encS, decSD_encSD]
    rfl

theorem SldaOp.raw_carries (o : SldaOp) (op : BitVec 8) : Carries (o.raw op) op Raw.slda o :=
  ⟨rfl, by simp only [SldaOp.raw, Raw.slda, Raw.of, nibble_read, decS_encS, decSD_encSD, decV_encV], .inr rfl⟩

theorem SstaOp.raw_carries (o : SstaOp) (op : BitVec 8) : Carries (o.raw op) op Raw.ssta o :=
  ⟨rfl, by simp only [SstaOp.raw, Raw.ssta, Raw.of, nibble_read, decS_encS, decVD_encVD], .inr rfl⟩

theorem ScmtOp.raw_carries (o : ScmtOp) (op : BitVec 8) : Carries (o.raw op) op Raw.scmt o := by
  have handle : (0#3 ++ BitVec.ofBool o.rev ++ o.h).extractLsb' 0 4 = o.h := extract_low _ o.h
  have rev : (0#3 ++ BitVec.ofBool o.rev ++ o.h).getLsbD 4 = o.rev := getLsbD_mid ..
  exact ⟨rfl, by simp only [ScmtOp.raw, Raw.scmt, Raw.of, handle, rev], .inr rfl⟩

theorem SnrmOp.raw_carries (o : SnrmOp) (op : BitVec 8) : Carries (o.raw op) op Raw.snrm o := by
  have smax : (0#3 ++ BitVec.ofBool o.smax ++ 0#4).getLsbD 4 = o.smax := getLsbD_mid ..
  exact ⟨rfl, by simp only [SnrmOp.raw, Raw.snrm, Raw.of, smax, decS_encS], .inr rfl⟩

theorem CkgenOp.raw_carries {o : CkgenOp} (hg : guardOk o.guard = true) (ha : o.a.isLit = false) (op : BitVec 8) :
    Carries (o.raw op) op Raw.ckgen o :=
  ⟨rfl, by simp only [CkgenOp.raw, Raw.ckgen, Raw.of, decGuard_encGuard _ hg, decVD_encVD, Src.dec_enc _ ha], .inr rfl⟩

theorem CktstOp.raw_carries {o : CktstOp} (hg : guardOk o.guard = true) (ha : o.a.isLit = false) (hb : o.b.isLit = false)
    (op : BitVec 8) : Carries (o.raw op) op Raw.cktst o :=
  ⟨rfl, by simp only [CktstOp.raw, Raw.cktst, Raw.of, decGuard_encGuard _ hg, decVD_encVD, Src.dec_enc _ ha, Src.dec_enc _ hb],
    .inr rfl⟩

theorem LnchOp.raw_carries (o : LnchOp) (op : BitVec 8) : Carries (o.raw op) op Raw.lnch o := by
  obtain ⟨idx, record, q⟩ := o
  cases q with
  | s j => exact ⟨rfl, by simp [LnchOp.raw, Raw.lnch, Raw.of, decS_encS, decSD_encSD], .inr rfl⟩
  | lit w => exact ⟨rfl, by simp [LnchOp.raw, Raw.lnch, Raw.of, decS_encS, decSD_encSD], .inl rfl⟩

theorem TlbiKind.raw_carries (k : TlbiKind) (op : BitVec 8) : Carries (k.raw op) op Raw.tlbi k := by
  cases k with
  | page a => exact ⟨rfl, congrArg TlbiKind.page (decS_encS a), .inr rfl⟩
  | ctx c => exact ⟨rfl, congrArg TlbiKind.ctx (decS_encS c), .inr rfl⟩
  | all => exact ⟨rfl, rfl, .inr rfl⟩

theorem withSVal_carries (op : BitVec 8) (v : SVal) : Carries ((Raw.of op).withSVal v) op Raw.sval v :=
  ⟨Raw.withSVal_op .., Raw.sval_withSVal rfl v, Raw.withSVal_canonical rfl v⟩

theorem rawS_carries (op : BitVec 8) (j : SReg) : Carries (rawS op j) op (fun r => decS r.srca) j :=
  ⟨rfl, decS_encS j, .inr rfl⟩

theorem rawSD_carries (op : BitVec 8) (j : SReg) : Carries (rawSD op j) op (fun r => decSD r.dst) j :=
  ⟨rfl, decSD_encSD j, .inr rfl⟩

/-! ### Instructions of forms F and L -/

/-- The fields name the instruction whose operands they carry: the opcode map is evaluated at the opcode. -/
theorem Carries.names {α : Type} {r q : Raw} {op : BitVec 8} {read : Raw → α} {o : α} {mk : α → Instr} (h : Carries r op read o)
    (hr : some r = some q)
    (hm : ∀ r : Raw, r.op = op → r.read = some (mk (read r)) := by intro r e; rw [Raw.read, e]; rfl) :
    q.read = some (mk o) ∧ q.Canonical := by
  cases hr
  exact ⟨by rw [hm r h.op_eq, h.read_eq], h.canonical⟩

/-- The word of a well-formed instruction names that instruction. -/
theorem read_of_toRaw {i : Instr} {r : Raw} (hw : i.wf = true) (hr : i.toRaw = some r) : r.read = some i ∧ r.Canonical := by
  cases i with
  | add o | sub o | adds o | subs o | mul o | mulh o | div o | rem o | min o | max o | and o | or o | xor o | andn o | shl o
  | shr o | sar o | rotl o => exact (IntBin.raw_carries hw _).names hr
  | mad o | madw o | funs o | bfx o | bfi o | lea o => exact (IntTri.raw_carries hw _).names hr
  | abs o | neg o | not o | popc o | clz o | ctz o | brev o | mov o => exact (IntUn.raw_carries hw _).names hr
  | cmp o => exact (CmpOp.raw_carries hw _).names hr
  | fcmp o => exact (FCmpOp.raw_carries hw _).names hr
  | sel o => exact (SelOp.raw_carries hw _).names hr
  | bitop o => exact (BitOp.raw_carries hw _).names hr
  | shfl o => exact (ShflOp.raw_carries hw _).names hr
  | vote o => exact (VoteOp.raw_carries hw _).names hr
  | wred o => exact (WredOp.raw_carries hw _).names hr
  | wscan o => exact (WscanOp.raw_carries hw _).names hr
  | matchLanes o => exact (MatchOp.raw_carries hw _).names hr
  | cvt o => exact (CvtOp.raw_carries hw _).names hr
  | pack o => exact (PackOp.raw_carries hw _).names hr
  | unpk o => exact (UnpkOp.raw_carries hw _).names hr
  | frnd o => exact (FrndOp.raw_carries hw _).names hr
  | movsr o => exact (MovsrOp.raw_carries o _).names hr
  | setsr o => exact (SetsrOp.raw_carries o _).names hr
  | fadd o | fsub o | fmul o | fdiv o | fscl o => exact (FBinR.raw_carries hw _).names hr
  | ffma o | fdot2 o => exact (FTri.raw_carries hw _).names hr
  | fmin o | fmax o | fcps o => exact (FBin.raw_carries hw _).names hr
  | fabs o | fneg o | fclass o | fxtr o | fsat o | exp2 o | log2 o | rcp o | rsq o | sqrt o | sinp o | cosp o | tanh o | sigm o
  | erf o | exp o | loge o | gelu o | silu o => exact (FUn.raw_carries hw _).names hr
  | bra o => exact (BraOp.raw_carries hw _).names hr
  | brc o => exact (BrcOp.raw_carries hw _).names hr
  | call o => exact o.rawCall_carries.names hr
  | loop o => exact o.rawLoop_carries.names hr
  | ret j | jmpi j | nbcp j | nbzr j | nbopt j => exact (rawS_carries _ j).names hr
  | cpq j | sigrd j => exact (rawSD_carries _ j).names hr
  | sleep v | tflag v | trap v | prgs v | bkpt v => exact (withSVal_carries _ v).names hr
  | join | yield | nop | drnt | rsync | nbfn | halt =>
    cases hr
    exact ⟨rfl, .inr rfl⟩
  | exit g =>
    cases hr
    exact ⟨congrArg (some ∘ Instr.exit) (decGuard_encGuard g hw), .inr rfl⟩
  | redf sc =>
    cases hr
    exact ⟨congrArg (some ∘ Instr.redf) (by rw [scope_read, Scope.ofCode_code]), .inr rfl⟩
  | nbsa a j =>
    cases hr
    exact ⟨congrArg₂ (fun a j => some (Instr.nbsa a j)) (getLsbD_bottom 0#2 a) (decS_encS j), .inr rfl⟩
  | rett b =>
    cases hr
    exact ⟨congrArg (some ∘ Instr.rett) (getLsbD_bottom 0#2 b), .inr rfl⟩
  | sigchk v =>
    cases hr
    exact ⟨rfl, .inl rfl⟩
  | ld o =>
    simp only [Instr.wf, MemOp.wfLoad, MemOp.wf, Bool.and_eq_true] at hw
    obtain ⟨⟨⟨hg, -⟩, -⟩, -⟩ := hw
    exact (MemOp.raw_carries hg _).names hr
  | st o =>
    simp only [Instr.wf, MemOp.wf, Bool.and_eq_true] at hw
    obtain ⟨⟨hg, -⟩, -⟩ := hw
    exact (MemOp.raw_carries hg _).names hr
  | stnt o =>
    simp only [Instr.wf, MemOp.wfStnt, MemOp.wf, Bool.and_eq_true] at hw
    obtain ⟨⟨⟨⟨hg, -⟩, -⟩, -⟩, -⟩ := hw
    exact (MemOp.raw_carries hg _).names hr
  | ldck o =>
    simp only [Instr.wf, MemOp.wfLdck, Bool.and_eq_true] at hw
    obtain ⟨⟨⟨⟨hg, -⟩, -⟩, -⟩, -⟩ := hw
    exact (MemOp.raw_carries hg _).names hr
  | stck o =>
    simp only [Instr.wf, MemOp.wfStck, Bool.and_eq_true] at hw
    obtain ⟨⟨⟨⟨hg, -⟩, -⟩, -⟩, -⟩ := hw
    exact (MemOp.raw_carries hg _).names hr
  | pref o =>
    simp only [Instr.wf, MemOp.wfPref, Bool.and_eq_true] at hw
    obtain ⟨⟨⟨hg, -⟩, -⟩, -⟩ := hw
    exact (MemOp.raw_carries hg _).names hr
  | lds o | sts o => exact (StoreOp.raw_carries hw _).names hr
  | atom o => exact (AtomOp.raw_carries hw _).names hr
  | red o => exact (RedOp.raw_carries hw _).names hr
  | atoms o => exact (AtomsOp.raw_carries hw _).names hr
  | fence o => exact (FenceOp.raw_carries o _).names hr
  | invl o | wbl o => exact (LineOp.raw_carries hw _).names hr
  | bar o => exact (BarOp.raw_carries o _).names hr
  | wait o => exact (WaitOp.raw_carries o _).names hr
  | waitw o => exact (WaitwOp.raw_carries o _).names hr
  | rarv o => exact (RarvOp.raw_carries o _).names hr
  | rwt o => exact (RwtOp.raw_carries o _).names hr
  | wake o => exact (WakeOp.raw_carries o _).names hr
  | mma o => exact (MmaOp.raw_carries hw _).names hr
  | mmao o => exact (MmaoOp.raw_carries hw _).names hr
  | acz o => exact (AccOp.raw_carries hw _).names hr
  | acld o | acst o => exact (AccMemOp.raw_carries hw _).names hr
  | tdrn o => exact (TdrnOp.raw_carries hw _).names hr
  | acsc o | acex o => exact (AccVecOp.rawSrc_carries hw _).names hr
  | acmx o => exact (AccVecOp.rawDst_carries hw _).names hr
  | cpt o | cpg o | cps o => exact (CopyOp.raw_carries hw _).names hr
  | card o | cagt o | cata o | cbct o => exact (CollOp.raw_carries o _).names hr
  | sreg o => exact (SregOp.raw_carries o _).names hr
  | sld o => exact (SldOp.raw_carries o _).names hr
  | sst o => exact (SstOp.raw_carries o _).names hr
  | shrd o => exact (ShrdOp.raw_carries o _).names hr
  | slda o => exact (SldaOp.raw_carries o _).names hr
  | ssta o => exact (SstaOp.raw_carries o _).names hr
  | scmt o => exact (ScmtOp.raw_carries o _).names hr
  | snrm o => exact (SnrmOp.raw_carries o _).names hr
  | ckgen o =>
    simp only [Instr.wf, Bool.and_eq_true, Bool.not_eq_true'] at hw
    obtain ⟨hg, ha⟩ := hw
    exact (CkgenOp.raw_carries hg ha _).names hr
  | cktst o =>
    simp only [Instr.wf, Bool.and_eq_true, Bool.not_eq_true'] at hw
    obtain ⟨⟨hg, ha⟩, hb⟩ := hw
    exact (CktstOp.raw_carries hg ha hb _).names hr
  | lnch o => exact (LnchOp.raw_carries o _).names hr
  | tlbi k => exact (k.raw_carries _).names hr
  | _ => cases hr

/-! ### Pairs -/

theorem pairOf_of_toHalf {i : Instr} {hop : BitVec 6} {o : HalfOp} (h : i.toHalf = some (hop, o)) : pairOf hop o = some i := by
  unfold Instr.toHalf at h
  split at h
  all_goals cases h
  all_goals rfl

theorem toHalf_of_pairOf {i : Instr} {hop : BitVec 6} {o : HalfOp} (h : pairOf hop o = some i) :
    i.toRaw = none ∧ i.toHalf = some (hop, o) := by
  unfold pairOf at h
  split at h
  case h_31 => cases h
  all_goals
    rename_i e
    cases h
    exact ⟨rfl, congrArg (fun k => some (k, o)) (BitVec.eq_of_toNat_eq e.symm)⟩

/-- The first parcel of a pair. -/
def pairParcel (hop : BitVec 6) (o : HalfOp) : Word := 1#2 ++ hop ++ o.d ++ o.a ++ o.b

theorem encode_of_toRaw {i : Instr} {r : Raw} (h : i.toRaw = some r) : encode i = r.parcels := by rw [encode, h]

theorem encode_of_toHalf {i : Instr} {hop : BitVec 6} {o : HalfOp} (hr : i.toRaw = none) (hh : i.toHalf = some (hop, o)) :
    encode i = [pairParcel hop o, o.second] := by
  rw [encode, hr, hh]
  rfl

/-- The fields of the first parcel of a pair are the form and the half. -/
theorem pairParcel_read (hop : BitVec 6) (o : HalfOp) :
    (pairParcel hop o).extractLsb' 30 2 = 1#2 ∧ Half.ofWord (pairParcel hop o) = o.half hop := by
  obtain ⟨d, a, b, second⟩ := o
  have form : (1#2 ++ hop ++ d ++ a ++ b).extractLsb' 30 2 = 1#2 := by
    rw [extract_append_high _ _ _ _ (by decide), extract_append_high _ _ _ _ (by decide), extract_append_high _ _ _ _ (by decide)]
    exact extract_high 1#2 hop
  have hop_ : (1#2 ++ hop ++ d ++ a ++ b).extractLsb' 24 6 = hop := by
    rw [extract_append_high _ _ _ _ (by decide), extract_append_high _ _ _ _ (by decide)]
    exact extract_mid 1#2 hop d
  have d_ : (1#2 ++ hop ++ d ++ a ++ b).extractLsb' 16 8 = d := by
    rw [extract_append_high _ _ _ _ (by decide)]
    exact extract_mid (1#2 ++ hop) d a
  have a_ : (1#2 ++ hop ++ d ++ a ++ b).extractLsb' 8 8 = a := extract_mid (1#2 ++ hop ++ d) a b
  have b_ : (1#2 ++ hop ++ d ++ a ++ b).extractLsb' 0 8 = b := extract_low (1#2 ++ hop ++ d ++ a) b
  exact ⟨form, by simp only [pairParcel, Half.ofWord, HalfOp.half, hop_, d_, a_, b_]⟩

/-- A form-P parcel is made of its fields. -/
theorem pairParcel_ofWord {p0 : Word} (h : p0.extractLsb' 30 2 = 1#2) (second : Word) :
    pairParcel (Half.ofWord p0).hop ⟨(Half.ofWord p0).d, (Half.ofWord p0).a, (Half.ofWord p0).b, second⟩ = p0 := by
  have e1 : p0.extractLsb' 30 2 ++ p0.extractLsb' 24 6 = p0.extractLsb' 24 8 := extract_join p0 24 2 6
  have e2 : p0.extractLsb' 24 8 ++ p0.extractLsb' 16 8 = p0.extractLsb' 16 16 := extract_join p0 16 8 8
  have e3 : p0.extractLsb' 16 16 ++ p0.extractLsb' 8 8 = p0.extractLsb' 8 24 := extract_join p0 8 16 8
  have e4 : p0.extractLsb' 8 24 ++ p0.extractLsb' 0 8 = p0.extractLsb' 0 32 := extract_join p0 0 24 8
  simp only [pairParcel, Half.ofWord, ← h]
  rw [e1, e2, e3, e4, extract_all]

theorem decodeParcels_pair {i : Instr} {hop : BitVec 6} {o : HalfOp} (hh : i.toHalf = some (hop, o)) (rest : List Word) :
    decodeParcels (pairParcel hop o :: o.second :: rest) = .ok i := by
  obtain ⟨form, half⟩ := pairParcel_read hop o
  have named : decodePair (pairParcel hop o) o.second = .ok i := by
    simp only [decodePair, half, HalfOp.half, pairOf_of_toHalf hh]
  simp only [decodeParcels, form]
  exact named

/-! ### Words -/

/-- The fields of two parcels of forms F and L make those parcels. -/
theorem Raw.p0_ofParcels {p0 : Word} {lit : Option Word} (h : p0.extractLsb' 30 2 = if lit.isSome then 2#2 else 0#2)
    (p1 : Word) : (Raw.ofParcels p0 p1 lit).p0 = p0 := by
  have e1 : p0.extractLsb' 30 2 ++ p0.extractLsb' 22 8 = p0.extractLsb' 22 10 := extract_join p0 22 2 8
  have e2 : p0.extractLsb' 22 10 ++ p0.extractLsb' 19 3 = p0.extractLsb' 19 13 := extract_join p0 19 10 3
  have e3 : p0.extractLsb' 19 13 ++ p0.extractLsb' 10 9 = p0.extractLsb' 10 22 := extract_join p0 10 13 9
  have e4 : p0.extractLsb' 10 22 ++ p0.extractLsb' 0 10 = p0.extractLsb' 0 32 := extract_join p0 0 22 10
  have form : (if (Raw.ofParcels p0 p1 lit).long then 2#2 else 0#2) = p0.extractLsb' 30 2 := h.symm
  rw [Raw.p0, form]
  simp only [Raw.ofParcels]
  rw [e1, e2, e3, e4, extract_all]

theorem Raw.p1_ofParcels (p0 p1 : Word) (lit : Option Word) : (Raw.ofParcels p0 p1 lit).p1 = p1 := by
  have e1 : p1.extractLsb' 22 10 ++ p1.extractLsb' 14 8 = p1.extractLsb' 14 18 := extract_join p1 14 10 8
  have e2 : p1.extractLsb' 14 18 ++ p1.extractLsb' 0 14 = p1.extractLsb' 0 32 := extract_join p1 0 18 14
  simp only [Raw.p1, Raw.ofParcels]
  rw [e1, e2, extract_all]

theorem Raw.parcels_ofParcels {p0 : Word} {lit : Option Word} (h : p0.extractLsb' 30 2 = if lit.isSome then 2#2 else 0#2)
    (p1 : Word) : (Raw.ofParcels p0 p1 lit).parcels = p0 :: p1 :: lit.toList := by
  rw [Raw.parcels, p0_ofParcels h, p1_ofParcels]
  cases lit <;> rfl

theorem toRaw_of_decodeRaw {r : Raw} {i : Instr} (h : decodeRaw r = .ok i) : i.toRaw = some r := by
  unfold decodeRaw at h
  split at h
  · cases h
  · split at h
    · rename_i accepted
      cases h
      simp only [Bool.and_eq_true, beq_iff_eq] at accepted
      exact accepted.2
    · cases h

/-- The decoder reads from the parcels of a well-formed instruction, whatever follows them, that instruction. -/
theorem decodeParcels_encode {i : Instr} (hw : i.wf = true) (hi : encode i ≠ []) (rest : List Word) :
    decodeParcels (encode i ++ rest) = .ok i := by
  cases hr : i.toRaw with
  | some r =>
    obtain ⟨named, canonical⟩ := read_of_toRaw hw hr
    rw [encode_of_toRaw hr]
    exact decodeParcels_raw r i rest canonical named hw hr
  | none =>
    cases hh : i.toHalf with
    | some p =>
      rw [encode_of_toHalf hr hh]
      exact decodeParcels_pair hh rest
    | none => exact absurd (by rw [encode, hr, hh]) hi

/-- What the decoder reads from the fields of some parcels is encoded as those parcels. -/
theorem encode_of_decodeRaw {p0 p1 : Word} {lit : Option Word} {i : Instr}
    (hf : p0.extractLsb' 30 2 = if lit.isSome then 2#2 else 0#2) (h : decodeRaw (Raw.ofParcels p0 p1 lit) = .ok i) :
    encode i = p0 :: p1 :: lit.toList := by
  rw [encode_of_toRaw (toRaw_of_decodeRaw h), Raw.parcels_ofParcels hf]

theorem encode_of_decodePair {p0 p1 : Word} {i : Instr} (hf : p0.extractLsb' 30 2 = 1#2) (h : decodePair p0 p1 = .ok i) :
    encode i = [p0, p1] := by
  unfold decodePair at h
  dsimp only at h
  split at h
  · cases h
  · rename_i named
    cases h
    obtain ⟨raw, half⟩ := toHalf_of_pairOf named
    rw [encode_of_toHalf raw half, pairParcel_ofWord hf]

/-- What the decoder reads from some parcels has its encoding at their head. -/
theorem encode_of_decodeParcels {ps : List Word} {i : Instr} (h : decodeParcels ps = .ok i) :
    encode i ≠ [] ∧ ∃ rest, ps = encode i ++ rest := by
  unfold decodeParcels at h
  split at h
  · cases h
  · split at h
    · rename_i p0 _ p1 rest form
      rw [encode_of_decodeRaw (BitVec.eq_of_toNat_eq form) h]
      exact ⟨nofun, rest, rfl⟩
    · rename_i p0 _ p1 rest form
      rw [encode_of_decodePair (BitVec.eq_of_toNat_eq form) h]
      exact ⟨nofun, rest, rfl⟩
    · rename_i p0 _ p1 lit rest form
      rw [encode_of_decodeRaw (BitVec.eq_of_toNat_eq form) h]
      exact ⟨nofun, rest, rfl⟩
    · cases h
    · cases h

theorem decode_encode {i : Instr} (hw : i.wf = true) (hi : encode i ≠ []) (rest : List Byte) :
    decode ((encode i).flatMap bytesOfWord ++ rest) = .ok i := by
  rw [decode, parcelsOfBytes_words]
  exact decodeParcels_encode hw hi _

end Sys2Proof
end

section
/-! PROOF. O55 and O56: the decoder undoes the encoder, and the words that the spec writes out are encodings. -/

namespace Sys2Proof.Machine

open Sys2Proof

/-- Settles O55: what is encoded is read back shape by shape, and what is decoded was compared with its encoding. -/
theorem decodingUndoesEncoding : Obligations.DecodingUndoesEncoding := by
  unfold Obligations.DecodingUndoesEncoding
  exact ⟨fun _ rest hw hi => decode_encode hw hi rest, fun _ _ h => encode_of_decodeParcels h⟩

/-- Settles O56: the words are the encodings of well-formed instructions. -/
theorem wordsOfTheSpecDecode : Obligations.WordsOfTheSpecDecode := by
  unfold Obligations.WordsOfTheSpecDecode
  intro p hp
  have encoded : encode p.2 = p.1 ∧ p.2.wf = true ∧ encode p.2 ≠ [] := by
    revert p hp
    decide +kernel
  obtain ⟨words, hw, hi⟩ := encoded
  have read := decode_encode hw hi []
  rwa [words, List.append_nil] at read

end Sys2Proof.Machine
end

section
/-! PROOF. O14: each half of a pair gives its lanes the words of R172, and both are read before either is written. -/

namespace Sys2Proof.Machine

open Sys2Proof

/-! ### Words as numbers -/

theorem sval_toNat (a : Word) : sval 32 a.toNat = a.toInt := by
  rw [sval, BitVec.toInt_eq_toNat_cond, Nat.mod_eq_of_lt a.isLt]
  split <;> split <;> omega

theorem ival_toNat (a : Word) : ival true 32 a.toNat = a.toInt := sval_toNat a

theorem ofNat_wrap (i : Int) : BitVec.ofNat 32 (wrap 32 i) = BitVec.ofInt 32 i := by
  apply BitVec.eq_of_toNat_eq
  rw [BitVec.toNat_ofInt, BitVec.toNat_ofNat, wrap]
  omega

/-! ### Elements -/

/-- Operations that agree on elements, whatever their third operand is, agree on values. -/
theorem elemMap3_congr {w : Nat} {f g : Nat → Nat → Nat → Nat × Word}
    (h : ∀ x y z z', x < 2 ^ w → y < 2 ^ w → f x y z = g x y z') (n a b c c' : Nat) :
    elemMap3 w f n a b c = elemMap3 w g n a b c' := by
  induction n generalizing a b c c' with
  | zero => rfl
  | succ n ih =>
    have pos : 0 < 2 ^ w := Nat.two_pow_pos w
    simp only [elemMap3, h _ _ _ (c' % 2 ^ w) (Nat.mod_lt a pos) (Nat.mod_lt b pos), ih _ _ _ (c' / 2 ^ w)]

/-- One element that fills the word. -/
theorem elemMap3_one (f : Nat → Nat → Nat → Nat × Word) (a b c : Nat) :
    elemMap3 32 f 1 a b c =
      ((f (a % 2 ^ 32) (b % 2 ^ 32) (c % 2 ^ 32)).1 % 2 ^ 32, (f (a % 2 ^ 32) (b % 2 ^ 32) (c % 2 ^ 32)).2) := by
  simp [elemMap3]

/-- FMIN and FMAX of two elements. -/
theorem fminmaxElem_eq_lesser {f : Format} {x y : Nat} (max : Bool) (hx : x < 2 ^ f.width) (hy : y < 2 ^ f.width) :
    fminmaxElem f max x y = lesser f x y (if max then y else x) (if max then x else y) := by
  have order : ((f.decode x).cmp (f.decode y) == .lt ||
      ((f.decode x).cmp (f.decode y) == .eq && (f.decode x).neg && !(f.decode y).neg)) = true ↔
      ((f.decode x).cmp (f.decode y) = .lt ∨
        ((f.decode x).cmp (f.decode y) = .eq ∧ (f.decode x).neg = true ∧ (f.decode y).neg = false)) := by
    simp [and_assoc]
  simp only [fminmaxElem, lesser, Nat.mod_eq_of_lt hx, Nat.mod_eq_of_lt hy, raise, ← order]
  split
  · rfl
  split
  · rfl
  split
  · rfl
  generalize ((f.decode x).cmp (f.decode y) == .lt ||
    ((f.decode x).cmp (f.decode y) == .eq && (f.decode x).neg && !(f.decode y).neg)) = less
  cases max <;> cases less <;> rfl

/-! ### The half operations (R172) -/

/-- A value and flags as a result word. -/
def wordOf (r : Nat × Word) : Word × Word := (BitVec.ofNat 32 r.1, r.2)

/-- A value with flags that is the word `w`. -/
theorem wordOf_eq {v : Nat} {w : Word} (fl : Word) (h : v % 2 ^ 32 = w.toNat) : wordOf (v, fl) = (w, fl) :=
  congrArg (·, fl) (BitVec.eq_of_toNat_eq ((BitVec.toNat_ofNat ..).trans h))

theorem wordOf_toNat (a fl : Word) : wordOf (a.toNat, fl) = (a, fl) := wordOf_eq fl (Nat.mod_eq_of_lt a.isLt)

theorem wordOf_wrap (i : Int) (fl : Word) : wordOf (wrap 32 i, fl) = (BitVec.ofInt 32 i, fl) :=
  congrArg (·, fl) (ofNat_wrap i)

section Words
variable (a b : Word) (k : Nat)

theorem addElem_word : wordOf (addElem .i32 a.toNat b.toNat) = (a + b, 0) := wordOf_eq 0 (BitVec.toNat_add ..).symm

theorem subElem_word : wordOf (subElem .i32 a.toNat b.toNat) = (a - b, 0) := by
  refine (wordOf_wrap _ 0).trans (congrArg (·, 0) (BitVec.eq_of_toNat_eq ?_))
  rw [BitVec.toNat_ofInt, BitVec.toNat_sub]
  have := a.isLt
  have := b.isLt
  omega

theorem andElem_word : wordOf (andElem .n32 a.toNat b.toNat) = (a &&& b, 0) := by
  rw [andElem, ← BitVec.toNat_and, wordOf_toNat]

theorem orElem_word : wordOf (orElem .n32 a.toNat b.toNat) = (a ||| b, 0) := by
  rw [orElem, ← BitVec.toNat_or, wordOf_toNat]

theorem xorElem_word : wordOf (xorElem .n32 a.toNat b.toNat) = (a ^^^ b, 0) := by
  rw [xorElem, ← BitVec.toNat_xor, wordOf_toNat]

theorem mulElem_word : wordOf (mulElem .i32 a.toNat b.toNat) = (a * b, 0) := wordOf_eq 0 (BitVec.toNat_mul ..).symm

theorem shlElem_word : wordOf (shlElem .n32 a.toNat (k % 32)) = (a <<< (k % 32), 0) := by
  refine wordOf_eq 0 ?_
  rw [BitVec.toNat_shiftLeft, Nat.shiftLeft_eq]
  exact congrArg (fun n => a.toNat * 2 ^ n % 2 ^ 32) (Nat.mod_mod k 32)

theorem shrElem_word : wordOf (shrElem .n32 a.toNat (k % 32)) = (a >>> (k % 32), 0) := by
  have shift : (shrElem .n32 a.toNat (k % 32)).1 = (a >>> (k % 32)).toNat := by
    rw [BitVec.toNat_ushiftRight, Nat.shiftRight_eq_div_pow]
    exact congrArg (fun n => a.toNat / 2 ^ n) (Nat.mod_mod k 32)
  rw [show shrElem .n32 a.toNat (k % 32) = ((a >>> (k % 32)).toNat, 0) from Prod.ext shift rfl]
  exact wordOf_toNat _ 0

theorem sarElem_word : wordOf (sarElem .i32 a.toNat (k % 32)) = (a.sshiftRight (k % 32), 0) := by
  refine (wordOf_wrap _ 0).trans (congrArg (·, 0) ?_)
  rw [BitVec.sshiftRight, Int.shiftRight_eq_div_pow, ← sval_toNat]
  exact congrArg (fun n => BitVec.ofInt 32 (sval 32 a.toNat / (2 ^ n : Nat))) (Nat.mod_mod k 32)

theorem ltElem_word : ltElem .i32 a.toNat b.toNat = decide (a.toInt < b.toInt) := by
  rw [← ival_toNat a, ← ival_toNat b]
  rfl

theorem minElem_word : wordOf (minElem .i32 a.toNat b.toNat) = (if a.toInt < b.toInt then a else b, 0) := by
  simp only [minElem, ltElem_word, decide_eq_true_eq]
  split <;> exact wordOf_toNat _ 0

theorem maxElem_word : wordOf (maxElem .i32 a.toNat b.toNat) = (if b.toInt < a.toInt then a else b, 0) := by
  simp only [maxElem, ltElem_word, decide_eq_true_eq]
  split <;> exact wordOf_toNat _ 0

theorem notElem_word : wordOf (notElem .n32 a.toNat, 0) = (~~~ a, 0) := by
  refine wordOf_eq 0 ?_
  have := a.isLt
  simp only [notElem, notIn, tyWidth, BitVec.toNat_not]
  omega

theorem absElem_word : wordOf (absElem .i32 a.toNat, 0) = (if a.toInt < 0 then -a else a, 0) := by
  have neg : BitVec.ofInt 32 (-(a.toNat : Int)) = -a := by
    rw [BitVec.ofInt_neg, BitVec.ofInt_natCast, BitVec.ofNat_toNat, BitVec.setWidth_eq]
  have split_ : absElem .i32 a.toNat = if a.toInt < 0 then wrap 32 (-(a.toNat : Int)) else a.toNat := by
    rw [← sval_toNat]
    rfl
  rw [split_]
  split
  · exact (wordOf_wrap _ 0).trans (congrArg (·, 0) neg)
  · exact wordOf_toNat a 0

theorem fabsElem_word : wordOf (halfFp fmtF32 1 (fun f x _ _ => fabsElem f x) a.toNat 0 0) = (a &&& 0x7FFFFFFF, 0) := by
  have whole : halfFp fmtF32 1 (fun f x _ _ => fabsElem f x) a.toNat 0 0 = (a.toNat % 2 ^ 32 % 2 ^ 31 % 2 ^ 32, 0) := elemMap3_one ..
  rw [whole]
  refine wordOf_eq 0 ?_
  have mask : a.toNat &&& 0x7FFFFFFF = a.toNat % 2 ^ 31 := Nat.and_two_pow_sub_one_eq_mod a.toNat 31
  rw [BitVec.toNat_and]
  exact Eq.trans (by omega) mask.symm

theorem fnegElem_word : wordOf (halfFp fmtF32 1 (fun f x _ _ => fnegElem f x) a.toNat 0 0) = (a ^^^ 0x80000000, 0) := by
  have whole : halfFp fmtF32 1 (fun f x _ _ => fnegElem f x) a.toNat 0 0 = ((a.toNat % 2 ^ 32 ^^^ 2 ^ 31) % 2 ^ 32, 0) :=
    elemMap3_one ..
  have low : a.toNat ^^^ 2 ^ 31 < 2 ^ 32 := Nat.xor_lt_two_pow a.isLt (by decide)
  rw [whole, Nat.mod_eq_of_lt a.isLt]
  refine wordOf_eq 0 ?_
  rw [BitVec.toNat_xor, Nat.mod_mod]
  exact Nat.mod_eq_of_lt low

theorem cvtElem_fromInt : wordOf (cvtElem .f32 .i32 .rne none a.toNat) =
    (BitVec.ofNat 32 (fmtF32.round .rne (decide (a.toInt < 0)) a.toInt.natAbs 0 false).1,
      (fmtF32.round .rne (decide (a.toInt < 0)) a.toInt.natAbs 0 false).2) := by
  rw [← ival_toNat a]
  rfl

end Words

/-- A half operation on floating-point elements that two tables name in their own ways. -/
theorem halfFp_word {f : Format} {n : Nat} {g : Format → Nat → Nat → Nat → Nat × Word} {k : Nat → Nat → Nat → Nat × Word}
    (h : ∀ x y z z', x < 2 ^ f.width → y < 2 ^ f.width → g f x y z = k x y z') (a b c d : Nat) :
    wordOf (halfFp f n g a b c) = wordOf (elemMap3 f.width k n a b d) :=
  congrArg wordOf (elemMap3_congr h ..)

/-- The value of a half as the table of R172 has it. -/
theorem wordOf_halfValue {h : Half} (hop : h.hop.toNat < 0x1D) (a b d : Word) :
    wordOf (halfValue h a.toNat b.toNat d.toNat) = halfWord h.hop.toNat h.b a b d := by
  unfold halfValue imm8
  dsimp only
  generalize h.hop.toNat = k at hop ⊢
  interval_cases k
  · exact wordOf_toNat a 0
  · exact wordOf_toNat _ 0
  · exact addElem_word ..
  · exact addElem_word ..
  · exact subElem_word ..
  · exact andElem_word ..
  · exact orElem_word ..
  · exact xorElem_word ..
  · exact shlElem_word ..
  · exact shrElem_word ..
  · exact sarElem_word ..
  · exact minElem_word ..
  · exact maxElem_word ..
  · exact mulElem_word ..
  · exact halfFp_word (fun _ _ _ _ _ _ => rfl) ..
  · exact halfFp_word (fun _ _ _ _ _ _ => rfl) ..
  · exact halfFp_word (fun _ _ _ _ _ _ => rfl) ..
  · rfl
  · exact halfFp_word (fun _ _ _ _ hx hy => fminmaxElem_eq_lesser false hx hy) ..
  · exact halfFp_word (fun _ _ _ _ hx hy => fminmaxElem_eq_lesser true hx hy) ..
  · exact halfFp_word (fun _ _ _ _ _ _ => rfl) ..
  · exact halfFp_word (fun _ _ _ _ _ _ => rfl) ..
  · rfl
  · exact cvtElem_fromInt a
  · rfl
  · exact notElem_word a
  · exact absElem_word a
  · exact fabsElem_word a
  · exact fnegElem_word a

/-- NOP and the reserved half opcodes write no register (R172). -/
theorem writesD_iff : ∀ hop : BitVec 6, (halfUse hop.toNat).any (·.d) = decide (hop.toNat < 0x1D) := by decide

theorem halfWrites_isEmpty (h : Half) : h.writes.isEmpty = !decide (h.hop.toNat < 0x1D) := by
  rw [← writesD_iff, Half.writes]
  cases halfUse h.hop.toNat with
  | none => rfl
  | some u => cases hd : u.d <;> simp [hd]

/-- What a half gives its lanes is what the table of R172 says. -/
theorem halfResults_eq (c : Cx) (h : Half) : c.halfResults h = halfGiven h.hop.toNat h.d h.a h.b c := by
  simp only [Cx.halfResults, halfGiven, halfWrites_isEmpty]
  by_cases hop : h.hop.toNat < 0x1D
  · have word (l : Nat) := wordOf_halfValue hop (c.vec h.a.toNat l) (c.vec h.b.toNat l) (c.vec h.d.toNat l)
    simp only [hop, decide_true, Bool.not_true, Bool.false_eq_true, if_false, if_true, ← word, wordOf, List.map_map,
      List.foldl_map, Function.comp_def]
  · simp only [hop, decide_false, Bool.not_false, if_true, if_false]

/-- A pair writes the results of its halves. -/
theorem pairEff_eq (hop : BitVec 6) (o : HalfOp) (c : Cx) : pairOf hop o c =
    .write ((halfGiven hop.toNat o.d o.a o.b c).1 ++ (c.halfResults (Half.ofWord o.second)).1)
      ((halfGiven hop.toNat o.d o.a o.b c).2 ||| (c.halfResults (Half.ofWord o.second)).2) := by
  rw [pairOf, pairEff, halfResults_eq c (o.half hop)]
  rfl

/-- A pair does what the table of R172 says of its halves. -/
theorem writes_of_pair {i : Instr} {o : HalfOp} (hop : BitVec 6) (he : ∀ s, exec i s = issue i (pairOf hop o) s) :
    Writes i (fun c ws fl =>
      let h2 := Half.ofWord o.second
      let r1 := halfGiven hop.toNat o.d o.a o.b c
      let r2 := halfGiven h2.hop.toNat h2.d h2.a h2.b c
      ws = r1.1 ++ r2.1 ∧ fl = r1.2 ||| r2.2) :=
  writes_of_write _ _ (pairEff_eq hop o) he fun c => by rw [halfResults_eq c (Half.ofWord o.second)]; exact ⟨rfl, rfl⟩

/-- Settles O14: every pair by its first half opcode. -/
theorem pairsDoBothHalvesAtOnce : Obligations.PairsDoBothHalvesAtOnce := by
  unfold Obligations.PairsDoBothHalvesAtOnce
  intro o p hp
  have first : (BitVec.ofNat 6 p.2).toNat = p.2 ∧ ∀ s, exec p.1 s = issue p.1 (pairOf (BitVec.ofNat 6 p.2) o) s := by
    fin_cases hp <;> exact ⟨rfl, fun _ => rfl⟩
  obtain ⟨hop, he⟩ := first
  have written := writes_of_pair _ he
  rwa [hop] at written

end Sys2Proof.Machine
end

section
/-! PROOF. O25: TRAP, BKPT and words that are no instruction take their exceptions; PRGS, HALT and TLBI go on as R303 to R305
say. -/

namespace Sys2Proof.Machine

open Sys2Proof

/-! ### Exceptions -/

/-- The low sixteen bits of a word. -/
theorem and_ffff (v : Word) : v &&& 0xFFFF = BitVec.ofNat 32 (v.toNat % 65536) := by
  apply BitVec.eq_of_toNat_eq
  have mask : v.toNat &&& 0xFFFF = v.toNat % 65536 := Nat.and_two_pow_sub_one_eq_mod v.toNat 16
  rw [BitVec.toNat_and, BitVec.toNat_ofNat]
  exact mask.trans (Nat.mod_eq_of_lt (by omega)).symm

/-- The form of a parcel is its upper two bits. -/
theorem form_beq (p : Word) : (p.extractLsb' 30 2 == 1) = decide (p.toNat / 2 ^ 30 = 1) := by
  have lt := p.isLt
  have upper : (p.extractLsb' 30 2).toNat = p.toNat / 2 ^ 30 := by
    rw [BitVec.extractLsb'_toNat, Nat.shiftRight_eq_div_pow]
    omega
  rw [← upper, Bool.eq_iff_iff, beq_iff_eq, decide_eq_true_eq, BitVec.toNat_eq]
  rfl

/-! ### Records -/

/-- A record that is posted is held at its partition. -/
theorem mem_recs_postRec (s : State) (p type : Nat) (src : RecSrc) (words : List Word) :
    ⟨s.nextId, type, src, words⟩ ∈ (getPartition (postRec s p type src words).2 p).recs := by
  let x : Partition := { getPartition s p with recs := (getPartition s p).recs ++ [⟨s.nextId, type, src, words⟩] }
  have some_ : x ≠ Partition.dflt := fun e => by
    have := congrArg Partition.recs e
    simp [x, Partition.dflt] at this
  have table : getPartition (postRec s p type src words).2 p = x :=
    (tget_tput_of_ne s.partitions p some_ p).trans (if_pos rfl)
  rw [table]
  exact List.mem_append_right _ List.mem_cons_self

section
variable {s : State} {w : Warp} {n : Bool} {x : Slot}

/-- HALT stops the counted warp, and its record names the instruction (R305). -/
theorem halt_stops (h : Issues .halt s w n x) : ∃ t v id r, exec .halt s = .next t ∧ findWarp? t w.uid = some v ∧
    v = { countedWarp w n x .halt with window := [], stop := .halted id } ∧
    r ∈ (getPartition t (partOf s w)).recs ∧ r.id = id ∧ r.type = 3 ∧ r.src = .warp w.uid n ∧
    r.words.getD 6 0 = x.pc ∧ MemoryKept s t := by
  let u := countedWarp w n x .halt
  let f := flushWindow (setWarp s u) u
  let words := warpRecord (setWarp s u) u 0 0 false 0 0 0 x.pc
  have run : exec .halt s = .next (stopWarp (setWarp s u) u 3 true words) :=
    exec_of_stop (hasEffect_of_issue h rfl) rfl
  have uid : u.uid = w.uid := countedWarp_uid ..
  have found : findWarp? f w.uid = some (emptied u) := by
    rw [← uid]
    exact findWarp?_flushWindow (findWarp?_setWarp_self (uid ▸ h.warp))
  have part : partOf (setWarp s u) u = partOf s w := by
    simp only [partOf, gridOf, findTeam?, findGrid?, setWarp_teams, setWarp_grids, u, countedWarp_team]
  have source : RecSrc.warp u.uid (f.cur.elim false (·.2)) = .warp w.uid n := by
    rw [uid, show f.cur = some (w.uid, n) from h.cur]
    rfl
  refine ⟨_, _, s.nextId, ⟨s.nextId, 3, .warp w.uid n, words⟩, run, ?_, rfl, ?_, rfl, rfl, rfl, rfl, rfl, rfl⟩
  · rw [stopWarp, uid]
    exact findWarp?_onWarp_self (f := fun v => { v with stop := .halted s.nextId }) (fun _ => rfl) found
  · have posted := mem_recs_postRec f (partOf s w) 3 (.warp w.uid n) words
    rw [← source, ← part] at posted
    rw [← part]
    exact source ▸ posted

/-- TLBI lists its invalidation behind a release wait, and its slot waits for it (R304). -/
theorem tlbi_begins {k : TlbiKind} (h : Issues (.tlbi k) s w n x) : ∃ t v, exec (.tlbi k) s = .next t ∧
    findWarp? t w.uid = some v ∧ v.slot? n = some { countedSlot w x (.tlbi k) with block := .tlbi s.nextId } ∧
    t.invals = s.invals ++ [{ id := s.nextId, part := partOf s w, kind := (finds s w n x (.tlbi k)).invKind k, walks := [],
                              byHost := false }] ∧
    (∃ o, t.ops = s.ops ++ [o] ∧ o.kind = .tlbi s.nextId ∧ o.warp = w.uid ∧ o.held = true) ∧ MemoryKept s t := by
  let c := finds s w n x (.tlbi k)
  let v := (countedWarp w n x (.tlbi k)).setSlot n (some { countedSlot w x (.tlbi k) with block := .tlbi s.nextId })
  let i : Inval := { id := s.nextId, part := partOf s w, kind := c.invKind k, walks := [], byHost := false }
  let u : State := { setWarp s v with nextId := s.nextId + 2, invals := s.invals ++ [i],
                                      ops := s.ops ++ [c.newOp (s.nextId + 1) (.tlbi s.nextId) 0 0 [] true] }
  have effect : tlbiEff k c = .go u [] := by
    simp only [tlbiEff, c, finds_mine, finds_withSlot]
    rfl
  have run := exec_of_go (hasEffect_of_issue h rfl) effect
  have uid : v.uid = w.uid := by simp [v]
  have found : findWarp? u w.uid = some v := by
    rw [← uid]
    exact findWarp?_setWarp_self (s := s) (uid ▸ h.warp)
  have frame := pushWindow_frame u w.uid []
  have kept : MemoryKept u (pushWindow u w.uid []) := by
    rw [frame]
    exact ⟨rfl, rfl⟩
  exact ⟨_, _, run, findWarp?_pushWindow found [], setSlot_slot .., congrArg State.invals frame,
    ⟨c.newOp (s.nextId + 1) (.tlbi s.nextId) 0 0 [] true, congrArg State.ops frame, rfl, countedWarp_uid .., rfl⟩,
    kept⟩

end

/-- Settles O25, instruction by instruction. -/
theorem systemInstructionsAct : Obligations.SystemInstructionsAct := by
  unfold Obligations.SystemInstructionsAct
  refine ⟨fun s w n x => ⟨fun v h => ?_, fun v h => ?_, fun p rest h => ?_⟩,
    fun s w n x => ⟨fun v m h hm => ?_, halt_stops, fun k h => ?_⟩⟩
  · exact traps_of_trap (hasEffect_of_issue h rfl) rfl
  · exact traps_of_trap (body := bkptEff v) (hasEffect_of_issue h rfl) (congrArg (Eff.trap 0x0C 0) (and_ffff _))
  · have body : illegalEff p (finds s w n x (.illegalInstructionWord ⟨p, rest⟩)) =
        if p.toNat / 2 ^ 30 = 1 then .trap 0x02 0 p else .trap 0x01 1 p := by
      rw [illegalEff, form_beq]
      simp only [decide_eq_true_eq]
    have effect : HasEffect _ s w n x (illegalEff p) := hasEffect_of_issue h rfl
    by_cases upper : p.toNat / 2 ^ 30 = 1
    · rw [if_pos upper] at body ⊢
      exact traps_of_trap effect body
    · rw [if_neg upper] at body ⊢
      exact traps_of_trap effect body
  · have effect : prgsEff v (finds s w n x (.prgs v)) = .go (setWarp (setTeam s { m with
        progress := min ((finds s w n x (.prgs v)).sval v).toNat 256 }) (countedWarp w n x (.prgs v))) [] := by
      have team : findTeam? (finds s w n x (.prgs v)).s (finds s w n x (.prgs v)).w.team = some m := by
        rw [finds_s, finds_w, countedWarp_team]
        exact hm
      rw [prgsEff, team]
      rfl
    exact exec_of_warp (f := id) (hasEffect_of_issue h rfl) effect
  · cases k with
    | page a => exact tlbi_begins h
    | ctx j => exact tlbi_begins h
    | all => exact tlbi_begins h

end Sys2Proof.Machine
end

section
/-! PROOF. O43 fails, for the reason that O30, O31, O34, O36 and O39 fail. It says `Quiet` of a collective over every state, and
so that store words which are in no window stay; over a store whose check table is not sorted a result that leaves the full
window for the banks uncovers word 0. O59 says that no step leaves such a store; the statement lacks the hypothesis. -/

namespace Sys2Proof.Machine

open Sys2Proof

/-! ### The start of a collective -/

section
variable {op : Nat} {o : CollOp} {c c1 c2 : Cx} {ws g d : List Word}

/-- The entry of the descriptor's group in the table of the warp's partition (R358). -/
def Cx.groupEntry (c : Cx) (ws : List Word) : DWord :=
  Machine.groupEntry (getPartition c.pre (partOf c.pre c.preW)) (bits (wordAt ws 0) 24 8)

/-- Address of the entry's own place in its list of devices. -/
def ownPlace (g : List Word) : DWord := dwordAt g 1 + BitVec.ofNat 64 (2 * bits (wordAt g 0) 16 11)

/-- A collective of a descriptor that keeps its rules and of a group whose table names this device at the entry's rank starts. -/
theorem collEff_starts (desc : c.readDesc (c.sca o.desc.toNat) 32 8 = .ok ws) (keeps : collOk op ws = true)
    (src : (dwordAt ws 2).toNat % 4 = 0) (dst : (dwordAt ws 4).toNat % 4 = 0) (silent : o.notify = .none)
    (entry : c.readGlobal [c.groupEntry ws, c.groupEntry ws + 4, c.groupEntry ws + 8] = .ok c1 g)
    (valid : (wordAt g 0).getLsbD 31 = true) (names : c1.readGlobal [wordVa (ownPlace g)] = .ok c2 d)
    (inside : bits (wordAt g 0) 16 11 < bits (wordAt g 0) 0 11)
    (own : bits (wordAt d 0) (8 * ((ownPlace g).toNat % 4)) 16 % 1024 = Config.device.toNat) (notCast : op ≠ collCast) :
    collEff op o c = collStart c2 op o ws (bits (wordAt g 0) 16 11) (bits (wordAt g 0) 0 11) := by
  rw [ownPlace] at names own
  rw [Cx.groupEntry] at entry
  have member : ¬ (decide (bits (wordAt g 0) 0 11 ≤ bits (wordAt g 0) 16 11) ||
      bits (wordAt d 0) (8 * ((dwordAt g 1 + BitVec.ofNat 64 (2 * bits (wordAt g 0) 16 11)).toNat % 4)) 16 % 1024 !=
        Config.device.toNat) = true := by
    rw [own]
    simp
    omega
  simp only [collEff, desc, keeps, src, dst, silent, Cx.notifyAddr, Option.filter_none, entry, valid, names, if_neg member,
    Bool.not_true, Bool.false_eq_true, if_false, bne_self_eq_false]
  rw [if_neg (by simp [notCast])]

/-- The state with a collective that notifies nobody listed, behind its release wait. -/
def collStarted (c : Cx) (op : Nat) (ws : List Word) (rank np : Nat) : State :=
  c.release { c.s with nextId := c.s.nextId + 1, colls := c.s.colls ++ [collNew c op ws rank np .none c.s.nextId] }
    (.copy c.s.nextId)

theorem collStart_silent (silent : o.notify = .none) (c : Cx) (op : Nat) (ws : List Word) (rank np : Nat) :
    collStart c op o ws rank np = .go (collStarted c op ws rank np) [] := by
  rw [collStart, silent]
  rfl

end

/-! ### Words read from memory -/

/-- What the instruction goes on from after a read of memory that finds its words. -/
def Cx.afterRead (c : Cx) (vas : List DWord) : Cx :=
  match c.readGlobal vas with
  | .ok c' _ => c'
  | .eff _ => c

/-- The words that a read of memory finds. -/
def Cx.wordsRead (c : Cx) (vas : List DWord) : List Word :=
  match c.readGlobal vas with
  | .ok _ ws => ws
  | .eff _ => []

/-- A read that finds a word finds them all, and the instruction goes on. -/
theorem Cx.readGlobal_of_wordsRead {c : Cx} {vas : List DWord} (h : c.wordsRead vas ≠ []) :
    c.readGlobal vas = .ok (c.afterRead vas) (c.wordsRead vas) := by
  simp only [wordsRead, afterRead] at h ⊢
  split
  · next found => rw [found]
  · next other => simp [other] at h

/-! ### A group of this device alone -/

/-- Group 0 at address 0 has the one rank 0, and its list at 0x40 names device `d`. -/
def loneGroupTable (d : BitVec 10) : Mem :=
  ⟨[(0, 1), (1, 0), (2, 0), (3, 0x80), (4, 0x40), (5, 0), (6, 0), (7, 0), (8, 0), (9, 0), (10, 0), (11, 0),
    (64, d.extractLsb' 0 8), (65, (d.setWidth 16).extractLsb' 8 8), (66, 0), (67, 0)], []⟩

/-- A descriptor of 32 elements from 0x200000 to 0x280000. -/
def loneDescriptor : List Word := [0, 7, 0x200000, 0, 0x280000, 0, 32, 0]

/-- A warp whose window is full, with the descriptor's address in s2 and a result for s1 the next to leave it. -/
def collectiveWarp : Warp :=
  { programWarp with window := [(sKey 2, 0xDFF80)] :: (List.replicate 6 [] ++ [[(sKey 1, 0)]]) }

/-- The scratchpad holds the descriptor; the check table lists word 1 before word 0. -/
def collectiveStore : Mem :=
  { Mem.empty.setWords (storeKey 0 false 0xDFF80) (loneDescriptor.map good) with syn := [(1, 1), (0, 1)] }

/-- That warp's device, with group 0 of device `d` alone. -/
def collectiveState (d : BitVec 10) : State :=
  { placeProgram State.reset [] with cur := some (4, false), warps := [collectiveWarp], store := collectiveStore,
                                     hbm := loneGroupTable d }

/-- A CARD of the descriptor in s2, without a notification. -/
def loneCard : CollOp := ⟨2, .none⟩

/-- What it finds. -/
def loneCx (d : BitVec 10) : Cx := finds (collectiveState d) collectiveWarp false entrySlot (.card loneCard)

/-- It, after its entry of the group table is read. -/
def entryCx (d : BitVec 10) : Cx := (loneCx d).afterRead [0, 4, 8]

/-- It, after its place in the list is read too. -/
def listCx (d : BitVec 10) : Cx := (entryCx d).afterRead [0x40]

/-- The list names device `d`. -/
def listNames (d : BitVec 10) : Bool :=
  (entryCx d).wordsRead [0x40] != [] && bits (wordAt ((entryCx d).wordsRead [0x40]) 0) 0 16 % 1024 == d.toNat

/-- Whatever the device's number. -/
theorem listNames_all (d : BitVec 10) : listNames d = true := by
  have all : (List.range 1024).all (fun k => listNames (BitVec.ofNat 10 k)) = true := by decide +kernel
  simpa using List.all_eq_true.mp all d.toNat (List.mem_range.mpr d.isLt)

/-- The entry is valid, of rank 0 of 1, with its list at 0x40. -/
theorem entry_words : (loneCx Config.device).wordsRead [0, 4, 8] = [0x80000001, 0x40, 0] := by decide +kernel

theorem entry_read : (loneCx Config.device).readGlobal [0, 4, 8] = .ok (entryCx Config.device) [0x80000001, 0x40, 0] := by
  have read := Cx.readGlobal_of_wordsRead (c := loneCx Config.device) (vas := [0, 4, 8]) (by rw [entry_words]; nofun)
  rwa [entry_words] at read

/-- The device's place in the list is read, and names the device. -/
theorem list_read : ∃ l, (entryCx Config.device).readGlobal [0x40] = .ok (listCx Config.device) l ∧
    bits (wordAt l 0) 0 16 % 1024 = Config.device.toNat := by
  have names := listNames_all Config.device
  simp only [listNames, Bool.and_eq_true, bne_iff_ne, beq_iff_eq] at names
  exact ⟨_, Cx.readGlobal_of_wordsRead names.1, names.2⟩

/-- The descriptor is read from the scratchpad. -/
theorem descriptor_read : (loneCx Config.device).readDesc ((loneCx Config.device).sca 2) 32 8 = .ok loneDescriptor := by
  have read : (match (loneCx Config.device).readDesc ((loneCx Config.device).sca 2) 32 8 with
    | .ok ws => ws
    | .eff _ => []) = loneDescriptor := by decide +kernel
  split at read
  · next found => rw [found, read]
  · contradiction

theorem card_issues : Issues (.card loneCard) (collectiveState Config.device) collectiveWarp false entrySlot :=
  ⟨rfl, rfl, rfl, by decide +kernel, rfl, by decide +kernel, by decide +kernel, by decide +kernel, rfl, by decide +kernel⟩

/-- The device with the collective listed, before the CARD enters the window. -/
def cardStarted : State := collStarted (listCx Config.device) collCard loneDescriptor 0 1

/-- The CARD executes. -/
theorem card_runs : exec (.card loneCard) (collectiveState Config.device) = .next (pushWindow cardStarted 4 []) := by
  obtain ⟨l, read, own⟩ := list_read
  have group : (loneCx Config.device).groupEntry loneDescriptor = 0 := by decide +kernel
  have member : collEff collCard loneCard (loneCx Config.device) =
      collStart (listCx Config.device) collCard loneCard loneDescriptor 0 1 :=
    collEff_starts (c1 := entryCx Config.device) (g := [0x80000001, 0x40, 0]) descriptor_read rfl rfl rfl rfl
      (by rw [group]; exact entry_read) rfl read (by decide) own nofun
  have starts : collEff collCard loneCard (loneCx Config.device) = .go cardStarted [] := by
    rw [member]
    exact collStart_silent (o := loneCard) rfl (listCx Config.device) collCard loneDescriptor 0 1
  exact exec_of_go (hasEffect_of_issue card_issues rfl) starts

/-- It uncovers word 0 of the store. -/
theorem card_uncovers : (pushWindow cardStarted 4 []).store.word 0 ≠ collectiveStore.word 0 := by decide +kernel

/-- Refutes O43: a CARD whose group is this device alone, over an unsorted store. -/
theorem not_collectivesJoinTheirGroups : ¬ Obligations.CollectivesJoinTheirGroups := by
  unfold Obligations.CollectivesJoinTheirGroups
  intro h
  obtain ⟨l, read, own⟩ := list_read
  obtain ⟨-, -, -, act⟩ := h loneCard (collectiveState Config.device) collectiveWarp false entrySlot loneDescriptor _
    List.mem_cons_self card_issues descriptor_read
  obtain ⟨t, k, runs, -, -, -, -, -, -, -, -, -, -, -, -, -, -, -, -, -, -, -, -, -, kept, -⟩ :=
    act _ l .none _ _ rfl rfl rfl nofun entry_read rfl read (by decide) own nofun rfl
  obtain rfl := Host.Outcome.next.inj (card_runs.symm.trans runs)
  have outside : ∀ e ∈ collectiveWarp.window, ∀ p ∈ e,
      0 ≠ regBank (collectiveState Config.device) collectiveWarp + p.1 := by decide +kernel
  exact card_uncovers (kept 0 outside)

end Sys2Proof.Machine
end

section
/-! PROOF. O11: what CVT, PACK and UNPK put into their destinations (11 R245 to R249). -/

namespace Sys2Proof.Machine

open Sys2Proof

/-! ### Replaced elements (R184, R248) -/

/-- An element is a part of the bits below its end. -/
theorem elemAt_congr_mod {w j n u v : Nat} (below : j < n) (same : u % 2 ^ (w * n) = v % 2 ^ (w * n)) :
    elemAt w j u = elemAt w j v := by
  have cut (x : Nat) : elemAt w j x = x % 2 ^ (w * n) % (2 ^ (w * j) * 2 ^ w) / 2 ^ (w * j) := by
    rw [Nat.mod_mod_of_dvd, Nat.mod_mul_right_div_self, elemAt]
    rw [← pow_add, ← Nat.mul_succ]
    exact pow_dvd_pow 2 (Nat.mul_le_mul_left w below)
  rw [cut, cut, same]

/-- The elements of what is left above some of them. -/
theorem elemAt_add (w n j v : Nat) : elemAt w (n + j) v = elemAt w j (v / 2 ^ (w * n)) := by
  rw [elemAt, elemAt, Nat.div_div_eq_div_mul, ← pow_add, Nat.mul_add]

theorem withElem_mod (w k word x : Nat) : withElem w k word x % 2 ^ (w * k) = word % 2 ^ (w * k) := by
  have split_ : withElem w k word x =
      word % 2 ^ (w * k) + 2 ^ (w * k) * (x % 2 ^ w + word / 2 ^ (w * (k + 1)) * 2 ^ w) := by
    rw [withElem, Nat.mul_succ, pow_add]
    ring
  rw [split_, Nat.add_mul_mod_self_left, Nat.mod_mod]

theorem withElem_div (w k word x : Nat) :
    withElem w k word x / 2 ^ (w * k) = x % 2 ^ w + 2 ^ w * (word / 2 ^ (w * (k + 1))) := by
  have pos : 0 < 2 ^ (w * k) := by positivity
  have split_ : withElem w k word x =
      word % 2 ^ (w * k) + 2 ^ (w * k) * (x % 2 ^ w + 2 ^ w * (word / 2 ^ (w * (k + 1)))) := by
    rw [withElem, Nat.mul_succ, pow_add]
    ring
  rw [split_, Nat.add_mul_div_left _ _ pos, Nat.div_eq_of_lt (Nat.mod_lt _ pos), Nat.zero_add]

/-- The new element is there, the others are as they were. -/
theorem elemAt_withElem (w k j word x : Nat) :
    elemAt w j (withElem w k word x) = if j = k then x % 2 ^ w else elemAt w j word := by
  have pos : 0 < 2 ^ w := by positivity
  rcases lt_trichotomy j k with below | rfl | above
  · rw [if_neg below.ne]
    exact elemAt_congr_mod below (withElem_mod ..)
  · rw [if_pos rfl, ← Nat.add_zero j, elemAt_add, Nat.add_zero, withElem_div, elemAt_zero, Nat.add_mul_mod_self_left,
      Nat.mod_mod]
  · obtain ⟨i, rfl⟩ := Nat.exists_eq_add_of_lt above
    rw [if_neg above.ne', show k + i + 1 = k + (i + 1) by ring, elemAt_add w k (i + 1), elemAt_add w k (i + 1), elemAt_succ,
      elemAt_succ, withElem_div, Nat.add_mul_div_left _ _ pos, Nat.div_eq_of_lt (Nat.mod_lt _ pos), Nat.zero_add,
      Nat.div_div_eq_div_mul, ← pow_add, ← Nat.mul_succ]

/-- A word holds a whole number of packed elements. -/
theorem fmtWidth_fills (f : Fmt) : fmtWidth f * (32 / fmtWidth f) = 32 := by cases f <;> rfl

/-! ### The three instructions -/

theorem cvt_fills (o : CvtOp) : GivesLanes (.cvt o) o.guard (.v o.dst) (fun c l r =>
    let x := if o.sfmt.is64 then (c.src64 false o.a l).toNat else (c.src o.a l).toNat
    let v := match o.mode with
      | .rnd m => cvtElem o.dfmt o.sfmt m none x
      | .sr q => cvtElem o.dfmt o.sfmt .rne (some (c.src q l).toNat) x
    r.flags = v.2 ∧ r.words.length = wideN o.dfmt.is64 ∧ wordsNat r.words = v.1 % 2 ^ (if o.dfmt.is64 then 64 else 32)) := by
  refine givesLanes _ (fun _ => rfl) (fun _ => rfl) fun _ _ _ _ _ _ => ?_
  dsimp only
  cases o.dfmt.is64
  · exact ⟨rfl, rfl, wordsNat_w ..⟩
  · exact ⟨rfl, rfl, wordsNat_d ..⟩

theorem pack_fills (o : PackOp) : GivesLanes (.pack o) o.guard (.v o.dst) (fun c l r =>
    let w := fmtWidth o.fmt
    let e (x : Src) : Nat × Word := cvtElem o.fmt (packSrc o.fmt) o.rnd none (c.src x l).toNat
    r.flags = (e o.a).2 ||| (e o.b).2 ∧ r.words.length = 1 ∧ ∀ k < 32 / w, elemAt w k (wordsNat r.words) =
      if k = 2 * o.pos.toNat then (e o.a).1 % 2 ^ w
      else if k = 2 * o.pos.toNat + 1 then (e o.b).1 % 2 ^ w
      else elemAt w k (c.vec o.dst.toNat l).toNat) := by
  refine givesLanes _ (fun _ => rfl) (fun _ => rfl) fun _ _ _ _ _ _ => ⟨rfl, rfl, fun k hk => ?_⟩
  have low (v : Nat) (fl : Word) : elemAt (fmtWidth o.fmt) k (wordsNat (Res.w (BitVec.ofNat 32 v) fl).words) =
      elemAt (fmtWidth o.fmt) k v := by
    refine elemAt_congr_mod hk ?_
    rw [fmtWidth_fills, wordsNat_w, Nat.mod_mod]
  rw [low, elemAt_withElem, elemAt_withElem]
  by_cases first : k = 2 * o.pos.toNat
  · rw [if_neg (by omega), if_pos first, if_pos first]
  · rw [if_neg first, if_neg first]

theorem unpk_fills (o : UnpkOp) : GivesLanes (.unpk o) o.guard (.v o.dst) (fun c l r =>
    let e (k : Nat) : Nat × Word :=
      widened o.fmt (elemAt (fmtWidth o.fmt) (2 * o.pos.toNat + k) (c.src o.a l).toNat)
    r.flags = (e 0).2 ||| (e 1).2 ∧ r.words = [BitVec.ofNat 32 (e 0).1, BitVec.ofNat 32 (e 1).1]) :=
  givesLanes _ (fun _ => rfl) (fun _ => rfl) fun _ _ _ _ _ _ => ⟨rfl, rfl⟩

/-- Settles O11: CVT by the width of its destination, PACK by the two elements it replaces, UNPK as it stands. -/
theorem conversionsFillTheirDestinations : Obligations.ConversionsFillTheirDestinations := by
  unfold Obligations.ConversionsFillTheirDestinations
  exact ⟨cvt_fills, pack_fills, unpk_fills⟩

end Sys2Proof.Machine
end

section
/-! SUPPORT. Rounding a magnitude once to a format, in every mode (09 R190 to R192): what `roundTo` takes of a real number in
units, and from it that `Format.round` gives the result and the flags of `Format.RoundedTo`. -/

namespace Sys2Proof.Machine

open Sys2Proof

/-! ### Magnitudes as they are held -/

/-- z is m units of 2^e, and a part of one more if `sticky`. -/
structure HeldAs (m : Nat) (e : ℤ) (sticky : Bool) (z : ℝ) : Prop where
  low : m * 2 ^ e ≤ z
  high : z < (m + 1) * 2 ^ e
  whole : sticky = false ↔ z = m * 2 ^ e

theorem heldAs_self (m : Nat) (e : ℤ) : HeldAs m e false (m * 2 ^ e) :=
  ⟨le_rfl, mul_lt_mul_of_pos_right (by linarith) (by positivity), by simp⟩

section Held
variable {m : Nat} {e : ℤ} {sticky : Bool} {z : ℝ} (held : HeldAs m e sticky z) (h0 : m ≠ 0)
include held h0

/-- The power of two at or below a magnitude. -/
theorem HeldAs.top_le : (2 : ℝ) ^ (e + bitLen m - 1) ≤ z := by
  obtain ⟨b, hb⟩ : ∃ b, bitLen m = b + 1 := ⟨bitLen m - 1, by unfold bitLen; split <;> omega⟩
  have bits : (2 : ℝ) ^ b ≤ m := by exact_mod_cast two_pow_le_of_bitLen hb
  calc (2 : ℝ) ^ (e + bitLen m - 1) = 2 ^ b * 2 ^ e := by
        rw [hb, show e + ((b + 1 : ℕ) : ℤ) - 1 = b + e by push_cast; ring, zpow_add₀ two_ne_zero, zpow_natCast]
    _ ≤ m * 2 ^ e := mul_le_mul_of_nonneg_right bits (by positivity)
    _ ≤ z := held.low

omit h0 in
/-- And the one above it. -/
theorem HeldAs.lt_top : z < (2 : ℝ) ^ (e + bitLen m - 1 + 1) := by
  have bits : (m : ℝ) + 1 ≤ 2 ^ bitLen m := by exact_mod_cast lt_two_pow_bitLen m
  calc z < (m + 1) * 2 ^ e := held.high
    _ ≤ 2 ^ bitLen m * 2 ^ e := mul_le_mul_of_nonneg_right bits (by positivity)
    _ = (2 : ℝ) ^ (e + bitLen m - 1 + 1) := by
        rw [sub_add_cancel, add_comm, zpow_add₀ two_ne_zero, zpow_natCast]

end Held

/-! ### A number of units, rounded (R190) -/

/-- A mode takes k units and a part y of the next one up to that next one. -/
def takesUp (mode : Rnd) (neg : Bool) (k : Nat) (y : ℝ) : Prop :=
  match mode with
  | .rz => False
  | .ru => neg = false ∧ 0 < y
  | .rd => neg = true ∧ 0 < y
  | .rne => 1 / 2 < y ∨ y = 1 / 2 ∧ k % 2 = 1

theorem not_takesUp_zero (mode : Rnd) (neg : Bool) (k : Nat) : ¬ takesUp mode neg k 0 := by
  cases mode <;> simp [takesUp]

theorem not_takesUp_of_roundsDown {mode : Rnd} {neg : Bool} (down : roundsDown mode neg) (k : Nat) (y : ℝ) :
    ¬ takesUp mode neg k y := by
  rcases down with rfl | ⟨rfl, rfl⟩ | ⟨rfl, rfl⟩ <;> simp [takesUp]

theorem takesUp_of_roundsUp {mode : Rnd} {neg : Bool} (up : roundsUp mode neg) (k : Nat) (y : ℝ) :
    takesUp mode neg k y ↔ 0 < y := by
  rcases up with ⟨rfl, rfl⟩ | ⟨rfl, rfl⟩ <;> simp [takesUp]

/-- `r` is x units rounded to a whole number, and whether that is inexact. -/
structure UnitsOf (mode : Rnd) (neg : Bool) (x : ℝ) (k : Nat) (r : Nat × Bool) : Prop where
  low : k ≤ x
  high : x < k + 1
  up : takesUp mode neg k (x - k) → r.1 = k + 1
  down : ¬ takesUp mode neg k (x - k) → r.1 = k
  exact_ : r.2 = false ↔ x = k

theorem UnitsOf.eq_or {mode : Rnd} {neg : Bool} {x : ℝ} {k : Nat} {r : Nat × Bool} (h : UnitsOf mode neg x k r) :
    r.1 = k ∨ r.1 = k + 1 := by
  by_cases t : takesUp mode neg k (x - k)
  · exact .inr (h.up t)
  · exact .inl (h.down t)

/-- Nothing was lost exactly where the rounded number is the number. -/
theorem UnitsOf.exact_iff {mode : Rnd} {neg : Bool} {x : ℝ} {k : Nat} {r : Nat × Bool} (units : UnitsOf mode neg x k r) :
    r.2 = false ↔ x = r.1 := by
  rw [units.exact_]
  by_cases t : takesUp mode neg k (x - k)
  · rw [units.up t]
    push_cast
    refine iff_of_false (fun same => ?_) units.high.ne
    rw [same, sub_self] at t
    exact not_takesUp_zero _ _ _ t
  · rw [units.down t]

/-- `roundUp` asks `takesUp` of a rest s that lies at `rem`, or above it if `sticky`, in an even unit. -/
theorem roundUp_iff (mode : Rnd) (neg : Bool) (k : Nat) {rem u : Nat} {sticky : Bool} {s : ℝ} (pos : 0 < u)
    (low : rem ≤ s) (high : s < rem + 1) (whole : sticky = false ↔ s = rem) :
    roundUp mode neg k rem (2 * u) sticky = true ↔ takesUp mode neg k (s / (2 * u)) := by
  have upos : (0 : ℝ) < u := Nat.cast_pos.mpr pos
  have rest : 0 < s / (2 * u) ↔ rem ≠ 0 ∨ sticky = true := by
    rw [div_pos_iff_of_pos_right (by positivity), ← Bool.not_eq_false, whole, ← not_and_or, ← not_le, not_iff_not]
    constructor
    · intro h
      have : (rem : ℝ) = 0 := le_antisymm (low.trans h) (Nat.cast_nonneg _)
      exact ⟨by exact_mod_cast this, by linarith⟩
    · rintro ⟨rfl, rfl⟩
      simp
  cases mode with
  | rz => simp [roundUp, takesUp]
  | ru => simp [roundUp, takesUp, rest]
  | rd => simp [roundUp, takesUp, rest]
  | rne =>
    have above : 1 / 2 < s / (2 * u) ↔ (u : ℝ) < s := by
      rw [lt_div_iff₀ (by positivity)]
      constructor <;> intro h <;> linarith
    have middle : s / (2 * u) = 1 / 2 ↔ s = u := by
      rw [div_eq_iff (by positivity)]
      constructor <;> intro h <;> linarith
    have up : roundUp .rne neg k rem (2 * u) sticky = true ↔ u < rem ∨ rem = u ∧ (sticky = true ∨ k % 2 = 1) := by
      simp [roundUp]
    rw [up, takesUp, above, middle]
    rcases lt_trichotomy rem u with less | rfl | more
    · have : (rem : ℝ) + 1 ≤ u := by exact_mod_cast less
      simp only [less.ne, less.not_gt, false_and, or_false, false_iff, not_or, not_lt]
      exact ⟨by linarith, fun h => by linarith [h.1]⟩
    · rw [← Bool.not_eq_false, whole]
      simp only [lt_irrefl, false_or, true_and]
      constructor
      · rintro (h | h)
        · exact .inl (lt_of_le_of_ne low (Ne.symm h))
        · exact (lt_or_eq_of_le low).imp id fun e => ⟨e.symm, h⟩
      · rintro (h | h)
        · exact .inl h.ne'
        · exact .inr h.2
    · have : (u : ℝ) + 1 ≤ rem := by exact_mod_cast more
      simp only [more, true_or, true_iff]
      exact .inl (by linarith)

/-- `roundTo` rounds a magnitude to units of 2^q; one with a rest below its bits has bits to spare there. -/
theorem roundTo_units {m : Nat} {e q : ℤ} {sticky : Bool} {z : ℝ} (mode : Rnd) (neg : Bool) (held : HeldAs m e sticky z)
    (spare : sticky = true → e < q) : ∃ k, UnitsOf mode neg (z / 2 ^ q) k (roundTo mode neg m e sticky q) := by
  have epos : (0 : ℝ) < 2 ^ e := by positivity
  unfold roundTo
  split
  case isTrue fine =>
    obtain rfl : sticky = false := Bool.eq_false_iff.mpr fun h => absurd (spare h) (by omega)
    have value : z / 2 ^ q = (m * 2 ^ (e - q).toNat : ℕ) := by
      rw [held.whole.mp rfl, div_eq_iff (by positivity), Nat.cast_mul, Nat.cast_pow, Nat.cast_ofNat, mul_assoc,
        ← zpow_natCast, ← zpow_add₀ two_ne_zero, show ((e - q).toNat : ℤ) + q = e by omega]
    refine ⟨m * 2 ^ (e - q).toNat, ?_⟩
    rw [value]
    refine ⟨le_rfl, by linarith, fun up => ?_, fun _ => rfl, by simp⟩
    rw [sub_self] at up
    exact absurd up (not_takesUp_zero _ _ _)
  case isFalse coarse =>
    obtain ⟨d, hd⟩ : ∃ d, (q - e).toNat = d + 1 := ⟨(q - e).toNat - 1, by omega⟩
    rw [hd, pow_succ']
    dsimp only
    let u := 2 ^ d
    let k := m / (2 * u)
    let rem := m % (2 * u)
    have upos : 0 < u := by positivity
    have uposR : (0 : ℝ) < u := Nat.cast_pos.mpr upos
    have parts : (m : ℝ) = k * (2 * u) + rem := by exact_mod_cast (Nat.div_add_mod' m (2 * u)).symm
    have rest : (rem : ℝ) + 1 ≤ 2 * u := by exact_mod_cast Nat.mod_lt m (show 0 < 2 * u by omega)
    let s := z / 2 ^ e - k * (2 * u)
    have unit : (2 : ℝ) ^ q = 2 ^ e * (2 * u) := by
      rw [show q = e + (d + 1 : ℕ) by omega, zpow_add₀ two_ne_zero, zpow_natCast, pow_succ']
      simp [u]
    have value : z / 2 ^ q = k + s / (2 * u) := by
      rw [unit, ← div_div]
      simp only [s]
      field_simp
      ring
    have low : rem ≤ s := by
      have := (le_div_iff₀ epos).mpr held.low
      simp only [s]
      linarith
    have high : s < rem + 1 := by
      have := (div_lt_iff₀ epos).mpr held.high
      simp only [s]
      linarith
    have whole : sticky = false ↔ s = rem := by
      rw [held.whole, ← div_eq_iff epos.ne', parts]
      simp only [s]
      constructor <;> intro h <;> linarith
    have up := roundUp_iff mode neg k upos low high whole
    have nonneg : 0 ≤ s / (2 * u) := div_nonneg ((Nat.cast_nonneg _).trans low) (by positivity)
    refine ⟨k, ?_⟩
    rw [value]
    refine ⟨by linarith, ?_, fun t => ?_, fun t => ?_, ?_⟩
    · have : s / (2 * u) < 1 := (div_lt_one (by positivity)).mpr (by linarith)
      linarith
    · rw [add_sub_cancel_left] at t
      exact if_pos (up.mpr t)
    · rw [add_sub_cancel_left] at t
      exact if_neg (mt up.mp t)
    · have zero : (k : ℝ) + s / (2 * u) = k ↔ s = 0 := by
        rw [add_eq_left, div_eq_zero_iff, or_iff_left (by positivity)]
      rw [zero]
      simp only [Bool.or_eq_false_iff, bne_eq_false_iff_eq, whole]
      constructor
      · rintro ⟨r0, sr⟩
        rw [sr]
        exact_mod_cast r0
      · intro s0
        have r0 : (rem : ℝ) = 0 := le_antisymm (s0 ▸ low) (Nat.cast_nonneg _)
        exact ⟨by exact_mod_cast r0, s0.trans r0.symm⟩

/-! ### The magnitude that is chosen (R190) -/

section Chosen
variable {f : Format} {q : ℤ} {E : Nat} (least : 1 ≤ E) (hE : (E : ℤ) = q + f.mb + f.bias)
include least hE

/-- The code of j units of 2^q, in their binade or, in the lowest, below it. -/
theorem Format.magOf_units {j : Nat} (high : j ≤ 2 ^ (f.mb + 1)) (low : 2 ^ f.mb ≤ j ∨ E = 1) :
    f.magOf ((E - 1) * 2 ^ f.mb + j) = j * 2 ^ q := by
  obtain ⟨D, rfl⟩ : ∃ D, E = D + 1 := ⟨E - 1, by omega⟩
  rw [Nat.add_sub_cancel]
  by_cases h : 2 ^ f.mb ≤ j
  · have := f.magOf_significand (E := D + 1) least h high
    rw [show D * 2 ^ f.mb + j = (D + 1) * 2 ^ f.mb + (j - 2 ^ f.mb) by rw [Nat.add_mul]; omega, this, hE,
      show q + (f.mb : ℤ) + f.bias - f.bias - f.mb = q by ring]
  · obtain rfl : D = 0 := by omega
    rw [Nat.zero_mul, Nat.zero_add, f.magOf_low (by omega), show (1 : ℤ) - f.bias - f.mb = q by omega]

variable {mode : Rnd} {neg : Bool} {z : ℝ} {k : Nat} {r : Nat × Bool} (units : UnitsOf mode neg (z / 2 ^ q) k r)
  (fits : z / 2 ^ q < 2 ^ (f.mb + 1)) (normal : 2 ^ f.mb ≤ z / 2 ^ q ∨ E = 1)
include units fits normal

/-- The magnitudes around z. -/
theorem Format.magOf_around : k < 2 ^ (f.mb + 1) ∧ (2 ^ f.mb ≤ k ∨ E = 1) ∧
    f.magOf ((E - 1) * 2 ^ f.mb + k) = k * 2 ^ q ∧ f.magOf ((E - 1) * 2 ^ f.mb + k + 1) = (k + 1) * 2 ^ q := by
  have kHigh : k < 2 ^ (f.mb + 1) := by exact_mod_cast units.low.trans_lt fits
  have kLow : 2 ^ f.mb ≤ k ∨ E = 1 := normal.imp (fun h => Nat.lt_succ_iff.mp (by exact_mod_cast h.trans_lt units.high)) id
  refine ⟨kHigh, kLow, Format.magOf_units least hE kHigh.le kLow, ?_⟩
  rw [Nat.add_assoc, Format.magOf_units least hE kHigh (kLow.imp (by omega) id), Nat.cast_add_one]

theorem Format.chosen_of_units (hmb : 1 ≤ f.mb) : f.Chosen mode neg z ((E - 1) * 2 ^ f.mb + r.1) := by
  obtain ⟨-, -, here, next⟩ := Format.magOf_around least hE units fits normal
  have qpos : (0 : ℝ) < 2 ^ q := by positivity
  set c := (E - 1) * 2 ^ f.mb + k with hc
  have parity : c % 2 = k % 2 := by
    obtain ⟨b, hb⟩ : ∃ b, f.mb = b + 1 := ⟨f.mb - 1, by omega⟩
    rw [hc, hb, pow_succ, ← mul_assoc]
    omega
  have low : f.magOf c ≤ z := here ▸ (le_div_iff₀ qpos).mp units.low
  have high : z < f.magOf (c + 1) := next ▸ (div_lt_iff₀ qpos).mp units.high
  have value : z = (k + (z / 2 ^ q - k)) * 2 ^ q := by field_simp; ring
  have middle : f.magOf c + f.magOf (c + 1) = (2 * k + 1) * 2 ^ q := by rw [here, next]; ring
  by_cases t : takesUp mode neg k (z / 2 ^ q - k)
  · rw [units.up t, ← Nat.add_assoc]
    refine ⟨fun rne => ?_, fun down => absurd t (not_takesUp_of_roundsDown down _ _), fun up => ⟨high.le, .inr ?_⟩⟩
    · subst rne
      refine Format.nearest_upper low high ?_
      rw [middle, parity]
      rcases t with more | ⟨half, odd⟩
      · left; rw [value]; nlinarith
      · right; refine ⟨?_, odd⟩; rw [value, half]; ring
    · have := (takesUp_of_roundsUp up ..).mp t
      rw [Nat.add_sub_cancel, here, value]
      nlinarith
  · rw [units.down t]
    refine ⟨fun rne => ?_, fun _ => ⟨low, high⟩, fun up => ?_⟩
    · subst rne
      refine Format.nearest_lower low high ?_
      rw [middle, parity]
      obtain ⟨most, tie⟩ := not_or.mp t
      rcases (not_lt.mp most).lt_or_eq with less | half
      · left; rw [value]; nlinarith
      · right; exact ⟨by rw [value, half]; ring, Nat.mod_two_ne_one.mp fun odd => tie ⟨half, odd⟩⟩
    · have : z / 2 ^ q = k := le_antisymm (by linarith [not_lt.mp (mt (takesUp_of_roundsUp up ..).mpr t)]) units.low
      have same : z = f.magOf c := by rw [here, ← this]; field_simp
      refine ⟨same.le, ?_⟩
      rcases Nat.eq_zero_or_pos c with zero | pos
      · exact .inl zero
      · exact .inr (same ▸ f.magOf_strictMono (by omega))

/-- Nothing was lost exactly where the rounded magnitude is z. -/
theorem Format.exact_iff_of_units : r.2 = false ↔ f.magOf ((E - 1) * 2 ^ f.mb + r.1) = z := by
  obtain ⟨kHigh, kLow, -, -⟩ := Format.magOf_around least hE units fits normal
  have range : r.1 ≤ 2 ^ (f.mb + 1) ∧ (2 ^ f.mb ≤ r.1 ∨ E = 1) := by rcases units.eq_or with h | h <;> omega
  rw [units.exact_iff, Format.magOf_units least hE range.1 range.2, div_eq_iff (by positivity), eq_comm]

end Chosen

/-! ### Below the normal numbers (R192) -/

/-- A number below an even end of a binade stays there unless it is nearer to the end than to the number before it, or past
that number where the mode takes it up. -/
theorem UnitsOf.ne_end_iff {mode : Rnd} {neg : Bool} {x : ℝ} {k U : Nat} {r : Nat × Bool} (units : UnitsOf mode neg x k r)
    (even : U % 2 = 0) (fits : x < U) :
    r.1 ≠ U ↔ (mode = .rne → x < U - 1 / 2) ∧ (roundsUp mode neg → x ≤ U - 1) := by
  have most : k + 1 ≤ U := by exact_mod_cast units.low.trans_lt fits
  have low := units.low
  have high := units.high
  rcases most.lt_or_eq with inner | rfl
  · have stays : r.1 ≠ U := by rcases units.eq_or with h | h <;> omega
    have : (k : ℝ) + 2 ≤ U := by exact_mod_cast inner
    exact iff_of_true stays ⟨fun _ => by linarith, fun _ => by linarith⟩
  · have reaches : r.1 = k + 1 ↔ takesUp mode neg k (x - k) := by
      by_cases t : takesUp mode neg k (x - k)
      · exact iff_of_true (units.up t) t
      · exact iff_of_false (by rw [units.down t]; omega) t
    have odd : k % 2 = 1 := by omega
    rw [Ne, reaches]
    push_cast
    cases mode with
    | rz => simp [takesUp, roundsUp]
    | rne =>
      simp only [takesUp, odd, and_true, forall_const, roundsUp, reduceCtorEq, false_and, or_self, false_implies]
      rw [not_or, not_lt, ← ne_eq, ← lt_iff_le_and_ne]
      constructor <;> intro h <;> linarith
    | ru =>
      cases neg with
      | true => simp [takesUp, roundsUp]
      | false => simp [takesUp, roundsUp]
    | rd =>
      cases neg with
      | true => simp [takesUp, roundsUp]
      | false => simp [takesUp, roundsUp]

/-- The code's test for a result that is tiny, in units of the binade of z. -/
theorem Format.tiny_iff {f : Format} {mode : Rnd} {neg : Bool} {z : ℝ} {top : ℤ} {k : Nat} {r : Nat × Bool}
    (low : (2 : ℝ) ^ top ≤ z) (high : z < 2 ^ (top + 1)) (units : UnitsOf mode neg (z / 2 ^ (top - f.mb)) k r) :
    (decide (top < f.emin) && !(top + 1 == f.emin && r.1 == 2 ^ (f.mb + 1))) = true ↔ f.Tiny mode neg z := by
  have mono {a b : ℤ} (h : a ≤ b) : (2 : ℝ) ^ a ≤ 2 ^ b := zpow_le_zpow_right₀ one_le_two h
  unfold Format.Tiny Format.emin
  dsimp only
  rcases lt_trichotomy (top + 1) (1 - (f.bias : ℤ)) with far | near | above
  · have halves : (2 : ℝ) ^ ((1 : ℤ) - f.bias) = 2 * 2 ^ (-(f.bias : ℤ)) := by
      rw [show (1 : ℤ) - f.bias = -(f.bias : ℤ) + 1 by ring, zpow_add_one₀ two_ne_zero, mul_comm]
    have step : (2 : ℝ) ^ (-(f.bias : ℤ) - f.mb) ≤ 2 ^ (-(f.bias : ℤ)) := mono (by omega)
    have small : z < 2 ^ (-(f.bias : ℤ)) := high.trans_le (mono (by omega))
    have pos : (0 : ℝ) < 2 ^ (-(f.bias : ℤ)) := by positivity
    simp only [show top < 1 - (f.bias : ℤ) by omega, decide_true, beq_false_of_ne far.ne, Bool.false_and,
      Bool.not_false, Bool.and_self, true_iff]
    exact ⟨by linarith, fun _ => by linarith, fun _ => by linarith⟩
  · -- z lies in the binade that ends at the smallest normal magnitude
    have qpos : (0 : ℝ) < 2 ^ (top - f.mb) := by positivity
    have step : (2 : ℝ) ^ (-(f.bias : ℤ) - f.mb) = 2 ^ (top - f.mb) := by rw [show -(f.bias : ℤ) = top by omega]
    have least : (2 : ℝ) ^ ((1 : ℤ) - f.bias) = ((2 ^ (f.mb + 1) : ℕ) : ℝ) * 2 ^ (top - f.mb) := by
      rw [← near, Nat.cast_pow, ← zpow_natCast, Nat.cast_ofNat, ← zpow_add₀ two_ne_zero]
      congr 1
      push_cast
      ring
    have small : z < 2 ^ ((1 : ℤ) - f.bias) := near ▸ high
    have fits : z / 2 ^ (top - f.mb) < (2 ^ (f.mb + 1) : ℕ) := (div_lt_iff₀ qpos).mpr (least ▸ small)
    have stays := units.ne_end_iff (by rw [pow_succ]; omega) fits
    have code : (decide (top < 1 - (f.bias : ℤ)) && !(top + 1 == 1 - (f.bias : ℤ) && r.1 == 2 ^ (f.mb + 1))) = true ↔
        r.1 ≠ 2 ^ (f.mb + 1) := by
      simp [near, show top < 1 - (f.bias : ℤ) by omega]
    rw [code, stays, and_iff_right small, step, least, div_lt_iff₀ qpos, div_le_iff₀ qpos, sub_mul, sub_mul, one_mul,
      div_mul_eq_mul_div, one_mul]
  · have : (2 : ℝ) ^ ((1 : ℤ) - f.bias) ≤ z := (mono (by omega)).trans low
    simp only [show ¬ top < 1 - (f.bias : ℤ) by omega, decide_false, Bool.false_and, Bool.false_eq_true, false_iff]
    exact fun h => absurd h.1 (not_lt.mpr this)

/-! ### The rounding of a magnitude -/

/-- The sign bit of a negative result. -/
def Format.signOf (f : Format) (neg : Bool) : Nat := if neg then 2 ^ (f.width - 1) else 0

/-- Exponent of the unit to which m * 2^e is rounded. -/
def Format.unitExp (f : Format) (m : Nat) (e : ℤ) : ℤ :=
  (if e + (bitLen m : ℤ) - 1 < f.emin then f.emin else e + (bitLen m : ℤ) - 1) - f.mb

/-- Code of the magnitude of some units above it. -/
def Format.unitCode (f : Format) (m : Nat) (e : ℤ) (units : Nat) : Nat :=
  ((f.unitExp m e + f.mb + f.bias).toNat - 1) * 2 ^ f.mb + units

/-- The test of `Format.round` for a result below the normal numbers. -/
def Format.tinyTest (f : Format) (mode : Rnd) (neg : Bool) (m : Nat) (e : ℤ) (sticky : Bool) : Bool :=
  let top := e + (bitLen m : ℤ) - 1
  decide (top < f.emin) &&
    !(top + 1 == f.emin && (roundTo mode neg m e sticky (top - f.mb)).1 == 2 ^ (f.mb + 1))

/-- The encoding of a significand, which may have been carried into the next binade. -/
theorem Format.encOf_units {f : Format} {q : ℤ} {E k : Nat} (least : 1 ≤ E) (hE : (E : ℤ) = q + f.mb + f.bias)
    (low : 2 ^ f.mb ≤ k ∨ E = 1) :
    fpToFpSr.encOf f (if k == 2 ^ (f.mb + 1) then 2 ^ f.mb else k) (if k == 2 ^ (f.mb + 1) then q + 1 else q) =
      (E - 1) * 2 ^ f.mb + k := by
  by_cases h : 2 ^ f.mb ≤ k
  · obtain ⟨D, rfl⟩ : ∃ D, E = D + 1 := ⟨E - 1, by omega⟩
    rw [Format.encOf_carried hE h, Nat.add_sub_cancel, Nat.add_mul]
    omega
  · obtain rfl : E = 1 := by omega
    have single : ¬ k = 2 ^ (f.mb + 1) := by rw [pow_succ]; omega
    rw [fpToFpSr.encOf, if_neg (mt beq_iff_eq.mp single), if_neg h]
    simp

section Round
variable {f : Format} {mode : Rnd} {neg : Bool} {m : Nat} {e : ℤ} {sticky : Bool} {z : ℝ}

theorem Format.unitExp_code : ∃ E : Nat, 1 ≤ E ∧ (E : ℤ) = f.unitExp m e + f.mb + f.bias ∧
    (E = 1 ∨ f.unitExp m e = e + (bitLen m : ℤ) - 1 - f.mb) ∧ ∀ k, f.unitCode m e k = (E - 1) * 2 ^ f.mb + k := by
  have least : 1 ≤ f.unitExp m e + f.mb + f.bias := by unfold Format.unitExp Format.emin; split <;> omega
  refine ⟨(f.unitExp m e + f.mb + f.bias).toNat, by omega, by omega, ?_, fun _ => rfl⟩
  unfold Format.unitExp Format.emin
  split <;> omega

/-- `Format.round` is the code of the rounded units, or an overflow past the largest finite one. -/
theorem Format.round_eq (h0 : m ≠ 0)
    (low : 2 ^ f.mb ≤ (roundTo mode neg m e sticky (f.unitExp m e)).1 ∨ f.unitExp m e + f.mb + f.bias = 1) :
    let r := roundTo mode neg m e sticky (f.unitExp m e)
    f.round mode neg m e sticky =
      if f.big < f.unitCode m e r.1 then f.overflow mode neg
      else (f.signOf neg + f.unitCode m e r.1,
        raise r.2 flNX ||| raise (f.tinyTest mode neg m e sticky && r.2) flUF) := by
  obtain ⟨E, least, hE, -, code⟩ := f.unitExp_code (m := m) (e := e)
  have enc := Format.encOf_units least hE (low.imp id fun h => by omega)
  unfold fpToFpSr.encOf at enc
  dsimp only
  rw [code, ← enc]
  simp only [Format.round, beq_eq_false_iff_ne.mpr h0, Bool.false_eq_true, if_false]
  rfl

/-- What a format gives past its largest finite magnitude (R191). -/
theorem Format.overflow_eq : if f.hasInf then
    (f.overflow mode neg).2 = flOF ||| flNX ∧ (mode = .rne ∨ roundsUp mode neg → (f.overflow mode neg).1 = f.signOf neg + f.big + 1) ∧
      (roundsDown mode neg → (f.overflow mode neg).1 = f.signOf neg + f.big)
    else f.overflow mode neg = (f.signOf neg + f.big, flCVS ||| flNX) := by
  cases h : f.hasInf with
  | false => simp only [Format.overflow, h]; rfl
  | true =>
    simp only [Format.overflow, h, if_true]
    cases mode <;> cases neg <;>
      simp [roundsDown, roundsUp, Format.signOf, Format.sbit, Format.infEnc, Nat.add_assoc]

variable (held : HeldAs m e sticky z) (h0 : m ≠ 0) (spare : sticky = true → f.mb + 2 ≤ bitLen m)
include held h0 spare

/-- The units of a magnitude, and their code. -/
theorem Format.units_of_held : ∃ E k : Nat, 1 ≤ E ∧ (E : ℤ) = f.unitExp m e + f.mb + f.bias ∧
    UnitsOf mode neg (z / 2 ^ f.unitExp m e) k (roundTo mode neg m e sticky (f.unitExp m e)) ∧
    z / 2 ^ f.unitExp m e < 2 ^ (f.mb + 1) ∧ (2 ^ f.mb ≤ z / 2 ^ f.unitExp m e ∨ E = 1) ∧
    ∀ j, f.unitCode m e j = (E - 1) * 2 ^ f.mb + j := by
  obtain ⟨E, least, hE, range, code⟩ := f.unitExp_code (m := m) (e := e)
  have top : e + (bitLen m : ℤ) - 1 - f.mb ≤ f.unitExp m e := by unfold Format.unitExp; split <;> omega
  obtain ⟨k, units⟩ := roundTo_units (q := f.unitExp m e) mode neg held fun h => by have := spare h; omega
  refine ⟨E, k, least, hE, units, ?_, ?_, code⟩
  · rw [div_lt_iff₀ (by positivity), ← zpow_natCast, ← zpow_add₀ two_ne_zero]
    refine held.lt_top.trans_le (zpow_le_zpow_right₀ one_le_two ?_)
    push_cast
    omega
  · refine range.symm.imp (fun q => ?_) id
    rw [le_div_iff₀ (by positivity), ← zpow_natCast, ← zpow_add₀ two_ne_zero, q]
    refine le_trans (zpow_le_zpow_right₀ one_le_two ?_) (held.top_le h0)
    omega

/-- A magnitude that is not zero, rounded once. -/
theorem Format.round_roundedTo_of_ne (hmb : 1 ≤ f.mb) : f.RoundedTo mode neg z (f.round mode neg m e sticky) := by
  obtain ⟨E, k, least, hE, units, fits, normal, code⟩ := Format.units_of_held (f := f) (mode := mode) (neg := neg) held h0 spare
  obtain ⟨-, kLow, -, -⟩ := Format.magOf_around least hE units fits normal
  have chosen := Format.chosen_of_units least hE units fits normal hmb
  have exact_ := Format.exact_iff_of_units least hE units fits normal
  obtain ⟨j, unbounded⟩ := roundTo_units (q := e + (bitLen m : ℤ) - 1 - f.mb) mode neg held fun h => by have := spare h; omega
  have tiny : f.tinyTest mode neg m e sticky = true ↔ f.Tiny mode neg z :=
    Format.tiny_iff (held.top_le h0) held.lt_top unbounded
  have rounded := Format.round_eq (mode := mode) (neg := neg) (sticky := sticky) (f := f) (e := e) h0 <| kLow.imp
    (fun h => by rcases units.eq_or with r | r <;> omega) (fun h => by omega)
  rw [← code] at chosen exact_
  generalize roundTo mode neg m e sticky (f.unitExp m e) = r at *
  rw [rounded]
  refine ⟨f.unitCode m e r.1, chosen, fun inside => ?_, fun past => ?_⟩
  · rw [if_neg (by omega)]
    refine ⟨rfl, fun same => ?_, fun differs => ⟨fun small => ?_, fun normal => ?_⟩⟩
    · simp [exact_.mpr same, raise]
    · simp [Bool.not_eq_false _ ▸ mt exact_.mp differs, tiny.mpr small, raise, BitVec.or_comm]
    · simp [Bool.not_eq_false _ ▸ mt exact_.mp differs, Bool.eq_false_iff.mpr (mt tiny.mp normal), raise]
  · rw [if_pos past]
    exact Format.overflow_eq

end Round

end Sys2Proof.Machine
end

section
/-! PROOF. O10: decoded values round to themselves, and magnitudes, sums and quotients round once (09 R181, R190 to R193). -/

namespace Sys2Proof.Machine

open Sys2Proof

/-! ### Magnitudes rounded in a format (R190 to R192) -/

section Rounding
variable {f : Format}

theorem Format.magOf_zero (f : Format) : f.magOf 0 = 0 := by
  rw [f.magOf_low (Nat.zero_le _), Nat.cast_zero, zero_mul]

theorem Format.round_zero (mode : Rnd) (neg : Bool) (e : ℤ) (sticky : Bool) :
    f.round mode neg 0 e sticky = (f.signOf neg, 0) := rfl

/-- A magnitude of the format is the one that every mode chooses for itself, and no mode chooses another. -/
theorem Format.chosen_magOf (mode : Rnd) (neg : Bool) (k : Nat) : f.Chosen mode neg (f.magOf k) k := by
  refine ⟨fun _ j => ?_, fun _ => ⟨le_rfl, f.magOf_strictMono (Nat.lt_succ_self k)⟩, fun _ => ⟨le_rfl, ?_⟩⟩
  · rw [sub_self, abs_zero]
    rcases eq_or_ne j k with rfl | other
    · exact .inr ⟨by simp, .inl rfl⟩
    · exact .inl (abs_pos.mpr (sub_ne_zero.mpr (f.magOf_strictMono.injective.ne other.symm)))
  · rcases Nat.eq_zero_or_pos k with zero | pos
    · exact .inl zero
    · exact .inr (f.magOf_strictMono (Nat.sub_lt pos one_pos))

theorem Format.Chosen.eq_of_magOf {mode : Rnd} {neg : Bool} {k j : Nat} (h : f.Chosen mode neg (f.magOf k) j) : j = k := by
  obtain ⟨nearest, down, up⟩ := h
  have lt {a b : Nat} : f.magOf a < f.magOf b ↔ a < b := f.magOf_strictMono.lt_iff_lt
  have le {a b : Nat} : f.magOf a ≤ f.magOf b ↔ a ≤ b := f.magOf_strictMono.le_iff_le
  have downs (d : roundsDown mode neg) : j = k := by
    obtain ⟨low, high⟩ := down d
    rw [le] at low
    rw [lt] at high
    omega
  have ups (u : roundsUp mode neg) : j = k := by
    obtain ⟨low, high⟩ := up u
    rw [le] at low
    rw [lt] at high
    omega
  cases mode with
  | rz => exact downs (.inl rfl)
  | ru =>
    cases neg with
    | true => exact downs (.inr (.inl ⟨rfl, rfl⟩))
    | false => exact ups (.inl ⟨rfl, rfl⟩)
  | rd =>
    cases neg with
    | true => exact ups (.inr ⟨rfl, rfl⟩)
    | false => exact downs (.inr (.inr ⟨rfl, rfl⟩))
  | rne =>
    have := nearest rfl k
    rw [sub_self, abs_zero] at this
    rcases this with less | ⟨same, -⟩
    · exact absurd less (not_lt.mpr (abs_nonneg _))
    · exact (f.magOf_strictMono.injective (sub_eq_zero.mp (abs_eq_zero.mp same))).symm

/-- A representable magnitude is rounded to itself, without a flag. -/
theorem Format.RoundedTo.eq_of_magOf {mode : Rnd} {neg : Bool} {k : Nat} {v : Nat × Word}
    (h : f.RoundedTo mode neg (f.magOf k) v) (finite : k ≤ f.big) : v = (f.signOf neg + k, 0) := by
  obtain ⟨j, chosen, within, -⟩ := h
  obtain rfl := chosen.eq_of_magOf
  obtain ⟨code, whole, -⟩ := within finite
  exact Prod.ext code (whole rfl)

/-- A magnitude is rounded once. -/
theorem Format.round_roundedTo (hmb : 1 ≤ f.mb) (mode : Rnd) (neg : Bool) (m : Nat) (e : ℤ) :
    f.RoundedTo mode neg (m * 2 ^ e) (f.round mode neg m e false) := by
  rcases eq_or_ne m 0 with rfl | h0
  · rw [Nat.cast_zero, zero_mul, ← f.magOf_zero, Format.round_zero]
    refine ⟨0, f.chosen_magOf mode neg 0, fun _ => ⟨rfl, fun _ => rfl, fun differs => absurd rfl differs⟩, fun past => ?_⟩
    exact absurd past (Nat.not_lt_zero _)
  · exact Format.round_roundedTo_of_ne (heldAs_self m e) h0 nofun hmb

end Rounding

/-! ### The value of an element (R181 to R183) -/

section Decode
variable {f : Format} {x : Nat} (hx : x < 2 ^ f.width)
include hx

/-- An element by its sign and its magnitude's code. -/
theorem Format.decode_eq :
    let k := x % 2 ^ (f.width - 1)
    let neg := decide (2 ^ (f.width - 1) ≤ x)
    f.decode x =
      if f.hasInf && k == f.big + 1 then .inf neg
      else if f.big < k then .nan (f.signals && decide (k % 2 ^ f.mb < 2 ^ (f.mb - 1)))
      else if k / 2 ^ f.mb == 0 then .fin neg (k % 2 ^ f.mb) (f.emin - f.mb)
      else .fin neg (2 ^ f.mb + k % 2 ^ f.mb) ((k / 2 ^ f.mb : ℕ) - f.bias - f.mb) := by
  simp only [Format.decode, Nat.mod_eq_of_lt hx]
  rfl

/-- A finite element is its magnitude with its sign. -/
theorem Format.decode_finite (finite : x % 2 ^ (f.width - 1) ≤ f.big) :
    ∃ n e, f.decode x = .fin (decide (2 ^ (f.width - 1) ≤ x)) n e ∧ (n : ℝ) * 2 ^ e = f.magOf (x % 2 ^ (f.width - 1)) := by
  rw [Format.decode_eq hx]
  generalize x % 2 ^ (f.width - 1) = k at finite ⊢
  have notInf : ¬ (f.hasInf && k == f.big + 1) = true := by simp; omega
  rw [if_neg notInf, if_neg (by omega)]
  by_cases low : k < 2 ^ f.mb
  · rw [if_pos (beq_iff_eq.mpr (Nat.div_eq_of_lt low))]
    refine ⟨_, _, rfl, ?_⟩
    rw [Format.magOf, if_pos low, Nat.mod_eq_of_lt low, Format.emin]
  · have exponent : k / 2 ^ f.mb ≠ 0 := Nat.div_ne_zero_iff.mpr ⟨by positivity, by omega⟩
    rw [if_neg (mt beq_iff_eq.mp exponent)]
    refine ⟨_, _, rfl, ?_⟩
    rw [Format.magOf, if_neg low]

theorem Format.decode_infinite (hasInf : f.hasInf = true) (inf : x % 2 ^ (f.width - 1) = f.big + 1) :
    f.decode x = .inf (decide (2 ^ (f.width - 1) ≤ x)) := by
  rw [Format.decode_eq hx]
  exact if_pos (by simp [hasInf, inf])

theorem Format.decode_nan (past : (if f.hasInf then f.big + 1 else f.big) < x % 2 ^ (f.width - 1)) :
    f.decode x = .nan (f.signals && decide (x % 2 ^ (f.width - 1) % 2 ^ f.mb < 2 ^ (f.mb - 1))) := by
  rw [Format.decode_eq hx]
  generalize x % 2 ^ (f.width - 1) = k at past ⊢
  rw [if_neg, if_pos]
  · split at past <;> omega
  · cases h : f.hasInf with
    | false => simp
    | true =>
      rw [h, if_pos rfl] at past
      simp
      omega

omit hx in
/-- An element is its sign bit with its magnitude's code. -/
theorem Format.signOf_add (hx : x < 2 ^ f.width) (hw : 1 ≤ f.width) :
    f.signOf (decide (2 ^ (f.width - 1) ≤ x)) + x % 2 ^ (f.width - 1) = x := by
  rw [show f.width = f.width - 1 + 1 by omega, pow_succ] at hx
  unfold Format.signOf
  by_cases h : 2 ^ (f.width - 1) ≤ x
  · rw [if_pos (decide_eq_true h), Nat.mod_eq_sub_mod h, Nat.mod_eq_of_lt (by omega)]
    omega
  · rw [if_neg (by simpa using h), Nat.mod_eq_of_lt (by omega), Nat.zero_add]

/-- The value of an element that is no NaN is rounded to the element, without a flag. -/
theorem Format.ofFp_decode (hw : 1 ≤ f.width) (hmb : 1 ≤ f.mb) (mode : Rnd) (number : (f.decode x).isNan = false) :
    f.ofFp mode (f.decode x) = (x, 0) := by
  rcases Nat.lt_or_ge f.big (x % 2 ^ (f.width - 1)) with past | finite
  · have inf : f.hasInf = true ∧ x % 2 ^ (f.width - 1) = f.big + 1 := by
      by_contra h
      rw [Format.decode_nan hx] at number
      · simp [Fp.isNan] at number
      · cases hi : f.hasInf with
        | false => simpa using past
        | true => simp [hi] at h ⊢; omega
    rw [Format.decode_infinite hx inf.1 inf.2]
    refine Prod.ext (Eq.trans ?_ (Format.signOf_add hx hw)) rfl
    rw [inf.2]
    rfl
  · obtain ⟨n, e, value, magnitude⟩ := Format.decode_finite hx finite
    have rounded := f.round_roundedTo hmb mode (decide (2 ^ (f.width - 1) ≤ x)) n e
    rw [magnitude] at rounded
    rw [value]
    exact (rounded.eq_of_magOf finite).trans (congrArg (·, 0) (Format.signOf_add hx hw))

end Decode

/-! ### Sums (R193) -/

/-- Finite terms by their signs, magnitudes and exponents. -/
def finTerms (ts : List (Bool × Nat × Int)) : List Fp := ts.map (fun t => .fin t.1 t.2.1 t.2.2)

theorem minExp_le_start (ts : List Fp) (x : Int) : minExp ts x ≤ x := by
  induction ts generalizing x with
  | nil => exact le_rfl
  | cons t ts ih =>
    cases t with
    | fin s m e => exact (ih _).trans (by split <;> omega)
    | nan s => exact ih x
    | inf s => exact ih x

theorem minExp_le {ts : List (Bool × Nat × Int)} {t : Bool × Nat × Int} (h : t ∈ ts) (x : Int) :
    minExp (finTerms ts) x ≤ t.2.2 := by
  induction ts generalizing x with
  | nil => exact absurd h List.not_mem_nil
  | cons u ts ih =>
    rcases List.mem_cons.mp h with rfl | h
    · refine (minExp_le_start (finTerms ts) _).trans ?_
      split <;> omega
    · exact ih h _

/-- The whole number of units that finite terms come to is their exact sum. -/
theorem sumAt_eq_sum {ts : List (Bool × Nat × Int)} {e : Int} (least : ∀ t ∈ ts, e ≤ t.2.2) :
    (sumAt e (finTerms ts) : ℝ) * 2 ^ e = (ts.map (fun t => finReal t.1 t.2.1 t.2.2)).sum := by
  induction ts with
  | nil => simp [finTerms, sumAt]
  | cons t ts ih =>
    obtain ⟨s, m, x⟩ := t
    have here : e ≤ x := least (s, m, x) List.mem_cons_self
    have units : (2 : ℝ) ^ (x - e).toNat * 2 ^ e = 2 ^ x := by
      rw [← zpow_natCast, ← zpow_add₀ two_ne_zero, show ((x - e).toNat : ℤ) + e = x by omega]
    have rest := ih fun t ht => least t (List.mem_cons_of_mem _ ht)
    simp only [finTerms, List.map_cons, sumAt, List.sum_cons] at rest ⊢
    rw [← rest, Int.cast_add, add_mul, finReal, ← units]
    congr 1
    cases s
    · simp only [Bool.false_eq_true, if_false]
      push_cast
      ring
    · simp only [if_true]
      push_cast
      ring

section Sum
variable {f : Format} {mode : Rnd}

/-- A sum of finite terms is their whole number of units, rounded, or a zero. -/
theorem Format.sum_finTerms (ts : List (Bool × Nat × Int)) :
    let e := minExp (finTerms ts) 0
    let v := sumAt e (finTerms ts)
    let same := (finTerms ts).all Fp.isZero && ((finTerms ts).all Fp.neg || (finTerms ts).all (fun t => !t.neg))
    f.sum mode (finTerms ts) = if v = 0 then (f.zero (if same then ((finTerms ts).headD (.fin false 0 0)).neg else mode == .rd), 0)
      else f.round mode (decide (v < 0)) v.natAbs e false := by
  have isFin : ∀ t ∈ finTerms ts, t.isNan = false ∧ t.isInf = false := by
    simp only [finTerms, List.mem_map]
    rintro t ⟨u, -, rfl⟩
    exact ⟨rfl, rfl⟩
  have noNan : (finTerms ts).any Fp.isNan = false := List.any_eq_false.mpr fun t ht => by simp [(isFin t ht).1]
  have noInf (p : Fp → Bool) : (finTerms ts).any (fun t => t.isInf && p t) = false :=
    List.any_eq_false.mpr fun t ht => by simp [(isFin t ht).2]
  have none_ : (finTerms ts).find? Fp.isInf = none := List.find?_eq_none.mpr fun t ht => by simp [(isFin t ht).2]
  simp only [Format.sum, noNan, noInf, Bool.or_self, Bool.and_self, Bool.false_eq_true, if_false, none_, beq_iff_eq]

/-- An exact sum that is not zero is rounded once. -/
theorem Format.sum_roundedTo (hmb : 1 ≤ f.mb) {ts : List (Bool × Nat × Int)} {neg : Bool}
    (h0 : (ts.map (fun t => finReal t.1 t.2.1 t.2.2)).sum ≠ 0)
    (sign : neg = true ↔ (ts.map (fun t => finReal t.1 t.2.1 t.2.2)).sum < 0) :
    f.RoundedTo mode neg |(ts.map (fun t => finReal t.1 t.2.1 t.2.2)).sum| (f.sum mode (finTerms ts)) := by
  have value := sumAt_eq_sum (ts := ts) (e := minExp (finTerms ts) 0) fun t ht => minExp_le ht 0
  have sum := f.sum_finTerms (mode := mode) ts
  dsimp only at sum
  generalize minExp (finTerms ts) 0 = e at value sum
  generalize sumAt e (finTerms ts) = v at value sum
  have pos : (0 : ℝ) < 2 ^ e := by positivity
  have v0 : v ≠ 0 := by rintro rfl; simp [← value] at h0
  have negative : decide (v < 0) = neg := by
    rw [Bool.eq_iff_iff, sign, ← value, decide_eq_true_iff, ← not_le, ← not_le, mul_nonneg_iff_of_pos_right pos, Int.cast_nonneg_iff]
  rw [sum, if_neg v0, negative, ← value, abs_mul, abs_of_pos pos, ← Int.cast_abs, ← Int.natCast_natAbs, Int.cast_natCast]
  exact f.round_roundedTo hmb mode neg v.natAbs e

/-- Terms of sum zero come to no unit. -/
theorem sumAt_eq_zero {ts : List (Bool × Nat × Int)} (h0 : (ts.map (fun t => finReal t.1 t.2.1 t.2.2)).sum = 0) :
    sumAt (minExp (finTerms ts) 0) (finTerms ts) = 0 := by
  have value := sumAt_eq_sum (ts := ts) (e := minExp (finTerms ts) 0) fun t ht => minExp_le ht 0
  rw [h0, mul_eq_zero, or_iff_left (by positivity)] at value
  exact_mod_cast value

/-- Zeros of one sign add up to that zero. -/
theorem Format.sum_zeros {ts : List (Bool × Nat × Int)} {neg : Bool} (some_ : ts ≠ [])
    (h0 : (ts.map (fun t => finReal t.1 t.2.1 t.2.2)).sum = 0) (zeros : ∀ t ∈ ts, t.2.1 = 0 ∧ t.1 = neg) :
    f.sum mode (finTerms ts) = (f.signOf neg, 0) := by
  have isZero : (finTerms ts).all Fp.isZero = true := by
    simp only [finTerms, List.all_map, List.all_eq_true]
    intro t ht
    simp [(zeros t ht).1, Fp.isZero]
  have signs : ((finTerms ts).all Fp.neg || (finTerms ts).all (fun t => !t.neg)) = true := by
    simp only [finTerms, List.all_map, Bool.or_eq_true, List.all_eq_true]
    cases neg with
    | true => exact .inl fun t ht => (zeros t ht).2
    | false => exact .inr fun t ht => by simp [Fp.neg, (zeros t ht).2]
  have head : ((finTerms ts).headD (.fin false 0 0)).neg = neg := by
    cases ts with
    | nil => exact absurd rfl some_
    | cons t ts => exact (zeros t List.mem_cons_self).2
  rw [Format.sum_finTerms, if_pos (sumAt_eq_zero h0), isZero, signs, Bool.and_self, if_pos rfl, head]
  rfl

/-- Any other terms that come to zero give +0, and -0 where results are rounded down. -/
theorem Format.sum_cancels {ts : List (Bool × Nat × Int)} (h0 : (ts.map (fun t => finReal t.1 t.2.1 t.2.2)).sum = 0)
    (mixed : ¬ ∃ neg, ∀ t ∈ ts, t.2.1 = 0 ∧ t.1 = neg) :
    f.sum mode (finTerms ts) = (if mode = .rd then 2 ^ (f.width - 1) else 0, 0) := by
  have same : ((finTerms ts).all Fp.isZero && ((finTerms ts).all Fp.neg || (finTerms ts).all (fun t => !t.neg))) = false := by
    refine Bool.eq_false_iff.mpr fun h => mixed ?_
    simp only [finTerms, List.all_map, Bool.and_eq_true, Bool.or_eq_true, List.all_eq_true] at h
    obtain ⟨isZero, signs⟩ := h
    have magnitude (t) (ht : t ∈ ts) : t.2.1 = 0 := by
      have zero := isZero t ht
      obtain ⟨s, m, x⟩ := t
      cases m with
      | zero => rfl
      | succ m => cases zero
    rcases signs with neg | pos
    · exact ⟨true, fun t ht => ⟨magnitude t ht, neg t ht⟩⟩
    · exact ⟨false, fun t ht => ⟨magnitude t ht, by simpa [Fp.neg] using pos t ht⟩⟩
  rw [Format.sum_finTerms, if_pos (sumAt_eq_zero h0), same]
  cases mode <;> rfl

/-! ### Sums with special values (R193) -/

theorem any_nan_iff (ts : List Fp) : ts.any Fp.isNan = true ↔ ∃ s, Fp.nan s ∈ ts := by
  rw [List.any_eq_true]
  constructor
  · rintro ⟨t, ht, h⟩
    cases t with
    | nan s => exact ⟨s, ht⟩
    | inf s => cases h
    | fin s m e => cases h
  · rintro ⟨s, h⟩
    exact ⟨_, h, rfl⟩

theorem any_snan_iff (ts : List Fp) : ts.any Fp.isSnan = true ↔ Fp.nan true ∈ ts := by
  rw [List.any_eq_true]
  constructor
  · rintro ⟨t, ht, h⟩
    cases t with
    | nan s => exact (show s = true from h) ▸ ht
    | inf s => cases h
    | fin s m e => cases h
  · intro h
    exact ⟨_, h, rfl⟩

theorem any_inf_iff (ts : List Fp) (s : Bool) : ts.any (fun t => t.isInf && (t.neg == s)) = true ↔ Fp.inf s ∈ ts := by
  rw [List.any_eq_true]
  constructor
  · rintro ⟨t, ht, h⟩
    cases t with
    | nan r => cases h
    | inf r => exact (show r = s by simpa [Fp.isInf, Fp.neg] using h) ▸ ht
    | fin r m e => cases h
  · intro h
    exact ⟨_, h, by simp [Fp.isInf, Fp.neg]⟩

/-- Terms with infinities of both signs. -/
def Opposed (ts : List Fp) : Prop := Fp.inf true ∈ ts ∧ Fp.inf false ∈ ts

theorem opposed_iff (ts : List Fp) :
    (ts.any (fun t => t.isInf && t.neg) && ts.any (fun t => t.isInf && !t.neg)) = true ↔ Opposed ts := by
  rw [Bool.and_eq_true, Opposed, ← any_inf_iff, ← any_inf_iff]
  simp

theorem Format.sum_invalid {ts : List Fp} (h : Opposed ts ∨ Fp.nan true ∈ ts) : f.sum mode ts = (f.nan, flNV) := by
  have bad : (ts.any (fun t => t.isInf && t.neg) && ts.any (fun t => t.isInf && !t.neg) || ts.any Fp.isSnan) = true := by
    rw [Bool.or_eq_true, opposed_iff, any_snan_iff]
    exact h
  have special : (ts.any Fp.isNan || ts.any (fun t => t.isInf && t.neg) && ts.any (fun t => t.isInf && !t.neg)) = true := by
    rw [Bool.or_eq_true, opposed_iff, any_nan_iff]
    exact h.symm.imp (fun h => ⟨_, h⟩) id
  simp only [Format.sum, special, if_true, bad]
  rfl

theorem Format.sum_quiet {ts : List Fp} (opposed : ¬ Opposed ts) (signals : Fp.nan true ∉ ts) (h : Fp.nan false ∈ ts) :
    f.sum mode ts = (f.nan, 0) := by
  have fine : (ts.any (fun t => t.isInf && t.neg) && ts.any (fun t => t.isInf && !t.neg) || ts.any Fp.isSnan) = false := by
    rw [Bool.eq_false_iff, ne_eq, Bool.or_eq_true, opposed_iff, any_snan_iff]
    exact not_or.mpr ⟨opposed, signals⟩
  have special : (ts.any Fp.isNan || ts.any (fun t => t.isInf && t.neg) && ts.any (fun t => t.isInf && !t.neg)) = true := by
    rw [Bool.or_eq_true, any_nan_iff]
    exact .inl ⟨_, h⟩
  simp only [Format.sum, special, if_true, fine]
  rfl

theorem Format.sum_infinite {ts : List Fp} {s : Bool} (h : Fp.inf s ∈ ts) (opposed : ¬ Opposed ts)
    (numbers : ∀ q, Fp.nan q ∉ ts) : f.sum mode ts = (f.signOf s + f.big + 1, 0) := by
  have plain : (ts.any Fp.isNan || ts.any (fun t => t.isInf && t.neg) && ts.any (fun t => t.isInf && !t.neg)) = false := by
    rw [Bool.eq_false_iff, ne_eq, Bool.or_eq_true, opposed_iff, any_nan_iff]
    exact not_or.mpr ⟨fun ⟨q, hq⟩ => numbers q hq, opposed⟩
  obtain ⟨t, found⟩ := Option.isSome_iff_exists.mp (List.find?_isSome.mpr ⟨_, h, (rfl : Fp.isInf (.inf s) = true)⟩)
  have sign : t.neg = s := by
    have there := List.mem_of_find?_eq_some found
    have inf := List.find?_some found
    cases t with
    | nan r => cases inf
    | fin r m e => cases inf
    | inf r =>
      cases r <;> cases s
      · rfl
      · exact absurd ⟨h, there⟩ opposed
      · exact absurd ⟨there, h⟩ opposed
      · rfl
  simp only [Format.sum, plain, Bool.false_eq_true, if_false, found, sign]
  rfl

end Sum

/-! ### Products (R193) -/

theorem mul_inf {t : Bool} {b : Nat} {g : Int} (s : Bool) {x : Fp} (hx : x = .fin t b g ∨ x = .inf t)
    (h0 : x = .fin t b g → b ≠ 0) : (Fp.inf s).mul x = .inf (s != t) ∧ x.mul (.inf s) = .inf (t != s) := by
  rcases hx with rfl | rfl
  · obtain ⟨c, rfl⟩ := Nat.exists_eq_succ_of_ne_zero (h0 rfl)
    exact ⟨rfl, rfl⟩
  · exact ⟨rfl, rfl⟩

theorem mul_nan (s : Bool) (x : Fp) : (Fp.nan s).mul x = .nan (s || decide (x = .nan true)) ∧
    x.mul (.nan s) = .nan (s || decide (x = .nan true)) := by
  cases x with
  | nan t => cases s <;> cases t <;> exact ⟨rfl, rfl⟩
  | inf t => cases s <;> exact ⟨rfl, rfl⟩
  | fin t m e => cases s <;> exact ⟨rfl, rfl⟩

/-! ### Quotients (R237) -/

/-- The quotient's bits, one more than are asked for at least, and the rest. -/
theorem quotient_held {a b : Nat} (ha : a ≠ 0) (hb : b ≠ 0) (e g : Int) (bits : Nat) :
    HeldAs (quotient a b bits).1 ((quotient a b bits).2.1 + e - g) (quotient a b bits).2.2 (a * 2 ^ e / (b * 2 ^ g)) ∧
      bits < bitLen (quotient a b bits).1 := by
  have bpos : (0 : ℝ) < b := Nat.cast_pos.mpr (Nat.pos_of_ne_zero hb)
  unfold quotient
  dsimp only
  set k := bits + bitLen b with hk
  set w : ℝ := 2 ^ (-(k : ℤ) + e - g) with hw
  have wpos : 0 < w := by positivity
  have value : (a : ℝ) * 2 ^ e / (b * 2 ^ g) = (a * 2 ^ k : ℕ) / b * w := by
    rw [hw, zpow_sub₀ two_ne_zero, zpow_add₀ two_ne_zero, zpow_neg, zpow_natCast]
    push_cast
    field_simp
  have parts : ((a * 2 ^ k : ℕ) : ℝ) = b * (a * 2 ^ k / b : ℕ) + (a * 2 ^ k % b : ℕ) := by
    exact_mod_cast (Nat.div_add_mod (a * 2 ^ k) b).symm
  have rest : ((a * 2 ^ k % b : ℕ) : ℝ) < b := Nat.cast_lt.mpr (Nat.mod_lt _ (Nat.pos_of_ne_zero hb))
  refine ⟨⟨?_, ?_, ?_⟩, ?_⟩
  · rw [value]
    refine mul_le_mul_of_nonneg_right ((le_div_iff₀ bpos).mpr ?_) wpos.le
    rw [parts, mul_comm]
    exact le_add_of_nonneg_right (Nat.cast_nonneg _)
  · rw [value]
    refine mul_lt_mul_of_pos_right ((div_lt_iff₀ bpos).mpr ?_) wpos
    rw [parts, add_mul, one_mul, mul_comm]
    linarith
  · rw [value, mul_left_inj' wpos.ne', div_eq_iff bpos.ne', parts, mul_comm (b : ℝ), add_eq_left, Nat.cast_eq_zero, bne_eq_false_iff_eq]
  · have : 2 ^ bits ≤ a * 2 ^ k / b := by
      rw [Nat.le_div_iff_mul_le (Nat.pos_of_ne_zero hb)]
      calc 2 ^ bits * b ≤ 2 ^ bits * 2 ^ bitLen b := Nat.mul_le_mul_left _ (lt_two_pow_bitLen b).le
        _ = 2 ^ k := by rw [hk, pow_add]
        _ ≤ a * 2 ^ k := Nat.le_mul_of_pos_left _ (Nat.pos_of_ne_zero ha)
    exact (Nat.pow_lt_pow_iff_right one_lt_two).mp (this.trans_lt (lt_two_pow_bitLen _))

section Div
variable {f : Format} {mode : Rnd}

/-- An exact quotient is rounded once. -/
theorem Format.div_roundedTo (hmb : 1 ≤ f.mb) {a b : Nat} (ha : a ≠ 0) (hb : b ≠ 0) (s t : Bool) (e g : Int) :
    f.RoundedTo mode (s != t) (a * 2 ^ e / (b * 2 ^ g)) (f.div mode (.fin s a e) (.fin t b g)) := by
  obtain ⟨held, bits⟩ := quotient_held ha hb e g (f.mb + 4)
  have q0 : (quotient a b (f.mb + 4)).1 ≠ 0 := by
    intro h
    rw [h] at bits
    simp [bitLen] at bits
  simp only [Format.div, beq_eq_false_iff_ne.mpr ha, beq_eq_false_iff_ne.mpr hb, Bool.false_eq_true, if_false]
  exact Format.round_roundedTo_of_ne held q0 (fun _ => by omega) hmb

theorem signOf_bne (s t : Bool) : f.signOf (s != t) = if s = t then 0 else 2 ^ (f.width - 1) := by
  cases s <;> cases t <;> rfl

theorem Format.div_nan (s : Bool) (x : Fp) : f.div mode (.nan s) x = (f.nan, if s = true ∨ x = .nan true then flNV else 0) ∧
    f.div mode x (.nan s) = (f.nan, if s = true ∨ x = .nan true then flNV else 0) := by
  cases x with
  | nan t => cases s <;> cases t <;> exact ⟨rfl, rfl⟩
  | inf t => cases s <;> exact ⟨rfl, rfl⟩
  | fin t m e => cases s <;> exact ⟨rfl, rfl⟩

end Div

/-! ### The parts of O10 -/

/-- The formats whose elements are values by themselves (R181). -/
theorem formats_fit : ∀ f ∈ [fmtF32, fmtBf16, fmtF16, fmtE4m3, fmtE5m2, fmtE2m1], 1 ≤ f.mb ∧ 1 ≤ f.width := by decide

theorem elements_round (f : Format) (hmb : 1 ≤ f.mb) (hw : 1 ≤ f.width) (m : Rnd) (x : Nat) (hx : x < 2 ^ f.width) :
    let k := x % 2 ^ (f.width - 1)
    let neg := decide (2 ^ (f.width - 1) ≤ x)
    (∀ s, f.decode x = .nan s → f.ofFp m (f.decode x) = (f.nan, if s then flNV else 0)) ∧
    ((f.decode x).isNan = false → f.ofFp m (f.decode x) = (x, 0)) ∧
    (k ≤ f.big → ∃ n e, f.decode x = .fin neg n e ∧ (n : ℝ) * 2 ^ e = f.magOf k) ∧
    (f.hasInf = true → k = f.big + 1 → f.decode x = .inf neg) ∧
    ((if f.hasInf then f.big + 1 else f.big) < k →
      f.decode x = .nan (f.signals && decide (k % 2 ^ f.mb < 2 ^ (f.mb - 1)))) :=
  ⟨fun s h => by rw [h]; rfl, Format.ofFp_decode hx hw hmb m, Format.decode_finite hx, Format.decode_infinite hx,
    Format.decode_nan hx⟩

theorem sums_round (f : Format) (hmb : 1 ≤ f.mb) (m : Rnd) (ts : List (Bool × Nat × Int)) :
    let v := f.sum m (finTerms ts)
    let z := (ts.map (fun t => finReal t.1 t.2.1 t.2.2)).sum
    (∀ neg : Bool, z ≠ 0 → (neg = true ↔ z < 0) → f.RoundedTo m neg |z| v) ∧
    (z = 0 → ∀ neg : Bool, ts ≠ [] → (∀ t ∈ ts, t.2.1 = 0 ∧ t.1 = neg) → v = (f.signOf neg, 0)) ∧
    (z = 0 → (¬ ∃ neg, ∀ t ∈ ts, t.2.1 = 0 ∧ t.1 = neg) → v = (if m = .rd then 2 ^ (f.width - 1) else 0, 0)) :=
  ⟨fun _ => Format.sum_roundedTo hmb, fun h0 _ some_ => Format.sum_zeros some_ h0, Format.sum_cancels⟩

theorem special_sums (f : Format) (m : Rnd) (ts : List Fp) :
    (Opposed ts ∨ (∃ t ∈ ts, t = .nan true) → f.sum m ts = (f.nan, flNV)) ∧
    (¬ Opposed ts → Fp.nan true ∉ ts → Fp.nan false ∈ ts → f.sum m ts = (f.nan, 0)) ∧
    (∀ s, Fp.inf s ∈ ts → ¬ Opposed ts → (∀ q, Fp.nan q ∉ ts) → f.sum m ts = (f.signOf s + f.big + 1, 0)) := by
  refine ⟨fun h => Format.sum_invalid (h.imp id ?_), Format.sum_quiet, fun _ => Format.sum_infinite⟩
  rintro ⟨_, there, rfl⟩
  exact there

theorem quotients_round (f : Format) (hmb : 1 ≤ f.mb) (m : Rnd) (s t : Bool) (a b : Nat) (e g : Int) :
    let v := f.div m (.fin s a e) (.fin t b g)
    let sign := if s = t then 0 else 2 ^ (f.width - 1)
    (a ≠ 0 → b ≠ 0 → f.RoundedTo m (s != t) ((a : ℝ) * 2 ^ e / (b * 2 ^ g)) v) ∧
    (a ≠ 0 → b = 0 → v = (sign + f.big + 1, flDZ)) ∧ (a = 0 → b ≠ 0 → v = (sign, 0)) ∧
    (a = 0 → b = 0 → v = (f.nan, flNV)) ∧
    f.div m (.inf s) (.inf t) = (f.nan, flNV) ∧ f.div m (.inf s) (.fin t b g) = (sign + f.big + 1, 0) ∧
    f.div m (.fin s a e) (.inf t) = (sign, 0) := by
  dsimp only
  rw [← signOf_bne]
  refine ⟨fun ha hb => Format.div_roundedTo hmb ha hb s t e g, ?_, ?_, ?_, rfl, rfl, rfl⟩
  · rintro ha rfl
    simp only [Format.div, beq_self_eq_true, if_true, beq_eq_false_iff_ne.mpr ha, Bool.false_eq_true, if_false]
    rfl
  · rintro rfl hb
    simp only [Format.div, beq_self_eq_true, if_true, beq_eq_false_iff_ne.mpr hb, Bool.false_eq_true, if_false]
    rfl
  · rintro rfl rfl
    rfl

/-- Settles O10: elements by their codes, then magnitudes, sums, products and quotients. -/
theorem representableValuesRoundToThemselves : Obligations.RepresentableValuesRoundToThemselves := by
  unfold Obligations.RepresentableValuesRoundToThemselves
  refine ⟨fun f hf m x hx => ?_, fun f hf m neg n e => ?_, fun f hf m => ?_⟩
  · exact elements_round f (formats_fit f hf).1 (formats_fit f hf).2 m x hx
  · exact f.round_roundedTo (formats_fit f hf).1 m neg n e
  · have hmb : 1 ≤ f.mb := (formats_fit f (List.mem_append_left [fmtE4m3, fmtE5m2, fmtE2m1] hf)).1
    refine ⟨sums_round f hmb m, special_sums f m, fun s t a b e g => ⟨rfl, fun x => mul_inf s, ?_, mul_nan s, ?_⟩⟩
    · rintro rfl
      exact ⟨rfl, rfl⟩
    · obtain ⟨finite, byZero, zero, invalid, infs, inf, byInf⟩ := quotients_round f hmb m s t a b e g
      exact ⟨finite, byZero, zero, invalid, infs, inf, byInf, Format.div_nan s⟩

end Sys2Proof.Machine
end

section
/-! PROOF. O12: what conversions give (09 R193, R194, 11 R245, R247). -/

namespace Sys2Proof.Machine

open Sys2Proof

/-! ### Integers held in a width (R180, R193) -/

theorem intLo_le_intHi (sg : Bool) (w : Nat) : intLo sg w ≤ intHi sg w := by
  have := Nat.two_pow_pos w
  have := Nat.two_pow_pos (w - 1)
  unfold intLo intHi
  cases sg <;> simp only [Bool.false_eq_true, if_false, if_true] <;> omega

theorem clamp_eq {lo hi : Int} (h : lo ≤ hi) (x : Int) : clamp lo hi x = max lo (min hi x) := by
  unfold clamp
  split_ifs <;> omega

theorem wrap_lt (w : Nat) (z : Int) : wrap w z < 2 ^ w := by
  have := Nat.two_pow_pos w
  have := Int.emod_lt_of_pos z (show (0 : Int) < (2 ^ w : ℕ) by omega)
  have := Int.emod_nonneg z (show ((2 ^ w : ℕ) : Int) ≠ 0 by omega)
  unfold wrap
  omega

/-- An integer of a type is read back from its bits. -/
theorem ival_wrap {sg : Bool} {w : Nat} {z : Int} (hw : 1 ≤ w) (low : intLo sg w ≤ z) (high : z ≤ intHi sg w) :
    ival sg w (wrap w z) = z := by
  have halves : 2 ^ w = 2 * 2 ^ (w - 1) := by rw [← pow_succ', Nat.sub_add_cancel hw]
  have pos := Nat.two_pow_pos (w - 1)
  have bits : wrap w z % 2 ^ w = wrap w z := Nat.mod_eq_of_lt (wrap_lt w z)
  have value : (wrap w z : Int) = if z < 0 then z + (2 ^ w : ℕ) else z := by
    have range : -((2 ^ w : ℕ) : Int) ≤ z ∧ z < (2 ^ w : ℕ) := by
      unfold intLo intHi at *
      cases sg <;> simp only [Bool.false_eq_true, if_false, if_true] at low high <;> omega
    have nonneg := Int.emod_nonneg z (show ((2 ^ w : ℕ) : Int) ≠ 0 by omega)
    rw [wrap, Int.toNat_of_nonneg nonneg]
    split
    · rw [← Int.add_emod_right, Int.emod_eq_of_lt (by omega) (by omega)]
    · exact Int.emod_eq_of_lt (by omega) (by omega)
  cases sg with
  | false =>
    simp only [intLo, intHi, Bool.false_eq_true, if_false] at low high
    simp only [ival, Bool.false_eq_true, if_false, bits]
    rw [value, if_neg (by omega)]
  | true =>
    simp only [intLo, intHi, if_true] at low high
    simp only [ival, if_true, sval, bits]
    split at value <;> split <;> omega

/-! ### Conversions by the kinds of their formats -/

theorem fmtInt?_width {dst : Fmt} {v : Nat} {tg : Bool} (h : fmtInt? dst = some (v, tg)) : 1 ≤ v := by
  cases dst <;> simp only [fmtInt?, Option.some.injEq, Prod.mk.injEq, reduceCtorEq] at h <;> omega

theorem fmtFormat?_spec {dst : Fmt} {f : Format} (h : fmtFormat? dst = some f) :
    f ∈ [fmtF32, fmtBf16, fmtF16, fmtE4m3, fmtE5m2, fmtE2m1] ∧ fmtInt? dst = none ∧ (f == fmtE2m1) = decide (dst = .e2m1) := by
  cases dst <;> simp only [fmtFormat?, Option.some.injEq, reduceCtorEq] at h <;> subst h <;> decide

section Kinds
variable {dst src : Fmt} {mode : Rnd} {x : Nat}

theorem cvtElem_int_int {v w : Nat} {tg sg : Bool} (hd : fmtInt? dst = some (v, tg)) (hs : fmtInt? src = some (w, sg)) :
    cvtElem dst src mode none x = cvtElem.ext v tg (intToInt tg v (ival sg w x)) := by
  simp only [cvtElem, hd, hs]

theorem cvtElem_fp_int {v : Nat} {tg : Bool} (hd : fmtInt? dst = some (v, tg)) (hs : fmtInt? src = none) :
    cvtElem dst src mode none x = cvtElem.ext v tg (fpToInt mode tg v (srcFp src x)) := by
  simp only [cvtElem, hd, hs]

theorem cvtElem_int_fp {f : Format} {w : Nat} {sg : Bool} (hd : fmtFormat? dst = some f) (hs : fmtInt? src = some (w, sg)) :
    cvtElem dst src mode none x = intToFp f mode (ival sg w x) := by
  simp only [cvtElem, hd, hs, (fmtFormat?_spec hd).2.1]

theorem cvtElem_fp_fp {f : Format} (hd : fmtFormat? dst = some f) (hs : fmtInt? src = none) :
    cvtElem dst src mode none x = fpToFp f mode (srcFp src x) := by
  simp only [cvtElem, hd, hs, (fmtFormat?_spec hd).2.1]

theorem cvtElem_random {f : Format} {r : Nat} (hd : fmtFormat? dst = some f) (hs : fmtInt? src = none) :
    cvtElem dst src mode (some r) x = fpToFpSr f r (srcFp src x) := by
  simp only [cvtElem, hd, hs, (fmtFormat?_spec hd).2.1]

theorem cvtElem_e8m0 (hs : fmtInt? src = none) : cvtElem .e8m0 src mode none x = fpToE8m0 mode (srcFp src x) := by
  simp only [cvtElem, hs, show fmtInt? .e8m0 = none from rfl, show fmtFormat? .e8m0 = none from rfl]

end Kinds

/-! ### To integers (R193, R247) -/

/-- An integer of a type fills its register, with its sign if the type is signed. -/
theorem ext_fills {dst : Fmt} {v : Nat} {tg : Bool} (h : fmtInt? dst = some (v, tg)) {z : Int} (low : intLo tg v ≤ z)
    (high : z ≤ intHi tg v) (fl : Word) :
    (cvtElem.ext v tg (wrap v z, fl)).1 % 2 ^ max v 32 = wrap (max v 32) z ∧ (cvtElem.ext v tg (wrap v z, fl)).2 = fl := by
  unfold cvtElem.ext
  split
  · rw [ival_wrap (fmtInt?_width h) low high, max_eq_right (by omega)]
    exact ⟨Nat.mod_eq_of_lt (wrap_lt ..), rfl⟩
  · rw [max_eq_left (by omega)]
    exact ⟨Nat.mod_eq_of_lt (wrap_lt ..), rfl⟩

theorem ext_zero (v : Nat) (tg : Bool) (fl : Word) : cvtElem.ext v tg (0, fl) = (0, fl) := by
  have zero : ival tg v 0 = 0 := by cases tg <;> simp [ival, sval]
  unfold cvtElem.ext
  split
  · rw [zero]
    rfl
  · rfl

theorem clamp_range (sg : Bool) (w : Nat) (x : Int) : clamp (intLo sg w) (intHi sg w) x = max (intLo sg w) (min (intHi sg w) x) ∧
    intLo sg w ≤ clamp (intLo sg w) (intHi sg w) x ∧ clamp (intLo sg w) (intHi sg w) x ≤ intHi sg w := by
  have := intLo_le_intHi sg w
  rw [clamp_eq this]
  omega

/-- A magnitude rounded to whole units is, with its sign, the integer that the mode chooses. -/
theorem UnitsOf.intChosen {mode : Rnd} {neg : Bool} {x : ℝ} {k : Nat} {r : Nat × Bool} (units : UnitsOf mode neg x k r) :
    IntChosen mode (if neg then -x else x) (if neg then -(r.1 : Int) else r.1) := by
  obtain ⟨low, high, up, down, -⟩ := units
  have kpos : (0 : ℝ) ≤ k := Nat.cast_nonneg k
  have away : |(if neg then -x else x) - ((if neg then -(r.1 : Int) else (r.1 : Int) : Int) : ℝ)| = |x - r.1| := by
    cases neg with
    | false => simp
    | true =>
      simp only [if_true, Int.cast_neg, Int.cast_natCast]
      rw [← abs_neg]
      congr 1
      ring
  refine ⟨fun rne => ?_, fun rz => ?_, fun ru => ?_, fun rd => ?_⟩
  · subst rne
    rw [away]
    have parity : r.1 % 2 = 0 → (if neg then -(r.1 : Int) else (r.1 : Int)) % 2 = 0 := by split <;> omega
    by_cases t : takesUp .rne neg k (x - k)
    · rw [up t] at parity ⊢
      push_cast
      have half : 1 / 2 ≤ x - k := t.elim le_of_lt fun h => h.1.ge
      refine ⟨abs_le.mpr ⟨by linarith, by linarith⟩, fun tie => parity ?_⟩
      rcases t with more | ⟨-, odd⟩
      · rw [abs_of_nonpos (by linarith)] at tie
        linarith
      · omega
    · rw [down t] at parity ⊢
      obtain ⟨most, even⟩ := not_or.mp t
      rw [abs_of_nonneg (by linarith)]
      exact ⟨not_lt.mp most, fun tie => parity (Nat.mod_two_ne_one.mp fun odd => even ⟨tie, odd⟩)⟩
  · subst rz
    rw [down (by simp [takesUp])]
    cases neg with
    | false =>
      simp only [Bool.false_eq_true, if_false, Int.cast_natCast, abs_of_nonneg kpos, abs_of_nonneg (kpos.trans low)]
      exact ⟨low, high, mul_nonneg (kpos.trans low) kpos⟩
    | true =>
      simp only [if_true, Int.cast_neg, Int.cast_natCast, abs_neg, abs_of_nonneg kpos, abs_of_nonneg (kpos.trans low),
        neg_mul_neg]
      exact ⟨low, high, mul_nonneg (kpos.trans low) kpos⟩
  · subst ru
    cases neg with
    | true =>
      rw [down (by simp [takesUp])]
      simp only [if_true, Int.cast_neg, Int.cast_natCast]
      exact ⟨by linarith, by linarith⟩
    | false =>
      by_cases t : 0 < x - k
      · rw [up ⟨rfl, t⟩]
        simp only [Bool.false_eq_true, if_false]
        push_cast
        exact ⟨by linarith, by linarith⟩
      · rw [down fun h => t h.2]
        simp only [Bool.false_eq_true, if_false, Int.cast_natCast]
        exact ⟨by linarith, by linarith⟩
  · subst rd
    cases neg with
    | false =>
      rw [down (by simp [takesUp])]
      simp only [Bool.false_eq_true, if_false, Int.cast_natCast]
      exact ⟨by linarith, by linarith⟩
    | true =>
      by_cases t : 0 < x - k
      · rw [up ⟨rfl, t⟩]
        simp only [if_true]
        push_cast
        exact ⟨by linarith, by linarith⟩
      · rw [down fun h => t h.2]
        simp only [if_true, Int.cast_neg, Int.cast_natCast]
        exact ⟨by linarith, by linarith⟩

theorem finReal_eq (s : Bool) (m : Nat) (e : ℤ) : finReal s m e = if s then -(m * 2 ^ e : ℝ) else m * 2 ^ e := by
  cases s <;> simp [finReal]

theorem integers_to_integers {dst src : Fmt} {v w : Nat} {tg sg : Bool} (hd : fmtInt? dst = some (v, tg))
    (hs : fmtInt? src = some (w, sg)) (m : Rnd) (x : Nat) :
    let y := ival sg w x
    let z := max (intLo tg v) (min (intHi tg v) y)
    (cvtElem dst src m none x).1 % 2 ^ max v 32 = wrap (max v 32) z ∧
      (cvtElem dst src m none x).2 = if z = y then 0 else flCVS := by
  obtain ⟨same, low, high⟩ := clamp_range tg v (ival sg w x)
  dsimp only
  rw [cvtElem_int_int hd hs, ← same]
  obtain ⟨value, flags⟩ := ext_fills hd low high (raise (clamp (intLo tg v) (intHi tg v) (ival sg w x) != ival sg w x) flCVS)
  refine ⟨value, flags.trans ?_⟩
  simp only [raise, bne_iff_ne, ne_eq, ite_not]

theorem floats_to_integers {dst src : Fmt} {v : Nat} {tg : Bool} (hd : fmtInt? dst = some (v, tg)) (hs : fmtInt? src = none)
    (m : Rnd) (x : Nat) :
    let gives (z : Int) : Prop := (cvtElem dst src m none x).1 % 2 ^ max v 32 = wrap (max v 32) z
    match srcFp src x with
      | .nan _ => cvtElem dst src m none x = (0, flNV)
      | .inf s => gives (if s then intLo tg v else intHi tg v) ∧ (cvtElem dst src m none x).2 = flCVS
      | .fin s k e => ∃ y, IntChosen m (finReal s k e) y ∧
          let z := max (intLo tg v) (min (intHi tg v) y)
          gives z ∧ (z ≠ y → (cvtElem dst src m none x).2 = flCVS) ∧
            (z = y → (finReal s k e = y → (cvtElem dst src m none x).2 = 0) ∧
              (finReal s k e ≠ y → (cvtElem dst src m none x).2 = flNX)) := by
  dsimp only
  rw [cvtElem_fp_int hd hs]
  cases srcFp src x with
  | nan q => exact ext_zero v tg flNV
  | inf s =>
    have := intLo_le_intHi tg v
    cases s with
    | true => exact ext_fills hd le_rfl this flCVS
    | false => exact ext_fills hd this le_rfl flCVS
  | fin s k e =>
    obtain ⟨j, units⟩ := roundTo_units (q := 0) m s (heldAs_self k e) nofun
    rw [zpow_zero, div_one] at units
    have chosen := units.intChosen
    have exact_ := units.exact_iff
    rw [← finReal_eq] at chosen
    simp only [fpToInt]
    generalize roundTo m s k e false 0 = r at chosen exact_
    have whole : r.2 = false ↔ finReal s k e = ((if s then -(r.1 : Int) else (r.1 : Int) : Int) : ℝ) := by
      rw [exact_, finReal_eq]
      cases s <;> simp
    generalize (if s then -(r.1 : Int) else (r.1 : Int)) = y at chosen whole
    obtain ⟨same, low, high⟩ := clamp_range tg v y
    obtain ⟨value, flags⟩ := ext_fills hd low high
      (if clamp (intLo tg v) (intHi tg v) y != y then flCVS else raise r.2 flNX)
    refine ⟨y, chosen, ?_⟩
    rw [← same]
    refine ⟨value, fun beyond => ?_, fun inside => ⟨fun h => ?_, fun h => ?_⟩⟩
    · rw [flags, if_pos (bne_iff_ne.mpr beyond)]
    · rw [flags, inside, if_neg (by simp), whole.mpr h]
      rfl
    · have lost : r.2 = true := Bool.eq_true_of_not_eq_false (mt whole.mp h)
      rw [flags, inside, if_neg (by simp), lost]
      rfl

/-! ### To floats, rounded once (R247) -/

section Floats
variable {dst src : Fmt} {f : Format} (hd : fmtFormat? dst = some f) (m : Rnd) (x : Nat)
include hd

theorem integers_to_floats {w : Nat} {sg : Bool} (hs : fmtInt? src = some (w, sg)) {neg : Bool}
    (sign : neg = true ↔ ival sg w x < 0) : f.RoundedTo m neg |(ival sg w x : ℝ)| (cvtElem dst src m none x) := by
  rw [cvtElem_int_fp hd hs, intToFp, show decide (ival sg w x < 0) = neg by rw [Bool.eq_iff_iff, sign, decide_eq_true_iff]]
  have rounded := f.round_roundedTo (formats_fit f (fmtFormat?_spec hd).1).1 m neg (ival sg w x).natAbs 0
  rwa [zpow_zero, mul_one, ← Int.cast_natCast, Int.natCast_natAbs, Int.cast_abs] at rounded

theorem floats_to_floats (hs : fmtInt? src = none) :
    match srcFp src x with
    | .nan s => cvtElem dst src m none x = if dst = .e2m1 then (0, flNV) else (f.nan, if s then flNV else 0)
    | .inf s => cvtElem dst src m none x = if f.hasInf then (f.signOf s + f.big + 1, 0) else (f.signOf s + f.big, flCVS)
    | .fin s k e => f.RoundedTo m s ((k : ℝ) * 2 ^ e) (cvtElem dst src m none x) := by
  rw [cvtElem_fp_fp hd hs]
  cases srcFp src x with
  | nan s =>
    simp only [fpToFp, (fmtFormat?_spec hd).2.2, decide_eq_true_eq]
    rfl
  | inf s => rfl
  | fin s k e => exact f.round_roundedTo (formats_fit f (fmtFormat?_spec hd).1).1 m s k e

end Floats

/-! ### To floats with a random word (R194) -/

section Random
variable {f : Format} {k : Nat} {e : ℤ}

/-- Rounding towards zero cuts. -/
theorem roundTo_rz {q : ℤ} (coarse : e < q) :
    roundTo .rz false k e false q = (k / 2 ^ (q - e).toNat, k % 2 ^ (q - e).toNat != 0) := by
  simp [roundTo, not_le.mpr coarse, roundUp]

/-- c is k * 2^e cut to the format's units, and whether something was lost; a is the code of that magnitude. -/
structure Format.CutAt (f : Format) (k : Nat) (e : ℤ) (c : Nat × Bool) (a : Nat) : Prop where
  here : f.magOf a = c.1 * 2 ^ f.unitExp k e
  next : f.magOf (a + 1) = (c.1 + 1) * 2 ^ f.unitExp k e
  low : f.magOf a ≤ k * 2 ^ e
  high : k * 2 ^ e < f.magOf (a + 1)
  exact_ : c.2 = false ↔ f.magOf a = k * 2 ^ e
  round : (f.round .rz false k e false).1 = min f.big a
  enc : fpToFpSr.encOf f c.1 (f.unitExp k e) = a

/-- A magnitude that is not zero is cut by rounding it towards zero. -/
theorem Format.cut_of_ne (h0 : k ≠ 0) : f.CutAt k e (roundTo .rz false k e false (f.unitExp k e))
    (f.unitCode k e (roundTo .rz false k e false (f.unitExp k e)).1) := by
  obtain ⟨E, j, least, hE, units, fits, normal, code⟩ := Format.units_of_held (f := f) (mode := .rz) (neg := false)
    (heldAs_self k e) h0 nofun
  obtain ⟨jHigh, jLow, here, next⟩ := Format.magOf_around least hE units fits normal
  have exact_ := Format.exact_iff_of_units least hE units fits normal
  have cut := units.down (by simp [takesUp])
  have enc := Format.encOf_units least hE jLow
  have rounded := Format.round_eq (mode := .rz) (neg := false) (sticky := false) (f := f) h0 (e := e)
    (by rw [cut]; exact jLow.imp id fun h => by omega)
  have qpos : (0 : ℝ) < 2 ^ f.unitExp k e := by positivity
  have single : ¬ (j == 2 ^ (f.mb + 1)) = true := mt beq_iff_eq.mp jHigh.ne
  dsimp only at rounded
  rw [code, cut] at rounded
  rw [cut] at exact_
  rw [if_neg single, if_neg single] at enc
  rw [code, cut]
  refine ⟨cut ▸ here, cut ▸ next, here ▸ (le_div_iff₀ qpos).mp units.low, next ▸ (div_lt_iff₀ qpos).mp units.high, exact_, ?_,
    cut ▸ enc⟩
  rw [rounded]
  split
  · have most := Format.overflow_eq (f := f) (mode := .rz) (neg := false)
    rw [min_eq_left (by omega)]
    cases hi : f.hasInf with
    | true =>
      rw [hi, if_pos rfl] at most
      exact (most.2.2 (.inl rfl)).trans (Nat.zero_add _)
    | false =>
      rw [hi, if_neg Bool.false_ne_true] at most
      exact (congrArg Prod.fst most).trans (Nat.zero_add _)
  · rw [min_eq_right (by omega)]
    exact Nat.zero_add _

/-- The part of a unit that is cut, in 2^-32 of the unit. -/
theorem floor_rest {q : ℤ} (coarse : e < q) :
    ⌊((k : ℝ) * 2 ^ e - (k / 2 ^ (q - e).toNat : ℕ) * 2 ^ q) / 2 ^ q * 2 ^ 32⌋ =
      (k % 2 ^ (q - e).toNat * 2 ^ 32 / 2 ^ (q - e).toNat : ℕ) := by
  set unit := 2 ^ (q - e).toNat with hu
  have upos : (0 : ℝ) < unit := by rw [hu]; positivity
  have epos : (0 : ℝ) < 2 ^ e := by positivity
  have scale : (2 : ℝ) ^ q = unit * 2 ^ e := by
    rw [hu, Nat.cast_pow, Nat.cast_ofNat, ← zpow_natCast, ← zpow_add₀ two_ne_zero]
    congr 1
    omega
  have parts : (k : ℝ) = unit * (k / unit : ℕ) + (k % unit : ℕ) := by exact_mod_cast (Nat.div_add_mod k unit).symm
  have value : ((k : ℝ) * 2 ^ e - (k / unit : ℕ) * 2 ^ q) / 2 ^ q * 2 ^ 32 = ((k % unit * 2 ^ 32 : ℕ) : ℝ) / (unit : ℕ) := by
    rw [scale, div_mul_eq_mul_div, div_eq_div_iff (by positivity) upos.ne']
    conv_lhs => rw [parts]
    push_cast
    ring
  rw [value, ← Int.natCast_floor_eq_floor (by positivity), Nat.floor_div_eq_div]

/-- The part of a unit above the cut, in 2^-32 of the unit. -/
def Format.restOf (f : Format) (k : Nat) (e : ℤ) : Nat :=
  k % 2 ^ (f.unitExp k e - e).toNat * 2 ^ 32 / 2 ^ (f.unitExp k e - e).toNat

/-- The code that a random word chooses from a cut one. -/
def Format.pickOf (f : Format) (r k : Nat) (e : ℤ) (a : Nat) : Nat :=
  if 2 ^ 32 ≤ r % 2 ^ 32 + f.restOf k e then a + 1 else a

variable {c : Nat × Bool} {a : Nat} (hc : c = roundTo .rz false k e false (f.unitExp k e)) (cut : f.CutAt k e c a)
include hc cut

/-- The random rounding, from the cut magnitude. -/
theorem fpToFpSr_eq (h0 : k ≠ 0) (r : Nat) (s : Bool) : fpToFpSr f r (.fin s k e) =
    if f.big ≤ a then (f.signOf s + f.big, flCVS ||| raise (c.2 || decide (f.big < a)) flNX)
    else if c.2 = false then (f.signOf s + a, 0)
    else (f.signOf s + f.pickOf r k e a, flNX ||| raise (decide (f.pickOf r k e a < 2 ^ f.mb)) flUF) := by
  have code : fpToFpSr f r (.fin s k e) =
      let code := (f.round .rz false k e false).1
      if f.big ≤ code then (f.signOf s + f.big, flCVS ||| raise (c.2 || f.big < fpToFpSr.encOf f c.1 (f.unitExp k e)) flNX)
      else if !c.2 then (f.signOf s + code, 0)
      else if f.big < f.pickOf r k e code then (f.signOf s + f.big, flCVS ||| flNX)
      else (f.signOf s + f.pickOf r k e code, flNX ||| raise (f.pickOf r k e code < 2 ^ f.mb) flUF) := by
    simp only [fpToFpSr, beq_eq_false_iff_ne.mpr h0, Bool.false_eq_true, if_false, hc]
    rfl
  rw [code]
  dsimp only
  rw [cut.round, cut.enc]
  rcases Nat.lt_or_ge a f.big with under | reaches
  · have within : ¬ f.big < f.pickOf r k e a := by unfold Format.pickOf; split <;> omega
    rw [min_eq_right under.le, if_neg (not_le.mpr under), if_neg (not_le.mpr under), if_neg within]
    cases c.2 <;> rfl
  · rw [min_eq_left reaches, if_pos le_rfl, if_pos reaches]

/-- From the largest finite magnitude on it is that one. -/
theorem fpToFpSr_past (h0 : k ≠ 0) (r : Nat) (s : Bool) (past : f.magOf f.big ≤ k * 2 ^ e) :
    (fpToFpSr f r (.fin s k e)).1 = f.signOf s + f.big ∧
      (k * 2 ^ e = f.magOf f.big → (fpToFpSr f r (.fin s k e)).2 = flCVS) ∧
      (k * 2 ^ e ≠ f.magOf f.big → (fpToFpSr f r (.fin s k e)).2 = flCVS ||| flNX) := by
  have reaches : f.big ≤ a := Nat.lt_succ_iff.mp (f.magOf_strictMono.lt_iff_lt.mp (past.trans_lt cut.high))
  have whole : (c.2 || decide (f.big < a)) = false ↔ (k : ℝ) * 2 ^ e = f.magOf f.big := by
    rw [Bool.or_eq_false_iff, cut.exact_, decide_eq_false_iff_not, not_lt]
    constructor
    · rintro ⟨same, most⟩
      rw [← same, le_antisymm most reaches]
    · intro same
      have most : a ≤ f.big := f.magOf_strictMono.le_iff_le.mp (same ▸ cut.low)
      exact ⟨le_antisymm most reaches ▸ same.symm, most⟩
  rw [fpToFpSr_eq hc cut h0, if_pos reaches]
  refine ⟨rfl, fun same => ?_, fun differs => ?_⟩
  · rw [whole.mpr same]
    rfl
  · rw [Bool.eq_true_of_not_eq_false (mt whole.mp differs)]
    rfl

/-- The part above the cut is that of the rule. -/
theorem floor_restOf (lost : c.2 = true) :
    ⌊((k : ℝ) * 2 ^ e - f.magOf a) / (f.magOf (a + 1) - f.magOf a) * 2 ^ 32⌋ = f.restOf k e := by
  have coarse : e < f.unitExp k e := not_le.mp fun h => by
    rw [hc, roundTo, if_pos h] at lost
    cases lost
  have gap : f.magOf (a + 1) - f.magOf a = 2 ^ f.unitExp k e := by rw [cut.here, cut.next]; ring
  have value := floor_rest (k := k) coarse
  rwa [show k / 2 ^ (f.unitExp k e - e).toNat = c.1 by rw [hc, roundTo_rz coarse], ← cut.here, ← gap] at value

/-- Below it, it is the cut magnitude or the next one. -/
theorem fpToFpSr_inside (h0 : k ≠ 0) (r : Nat) (s : Bool) (inside : k * 2 ^ e < f.magOf f.big) :
    let d := ⌊((k : ℝ) * 2 ^ e - f.magOf a) / (f.magOf (a + 1) - f.magOf a) * 2 ^ 32⌋
    let j := if 2 ^ 32 ≤ (r % 2 ^ 32 : ℕ) + d then a + 1 else a
    (fpToFpSr f r (.fin s k e)).1 = f.signOf s + j ∧ (k * 2 ^ e = f.magOf a → (fpToFpSr f r (.fin s k e)).2 = 0) ∧
      (k * 2 ^ e ≠ f.magOf a → (fpToFpSr f r (.fin s k e)).2 = if j < 2 ^ f.mb then flUF ||| flNX else flNX) := by
  have under : a < f.big := f.magOf_strictMono.lt_iff_lt.mp (cut.low.trans_lt inside)
  dsimp only
  rw [fpToFpSr_eq hc cut h0, if_neg (by omega)]
  cases lost : c.2 with
  | false =>
    have same := cut.exact_.mp lost
    have below : ¬ (2 : ℤ) ^ 32 ≤ (r % 2 ^ 32 : ℕ) := by omega
    rw [same, sub_self, zero_div, zero_mul, Int.floor_zero, add_zero, if_neg below, if_pos rfl]
    exact ⟨rfl, fun _ => rfl, fun differs => absurd rfl differs⟩
  | true =>
    have differs : (k : ℝ) * 2 ^ e ≠ f.magOf a := fun same => by simp [cut.exact_.mpr same.symm] at lost
    have pick : (if (2 : ℤ) ^ 32 ≤ (r % 2 ^ 32 : ℕ) + (f.restOf k e : ℤ) then a + 1 else a) = f.pickOf r k e a := by
      unfold Format.pickOf
      congr 1
      exact propext (by omega)
    rw [floor_restOf hc cut lost, pick, if_neg Bool.false_ne_true.symm]
    refine ⟨rfl, fun same => absurd same differs, fun _ => ?_⟩
    by_cases low : f.pickOf r k e a < 2 ^ f.mb
    · rw [if_pos low, decide_eq_true low]
      rfl
    · rw [if_neg low, decide_eq_false low]
      rfl

omit hc cut in
/-- A finite value is rounded by the random word. -/
theorem fpToFpSr_roundedBy (hbig : 1 ≤ f.big) (r : Nat) (s : Bool) : f.RoundedBy r s (k * 2 ^ e) (fpToFpSr f r (.fin s k e)) := by
  rcases eq_or_ne k 0 with rfl | h0
  · have positive {j : Nat} (h : 0 < j) : 0 < f.magOf j := f.magOf_zero ▸ f.magOf_strictMono h
    have below : ¬ (2 : ℤ) ^ 32 ≤ (r % 2 ^ 32 : ℕ) := by omega
    rw [Nat.cast_zero, zero_mul]
    refine ⟨0, f.magOf_zero.le, positive Nat.one_pos, fun past => absurd past (not_le.mpr (positive hbig)), fun _ => ?_⟩
    rw [f.magOf_zero, sub_self, zero_div, zero_mul, Int.floor_zero, add_zero, if_neg below]
    exact ⟨rfl, fun _ => rfl, fun differs => absurd rfl differs⟩
  · have cut := Format.cut_of_ne (f := f) (e := e) h0
    exact ⟨_, cut.low, cut.high, fpToFpSr_past rfl cut h0 r s, fpToFpSr_inside rfl cut h0 r s⟩

end Random

theorem formats_big : ∀ f ∈ [fmtF32, fmtBf16, fmtF16, fmtE4m3, fmtE5m2, fmtE2m1], 1 ≤ f.big := by decide

theorem floats_by_random_words {dst src : Fmt} {f : Format} (hd : fmtFormat? dst = some f) (hs : fmtInt? src = none) (m : Rnd)
    (x r : Nat) :
    match srcFp src x with
    | .nan _ => cvtElem dst src m (some r) x = (if dst = .e2m1 then 0 else f.nan, flNV)
    | .inf s => cvtElem dst src m (some r) x = (f.signOf s + f.big, if f.hasInf then flCVS else flCVS ||| flNX)
    | .fin s k e => f.RoundedBy r s ((k : ℝ) * 2 ^ e) (cvtElem dst src m (some r) x) := by
  rw [cvtElem_random hd hs]
  cases srcFp src x with
  | nan s => simp only [fpToFpSr, (fmtFormat?_spec hd).2.2, decide_eq_true_eq]
  | inf s =>
    simp only [fpToFpSr]
    cases f.hasInf <;> rfl
  | fin s k e => exact fpToFpSr_roundedBy (formats_big f (fmtFormat?_spec hd).1) r s

/-! ### To E8M0 and from it (R193, R247) -/

section E8m0
variable {k : Nat} {e : ℤ}

/-- The power of two at or below a magnitude is the magnitude where that has one bit. -/
theorem floorLog_power (h0 : k ≠ 0) : (2 : ℝ) ^ floorLog k e = (2 ^ (bitLen k - 1) : ℕ) * 2 ^ e := by
  have pos : 1 ≤ bitLen k := by unfold bitLen; split <;> omega
  rw [floorLog, show e + (bitLen k : ℤ) - 1 = (bitLen k - 1 : ℕ) + e by omega, zpow_add₀ two_ne_zero, zpow_natCast]
  push_cast
  rfl

theorem one_bit_iff (h0 : k ≠ 0) : (k == 2 ^ (bitLen k - 1)) = true ↔ (k : ℝ) * 2 ^ e = 2 ^ floorLog k e := by
  rw [beq_iff_eq, floorLog_power h0, mul_left_inj' (by positivity), Nat.cast_inj]

/-- No other power of two is the magnitude. -/
theorem eq_floorLog_of_power (h0 : k ≠ 0) {j : ℤ} (same : (k : ℝ) * 2 ^ e = 2 ^ j) : j = floorLog k e := by
  have low := (heldAs_self k e).top_le h0
  have high := (heldAs_self k e).lt_top
  rw [same, zpow_le_zpow_iff_right₀ one_lt_two] at low
  rw [same, zpow_lt_zpow_iff_right₀ one_lt_two] at high
  unfold floorLog
  omega

/-- A mode takes a magnitude to the power of two above it. -/
def e8m0Up (mode : Rnd) (k : Nat) : Bool :=
  !(k == 2 ^ (bitLen k - 1)) && match mode with
    | .rz | .rd => false
    | .ru => true
    | .rne => decide (3 * 2 ^ (bitLen k - 1) ≤ 2 * k)

theorem e8m0Up_iff (h0 : k ≠ 0) (mode : Rnd) : e8m0Up mode k = true ↔ (k : ℝ) * 2 ^ e ≠ 2 ^ floorLog k e ∧
    (mode = .ru ∨ mode = .rne ∧ 3 * (2 : ℝ) ^ floorLog k e ≤ 2 * (k * 2 ^ e)) := by
  have halfway : 3 * 2 ^ (bitLen k - 1) ≤ 2 * k ↔ 3 * (2 : ℝ) ^ floorLog k e ≤ 2 * (k * 2 ^ e) := by
    rw [floorLog_power h0, ← mul_assoc, ← mul_assoc, mul_le_mul_iff_left₀ (by positivity)]
    exact_mod_cast Iff.rfl
  unfold e8m0Up
  rw [Bool.and_eq_true, Bool.not_eq_true', ← Bool.not_eq_true, one_bit_iff (e := e) h0, ← halfway]
  cases mode <;> simp

/-- The exponent that the mode chooses. -/
def e8m0Exp (mode : Rnd) (k : Nat) (e : ℤ) : ℤ := if e8m0Up mode k then floorLog k e + 1 else floorLog k e

theorem e8m0Exp_range (h0 : k ≠ 0) (mode : Rnd) : let j := e8m0Exp mode k e; let z : ℝ := k * 2 ^ e
    (mode = .rz ∨ mode = .rd → (2 : ℝ) ^ j ≤ z ∧ z < 2 ^ (j + 1)) ∧ (mode = .ru → (2 : ℝ) ^ (j - 1) < z ∧ z ≤ 2 ^ j) ∧
      (mode = .rne → 3 * (2 : ℝ) ^ j ≤ 4 * z ∧ 2 * z < 3 * 2 ^ j) := by
  have low : (2 : ℝ) ^ floorLog k e ≤ k * 2 ^ e := (heldAs_self k e).top_le h0
  have high : (k : ℝ) * 2 ^ e < 2 ^ (floorLog k e + 1) := (heldAs_self k e).lt_top
  have next : (2 : ℝ) ^ (floorLog k e + 1) = 2 * 2 ^ floorLog k e := by rw [zpow_add_one₀ two_ne_zero, mul_comm]
  have prev : (2 : ℝ) ^ (floorLog k e - 1) = 2 ^ floorLog k e / 2 := zpow_sub_one₀ two_ne_zero _
  have pos : (0 : ℝ) < 2 ^ floorLog k e := by positivity
  have up_iff := e8m0Up_iff (e := e) h0 mode
  dsimp only
  unfold e8m0Exp
  by_cases up : e8m0Up mode k = true
  · obtain ⟨differs, takes⟩ := up_iff.mp up
    rw [if_pos up, add_sub_cancel_right, next]
    rw [next] at high
    refine ⟨fun down => ?_, fun _ => ⟨lt_of_le_of_ne low differs.symm, high.le⟩, fun rne => ?_⟩
    · rcases takes with rfl | ⟨rfl, -⟩ <;> simp at down
    · obtain ⟨-, half⟩ := takes.resolve_left (by simp [rne])
      exact ⟨by linarith, by linarith⟩
  · have stays := mt up_iff.mpr up
    rw [if_neg up, prev]
    refine ⟨fun _ => ⟨low, high⟩, fun ru => ?_, fun rne => ?_⟩
    · have same : (k : ℝ) * 2 ^ e = 2 ^ floorLog k e := by_contra fun differs => stays ⟨differs, .inl ru⟩
      exact ⟨by linarith, same.le⟩
    · refine ⟨by linarith, ?_⟩
      by_contra! half
      exact stays ⟨fun same => by linarith, .inr ⟨rne, half⟩⟩

/-- A positive value is the power of two that the mode chooses, held within the codes. -/
theorem fpToE8m0_of_pos (h0 : k ≠ 0) (mode : Rnd) :
    E8m0Of mode ((k : ℝ) * 2 ^ e) (fpToE8m0 mode (.fin false k e)) := by
  have code : fpToE8m0 mode (.fin false k e) =
      let j := e8m0Exp mode k e
      let h := clamp (-127) 127 j
      ((h + 127).toNat, raise (!(k == 2 ^ (bitLen k - 1)) || h != j) flNX ||| raise (h != j) flCVS) := by
    simp only [fpToE8m0, beq_eq_false_iff_ne.mpr h0, Bool.false_eq_true, if_false]
    rfl
  obtain ⟨down, up, nearest⟩ := e8m0Exp_range (e := e) h0 mode
  rw [code]
  dsimp only
  rw [clamp_eq (by decide)]
  refine ⟨e8m0Exp mode k e, down, up, nearest, rfl, fun beyond => ?_, fun inside => ⟨fun same => ?_, fun differs => ?_⟩⟩
  · rw [bne_iff_ne.mpr beyond, Bool.or_true]
    rfl
  · rw [inside, bne_self_eq_false, (one_bit_iff h0).mpr (same.trans (congrArg _ (eq_floorLog_of_power h0 same)))]
    rfl
  · have bits : (k == 2 ^ (bitLen k - 1)) = false := by
      refine Bool.eq_false_iff.mpr fun one => differs ?_
      have stays : e8m0Up mode k = false := by simp only [e8m0Up, one, Bool.not_true, Bool.false_and]
      rw [e8m0Exp, stays]
      exact (one_bit_iff h0).mp one
    rw [inside, bne_self_eq_false, bits]
    rfl

end E8m0

theorem floats_to_e8m0 {src : Fmt} (hs : fmtInt? src = none) (x : Nat) (m : Rnd) :
    match srcFp src x with
    | .nan _ => cvtElem .e8m0 src m none x = (0xFF, flNV)
    | .inf s => cvtElem .e8m0 src m none x = if s then (0xFF, flNV) else (0xFE, flCVS)
    | .fin s k e => (k = 0 → cvtElem .e8m0 src m none x = (0, flUF ||| flNX)) ∧
        (k ≠ 0 → s = true → cvtElem .e8m0 src m none x = (0xFF, flNV)) ∧
        (k ≠ 0 → s = false → E8m0Of m ((k : ℝ) * 2 ^ e) (cvtElem .e8m0 src m none x)) := by
  rw [cvtElem_e8m0 hs]
  cases srcFp src x with
  | nan s => rfl
  | inf s => rfl
  | fin s k e =>
    refine ⟨?_, ?_, ?_⟩
    · rintro rfl
      rfl
    · rintro h0 rfl
      simp only [fpToE8m0, beq_eq_false_iff_ne.mpr h0, Bool.false_eq_true, if_false, if_true]
    · rintro h0 rfl
      exact fpToE8m0_of_pos h0 m

/-- A power of two that E8M0 has is one of FP32, the least a subnormal one. -/
theorem e8m0_to_f32 (x : Nat) (m : Rnd) : cvtElem .f32 .e8m0 m none x =
    if x % 256 = 255 then (0x7FC00000, 0) else if x % 256 = 0 then (0x00400000, 0) else (x % 256 * 2 ^ 23, 0) := by
  rw [cvtElem_fp_fp rfl rfl, show srcFp .e8m0 x = decodeE8m0 x from rfl, decodeE8m0]
  by_cases nan : x % 256 = 255
  · rw [if_pos nan, if_pos (beq_iff_eq.mpr nan)]
    rfl
  · rw [if_neg nan, if_neg (mt beq_iff_eq.mp nan)]
    have rounded := fmtF32.round_roundedTo (by decide) m false 1 ((x % 256 : ℕ) - 127)
    rw [Nat.cast_one, one_mul] at rounded
    by_cases least : x % 256 = 0
    · rw [if_pos least]
      have power : (2 : ℝ) ^ (((x % 256 : ℕ) : ℤ) - 127) = fmtF32.magOf 0x00400000 := by
        rw [least, fmtF32.magOf_low (by decide)]
        norm_num [fmtF32, zpow_neg]
      rw [power] at rounded
      exact rounded.eq_of_magOf (by decide)
    · rw [if_neg least]
      have power : (2 : ℝ) ^ (((x % 256 : ℕ) : ℤ) - 127) = fmtF32.magOf (x % 256 * 2 ^ 23) := by
        have binade := fmtF32.magOf_binade (E := x % 256) (j := 0) (by omega) (Nat.zero_le _)
        rw [Nat.add_zero, Nat.add_zero, Nat.cast_pow, Nat.cast_ofNat, ← zpow_natCast, ← zpow_add₀ two_ne_zero] at binade
        refine Eq.trans ?_ binade.symm
        congr 1
        simp only [fmtF32]
        omega
      rw [power] at rounded
      refine (rounded.eq_of_magOf ?_).trans (congrArg (·, 0) (Nat.zero_add _))
      simp only [fmtF32]
      omega

/-- Settles O12: by the kinds of the two formats. -/
theorem conversionsToIntegersSaturate : Obligations.ConversionsToIntegersSaturate := by
  unfold Obligations.ConversionsToIntegersSaturate
  refine ⟨fun dst src v tg x m hd => ⟨fun w sg hs => integers_to_integers hd hs m x, fun hs => floats_to_integers hd hs m x⟩,
    fun dst src f x m hd => ⟨fun w sg hs neg sign => integers_to_floats hd m x hs sign, fun hs => floats_to_floats hd m x hs,
      fun hs r => floats_by_random_words hd hs m x r⟩,
    fun src x m hs => floats_to_e8m0 hs x m, e8m0_to_f32⟩

end Sys2Proof.Machine
end

section
/-! PROOF. O7: WRED combines the lanes by the tree of R200, WSCAN from the first lane on (09 R200, R201, 10 R220). -/

namespace Sys2Proof.Machine

open Sys2Proof

/-! ### Bit patterns of a width -/

/-- A number of a width is the pattern of its bits. -/
theorem bitsOf_eq {w n : Nat} {p : Nat → Bool} (hn : n < 2 ^ w) (h : ∀ j, n.testBit j = p j) : bitsOf w p = n := by
  induction w generalizing n p with
  | zero =>
    obtain rfl : n = 0 := by omega
    rfl
  | succ w ih =>
    have rest : bitsOf w (fun j => p (j + 1)) = n / 2 :=
      ih (by rw [pow_succ] at hn; omega) fun j => by rw [← h, Nat.testBit_succ]
    have first : (p 0).toNat = n % 2 := by
      rw [← h, Nat.testBit_zero]
      rcases Nat.mod_two_eq_zero_or_one n with e | e <;> simp [e]
    have split_ : bitsOf (w + 1) p = (p 0).toNat + 2 * bitsOf w (fun j => p (j + 1)) := by
      rw [bitsOf, List.range_succ_eq_map, List.foldr_cons, List.foldr_map]
      rfl
    rw [split_, rest, first]
    omega

/-! ### One combination (R200, R220) -/

section Combine
variable {op : RedKind} {ty : RedTy}

theorem redLegal_of_ne (h : ty ≠ .f32) : redLegal op ty := fun e => absurd e h

/-- Combinations of integers, kind by kind. -/
theorem redOp_int (h : ty ≠ .f32) (x y : Nat) : redOp op ty x y =
    match op with
    | .add => ((x + y) % 2 ^ redWidth ty, 0)
    | .min => (if ival (redSigned ty) (redWidth ty) x < ival (redSigned ty) (redWidth ty) y then x else y, 0)
    | .max => (if ival (redSigned ty) (redWidth ty) y < ival (redSigned ty) (redWidth ty) x then x else y, 0)
    | .and => (x &&& y, 0)
    | .or => (x ||| y, 0)
    | .xor => (x ^^^ y, 0) := by
  cases ty with
  | f32 => exact absurd rfl h
  | _ => cases op <;> simp [redOp]

theorem redSigned_eq (ty : RedTy) : redSigned ty = decide (ty = .i32 ∨ ty = .i64) := by cases ty <;> rfl

/-- The combination of the statements is the model's, of values that fit the type. -/
theorem combine_eq_redOp (legal : redLegal op ty) {x y : Nat} (hx : x < 2 ^ redWidth ty) (hy : y < 2 ^ redWidth ty) :
    combine op ty x y = redOp op ty x y := by
  by_cases float : ty = .f32
  · subst float
    rcases legal rfl with rfl | rfl | rfl
    · rfl
    · exact (fminmaxElem_eq_lesser (f := fmtF32) false hx hy).symm
    · exact (fminmaxElem_eq_lesser (f := fmtF32) true hx hy).symm
  · rw [redOp_int float]
    simp only [combine, redSigned_eq]
    cases op with
    | add => exact if_neg float
    | min => exact if_neg float
    | max => exact if_neg float
    | and => exact congrArg (·, 0) (bitsOf_eq (Nat.and_lt_two_pow _ hy) fun j => Nat.testBit_and ..)
    | or => exact congrArg (·, 0) (bitsOf_eq (Nat.or_lt_two_pow hx hy) fun j => Nat.testBit_or ..)
    | xor => exact congrArg (·, 0) (bitsOf_eq (Nat.xor_lt_two_pow hx hy) fun j => Nat.testBit_xor ..)

/-- FP32 sums are FP32 words. -/
theorem round_lt (neg : Bool) (m : Nat) (e : ℤ) : (fmtF32.round .rne neg m e false).1 < 2 ^ 32 := by
  obtain ⟨k, -, within, past⟩ := fmtF32.round_roundedTo (by decide) .rne neg m e
  have sign : (if neg then 2 ^ (fmtF32.width - 1) else 0) ≤ 2 ^ 31 := by cases neg <;> decide
  have big : fmtF32.big = 0x7F7FFFFF := rfl
  rcases Nat.lt_or_ge fmtF32.big k with infinite | finite
  · rw [(past infinite).2.1 (.inl rfl)]
    omega
  · rw [(within finite).1]
    omega

theorem sum_lt (ts : List Fp) : (fmtF32.sum .rne ts).1 < 2 ^ 32 := by
  have word (neg : Bool) : (if neg then fmtF32.sbit else 0) + fmtF32.infEnc < 2 ^ 32 ∧ fmtF32.zero neg < 2 ^ 32 := by
    cases neg <;> decide
  unfold Format.sum
  dsimp only
  split
  · exact (show fmtF32.nan < 2 ^ 32 by decide)
  · split
    · exact (word _).1
    · split
      · exact (word _).2
      · exact round_lt ..

theorem lesser_lt {x y p q : Nat} (hx : x < 2 ^ 32) (hy : y < 2 ^ 32) (hp : p < 2 ^ 32) (hq : q < 2 ^ 32) :
    (lesser fmtF32 x y p q).1 < 2 ^ 32 := by
  unfold lesser
  dsimp only
  generalize (if (fmtF32.decode x).isSnan || (fmtF32.decode y).isSnan then flNV else 0) = nv
  split_ifs
  · exact (show fmtF32.nan < 2 ^ 32 by decide)
  · exact hy
  · exact hx
  · exact hp
  · exact hq

/-- A combination fits the type. -/
theorem combine_lt (legal : redLegal op ty) {x y : Nat} (hx : x < 2 ^ redWidth ty) (hy : y < 2 ^ redWidth ty) :
    (combine op ty x y).1 < 2 ^ redWidth ty := by
  by_cases float : ty = .f32
  · subst float
    rcases legal rfl with rfl | rfl | rfl
    · exact sum_lt _
    · exact lesser_lt hx hy hx hy
    · exact lesser_lt hx hy hy hx
  · rw [combine_eq_redOp legal hx hy, redOp_int float]
    cases op with
    | add => exact Nat.mod_lt _ (Nat.two_pow_pos _)
    | min => dsimp only; split <;> assumption
    | max => dsimp only; split <;> assumption
    | and => exact Nat.and_lt_two_pow _ hy
    | or => exact Nat.or_lt_two_pow hx hy
    | xor => exact Nat.xor_lt_two_pow hx hy

/-- Combinations of integers raise no flag, and may be made in any grouping. -/
theorem combine_flags (h : ty ≠ .f32) (x y : Nat) : (combine op ty x y).2 = 0 := by
  cases op <;> simp [combine, h]

/-- Of equal values the later one is kept, so the least of three may be found in either grouping. -/
theorem least_assoc (f : Nat → Int) (x y z : Nat) :
    (if f (if f x < f y then x else y) < f z then (if f x < f y then x else y) else z) =
      if f x < f (if f y < f z then y else z) then x else (if f y < f z then y else z) := by
  by_cases xy : f x < f y
  · by_cases yz : f y < f z
    · rw [if_pos xy, if_pos yz, if_pos xy, if_pos (xy.trans yz)]
    · rw [if_pos xy, if_neg yz]
  · by_cases yz : f y < f z
    · rw [if_neg xy, if_pos yz, if_neg xy]
    · rw [if_neg xy, if_neg yz, if_neg (by omega)]

theorem redOp_assoc (h : ty ≠ .f32) (x y z : Nat) :
    (redOp op ty (redOp op ty x y).1 z).1 = (redOp op ty x (redOp op ty y z).1).1 := by
  simp only [redOp_int h]
  cases op with
  | add => simp only [Nat.mod_add_mod, Nat.add_mod_mod, Nat.add_assoc]
  | min => exact least_assoc _ x y z
  | max =>
    simpa only [neg_lt_neg_iff] using least_assoc (fun a => -ival (redSigned ty) (redWidth ty) a) x y z
  | and => exact Nat.and_assoc ..
  | or => exact Nat.or_assoc ..
  | xor => exact Nat.xor_assoc ..

theorem combine_assoc (h : ty ≠ .f32) {x y z : Nat} (hx : x < 2 ^ redWidth ty) (hy : y < 2 ^ redWidth ty)
    (hz : z < 2 ^ redWidth ty) :
    (combine op ty (combine op ty x y).1 z).1 = (combine op ty x (combine op ty y z).1).1 := by
  have legal := redLegal_of_ne (op := op) h
  rw [combine_eq_redOp legal (combine_lt legal hx hy) hz, combine_eq_redOp legal hx (combine_lt legal hy hz),
    combine_eq_redOp legal hx hy, combine_eq_redOp legal hy hz, redOp_assoc h]

/-- The identity without lanes is that of the table of R200. -/
theorem redIdentity_eq (legal : redLegal op ty) : redIdentity op ty = neutral op ty := by
  cases ty with
  | f32 => rcases legal rfl with rfl | rfl | rfl <;> rfl
  | _ => cases op <;> rfl

end Combine

/-! ### The tree (R200) -/

/-- Flags that are all clear leave none. -/
theorem foldr_or_zero {α : Type} {f : α → Word} {l : List α} (h : ∀ x ∈ l, f x = 0) : l.foldr (fun x y => f x ||| y) 0 = 0 := by
  induction l with
  | nil => rfl
  | cons a l ih =>
    rw [List.foldr_cons, h a List.mem_cons_self, ih fun x hx => h x (List.mem_cons_of_mem _ hx)]
    rfl

/-- The flags of n places together. -/
def flagsOf (n : Nat) (fl : Nat → Word) : Word := (List.range n).foldr (fun i x => fl i ||| x) 0

theorem flagsOf_succ (n : Nat) (fl : Nat → Word) : flagsOf (n + 1) fl = fl 0 ||| flagsOf n (fun i => fl (i + 1)) := by
  rw [flagsOf, List.range_succ_eq_map, List.foldr_cons, List.foldr_map]
  rfl

theorem flagsOf_zero (n : Nat) : flagsOf n (fun _ => 0) = 0 := foldr_or_zero fun _ _ => rfl

theorem flagsOf_or (n : Nat) (f g : Nat → Word) : flagsOf n (fun i => f i ||| g i) = flagsOf n f ||| flagsOf n g := by
  induction n generalizing f g with
  | zero => exact BitVec.or_zero.symm
  | succ n ih => simp only [flagsOf_succ, ih]; ac_rfl

/-- Places in pairs. -/
theorem flagsOf_double (n : Nat) (f : Nat → Word) : flagsOf (2 * n) f = flagsOf n (fun i => f (2 * i) ||| f (2 * i + 1)) := by
  induction n generalizing f with
  | zero => rfl
  | succ n ih =>
    rw [Nat.mul_succ, flagsOf_succ, flagsOf_succ, ih, flagsOf_succ]
    exact (BitVec.or_assoc ..).symm

section Tree
variable {op : RedKind} {ty : RedTy}

/-- Two places combine; an absent one gives way. -/
def redJoin (op : RedKind) (ty : RedTy) : Option Nat → Option Nat → Option Nat × Word
  | some x, some y => (some (redOp op ty x y).1, (redOp op ty x y).2)
  | some x, none => (some x, 0)
  | none, y => (y, 0)

theorem redLevel_cons (x y : Option Nat) (rest : List (Option Nat)) : redLevel op ty (x :: y :: rest) =
    ((redJoin op ty x y).1 :: (redLevel op ty rest).1, (redJoin op ty x y).2 ||| (redLevel op ty rest).2) := by
  cases x with
  | none => exact congrArg (Prod.mk _) (BitVec.zero_or).symm
  | some u =>
    cases y with
    | none => exact congrArg (Prod.mk _) (BitVec.zero_or).symm
    | some v => rfl

/-- A level of the tree joins the places in pairs. -/
theorem redLevel_map (g : Nat → Option Nat) (n : Nat) : redLevel op ty ((List.range (2 * n)).map g) =
    ((List.range n).map (fun i => (redJoin op ty (g (2 * i)) (g (2 * i + 1))).1),
      flagsOf n (fun i => (redJoin op ty (g (2 * i)) (g (2 * i + 1))).2)) := by
  induction n generalizing g with
  | zero => rfl
  | succ n ih =>
    have pairs : (List.range (2 * (n + 1))).map g = g 0 :: g 1 :: (List.range (2 * n)).map (fun i => g (i + 2)) := by
      rw [Nat.mul_succ, List.range_succ_eq_map, List.range_succ_eq_map]
      simp [Function.comp_def]
    rw [pairs, redLevel_cons, ih, flagsOf_succ, List.range_succ_eq_map, List.map_cons, List.map_map]
    rfl

section Lanes
variable {lane : Nat → Option Nat} (legal : redLegal op ty) (fits : ∀ i v, lane i = some v → v < 2 ^ redWidth ty)
include legal fits

/-- Values of the tree fit the type. -/
theorem treeNode_lt (k i v : Nat) (h : (treeNode op ty lane k i).1 = some v) : v < 2 ^ redWidth ty := by
  induction k generalizing i v with
  | zero => exact fits i v h
  | succ k ih =>
    simp only [treeNode] at h
    split at h
    · exact ih _ _ h
    · rename_i left _
      exact ih _ _ (left.trans h)
    · rename_i left right
      obtain rfl := Option.some.inj h
      exact combine_lt legal (ih _ _ left) (ih _ _ right)

/-- A node joins the two below it. -/
theorem treeNode_succ (k i : Nat) : treeNode op ty lane (k + 1) i =
    ((redJoin op ty (treeNode op ty lane k (2 * i)).1 (treeNode op ty lane k (2 * i + 1)).1).1,
      (redJoin op ty (treeNode op ty lane k (2 * i)).1 (treeNode op ty lane k (2 * i + 1)).1).2 |||
        ((treeNode op ty lane k (2 * i)).2 ||| (treeNode op ty lane k (2 * i + 1)).2)) := by
  have left := treeNode_lt legal fits k (2 * i)
  have right := treeNode_lt legal fits k (2 * i + 1)
  simp only [treeNode]
  generalize treeNode op ty lane k (2 * i) = x at left
  generalize treeNode op ty lane k (2 * i + 1) = y at right
  obtain ⟨x, fx⟩ := x
  obtain ⟨y, fy⟩ := y
  cases x with
  | none => exact congrArg (Prod.mk _) (BitVec.zero_or).symm
  | some u =>
    cases y with
    | none => exact congrArg (Prod.mk _) (BitVec.zero_or).symm
    | some v =>
      simp only [redJoin, combine_eq_redOp legal (left u rfl) (right v rfl), BitVec.or_assoc]

/-- The model's levels make the tree: from level k on, with the flags under that level. -/
theorem redTree_eq (n k : Nat) :
    (redTree op ty n ((List.range (2 ^ n)).map (fun i => (treeNode op ty lane k i).1))).1 = (treeNode op ty lane (k + n) 0).1 ∧
    (redTree op ty n ((List.range (2 ^ n)).map (fun i => (treeNode op ty lane k i).1))).2 |||
      flagsOf (2 ^ n) (fun i => (treeNode op ty lane k i).2) = (treeNode op ty lane (k + n) 0).2 := by
  induction n generalizing k with
  | zero => exact ⟨rfl, (BitVec.zero_or).trans (BitVec.or_zero)⟩
  | succ n ih =>
    obtain ⟨value, flags⟩ := ih (k + 1)
    have next : (fun i => (treeNode op ty lane (k + 1) i).1) = fun i =>
        (redJoin op ty (treeNode op ty lane k (2 * i)).1 (treeNode op ty lane k (2 * i + 1)).1).1 :=
      funext fun i => by rw [treeNode_succ legal fits]
    have raised : (fun i => (treeNode op ty lane (k + 1) i).2) = fun i =>
        (redJoin op ty (treeNode op ty lane k (2 * i)).1 (treeNode op ty lane k (2 * i + 1)).1).2 |||
          ((treeNode op ty lane k (2 * i)).2 ||| (treeNode op ty lane k (2 * i + 1)).2) :=
      funext fun i => by rw [treeNode_succ legal fits]
    rw [Nat.add_right_comm] at value flags
    rw [next] at value flags
    rw [raised, flagsOf_or] at flags
    simp only [redTree]
    rw [Nat.pow_succ', redLevel_map, flagsOf_double]
    refine ⟨value, ?_⟩
    rw [← Nat.add_assoc, ← flags]
    dsimp only
    ac_rfl

end Lanes
end Tree

/-! ### Values in their order (R200, R201) -/

section Combined
variable {op : RedKind} {ty : RedTy}

theorem combined_append_one (op : RedKind) (ty : RedTy) {l : List Nat} (some_ : l ≠ []) (v : Nat) :
    combined op ty (l ++ [v]) = (combine op ty (combined op ty l) v).1 := by
  cases l with
  | nil => exact absurd rfl some_
  | cons a rest => simp [combined]

theorem combined_lt (legal : redLegal op ty) {l : List Nat} (some_ : l ≠ []) (fits : ∀ v ∈ l, v < 2 ^ redWidth ty) :
    combined op ty l < 2 ^ redWidth ty := by
  induction l using List.reverseRecOn with
  | nil => exact absurd rfl some_
  | append_singleton l v ih =>
    rcases eq_or_ne l [] with rfl | more
    · exact fits v (by simp)
    · rw [combined_append_one op ty more]
      exact combine_lt legal (ih more fun u hu => fits u (by simp [hu])) (fits v (by simp))

/-- Integers may be combined in two parts. -/
theorem combined_append (int : ty ≠ .f32) {l r : List Nat} (hl : l ≠ []) (hr : r ≠ []) (fitsL : ∀ v ∈ l, v < 2 ^ redWidth ty)
    (fitsR : ∀ v ∈ r, v < 2 ^ redWidth ty) :
    combined op ty (l ++ r) = (combine op ty (combined op ty l) (combined op ty r)).1 := by
  have legal := redLegal_of_ne (op := op) int
  induction r using List.reverseRecOn with
  | nil => exact absurd rfl hr
  | append_singleton r v ih =>
    rcases eq_or_ne r [] with rfl | more
    · exact combined_append_one op ty hl v
    · have fits (u) (hu : u ∈ r) : u < 2 ^ redWidth ty := fitsR u (by simp [hu])
      rw [← List.append_assoc, combined_append_one op ty (by simp [hl]), ih more fits, combined_append_one op ty more,
        combine_assoc int (combined_lt legal hl fitsL) (combined_lt legal more fits) (fitsR v (by simp))]

/-- The values combined, if there are any. -/
def combinedOf (op : RedKind) (ty : RedTy) (l : List Nat) : Option Nat := if l = [] then none else some (combined op ty l)

theorem redJoin_combinedOf (int : ty ≠ .f32) {l r : List Nat} (fitsL : ∀ v ∈ l, v < 2 ^ redWidth ty)
    (fitsR : ∀ v ∈ r, v < 2 ^ redWidth ty) :
    (redJoin op ty (combinedOf op ty l) (combinedOf op ty r)).1 = combinedOf op ty (l ++ r) := by
  have legal := redLegal_of_ne (op := op) int
  unfold combinedOf
  by_cases hl : l = []
  · rw [if_pos hl, hl, List.nil_append]
    rfl
  · by_cases hr : r = []
    · rw [if_pos hr, if_neg hl, hr, List.append_nil, if_neg hl]
      rfl
    · rw [if_neg hl, if_neg hr, if_neg (by simp [hl])]
      simp only [redJoin]
      rw [combined_append int hl hr fitsL fitsR, combine_eq_redOp legal (combined_lt legal hl fitsL) (combined_lt legal hr fitsR)]

/-- A node of the tree over integers is its lanes combined in ascending order. -/
theorem treeNode_combined (int : ty ≠ .f32) {lane : Nat → Option Nat} (fits : ∀ i v, lane i = some v → v < 2 ^ redWidth ty)
    (k i : Nat) : (treeNode op ty lane k i).1 = combinedOf op ty ((List.range' (i * 2 ^ k) (2 ^ k)).filterMap lane) := by
  have legal := redLegal_of_ne (op := op) int
  have all (l : List Nat) (v) (hv : v ∈ l.filterMap lane) : v < 2 ^ redWidth ty := by
    obtain ⟨j, -, hj⟩ := List.mem_filterMap.mp hv
    exact fits j v hj
  induction k generalizing i with
  | zero =>
    simp only [treeNode, pow_zero, mul_one, List.range'_one]
    cases h : lane i with
    | none => simp [combinedOf, h]
    | some v => simp [combinedOf, h, combined]
  | succ k ih =>
    have halves : List.range' (i * 2 ^ (k + 1)) (2 ^ (k + 1)) =
        List.range' (2 * i * 2 ^ k) (2 ^ k) ++ List.range' ((2 * i + 1) * 2 ^ k) (2 ^ k) := by
      rw [show (2 * i + 1) * 2 ^ k = 2 * i * 2 ^ k + 1 * 2 ^ k by ring, List.range'_append,
        show i * 2 ^ (k + 1) = 2 * i * 2 ^ k by ring, show 2 ^ (k + 1) = 2 ^ k + 2 ^ k by ring]
    rw [treeNode_succ legal fits, ih, ih, halves, List.filterMap_append]
    exact redJoin_combinedOf int (all _) (all _)

/-- The tree over integers raises no flag. -/
theorem treeNode_flags (int : ty ≠ .f32) (lane : Nat → Option Nat) (k i : Nat) : (treeNode op ty lane k i).2 = 0 := by
  induction k generalizing i with
  | zero => rfl
  | succ k ih =>
    simp only [treeNode]
    split
    · rw [ih, ih]; rfl
    · rw [ih, ih]; rfl
    · rw [ih, ih, combine_flags int]; rfl

end Combined

/-! ### The participating lanes -/

theorem onesFrom_eq (m : Word) (n i : Nat) : onesFrom m n i = (List.range' i n).filter (fun l => m.getLsbD l) := by
  induction n generalizing i with
  | zero => rfl
  | succ n ih => rw [onesFrom, ih, List.range'_succ, List.filter_cons]

theorem lanes_eq (c : Cx) (g : Guard) :
    c.lanes g = (List.range' 0 32).filter (fun l => c.slot.mask.getLsbD l && c.guardOn g l) := by
  rw [Cx.lanes, Cx.active, ones, onesFrom_eq, List.filter_filter]
  congr 1
  funext l
  exact Bool.and_comm ..

theorem redSrc_lt (c : Cx) (ty : RedTy) (a : Src) (l : Nat) : c.redSrc ty a l < 2 ^ redWidth ty := by
  unfold Cx.redSrc redWidth
  split
  · exact (c.src64 false a l).isLt
  · exact (c.src a l).isLt

/-- The value of a lane that takes part. -/
def redLane (c : Cx) (g : Guard) (ty : RedTy) (a : Src) (l : Nat) : Option Nat :=
  if (c.lanes g).contains l then some (c.redSrc ty a l) else none

theorem redLane_lt (c : Cx) (g : Guard) (ty : RedTy) (a : Src) (i v : Nat) (h : redLane c g ty a i = some v) :
    v < 2 ^ redWidth ty := by
  unfold redLane at h
  split at h
  · exact Option.some.inj h ▸ redSrc_lt c ty a i
  · cases h

theorem filterMap_redLane (c : Cx) (g : Guard) (ty : RedTy) (a : Src) :
    (List.range' 0 32).filterMap (redLane c g ty a) = (c.lanes g).map (c.redSrc ty a) := by
  have there (l) (hl : l ∈ List.range' 0 32) : redLane c g ty a l =
      if (c.slot.mask.getLsbD l && c.guardOn g l) = true then some (c.redSrc ty a l) else none := by
    have : (c.lanes g).contains l = (c.slot.mask.getLsbD l && c.guardOn g l) := by
      rw [Bool.eq_iff_iff, List.contains_iff_mem, lanes_eq, List.mem_filter, and_iff_right hl]
    rw [redLane, this]
  rw [List.filterMap_congr there, lanes_eq]
  induction List.range' 0 32 with
  | nil => rfl
  | cons l rest ih =>
    rw [List.filterMap_cons, List.filter_cons, ih]
    cases c.slot.mask.getLsbD l && c.guardOn g l <;> rfl

/-! ### WRED (R200, R220) -/

/-- The model's tree is that of R200. -/
theorem redTree_root {op : RedKind} {ty : RedTy} (legal : redLegal op ty) {lane : Nat → Option Nat}
    (fits : ∀ i v, lane i = some v → v < 2 ^ redWidth ty) :
    redTree op ty 5 ((List.range 32).map lane) = treeNode op ty lane 5 0 := by
  obtain ⟨value, flags⟩ := redTree_eq legal fits 5 0
  have bottom : flagsOf (2 ^ 5) (fun i => (treeNode op ty lane 0 i).2) = 0 := flagsOf_zero _
  rw [bottom] at flags
  exact Prod.ext value (BitVec.or_zero.symm.trans flags)

/-- What WRED writes. -/
theorem wredEff_eq (o : WredOp) (legal : redLegal o.op o.ty) (c : Cx) :
    let t := treeNode o.op o.ty (redLane c o.guard o.ty o.a) 5 0
    wredEff o c = .write (dstWords (.s o.dst) 0 (valueWords o.ty (t.1.getD (neutral o.op o.ty)))) t.2 := by
  dsimp only
  rw [← redTree_root legal (redLane_lt c o.guard o.ty o.a), ← redIdentity_eq legal]
  rfl

/-- The issue of WRED writes as said, where its kind fits its type. -/
theorem writes_wred (o : WredOp) (legal : redLegal o.op o.ty) {P : Cx → List (Nat × Word) → Word → Prop}
    (h : ∀ c, let t := treeNode o.op o.ty (redLane c o.guard o.ty o.a) 5 0
      P c (dstWords (.s o.dst) 0 (valueWords o.ty (t.1.getD (neutral o.op o.ty)))) t.2) : Writes (.wred o) P :=
  writes_of_write _ _ (wredEff_eq o legal) (fun _ => rfl) h

/-- Over integers the tree is the lanes in ascending order, and raises no flag. -/
theorem wred_ascending (o : WredOp) (int : o.ty ≠ .f32) : Writes (.wred o) (fun c ws fl => fl = 0 ∧
    ws = dstWords (.s o.dst) 0 (valueWords o.ty (combined o.op o.ty ((c.lanes o.guard).map (c.redSrc o.ty o.a))))) := by
  refine writes_wred o (redLegal_of_ne int) fun c => ⟨treeNode_flags int .., ?_⟩
  have tree := treeNode_combined (op := o.op) int (redLane_lt c o.guard o.ty o.a) 5 0
  rw [Nat.zero_mul, show 2 ^ 5 = 32 from rfl, filterMap_redLane] at tree
  rw [tree, combinedOf]
  split
  · rename_i none_
    rw [none_]
    rfl
  · rfl

/-! ### WSCAN (R201, R220) -/

section Scan
variable {op : RedKind} {ty : RedTy} (legal : redLegal op ty) {v : Nat → Nat} (fits : ∀ l, v l < 2 ^ redWidth ty)

/-- The values of the lanes before one. -/
def lanesBefore (lanes : List Nat) (v : Nat → Nat) (l : Nat) : List Nat := (lanes.filter (fun m => decide (m < l))).map v

/-- In ascending lanes those before a lane stand before it. -/
theorem lanesBefore_append {pre rest : List Nat} {l : Nat} (sorted : (pre ++ l :: rest).Pairwise (· < ·)) :
    lanesBefore (pre ++ l :: rest) v l = pre.map v := by
  obtain ⟨-, tail, before⟩ := List.pairwise_append.mp sorted
  have low : pre.filter (fun m => decide (m < l)) = pre :=
    List.filter_eq_self.mpr fun m hm => decide_eq_true (before m hm l List.mem_cons_self)
  have high : (l :: rest).filter (fun m => decide (m < l)) = [] := by
    refine List.filter_eq_nil_iff.mpr fun m hm => ?_
    rw [decide_eq_true_iff, not_lt]
    rcases List.mem_cons.mp hm with rfl | hm
    · exact le_rfl
    · exact (List.rel_of_pairwise_cons tail hm).le
  rw [lanesBefore, List.filter_append, low, high, List.append_nil]

/-- What a lane is given by the inclusive scan, and the flags of its combination. -/
def scanValue (op : RedKind) (ty : RedTy) (lanes : List Nat) (v : Nat → Nat) (l : Nat) : Nat :=
  combined op ty (lanesBefore lanes v l ++ [v l])
def scanFlags (op : RedKind) (ty : RedTy) (lanes : List Nat) (v : Nat → Nat) (l : Nat) : Word :=
  if lanesBefore lanes v l = [] then 0 else (combine op ty (combined op ty (lanesBefore lanes v l)) (v l)).2

/-- A lane's value joins the result before it, if there is one. -/
def scanStep (op : RedKind) (ty : RedTy) (prev : Option Nat) (x : Nat) : Nat × Word :=
  match prev with
  | none => (x, 0)
  | some p => redOp op ty p x

theorem scanFrom_cons (prev : Option Nat) (l x : Nat) (rest : List (Nat × Nat)) : scanFrom op ty prev ((l, x) :: rest) =
    ((l, (scanStep op ty prev x).1) :: (scanFrom op ty (some (scanStep op ty prev x).1) rest).1,
      (scanStep op ty prev x).2 ||| (scanFrom op ty (some (scanStep op ty prev x).1) rest).2) := by
  cases prev <;> rfl

include legal fits in
/-- The scan from some lane on, given the result of those before it. -/
theorem scanFrom_eq (pre rest : List Nat) (sorted : (pre ++ rest).Pairwise (· < ·)) :
    scanFrom op ty (combinedOf op ty (pre.map v)) (rest.map (fun l => (l, v l))) =
      (rest.map (fun l => (l, scanValue op ty (pre ++ rest) v l)),
        rest.foldr (fun l m => scanFlags op ty (pre ++ rest) v l ||| m) 0) := by
  induction rest generalizing pre with
  | nil => rfl
  | cons l rest ih =>
    have before := lanesBefore_append (v := v) sorted
    have step : scanStep op ty (combinedOf op ty (pre.map v)) (v l) =
        (scanValue op ty (pre ++ l :: rest) v l, scanFlags op ty (pre ++ l :: rest) v l) := by
      rw [scanValue, scanFlags, before, combinedOf]
      by_cases none_ : pre.map v = []
      · rw [if_pos none_, if_pos none_, none_]
        rfl
      · have bound : combined op ty (pre.map v) < 2 ^ redWidth ty := combined_lt legal none_ fun u hu => by
          obtain ⟨m, -, rfl⟩ := List.mem_map.mp hu
          exact fits m
        rw [if_neg none_, if_neg none_, combined_append_one op ty none_, combine_eq_redOp legal bound (fits l)]
        rfl
    have next : some (scanValue op ty (pre ++ l :: rest) v l) = combinedOf op ty ((pre ++ [l]).map v) := by
      rw [scanValue, before, combinedOf, if_neg (by simp), List.map_append]
      rfl
    have whole : pre ++ l :: rest = pre ++ [l] ++ rest := by simp
    have tail := ih (pre ++ [l]) (whole ▸ sorted)
    rw [List.map_cons, scanFrom_cons, step, next, tail, ← whole]
    rfl

/-- The exclusive form gives each lane what the one before it has. -/
theorem shiftScan_eq (pre rest : List Nat) (sorted : (pre ++ rest).Pairwise (· < ·)) :
    shiftScan (combined op ty (pre.map v)) (rest.map (fun l => (l, scanValue op ty (pre ++ rest) v l))) =
      rest.map (fun l => (l, combined op ty (lanesBefore (pre ++ rest) v l))) := by
  induction rest generalizing pre with
  | nil => rfl
  | cons l rest ih =>
    have before := lanesBefore_append (v := v) sorted
    have whole : pre ++ l :: rest = pre ++ [l] ++ rest := by simp
    have value : scanValue op ty (pre ++ l :: rest) v l = combined op ty ((pre ++ [l]).map v) := by
      rw [scanValue, before, List.map_append]
      rfl
    have tail := ih (pre ++ [l]) (whole ▸ sorted)
    rw [← whole] at tail
    rw [List.map_cons, shiftScan, value, tail, List.map_cons, before]

end Scan

theorem lanes_sorted (c : Cx) (g : Guard) : (c.lanes g).Pairwise (· < ·) := by
  rw [lanes_eq]
  exact (List.pairwise_lt_range' ..).filter _

/-- What WSCAN writes. -/
theorem wscanEff_eq (o : WscanOp) (legal : redLegal o.op o.ty) (c : Cx) :
    let v := c.redSrc o.ty o.a
    let lanes := c.lanes o.guard
    wscanEff o c = .write
      ((lanes.map (fun l => dstWords (.v o.dst) l (valueWords o.ty
        (combined o.op o.ty (if o.excl then lanesBefore lanes v l else lanesBefore lanes v l ++ [v l]))))).flatten)
      (lanes.foldr (fun l m => scanFlags o.op o.ty lanes v l ||| m) 0) := by
  have scan := scanFrom_eq legal (redSrc_lt c o.ty o.a) [] (c.lanes o.guard) (lanes_sorted c o.guard)
  have shifted := shiftScan_eq (op := o.op) (ty := o.ty) (v := c.redSrc o.ty o.a) [] (c.lanes o.guard) (lanes_sorted c o.guard)
  rw [List.nil_append] at scan shifted
  have first : combinedOf o.op o.ty (([] : List Nat).map (c.redSrc o.ty o.a)) = none := rfl
  rw [first] at scan
  have identity : combined o.op o.ty (([] : List Nat).map (c.redSrc o.ty o.a)) = redIdentity o.op o.ty :=
    (redIdentity_eq legal).symm
  rw [identity] at shifted
  dsimp only
  unfold wscanEff
  dsimp only
  rw [scan]
  cases o.excl with
  | true => simp only [if_true, shifted, List.map_map]; rfl
  | false => simp only [Bool.false_eq_true, if_false, List.map_map]; rfl

/-- Settles O7: the model's levels make the tree of R200; over integers it may be regrouped; the scan by induction over the
lanes. -/
theorem reductionsAndScansCombineLanes : Obligations.ReductionsAndScansCombineLanes := by
  unfold Obligations.ReductionsAndScansCombineLanes
  exact ⟨fun o legal => writes_wred o legal fun _ => ⟨rfl, rfl⟩, wred_ascending,
    fun o legal => writes_of_write _ _ (wscanEff_eq o legal) (fun _ => rfl) fun _ => ⟨rfl, rfl⟩⟩

end Sys2Proof.Machine
end

section
/-! PROOF. O49 fails. It gives the flags of a product as those of its elements of columns 0 to 63, and speaks of every operation,
of one too whose list has an outlier of a column past the tile. `MMAO` refuses such a list at issue (R283), so no unit runs
one; but where one stands in a queue, its unit makes the fused multiply-add all the same, with its flags, and drops the
result. The statement lacks the hypothesis that outliers name columns below 64. -/

namespace Sys2Proof.Machine

open Sys2Proof

/-- A BF16 product of lane 0 with a signalling NaN as an outlier of column 64. -/
def strayOp : MxOp :=
  { id := 90, warp := 4, pc := 0, order := 0, tile := 0, mask := 1, lane := 0, kind := .mma .bf16 0 0x4000 [(0, 64, 0x7F800001)],
    plane := false, spans := [], olds := [], reg := [], started := some 0, ended := none }

/-- The placed program's device, all zero, when the operation's cycles are over. -/
def strayState : State := { placeProgram State.reset [] with mx := [⟨0, strayOp⟩], cycle := 1000, store := Mem.empty }

/-- The unit finishes it, and NV is raised. -/
theorem strayOp_raises : (findWarp? (mxFinish strayState 0 false) 4).map (·.flags) = some flNV := by decide +kernel

/-- Its operand words are zero, and so are its accumulator elements. -/
theorem strayState_store (k : Nat) : strayState.store.word k = good 0 :=
  congrArg (CWord.mk · 0) (show packWord 0 0 0 0 = 0 by decide)

theorem strayState_row : ∀ n < 64, (accRow strayState 0 strayOp.tile 0).getD n 0 = 0 := by decide +kernel

theorem strayOp_reads {rd : Nat → CWord} (reads : ReadsOf strayState strayOp rd) (k : Nat) : rd k = good 0 := by
  rcases reads k with h | h
  · rw [h, strayState_store]
  · exact absurd h List.not_mem_nil

theorem withOutliers_nil (t : MmaTy) (a : List Nat) (v : Nat × Word) : withOutliers t a [] v = v := rfl

/-- So none of its 64 elements has a flag: no outlier is of their columns. -/
theorem strayOp_elements {rd : Nat → CWord} (zero : ∀ k, rd k = good 0) {n : Nat} (hn : n < 64) {v : Nat × Word}
    (h : AccElem rd 0 strayOp 0 n 0 v) : v.2 = 0 := by
  have elem (w a bytes r k : Nat) : tileElem rd 0 false w a bytes r k = 0 := by
    rw [tileElem, zero]
    exact (congrArg (· % 2 ^ w) (Nat.zero_div _)).trans (Nat.zero_mod _)
  have zeros {g : Nat → Nat} (hg : ∀ k, g k = 0) : (List.range 32).map g = List.replicate 32 0 :=
    (List.map_congr_left fun k _ => hg k).trans (by decide)
  have others : ([(0, 64, 0x7F800001)] : List (Nat × Nat × Word)).filter (fun q => q.2.1 == n) = [] :=
    List.filter_eq_nil_iff.mpr fun q hq => by
      rw [List.mem_singleton.mp hq, beq_iff_eq]
      exact hn.ne'
  have product : (dense .bf16 (List.replicate 32 0) (List.replicate 32 0) 0).2 = 0 := by decide +kernel
  have value : v = withOutliers .bf16 ((List.range 32).map (tileElem rd 0 false 16 0 (rowA .bf16) 0))
      (([(0, 64, 0x7F800001)].filter (fun q => q.2.1 == n)).map (fun q => (q.1, q.2.2)))
      (dense .bf16 ((List.range 32).map (tileElem rd 0 false 16 0 (rowA .bf16) 0))
        ((List.range 32).map (fun k => tileElem rd 0 false 16 0x4000 (rowB .bf16) k n)) 0) := h
  rw [others, zeros fun k => elem .., zeros fun k => elem .., List.map_nil, withOutliers_nil] at value
  rw [value, product]

/-- Refutes O49: the product of zeros with that outlier, which leaves NV though no element has a flag. -/
theorem not_matrixUnitsRunTheirQueues : ¬ Obligations.MatrixUnitsRunTheirQueues := by
  unfold Obligations.MatrixUnitsRunTheirQueues
  intro h
  obtain ⟨-, finishes, -⟩ := h
  obtain ⟨t, runs, -, -, -, rd, F, v, reads, found, flags, elements, -⟩ :=
    finishes strayState 0 false ⟨0, strayOp⟩ programWarp (by decide +kernel) (by decide +kernel) (by decide +kernel)
      (by decide +kernel) (by decide +kernel) (by decide +kernel) (by decide +kernel) (by decide +kernel)
  obtain rfl := Host.Outcome.next.inj (show _ = _ from runs)
  have zeros : ∀ n ∈ List.range 64, (F 0 n).2 = 0 := fun n hn => by
    have hn := List.mem_range.mp hn
    have element : AccElem rd 0 strayOp 0 n ((accRow strayState 0 strayOp.tile 0).getD n 0) (F 0 n) :=
      (elements nofun 0 (by decide +kernel) n hn).1
    rw [strayState_row n hn] at element
    exact strayOp_elements (strayOp_reads reads) hn element
  have lane : ones strayOp.mask = [0] := by decide +kernel
  have clear := flags nofun
  simp only [lane, List.foldr_cons, List.foldr_nil, foldr_or_zero zeros] at clear
  have raised := strayOp_raises
  rw [show findWarp? (mxFinish strayState 0 false) 4 = some v from found, Option.map_some, clear] at raised
  exact absurd raised (by decide +kernel)

end Sys2Proof.Machine
end
